-- ==== Sys2Proof/Word.lean ====
section
/-!
DEFINITION. The word types of the M2620: register words of 32 bits and bytes (R8).
-/
namespace Sys2Proof

/-- A register word of BAR0 (R56). -/
abbrev Word := BitVec 32

/-- A byte of a wire format, a table or HBM (R8). -/
abbrev Byte := BitVec 8

end Sys2Proof
end

