-- ==== Sys2Proof/Machine/Fields.lean ====
section
/-!
DEFINITION. The shape of the register space: the blocks and pages of R55, a field as a place in BAR0 with the value
it holds after reset, the access codes of R9, and the store that holds every field that differs from its reset value.
-/
namespace Sys2Proof.Machine

/-- The blocks of R55. -/
inductive Block where
  | glb | rck | lcy | ink | tim | net | fab | hst | ing | exp | srv | cor | ras | cmp | alc | pak | qlk | ary | mot
  | mem | dma | chk | led
  deriving DecidableEq, Repr

/-- One register page: a block and an instance number (R55). -/
structure Page where
  block : Block
  inst  : Nat
  deriving DecidableEq, Repr

/-- The base of a block in BAR0 (R55). -/
def Block.base : Block → Nat
  | .glb => 0x0 | .rck => 0x10000 | .lcy => 0x20000 | .ink => 0x30000 | .tim => 0x40000 | .net => 0x50000
  | .fab => 0x60000 | .hst => 0x70000 | .ing => 0x100000 | .exp => 0x110000 | .srv => 0x120000 | .cor => 0x130000
  | .ras => 0x140000 | .cmp => 0x150000 | .alc => 0x160000 | .pak => 0x170000 | .qlk => 0x200000 | .ary => 0x300000
  | .mot => 0x310000 | .mem => 0x400000 | .dma => 0x500000 | .chk => 0x600000 | .led => 0x700000

/-- The number of pages of a block, PAGE_CAPS.INSTANCES (R55). -/
def Block.instances : Block → Nat
  | .net => 2 | .exp => 8 | .ras => 52 | .qlk => 80 | .mem => 4 | .dma => 32 | .chk => 8
  | _ => 1

/-- The size of a page: 4 KiB, but 1 KiB for RAS (R55). -/
def Block.pageSize : Block → Nat
  | .ras => 0x400
  | _ => 0x1000

/-- The block code of R55, PAGE_ID.BLOCK. -/
def Block.code : Block → Nat
  | .glb => 0x0 | .rck => 0x1 | .lcy => 0x2 | .ink => 0x3 | .tim => 0x4 | .net => 0x5 | .fab => 0x6 | .hst => 0x7
  | .ing => 0x10 | .exp => 0x11 | .srv => 0x12 | .cor => 0x13 | .ras => 0x14 | .cmp => 0x15 | .alc => 0x16
  | .pak => 0x17 | .qlk => 0x20 | .ary => 0x30 | .mot => 0x31 | .mem => 0x40 | .dma => 0x50 | .chk => 0x60
  | .led => 0x70

/-- The number of block-specific EVT_RAW bits (R67): R82, R148, R149, R179, R180, R204, R205, R230, R276, R303, R304,
R320, R345, R365, R377, R399, R400, R420, R435, R447, R448, R478, R521. -/
def Block.evtBits : Block → Nat
  | .glb => 6 | .rck => 8 | .lcy => 4 | .ink => 2 | .tim => 3 | .net => 8 | .fab => 11 | .hst => 3 | .ing => 11
  | .exp => 2 | .srv => 10 | .cor => 4 | .ras => 3 | .cmp => 8 | .alc => 10 | .pak => 10 | .qlk => 4 | .ary => 10
  | .mot => 18 | .mem => 16 | .dma => 7 | .chk => 3 | .led => 6

/-- The number of block-specific FAULT_STAT bits (R68): the same rules as `Block.evtBits`, and R454. -/
def Block.faultBits : Block → Nat
  | .glb => 1 | .rck => 6 | .lcy => 2 | .ink => 0 | .tim => 1 | .net => 1 | .fab => 5 | .hst => 0 | .ing => 1
  | .exp => 1 | .srv => 1 | .cor => 1 | .ras => 1 | .cmp => 2 | .alc => 2 | .pak => 4 | .qlk => 1 | .ary => 2
  | .mot => 7 | .mem => 3 | .dma => 1 | .chk => 1 | .led => 2

/-- The base address of a page (R55). -/
def Page.base (p : Page) : Nat := p.block.base + p.block.pageSize * p.inst

/-- The page record order of R81: every page in BAR0 address order. -/
def Block.order : List Block :=
  [.glb, .rck, .lcy, .ink, .tim, .net, .fab, .hst, .ing, .exp, .srv, .cor, .ras, .cmp, .alc, .pak, .qlk, .ary, .mot,
   .mem, .dma, .chk, .led]

/-- The pages of one block, in order. -/
def Block.pages (b : Block) : List Page := (List.range b.instances).map fun n => ⟨b, n⟩

/-- The 202 pages in page-record order (R81). -/
def allPages : List Page := Block.order.flatMap Block.pages

/-- The access codes of R9 (no register of the spec uses RC). -/
inductive Access where
  | rw | ro | wo | w1c | w1s | rwl
  deriving DecidableEq, Repr

/-- One field of one register: its byte address in BAR0, its lowest bit, its width and the value it holds after the
reset that clears its page. -/
structure Fld where
  addr  : Nat
  lo    : Nat
  width : Nat
  reset : Nat
  deriving DecidableEq, Repr

/-- The key of a field in the store: fields of different registers or bit places have different keys. -/
def Fld.key (f : Fld) : Nat := f.addr * 32 + f.lo

/-- The reset value of a field whose register exists several times (n the page instance, i the array index). -/
inductive ResetKind where
  | const (v : Nat) | twoI | twoIPlus1 | pcState | pcLogical | chkOwner
  deriving DecidableEq, Repr

/-- The reset value that a kind gives (R179, R345, R377). -/
def ResetKind.val (k : ResetKind) (n i : Nat) : Nat :=
  match k with
  | .const v => v
  | .twoI => 2 * i
  | .twoIPlus1 => 2 * i + 1
  | .pcState => if i < 30 then 0 else 1
  | .pcLogical => if i < 30 then 30 * n + i else 0x7F
  | .chkOwner => if n < 6 then 0 else 1

/-- One row of a register table: place, access code, reset value, whether the block chapter marks it lockable, the
ranges of values that are not reserved (none listed: every value is allowed) and, where some bits inside the field are
reserved, the mask of the bits that exist. -/
structure FieldDef where
  lo    : Nat
  width : Nat
  acc   : Access
  reset : ResetKind
  lock  : Bool
  legal : List (Nat × Nat)
  mask  : Option Nat
  deriving DecidableEq, Repr

/-- One register of a block's table: its name, its offset, how often it repeats and at what stride, whether it exists
in instance 0 only (R346), and its fields. -/
structure RegDef where
  name   : String
  off    : Nat
  count  : Nat
  stride : Nat
  only0  : Bool
  fields : List FieldDef
  deriving DecidableEq, Repr

/-- A field's place in the register at an address of a page (n the page instance, i the array index). -/
def FieldDef.at (d : FieldDef) (addr n i : Nat) : Fld := ⟨addr, d.lo, d.width, d.reset.val n i⟩

/-- A written value is allowed in a field (R66). -/
def FieldDef.allows (d : FieldDef) (v : Nat) : Bool :=
  d.legal.isEmpty || d.legal.any fun r => r.1 ≤ v && v ≤ r.2

/-- The store of fields: (key, value) pairs with strictly rising keys, listing only fields that differ from their
reset values. -/
abbrev FieldStore := List (Nat × Nat)

/-- The value listed for a key. -/
def FieldStore.find (k : Nat) : FieldStore → Option Nat
  | [] => none
  | (a, v) :: t => if a = k then some v else FieldStore.find k t

/-- List a value for a key, keeping the keys rising. -/
def FieldStore.put (k v : Nat) : FieldStore → FieldStore
  | [] => [(k, v)]
  | (a, w) :: t => if k < a then (k, v) :: (a, w) :: t else if a = k then (k, v) :: t else (a, w) :: FieldStore.put k v t

/-- Remove a key. -/
def FieldStore.drop (k : Nat) : FieldStore → FieldStore
  | [] => []
  | (a, w) :: t => if a = k then FieldStore.drop k t else (a, w) :: FieldStore.drop k t

/-- The value a field holds: never wider than the field. -/
def FieldStore.get (r : FieldStore) (f : Fld) : Nat :=
  match FieldStore.find f.key r with
  | some v => v % 2 ^ f.width
  | none => f.reset

/-- Give a field a value, cut to its width. -/
def FieldStore.set (r : FieldStore) (f : Fld) (v : Nat) : FieldStore :=
  if v % 2 ^ f.width = f.reset then FieldStore.drop f.key r else FieldStore.put f.key (v % 2 ^ f.width) r

/-- Return to its reset value every field whose address satisfies a test. -/
def FieldStore.clear (r : FieldStore) (p : Nat → Bool) : FieldStore := r.filter fun e => !p (e.1 / 32)

/-- The keys rise strictly. -/
def FieldStore.wf (r : FieldStore) : Bool := (r.map Prod.fst).Pairwise (· < ·)

end Sys2Proof.Machine
end

