-- ==== Sys2Proof/Syntax.lean ====
section
/-!
DEFINITION. The commands of the M2620: one constructor for each row of the opcode table, with the operands that a
sender or the surroundings supply. A time operand is a time value of R378, in 1/16 ns.
-/
namespace Sys2Proof

open Sys2Proof.Machine (Page)

/-- Who sends a register access (R69): the host over PCI Express, the innkeeper firmware, or the service console. -/
inductive Agent where
  | host | innkeeper | console
  deriving DecidableEq, Repr

/-- What the surroundings do to the allocator's on-die state in one tick (R225, R226). -/
inductive AlcUpset where
  /-- Nothing. -/
  | none
  /-- The two copies disagree, and then agree. -/
  | mismatch
  /-- The two copies disagree twice. -/
  | mismatchTwice
  /-- A word that is uncorrectable in one copy is restored from the other. -/
  | restored
  /-- A carry or window-sum word is uncorrectable in both copies. -/
  | stateLost
  /-- A plan word is uncorrectable in both copies. -/
  | planLost
  deriving DecidableEq, Repr


/-- What the surroundings do to an engine's record of a tile (R168). -/
inductive TileUpset where
  /-- Nothing. -/
  | none
  /-- Word number `word` differs: the first engine's word is XORed with `a`, the second's with `b`. -/
  | value (word : Nat) (a b : BitVec 32)
  /-- From word `word` on one engine is a clock late; the words may differ as well. -/
  | timing (word : Nat) (a b : BitVec 32)
  /-- An engine read an uncorrectable word before it could emit word `word`. -/
  | poison (word : Nat)
  deriving DecidableEq, Repr

/-- What the surroundings do to a DATA frame as the packer makes it (R291). -/
inductive FrameUpset where
  /-- Nothing. -/
  | none
  /-- The CRCs computed from the two allocator copies differ. -/
  | mismatch
  deriving DecidableEq, Repr

/-- What answers a request of a DMA channel (R351, R359, R360). -/
inductive DmaResp where
  /-- A completion from the host: its data, and whether it carries the EP bit. -/
  | completion (data : List Byte) (ep : Bool)
  /-- A completion with Unsupported Request or Completer Abort status. -/
  | failed
  /-- HBM or a table window has answered. -/
  | memory
  deriving DecidableEq, Repr

/-- The fields of the endpoint's configuration space that the module acts on (R60, R351, R359): Bus Master Enable, the
maximum payload size and the maximum read request size in bytes. -/
structure ConfigWrite where
  busMaster : Bool
  payload   : Nat
  readReq   : Nat
  deriving DecidableEq, Repr

/-- What the detector sees of one pulse of an alignment run (R488): the sums of its samples over the dark, full and split
windows with their counts, and the stamp of the split window's first sample in 1/16 ns. -/
structure AlnPulse where
  dark   : Int
  darkN  : Nat
  full   : Int
  fullN  : Nat
  split  : Int
  splitN : Nat
  start  : Int
  deriving DecidableEq, Repr

/-- A word that crosses between islands (R450), or words discarded because an island of the crossing entered reset (R18). -/
inductive Crossing where
  /-- List pages or references for the engines of a pair. -/
  | lists (pair : Nat)
  /-- The oldest agreed tile, from raster to correction. -/
  | tile
  /-- A corrected code word, to a memory controller. -/
  | corrected (word : Nat)
  /-- A stripe-buffer read of segment j of the current stripe, to the allocator. -/
  | allocRead (j : Nat)
  /-- Frame characters of a physical lane, to its transmit quad. -/
  | lane (n : Nat)
  /-- The committed phase edge, to the packer. -/
  | edge
  /-- A position sample, to the tick-timing island. -/
  | sample
  /-- An echo or status frame, to the packer. -/
  | echo
  /-- Words accepted and not delivered, at a crossing into the block of a page. -/
  | emptied (page : Page) (words : Nat)
  deriving DecidableEq, Repr

/-- The commands. -/
inductive Instr where
  /-- REGISTER_WRITE (R9). A host, innkeeper or console write to a register that has no row of its own lands field by field, subject to the access codes, locking and reserved values. -/
  | registerWrite (agent : Agent) (addr : BitVec 26) (value : Word) (enables : BitVec 4)
  /-- LO_REGISTER_READ_CAPTURE (R382). A read of a _LO register of a capturing pair returns it and captures the matching _HI register from the same clock. -/
  | loRegisterReadCapture (agent : Agent) (addr : BitVec 26)
  /-- BAR2_READ (R58). A host read through BAR2 is served from HBM, or returns all ones if BAR2 is closed, or a poisoned completion if it meets poison. -/
  | bar2Read (offset : BitVec 34) (len : BitVec 12)
  /-- BAR2_WRITE (R58). A host write through BAR2 lands in HBM unless BAR2 is closed or the code word is protected, with narrow writes done as read-modify-write. -/
  | bar2Write (offset : BitVec 34) (data : List Byte) (ep : Bool)
  /-- CONFIGURATION_REQUEST (R431). A PCI Express configuration request is answered, with Retry Status until the GLB page leaves reset. -/
  | configurationRequest (write : Option ConfigWrite)
  /-- MSIX_VECTOR_UNMASK (R72). Unmasking an MSI-X vector with its pending bit set sends one message. -/
  | msixVectorUnmask (agent : Agent) (vector : BitVec 7)
  /-- EVT_RAW_CLEAR (R67). A W1C write of EVT_RAW clears the written bits unless hardware sets them in the same cycle. -/
  | evtRawClear (agent : Agent) (page : Page) (value : Word)
  /-- EVT_MASK_WRITE (R72). A write of EVT_MASK enables event bits and generates a message for each bit enabled over a raised EVT_RAW bit. -/
  | evtMaskWrite (agent : Agent) (page : Page) (value : Word)
  /-- EVT_ROUTE_WRITE (R72). A change of EVT_ROUTE moves an asserted page event to its new device event in the next cycle. -/
  | evtRouteWrite (agent : Agent) (page : Page) (value : Word)
  /-- FAULT_STAT_CLEAR (R68). A write of 1 to a FAULT_STAT bit clears it only if its cause is no longer present. -/
  | faultStatClear (agent : Agent) (page : Page) (value : Word)
  /-- FAULT_INJ_ARM (R68). A write of FAULT_INJ.ARM arms one injection that inverts check bits at the next access to the target. -/
  | faultInjArm (agent : Agent) (page : Page) (value : Word)
  /-- PAGE_LOCK_WRITE (R65). A write of PAGE_LOCK sets or clears LOCK and sets HOLD, making lockable fields RWL while the page runs. -/
  | pageLockWrite (agent : Agent) (page : Page) (value : Word)
  /-- RESET_REQ (R63). A write of PAGE_CTRL.RESET_REQ asserts a block reset of the page for 1 µs. -/
  | resetReq (agent : Agent) (page : Page)
  /-- BLOCK_RESET_RELEASE (R63). After its 1 µs hold a requested block reset is released and the page goes from RESET to RELEASING. -/
  | blockResetRelease (page : Page)
  /-- PAGE_ENABLE (R64). A write of PAGE_CTRL.ENABLE starts, pends or stops a page as its state allows. -/
  | pageEnable (agent : Agent) (page : Page) (value : Bool)
  /-- PAGE_QUIESCE (R63). A write of PAGE_CTRL.QUIESCE makes the page finish work in hand and accept no new work, or accept work again. -/
  | pageQuiesce (agent : Agent) (page : Page) (value : Bool)
  /-- ISLAND_LOCK_HELD (R63). Once the island PLL has held lock for 20 µs, a RELEASING page goes to OFF or, with PEND_EN, to IDLE. -/
  | islandLockHeld (island : Nat)
  /-- LOCK_TIMEOUT (R63). A page still RELEASING 1 ms after release returns to RESET and sets EVT_RAW[30]. -/
  | lockTimeout (page : Page)
  /-- QUIESCE_COMPLETE (R63). When a QUIESCING page completes its work in hand it becomes QUIESCED. -/
  | quiesceComplete (page : Page)
  /-- SHUTDOWN_COMPLETE (R63). When a STOPPING page completes its shut-down it becomes OFF, or IDLE if an enable is pending. -/
  | shutdownComplete (page : Page)
  /-- CROSSING_WORD_DELIVER (R18). A word crosses between islands and is checked by the receiving island. -/
  | crossingWordDeliver (kind : Crossing) (good : Bool)
  /-- RECKON_REQ (R76). A write of GLB_RECKON.REQ starts assembly, queues a request, or merges it with the queued one. -/
  | reckonReq (agent : Agent)
  /-- RECKONING_CAPTURE (R78). The capture point is reached at a tick boundary within 2 µs or at the end of 2 µs, and every page captures its fields. -/
  | reckoningCapture (tick : Bool)
  /-- RECKONING_COMPLETE (R79). The last byte of a summary is written into the free slot, SLOT, LAST_SEQ and GLB EVT_RAW[2] change and any queued request begins. -/
  | reckoningComplete
  /-- RING (R84). A write of INK_DOORBELL.RING submits the mailbox command, or is ignored with INK EVT_RAW[1] while busy, done or down. -/
  | ringDoorbell (agent : Agent)
  /-- UNKNOWN_OPERATION (R85). A mailbox command with an operation code that is not listed completes with RESULT 0x01. -/
  | unknownOperation
  /-- IDENTITY (R85). Mailbox operation 0x0001 returns the EEPROM contents and whether it was accepted. -/
  | identity
  /-- FIRMWARE_VERSION (R85). Mailbox operation 0x0002 returns the firmware version and the active slot. -/
  | firmwareVersion
  /-- PERSISTENT_STORE_READ (R439). Mailbox operation 0x0010 returns bytes of the persistent store user area from the image. -/
  | persistentStoreRead
  /-- PERSISTENT_STORE_WRITE (R439). Mailbox operation 0x0011 writes bytes of the user area into the image and optionally commits it. -/
  | persistentStoreWrite
  /-- LIFE_CYCLE_REQUEST (R444). Mailbox operation 0x0020 checks a life-cycle transition request and, if accepted, enters WIPING. -/
  | lifeCycleRequest
  /-- FIRMWARE_STAGE (R463). Mailbox operation 0x0030 checks a firmware image, writes it to the inactive slot and verifies it. -/
  | firmwareStage (signed : Bool) (version security : Word) (verified : Bool)
  /-- FIRMWARE_COMMIT (R463). Mailbox operation 0x0031 selects the staged slot, restarting the innkeeper into it now or later. -/
  | firmwareCommit
  /-- CALIBRATION_SAVE (R494). Mailbox operation 0x0040 writes the calibration image to HBM. -/
  | calibrationSave
  /-- CALIBRATION_RESTORE (R496). Mailbox operation 0x0041 checks a calibration image and applies its selected sections. -/
  | calibrationRestore
  /-- DELIVERY_START (R118). A write of ING_LOAD.START opens a figure-stream delivery into an empty handle from one source, capturing HANDLE and SOURCE. -/
  | deliveryStart (agent : Agent) (handle : BitVec 4) (source : BitVec 2)
  /-- REPAIR_START (R146). A write of ING_LOAD.START with REPAIR = 1 opens a repair delivery for a damaged block, suspending any stream being received. -/
  | repairStart (agent : Agent) (handle : BitVec 4) (source : BitVec 2)
  /-- DELIVERY_ABORT (R121). A write of ING_LOAD.ABORT ends the delivery or repair, discards its data, releases the handle and sets ING EVT_RAW[10]. -/
  | deliveryAbort (agent : Agent)
  /-- INGEST_TRANSFER (R119). A transfer into ingest is taken only from the captured source and handle at the resume offset, otherwise discarded and counted. -/
  | ingestTransfer (source handle ofs : Nat) (bytes : List Byte)
  /-- BLOCK_RECEIVED (R113). A check block is judged whole by locating its CHECK record and verifying CRC and BLOCK_SEQ. -/
  | blockReceived
  /-- BLOCK_INTERPRETED (R115). A passed block is interpreted record by record and written to the layout store. -/
  | blockInterpreted
  /-- STAGING_BUFFER_FREE (R120). A staging buffer frees after interpretation, and credits and stalled DMA writes resume. -/
  | stagingBufferFree
  /-- FREE (R124). A write of ING_FREE.FREE releases a layout handle and its space, or is refused while it is in use. -/
  | freeLayout (agent : Agent) (handle : BitVec 4)
  /-- LAYOUT_SPACE_RELEASED (R124). The freed handle's space appears in ING_LS_FREE within 1 ms. -/
  | layoutSpaceReleased
  /-- POST (R126). A write of ING_WB_CTRL.POST copies the staging words into the waybill queue, or is discarded if the queue is full or stopped. -/
  | post (agent : Agent)
  /-- WAYBILL_RESUME (R128). A write of ING_WB_CTRL.RESUME clears STOPPED. -/
  | waybillResume (agent : Agent)
  /-- FLUSH (R128). A write of ING_WB_CTRL.FLUSH removes every unarmed waybill and clears STOPPED. -/
  | flush (agent : Agent)
  /-- WAYBILL_ARM (R127). Whenever fewer than two waybills are armed, the head waybill is checked in order and armed, held or refused. -/
  | waybillArm (lostBeam : Option Nat)
  /-- STRIPE_COMPLETE (R129). When the allocator has read the last pixel of the last segment, the waybill is removed and the next armed stripe made current. -/
  | stripeComplete
  /-- EXPANDER_DISPATCH (R132). An idle expander is given the first work in the dispatch order, taking a traveller for a new segment. -/
  | expanderDispatch (n : Nat) (upset : Bool)
  /-- LIST_POOL_WAIT_END (R138). An expander waiting for list pages continues when pages become free. -/
  | listPoolWaitEnd (n : Nat)
  /-- BAND_LIST_COMPLETE (R131). An expander completes a band's list and the traveller goes to LISTED or RASTER. -/
  | bandListComplete (n clocks : Nat) (mismatch : Bool)
  /-- SLOT_ASSIGN (R131). A listed traveller takes a free stripe-buffer slot and goes to RASTER. -/
  | slotAssign
  /-- INDEX_REBUILD_COMPLETE (R145). The rebuild of damaged index entries ends and waiting bands return to dispatch. -/
  | indexRebuildComplete (handle : BitVec 4)
  /-- BAND_CORRECTED (R131). All tiles of a band are corrected into the slot; the band's pages are released and a finished segment becomes BUFFERED or is recomputed. -/
  | bandCorrected (trav : Nat)
  /-- TRAVELLER_RELEASE (R131). A DRAINING traveller whose last pixel is read, last tick launched and SEG record staged returns to FREE and releases its slot. -/
  | travellerRelease (trav : Nat)
  /-- RCMP_REQ (R144). A write of ING_RCMP_REQ.REQ requests recomputation of a segment of the current or next stripe. -/
  | rcmpReq (agent : Agent) (next : Bool) (seg : BitVec 24)
  /-- BINNER_RUN (R161). The binner reads a band's list once for a run of tile rows and writes tile references. -/
  | binnerRun (mismatch : Bool)
  /-- REFERENCE_STORE_FREE (R161). A binner waiting for a full reference store continues when references are released. -/
  | referenceStoreFree
  /-- TILE_DISPATCH (R166). An idle pair or voter is given the first tile in the dispatch order. -/
  | tileDispatch
  /-- TILE_RECORD_COMPARE (R168). The two records of a pair are compared word by word and the tile is agreed or found mismatched. -/
  | tileRecordCompare (p : Nat) (upset : TileUpset)
  /-- TILE_STALL (R168). A pair that holds a tile for 16,777,216 clocks without emitting a word ends it with a STALL mismatch. -/
  | tileStall (p : Nat)
  /-- STAGING_POOL_FREE (R169). A pair stalled at emit for a full staging pool continues when space frees. -/
  | stagingPoolFree (p : Nat)
  /-- VOTE_RESOLVED (R171). The voter's record is compared with both stored records and a winner, or no majority, is decided. -/
  | voteResolved (vote : Nat) (upset : TileUpset)
  /-- STRIKE_DECAY (R172). Every 2^WINDOW_LOG tiles completed by an engine its strike level falls by 1. -/
  | strikeDecay (n : Nat)
  /-- PAIR_REFORM (R173). A pair waiting for a spare takes one when a vote closes, or is taken out of service. -/
  | pairReform (p : Nat)
  /-- REJOIN (R176). A write of RAS_n_CTRL.REJOIN resets a retired engine and prepares it to return to the pool. -/
  | rejoin (agent : Agent) (n : Nat)
  /-- TILE_CORRECT (R200). An agreed tile is corrected against the dose-factor map and written into the segment's slot. -/
  | tileCorrect (fail : Option Nat) (clock : Nat)
  /-- KERNEL_WINDOW_WRITE (R186). A write into the kernel window lands or is discarded while SRV or COR runs. -/
  | kernelWindowWrite (agent : Agent) (ofs : BitVec 16) (value : Word)
  /-- DOSE_CLASS_TABLE_WRITE (R198). A write of the dose-class table lands or is discarded while COR runs. -/
  | doseClassTableWrite (agent : Agent) (c : BitVec 8) (value : Word)
  /-- SURVEY_START (R191). SRV_CTRL.START with MODE survey checks the conditions and starts a survey of the handle. -/
  | surveyStart (agent : Agent) (handle : BitVec 4) (sr : Bool)
  /-- COST_WALK_START (R191). SRV_CTRL.START with MODE cost walk starts a walk that writes cost records only. -/
  | costWalkStart (agent : Agent) (handle : BitVec 4) (sr : Bool)
  /-- HOST_MAP_COMMIT (R197). SRV_CTRL.START with MODE host-map commit protects the host's map and checks its CRC. -/
  | hostMapCommit (agent : Agent) (handle : BitVec 4) (sr : Bool)
  /-- HOST_MAP_RECHECK (R203). SRV_CTRL.START with MODE host-map re-check checks the CRC of a damaged host map after rewrite. -/
  | hostMapRecheck (agent : Agent) (handle : BitVec 4) (sr : Bool)
  /-- SRV_ABORT (R194). A write of SRV_CTRL.ABORT ends the SRV operation and sets the map to NONE. -/
  | srvAbort (agent : Agent)
  /-- SURVEY_SEGMENT_WALKED (R184). The survey unit accumulates one segment's density and writes its cost record. -/
  | surveySegmentWalked (n clocks : Nat) (mismatch : Bool)
  /-- WALK_COMPLETE (R192). The last segment of the survey is walked, SRV EVT_RAW[1] is set and FOG begins. -/
  | walkComplete
  /-- COST_WALK_COMPLETE (R193). A cost walk ends and SRV EVT_RAW[3] is set. -/
  | costWalkComplete
  /-- FOG_COMPLETE (R188). The fog grid F is written and SWEEP begins. -/
  | fogComplete (fail : Option Nat) (clock : Nat)
  /-- SWEEP_COLUMN (R189). A cell column's final factors are written over its density and COLS advances. -/
  | sweepColumn (fail : Option Nat) (clock : Nat)
  /-- MAP_COMPLETE (R192). The map CRC is written, STATE becomes COMPLETE and SRV EVT_RAW[2] is set. -/
  | mapComplete
  /-- HOST_MAP_CHECK_COMPLETE (R197). The CRC of a host map is computed and the map becomes HOST or NONE. -/
  | hostMapCheckComplete
  /-- MAP_REPAIR_COMPLETE (R203). A map repair rewrites the damaged cells and sets SRV EVT_RAW[7]. -/
  | mapRepairComplete
  /-- ITINERARY_WRITE (R209). A write into an itinerary lands, or is discarded while an armed waybill names it. -/
  | itineraryWrite (agent : Agent) (itin row : Nat) (value : Word)
  /-- BEAM_TABLE_WRITE (R213). A write of a beam-table entry lands in the staging bank while it is writable, otherwise is discarded. -/
  | beamTableWrite (agent : Agent) (beam : Nat) (word0 word1 : Option Word)
  /-- SWAP (R214). A write of ALC_BT_CTRL.SWAP sets SWAP_PEND, is merged or is discarded. -/
  | swap (agent : Agent)
  /-- CANCEL (R214). A write of ALC_BT_CTRL.CANCEL clears SWAP_PEND. -/
  | cancel (agent : Agent)
  /-- BANK_COPY_COMPLETE (R214). The copy of the active bank into the former active bank ends and ALC EVT_RAW[8] is set. -/
  | bankCopyComplete
  /-- ALC_GEOM_WRITE (R23). A write of SLOTS or KLOG recomputes SLOTS_SET and clips it, raising the configuration event. -/
  | alcGeomWrite (agent : Agent) (value : Word)
  /-- TICK_COMPUTE (R217). The allocator computes the codes of one tick from the held state once its data is valid and room exists. -/
  | tickCompute (upset : AlcUpset)
  /-- PLAN_REBUILD (R226). Plan words lost in both copies are rebuilt from the itinerary and bank within 100 µs. -/
  | planRebuild
  /-- ALLOCATOR_RESET_ABANDON (R525). After an ALC or allocation-island reset the current stripe is abandoned and the second armed waybill removed. -/
  | allocatorResetAbandon
  /-- POSITION_SAMPLE (R235). A position frame is checked, compared across lanes and accepted or discarded, updating the estimate, triggers and deflection. -/
  | positionSample (lane : Nat) (arrival dtxAt : Int) (frame : List Byte)
  /-- DEFLECTION_WORD_TIMEOUT (R247). If no sample is accepted within 60 ns of the last word, a word is launched from the estimate. -/
  | deflectionWordTimeout (now : Int)
  /-- MOTION_LANE_LOCK_CHANGE (R231). A motion receive lane gains or loses lock and MOT EVT_RAW[7] is set. -/
  | motionLaneLockChange (lane : Nat) (locked : Bool)
  /-- HOLDOVER (R237). No sample accepted 75 ns after the expected arrival moves the position state from VALID to HOLDOVER. -/
  | holdover (now : Int)
  /-- EDGE_COMMIT (R241). 16 ns before the predicted crossing the edge of a tick is committed, if its data and acknowledgements allow. -/
  | edgeCommit (now : Int)
  /-- TICK_EDGE_LAUNCH (R243). The phase-0 edge of a tick is launched, time-stamped and handed to the packer. -/
  | tickEdgeLaunch
  /-- PHASE_EDGE (R243). The edge of rotation phase φ of a tick is placed and handed to the packer. -/
  | phaseEdge
  /-- SETPOINT_FRAME (R245). Every 1 µs the profile generator advances each axis one step and a setpoint or hold frame is sent. -/
  | setpointFrame
  /-- GO (R257). A write of MOT_MOVE_CTRL.GO starts a host move or replaces its target, or is refused. -/
  | goMove (agent : Agent)
  /-- RUNUP_START (R260). When the dwell conditions hold at the run-up point, suppression ends and the run-up begins. -/
  | runupStart
  /-- GAP_MAX_EXPIRY (R260). After GAP_MAX ms of dwell every gap request is released. -/
  | gapMaxExpiry
  /-- STOP (R270). A write of MOT_HALT_CTRL.STOP requests a stop with reason HOST. -/
  | stop (agent : Agent)
  /-- RESUME (R270). A write of MOT_HALT_CTRL.RESUME clears each software halt reason whose condition has ended. -/
  | resume (agent : Agent)
  /-- ABANDON (R274). A write of MOT_HALT_CTRL.ABANDON abandons the stripe at once in WAITING or requests a halt to do so. -/
  | abandon (agent : Agent)
  /-- HALT_RESUME (R272). A halted stripe in WAITING resumes when no reason is held, position is VALID and tick h is computed. -/
  | haltResume
  /-- ARRAY_TEMP_REPORT (R311). An array temperature report updates ARY_TEMP and MOT_TEMP, restarts the staleness timer and recomputes v_therm. -/
  | arrayTempReport (src : Nat) (temp : BitVec 16)
  /-- TEMPERATURE_REPORT_STALE (R267). No temperature report for STALE ms while a stripe is current sets TEMP_STALE and requests a THERM halt. -/
  | temperatureReportStale
  /-- PLAN_RECOMPUTE (R264). Within 1 ms of a change of pairs, slices or expanders in service the planner computes a new envelope. -/
  | planRecompute
  /-- MOT_RESET_ABANDON (R526). On release after a MOT or tick-timing reset every armed waybill is abandoned. -/
  | motResetAbandon
  /-- QLINK_FRAME_SEND (R281). The packer completes sending a DATA, BLANK or TRAIN frame on a lane. -/
  | qlinkFrameSend (n : Nat) (upset : FrameUpset)
  /-- TICK_MARKER (R286). A tick marker is sent on every data lane so that the phase-0 edge reaches the array at its aimed time. -/
  | tickMarker (stamp : BitVec 64)
  /-- LANE_MAP_SET (R299). A lane-map set is sent on every data and standby lane at least every 65,536 characters and twice after a change. -/
  | laneMapSet (n : Nat)
  /-- ECHO_FRAME (R293). A return echo frame acknowledges frames, or gives negative echoes that cause resends. -/
  | echoFrame (m : Nat) (frame : List Byte)
  /-- STATUS_FRAME (R294). A return status frame updates array alive, temperature, lock, inversion, error and lane tables. -/
  | statusFrame (m : Nat) (frame : List Byte)
  /-- ECHO_TIMEOUT (R290). A frame not acknowledged within ECHO_TO is resent, and a lane fails at RESEND_LIM. -/
  | echoTimeout (n alive : Nat)
  /-- ARRAY_DEAD (R294). The array alive counter not advancing for 10 µs sets ARRAY_DEAD. -/
  | arrayDead
  /-- RETURN_LANE_LOCK_CHANGE (R295). A return lane gains or loses lock, and RETURN_LOST is set while both lanes of a parity are unlocked. -/
  | returnLaneLockChange (m : Nat) (locked : Bool)
  /-- RETURN_LANE_POLARITY_FLIP (R295). A return lane not locked for 100 µs has its receive polarity inverted. -/
  | returnLanePolarityFlip (m : Nat)
  /-- PAK_RETRAIN (R297). A write of PAK_CTRL.RETRAIN with no stripe armed returns the link to BLANK. -/
  | pakRetrain (agent : Agent)
  /-- PAK_MODE_CHANGE (R297). A change of PAK_CFG.MODE restarts bring-up or takes the link DOWN. -/
  | pakModeChange (agent : Agent) (mode : BitVec 2)
  /-- TRAIN_PHASE_COMPLETE (R298). The TRAIN phase ends and the data and standby lanes are selected. -/
  | trainPhaseComplete
  /-- BRINGUP_TIMEOUT (R297). 10 ms in BLANK, TRAIN or MAP fails the bring-up. -/
  | bringupTimeout
  /-- QLK_RETRAIN (R301). A write of QLK_n_CTRL.RETRAIN trains one failed or off lane while the others write. -/
  | qlkRetrain (agent : Agent) (n : Nat)
  /-- LANE_RETRAIN_COMPLETE (R301). A single-lane retrain ends and the lane becomes STANDBY or stays FAILED. -/
  | laneRetrainComplete (n : Nat)
  /-- LOAD (R309). A write of ARY_PASS_CTRL.LOAD asks the innkeeper to load the passport into the staging bank. -/
  | loadPassport (agent : Agent)
  /-- PASSPORT_LOAD_COMPLETE (R309). The passport load ends with RESULT and ARY EVT_RAW[0] or [1]. -/
  | passportLoadComplete (image : List Byte) (written : Nat)
  /-- HK_GO (R310). A write of ARY_HK_CMD.GO requests a housekeeping register read or write. -/
  | hkGo (agent : Agent) (write : Bool) (addr : BitVec 8) (data : BitVec 16)
  /-- HK_TRANSACTION_COMPLETE (R310). A housekeeping transaction ends, with read data and ARY EVT_RAW[2] for a read. -/
  | hkTransactionComplete (value : BitVec 16)
  /-- TEMPERATURE_POLL (R311). Every POLL ms ARY reads housekeeping register 0x10 as a temperature report. -/
  | temperaturePoll (value : BitVec 16)
  /-- ARRAY_ALERT (R307). ASP_ALERT_N held low for 1 µs sets ARY EVT_RAW[3]. -/
  | arrayAlert
  /-- DETECTOR_LOCK_CHANGE (R312). A detector channel gains or loses lock and ARY EVT_RAW[4] is set. -/
  | detectorLockChange (ch : Nat) (locked : Bool) (rate : Nat)
  /-- DETECTOR_PHASE_STEP (R482). Every 4,096 samples a detector channel moves its sampling phase by at most one step. -/
  | detectorPhaseStep (ch : Nat) (mid : Nat)
  /-- CHECK_RUN_START (R313). When the run conditions hold, ARY sends a CHECK transaction that starts a check run. -/
  | checkRunStart (left : Nat)
  /-- CHECK_RUN_COMPLETE (R315). At the end of a run the beams are measured, classified and written back, and gains updated. -/
  | checkRunComplete (dark : Int) (darkN : Nat) (slots : List (Int × Nat)) (stuck hostHit : List Nat)
  /-- ARY_BC_START (R317). A write of ARY_BC_CTRL.START begins a manual beam-check session for one or all parts. -/
  | aryBcStart (agent : Agent) (all : Bool) (part : BitVec 4)
  /-- ARY_BC_ABORT (R317). A write of ARY_BC_CTRL.ABORT ends the session after the run in hand. -/
  | aryBcAbort (agent : Agent)
  /-- WRITE_BACK_APPLY (R318). A held write-back is applied from the result table when the staging bank becomes writable. -/
  | writeBackApply
  /-- HBM_READ (R327). A read of an HBM code word is classified good, corrected or poisoned, with write-back or poison recorded in place. -/
  | hbmRead (addr : Nat) (flips : List (Nat × BitVec 8)) (opens : Bool)
  /-- HBM_WRITE (R325). A write to HBM lands, is discarded at protected code words, or is done as a read-modify-write. -/
  | hbmWrite (addr : Nat) (data : List Byte) (host opens : Bool)
  /-- MEM_FILL_COMPLETE (R329). The initialisation fill of a stack ends, INIT_DONE is set and the page goes to RUNNING. -/
  | memFillComplete (n : Nat)
  /-- SCRUB_READ (R333). The scrubber reads a code word, correcting it or poisoning it and telling its owner. -/
  | scrubRead (n : Nat) (flips : List (Nat × BitVec 8))
  /-- SCRUBBER_BEHIND (R333). A scrub pass exceeding 110% of PERIOD sets MEM_n EVT_RAW[12]. -/
  | scrubberBehind (n : Nat)
  /-- REFRESH_DUE (R335). Every tREFI a bank owes a refresh, paid by REFpb or, at DEBT_MAX, by a forced REFab. -/
  | refreshDue (n pc bank : Nat) (busy : Bool)
  /-- REFRESH_CYCLE_END (R336). At the end of a bank's 32 ms refresh cycle its activate-count table is cleared. -/
  | refreshCycleEnd (n pc bank : Nat)
  /-- STACK_TEMPERATURE_READ (R337). Every 1 ms the stack temperature is read, selecting the refresh interval and TEMP_HIGH. -/
  | stackTemperatureRead (n : Nat) (temp : BitVec 8)
  /-- POP (R334). A write of MEM_n_UE_CTRL.POP removes the oldest UE finding. -/
  | pop (agent : Agent) (n : Nat)
  /-- PPR_GO (R339). A write of MEM_n_PPR_CTRL.GO starts permanent repair of the stack's remapped rows. -/
  | pprGo (agent : Agent) (n : Nat)
  /-- PPR_COMPLETE (R339). All remapped rows have been treated and MEM_n EVT_RAW[14] is set. -/
  | pprComplete (n : Nat) (left : List Nat)
  /-- SPARE_GO (R340). A write of MEM_n_SPARE_CTRL.GO starts moving a logical channel to a spare pseudo-channel. -/
  | spareGo (agent : Agent) (n : Nat) (pc : BitVec 5)
  /-- SPARING_COMPLETE (R340). The sparing copy ends, the channel map switches and the source is RETIRED. -/
  | sparingComplete (n : Nat)
  /-- PSEUDO_CHANNEL_DEAD (R341). A pseudo-channel that fails training or does not respond is DEAD and replaced by a poisoned spare, or DEAD_PC set. -/
  | pseudoChannelDead (n pc : Nat)
  /-- TEST_WRITE (R342). A write of MEM_0_TEST_CTRL.WRITE replaces the stored check bytes of a test code word. -/
  | testWrite (agent : Agent)
  /-- TEST_READ (R342). A write of MEM_0_TEST_CTRL.READ returns the stored check bytes and syndromes of a test code word. -/
  | testRead (agent : Agent)
  /-- MEM_0_REGION_WRITE (R324). A write of MEM_0_REGION resizes the HBM regions if the conditions hold, reporting RESULT. -/
  | mem0RegionWrite (agent : Agent) (value : Word)
  /-- MEM_RESET_LOSS (R424). A reset of the MEM pages abandons writing, removes waybills, ends deliveries and surveys and empties layouts and maps. -/
  | memResetLoss
  /-- DMA_GO (R350). A write of DMA_n_CTRL.GO copies the staging descriptor to the active or pending set, or is discarded. -/
  | dmaGo (agent : Agent) (n : BitVec 5)
  /-- DMA_RESPONSE (R351). A read response or completion for a DMA request arrives and its data is written or handled as poison or error. -/
  | dmaResponse (n : BitVec 5) (resp : DmaResp) (upset : Bool)
  /-- DMA_COMPLETION_TIMEOUT (R358). A non-posted request without its last completion after 1 ms puts the channel in ERROR 0x12. -/
  | dmaCompletionTimeout (n : BitVec 5)
  /-- DMA_DESCRIPTOR_COMPLETE (R356). A descriptor completes, writes back its tag, raises its event and chains, takes the pending set or goes idle. -/
  | dmaDescriptorComplete (n : BitVec 5)
  /-- DMA_DESCRIPTOR_FETCH (R354). A chained descriptor fetched from memory is checked and becomes active. -/
  | dmaDescriptorFetch (n : BitVec 5) (resp : DmaResp)
  /-- PAUSE (R361). A write of DMA_n_CTRL.PAUSE puts a running channel into PAUSING. -/
  | pause (agent : Agent) (n : BitVec 5)
  /-- DMA_PAUSED (R361). A pausing channel finishes its outstanding writes and enters PAUSED. -/
  | dmaPaused (n : BitVec 5)
  /-- DMA_RESUME (R361). A write of DMA_n_CTRL.RESUME continues a paused channel from POS_DONE. -/
  | dmaResume (agent : Agent) (n : BitVec 5)
  /-- DMA_STOP (R362). A write of DMA_n_CTRL.STOP ends the work, discards outstanding data and the pending set, and goes idle. -/
  | dmaStop (agent : Agent) (n : BitVec 5)
  /-- CLEAR (R362). A write of DMA_n_CTRL.CLEAR leaves ERROR for IDLE and takes any pending set. -/
  | clearErr (agent : Agent) (n : BitVec 5)
  /-- BUS_MASTER_ENABLE_CLEARED (R359). Clearing Bus Master Enable while a channel uses HOST space puts it in ERROR 0x19. -/
  | busMasterEnableCleared
  /-- FEED_B (R368). A write of CHK_n_FEED_B queues one byte for the check computation. -/
  | feedB (n : Nat) (agent : Agent) (value : Word)
  /-- FEED_H (R368). A write of CHK_n_FEED_H queues two bytes for the check computation. -/
  | feedH (n : Nat) (agent : Agent) (value : Word)
  /-- FEED_W (R368). A write of CHK_n_FEED_W queues four bytes for the check computation. -/
  | feedW (n : Nat) (agent : Agent) (value : Word)
  /-- CHK_QUEUE_ENTRY_TAKEN (R368). A check unit takes the next queued entry and applies it to RUN or its registers. -/
  | chkQueueEntryTaken (n : Nat)
  /-- CHK_START (R366). A write of CHK_n_CTRL.START sets RUN to INIT. -/
  | chkStart (n : Nat) (agent : Agent) (set : BitVec 3)
  /-- PRESET (R371). A write of CHK_n_CTRL.PRESET loads a named check set and starts. -/
  | preset (n : Nat) (agent : Agent) (set : BitVec 3)
  /-- CMP (R372). A write of CHK_n_CTRL.CMP compares RESULT with EXP and sets MATCH. -/
  | cmpGo (n : Nat) (agent : Agent) (set : BitVec 3)
  /-- RUN_WRITE (R370). A write of CHK_n_RUN restores a saved running value in its queue position. -/
  | runWrite (n : Nat) (agent : Agent) (high : Bool) (value : Word)
  /-- ALIVE (R373). A write of CHK_n_ALIVE tests the alive value against E and optionally folds it into the computation. -/
  | alive (n : Nat) (agent : Agent) (value : Word)
  /-- INC_APPLY (R380). A write of TIM_INC_HI applies the new increment with the time continuous. -/
  | incApply (agent : Agent) (high : Word) (upset : Bool)
  /-- TIME_STEP (R381). A write of TIM_ADJ_HI steps the time by D, or is discarded while MOT runs. -/
  | timeStep (agent : Agent) (high : Word) (upset : Bool)
  /-- ALARM (R385). The time reaching TIM_ALARM with ALARM_EN set sets TIM EVT_RAW[0] and clears ALARM_EN. -/
  | alarmDue
  /-- ETHERNET_FRAME_RECEIVE (R387). A received Ethernet frame is checked and sorted by destination, tag and EtherType. -/
  | ethernetFrameReceive (n : BitVec 1) (sub : BitVec 2) (frame : List Byte) (recv sent : BitVec 64) (fill : Nat) (upset : Bool)
  /-- RECEIVE_BUFFER_DRAIN (R388). The receive buffer falling below 50% sends pause frames with quanta 0. -/
  | receiveBufferDrain (n : BitVec 1)
  /-- PAUSE_QUANTA_EXPIRY (R388). The quanta of a received pause expire and transmission of the class resumes. -/
  | pauseQuantaExpiry (n : BitVec 1) (sub : BitVec 2) (priority : Option (BitVec 3))
  /-- ETHERNET_LINK_CHANGE (R400). An Ethernet sub-port link goes up or down and NET_n EVT_RAW[0] is set. -/
  | ethernetLinkChange (n : BitVec 1) (sub : BitVec 2) (up : Bool) (fec : BitVec 2)
  /-- TX_RING_ENTRY_SEND (R392). The next TX ring entry is sent, launched at its time, marked late or dropped, and written back. -/
  | txRingEntrySend (n : BitVec 1) (head sent : BitVec 64) (held : Bool)
  /-- TXR_IDX_WRITE (R390). A write of NET_n_TXR_IDX.WR hands TX ring entries to the M2620. -/
  | txrIdxWrite (agent : Agent) (n : BitVec 1) (wr : BitVec 6)
  /-- RXR_IDX_WRITE (R390). A write of NET_n_RXR_IDX.RD returns RX ring entries to the M2620. -/
  | rxrIdxWrite (agent : Agent) (n : BitVec 1) (rd : BitVec 6)
  /-- REQ (R396). A transport REQ frame makes its sender the peer and is answered with credit within 10 µs. -/
  | reqFrame (n : BitVec 1) (sub : BitVec 2) (source : BitVec 48) (frame : List Byte)
  /-- DATA (R396). A transport DATA frame is checked and delivered to ingest at the resume offset within credit. -/
  | dataFrame (n : BitVec 1) (sub : BitVec 2) (source : BitVec 48) (frame : List Byte)
  /-- CREDIT (R397). A transport CREDIT frame is sent on REQ, on advance of END, on a move back of OFS and every 100 µs. -/
  | credit (n : BitVec 1)
  /-- HELLO (R403). A received HELLO makes the sender a known neighbour. -/
  | helloFrame (link : BitVec 3) (mac : BitVec 48) (frame : List Byte)
  /-- HELLO_SEND (R403). Every 100 µs a HELLO frame is sent on each fabric link. -/
  | helloSend
  /-- NEIGHBOUR_LOST (R403). Three HELLO intervals without a HELLO, or a link down, loses the neighbour. -/
  | neighbourLost (link : BitVec 3)
  /-- LSA (R403). A received LSA is kept by UID and SEQ and its EPOCH adopted. -/
  | lsaFrame (link : BitVec 3) (frame : List Byte)
  /-- LSA_FLOOD (R403). An LSA is flooded every 10 ms and whenever the neighbours change. -/
  | lsaFlood
  /-- LSA_EXPIRY (R403). An LSA not refreshed for 30 ms is discarded. -/
  | lsaExpiry (uid : BitVec 64)
  /-- MEMBERSHIP_SETTLED (R404). After 1 ms without LSA change addresses are assigned and routes computed. -/
  | membershipSettled
  /-- FABRIC_FRAME_FORWARD (R406). A fabric frame for another address or all modules is forwarded with TTL − 1 or dropped. -/
  | fabricFrameForward (link : BitVec 3) (frame : List Byte)
  /-- FAB_RECK_GO (R407). A write of FAB_RECK.GO sends RECK_REQ to a peer or all members. -/
  | fabReckGo (agent : Agent) (dst : BitVec 8)
  /-- RECK_REQ (R407). A received RECK_REQ files a reckoning request with SOURCE 2. -/
  | reckReq (link : BitVec 3) (frame : List Byte)
  /-- RECK_DATA (R407). A received RECK_DATA is written into the sender's mirror slot and FAB EVT_RAW[2] set. -/
  | reckData (link : BitVec 3) (frame : List Byte)
  /-- RECKON_REQUEST_TIMEOUT (R407). No summary within 1 ms of a fabric reckoning request sets RESULT 0x02 and EVT_RAW[3]. -/
  | reckonRequestTimeout
  /-- FAB_SHARE_GO (R408). A write of FAB_SHARE.GO sends SHARE_REQ for a layout to a peer. -/
  | fabShareGo (agent : Agent) (peer : BitVec 8)
  /-- SHARE_REQ (R408). A received SHARE_REQ is answered and, on success, starts serving the layout. -/
  | shareReq (link : BitVec 3) (frame : List Byte)
  /-- SHARE_RSP (R408). A received SHARE_RSP reports the peer's answer in FAB_SHARE.RESULT. -/
  | shareRsp (link : BitVec 3) (frame : List Byte)
  /-- SHARE_ANSWER_TIMEOUT (R408). No SHARE_RSP within 1 ms sets RESULT 0x04. -/
  | shareAnswerTimeout
  /-- SHARE_CREDIT_TIMEOUT (R408). A share ends after 10 ms without credit. -/
  | shareCreditTimeout (peer : BitVec 6)
  /-- LXPORT (R408). A received LXPORT frame is handed to the transport as a frame received on its port. -/
  | lxport (link : BitVec 3) (frame : List Byte)
  /-- DENS (R411). A received DENS chunk is added once into the density accumulator. -/
  | densFrame (link : BitVec 3) (frame : List Byte)
  /-- DENS_END (R411). A received DENS_END closes a stripe's chunks and completes it if all arrived. -/
  | densEnd (link : BitVec 3) (frame : List Byte)
  /-- DENS_NAK_TIMER (R411). Chunks missing 1 ms after DENS_END, or no DENS_END 1 ms after the last chunk, sends DENS_NAK. -/
  | densNakTimer (stripe : BitVec 16)
  /-- DENS_NAK (R411). A received DENS_NAK makes the walker send the stripe's sums again. -/
  | densNak (link : BitVec 3) (frame : List Byte)
  /-- TAKE (R411). A write of FAB_SURV_CTRL.TAKE makes the module walk stripes FIRST to LAST as well. -/
  | takeGo (agent : Agent)
  /-- MAPCRC (R412). A received MAPCRC differing from the own map CRC sets MAPCRC. -/
  | mapcrc (link : BitVec 3) (frame : List Byte)
  /-- TREQ_SEND (R413). Every 1 ms a module with a time parent sends TREQ. -/
  | treqSend (t1 : BitVec 64)
  /-- TREQ (R413). A received TREQ is answered with TRSP within 100 µs. -/
  | treq (link : BitVec 3) (recv sent : BitVec 64) (frame : List Byte)
  /-- TRSP (R413). A received TRSP matching the latest TREQ updates FAB_TOFS and steering. -/
  | trsp (link : BitVec 3) (recv : BitVec 64) (frame : List Byte)
  /-- MSTAT_SEND (R415). Every 1 µs the lead sends MSTAT. -/
  | mstatSend
  /-- MSTAT (R414). A follower receiving MSTAT adopts HSTATE and sets or clears SUPPRESS. -/
  | mstat (link : BitVec 3) (frame : List Byte)
  /-- FSTAT_SEND (R415). A follower sends FSTAT on every change and every 10 µs. -/
  | fstatSend
  /-- FSTAT (R417). The lead takes a follower's FSTAT into its group conditions. -/
  | fstat (link : BitVec 3) (frame : List Byte)
  /-- HREQ (R417). A received HREQ makes the lead request a stop with reason HOST and set HELD. -/
  | hreq (link : BitVec 3) (frame : List Byte)
  /-- PLAN_FRAME (R416). A received PLAN frame gives the lead a follower's segment periods and alignment. -/
  | planFrame (link : BitVec 3) (frame : List Byte)
  /-- LEAD_LOST (R418). A follower without MSTAT for 100 µs sets LEAD_LOST and requests a stop. -/
  | leadLost
  /-- MEMBER_LOST (R418). The lead without FSTAT from a follower for 100 µs sets MEMBER_LOST and requests a stop. -/
  | memberLost (addr : BitVec 6)
  /-- FAB_MOT_STOP (R417). A write of FAB_MOT_CTRL.STOP requests a group stop through the lead. -/
  | fabMotStop (agent : Agent)
  /-- FAB_MOT_GO (R417). A write of FAB_MOT_CTRL.GO releases HOLD on a group member. -/
  | fabMotGo (agent : Agent)
  /-- FABRIC_RESET (R425). A received RESET frame with RST_EN = 1 causes a module reset or innkeeper restart. -/
  | fabricReset (link : BitVec 3) (frame : List Byte)
  /-- VIN_START (R421). VIN at or above 5.6 V for 1 ms starts the power stage and the power-up sequence. -/
  | vinStart
  /-- POWER_FAIL_WARNING (R421). VIN below 5.5 V for 2 µs opens the permit switch, pulls FAULT_N low and requests a stop. -/
  | powerFailWarning
  /-- WARNING_END (R421). VIN at or above 5.6 V for 1 ms after a warning clears GATE_WARN. -/
  | warningEnd
  /-- POWER_DOWN (R421). VIN below 5.2 V for 1 µs causes a power-up reset. -/
  | powerDown
  /-- OVERVOLTAGE (R421). VIN above 42 V for 10 µs stops the power stage and causes a power-up reset. -/
  | overvoltage
  /-- OVERVOLTAGE_END (R421). VIN below 40.5 V for 1 ms restarts as at start. -/
  | overvoltageEnd
  /-- PHASE_SWITCH_OFF (R422). A power phase beyond its limits is switched off within 1 µs. -/
  | phaseSwitchOff (p : BitVec 4)
  /-- SPARE_PHASE_ACTIVATE (R422). The innkeeper activates a spare power phase and records the phase map. -/
  | sparePhaseActivate
  /-- RESET_N_FALL (R426). A falling edge of RESET_N opens the permit switch and clears GLB_PERMIT.REQ. -/
  | resetNFall (glitch : Bool)
  /-- MODULE_RESET_ASSERT (R432). A module reset is asserted, opening the switch, idling QTX, assembling a summary and flushing the ledger. -/
  | moduleResetAssert
  /-- MODULE_RESET_BLOCK_ASSERT (R432). 20 µs after assertion block reset is asserted on every page in scope. -/
  | moduleResetBlockAssert
  /-- MODULE_RESET_RELEASE (R432). At the later of the source release and 100 µs every page in scope enters RELEASING. -/
  | moduleResetRelease
  /-- PERST_N_ASSERT (R425). PERST_N low for 1 µs resets the PCI Express island and DMA, and the module with PERST_MOD. -/
  | perstNAssert
  /-- PERST_N_RELEASE (R431). PERST_N released with REFCLK100 present releases the PCI Express island. -/
  | perstNRelease
  /-- MOD_RST (R425). A write of RCK_CTRL.MOD_RST with KEY 0x5253 asserts a module reset. -/
  | modRst (agent : Agent) (key : BitVec 16)
  /-- INK_RST (R425). A write of RCK_CTRL.INK_RST with KEY restarts the innkeeper. -/
  | inkRst (agent : Agent) (key : BitVec 16)
  /-- RETRY (R430). A write of RCK_CTRL.RETRY retries every timed-out island. -/
  | retry (agent : Agent)
  /-- INNKEEPER_WATCHDOG (R425). 100 ms without a watchdog service restarts the innkeeper, halting it after three in 60 s. -/
  | innkeeperWatchdog (now : Int)
  /-- INNKEEPER_RESTART_COMPLETE (R84). The restarted innkeeper clears BUSY of a lost command and INK_DOWN. -/
  | innkeeperRestartComplete
  /-- REFERENCE_CLOCK_LOSS (R429). A reference clock lost for 10 µs resets the islands it feeds and sets its fault. -/
  | referenceClockLoss (pcie : Bool)
  /-- REFERENCE_CLOCK_RETURN (R429). A reference clock within 0.1% for 1 ms releases the islands its loss reset. -/
  | referenceClockReturn (pcie : Bool)
  /-- ISLAND_LOCK_LOSS (R429). An island losing PLL lock with its reference present receives an island reset. -/
  | islandLockLoss (island : Nat)
  /-- INNKEEPER_BOOT_COMPLETE (R431). The innkeeper ends its boot, loads the life cycle and restores repair state, and the pages leave RESET. -/
  | innkeeperBootComplete (eeprom : Option (List Byte)) (slotOk : Bool)
  /-- EEPROM_READ_RETRY (R54). A failed EEPROM read is repeated after 1 ms, up to three times. -/
  | eepromReadRetry
  /-- INNKEEPER_BOOT_TIMEOUT (R431). If the innkeeper has not booted 2 s after release the reset controller releases the pages itself. -/
  | innkeeperBootTimeout
  /-- CUSTODY_N_CHANGE (R49). A change of CUSTODY_N restarts its 10 ms filter. -/
  | custodyNChange (level : Bool)
  /-- CUSTODY_FILTER_ACCEPT (R442). CUSTODY_N held for 10 ms is accepted and applied to the life cycle and GATE_CUST. -/
  | custodyFilterAccept
  /-- PERMIT_CONTRADICTION (R48). UNBLANK_PERMIT high for 2 µs with the switch open sets PERMIT_CONTRA and asserts FAULT_N. -/
  | permitContradiction (high : Bool)
  /-- PERMIT_WITHDRAWN (R48). UNBLANK_PERMIT low for 2 µs with the switch closed raises the event and requests a stop. -/
  | permitWithdrawn (low : Bool)
  /-- GLB_PERMIT_WRITE (R435). A write of GLB_PERMIT.REQ closes or opens the permit switch as the gates allow. -/
  | glbPermitWrite (agent : Agent) (req : Bool)
  /-- CELLAR_DATA_ACCESS (R436). An access to RCK_CELLAR_DATA reads or writes the cellar word at ADDR and advances ADDR. -/
  | cellarDataAccess (agent : Agent) (write : Option Word) (upset : Bool)
  /-- STORE_COMMIT_COMPLETE (R438). A persistent-store commit erases, programs and verifies the older bank. -/
  | storeCommitComplete (verified : Bool)
  /-- COMMIT_TOKEN_GAIN (R438). Every 30 min powered the commit budget gains a token and a deferred commit may proceed. -/
  | commitTokenGain
  /-- WIPE_COMPLETE (R445). The wipe ends, the transition is committed and the module enters its target state. -/
  | wipeComplete
  /-- FIRMWARE_CONFIRMED (R464). New firmware running 60 s without watchdog restart and passing self-test is committed as permanent. -/
  | firmwareConfirmed
  /-- FIRMWARE_FALLBACK (R464). Firmware failing its self-test or restarted within 60 s is replaced by the previous slot. -/
  | firmwareFallback (now : Int)
  /-- SEG_RECORD (R468). A SEG record is made once the segment's last pixel is read and tick LAST launched. -/
  | segRecord (trav : Nat) (hashFail : Bool)
  /-- LEDGER_RECORD_WRITE (R472). A staged record is written into the ring when there is space and LED_WR advances. -/
  | ledgerRecordWrite
  /-- LED_RD_WRITE (R476). A write of LED_RD frees ring records, or is discarded beyond LED_WR. -/
  | ledRdWrite (agent : Agent) (value : Word)
  /-- MARGIN_SCAN_STEP (R483). A 256-frame margin-scan step on a standby lane passes or fails, ending a series. -/
  | marginScanStep (n : Nat) (passed : Bool)
  /-- LANE_ROTATION (R486). In a dwell a data lane and a standby lane exchange roles. -/
  | laneRotation
  /-- ROTATION_ADOPTION_TIMEOUT (R486). No adoption within 100 µs restores the old lane-map sets and abandons the rotation. -/
  | rotationAdoptionTimeout
  /-- ALIGNMENT_RUN_START (R487). When its conditions hold the packer opens an alignment stream of pulse ticks. -/
  | alignmentRunStart (now : Int)
  /-- ALIGNMENT_RUN_COMPLETE (R489). After the last alignment tick the lanes' lateness is measured and SKEW updated. -/
  | alignmentRunComplete (pulses : List AlnPulse)
  /-- THERMAL_CHECK (R514). Every 1 ms the lid and die temperatures are checked against warning and trip limits. -/
  | thermalCheck (lid die : BitVec 16)
  /-- TRIP_POWER_STOP (R515). 10 ms after a trip the power stage stops and a power-up reset follows. -/
  | tripPowerStop
  /-- TRIP_RESTART (R515). The power stage restarts after its lid sensor has read below the warning limit for 10 s. -/
  | tripRestart (lid : BitVec 16)
  /-- HOLDOVER_MISS_LIMIT (R237). In HOLDOVER, once more than MISS_LIM sample intervals have passed without an accepted sample, the position state becomes LOST, POS_LOST is set and a stop is requested. -/
  | holdoverMissLimit (now : Int)
  /-- PSUP_OK_CHANGE (R434). PERMIT_SUPPLY crossing the 2.7 V PSUP_OK threshold changes GLB_PINS.PSUP_OK and GATE_PSUP, opening a closed permit switch when it falls. -/
  | psupOkChange (ok : Bool)
  /-- VIN_RANGE_CHANGE (R447). VIN leaving or re-entering the 6 to 40 V range sets or ends the cause of RCK FAULT_STAT[4] VIN_RANGE, a class S fault that drives FAULT_N. -/
  | vinRangeChange (outside : Bool) (vin iin : BitVec 16)
  /-- RECEIVER_ADAPTATION_STEP (R480). A QRX or MRX receiver updates its CTLE, decision-feedback taps and sampling phase, and its monitor's eye measure, by at most one step per bit count unless FREEZE is set. -/
  | receiverAdaptationStep (rx : Nat) (ctle phase : Int) (taps : List Int) (eyeW eyeH : BitVec 8)
  /-- ALIGNMENT_TICK_EDGE (R487). At 100 µs plus a × P after an alignment stream opens, the phase-0 edge of alignment tick a is committed and launched if its frames are acknowledged, otherwise the run is discarded. -/
  | alignmentTickEdge
  deriving DecidableEq, Repr

end Sys2Proof
end

