-- ==== Sys2Proof/Config.lean ====
section
/-!
DEFINITION. The free values of the model: constants without a body, for values the spec leaves open. Nothing in Lean
can evaluate one, so a statement about it holds whatever the value is.
-/
namespace Sys2Proof.Config

/-- A value the spec does not state, drawn afresh with the counter `free` of the state (log entry 3). -/
opaque freeValue : Nat → Nat

/-- T while the check of B, C0 or INC has failed (R383), by the raw counter's value: the spec calls every such stamp
unreliable (log entry 3). -/
opaque unreliableTime : Nat → Nat

/-- The die's fused unique identifier (R403): one value for a die, which the spec does not give. -/
opaque fusedUid : Nat

/-- The middle bits of the locally administered MAC addresses of R54, taken from the die's fused identity. -/
opaque fusedMac : Nat

/-- The version of the firmware of manufacture, in the format of operation 0x0002 (R85); the spec does not give it. -/
opaque factoryVersion : Nat

/-- The tick-timing clock edge on which the lane epoch falls (R277), in clocks of 2 ns; the spec does not give it. -/
opaque laneEpoch : Nat

end Sys2Proof.Config
end

