-- ==== Sys2Proof/Machine/Arith.lean ====
section
/-!
DEFINITION. The arithmetic the chapters share: rounding (R7, R152), saturating and wrapping counters, two's
complement, byte order (R8) and integer square roots (R263).
-/
namespace Sys2Proof.Machine

/-- n / d rounded to the nearest integer, ties to even (R152); d > 0. -/
def rhe (n d : Int) : Int :=
  let q := n / d
  let r := n - q * d
  if 2 * r > d ∨ (2 * r = d ∧ q % 2 = 1) then q + 1 else q

/-- rhe for naturals (R7). -/
def rheN (n d : Nat) : Nat :=
  let q := n / d
  let r := n % d
  if 2 * r > d ∨ (2 * r = d ∧ q % 2 = 1) then q + 1 else q

/-- The quotient rounded up. -/
def ceilDiv (n d : Nat) : Nat := (n + d - 1) / d

/-- The quotient of an integer by a positive number, rounded up. -/
def ceilDivI (n d : Int) : Int := -((-n) / d)

/-- Add to a counter that saturates at its greatest value. -/
def satAdd (cap v d : Nat) : Nat := min cap (v + d)

/-- A natural read as a two's-complement value of w bits. -/
def sx (w v : Nat) : Int :=
  let u := v % 2 ^ w
  if u < 2 ^ (w - 1) then (u : Int) else (u : Int) - (2 ^ w : Nat)

/-- An integer as a two's-complement field of w bits. -/
def enc (w : Nat) (v : Int) : Nat := (v % ((2 ^ w : Nat) : Int)).toNat

/-- Bits [hi:lo] of a natural. -/
def bits (v hi lo : Nat) : Nat := v / 2 ^ lo % 2 ^ (hi + 1 - lo)

/-- Set bit b of a natural. -/
def setBit (v b : Nat) : Nat := v ||| 2 ^ b

/-- Clear bit b of a natural. -/
def clrBit (v b : Nat) : Nat := if v.testBit b then v - 2 ^ b else v

/-- The k bytes of a value, least significant first (R8). -/
def leBytes : Nat → Nat → List Byte
  | 0, _ => []
  | k + 1, v => BitVec.ofNat 8 v :: leBytes k (v / 256)

/-- The value of a byte string, least significant byte first (R8). -/
def leVal : List Byte → Nat
  | [] => 0
  | b :: t => b.toNat + 256 * leVal t

/-- The k bytes of a value, most significant first. -/
def beBytes (k v : Nat) : List Byte := (leBytes k v).reverse

/-- The value of a byte string, most significant byte first. -/
def beVal (l : List Byte) : Nat := leVal l.reverse

/-- n bytes of a list from an offset; bytes beyond its end are 0. -/
def slice (l : List Byte) (ofs n : Nat) : List Byte :=
  let t := (l.drop ofs).take n
  t ++ List.replicate (n - t.length) 0

/-- The little-endian value of n bytes at an offset. -/
def leAt (l : List Byte) (ofs n : Nat) : Nat := leVal (slice l ofs n)

/-- The big-endian value of n bytes at an offset. -/
def beAt (l : List Byte) (ofs n : Nat) : Nat := beVal (slice l ofs n)

/-- One bit at a time, the largest r with r * r ≤ n: `b` is the bit tried, `r` the root so far. -/
def isqrtGo : Nat → Nat → Nat → Nat
  | 0, _, r => r
  | b + 1, n, r => if (r + 2 ^ b) * (r + 2 ^ b) ≤ n then isqrtGo b n (r + 2 ^ b) else isqrtGo b n r

/-- The integer square root, rounded down (R263), for values below 2^256. -/
def isqrt (n : Nat) : Nat := isqrtGo 128 n 0

/-- Replace the entry at an index of a list. -/
def setAt {α : Type} (l : List α) (i : Nat) (v : α) : List α := l.set i v

/-- Change the entry at an index of a list. -/
def modAt {α : Type} (l : List α) (i : Nat) (f : α → α) : List α := l.modify i f

end Sys2Proof.Machine
end

