-- ==== Sys2Proof/Machine/Codes.lean ====
section
/-!
DEFINITION. The check codes: the CRC machine of R366 with the sets of R371, which the EEPROM, the figure stream, the
reckoning, the motion port, the Q-link and the DMA channels share.
-/
namespace Sys2Proof.Machine

/-- Reverse the order of the low w bits of a value (R366). -/
def revBits : Nat → Nat → Nat
  | 0, _ => 0
  | w + 1, v => (v % 2) * 2 ^ w + revBits w (v / 2)

/-- A parameter set of a check code (R366). -/
structure CrcSet where
  w      : Nat
  poly   : Nat
  init   : Nat
  xorOut : Nat
  refIn  : Bool
  refOut : Bool
  deriving DecidableEq, Repr

/-- One bit fed most significant first, REFIN = 0 (R366). -/
def CrcSet.bitMsb (c : CrcSet) (run bit : Nat) : Nat :=
  let top := (run / 2 ^ (c.w - 1) + bit) % 2
  let sh := run * 2 % 2 ^ c.w
  if top = 1 then sh ^^^ c.poly else sh

/-- One bit fed least significant first, REFIN = 1 (R366). -/
def CrcSet.bitLsb (c : CrcSet) (run bit : Nat) : Nat :=
  let low := (run + bit) % 2
  let sh := run / 2
  if low = 1 then sh ^^^ revBits c.w c.poly else sh

/-- One byte fed (R366). -/
def CrcSet.byte (c : CrcSet) (run : Nat) (b : Byte) : Nat :=
  let v := b.toNat
  if c.refIn then [0, 1, 2, 3, 4, 5, 6, 7].foldl (fun r i => c.bitLsb r (v / 2 ^ i % 2)) run
  else [7, 6, 5, 4, 3, 2, 1, 0].foldl (fun r i => c.bitMsb r (v / 2 ^ i % 2)) run

/-- Bytes fed in order. -/
def CrcSet.feed (c : CrcSet) (run : Nat) (l : List Byte) : Nat := l.foldl c.byte run

/-- The final value of a running value (R366). -/
def CrcSet.final (c : CrcSet) (run : Nat) : Nat := (if c.refIn = c.refOut then run else revBits c.w run) ^^^ c.xorOut

/-- The check value of a byte string. -/
def CrcSet.of (c : CrcSet) (l : List Byte) : Nat := c.final (c.feed c.init l)

/-- The five sets of R371. -/
def crc8 : CrcSet := ⟨8, 0x07, 0, 0, false, false⟩
def crc16 : CrcSet := ⟨16, 0x1021, 0xFFFF, 0, false, false⟩
def crc32 : CrcSet := ⟨32, 0x04C11DB7, 0xFFFFFFFF, 0xFFFFFFFF, true, true⟩
def crc32c : CrcSet := ⟨32, 0x1EDC6F41, 0xFFFFFFFF, 0xFFFFFFFF, true, true⟩
def crc64 : CrcSet := ⟨64, 0x42F0E1EBA9EA3693, 0xFFFFFFFFFFFFFFFF, 0xFFFFFFFFFFFFFFFF, true, true⟩

/-- The set that CHK_n_CTRL.SET names (R371). -/
def presetSet : Nat → CrcSet
  | 0 => crc8
  | 1 => crc16
  | 2 => crc32
  | 3 => crc32c
  | _ => crc64

/-! ### SHA-384 (R471; FIPS 180-4) -/

/-- The initial hash value. -/
def shaH : List Nat :=
  [0xcbbb9d5dc1059ed8, 0x629a292a367cd507, 0x9159015a3070dd17, 0x152fecd8f70e5939,
   0x67332667ffc00b31, 0x8eb44a8768581511, 0xdb0c2e0d64f98fa7, 0x47b5481dbefa4fa4]

/-- The round constants 0 to 19. -/
def shaK0 : List Nat :=
  [0x428a2f98d728ae22, 0x7137449123ef65cd, 0xb5c0fbcfec4d3b2f, 0xe9b5dba58189dbbc,
   0x3956c25bf348b538, 0x59f111f1b605d019, 0x923f82a4af194f9b, 0xab1c5ed5da6d8118,
   0xd807aa98a3030242, 0x12835b0145706fbe, 0x243185be4ee4b28c, 0x550c7dc3d5ffb4e2,
   0x72be5d74f27b896f, 0x80deb1fe3b1696b1, 0x9bdc06a725c71235, 0xc19bf174cf692694,
   0xe49b69c19ef14ad2, 0xefbe4786384f25e3, 0x0fc19dc68b8cd5b5, 0x240ca1cc77ac9c65]

/-- The round constants 20 to 39. -/
def shaK1 : List Nat :=
  [0x2de92c6f592b0275, 0x4a7484aa6ea6e483, 0x5cb0a9dcbd41fbd4, 0x76f988da831153b5,
   0x983e5152ee66dfab, 0xa831c66d2db43210, 0xb00327c898fb213f, 0xbf597fc7beef0ee4,
   0xc6e00bf33da88fc2, 0xd5a79147930aa725, 0x06ca6351e003826f, 0x142929670a0e6e70,
   0x27b70a8546d22ffc, 0x2e1b21385c26c926, 0x4d2c6dfc5ac42aed, 0x53380d139d95b3df,
   0x650a73548baf63de, 0x766a0abb3c77b2a8, 0x81c2c92e47edaee6, 0x92722c851482353b]

/-- The round constants 40 to 59. -/
def shaK2 : List Nat :=
  [0xa2bfe8a14cf10364, 0xa81a664bbc423001, 0xc24b8b70d0f89791, 0xc76c51a30654be30,
   0xd192e819d6ef5218, 0xd69906245565a910, 0xf40e35855771202a, 0x106aa07032bbd1b8,
   0x19a4c116b8d2d0c8, 0x1e376c085141ab53, 0x2748774cdf8eeb99, 0x34b0bcb5e19b48a8,
   0x391c0cb3c5c95a63, 0x4ed8aa4ae3418acb, 0x5b9cca4f7763e373, 0x682e6ff3d6b2b8a3,
   0x748f82ee5defb2fc, 0x78a5636f43172f60, 0x84c87814a1f0ab72, 0x8cc702081a6439ec]

/-- The round constants 60 to 79. -/
def shaK3 : List Nat :=
  [0x90befffa23631e28, 0xa4506cebde82bde9, 0xbef9a3f7b2c67915, 0xc67178f2e372532b,
   0xca273eceea26619c, 0xd186b8c721c0c207, 0xeada7dd6cde0eb1e, 0xf57d4f7fee6ed178,
   0x06f067aa72176fba, 0x0a637dc5a2c898a6, 0x113f9804bef90dae, 0x1b710b35131c471b,
   0x28db77f523047d84, 0x32caab7b40c72493, 0x3c9ebe0a15c9bebc, 0x431d67c49c100d4c,
   0x4cc5d4becb3e42b6, 0x597f299cfc657e2a, 0x5fcb6fab3ad6faec, 0x6c44198c4a475817]

/-- The 80 round constants. -/
def shaK : List Nat := shaK0 ++ shaK1 ++ shaK2 ++ shaK3

/-- Rotate a 64-bit word right. -/
def rotr (n x : Nat) : Nat := x / 2 ^ n + x % 2 ^ n * 2 ^ (64 - n)

def shaBig0 (x : Nat) : Nat := rotr 28 x ^^^ rotr 34 x ^^^ rotr 39 x
def shaBig1 (x : Nat) : Nat := rotr 14 x ^^^ rotr 18 x ^^^ rotr 41 x
def shaSmall0 (x : Nat) : Nat := rotr 1 x ^^^ rotr 8 x ^^^ x / 2 ^ 7
def shaSmall1 (x : Nat) : Nat := rotr 19 x ^^^ rotr 61 x ^^^ x / 2 ^ 6

/-- The next word of the message schedule; the words so far stand latest first. -/
def shaNext (w : List Nat) : Nat :=
  (shaSmall1 (w.getD 1 0) + w.getD 6 0 + shaSmall0 (w.getD 14 0) + w.getD 15 0) % 2 ^ 64

/-- The message schedule of n further words, latest first. -/
def shaExpand : Nat → List Nat → List Nat
  | 0, w => w
  | n + 1, w => shaExpand n (shaNext w :: w)

/-- One round on the working variables a to h. -/
def shaRound (v : List Nat) (kw : Nat × Nat) : List Nat :=
  match v with
  | [a, b, c, d, e, f, g, h] =>
    let t1 := h + shaBig1 e + ((e &&& f) ^^^ ((2 ^ 64 - 1 - e) &&& g)) + kw.1 + kw.2
    let t2 := shaBig0 a + ((a &&& b) ^^^ (a &&& c) ^^^ (b &&& c))
    [(t1 + t2) % 2 ^ 64, a, b, c, (d + t1) % 2 ^ 64, e, f, g]
  | _ => v

/-- One 128-byte block. -/
def shaBlock (h : List Nat) (blk : List Byte) : List Nat :=
  let w := ((List.range 16).map fun i => beAt blk (8 * i) 8).reverse
  let v := (shaK.zip (shaExpand 64 w).reverse).foldl shaRound h
  List.zipWith (fun a b => (a + b) % 2 ^ 64) h v

/-- The padded message. -/
def shaPad (m : List Byte) : List Byte :=
  let z := (239 - m.length % 128) % 128
  m ++ 0x80#8 :: List.replicate z 0 ++ beBytes 16 (8 * m.length)

/-- Split a list into blocks of 128 bytes; `n` bounds their number. -/
def shaBlocks : Nat → List Byte → List (List Byte)
  | 0, _ => []
  | n + 1, l => if l.isEmpty then [] else l.take 128 :: shaBlocks n (l.drop 128)

/-- SHA-384 of a byte string: 48 bytes. -/
def sha384 (m : List Byte) : List Byte :=
  let p := shaPad m
  (((shaBlocks (p.length / 128) p).foldl shaBlock shaH).take 6).flatMap (beBytes 8)

end Sys2Proof.Machine
end

