-- ==== Sys2Proof/Machine/RegMap.lean ====
section
/-!
DEFINITION. The block registers of BAR0, written from the register tables of the spec's chapters: first every
field under the name PAGE_REGISTER_FIELD (with the page instance n and the array index i where there are several),
then, block by block, the tables that a plain register write is decoded by (R9, R55, R65, R66).
-/
namespace Sys2Proof.Machine.Reg

/-- R5. -/
def GLB_ID_PART : Fld := ⟨0x40, 16, 16, 0x2620⟩
/-- R5. -/
def GLB_ID_MODREV : Fld := ⟨0x40, 12, 4, 1⟩
/-- R5. -/
def GLB_ID_COOLING : Fld := ⟨0x40, 8, 4, 0⟩
/-- R5. -/
def GLB_ID_DPVER : Fld := ⟨0x40, 0, 8, 1⟩
/-- R50. -/
def GLB_PINS_IRQ_LVL : Fld := ⟨0x60, 8, 4, 0xF⟩
/-- R50. -/
def GLB_PINS_FAULT_LVL : Fld := ⟨0x60, 7, 1, 1⟩
/-- R50. -/
def GLB_PINS_PERMIT_SW : Fld := ⟨0x60, 6, 1, 0⟩
/-- R50. -/
def GLB_PINS_PERMIT_LVL : Fld := ⟨0x60, 5, 1, 0⟩
/-- R50. -/
def GLB_PINS_PSUP_OK : Fld := ⟨0x60, 4, 1, 0⟩
/-- R50. -/
def GLB_PINS_CUSTODY : Fld := ⟨0x60, 3, 1, 1⟩
/-- R50. -/
def GLB_PINS_CUSTODY_RAW : Fld := ⟨0x60, 2, 1, 1⟩
/-- R50. -/
def GLB_PINS_PERST_LVL : Fld := ⟨0x60, 1, 1, 0⟩
/-- R50. -/
def GLB_PINS_ALERT_LVL : Fld := ⟨0x60, 0, 1, 1⟩
/-- R434. -/
def GLB_PERMIT_REQ : Fld := ⟨0x70, 31, 1, 0⟩
/-- R434. -/
def GLB_PERMIT_GATE_INT : Fld := ⟨0x70, 5, 1, 0⟩
/-- R434. -/
def GLB_PERMIT_GATE_WARN : Fld := ⟨0x70, 4, 1, 0⟩
/-- R434. -/
def GLB_PERMIT_GATE_RST : Fld := ⟨0x70, 3, 1, 1⟩
/-- R434. -/
def GLB_PERMIT_GATE_PSUP : Fld := ⟨0x70, 2, 1, 1⟩
/-- R434. -/
def GLB_PERMIT_GATE_CUST : Fld := ⟨0x70, 1, 1, 1⟩
/-- R434. -/
def GLB_PERMIT_GATE_LCY : Fld := ⟨0x70, 0, 1, 1⟩
/-- R75. -/
def GLB_RECKON_LAST_SEQ : Fld := ⟨0x80, 16, 16, 0⟩
/-- R75. -/
def GLB_RECKON_SLOT : Fld := ⟨0x80, 5, 1, 0⟩
/-- R75. -/
def GLB_RECKON_VALID : Fld := ⟨0x80, 4, 1, 0⟩
/-- R75. -/
def GLB_RECKON_PEND : Fld := ⟨0x80, 3, 1, 0⟩
/-- R75. -/
def GLB_RECKON_BUSY : Fld := ⟨0x80, 2, 1, 0⟩
/-- R75. -/
def GLB_RECKON_REQ : Fld := ⟨0x80, 0, 1, 0⟩
/-- R477. -/
def GLB_RECK_AUTO_ABANDON : Fld := ⟨0x84, 3, 1, 1⟩
/-- R477. -/
def GLB_RECK_AUTO_NOMAJ : Fld := ⟨0x84, 2, 1, 0⟩
/-- R477. -/
def GLB_RECK_AUTO_HALT : Fld := ⟨0x84, 1, 1, 0⟩
/-- R477. -/
def GLB_RECK_AUTO_CLASSA : Fld := ⟨0x84, 0, 1, 1⟩
/-- R59. -/
def GLB_BAR2_BASE_BASE : Fld := ⟨0x90, 0, 7, 0⟩
/-- R477. -/
def GLB_FN_CFG_DEG : Fld := ⟨0xa0, 0, 1, 1⟩
/-- R477. -/
def GLB_FAULT_SUM_A : Fld := ⟨0xa4, 31, 1, 0⟩
/-- R477. -/
def GLB_FAULT_SUM_S : Fld := ⟨0xa4, 30, 1, 0⟩
/-- R477. -/
def GLB_FAULT_SUM_D : Fld := ⟨0xa4, 29, 1, 0⟩
/-- R477. -/
def GLB_FAULT_SUM_I : Fld := ⟨0xa4, 28, 1, 0⟩
/-- R477. -/
def GLB_FAULT_SUM_FIRST : Fld := ⟨0xa4, 0, 8, 0xFF⟩
/-- R477. -/
def GLB_CFG_FIX_COUNT : Fld := ⟨0xa8, 0, 16, 0⟩
/-- R73. -/
def GLB_EVT_STATUS_STATUS (i : Nat) : Fld := ⟨0xc0 + 4 * i, 0, 32, 0⟩
/-- R74. -/
def GLB_IRQ_SEL_SEL_7 (i : Nat) : Fld := ⟨0x100 + 4 * i, 28, 4, 0⟩
/-- R74. -/
def GLB_IRQ_SEL_SEL_6 (i : Nat) : Fld := ⟨0x100 + 4 * i, 24, 4, 0⟩
/-- R74. -/
def GLB_IRQ_SEL_SEL_5 (i : Nat) : Fld := ⟨0x100 + 4 * i, 20, 4, 0⟩
/-- R74. -/
def GLB_IRQ_SEL_SEL_4 (i : Nat) : Fld := ⟨0x100 + 4 * i, 16, 4, 0⟩
/-- R74. -/
def GLB_IRQ_SEL_SEL_3 (i : Nat) : Fld := ⟨0x100 + 4 * i, 12, 4, 0⟩
/-- R74. -/
def GLB_IRQ_SEL_SEL_2 (i : Nat) : Fld := ⟨0x100 + 4 * i, 8, 4, 0⟩
/-- R74. -/
def GLB_IRQ_SEL_SEL_1 (i : Nat) : Fld := ⟨0x100 + 4 * i, 4, 4, 0⟩
/-- R74. -/
def GLB_IRQ_SEL_SEL_0 (i : Nat) : Fld := ⟨0x100 + 4 * i, 0, 4, 0⟩
/-- R82. -/
def INK_CMD_TAG : Fld := ⟨0x30040, 24, 8, 0⟩
/-- R82. -/
def INK_CMD_OP : Fld := ⟨0x30040, 0, 16, 0⟩
/-- R82. -/
def INK_DOORBELL_RING : Fld := ⟨0x30044, 0, 1, 0⟩
/-- R82. -/
def INK_STATUS_TAG : Fld := ⟨0x30048, 24, 8, 0⟩
/-- R82. -/
def INK_STATUS_RESULT : Fld := ⟨0x30048, 16, 8, 0⟩
/-- R82. -/
def INK_STATUS_INK_DOWN : Fld := ⟨0x30048, 2, 1, 1⟩
/-- R82. -/
def INK_STATUS_DONE : Fld := ⟨0x30048, 1, 1, 0⟩
/-- R82. -/
def INK_STATUS_BUSY : Fld := ⟨0x30048, 0, 1, 0⟩
/-- R82. -/
def INK_ARG_ARG (i : Nat) : Fld := ⟨0x30080 + 4 * i, 0, 32, 0⟩
/-- R82. -/
def INK_RSP_RSP (i : Nat) : Fld := ⟨0x300c0 + 4 * i, 0, 32, 0⟩
/-- R148. -/
def ING_CFG_AHEAD : Fld := ⟨0x100040, 16, 8, 8⟩
/-- R148. -/
def ING_CFG_LIST_CAP : Fld := ⟨0x100040, 8, 8, 0x20⟩
/-- R148. -/
def ING_CFG_SURV_TRV : Fld := ⟨0x100040, 0, 8, 0x40⟩
/-- R148. -/
def ING_LOAD_START : Fld := ⟨0x100044, 31, 1, 0⟩
/-- R148. -/
def ING_LOAD_ABORT : Fld := ⟨0x100044, 30, 1, 0⟩
/-- R148. -/
def ING_LOAD_REPAIR : Fld := ⟨0x100044, 29, 1, 0⟩
/-- R148. -/
def ING_LOAD_RESULT : Fld := ⟨0x100044, 16, 8, 0⟩
/-- R148. -/
def ING_LOAD_SOURCE : Fld := ⟨0x100044, 8, 2, 0⟩
/-- R148. -/
def ING_LOAD_HANDLE : Fld := ⟨0x100044, 0, 4, 0⟩
/-- R148. -/
def ING_FREE_FREE : Fld := ⟨0x100048, 31, 1, 0⟩
/-- R148. -/
def ING_FREE_RESULT : Fld := ⟨0x100048, 8, 8, 0⟩
/-- R148. -/
def ING_FREE_HANDLE : Fld := ⟨0x100048, 0, 4, 0⟩
/-- R148. -/
def ING_LS_FREE_FREE_4K : Fld := ⟨0x10004c, 0, 32, 0⟩
/-- R148. -/
def ING_SRC_DROP_DROPS : Fld := ⟨0x100050, 0, 16, 0⟩
/-- R148. -/
def ING_LOAD_CUR_OPEN : Fld := ⟨0x100054, 31, 1, 0⟩
/-- R148. -/
def ING_LOAD_CUR_REPAIR : Fld := ⟨0x100054, 30, 1, 0⟩
/-- R148. -/
def ING_LOAD_CUR_SOURCE : Fld := ⟨0x100054, 8, 2, 0⟩
/-- R148. -/
def ING_LOAD_CUR_HANDLE : Fld := ⟨0x100054, 0, 4, 0⟩
/-- R148. -/
def ING_WB_WORD (i : Nat) : Fld := ⟨0x100060 + 4 * i, 0, 32, 0⟩
/-- R148. -/
def ING_WB_CTRL_FLUSH : Fld := ⟨0x100080, 2, 1, 0⟩
/-- R148. -/
def ING_WB_CTRL_RESUME : Fld := ⟨0x100080, 1, 1, 0⟩
/-- R148. -/
def ING_WB_CTRL_POST : Fld := ⟨0x100080, 0, 1, 0⟩
/-- R148. -/
def ING_WB_QSTAT_NEXT_SEQ : Fld := ⟨0x100084, 16, 16, 1⟩
/-- R148. -/
def ING_WB_QSTAT_HOLD : Fld := ⟨0x100084, 8, 4, 0⟩
/-- R148. -/
def ING_WB_QSTAT_STOPPED : Fld := ⟨0x100084, 7, 1, 0⟩
/-- R148. -/
def ING_WB_QSTAT_ARMED : Fld := ⟨0x100084, 4, 3, 0⟩
/-- R148. -/
def ING_WB_QSTAT_DEPTH : Fld := ⟨0x100084, 0, 4, 0⟩
/-- R148. -/
def ING_WB_RESULT_SEQ : Fld := ⟨0x100088, 16, 16, 0⟩
/-- R148. -/
def ING_WB_RESULT_CODE : Fld := ⟨0x100088, 8, 8, 0⟩
/-- R148. -/
def ING_WB_RESULT_DETAIL : Fld := ⟨0x100088, 0, 8, 0⟩
/-- R148. -/
def ING_WB_CUR_SEQ : Fld := ⟨0x10008c, 16, 16, 0⟩
/-- R148. -/
def ING_WB_CUR_STRIPE : Fld := ⟨0x10008c, 0, 16, 0⟩
/-- R148. -/
def ING_WB_SEG_SEG : Fld := ⟨0x100090, 0, 24, 0⟩
/-- R148. -/
def ING_TRV_SEL_INDEX : Fld := ⟨0x1000a0, 0, 9, 0⟩
/-- R148. -/
def ING_TRV_STAT_STATE : Fld := ⟨0x1000a4, 29, 3, 0⟩
/-- R148. -/
def ING_TRV_STAT_RCMP : Fld := ⟨0x1000a4, 28, 1, 0⟩
/-- R148. -/
def ING_TRV_STAT_SURVEY : Fld := ⟨0x1000a4, 27, 1, 0⟩
/-- R148. -/
def ING_TRV_STAT_HANDLE : Fld := ⟨0x1000a4, 22, 4, 0⟩
/-- R148. -/
def ING_TRV_STAT_BAND : Fld := ⟨0x1000a4, 17, 5, 0⟩
/-- R148. -/
def ING_TRV_STAT_NBANDSM1 : Fld := ⟨0x1000a4, 12, 5, 0⟩
/-- R148. -/
def ING_TRV_STAT_SLOT : Fld := ⟨0x1000a4, 0, 6, 0x3F⟩
/-- R148. -/
def ING_TRV_POS_STRIPE : Fld := ⟨0x1000a8, 16, 16, 0⟩
/-- R148. -/
def ING_TRV_SEGIX_SEG : Fld := ⟨0x1000ac, 0, 24, 0⟩
/-- R148. -/
def ING_TRV_USE_SURVEY : Fld := ⟨0x1000b0, 16, 10, 0⟩
/-- R148. -/
def ING_TRV_USE_USED : Fld := ⟨0x1000b0, 0, 10, 0⟩
/-- R148. -/
def ING_RCMP_REQ_REQ : Fld := ⟨0x1000c0, 31, 1, 0⟩
/-- R148. -/
def ING_RCMP_REQ_MISS : Fld := ⟨0x1000c0, 30, 1, 0⟩
/-- R148. -/
def ING_RCMP_REQ_NEXT : Fld := ⟨0x1000c0, 24, 1, 0⟩
/-- R148. -/
def ING_RCMP_REQ_SEG : Fld := ⟨0x1000c0, 0, 24, 0⟩
/-- R148. -/
def ING_RCMP_CNT_DONE : Fld := ⟨0x1000c4, 16, 16, 0⟩
/-- R148. -/
def ING_RCMP_CNT_REQUESTED : Fld := ⟨0x1000c4, 0, 16, 0⟩
/-- R148. -/
def ING_REPAIR_LO_OFS_LO : Fld := ⟨0x1000d0, 0, 32, 0⟩
/-- R148. -/
def ING_REPAIR_HI_VALID : Fld := ⟨0x1000d4, 31, 1, 0⟩
/-- R148. -/
def ING_REPAIR_HI_COUNT : Fld := ⟨0x1000d4, 12, 5, 0⟩
/-- R148. -/
def ING_REPAIR_HI_HANDLE : Fld := ⟨0x1000d4, 8, 4, 0⟩
/-- R148. -/
def ING_REPAIR_HI_OFS_HI : Fld := ⟨0x1000d4, 0, 8, 0⟩
/-- R117. -/
def ING_IFS_ERR_CODE : Fld := ⟨0x100100, 24, 8, 0⟩
/-- R117. -/
def ING_IFS_ERR_RTYPE : Fld := ⟨0x100100, 16, 8, 0⟩
/-- R117. -/
def ING_IFS_ERR_TRIES : Fld := ⟨0x100100, 0, 5, 0⟩
/-- R117. -/
def ING_IFS_ERR_OFS_LO_OFS_LO : Fld := ⟨0x100104, 0, 32, 0⟩
/-- R117. -/
def ING_IFS_ERR_OFS_HI_OFS_HI : Fld := ⟨0x100108, 0, 8, 0⟩
/-- R117. -/
def ING_IFS_ERR_BLK_BLOCK : Fld := ⟨0x10010c, 0, 32, 0⟩
/-- R117. -/
def ING_IFS_RESUME_LO_RES_LO : Fld := ⟨0x100110, 0, 32, 0⟩
/-- R117. -/
def ING_IFS_RESUME_HI_RES_HI : Fld := ⟨0x100114, 0, 8, 0⟩
/-- R117. -/
def ING_IFS_DUP_DUP : Fld := ⟨0x100118, 0, 16, 0⟩
/-- R117. -/
def ING_IFS_STAT_STREAM : Fld := ⟨0x10011c, 0, 2, 0⟩
/-- R148. -/
def ING_LAYOUT_STATE (i : Nat) : Fld := ⟨0x100140 + 4 * i, 30, 2, 0⟩
/-- R148. -/
def ING_LAYOUT_DAMAGED (i : Nat) : Fld := ⟨0x100140 + 4 * i, 29, 1, 0⟩
/-- R148. -/
def ING_LAYOUT_SIZE (i : Nat) : Fld := ⟨0x100140 + 4 * i, 0, 16, 0⟩
/-- R148. -/
def ING_LAYOUT_REACH_REACH_MAX_Y (i : Nat) : Fld := ⟨0x100180 + 4 * i, 16, 16, 0⟩
/-- R148. -/
def ING_LAYOUT_REACH_REACH_MAX_X (i : Nat) : Fld := ⟨0x100180 + 4 * i, 0, 16, 0⟩
/-- R149. -/
def EXP_STAT_BUSY (n : Nat) : Fld := ⟨0x110040 + 0x1000 * n, 31, 1, 0⟩
/-- R149. -/
def EXP_STAT_BAND (n : Nat) : Fld := ⟨0x110040 + 0x1000 * n, 9, 5, 0⟩
/-- R149. -/
def EXP_STAT_TRV (n : Nat) : Fld := ⟨0x110040 + 0x1000 * n, 0, 9, 0⟩
/-- R149. -/
def EXP_FIGS_FIGS (n : Nat) : Fld := ⟨0x110044 + 0x1000 * n, 0, 32, 0⟩
/-- R149. -/
def EXP_BUSY_KCLK (n : Nat) : Fld := ⟨0x110048 + 0x1000 * n, 0, 32, 0⟩
/-- R179. -/
def CMP_CFG_MIN_PAIRS : Fld := ⟨0x150040, 16, 6, 0x0C⟩
/-- R179. -/
def CMP_CFG_WINDOW_LOG : Fld := ⟨0x150040, 8, 5, 0x18⟩
/-- R179. -/
def CMP_CFG_RETIRE : Fld := ⟨0x150040, 0, 4, 3⟩
/-- R179. -/
def CMP_STAT_PAIRS : Fld := ⟨0x150044, 24, 5, 0⟩
/-- R179. -/
def CMP_STAT_SPARES : Fld := ⟨0x150044, 16, 6, 0⟩
/-- R179. -/
def CMP_STAT_RETIRED : Fld := ⟨0x150044, 8, 6, 0⟩
/-- R179. -/
def CMP_STAT_VOTES : Fld := ⟨0x150044, 0, 3, 0⟩
/-- R179. -/
def CMP_CNT_MISMATCH_COUNT : Fld := ⟨0x150048, 0, 32, 0⟩
/-- R179. -/
def CMP_CNT_VOTE_WON : Fld := ⟨0x15004c, 16, 16, 0⟩
/-- R179. -/
def CMP_CNT_VOTE_NOMAJ : Fld := ⟨0x15004c, 0, 16, 0⟩
/-- R179. -/
def CMP_CNT_INJ_COUNT : Fld := ⟨0x150050, 0, 16, 0⟩
/-- R179. -/
def CMP_PAIR_INSERV (i : Nat) : Fld := ⟨0x150080 + 4 * i, 31, 1, 0⟩
/-- R179. -/
def CMP_PAIR_ENG_B (i : Nat) : Fld := ⟨0x150080 + 4 * i, 8, 6, 2 * i + 1⟩
/-- R179. -/
def CMP_PAIR_ENG_A (i : Nat) : Fld := ⟨0x150080 + 4 * i, 0, 6, 2 * i⟩
/-- R179. -/
def CMP_LAST_MM_PAIR : Fld := ⟨0x1500e0, 24, 5, 0⟩
/-- R179. -/
def CMP_LAST_MM_KIND : Fld := ⟨0x1500e0, 20, 2, 0⟩
/-- R179. -/
def CMP_LAST_MM_TSEQ : Fld := ⟨0x1500e0, 0, 18, 0⟩
/-- R179. -/
def CMP_LAST_MM_POS_WORD : Fld := ⟨0x1500e4, 9, 19, 0⟩
/-- R179. -/
def CMP_LAST_MM_POS_TRV : Fld := ⟨0x1500e4, 0, 9, 0⟩
/-- R179. -/
def CMP_LAST_VOTE_OUTCOME : Fld := ⟨0x1500e8, 30, 2, 0⟩
/-- R179. -/
def CMP_LAST_VOTE_VOTER : Fld := ⟨0x1500e8, 24, 6, 0x3F⟩
/-- R179. -/
def CMP_LAST_VOTE_VPAIR : Fld := ⟨0x1500e8, 19, 5, 0x1F⟩
/-- R179. -/
def CMP_LAST_VOTE_TSEQ : Fld := ⟨0x1500e8, 0, 18, 0⟩
/-- R180. -/
def RAS_ROLE_PAIR (n : Nat) : Fld := ⟨0x140040 + 0x400 * n, 8, 5, 0x1F⟩
/-- R180. -/
def RAS_ROLE_ROLE (n : Nat) : Fld := ⟨0x140040 + 0x400 * n, 0, 3, 0⟩
/-- R180. -/
def RAS_STRIKES_TOTAL (n : Nat) : Fld := ⟨0x140044 + 0x400 * n, 16, 16, 0⟩
/-- R180. -/
def RAS_STRIKES_LEVEL (n : Nat) : Fld := ⟨0x140044 + 0x400 * n, 0, 4, 0⟩
/-- R180. -/
def RAS_TILES_TILES (n : Nat) : Fld := ⟨0x140048 + 0x400 * n, 0, 32, 0⟩
/-- R180. -/
def RAS_CTRL_REJOIN (n : Nat) : Fld := ⟨0x14004c + 0x400 * n, 0, 1, 0⟩
/-- R204. -/
def SRV_CTRL_START : Fld := ⟨0x120040, 31, 1, 0⟩
/-- R204. -/
def SRV_CTRL_ABORT : Fld := ⟨0x120040, 30, 1, 0⟩
/-- R204. -/
def SRV_CTRL_RESULT : Fld := ⟨0x120040, 16, 8, 0⟩
/-- R204. -/
def SRV_CTRL_DETAIL : Fld := ⟨0x120040, 12, 4, 0⟩
/-- R204. -/
def SRV_CTRL_MODE : Fld := ⟨0x120040, 8, 2, 0⟩
/-- R204. -/
def SRV_CTRL_SR : Fld := ⟨0x120040, 4, 1, 0⟩
/-- R204. -/
def SRV_CTRL_HANDLE : Fld := ⟨0x120040, 0, 4, 0⟩
/-- R204. -/
def SRV_AREA_SQ : Fld := ⟨0x120044, 16, 16, 1⟩
/-- R204. -/
def SRV_AREA_SX : Fld := ⟨0x120044, 0, 16, 1⟩
/-- R204. -/
def SRV_MAP_WS : Fld := ⟨0x120048, 16, 16, 0⟩
/-- R204. -/
def SRV_MAP_MAP : Fld := ⟨0x120048, 0, 16, 0⟩
/-- R204. -/
def SRV_STAT_OUTCOME : Fld := ⟨0x12004c, 8, 2, 0⟩
/-- R204. -/
def SRV_STAT_HANDLE : Fld := ⟨0x12004c, 4, 4, 0⟩
/-- R204. -/
def SRV_STAT_PHASE : Fld := ⟨0x12004c, 0, 3, 0⟩
/-- R204. -/
def SRV_PROG_SEGS : Fld := ⟨0x120050, 0, 32, 0⟩
/-- R204. -/
def SRV_HCRC_LO_HCRC : Fld := ⟨0x120058, 0, 32, 0⟩
/-- R204. -/
def SRV_HCRC_HI_HCRC : Fld := ⟨0x12005c, 0, 32, 0⟩
/-- R204. -/
def SRV_NEED_WS_MIB : Fld := ⟨0x120054, 16, 16, 0⟩
/-- R204. -/
def SRV_NEED_MAP_MIB : Fld := ⟨0x120054, 0, 16, 0⟩
/-- R205. -/
def COR_CFG_ITER : Fld := ⟨0x130040, 16, 3, 3⟩
/-- R205. -/
def COR_CFG_CONV_LIM : Fld := ⟨0x130040, 0, 16, 0x40⟩
/-- R205. -/
def COR_TARGET_T : Fld := ⟨0x130044, 16, 16, 0x2000⟩
/-- R205. -/
def COR_TARGET_H : Fld := ⟨0x130044, 0, 16, 0x2000⟩
/-- R205. -/
def COR_KERN_EN (i : Nat) : Fld := ⟨0x130048 + 4 * i, 31, 1, 0⟩
/-- R205. -/
def COR_KERN_RADIUS (i : Nat) : Fld := ⟨0x130048 + 4 * i, 16, 8, 1⟩
/-- R205. -/
def COR_KERN_ETA (i : Nat) : Fld := ⟨0x130048 + 4 * i, 0, 16, 0⟩
/-- R205. -/
def COR_FOG_EN : Fld := ⟨0x130058, 31, 1, 0⟩
/-- R205. -/
def COR_FOG_RADIUS : Fld := ⟨0x130058, 16, 10, 1⟩
/-- R205. -/
def COR_FOG_ETA : Fld := ⟨0x130058, 0, 16, 0⟩
/-- R205. -/
def COR_PIXSAT_COUNT : Fld := ⟨0x130060, 0, 32, 0⟩
/-- R205. -/
def COR_PIXNEG_COUNT : Fld := ⟨0x130064, 0, 32, 0⟩
/-- R205. -/
def COR_RES_SLICES : Fld := ⟨0x130068, 16, 7, 0x40⟩
/-- R205. -/
def COR_RES_FAILS : Fld := ⟨0x130068, 0, 16, 0⟩
/-- R205. -/
def COR_DMG_LO_OFS_LO : Fld := ⟨0x130070, 0, 32, 0⟩
/-- R205. -/
def COR_DMG_HI_VALID : Fld := ⟨0x130074, 31, 1, 0⟩
/-- R205. -/
def COR_DMG_HI_HANDLE : Fld := ⟨0x130074, 8, 4, 0⟩
/-- R205. -/
def COR_DMG_HI_OFS_HI : Fld := ⟨0x130074, 0, 8, 0⟩
/-- R205. -/
def COR_MAP_DESC_STATE (i : Nat) : Fld := ⟨0x130100 + 32 * i, 30, 2, 0⟩
/-- R205. -/
def COR_MAP_DESC_SR (i : Nat) : Fld := ⟨0x130100 + 32 * i, 29, 1, 0⟩
/-- R205. -/
def COR_MAP_DESC_DAMAGED (i : Nat) : Fld := ⟨0x130100 + 32 * i, 28, 1, 0⟩
/-- R205. -/
def COR_MAP_DESC_COSTED (i : Nat) : Fld := ⟨0x130100 + 32 * i, 27, 1, 0⟩
/-- R205. -/
def COR_MAP_DESC_D (i : Nat) : Fld := ⟨0x130100 + 32 * i, 16, 9, 0⟩
/-- R205. -/
def COR_MAP_DESC_BASE (i : Nat) : Fld := ⟨0x130100 + 32 * i, 0, 16, 0⟩
/-- R205. -/
def COR_MAP_AREA_SQ (i : Nat) : Fld := ⟨0x130104 + 32 * i, 16, 16, 0⟩
/-- R205. -/
def COR_MAP_AREA_SX (i : Nat) : Fld := ⟨0x130104 + 32 * i, 0, 16, 0⟩
/-- R205. -/
def COR_MAP_DONE_COLS (i : Nat) : Fld := ⟨0x130108 + 32 * i, 0, 32, 0⟩
/-- R205. -/
def COR_MAP_PARAM_K (i : Nat) : Fld := ⟨0x13010c + 32 * i, 24, 7, 0⟩
/-- R205. -/
def COR_MAP_PARAM_ITER (i : Nat) : Fld := ⟨0x13010c + 32 * i, 16, 3, 0⟩
/-- R205. -/
def COR_MAP_PARAM_WS (i : Nat) : Fld := ⟨0x13010c + 32 * i, 0, 16, 0⟩
/-- R205. -/
def COR_MAP_CRC_LO_CRC (i : Nat) : Fld := ⟨0x130110 + 32 * i, 0, 32, 0⟩
/-- R205. -/
def COR_MAP_CRC_HI_CRC (i : Nat) : Fld := ⟨0x130114 + 32 * i, 0, 32, 0⟩
/-- R205. -/
def COR_MAP_STAT_DELTA (i : Nat) : Fld := ⟨0x130118 + 32 * i, 0, 16, 0⟩
/-- R205. -/
def COR_MAP_SAT_SAT (i : Nat) : Fld := ⟨0x13011c + 32 * i, 0, 32, 0⟩
/-- R230. -/
def ALC_GEOM_SLOTS_SET : Fld := ⟨0x160040, 16, 6, 0x10⟩
/-- R230. -/
def ALC_GEOM_SLOTS : Fld := ⟨0x160040, 8, 6, 0x10⟩
/-- R230. -/
def ALC_GEOM_KLOG : Fld := ⟨0x160040, 0, 3, 5⟩
/-- R230. -/
def ALC_DOSE_FULL : Fld := ⟨0x160044, 0, 21, 0⟩
/-- R230. -/
def ALC_EMAX_EMAX : Fld := ⟨0x160048, 0, 16, 0x4000⟩
/-- R230. -/
def ALC_DUTY_BEAM_LIM : Fld := ⟨0x16004c, 0, 16, 0xFFFF⟩
/-- R230. -/
def ALC_DUTY_GRP_LIM : Fld := ⟨0x160050, 0, 24, 0xFFFFFF⟩
/-- R230. -/
def ALC_DSEED_SEED : Fld := ⟨0x160054, 0, 32, 0⟩
/-- R230. -/
def ALC_CFG_ABS_MAX : Fld := ⟨0x160058, 16, 13, 0x147A⟩
/-- R230. -/
def ALC_CFG_DAMP : Fld := ⟨0x160058, 8, 8, 0⟩
/-- R230. -/
def ALC_CFG_WEAK_ABSENT : Fld := ⟨0x160058, 0, 1, 0⟩
/-- R230. -/
def ALC_BT_CTRL_CANCEL : Fld := ⟨0x160060, 2, 1, 0⟩
/-- R230. -/
def ALC_BT_CTRL_SWAP : Fld := ⟨0x160060, 1, 1, 0⟩
/-- R230. -/
def ALC_BT_CTRL_VIEW : Fld := ⟨0x160060, 0, 1, 0⟩
/-- R230. -/
def ALC_BT_STAT_WRITABLE : Fld := ⟨0x160064, 31, 1, 1⟩
/-- R230. -/
def ALC_BT_STAT_SWAP_PEND : Fld := ⟨0x160064, 30, 1, 0⟩
/-- R230. -/
def ALC_BT_STAT_COPYING : Fld := ⟨0x160064, 29, 1, 0⟩
/-- R230. -/
def ALC_BT_STAT_NAMED : Fld := ⟨0x160064, 2, 2, 0⟩
/-- R230. -/
def ALC_BT_STAT_ACTIVE : Fld := ⟨0x160064, 0, 1, 0⟩
/-- R230. -/
def ALC_BT_ABS_COUNT : Fld := ⟨0x160068, 0, 19, 0x40000⟩
/-- R230. -/
def ALC_BT_STUCK_COUNT : Fld := ⟨0x16006c, 0, 18, 0⟩
/-- R230. -/
def ALC_CHK_INFO_XS : Fld := ⟨0x160070, 26, 6, 0⟩
/-- R230. -/
def ALC_CHK_INFO_RES : Fld := ⟨0x160070, 23, 3, 0⟩
/-- R230. -/
def ALC_CHK_INFO_INDEX : Fld := ⟨0x160070, 0, 18, 0⟩
/-- R230. -/
def ALC_CHK_COUNT_COUNT : Fld := ⟨0x160074, 0, 18, 0⟩
/-- R230. -/
def ALC_CNT_QSAT_COUNT : Fld := ⟨0x160080, 0, 32, 0⟩
/-- R230. -/
def ALC_CNT_BLIM_COUNT : Fld := ⟨0x160084, 0, 32, 0⟩
/-- R230. -/
def ALC_CNT_GLIM_COUNT : Fld := ⟨0x160088, 0, 32, 0⟩
/-- R230. -/
def ALC_CNT_CARRY_COUNT : Fld := ⟨0x16008c, 0, 32, 0⟩
/-- R230. -/
def ALC_CNT_RETRY_RETRIES : Fld := ⟨0x160090, 0, 16, 0⟩
/-- R230. -/
def ALC_TICK_TICK : Fld := ⟨0x160094, 0, 32, 0xFFFFFFFF⟩
/-- R250. -/
def MOT_GRID_PITCH : Fld := ⟨0x310040, 0, 11, 0x140⟩
/-- R250. -/
def MOT_ORG_X_ORG : Fld := ⟨0x310044, 0, 32, 0⟩
/-- R250. -/
def MOT_ORG_Y_ORG : Fld := ⟨0x310048, 0, 32, 0⟩
/-- R250. -/
def MOT_PORT_RXMODE : Fld := ⟨0x31004c, 30, 2, 0⟩
/-- R250. -/
def MOT_PORT_SLAT : Fld := ⟨0x31004c, 16, 12, 0x1E0⟩
/-- R250. -/
def MOT_PORT_VLOG : Fld := ⟨0x31004c, 8, 3, 3⟩
/-- R250. -/
def MOT_TRIG_STEP_LIM : Fld := ⟨0x310050, 16, 16, 0x1000⟩
/-- R250. -/
def MOT_TRIG_MISS_LIM : Fld := ⟨0x310050, 12, 4, 2⟩
/-- R250. -/
def MOT_TRIG_HYST : Fld := ⟨0x310050, 0, 8, 4⟩
/-- R250. -/
def MOT_TIMING_LATE_LIM : Fld := ⟨0x310054, 0, 16, 0x64⟩
/-- R250. -/
def MOT_DEFL_ENABLE : Fld := ⟨0x310058, 31, 1, 1⟩
/-- R250. -/
def MOT_DEFL_LIM : Fld := ⟨0x310058, 0, 24, 0x4000⟩
/-- R250. -/
def MOT_POS_STAT_PSTATE : Fld := ⟨0x310060, 29, 3, 0⟩
/-- R250. -/
def MOT_POS_STAT_SUPPRESS : Fld := ⟨0x310060, 28, 1, 0⟩
/-- R250. -/
def MOT_POS_STAT_LOCK : Fld := ⟨0x310060, 26, 2, 0⟩
/-- R250. -/
def MOT_POS_STAT_LANE : Fld := ⟨0x310060, 25, 1, 0⟩
/-- R250. -/
def MOT_POS_STAT_SEQ : Fld := ⟨0x310060, 0, 16, 0⟩
/-- R250. -/
def MOT_POS_X_LO_POS : Fld := ⟨0x310064, 0, 32, 0⟩
/-- R250. -/
def MOT_POS_X_HI_POS : Fld := ⟨0x310068, 0, 16, 0⟩
/-- R250. -/
def MOT_POS_Y_LO_POS : Fld := ⟨0x31006c, 0, 32, 0⟩
/-- R250. -/
def MOT_POS_Y_HI_POS : Fld := ⟨0x310070, 0, 16, 0⟩
/-- R250. -/
def MOT_VEL_Y_VEL : Fld := ⟨0x310074, 0, 32, 0⟩
/-- R250. -/
def MOT_TICK_NEXT_TICK : Fld := ⟨0x310078, 0, 32, 0xFFFFFFFF⟩
/-- R250. -/
def MOT_EDGE_RES_EPS : Fld := ⟨0x31007c, 0, 32, 0⟩
/-- R250. -/
def MOT_EDGE_TS_LO_TS : Fld := ⟨0x310080, 0, 32, 0⟩
/-- R250. -/
def MOT_EDGE_TS_HI_TS : Fld := ⟨0x310084, 0, 32, 0⟩
/-- R250. -/
def MOT_SMP_TS_LO_TS : Fld := ⟨0x310088, 0, 32, 0⟩
/-- R250. -/
def MOT_SMP_TS_HI_TS : Fld := ⟨0x31008c, 0, 32, 0⟩
/-- R250. -/
def MOT_CNT_0_CRC : Fld := ⟨0x310090, 16, 16, 0⟩
/-- R250. -/
def MOT_CNT_0_MISS : Fld := ⟨0x310090, 0, 16, 0⟩
/-- R250. -/
def MOT_CNT_1_STALE : Fld := ⟨0x310094, 16, 16, 0⟩
/-- R250. -/
def MOT_CNT_1_TIMING : Fld := ⟨0x310094, 0, 16, 0⟩
/-- R250. -/
def MOT_CNT_2_REPEAT : Fld := ⟨0x310098, 16, 16, 0⟩
/-- R250. -/
def MOT_CNT_2_JITTER : Fld := ⟨0x310098, 0, 16, 0⟩
/-- R250. -/
def MOT_CNT_3_STEP : Fld := ⟨0x31009c, 16, 16, 0⟩
/-- R250. -/
def MOT_CNT_3_EXTRAP : Fld := ⟨0x31009c, 0, 16, 0⟩
/-- R250. -/
def MOT_CNT_4_OVSP : Fld := ⟨0x3100a0, 16, 16, 0⟩
/-- R250. -/
def MOT_CNT_4_LATE_EDGE : Fld := ⟨0x3100a0, 0, 16, 0⟩
/-- R250. -/
def MOT_CNT_5_DCLAMP : Fld := ⟨0x3100a4, 0, 16, 0⟩
/-- R276. -/
def MOT_PROF_ACC_ACC : Fld := ⟨0x3100c0, 0, 24, 0x10625⟩
/-- R276. -/
def MOT_PROF_DEC_DEC : Fld := ⟨0x3100c4, 0, 24, 0x10625⟩
/-- R276. -/
def MOT_PROF_STOP_STOP : Fld := ⟨0x3100c8, 0, 24, 0x20C4A⟩
/-- R276. -/
def MOT_PROF_VMAX_VMAX : Fld := ⟨0x3100cc, 0, 32, 0x640000⟩
/-- R276. -/
def MOT_PLAN_VMIN_VMIN : Fld := ⟨0x3100d0, 0, 32, 0x40000⟩
/-- R276. -/
def MOT_PLAN_CFG_MARGIN : Fld := ⟨0x3100d4, 24, 8, 0x20⟩
/-- R276. -/
def MOT_PLAN_CFG_LATE_FRAC : Fld := ⟨0x3100d4, 16, 8, 0x80⟩
/-- R276. -/
def MOT_PLAN_CFG_SETTLE : Fld := ⟨0x3100d4, 0, 16, 0x3E8⟩
/-- R276. -/
def MOT_LATE_LEAD_LEAD : Fld := ⟨0x3100d8, 0, 32, 0x2000⟩
/-- R276. -/
def MOT_TURN_GAP_MAX : Fld := ⟨0x3100dc, 0, 16, 0xFA⟩
/-- R276. -/
def MOT_VLIM_X_LO_LIM : Fld := ⟨0x3100e0, 0, 32, 0⟩
/-- R276. -/
def MOT_VLIM_X_HI_LIM : Fld := ⟨0x3100e4, 0, 32, 0⟩
/-- R276. -/
def MOT_VLIM_Y_LO_LIM : Fld := ⟨0x3100e8, 0, 32, 0⟩
/-- R276. -/
def MOT_VLIM_Y_HI_LIM : Fld := ⟨0x3100ec, 0, 32, 0⟩
/-- R276. -/
def MOT_THERM_LIM_HARD : Fld := ⟨0x3100f0, 16, 16, 0x320⟩
/-- R276. -/
def MOT_THERM_LIM_SOFT : Fld := ⟨0x3100f0, 0, 16, 0x2D0⟩
/-- R276. -/
def MOT_THERM_CFG_THYST : Fld := ⟨0x3100f4, 8, 8, 0x20⟩
/-- R276. -/
def MOT_THERM_CFG_STALE : Fld := ⟨0x3100f4, 0, 8, 0xA⟩
/-- R276. -/
def MOT_TEMP_FRESH : Fld := ⟨0x3100f8, 16, 1, 0⟩
/-- R276. -/
def MOT_TEMP_TEMP : Fld := ⟨0x3100f8, 0, 16, 0⟩
/-- R276. -/
def MOT_MOVE_X_X : Fld := ⟨0x310100, 0, 32, 0⟩
/-- R276. -/
def MOT_MOVE_Y_Y : Fld := ⟨0x310104, 0, 32, 0⟩
/-- R276. -/
def MOT_MOVE_CTRL_GO : Fld := ⟨0x310108, 31, 1, 0⟩
/-- R276. -/
def MOT_MOVE_CTRL_RESULT : Fld := ⟨0x310108, 16, 8, 0⟩
/-- R276. -/
def MOT_HALT_CTRL_ABANDON : Fld := ⟨0x310110, 2, 1, 0⟩
/-- R276. -/
def MOT_HALT_CTRL_RESUME : Fld := ⟨0x310110, 1, 1, 0⟩
/-- R276. -/
def MOT_HALT_CTRL_STOP : Fld := ⟨0x310110, 0, 1, 0⟩
/-- R276. -/
def MOT_HALT_STAT_HSTATE : Fld := ⟨0x310114, 29, 3, 0⟩
/-- R276. -/
def MOT_HALT_STAT_REASON : Fld := ⟨0x310114, 16, 12, 0⟩
/-- R276. -/
def MOT_HALT_STAT_SLOW_THERM : Fld := ⟨0x310114, 2, 1, 0⟩
/-- R276. -/
def MOT_HALT_STAT_SLOW_LATE : Fld := ⟨0x310114, 1, 1, 0⟩
/-- R276. -/
def MOT_HALT_STAT_GAP : Fld := ⟨0x310114, 0, 1, 0⟩
/-- R276. -/
def MOT_HALT_TICK_TICK : Fld := ⟨0x310118, 0, 32, 0xFFFFFFFF⟩
/-- R276. -/
def MOT_HALT_CNT_HALTS : Fld := ⟨0x31011c, 16, 16, 0⟩
/-- R276. -/
def MOT_HALT_CNT_SLOWS : Fld := ⟨0x31011c, 0, 16, 0⟩
/-- R276. -/
def MOT_PLAN_TC_TC : Fld := ⟨0x310120, 0, 32, 0⟩
/-- R276. -/
def MOT_PLAN_INFO_INFO : Fld := ⟨0x310124, 0, 32, 0⟩
/-- R276. -/
def MOT_PLAN_TQ_TQ : Fld := ⟨0x310128, 0, 32, 0⟩
/-- R481. -/
def MOT_MRX_EQ_FREEZE (i : Nat) : Fld := ⟨0x310140 + 4 * i, 31, 1, 0⟩
/-- R481. -/
def MOT_MRX_EQ_CTLE (i : Nat) : Fld := ⟨0x310140 + 4 * i, 24, 4, 8⟩
/-- R481. -/
def MOT_MRX_EQ_PHASE (i : Nat) : Fld := ⟨0x310140 + 4 * i, 18, 6, 0⟩
/-- R481. -/
def MOT_MRX_EQ_EYE_W (i : Nat) : Fld := ⟨0x310140 + 4 * i, 8, 8, 0⟩
/-- R481. -/
def MOT_MRX_EQ_EYE_H (i : Nat) : Fld := ⟨0x310140 + 4 * i, 0, 8, 0⟩
/-- R303. -/
def PAK_CFG_ECHO_TO : Fld := ⟨0x170040, 24, 8, 0x10⟩
/-- R303. -/
def PAK_CFG_MODE : Fld := ⟨0x170040, 16, 2, 0⟩
/-- R303. -/
def PAK_CFG_ORDER : Fld := ⟨0x170040, 8, 1, 0⟩
/-- R303. -/
def PAK_CFG_RESEND_LIM : Fld := ⟨0x170040, 0, 3, 4⟩
/-- R303. -/
def PAK_CTRL_RETRAIN : Fld := ⟨0x170044, 0, 1, 0⟩
/-- R303. -/
def PAK_STAT_LSTATE : Fld := ⟨0x170048, 29, 3, 0⟩
/-- R303. -/
def PAK_STAT_K : Fld := ⟨0x170048, 16, 7, 0⟩
/-- R303. -/
def PAK_STAT_STANDBY : Fld := ⟨0x170048, 8, 7, 0⟩
/-- R303. -/
def PAK_STAT_QRX_LOCK : Fld := ⟨0x170048, 0, 4, 0⟩
/-- R303. -/
def PAK_QRX_MAP_VALID_3 : Fld := ⟨0x17004c, 31, 1, 0⟩
/-- R303. -/
def PAK_QRX_MAP_INV_3 : Fld := ⟨0x17004c, 30, 1, 0⟩
/-- R303. -/
def PAK_QRX_MAP_SRC_3 : Fld := ⟨0x17004c, 24, 2, 0⟩
/-- R303. -/
def PAK_QRX_MAP_VALID_2 : Fld := ⟨0x17004c, 23, 1, 0⟩
/-- R303. -/
def PAK_QRX_MAP_INV_2 : Fld := ⟨0x17004c, 22, 1, 0⟩
/-- R303. -/
def PAK_QRX_MAP_SRC_2 : Fld := ⟨0x17004c, 16, 2, 0⟩
/-- R303. -/
def PAK_QRX_MAP_VALID_1 : Fld := ⟨0x17004c, 15, 1, 0⟩
/-- R303. -/
def PAK_QRX_MAP_INV_1 : Fld := ⟨0x17004c, 14, 1, 0⟩
/-- R303. -/
def PAK_QRX_MAP_SRC_1 : Fld := ⟨0x17004c, 8, 2, 0⟩
/-- R303. -/
def PAK_QRX_MAP_VALID_0 : Fld := ⟨0x17004c, 7, 1, 0⟩
/-- R303. -/
def PAK_QRX_MAP_INV_0 : Fld := ⟨0x17004c, 6, 1, 0⟩
/-- R303. -/
def PAK_QRX_MAP_SRC_0 : Fld := ⟨0x17004c, 0, 2, 0⟩
/-- R303. -/
def PAK_ACK_TICK_TICK : Fld := ⟨0x170050, 0, 32, 0xFFFFFFFF⟩
/-- R303. -/
def PAK_CNT_RESENT : Fld := ⟨0x170054, 16, 16, 0⟩
/-- R303. -/
def PAK_CNT_ECHO_TO : Fld := ⟨0x170054, 0, 16, 0⟩
/-- R303. -/
def PAK_ARY_ALIVE_ALIVE : Fld := ⟨0x170058, 0, 32, 0⟩
/-- R303. -/
def PAK_ARY_TEMP_TEMP : Fld := ⟨0x17005c, 0, 16, 0⟩
/-- R490. -/
def PAK_ALN_CFG_REPEAT : Fld := ⟨0x170060, 24, 8, 0x40⟩
/-- R490. -/
def PAK_ALN_CFG_CODE : Fld := ⟨0x170060, 16, 8, 0x20⟩
/-- R490. -/
def PAK_ALN_CFG_PERIOD : Fld := ⟨0x170060, 8, 8, 8⟩
/-- R490. -/
def PAK_ALN_CFG_STEP_MAX : Fld := ⟨0x170060, 0, 8, 0x14⟩
/-- R490. -/
def PAK_ALN_LAT_LAT : Fld := ⟨0x170064, 0, 16, 0⟩
/-- R490. -/
def PAK_ALN_SCHED_NOW : Fld := ⟨0x170068, 31, 1, 0⟩
/-- R490. -/
def PAK_ALN_SCHED_ROT_EVERY : Fld := ⟨0x170068, 16, 8, 4⟩
/-- R490. -/
def PAK_ALN_SCHED_ALN_EVERY : Fld := ⟨0x170068, 0, 8, 0x10⟩
/-- R490. -/
def PAK_ALN_STAT_RUNNING : Fld := ⟨0x17006c, 31, 1, 0⟩
/-- R490. -/
def PAK_ALN_STAT_RESULT : Fld := ⟨0x17006c, 16, 8, 0⟩
/-- R490. -/
def PAK_ALN_STAT_RUNS : Fld := ⟨0x17006c, 0, 16, 0⟩
/-- R490. -/
def PAK_ALN_SPREAD_LANE : Fld := ⟨0x170070, 16, 7, 0x7F⟩
/-- R490. -/
def PAK_ALN_SPREAD_DELTA : Fld := ⟨0x170070, 0, 16, 0⟩
/-- R481. -/
def PAK_QRX_EQ_FREEZE (i : Nat) : Fld := ⟨0x170080 + 4 * i, 31, 1, 0⟩
/-- R481. -/
def PAK_QRX_EQ_CTLE (i : Nat) : Fld := ⟨0x170080 + 4 * i, 24, 4, 8⟩
/-- R481. -/
def PAK_QRX_EQ_PHASE (i : Nat) : Fld := ⟨0x170080 + 4 * i, 18, 6, 0⟩
/-- R481. -/
def PAK_QRX_EQ_EYE_W (i : Nat) : Fld := ⟨0x170080 + 4 * i, 8, 8, 0⟩
/-- R481. -/
def PAK_QRX_EQ_EYE_H (i : Nat) : Fld := ⟨0x170080 + 4 * i, 0, 8, 0⟩
/-- R304. -/
def QLK_CFG_USE (n : Nat) : Fld := ⟨0x200040 + 0x1000 * n, 0, 2, 1⟩
/-- R304. -/
def QLK_CTRL_RETRAIN (n : Nat) : Fld := ⟨0x200044 + 0x1000 * n, 0, 1, 0⟩
/-- R304. -/
def QLK_STAT_ROLE (n : Nat) : Fld := ⟨0x200048 + 0x1000 * n, 29, 3, 0⟩
/-- R304. -/
def QLK_STAT_INV (n : Nat) : Fld := ⟨0x200048 + 0x1000 * n, 28, 1, 0⟩
/-- R304. -/
def QLK_STAT_LOGICAL (n : Nat) : Fld := ⟨0x200048 + 0x1000 * n, 16, 7, 0x7F⟩
/-- R304. -/
def QLK_STAT_RXN (n : Nat) : Fld := ⟨0x200048 + 0x1000 * n, 8, 7, 0x7F⟩
/-- R304. -/
def QLK_STAT_FAILCAUSE (n : Nat) : Fld := ⟨0x200048 + 0x1000 * n, 0, 4, 0⟩
/-- R304. -/
def QLK_SKEW_SKEW (n : Nat) : Fld := ⟨0x20004c + 0x1000 * n, 0, 12, 0⟩
/-- R304. -/
def QLK_EYE_WIDTH (n : Nat) : Fld := ⟨0x200050 + 0x1000 * n, 16, 16, 0⟩
/-- R304. -/
def QLK_EYE_HEIGHT (n : Nat) : Fld := ⟨0x200050 + 0x1000 * n, 0, 16, 0⟩
/-- R304. -/
def QLK_CNT_RESENT (n : Nat) : Fld := ⟨0x200054 + 0x1000 * n, 16, 16, 0⟩
/-- R304. -/
def QLK_CNT_ECHO_TO (n : Nat) : Fld := ⟨0x200054 + 0x1000 * n, 0, 16, 0⟩
/-- R304. -/
def QLK_ALIVE_ACKED (n : Nat) : Fld := ⟨0x200058 + 0x1000 * n, 8, 8, 0⟩
/-- R304. -/
def QLK_ALIVE_SENT (n : Nat) : Fld := ⟨0x200058 + 0x1000 * n, 0, 8, 0⟩
/-- R484. -/
def QLK_TXEQ_PRESET (n : Nat) : Fld := ⟨0x20005c + 0x1000 * n, 16, 4, 2⟩
/-- R484. -/
def QLK_TXEQ_AUTO (n : Nat) : Fld := ⟨0x20005c + 0x1000 * n, 15, 1, 1⟩
/-- R484. -/
def QLK_TXEQ_SCANS (n : Nat) : Fld := ⟨0x20005c + 0x1000 * n, 0, 8, 0⟩
/-- R320. -/
def ARY_SPI_DIV : Fld := ⟨0x300040, 0, 8, 0x10⟩
/-- R320. -/
def ARY_CFG_POLL : Fld := ⟨0x300044, 8, 8, 1⟩
/-- R320. -/
def ARY_CFG_HKTEMP : Fld := ⟨0x300044, 0, 1, 1⟩
/-- R320. -/
def ARY_PASS_CTRL_LOAD : Fld := ⟨0x300048, 31, 1, 0⟩
/-- R320. -/
def ARY_PASS_CTRL_RESULT : Fld := ⟨0x300048, 16, 8, 0⟩
/-- R320. -/
def ARY_PASS_CTRL_BUSY : Fld := ⟨0x300048, 0, 1, 0⟩
/-- R320. -/
def ARY_PASS_INFO_RANK : Fld := ⟨0x30004c, 24, 8, 0⟩
/-- R320. -/
def ARY_PASS_INFO_NDEF : Fld := ⟨0x30004c, 0, 15, 0⟩
/-- R320. -/
def ARY_PASS_SER_SER (i : Nat) : Fld := ⟨0x300050 + 4 * i, 0, 32, 0⟩
/-- R320. -/
def ARY_PASS_CNT_BADGAIN : Fld := ⟨0x300060, 0, 18, 0⟩
/-- R320. -/
def ARY_HK_CMD_GO : Fld := ⟨0x300070, 31, 1, 0⟩
/-- R320. -/
def ARY_HK_CMD_WRITE : Fld := ⟨0x300070, 30, 1, 0⟩
/-- R320. -/
def ARY_HK_CMD_ADDR : Fld := ⟨0x300070, 16, 8, 0⟩
/-- R320. -/
def ARY_HK_CMD_DATA : Fld := ⟨0x300070, 0, 16, 0⟩
/-- R320. -/
def ARY_HK_RES_BUSY : Fld := ⟨0x300074, 31, 1, 0⟩
/-- R320. -/
def ARY_HK_RES_DATA : Fld := ⟨0x300074, 0, 16, 0⟩
/-- R320. -/
def ARY_TEMP_SRC : Fld := ⟨0x300078, 16, 2, 0⟩
/-- R320. -/
def ARY_TEMP_TEMP : Fld := ⟨0x300078, 0, 16, 0⟩
/-- R320. -/
def ARY_DET_CFG_FMT : Fld := ⟨0x300080, 4, 1, 0⟩
/-- R320. -/
def ARY_DET_CFG_LANES : Fld := ⟨0x300080, 0, 4, 1⟩
/-- R320. -/
def ARY_DET_STAT_RATE : Fld := ⟨0x300084, 16, 16, 0⟩
/-- R320. -/
def ARY_DET_STAT_LOCK : Fld := ⟨0x300084, 0, 4, 0⟩
/-- R482. -/
def ARY_DET_PHASE_FREEZE : Fld := ⟨0x300088, 31, 1, 0⟩
/-- R482. -/
def ARY_DET_PHASE_PH_3 : Fld := ⟨0x300088, 12, 4, 4⟩
/-- R482. -/
def ARY_DET_PHASE_PH_2 : Fld := ⟨0x300088, 8, 4, 4⟩
/-- R482. -/
def ARY_DET_PHASE_PH_1 : Fld := ⟨0x300088, 4, 4, 4⟩
/-- R482. -/
def ARY_DET_PHASE_PH_0 : Fld := ⟨0x300088, 0, 4, 4⟩
/-- R320. -/
def ARY_BC_CFG_EN : Fld := ⟨0x300090, 31, 1, 0⟩
/-- R320. -/
def ARY_BC_CFG_SLOT : Fld := ⟨0x300090, 16, 8, 0x32⟩
/-- R320. -/
def ARY_BC_CFG_ON : Fld := ⟨0x300090, 8, 8, 0x14⟩
/-- R320. -/
def ARY_BC_RUN_COUNT : Fld := ⟨0x300094, 0, 16, 0x400⟩
/-- R320. -/
def ARY_BC_TIME_DLY : Fld := ⟨0x300098, 16, 16, 0x258⟩
/-- R320. -/
def ARY_BC_TIME_WOFS : Fld := ⟨0x300098, 8, 8, 5⟩
/-- R320. -/
def ARY_BC_TIME_WLEN : Fld := ⟨0x300098, 0, 8, 0xF⟩
/-- R320. -/
def ARY_BC_NOM_NOM : Fld := ⟨0x30009c, 0, 24, 0x4B000⟩
/-- R320. -/
def ARY_BC_THR_WEAK_LO : Fld := ⟨0x3000a0, 16, 16, 0x3000⟩
/-- R320. -/
def ARY_BC_THR_ABS_LO : Fld := ⟨0x3000a0, 0, 16, 0x800⟩
/-- R320. -/
def ARY_BC_DARK_BASE : Fld := ⟨0x3000a4, 16, 16, 0x800⟩
/-- R320. -/
def ARY_BC_DARK_LIM : Fld := ⟨0x3000a4, 0, 16, 0x40⟩
/-- R320. -/
def ARY_BC_BASE_BASE : Fld := ⟨0x3000a8, 0, 17, 0⟩
/-- R320. -/
def ARY_BC_CTRL_START : Fld := ⟨0x3000ac, 31, 1, 0⟩
/-- R320. -/
def ARY_BC_CTRL_ABORT : Fld := ⟨0x3000ac, 30, 1, 0⟩
/-- R320. -/
def ARY_BC_CTRL_RESULT : Fld := ⟨0x3000ac, 16, 8, 0⟩
/-- R320. -/
def ARY_BC_CTRL_ALL : Fld := ⟨0x3000ac, 4, 1, 0⟩
/-- R320. -/
def ARY_BC_CTRL_PART : Fld := ⟨0x3000ac, 0, 4, 0⟩
/-- R320. -/
def ARY_BC_STAT_RUNNING : Fld := ⟨0x3000b0, 31, 1, 0⟩
/-- R320. -/
def ARY_BC_STAT_PEND_WB : Fld := ⟨0x3000b0, 30, 1, 0⟩
/-- R320. -/
def ARY_BC_STAT_SESSION : Fld := ⟨0x3000b0, 20, 8, 0⟩
/-- R320. -/
def ARY_BC_STAT_NEXT_PART : Fld := ⟨0x3000b0, 16, 4, 0⟩
/-- R320. -/
def ARY_BC_STAT_NEXT_OFS : Fld := ⟨0x3000b0, 0, 14, 0⟩
/-- R320. -/
def ARY_BC_CNT_CHANGED : Fld := ⟨0x3000b4, 16, 16, 0⟩
/-- R320. -/
def ARY_BC_CNT_SKIPPED : Fld := ⟨0x3000b4, 0, 16, 0⟩
/-- R492. -/
def ARY_GAIN_CFG_EN : Fld := ⟨0x3000c0, 31, 1, 1⟩
/-- R492. -/
def ARY_GAIN_CFG_SWAP : Fld := ⟨0x3000c0, 30, 1, 0⟩
/-- R492. -/
def ARY_GAIN_CFG_DEAD : Fld := ⟨0x3000c0, 16, 8, 8⟩
/-- R492. -/
def ARY_GAIN_CFG_STEP : Fld := ⟨0x3000c0, 0, 16, 0x80⟩
/-- R492. -/
def ARY_GAIN_CNT_STEPS : Fld := ⟨0x3000c4, 16, 16, 0⟩
/-- R492. -/
def ARY_GAIN_CNT_LIMITED : Fld := ⟨0x3000c4, 0, 16, 0⟩
/-- R345. -/
def MEM_STAT_TEMP (n : Nat) : Fld := ⟨0x400040 + 0x1000 * n, 24, 8, 0⟩
/-- R345. -/
def MEM_STAT_SPARES (n : Nat) : Fld := ⟨0x400040 + 0x1000 * n, 16, 2, 2⟩
/-- R345. -/
def MEM_STAT_COPYING (n : Nat) : Fld := ⟨0x400040 + 0x1000 * n, 2, 1, 0⟩
/-- R345. -/
def MEM_STAT_REF2X (n : Nat) : Fld := ⟨0x400040 + 0x1000 * n, 1, 1, 0⟩
/-- R345. -/
def MEM_STAT_INIT_DONE (n : Nat) : Fld := ⟨0x400040 + 0x1000 * n, 0, 1, 0⟩
/-- R345. -/
def MEM_CE_COUNT (n : Nat) : Fld := ⟨0x400044 + 0x1000 * n, 0, 32, 0⟩
/-- R345. -/
def MEM_UE_FOUND (n : Nat) : Fld := ⟨0x400048 + 0x1000 * n, 16, 16, 0⟩
/-- R345. -/
def MEM_UE_LOST (n : Nat) : Fld := ⟨0x400048 + 0x1000 * n, 8, 8, 0⟩
/-- R345. -/
def MEM_UE_NARROW (n : Nat) : Fld := ⟨0x400048 + 0x1000 * n, 0, 8, 0⟩
/-- R345. -/
def MEM_SCRUB_POS_N (n : Nat) : Fld := ⟨0x40004c + 0x1000 * n, 0, 22, 0⟩
/-- R345. -/
def MEM_SCRUB_PASS_PASSES (n : Nat) : Fld := ⟨0x400050 + 0x1000 * n, 0, 32, 0⟩
/-- R345. -/
def MEM_SPARE_CTRL_GO (n : Nat) : Fld := ⟨0x400054 + 0x1000 * n, 31, 1, 0⟩
/-- R345. -/
def MEM_SPARE_CTRL_RESULT (n : Nat) : Fld := ⟨0x400054 + 0x1000 * n, 16, 8, 0⟩
/-- R345. -/
def MEM_SPARE_CTRL_PC (n : Nat) : Fld := ⟨0x400054 + 0x1000 * n, 0, 5, 0⟩
/-- R345. -/
def MEM_PPR_CTRL_GO (n : Nat) : Fld := ⟨0x400058 + 0x1000 * n, 31, 1, 0⟩
/-- R345. -/
def MEM_PPR_CTRL_RESULT (n : Nat) : Fld := ⟨0x400058 + 0x1000 * n, 16, 8, 0⟩
/-- R345. -/
def MEM_PPR_CTRL_LEFT (n : Nat) : Fld := ⟨0x400058 + 0x1000 * n, 0, 16, 0⟩
/-- R345. -/
def MEM_UE_HEAD_LO_ADDR_LO (n : Nat) : Fld := ⟨0x400060 + 0x1000 * n, 0, 32, 0⟩
/-- R345. -/
def MEM_UE_HEAD_HI_VALID (n : Nat) : Fld := ⟨0x400064 + 0x1000 * n, 31, 1, 0⟩
/-- R345. -/
def MEM_UE_HEAD_HI_COUNT (n : Nat) : Fld := ⟨0x400064 + 0x1000 * n, 26, 5, 0⟩
/-- R345. -/
def MEM_UE_HEAD_HI_PC (n : Nat) : Fld := ⟨0x400064 + 0x1000 * n, 19, 7, 0⟩
/-- R345. -/
def MEM_UE_HEAD_HI_REGION (n : Nat) : Fld := ⟨0x400064 + 0x1000 * n, 16, 3, 0⟩
/-- R345. -/
def MEM_UE_HEAD_HI_ORIGIN (n : Nat) : Fld := ⟨0x400064 + 0x1000 * n, 8, 8, 0⟩
/-- R345. -/
def MEM_UE_HEAD_HI_ADDR_HI (n : Nat) : Fld := ⟨0x400064 + 0x1000 * n, 0, 5, 0⟩
/-- R345. -/
def MEM_UE_CTRL_POP (n : Nat) : Fld := ⟨0x400068 + 0x1000 * n, 0, 1, 0⟩
/-- R345. -/
def MEM_PC_STATE (n : Nat) (i : Nat) : Fld := ⟨0x400100 + 0x1000 * n + 4 * i, 29, 3, if i < 30 then 0 else 1⟩
/-- R345. -/
def MEM_PC_LOGICAL (n : Nat) (i : Nat) : Fld := ⟨0x400100 + 0x1000 * n + 4 * i, 21, 7, if i < 30 then 30 * n + i else 0x7F⟩
/-- R345. -/
def MEM_PC_REMAPS (n : Nat) (i : Nat) : Fld := ⟨0x400100 + 0x1000 * n + 4 * i, 10, 11, 0⟩
/-- R345. -/
def MEM_PC_UE (n : Nat) (i : Nat) : Fld := ⟨0x400100 + 0x1000 * n + 4 * i, 0, 8, 0⟩
/-- R346. -/
def MEM_MAP_HSEL_5 : Fld := ⟨0x400200, 20, 4, 5⟩
/-- R346. -/
def MEM_MAP_HSEL_4 : Fld := ⟨0x400200, 16, 4, 4⟩
/-- R346. -/
def MEM_MAP_HSEL_3 : Fld := ⟨0x400200, 12, 4, 3⟩
/-- R346. -/
def MEM_MAP_HSEL_2 : Fld := ⟨0x400200, 8, 4, 2⟩
/-- R346. -/
def MEM_MAP_HSEL_1 : Fld := ⟨0x400200, 4, 4, 1⟩
/-- R346. -/
def MEM_MAP_HSEL_0 : Fld := ⟨0x400200, 0, 4, 0⟩
/-- R346. -/
def MEM_REGION_SB_GIB : Fld := ⟨0x400204, 24, 8, 0x18⟩
/-- R346. -/
def MEM_REGION_MAP_GIB : Fld := ⟨0x400204, 16, 8, 0x1B⟩
/-- R346. -/
def MEM_REGION_LS_GIB : Fld := ⟨0x400204, 8, 8, 0x22⟩
/-- R346. -/
def MEM_REGION_WS_GIB : Fld := ⟨0x400204, 0, 8, 4⟩
/-- R346. -/
def MEM_REGION_RES_RESULT : Fld := ⟨0x400208, 0, 8, 0⟩
/-- R346. -/
def MEM_SCRUB_EN : Fld := ⟨0x40020c, 31, 1, 1⟩
/-- R346. -/
def MEM_SCRUB_PERIOD : Fld := ⟨0x40020c, 0, 11, 0x3C⟩
/-- R346. -/
def MEM_ACT_NB : Fld := ⟨0x400210, 16, 2, 2⟩
/-- R346. -/
def MEM_ACT_TH : Fld := ⟨0x400210, 0, 16, 0x1000⟩
/-- R346. -/
def MEM_REF_MODE : Fld := ⟨0x400214, 4, 1, 0⟩
/-- R346. -/
def MEM_REF_DEBT_MAX : Fld := ⟨0x400214, 0, 4, 8⟩
/-- R346. -/
def MEM_SPARE_CFG_AUTO : Fld := ⟨0x400218, 31, 1, 1⟩
/-- R346. -/
def MEM_SPARE_CFG_REMAP_LIM : Fld := ⟨0x400218, 12, 12, 0x100⟩
/-- R346. -/
def MEM_SPARE_CFG_UE_LIM : Fld := ⟨0x400218, 0, 8, 0x10⟩
/-- R346. -/
def MEM_TEST_CTRL_WRITE : Fld := ⟨0x400220, 31, 1, 0⟩
/-- R346. -/
def MEM_TEST_CTRL_READ : Fld := ⟨0x400220, 30, 1, 0⟩
/-- R346. -/
def MEM_TEST_CTRL_RESULT : Fld := ⟨0x400220, 16, 8, 0⟩
/-- R346. -/
def MEM_TEST_ADDR_LO_ADDR : Fld := ⟨0x400224, 0, 32, 0⟩
/-- R346. -/
def MEM_TEST_ADDR_HI_ADDR : Fld := ⟨0x400228, 0, 5, 0⟩
/-- R346. -/
def MEM_TEST_CHK_CHK : Fld := ⟨0x40022c, 0, 32, 0⟩
/-- R346. -/
def MEM_TEST_SYN_SYN : Fld := ⟨0x400230, 0, 32, 0⟩
/-- R365. -/
def DMA_CFG_HOP_LIM (n : Nat) : Fld := ⟨0x500040 + 0x1000 * n, 16, 16, 0x1000⟩
/-- R365. -/
def DMA_CFG_OUTSTD (n : Nat) : Fld := ⟨0x500040 + 0x1000 * n, 0, 6, 0x10⟩
/-- R365. -/
def DMA_CTRL_RESULT (n : Nat) : Fld := ⟨0x500044 + 0x1000 * n, 16, 8, 0⟩
/-- R365. -/
def DMA_CTRL_CLEAR (n : Nat) : Fld := ⟨0x500044 + 0x1000 * n, 4, 1, 0⟩
/-- R365. -/
def DMA_CTRL_STOP (n : Nat) : Fld := ⟨0x500044 + 0x1000 * n, 3, 1, 0⟩
/-- R365. -/
def DMA_CTRL_RESUME (n : Nat) : Fld := ⟨0x500044 + 0x1000 * n, 2, 1, 0⟩
/-- R365. -/
def DMA_CTRL_PAUSE (n : Nat) : Fld := ⟨0x500044 + 0x1000 * n, 1, 1, 0⟩
/-- R365. -/
def DMA_CTRL_GO (n : Nat) : Fld := ⟨0x500044 + 0x1000 * n, 0, 1, 0⟩
/-- R365. -/
def DMA_STAT_STATE (n : Nat) : Fld := ⟨0x500048 + 0x1000 * n, 29, 3, 0⟩
/-- R365. -/
def DMA_STAT_PEND (n : Nat) : Fld := ⟨0x500048 + 0x1000 * n, 28, 1, 0⟩
/-- R365. -/
def DMA_STAT_ACT (n : Nat) : Fld := ⟨0x500048 + 0x1000 * n, 27, 1, 0⟩
/-- R365. -/
def DMA_STAT_DISCARD (n : Nat) : Fld := ⟨0x500048 + 0x1000 * n, 26, 1, 0⟩
/-- R365. -/
def DMA_STAT_ERR (n : Nat) : Fld := ⟨0x500048 + 0x1000 * n, 16, 8, 0⟩
/-- R365. -/
def DMA_STAT_HOPS (n : Nat) : Fld := ⟨0x500048 + 0x1000 * n, 0, 16, 0⟩
/-- R365. -/
def DMA_LAST_RESULT (n : Nat) : Fld := ⟨0x50004c + 0x1000 * n, 24, 8, 0⟩
/-- R365. -/
def DMA_LAST_TAG (n : Nat) : Fld := ⟨0x50004c + 0x1000 * n, 0, 16, 0⟩
/-- R365. -/
def DMA_D_D (n : Nat) (i : Nat) : Fld := ⟨0x500080 + 0x1000 * n + 4 * i, 0, 32, 0⟩
/-- R365. -/
def DMA_A_A (n : Nat) (i : Nat) : Fld := ⟨0x5000c0 + 0x1000 * n + 4 * i, 0, 32, 0⟩
/-- R365. -/
def DMA_POS_DONE_LO_DONE (n : Nat) : Fld := ⟨0x500100 + 0x1000 * n, 0, 32, 0⟩
/-- R365. -/
def DMA_POS_DONE_HI_DONE (n : Nat) : Fld := ⟨0x500104 + 0x1000 * n, 0, 32, 0⟩
/-- R365. -/
def DMA_POS_DESC_LO_DESC (n : Nat) : Fld := ⟨0x500108 + 0x1000 * n, 0, 32, 0⟩
/-- R365. -/
def DMA_POS_DESC_HI_DESC (n : Nat) : Fld := ⟨0x50010c + 0x1000 * n, 0, 32, 0⟩
/-- R365. -/
def DMA_CHKVAL_LO_R (n : Nat) : Fld := ⟨0x500110 + 0x1000 * n, 0, 32, 0⟩
/-- R365. -/
def DMA_CHKVAL_HI_R (n : Nat) : Fld := ⟨0x500114 + 0x1000 * n, 0, 32, 0⟩
/-- R365. -/
def DMA_ERRADDR_LO_ADDR (n : Nat) : Fld := ⟨0x500118 + 0x1000 * n, 0, 32, 0⟩
/-- R365. -/
def DMA_ERRADDR_HI_ADDR (n : Nat) : Fld := ⟨0x50011c + 0x1000 * n, 0, 32, 0⟩
/-- R377. -/
def CHK_CFG_OWNER (n : Nat) : Fld := ⟨0x600040 + 0x1000 * n, 31, 1, if n < 6 then 0 else 1⟩
/-- R377. -/
def CHK_CFG_REFOUT (n : Nat) : Fld := ⟨0x600040 + 0x1000 * n, 9, 1, 1⟩
/-- R377. -/
def CHK_CFG_REFIN (n : Nat) : Fld := ⟨0x600040 + 0x1000 * n, 8, 1, 1⟩
/-- R377. -/
def CHK_CFG_WIDTH (n : Nat) : Fld := ⟨0x600040 + 0x1000 * n, 0, 7, 0x20⟩
/-- R377. -/
def CHK_CTRL_START (n : Nat) : Fld := ⟨0x600044 + 0x1000 * n, 31, 1, 0⟩
/-- R377. -/
def CHK_CTRL_PRESET (n : Nat) : Fld := ⟨0x600044 + 0x1000 * n, 30, 1, 0⟩
/-- R377. -/
def CHK_CTRL_CMP (n : Nat) : Fld := ⟨0x600044 + 0x1000 * n, 29, 1, 0⟩
/-- R377. -/
def CHK_CTRL_SET (n : Nat) : Fld := ⟨0x600044 + 0x1000 * n, 0, 3, 2⟩
/-- R377. -/
def CHK_STAT_MATCH (n : Nat) : Fld := ⟨0x600048 + 0x1000 * n, 31, 1, 0⟩
/-- R377. -/
def CHK_STAT_CMPV (n : Nat) : Fld := ⟨0x600048 + 0x1000 * n, 30, 1, 0⟩
/-- R377. -/
def CHK_STAT_BAD (n : Nat) : Fld := ⟨0x600048 + 0x1000 * n, 29, 1, 0⟩
/-- R377. -/
def CHK_STAT_QUEUE (n : Nat) : Fld := ⟨0x600048 + 0x1000 * n, 0, 5, 0⟩
/-- R377. -/
def CHK_POLY_LO_POLY (n : Nat) : Fld := ⟨0x600050 + 0x1000 * n, 0, 32, 0x04C11DB7⟩
/-- R377. -/
def CHK_POLY_HI_POLY (n : Nat) : Fld := ⟨0x600054 + 0x1000 * n, 0, 32, 0⟩
/-- R377. -/
def CHK_INIT_LO_INIT (n : Nat) : Fld := ⟨0x600058 + 0x1000 * n, 0, 32, 0xFFFFFFFF⟩
/-- R377. -/
def CHK_INIT_HI_INIT (n : Nat) : Fld := ⟨0x60005c + 0x1000 * n, 0, 32, 0⟩
/-- R377. -/
def CHK_XOR_LO_XOROUT (n : Nat) : Fld := ⟨0x600060 + 0x1000 * n, 0, 32, 0xFFFFFFFF⟩
/-- R377. -/
def CHK_XOR_HI_XOROUT (n : Nat) : Fld := ⟨0x600064 + 0x1000 * n, 0, 32, 0⟩
/-- R377. -/
def CHK_RUN_LO_RUN (n : Nat) : Fld := ⟨0x600068 + 0x1000 * n, 0, 32, 0xFFFFFFFF⟩
/-- R377. -/
def CHK_RUN_HI_RUN (n : Nat) : Fld := ⟨0x60006c + 0x1000 * n, 0, 32, 0⟩
/-- R377. -/
def CHK_RESULT_LO_RESULT (n : Nat) : Fld := ⟨0x600070 + 0x1000 * n, 0, 32, 0⟩
/-- R377. -/
def CHK_RESULT_HI_RESULT (n : Nat) : Fld := ⟨0x600074 + 0x1000 * n, 0, 32, 0⟩
/-- R377. -/
def CHK_EXP_LO_EXP (n : Nat) : Fld := ⟨0x600078 + 0x1000 * n, 0, 32, 0⟩
/-- R377. -/
def CHK_EXP_HI_EXP (n : Nat) : Fld := ⟨0x60007c + 0x1000 * n, 0, 32, 0⟩
/-- R377. -/
def CHK_FEED_B_DATA (n : Nat) : Fld := ⟨0x600080 + 0x1000 * n, 0, 8, 0⟩
/-- R377. -/
def CHK_FEED_H_DATA (n : Nat) : Fld := ⟨0x600084 + 0x1000 * n, 0, 16, 0⟩
/-- R377. -/
def CHK_FEED_W_DATA (n : Nat) : Fld := ⟨0x600088 + 0x1000 * n, 0, 32, 0⟩
/-- R377. -/
def CHK_ALIVE_CFG_EN (n : Nat) : Fld := ⟨0x600090 + 0x1000 * n, 31, 1, 0⟩
/-- R377. -/
def CHK_ALIVE_CFG_FOLD (n : Nat) : Fld := ⟨0x600090 + 0x1000 * n, 30, 1, 0⟩
/-- R377. -/
def CHK_ALIVE_CFG_SYNC (n : Nat) : Fld := ⟨0x600090 + 0x1000 * n, 29, 1, 1⟩
/-- R377. -/
def CHK_ALIVE_CFG_AW (n : Nat) : Fld := ⟨0x600090 + 0x1000 * n, 0, 2, 1⟩
/-- R377. -/
def CHK_ALIVE_VALUE (n : Nat) : Fld := ⟨0x600094 + 0x1000 * n, 0, 32, 0⟩
/-- R377. -/
def CHK_ALIVE_EXP_E (n : Nat) : Fld := ⟨0x600098 + 0x1000 * n, 0, 32, 0⟩
/-- R377. -/
def CHK_ALIVE_CNT_REPEAT (n : Nat) : Fld := ⟨0x60009c + 0x1000 * n, 16, 16, 0⟩
/-- R377. -/
def CHK_ALIVE_CNT_SKIP (n : Nat) : Fld := ⟨0x60009c + 0x1000 * n, 0, 16, 0⟩
/-- R377. -/
def CHK_ALIVE_GAP_GAP (n : Nat) : Fld := ⟨0x6000a0 + 0x1000 * n, 0, 32, 0⟩
/-- R399. -/
def TIM_NOW_LO_T : Fld := ⟨0x40040, 0, 32, 0⟩
/-- R399. -/
def TIM_NOW_HI_T : Fld := ⟨0x40044, 0, 32, 0⟩
/-- R399. -/
def TIM_RAW_LO_C : Fld := ⟨0x40048, 0, 32, 0⟩
/-- R399. -/
def TIM_RAW_HI_C : Fld := ⟨0x4004c, 0, 32, 0⟩
/-- R399. -/
def TIM_INC_LO_INC : Fld := ⟨0x40050, 0, 32, 0x33333333⟩
/-- R399. -/
def TIM_INC_HI_INC : Fld := ⟨0x40054, 0, 8, 3⟩
/-- R399. -/
def TIM_ADJ_LO_D : Fld := ⟨0x40058, 0, 32, 0⟩
/-- R399. -/
def TIM_ADJ_HI_D : Fld := ⟨0x4005c, 0, 32, 0⟩
/-- R399. -/
def TIM_ALARM_LO_ALARM : Fld := ⟨0x40060, 0, 32, 0⟩
/-- R399. -/
def TIM_ALARM_HI_ALARM : Fld := ⟨0x40064, 0, 32, 0⟩
/-- R399. -/
def TIM_CTRL_ALARM_EN : Fld := ⟨0x40068, 0, 1, 0⟩
/-- R399. -/
def TIM_PTP_TC : Fld := ⟨0x4006c, 1, 1, 0⟩
/-- R399. -/
def TIM_PTP_EN : Fld := ⟨0x4006c, 0, 1, 0⟩
/-- R399. -/
def TIM_QSEL_LANE : Fld := ⟨0x40070, 0, 7, 0⟩
/-- R399. -/
def TIM_QLK_TS_LO_TS : Fld := ⟨0x40074, 0, 32, 0⟩
/-- R399. -/
def TIM_QLK_TS_HI_TS : Fld := ⟨0x40078, 0, 32, 0⟩
/-- R399. -/
def TIM_TC_CNT_TC_OVF : Fld := ⟨0x4007c, 16, 16, 0⟩
/-- R399. -/
def TIM_TC_CNT_FWD : Fld := ⟨0x4007c, 0, 16, 0⟩
/-- R400. -/
def NET_CFG_MODE (n : Nat) : Fld := ⟨0x50040 + 0x1000 * n, 30, 2, 0⟩
/-- R400. -/
def NET_CFG_AN (n : Nat) : Fld := ⟨0x50040 + 0x1000 * n, 29, 1, 1⟩
/-- R400. -/
def NET_CFG_FEC25 (n : Nat) : Fld := ⟨0x50040 + 0x1000 * n, 27, 2, 0⟩
/-- R400. -/
def NET_STAT_LINK (n : Nat) : Fld := ⟨0x50044 + 0x1000 * n, 28, 4, 0⟩
/-- R400. -/
def NET_STAT_FECACT (n : Nat) : Fld := ⟨0x50044 + 0x1000 * n, 0, 8, 0⟩
/-- R400. -/
def NET_PRIO_PFC (n : Nat) : Fld := ⟨0x50048 + 0x1000 * n, 24, 8, 0⟩
/-- R400. -/
def NET_PRIO_TAG (n : Nat) : Fld := ⟨0x50048 + 0x1000 * n, 16, 1, 0⟩
/-- R400. -/
def NET_PRIO_PTP (n : Nat) : Fld := ⟨0x50048 + 0x1000 * n, 12, 4, 7⟩
/-- R400. -/
def NET_PRIO_FAB (n : Nat) : Fld := ⟨0x50048 + 0x1000 * n, 8, 4, 6⟩
/-- R400. -/
def NET_PRIO_XPORT (n : Nat) : Fld := ⟨0x50048 + 0x1000 * n, 4, 4, 5⟩
/-- R400. -/
def NET_PRIO_HOST (n : Nat) : Fld := ⟨0x50048 + 0x1000 * n, 0, 4, 0⟩
/-- R400. -/
def NET_ETYPE_FAB (n : Nat) : Fld := ⟨0x5004c + 0x1000 * n, 16, 16, 0x88B6⟩
/-- R400. -/
def NET_ETYPE_XPORT (n : Nat) : Fld := ⟨0x5004c + 0x1000 * n, 0, 16, 0x88B5⟩
/-- R400. -/
def NET_HOSTET_ET (n : Nat) : Fld := ⟨0x50050 + 0x1000 * n, 0, 16, 0⟩
/-- R400. -/
def NET_RING_BASE (n : Nat) : Fld := ⟨0x50054 + 0x1000 * n, 0, 17, 0⟩
/-- R400. -/
def NET_RXR_IDX_WR (n : Nat) : Fld := ⟨0x50058 + 0x1000 * n, 16, 6, 0⟩
/-- R400. -/
def NET_RXR_IDX_RD (n : Nat) : Fld := ⟨0x50058 + 0x1000 * n, 0, 6, 0⟩
/-- R400. -/
def NET_TXR_IDX_RD (n : Nat) : Fld := ⟨0x5005c + 0x1000 * n, 16, 6, 0⟩
/-- R400. -/
def NET_TXR_IDX_WR (n : Nat) : Fld := ⟨0x5005c + 0x1000 * n, 0, 6, 0⟩
/-- R400. -/
def NET_CNT_0_FCS_ERR (n : Nat) : Fld := ⟨0x50070 + 0x1000 * n, 16, 16, 0⟩
/-- R400. -/
def NET_CNT_0_DROP_FILTER (n : Nat) : Fld := ⟨0x50070 + 0x1000 * n, 0, 16, 0⟩
/-- R400. -/
def NET_CNT_1_RXR_FULL (n : Nat) : Fld := ⟨0x50074 + 0x1000 * n, 16, 16, 0⟩
/-- R400. -/
def NET_CNT_1_OVERSIZE (n : Nat) : Fld := ⟨0x50074 + 0x1000 * n, 0, 16, 0⟩
/-- R400. -/
def NET_CNT_2_XBAD (n : Nat) : Fld := ⟨0x50078 + 0x1000 * n, 16, 16, 0⟩
/-- R400. -/
def NET_CNT_2_XCREDIT (n : Nat) : Fld := ⟨0x50078 + 0x1000 * n, 0, 16, 0⟩
/-- R400. -/
def NET_CNT_3_PAUSE_RX (n : Nat) : Fld := ⟨0x5007c + 0x1000 * n, 16, 16, 0⟩
/-- R400. -/
def NET_CNT_3_RXBUF (n : Nat) : Fld := ⟨0x5007c + 0x1000 * n, 0, 16, 0⟩
/-- R420. -/
def FAB_CFG_SERVE : Fld := ⟨0x60040, 31, 1, 0⟩
/-- R420. -/
def FAB_CFG_TSTEER : Fld := ⟨0x60040, 30, 1, 0⟩
/-- R420. -/
def FAB_CFG_RST_EN : Fld := ⟨0x60040, 29, 1, 0⟩
/-- R420. -/
def FAB_CFG_LINKS : Fld := ⟨0x60040, 8, 8, 0⟩
/-- R420. -/
def FAB_CFG_PREF : Fld := ⟨0x60040, 0, 8, 0xFF⟩
/-- R420. -/
def FAB_STAT_STATE : Fld := ⟨0x60044, 29, 3, 0⟩
/-- R420. -/
def FAB_STAT_MEMBERS : Fld := ⟨0x60044, 22, 7, 0⟩
/-- R420. -/
def FAB_STAT_ADDR : Fld := ⟨0x60044, 8, 8, 0xFE⟩
/-- R420. -/
def FAB_STAT_DIAM : Fld := ⟨0x60044, 0, 8, 0⟩
/-- R420. -/
def FAB_EPOCH_EPOCH : Fld := ⟨0x60048, 0, 32, 0⟩
/-- R420. -/
def FAB_UID_LO_UID : Fld := ⟨0x60050, 0, 32, 0⟩
/-- R420. -/
def FAB_UID_HI_UID : Fld := ⟨0x60054, 0, 32, 0⟩
/-- R420. -/
def FAB_RECK_GO : Fld := ⟨0x60060, 31, 1, 0⟩
/-- R420. -/
def FAB_RECK_RESULT : Fld := ⟨0x60060, 16, 8, 0⟩
/-- R420. -/
def FAB_RECK_DST : Fld := ⟨0x60060, 0, 8, 0xFF⟩
/-- R420. -/
def FAB_MIRROR_LO_VALID : Fld := ⟨0x60068, 0, 32, 0⟩
/-- R420. -/
def FAB_MIRROR_HI_VALID : Fld := ⟨0x6006c, 0, 32, 0⟩
/-- R420. -/
def FAB_SHARE_GO : Fld := ⟨0x60070, 31, 1, 0⟩
/-- R420. -/
def FAB_SHARE_RESULT : Fld := ⟨0x60070, 16, 8, 0⟩
/-- R420. -/
def FAB_SHARE_PEER : Fld := ⟨0x60070, 0, 8, 0⟩
/-- R420. -/
def FAB_SHARE_ID_LO_ID : Fld := ⟨0x60074, 0, 32, 0⟩
/-- R420. -/
def FAB_SHARE_ID_HI_ID : Fld := ⟨0x60078, 0, 32, 0⟩
/-- R420. -/
def FAB_SURV_LAST : Fld := ⟨0x60080, 16, 16, 0⟩
/-- R420. -/
def FAB_SURV_FIRST : Fld := ⟨0x60080, 0, 16, 0⟩
/-- R420. -/
def FAB_SURV_CTRL_EN : Fld := ⟨0x60084, 31, 1, 0⟩
/-- R420. -/
def FAB_SURV_CTRL_TAKE : Fld := ⟨0x60084, 30, 1, 0⟩
/-- R420. -/
def FAB_SURV_CTRL_MISSING : Fld := ⟨0x60084, 0, 16, 0⟩
/-- R420. -/
def FAB_SURV_NEED_MIB : Fld := ⟨0x60088, 0, 16, 0⟩
/-- R420. -/
def FAB_TOFS_TOFS : Fld := ⟨0x60090, 0, 32, 0⟩
/-- R420. -/
def FAB_MOT_ROLE : Fld := ⟨0x600a0, 30, 2, 0⟩
/-- R420. -/
def FAB_MOT_LEAD : Fld := ⟨0x600a0, 0, 8, 0⟩
/-- R420. -/
def FAB_MOT_DY_LO_DY : Fld := ⟨0x600a4, 0, 32, 0⟩
/-- R420. -/
def FAB_MOT_DY_HI_DY : Fld := ⟨0x600a8, 0, 16, 0⟩
/-- R420. -/
def FAB_MOT_MEMBERS_LO_MEMBERS : Fld := ⟨0x600ac, 0, 32, 0⟩
/-- R420. -/
def FAB_MOT_MEMBERS_HI_MEMBERS : Fld := ⟨0x600b0, 0, 32, 0⟩
/-- R420. -/
def FAB_MOT_CTRL_GO : Fld := ⟨0x600b4, 1, 1, 0⟩
/-- R420. -/
def FAB_MOT_CTRL_STOP : Fld := ⟨0x600b4, 0, 1, 0⟩
/-- R420. -/
def FAB_MOT_STAT_HELD : Fld := ⟨0x600b8, 31, 1, 0⟩
/-- R420. -/
def FAB_MOT_STAT_READY : Fld := ⟨0x600b8, 24, 7, 0⟩
/-- R420. -/
def FAB_MOT_STAT_LOST : Fld := ⟨0x600b8, 16, 8, 0xFF⟩
/-- R420. -/
def FAB_CNT_FWD : Fld := ⟨0x600c0, 16, 16, 0⟩
/-- R420. -/
def FAB_CNT_DROP : Fld := ⟨0x600c0, 0, 16, 0⟩
/-- R420. -/
def FAB_ROUTE_VALID (i : Nat) : Fld := ⟨0x60100 + 4 * i, 31, 1, 0⟩
/-- R420. -/
def FAB_ROUTE_HOPS (i : Nat) : Fld := ⟨0x60100 + 4 * i, 24, 4, 0⟩
/-- R420. -/
def FAB_ROUTE_NEXT (i : Nat) : Fld := ⟨0x60100 + 4 * i, 16, 8, 0⟩
/-- R420. -/
def FAB_ROUTE_LINK (i : Nat) : Fld := ⟨0x60100 + 4 * i, 8, 3, 0⟩
/-- R447. -/
def RCK_CTRL_KEY : Fld := ⟨0x10040, 16, 16, 0⟩
/-- R447. -/
def RCK_CTRL_RETRY : Fld := ⟨0x10040, 2, 1, 0⟩
/-- R447. -/
def RCK_CTRL_INK_RST : Fld := ⟨0x10040, 1, 1, 0⟩
/-- R447. -/
def RCK_CTRL_MOD_RST : Fld := ⟨0x10040, 0, 1, 0⟩
/-- R447. -/
def RCK_CFG_PERST_MOD : Fld := ⟨0x10044, 0, 1, 0⟩
/-- R447. -/
def RCK_CAUSE_LAST : Fld := ⟨0x10048, 24, 8, 1⟩
/-- R447. -/
def RCK_CAUSE_GLITCH : Fld := ⟨0x10048, 8, 8, 0⟩
/-- R447. -/
def RCK_CAUSE_COUNT : Fld := ⟨0x10048, 0, 8, 0⟩
/-- R447. -/
def RCK_CLK_REF156_OK : Fld := ⟨0x1004c, 31, 1, 0⟩
/-- R447. -/
def RCK_CLK_REF100_OK : Fld := ⟨0x1004c, 30, 1, 0⟩
/-- R447. -/
def RCK_ISL_LOCK_LO_LOCK : Fld := ⟨0x10050, 0, 32, 0⟩
/-- R447. -/
def RCK_ISL_LOCK_HI_LOCK : Fld := ⟨0x10054, 0, 9, 0⟩
/-- R447. -/
def RCK_ISL_TMO_LO_TMO : Fld := ⟨0x10058, 0, 32, 0⟩
/-- R447. -/
def RCK_ISL_TMO_HI_TMO : Fld := ⟨0x1005c, 0, 9, 0⟩
/-- R447. -/
def RCK_CELLAR_ADDR_ADDR : Fld := ⟨0x10060, 0, 16, 0⟩
/-- R447. -/
def RCK_CELLAR_DATA_DATA : Fld := ⟨0x10064, 0, 32, 0⟩
/-- R447. -/
def RCK_CELLAR_STAT_GEN : Fld := ⟨0x10068, 0, 32, 0⟩
/-- R447. -/
def RCK_PWR_IN_IIN : Fld := ⟨0x10070, 16, 16, 0⟩
/-- R447. -/
def RCK_PWR_IN_VIN : Fld := ⟨0x10070, 0, 16, 0⟩
/-- R447. -/
def RCK_PWR_PH_ACTIVE : Fld := ⟨0x10074, 16, 16, 0x3FFF⟩
/-- R447. -/
def RCK_PWR_PH_FAILED : Fld := ⟨0x10074, 0, 16, 0⟩
/-- R517. -/
def RCK_THERM_LID : Fld := ⟨0x10078, 16, 16, 0⟩
/-- R517. -/
def RCK_THERM_DIE : Fld := ⟨0x10078, 0, 16, 0⟩
/-- R517. -/
def RCK_THERM_LIM_LID_TRIP : Fld := ⟨0x1007c, 24, 8, 0x37⟩
/-- R517. -/
def RCK_THERM_LIM_LID_WARN : Fld := ⟨0x1007c, 16, 8, 0x2F⟩
/-- R517. -/
def RCK_THERM_LIM_DIE_TRIP : Fld := ⟨0x1007c, 8, 8, 0x6E⟩
/-- R517. -/
def RCK_THERM_LIM_LID_HOT : Fld := ⟨0x1007c, 1, 1, 0⟩
/-- R517. -/
def RCK_THERM_LIM_DIE_HOT : Fld := ⟨0x1007c, 0, 1, 0⟩
/-- R447. -/
def RCK_BKP_BKP (i : Nat) : Fld := ⟨0x10080 + 4 * i, 0, 32, 0⟩
/-- R448. -/
def LCY_STATE_TRANS : Fld := ⟨0x20040, 31, 1, 0⟩
/-- R448. -/
def LCY_STATE_CUSTODY : Fld := ⟨0x20040, 30, 1, 0⟩
/-- R448. -/
def LCY_STATE_TARGET : Fld := ⟨0x20040, 16, 8, 0⟩
/-- R448. -/
def LCY_STATE_PREV : Fld := ⟨0x20040, 8, 8, 0⟩
/-- R448. -/
def LCY_STATE_STATE : Fld := ⟨0x20040, 0, 8, 0⟩
/-- R448. -/
def LCY_WIPES_WIPES : Fld := ⟨0x20044, 0, 32, 0⟩
/-- R448. -/
def LCY_LAST_RESULT : Fld := ⟨0x20048, 24, 8, 0⟩
/-- R448. -/
def LCY_LAST_DETAIL : Fld := ⟨0x20048, 16, 8, 0⟩
/-- R448. -/
def LCY_LAST_TARGET : Fld := ⟨0x20048, 0, 8, 0⟩
/-- R478. -/
def LED_CFG_SIZE_LOG : Fld := ⟨0x700040, 17, 4, 6⟩
/-- R478. -/
def LED_CFG_BASE : Fld := ⟨0x700040, 0, 17, 0⟩
/-- R478. -/
def LED_WR_LSEQ : Fld := ⟨0x700048, 0, 32, 0⟩
/-- R478. -/
def LED_RD_LSEQ : Fld := ⟨0x70004c, 0, 32, 0⟩
/-- R478. -/
def LED_STAT_OPEN : Fld := ⟨0x700050, 31, 1, 0⟩
/-- R478. -/
def LED_STAT_HELD : Fld := ⟨0x700050, 30, 1, 0⟩
/-- R478. -/
def LED_STAT_STAGED : Fld := ⟨0x700050, 0, 7, 0⟩
/-- R478. -/
def LED_LOST_LSEQ : Fld := ⟨0x700054, 0, 32, 0⟩
/-- R478. -/
def LED_CNT_LOST : Fld := ⟨0x700058, 16, 16, 0⟩
/-- R478. -/
def LED_CNT_HOLDS : Fld := ⟨0x700058, 0, 16, 0⟩
/-- R478. -/
def LED_CHAIN_CHAIN (i : Nat) : Fld := ⟨0x700080 + 4 * i, 0, 32, 0⟩

end Sys2Proof.Machine.Reg

namespace Sys2Proof.Machine

/-- Part 0 of the register table of the GLB page. -/
def regsGlb0 : List RegDef := [
  ⟨"ID", 0x40, 1, 4, false, [⟨16, 16, .ro, .const 0x2620, false, [], none⟩, ⟨12, 4, .ro, .const 1, false, [], none⟩, ⟨8, 4, .ro, .const 0, false, [], none⟩, ⟨0, 8, .ro, .const 1, false, [], none⟩]⟩,
  ⟨"PINS", 0x60, 1, 4, false, [⟨8, 4, .ro, .const 0xF, false, [], none⟩, ⟨7, 1, .ro, .const 1, false, [], none⟩, ⟨6, 1, .ro, .const 0, false, [], none⟩, ⟨5, 1, .ro, .const 0, false, [], none⟩, ⟨4, 1, .ro, .const 0, false, [], none⟩, ⟨3, 1, .ro, .const 1, false, [], none⟩, ⟨2, 1, .ro, .const 1, false, [], none⟩, ⟨1, 1, .ro, .const 0, false, [], none⟩, ⟨0, 1, .ro, .const 1, false, [], none⟩]⟩,
  ⟨"PERMIT", 0x70, 1, 4, false, [⟨31, 1, .rw, .const 0, false, [], none⟩, ⟨5, 1, .ro, .const 0, false, [], none⟩, ⟨4, 1, .ro, .const 0, false, [], none⟩, ⟨3, 1, .ro, .const 1, false, [], none⟩, ⟨2, 1, .ro, .const 1, false, [], none⟩, ⟨1, 1, .ro, .const 1, false, [], none⟩, ⟨0, 1, .ro, .const 1, false, [], none⟩]⟩,
  ⟨"RECKON", 0x80, 1, 4, false, [⟨16, 16, .ro, .const 0, false, [], none⟩, ⟨5, 1, .ro, .const 0, false, [], none⟩, ⟨4, 1, .ro, .const 0, false, [], none⟩, ⟨3, 1, .ro, .const 0, false, [], none⟩, ⟨2, 1, .ro, .const 0, false, [], none⟩, ⟨0, 1, .w1s, .const 0, false, [], none⟩]⟩,
  ⟨"RECK_AUTO", 0x84, 1, 4, false, [⟨3, 1, .rw, .const 1, false, [], none⟩, ⟨2, 1, .rw, .const 0, false, [], none⟩, ⟨1, 1, .rw, .const 0, false, [], none⟩, ⟨0, 1, .rw, .const 1, false, [], none⟩]⟩,
  ⟨"BAR2_BASE", 0x90, 1, 4, false, [⟨0, 7, .rw, .const 0, false, [(0, 80)], none⟩]⟩,
  ⟨"FN_CFG", 0xa0, 1, 4, false, [⟨0, 1, .rw, .const 1, false, [], none⟩]⟩,
  ⟨"FAULT_SUM", 0xa4, 1, 4, false, [⟨31, 1, .ro, .const 0, false, [], none⟩, ⟨30, 1, .ro, .const 0, false, [], none⟩, ⟨29, 1, .ro, .const 0, false, [], none⟩, ⟨28, 1, .ro, .const 0, false, [], none⟩, ⟨0, 8, .ro, .const 0xFF, false, [], none⟩]⟩,
  ⟨"CFG_FIX", 0xa8, 1, 4, false, [⟨0, 16, .ro, .const 0, false, [], none⟩]⟩,
  ⟨"EVT_STATUS", 0xc0, 4, 4, false, [⟨0, 32, .ro, .const 0, false, [], none⟩]⟩,
  ⟨"IRQ_SEL", 0x100, 16, 4, false, [⟨28, 4, .rw, .const 0, false, [], some 0xb⟩, ⟨24, 4, .rw, .const 0, false, [], some 0xb⟩, ⟨20, 4, .rw, .const 0, false, [], some 0xb⟩, ⟨16, 4, .rw, .const 0, false, [], some 0xb⟩, ⟨12, 4, .rw, .const 0, false, [], some 0xb⟩, ⟨8, 4, .rw, .const 0, false, [], some 0xb⟩, ⟨4, 4, .rw, .const 0, false, [], some 0xb⟩, ⟨0, 4, .rw, .const 0, false, [], some 0xb⟩]⟩]

/-- The block registers of a GLB page. -/
def regsGlb : List RegDef := regsGlb0

/-- Part 0 of the register table of the INK page. -/
def regsInk0 : List RegDef := [
  ⟨"CMD", 0x40, 1, 4, false, [⟨24, 8, .rwl, .const 0, false, [], none⟩, ⟨0, 16, .rwl, .const 0, false, [], none⟩]⟩,
  ⟨"DOORBELL", 0x44, 1, 4, false, [⟨0, 1, .w1s, .const 0, false, [], none⟩]⟩,
  ⟨"STATUS", 0x48, 1, 4, false, [⟨24, 8, .ro, .const 0, false, [], none⟩, ⟨16, 8, .ro, .const 0, false, [], none⟩, ⟨2, 1, .ro, .const 1, false, [], none⟩, ⟨1, 1, .w1c, .const 0, false, [], none⟩, ⟨0, 1, .ro, .const 0, false, [], none⟩]⟩,
  ⟨"ARG", 0x80, 16, 4, false, [⟨0, 32, .rwl, .const 0, false, [], none⟩]⟩,
  ⟨"RSP", 0xc0, 16, 4, false, [⟨0, 32, .ro, .const 0, false, [], none⟩]⟩]

/-- The block registers of a INK page. -/
def regsInk : List RegDef := regsInk0

/-- Part 0 of the register table of the ING page. -/
def regsIng0 : List RegDef := [
  ⟨"CFG", 0x40, 1, 4, false, [⟨16, 8, .rw, .const 8, true, [(0, 64)], none⟩, ⟨8, 8, .rwl, .const 0x20, false, [(4, 128)], none⟩, ⟨0, 8, .rw, .const 0x40, true, [(1, 255)], none⟩]⟩,
  ⟨"LOAD", 0x44, 1, 4, false, [⟨31, 1, .w1s, .const 0, false, [], none⟩, ⟨30, 1, .w1s, .const 0, false, [], none⟩, ⟨29, 1, .rw, .const 0, false, [], none⟩, ⟨16, 8, .ro, .const 0, false, [], none⟩, ⟨8, 2, .rw, .const 0, false, [(0, 2)], none⟩, ⟨0, 4, .rw, .const 0, false, [], none⟩]⟩,
  ⟨"FREE", 0x48, 1, 4, false, [⟨31, 1, .w1s, .const 0, false, [], none⟩, ⟨8, 8, .ro, .const 0, false, [], none⟩, ⟨0, 4, .rw, .const 0, false, [], none⟩]⟩,
  ⟨"LS_FREE", 0x4c, 1, 4, false, [⟨0, 32, .ro, .const 0, false, [], none⟩]⟩,
  ⟨"SRC_DROP", 0x50, 1, 4, false, [⟨0, 16, .ro, .const 0, false, [], none⟩]⟩,
  ⟨"LOAD_CUR", 0x54, 1, 4, false, [⟨31, 1, .ro, .const 0, false, [], none⟩, ⟨30, 1, .ro, .const 0, false, [], none⟩, ⟨8, 2, .ro, .const 0, false, [], none⟩, ⟨0, 4, .ro, .const 0, false, [], none⟩]⟩,
  ⟨"WB", 0x60, 8, 4, false, [⟨0, 32, .rw, .const 0, false, [], none⟩]⟩,
  ⟨"WB_CTRL", 0x80, 1, 4, false, [⟨2, 1, .w1s, .const 0, false, [], none⟩, ⟨1, 1, .w1s, .const 0, false, [], none⟩, ⟨0, 1, .w1s, .const 0, false, [], none⟩]⟩,
  ⟨"WB_QSTAT", 0x84, 1, 4, false, [⟨16, 16, .ro, .const 1, false, [], none⟩, ⟨8, 4, .ro, .const 0, false, [], none⟩, ⟨7, 1, .ro, .const 0, false, [], none⟩, ⟨4, 3, .ro, .const 0, false, [], none⟩, ⟨0, 4, .ro, .const 0, false, [], none⟩]⟩,
  ⟨"WB_RESULT", 0x88, 1, 4, false, [⟨16, 16, .ro, .const 0, false, [], none⟩, ⟨8, 8, .ro, .const 0, false, [], none⟩, ⟨0, 8, .ro, .const 0, false, [], none⟩]⟩,
  ⟨"WB_CUR", 0x8c, 1, 4, false, [⟨16, 16, .ro, .const 0, false, [], none⟩, ⟨0, 16, .ro, .const 0, false, [], none⟩]⟩,
  ⟨"WB_SEG", 0x90, 1, 4, false, [⟨0, 24, .ro, .const 0, false, [], none⟩]⟩]

/-- Part 1 of the register table of the ING page. -/
def regsIng1 : List RegDef := [
  ⟨"TRV_SEL", 0xa0, 1, 4, false, [⟨0, 9, .rw, .const 0, false, [], none⟩]⟩,
  ⟨"TRV_STAT", 0xa4, 1, 4, false, [⟨29, 3, .ro, .const 0, false, [], none⟩, ⟨28, 1, .ro, .const 0, false, [], none⟩, ⟨27, 1, .ro, .const 0, false, [], none⟩, ⟨22, 4, .ro, .const 0, false, [], none⟩, ⟨17, 5, .ro, .const 0, false, [], none⟩, ⟨12, 5, .ro, .const 0, false, [], none⟩, ⟨0, 6, .ro, .const 0x3F, false, [], none⟩]⟩,
  ⟨"TRV_POS", 0xa8, 1, 4, false, [⟨16, 16, .ro, .const 0, false, [], none⟩]⟩,
  ⟨"TRV_SEGIX", 0xac, 1, 4, false, [⟨0, 24, .ro, .const 0, false, [], none⟩]⟩,
  ⟨"TRV_USE", 0xb0, 1, 4, false, [⟨16, 10, .ro, .const 0, false, [], none⟩, ⟨0, 10, .ro, .const 0, false, [], none⟩]⟩,
  ⟨"RCMP_REQ", 0xc0, 1, 4, false, [⟨31, 1, .w1s, .const 0, false, [], none⟩, ⟨30, 1, .ro, .const 0, false, [], none⟩, ⟨24, 1, .rw, .const 0, false, [], none⟩, ⟨0, 24, .rw, .const 0, false, [], none⟩]⟩,
  ⟨"RCMP_CNT", 0xc4, 1, 4, false, [⟨16, 16, .ro, .const 0, false, [], none⟩, ⟨0, 16, .ro, .const 0, false, [], none⟩]⟩,
  ⟨"REPAIR_LO", 0xd0, 1, 4, false, [⟨0, 32, .ro, .const 0, false, [], none⟩]⟩,
  ⟨"REPAIR_HI", 0xd4, 1, 4, false, [⟨31, 1, .ro, .const 0, false, [], none⟩, ⟨12, 5, .ro, .const 0, false, [], none⟩, ⟨8, 4, .ro, .const 0, false, [], none⟩, ⟨0, 8, .ro, .const 0, false, [], none⟩]⟩,
  ⟨"IFS_ERR", 0x100, 1, 4, false, [⟨24, 8, .ro, .const 0, false, [], none⟩, ⟨16, 8, .ro, .const 0, false, [], none⟩, ⟨0, 5, .ro, .const 0, false, [], none⟩]⟩,
  ⟨"IFS_ERR_OFS_LO", 0x104, 1, 4, false, [⟨0, 32, .ro, .const 0, false, [], none⟩]⟩,
  ⟨"IFS_ERR_OFS_HI", 0x108, 1, 4, false, [⟨0, 8, .ro, .const 0, false, [], none⟩]⟩]

/-- Part 2 of the register table of the ING page. -/
def regsIng2 : List RegDef := [
  ⟨"IFS_ERR_BLK", 0x10c, 1, 4, false, [⟨0, 32, .ro, .const 0, false, [], none⟩]⟩,
  ⟨"IFS_RESUME_LO", 0x110, 1, 4, false, [⟨0, 32, .ro, .const 0, false, [], none⟩]⟩,
  ⟨"IFS_RESUME_HI", 0x114, 1, 4, false, [⟨0, 8, .ro, .const 0, false, [], none⟩]⟩,
  ⟨"IFS_DUP", 0x118, 1, 4, false, [⟨0, 16, .ro, .const 0, false, [], none⟩]⟩,
  ⟨"IFS_STAT", 0x11c, 1, 4, false, [⟨0, 2, .ro, .const 0, false, [], none⟩]⟩,
  ⟨"LAYOUT", 0x140, 16, 4, false, [⟨30, 2, .ro, .const 0, false, [], none⟩, ⟨29, 1, .ro, .const 0, false, [], none⟩, ⟨0, 16, .ro, .const 0, false, [], none⟩]⟩,
  ⟨"LAYOUT_REACH", 0x180, 16, 4, false, [⟨16, 16, .ro, .const 0, false, [], none⟩, ⟨0, 16, .ro, .const 0, false, [], none⟩]⟩]

/-- The block registers of a ING page. -/
def regsIng : List RegDef := regsIng0 ++ regsIng1 ++ regsIng2

/-- Part 0 of the register table of the EXP page. -/
def regsExp0 : List RegDef := [
  ⟨"STAT", 0x40, 1, 4, false, [⟨31, 1, .ro, .const 0, false, [], none⟩, ⟨9, 5, .ro, .const 0, false, [], none⟩, ⟨0, 9, .ro, .const 0, false, [], none⟩]⟩,
  ⟨"FIGS", 0x44, 1, 4, false, [⟨0, 32, .ro, .const 0, false, [], none⟩]⟩,
  ⟨"BUSY", 0x48, 1, 4, false, [⟨0, 32, .ro, .const 0, false, [], none⟩]⟩]

/-- The block registers of a EXP page. -/
def regsExp : List RegDef := regsExp0

/-- Part 0 of the register table of the CMP page. -/
def regsCmp0 : List RegDef := [
  ⟨"CFG", 0x40, 1, 4, false, [⟨16, 6, .rw, .const 0x0C, false, [(1, 24)], none⟩, ⟨8, 5, .rw, .const 0x18, true, [(16, 31)], none⟩, ⟨0, 4, .rw, .const 3, true, [(1, 15)], none⟩]⟩,
  ⟨"STAT", 0x44, 1, 4, false, [⟨24, 5, .ro, .const 0, false, [], none⟩, ⟨16, 6, .ro, .const 0, false, [], none⟩, ⟨8, 6, .ro, .const 0, false, [], none⟩, ⟨0, 3, .ro, .const 0, false, [], none⟩]⟩,
  ⟨"CNT_MISMATCH", 0x48, 1, 4, false, [⟨0, 32, .ro, .const 0, false, [], none⟩]⟩,
  ⟨"CNT_VOTE", 0x4c, 1, 4, false, [⟨16, 16, .ro, .const 0, false, [], none⟩, ⟨0, 16, .ro, .const 0, false, [], none⟩]⟩,
  ⟨"CNT_INJ", 0x50, 1, 4, false, [⟨0, 16, .ro, .const 0, false, [], none⟩]⟩,
  ⟨"PAIR", 0x80, 24, 4, false, [⟨31, 1, .ro, .const 0, false, [], none⟩, ⟨8, 6, .ro, .twoIPlus1, false, [], none⟩, ⟨0, 6, .ro, .twoI, false, [], none⟩]⟩,
  ⟨"LAST_MM", 0xe0, 1, 4, false, [⟨24, 5, .ro, .const 0, false, [], none⟩, ⟨20, 2, .ro, .const 0, false, [], none⟩, ⟨0, 18, .ro, .const 0, false, [], none⟩]⟩,
  ⟨"LAST_MM_POS", 0xe4, 1, 4, false, [⟨9, 19, .ro, .const 0, false, [], none⟩, ⟨0, 9, .ro, .const 0, false, [], none⟩]⟩,
  ⟨"LAST_VOTE", 0xe8, 1, 4, false, [⟨30, 2, .ro, .const 0, false, [], none⟩, ⟨24, 6, .ro, .const 0x3F, false, [], none⟩, ⟨19, 5, .ro, .const 0x1F, false, [], none⟩, ⟨0, 18, .ro, .const 0, false, [], none⟩]⟩]

/-- The block registers of a CMP page. -/
def regsCmp : List RegDef := regsCmp0

/-- Part 0 of the register table of the RAS page. -/
def regsRas0 : List RegDef := [
  ⟨"ROLE", 0x40, 1, 4, false, [⟨8, 5, .ro, .const 0x1F, false, [], none⟩, ⟨0, 3, .ro, .const 0, false, [], none⟩]⟩,
  ⟨"STRIKES", 0x44, 1, 4, false, [⟨16, 16, .ro, .const 0, false, [], none⟩, ⟨0, 4, .ro, .const 0, false, [], none⟩]⟩,
  ⟨"TILES", 0x48, 1, 4, false, [⟨0, 32, .ro, .const 0, false, [], none⟩]⟩,
  ⟨"CTRL", 0x4c, 1, 4, false, [⟨0, 1, .w1s, .const 0, false, [], none⟩]⟩]

/-- The block registers of a RAS page. -/
def regsRas : List RegDef := regsRas0

/-- Part 0 of the register table of the SRV page. -/
def regsSrv0 : List RegDef := [
  ⟨"CTRL", 0x40, 1, 4, false, [⟨31, 1, .w1s, .const 0, false, [], none⟩, ⟨30, 1, .w1s, .const 0, false, [], none⟩, ⟨16, 8, .ro, .const 0, false, [], none⟩, ⟨12, 4, .ro, .const 0, false, [], none⟩, ⟨8, 2, .rw, .const 0, false, [], none⟩, ⟨4, 1, .rw, .const 0, false, [], none⟩, ⟨0, 4, .rw, .const 0, false, [], none⟩]⟩,
  ⟨"AREA", 0x44, 1, 4, false, [⟨16, 16, .rw, .const 1, false, [(1, 65535)], none⟩, ⟨0, 16, .rw, .const 1, false, [(1, 65535)], none⟩]⟩,
  ⟨"MAP", 0x48, 1, 4, false, [⟨16, 16, .rw, .const 0, false, [], none⟩, ⟨0, 16, .rw, .const 0, false, [], none⟩]⟩,
  ⟨"STAT", 0x4c, 1, 4, false, [⟨8, 2, .ro, .const 0, false, [], none⟩, ⟨4, 4, .ro, .const 0, false, [], none⟩, ⟨0, 3, .ro, .const 0, false, [], none⟩]⟩,
  ⟨"PROG", 0x50, 1, 4, false, [⟨0, 32, .ro, .const 0, false, [], none⟩]⟩,
  ⟨"HCRC_LO", 0x58, 1, 4, false, [⟨0, 32, .rw, .const 0, false, [], none⟩]⟩,
  ⟨"HCRC_HI", 0x5c, 1, 4, false, [⟨0, 32, .rw, .const 0, false, [], none⟩]⟩,
  ⟨"NEED", 0x54, 1, 4, false, [⟨16, 16, .ro, .const 0, false, [], none⟩, ⟨0, 16, .ro, .const 0, false, [], none⟩]⟩]

/-- The block registers of a SRV page. -/
def regsSrv : List RegDef := regsSrv0

/-- Part 0 of the register table of the COR page. -/
def regsCor0 : List RegDef := [
  ⟨"CFG", 0x40, 1, 4, false, [⟨16, 3, .rw, .const 3, false, [(1, 4)], none⟩, ⟨0, 16, .rw, .const 0x40, false, [], none⟩]⟩,
  ⟨"TARGET", 0x44, 1, 4, false, [⟨16, 16, .rw, .const 0x2000, false, [], none⟩, ⟨0, 16, .rw, .const 0x2000, false, [(1, 65535)], none⟩]⟩,
  ⟨"KERN", 0x48, 4, 4, false, [⟨31, 1, .rw, .const 0, false, [], none⟩, ⟨16, 8, .rw, .const 1, false, [(1, 255)], none⟩, ⟨0, 16, .rw, .const 0, false, [], none⟩]⟩,
  ⟨"FOG", 0x58, 1, 4, false, [⟨31, 1, .rw, .const 0, false, [], none⟩, ⟨16, 10, .rw, .const 1, false, [(1, 1023)], none⟩, ⟨0, 16, .rw, .const 0, false, [], none⟩]⟩,
  ⟨"PIXSAT", 0x60, 1, 4, false, [⟨0, 32, .ro, .const 0, false, [], none⟩]⟩,
  ⟨"PIXNEG", 0x64, 1, 4, false, [⟨0, 32, .ro, .const 0, false, [], none⟩]⟩,
  ⟨"RES", 0x68, 1, 4, false, [⟨16, 7, .ro, .const 0x40, false, [], none⟩, ⟨0, 16, .ro, .const 0, false, [], none⟩]⟩,
  ⟨"DMG_LO", 0x70, 1, 4, false, [⟨0, 32, .ro, .const 0, false, [], none⟩]⟩,
  ⟨"DMG_HI", 0x74, 1, 4, false, [⟨31, 1, .ro, .const 0, false, [], none⟩, ⟨8, 4, .ro, .const 0, false, [], none⟩, ⟨0, 8, .ro, .const 0, false, [], none⟩]⟩,
  ⟨"MAP_DESC", 0x100, 16, 32, false, [⟨30, 2, .ro, .const 0, false, [], none⟩, ⟨29, 1, .ro, .const 0, false, [], none⟩, ⟨28, 1, .ro, .const 0, false, [], none⟩, ⟨27, 1, .ro, .const 0, false, [], none⟩, ⟨16, 9, .ro, .const 0, false, [], none⟩, ⟨0, 16, .ro, .const 0, false, [], none⟩]⟩,
  ⟨"MAP_AREA", 0x104, 16, 32, false, [⟨16, 16, .ro, .const 0, false, [], none⟩, ⟨0, 16, .ro, .const 0, false, [], none⟩]⟩,
  ⟨"MAP_DONE", 0x108, 16, 32, false, [⟨0, 32, .ro, .const 0, false, [], none⟩]⟩]

/-- Part 1 of the register table of the COR page. -/
def regsCor1 : List RegDef := [
  ⟨"MAP_PARAM", 0x10c, 16, 32, false, [⟨24, 7, .ro, .const 0, false, [], none⟩, ⟨16, 3, .ro, .const 0, false, [], none⟩, ⟨0, 16, .ro, .const 0, false, [], none⟩]⟩,
  ⟨"MAP_CRC_LO", 0x110, 16, 32, false, [⟨0, 32, .ro, .const 0, false, [], none⟩]⟩,
  ⟨"MAP_CRC_HI", 0x114, 16, 32, false, [⟨0, 32, .ro, .const 0, false, [], none⟩]⟩,
  ⟨"MAP_STAT", 0x118, 16, 32, false, [⟨0, 16, .ro, .const 0, false, [], none⟩]⟩,
  ⟨"MAP_SAT", 0x11c, 16, 32, false, [⟨0, 32, .ro, .const 0, false, [], none⟩]⟩]

/-- The block registers of a COR page. -/
def regsCor : List RegDef := regsCor0 ++ regsCor1

/-- Part 0 of the register table of the ALC page. -/
def regsAlc0 : List RegDef := [
  ⟨"GEOM", 0x40, 1, 4, false, [⟨16, 6, .ro, .const 0x10, false, [], none⟩, ⟨8, 6, .rwl, .const 0x10, false, [(2, 48)], none⟩, ⟨0, 3, .rwl, .const 5, false, [(2, 6)], none⟩]⟩,
  ⟨"DOSE", 0x44, 1, 4, false, [⟨0, 21, .rw, .const 0, true, [], none⟩]⟩,
  ⟨"EMAX", 0x48, 1, 4, false, [⟨0, 16, .rw, .const 0x4000, true, [], none⟩]⟩,
  ⟨"DUTY_BEAM", 0x4c, 1, 4, false, [⟨0, 16, .rw, .const 0xFFFF, true, [], none⟩]⟩,
  ⟨"DUTY_GRP", 0x50, 1, 4, false, [⟨0, 24, .rw, .const 0xFFFFFF, true, [], none⟩]⟩,
  ⟨"DSEED", 0x54, 1, 4, false, [⟨0, 32, .rw, .const 0, true, [], none⟩]⟩,
  ⟨"CFG", 0x58, 1, 4, false, [⟨16, 13, .rw, .const 0x147A, true, [(0, 5242)], none⟩, ⟨8, 8, .rw, .const 0, true, [], none⟩, ⟨0, 1, .rw, .const 0, true, [], none⟩]⟩,
  ⟨"BT_CTRL", 0x60, 1, 4, false, [⟨2, 1, .w1s, .const 0, false, [], none⟩, ⟨1, 1, .w1s, .const 0, false, [], none⟩, ⟨0, 1, .rw, .const 0, false, [], none⟩]⟩,
  ⟨"BT_STAT", 0x64, 1, 4, false, [⟨31, 1, .ro, .const 1, false, [], none⟩, ⟨30, 1, .ro, .const 0, false, [], none⟩, ⟨29, 1, .ro, .const 0, false, [], none⟩, ⟨2, 2, .ro, .const 0, false, [], none⟩, ⟨0, 1, .ro, .const 0, false, [], none⟩]⟩,
  ⟨"BT_ABS", 0x68, 1, 4, false, [⟨0, 19, .ro, .const 0x40000, false, [], none⟩]⟩,
  ⟨"BT_STUCK", 0x6c, 1, 4, false, [⟨0, 18, .ro, .const 0, false, [], none⟩]⟩,
  ⟨"CHK_INFO", 0x70, 1, 4, false, [⟨26, 6, .ro, .const 0, false, [], none⟩, ⟨23, 3, .ro, .const 0, false, [], none⟩, ⟨0, 18, .ro, .const 0, false, [], none⟩]⟩]

/-- Part 1 of the register table of the ALC page. -/
def regsAlc1 : List RegDef := [
  ⟨"CHK_COUNT", 0x74, 1, 4, false, [⟨0, 18, .ro, .const 0, false, [], none⟩]⟩,
  ⟨"CNT_QSAT", 0x80, 1, 4, false, [⟨0, 32, .ro, .const 0, false, [], none⟩]⟩,
  ⟨"CNT_BLIM", 0x84, 1, 4, false, [⟨0, 32, .ro, .const 0, false, [], none⟩]⟩,
  ⟨"CNT_GLIM", 0x88, 1, 4, false, [⟨0, 32, .ro, .const 0, false, [], none⟩]⟩,
  ⟨"CNT_CARRY", 0x8c, 1, 4, false, [⟨0, 32, .ro, .const 0, false, [], none⟩]⟩,
  ⟨"CNT_RETRY", 0x90, 1, 4, false, [⟨0, 16, .ro, .const 0, false, [], none⟩]⟩,
  ⟨"TICK", 0x94, 1, 4, false, [⟨0, 32, .ro, .const 0xFFFFFFFF, false, [], none⟩]⟩]

/-- The block registers of a ALC page. -/
def regsAlc : List RegDef := regsAlc0 ++ regsAlc1

/-- Part 0 of the register table of the MOT page. -/
def regsMot0 : List RegDef := [
  ⟨"GRID", 0x40, 1, 4, false, [⟨0, 11, .rwl, .const 0x140, false, [(128, 1024)], none⟩]⟩,
  ⟨"ORG_X", 0x44, 1, 4, false, [⟨0, 32, .rwl, .const 0, false, [], none⟩]⟩,
  ⟨"ORG_Y", 0x48, 1, 4, false, [⟨0, 32, .rwl, .const 0, false, [], none⟩]⟩,
  ⟨"PORT", 0x4c, 1, 4, false, [⟨30, 2, .rwl, .const 0, false, [(0, 2)], none⟩, ⟨16, 12, .rwl, .const 0x1E0, false, [], none⟩, ⟨8, 3, .rwl, .const 3, false, [(1, 5)], none⟩]⟩,
  ⟨"TRIG", 0x50, 1, 4, false, [⟨16, 16, .rw, .const 0x1000, true, [(1, 65535)], none⟩, ⟨12, 4, .rw, .const 2, true, [(1, 15)], none⟩, ⟨0, 8, .rw, .const 4, true, [], none⟩]⟩,
  ⟨"TIMING", 0x54, 1, 4, false, [⟨0, 16, .rw, .const 0x64, true, [(4, 65535)], none⟩]⟩,
  ⟨"DEFL", 0x58, 1, 4, false, [⟨31, 1, .rw, .const 1, false, [], none⟩, ⟨0, 24, .rw, .const 0x4000, true, [(1, 16777215)], none⟩]⟩,
  ⟨"POS_STAT", 0x60, 1, 4, false, [⟨29, 3, .ro, .const 0, false, [], none⟩, ⟨28, 1, .ro, .const 0, false, [], none⟩, ⟨26, 2, .ro, .const 0, false, [], none⟩, ⟨25, 1, .ro, .const 0, false, [], none⟩, ⟨0, 16, .ro, .const 0, false, [], none⟩]⟩,
  ⟨"POS_X_LO", 0x64, 1, 4, false, [⟨0, 32, .ro, .const 0, false, [], none⟩]⟩,
  ⟨"POS_X_HI", 0x68, 1, 4, false, [⟨0, 16, .ro, .const 0, false, [], none⟩]⟩,
  ⟨"POS_Y_LO", 0x6c, 1, 4, false, [⟨0, 32, .ro, .const 0, false, [], none⟩]⟩,
  ⟨"POS_Y_HI", 0x70, 1, 4, false, [⟨0, 16, .ro, .const 0, false, [], none⟩]⟩]

/-- Part 1 of the register table of the MOT page. -/
def regsMot1 : List RegDef := [
  ⟨"VEL_Y", 0x74, 1, 4, false, [⟨0, 32, .ro, .const 0, false, [], none⟩]⟩,
  ⟨"TICK_NEXT", 0x78, 1, 4, false, [⟨0, 32, .ro, .const 0xFFFFFFFF, false, [], none⟩]⟩,
  ⟨"EDGE_RES", 0x7c, 1, 4, false, [⟨0, 32, .ro, .const 0, false, [], none⟩]⟩,
  ⟨"EDGE_TS_LO", 0x80, 1, 4, false, [⟨0, 32, .ro, .const 0, false, [], none⟩]⟩,
  ⟨"EDGE_TS_HI", 0x84, 1, 4, false, [⟨0, 32, .ro, .const 0, false, [], none⟩]⟩,
  ⟨"SMP_TS_LO", 0x88, 1, 4, false, [⟨0, 32, .ro, .const 0, false, [], none⟩]⟩,
  ⟨"SMP_TS_HI", 0x8c, 1, 4, false, [⟨0, 32, .ro, .const 0, false, [], none⟩]⟩,
  ⟨"CNT_0", 0x90, 1, 4, false, [⟨16, 16, .ro, .const 0, false, [], none⟩, ⟨0, 16, .ro, .const 0, false, [], none⟩]⟩,
  ⟨"CNT_1", 0x94, 1, 4, false, [⟨16, 16, .ro, .const 0, false, [], none⟩, ⟨0, 16, .ro, .const 0, false, [], none⟩]⟩,
  ⟨"CNT_2", 0x98, 1, 4, false, [⟨16, 16, .ro, .const 0, false, [], none⟩, ⟨0, 16, .ro, .const 0, false, [], none⟩]⟩,
  ⟨"CNT_3", 0x9c, 1, 4, false, [⟨16, 16, .ro, .const 0, false, [], none⟩, ⟨0, 16, .ro, .const 0, false, [], none⟩]⟩,
  ⟨"CNT_4", 0xa0, 1, 4, false, [⟨16, 16, .ro, .const 0, false, [], none⟩, ⟨0, 16, .ro, .const 0, false, [], none⟩]⟩]

/-- Part 2 of the register table of the MOT page. -/
def regsMot2 : List RegDef := [
  ⟨"CNT_5", 0xa4, 1, 4, false, [⟨0, 16, .ro, .const 0, false, [], none⟩]⟩,
  ⟨"PROF_ACC", 0xc0, 1, 4, false, [⟨0, 24, .rw, .const 0x10625, false, [(1, 16777215)], none⟩]⟩,
  ⟨"PROF_DEC", 0xc4, 1, 4, false, [⟨0, 24, .rw, .const 0x10625, false, [(1, 16777215)], none⟩]⟩,
  ⟨"PROF_STOP", 0xc8, 1, 4, false, [⟨0, 24, .rw, .const 0x20C4A, false, [(1, 16777215)], none⟩]⟩,
  ⟨"PROF_VMAX", 0xcc, 1, 4, false, [⟨0, 32, .rw, .const 0x640000, true, [(1, 2147483647)], none⟩]⟩,
  ⟨"PLAN_VMIN", 0xd0, 1, 4, false, [⟨0, 32, .rw, .const 0x40000, true, [(1, 2147483647)], none⟩]⟩,
  ⟨"PLAN_CFG", 0xd4, 1, 4, false, [⟨24, 8, .rw, .const 0x20, true, [], none⟩, ⟨16, 8, .rw, .const 0x80, false, [(1, 255)], none⟩, ⟨0, 16, .rw, .const 0x3E8, true, [], none⟩]⟩,
  ⟨"LATE_LEAD", 0xd8, 1, 4, false, [⟨0, 32, .rw, .const 0x2000, false, [], none⟩]⟩,
  ⟨"TURN", 0xdc, 1, 4, false, [⟨0, 16, .rw, .const 0xFA, false, [], none⟩]⟩,
  ⟨"VLIM_X_LO", 0xe0, 1, 4, false, [⟨0, 32, .rwl, .const 0, false, [], none⟩]⟩,
  ⟨"VLIM_X_HI", 0xe4, 1, 4, false, [⟨0, 32, .rwl, .const 0, false, [], none⟩]⟩,
  ⟨"VLIM_Y_LO", 0xe8, 1, 4, false, [⟨0, 32, .rwl, .const 0, false, [], none⟩]⟩]

/-- Part 3 of the register table of the MOT page. -/
def regsMot3 : List RegDef := [
  ⟨"VLIM_Y_HI", 0xec, 1, 4, false, [⟨0, 32, .rwl, .const 0, false, [], none⟩]⟩,
  ⟨"THERM_LIM", 0xf0, 1, 4, false, [⟨16, 16, .rw, .const 0x320, true, [], none⟩, ⟨0, 16, .rw, .const 0x2D0, true, [], none⟩]⟩,
  ⟨"THERM_CFG", 0xf4, 1, 4, false, [⟨8, 8, .rw, .const 0x20, false, [], none⟩, ⟨0, 8, .rw, .const 0xA, false, [(1, 255)], none⟩]⟩,
  ⟨"TEMP", 0xf8, 1, 4, false, [⟨16, 1, .ro, .const 0, false, [], none⟩, ⟨0, 16, .ro, .const 0, false, [], none⟩]⟩,
  ⟨"MOVE_X", 0x100, 1, 4, false, [⟨0, 32, .rw, .const 0, false, [], none⟩]⟩,
  ⟨"MOVE_Y", 0x104, 1, 4, false, [⟨0, 32, .rw, .const 0, false, [], none⟩]⟩,
  ⟨"MOVE_CTRL", 0x108, 1, 4, false, [⟨31, 1, .w1s, .const 0, false, [], none⟩, ⟨16, 8, .ro, .const 0, false, [], none⟩]⟩,
  ⟨"HALT_CTRL", 0x110, 1, 4, false, [⟨2, 1, .w1s, .const 0, false, [], none⟩, ⟨1, 1, .w1s, .const 0, false, [], none⟩, ⟨0, 1, .w1s, .const 0, false, [], none⟩]⟩,
  ⟨"HALT_STAT", 0x114, 1, 4, false, [⟨29, 3, .ro, .const 0, false, [], none⟩, ⟨16, 12, .ro, .const 0, false, [], none⟩, ⟨2, 1, .ro, .const 0, false, [], none⟩, ⟨1, 1, .ro, .const 0, false, [], none⟩, ⟨0, 1, .ro, .const 0, false, [], none⟩]⟩,
  ⟨"HALT_TICK", 0x118, 1, 4, false, [⟨0, 32, .ro, .const 0xFFFFFFFF, false, [], none⟩]⟩,
  ⟨"HALT_CNT", 0x11c, 1, 4, false, [⟨16, 16, .ro, .const 0, false, [], none⟩, ⟨0, 16, .ro, .const 0, false, [], none⟩]⟩,
  ⟨"PLAN_TC", 0x120, 1, 4, false, [⟨0, 32, .ro, .const 0, false, [], none⟩]⟩]

/-- Part 4 of the register table of the MOT page. -/
def regsMot4 : List RegDef := [
  ⟨"PLAN_INFO", 0x124, 1, 4, false, [⟨0, 32, .ro, .const 0, false, [], none⟩]⟩,
  ⟨"PLAN_TQ", 0x128, 1, 4, false, [⟨0, 32, .ro, .const 0, false, [], none⟩]⟩,
  ⟨"MRX_EQ", 0x140, 2, 4, false, [⟨31, 1, .rw, .const 0, false, [], none⟩, ⟨24, 4, .ro, .const 8, false, [], none⟩, ⟨18, 6, .ro, .const 0, false, [], none⟩, ⟨8, 8, .ro, .const 0, false, [], none⟩, ⟨0, 8, .ro, .const 0, false, [], none⟩]⟩]

/-- The block registers of a MOT page. -/
def regsMot : List RegDef := regsMot0 ++ regsMot1 ++ regsMot2 ++ regsMot3 ++ regsMot4

/-- Part 0 of the register table of the PAK page. -/
def regsPak0 : List RegDef := [
  ⟨"CFG", 0x40, 1, 4, false, [⟨24, 8, .rw, .const 0x10, true, [(4, 255)], none⟩, ⟨16, 2, .rwl, .const 0, false, [(0, 2)], none⟩, ⟨8, 1, .rwl, .const 0, false, [], none⟩, ⟨0, 3, .rw, .const 4, true, [(1, 7)], none⟩]⟩,
  ⟨"CTRL", 0x44, 1, 4, false, [⟨0, 1, .w1s, .const 0, false, [], none⟩]⟩,
  ⟨"STAT", 0x48, 1, 4, false, [⟨29, 3, .ro, .const 0, false, [], none⟩, ⟨16, 7, .ro, .const 0, false, [], none⟩, ⟨8, 7, .ro, .const 0, false, [], none⟩, ⟨0, 4, .ro, .const 0, false, [], none⟩]⟩,
  ⟨"QRX_MAP", 0x4c, 1, 4, false, [⟨31, 1, .ro, .const 0, false, [], none⟩, ⟨30, 1, .ro, .const 0, false, [], none⟩, ⟨24, 2, .ro, .const 0, false, [], none⟩, ⟨23, 1, .ro, .const 0, false, [], none⟩, ⟨22, 1, .ro, .const 0, false, [], none⟩, ⟨16, 2, .ro, .const 0, false, [], none⟩, ⟨15, 1, .ro, .const 0, false, [], none⟩, ⟨14, 1, .ro, .const 0, false, [], none⟩, ⟨8, 2, .ro, .const 0, false, [], none⟩, ⟨7, 1, .ro, .const 0, false, [], none⟩, ⟨6, 1, .ro, .const 0, false, [], none⟩, ⟨0, 2, .ro, .const 0, false, [], none⟩]⟩,
  ⟨"ACK_TICK", 0x50, 1, 4, false, [⟨0, 32, .ro, .const 0xFFFFFFFF, false, [], none⟩]⟩,
  ⟨"CNT", 0x54, 1, 4, false, [⟨16, 16, .ro, .const 0, false, [], none⟩, ⟨0, 16, .ro, .const 0, false, [], none⟩]⟩,
  ⟨"ARY_ALIVE", 0x58, 1, 4, false, [⟨0, 32, .ro, .const 0, false, [], none⟩]⟩,
  ⟨"ARY_TEMP", 0x5c, 1, 4, false, [⟨0, 16, .ro, .const 0, false, [], none⟩]⟩,
  ⟨"ALN_CFG", 0x60, 1, 4, false, [⟨24, 8, .rw, .const 0x40, true, [(1, 255)], none⟩, ⟨16, 8, .rw, .const 0x20, true, [(1, 63)], none⟩, ⟨8, 8, .rw, .const 8, true, [(1, 255)], none⟩, ⟨0, 8, .rw, .const 0x14, true, [(1, 255)], none⟩]⟩,
  ⟨"ALN_LAT", 0x64, 1, 4, false, [⟨0, 16, .rw, .const 0, true, [], none⟩]⟩,
  ⟨"ALN_SCHED", 0x68, 1, 4, false, [⟨31, 1, .w1s, .const 0, false, [], none⟩, ⟨16, 8, .rw, .const 4, false, [], none⟩, ⟨0, 8, .rw, .const 0x10, false, [], none⟩]⟩,
  ⟨"ALN_STAT", 0x6c, 1, 4, false, [⟨31, 1, .ro, .const 0, false, [], none⟩, ⟨16, 8, .ro, .const 0, false, [], none⟩, ⟨0, 16, .ro, .const 0, false, [], none⟩]⟩]

/-- Part 1 of the register table of the PAK page. -/
def regsPak1 : List RegDef := [
  ⟨"ALN_SPREAD", 0x70, 1, 4, false, [⟨16, 7, .ro, .const 0x7F, false, [], none⟩, ⟨0, 16, .ro, .const 0, false, [], none⟩]⟩,
  ⟨"QRX_EQ", 0x80, 4, 4, false, [⟨31, 1, .rw, .const 0, false, [], none⟩, ⟨24, 4, .ro, .const 8, false, [], none⟩, ⟨18, 6, .ro, .const 0, false, [], none⟩, ⟨8, 8, .ro, .const 0, false, [], none⟩, ⟨0, 8, .ro, .const 0, false, [], none⟩]⟩]

/-- The block registers of a PAK page. -/
def regsPak : List RegDef := regsPak0 ++ regsPak1

/-- Part 0 of the register table of the QLK page. -/
def regsQlk0 : List RegDef := [
  ⟨"CFG", 0x40, 1, 4, false, [⟨0, 2, .rwl, .const 1, false, [(0, 2)], none⟩]⟩,
  ⟨"CTRL", 0x44, 1, 4, false, [⟨0, 1, .w1s, .const 0, false, [], none⟩]⟩,
  ⟨"STAT", 0x48, 1, 4, false, [⟨29, 3, .ro, .const 0, false, [], none⟩, ⟨28, 1, .ro, .const 0, false, [], none⟩, ⟨16, 7, .ro, .const 0x7F, false, [], none⟩, ⟨8, 7, .ro, .const 0x7F, false, [], none⟩, ⟨0, 4, .ro, .const 0, false, [], none⟩]⟩,
  ⟨"SKEW", 0x4c, 1, 4, false, [⟨0, 12, .rw, .const 0, true, [(0, 2560)], none⟩]⟩,
  ⟨"EYE", 0x50, 1, 4, false, [⟨16, 16, .ro, .const 0, false, [], none⟩, ⟨0, 16, .ro, .const 0, false, [], none⟩]⟩,
  ⟨"CNT", 0x54, 1, 4, false, [⟨16, 16, .ro, .const 0, false, [], none⟩, ⟨0, 16, .ro, .const 0, false, [], none⟩]⟩,
  ⟨"ALIVE", 0x58, 1, 4, false, [⟨8, 8, .ro, .const 0, false, [], none⟩, ⟨0, 8, .ro, .const 0, false, [], none⟩]⟩,
  ⟨"TXEQ", 0x5c, 1, 4, false, [⟨16, 4, .rw, .const 2, false, [(0, 7)], none⟩, ⟨15, 1, .rw, .const 1, false, [], none⟩, ⟨0, 8, .ro, .const 0, false, [], none⟩]⟩]

/-- The block registers of a QLK page. -/
def regsQlk : List RegDef := regsQlk0

/-- Part 0 of the register table of the ARY page. -/
def regsAry0 : List RegDef := [
  ⟨"SPI", 0x40, 1, 4, false, [⟨0, 8, .rw, .const 0x10, true, [(13, 255)], none⟩]⟩,
  ⟨"CFG", 0x44, 1, 4, false, [⟨8, 8, .rw, .const 1, false, [(1, 255)], none⟩, ⟨0, 1, .rw, .const 1, false, [], none⟩]⟩,
  ⟨"PASS_CTRL", 0x48, 1, 4, false, [⟨31, 1, .w1s, .const 0, false, [], none⟩, ⟨16, 8, .ro, .const 0, false, [], none⟩, ⟨0, 1, .ro, .const 0, false, [], none⟩]⟩,
  ⟨"PASS_INFO", 0x4c, 1, 4, false, [⟨24, 8, .ro, .const 0, false, [], none⟩, ⟨0, 15, .ro, .const 0, false, [], none⟩]⟩,
  ⟨"PASS_SER", 0x50, 4, 4, false, [⟨0, 32, .ro, .const 0, false, [], none⟩]⟩,
  ⟨"PASS_CNT", 0x60, 1, 4, false, [⟨0, 18, .ro, .const 0, false, [], none⟩]⟩,
  ⟨"HK_CMD", 0x70, 1, 4, false, [⟨31, 1, .w1s, .const 0, false, [], none⟩, ⟨30, 1, .rw, .const 0, false, [], none⟩, ⟨16, 8, .rw, .const 0, false, [], none⟩, ⟨0, 16, .rw, .const 0, false, [], none⟩]⟩,
  ⟨"HK_RES", 0x74, 1, 4, false, [⟨31, 1, .ro, .const 0, false, [], none⟩, ⟨0, 16, .ro, .const 0, false, [], none⟩]⟩,
  ⟨"TEMP", 0x78, 1, 4, false, [⟨16, 2, .ro, .const 0, false, [], none⟩, ⟨0, 16, .ro, .const 0, false, [], none⟩]⟩,
  ⟨"DET_CFG", 0x80, 1, 4, false, [⟨4, 1, .rwl, .const 0, false, [], none⟩, ⟨0, 4, .rwl, .const 1, false, [(1, 15)], none⟩]⟩,
  ⟨"DET_STAT", 0x84, 1, 4, false, [⟨16, 16, .ro, .const 0, false, [], none⟩, ⟨0, 4, .ro, .const 0, false, [], none⟩]⟩,
  ⟨"DET_PHASE", 0x88, 1, 4, false, [⟨31, 1, .rw, .const 0, false, [], none⟩, ⟨12, 4, .ro, .const 4, false, [], none⟩, ⟨8, 4, .ro, .const 4, false, [], none⟩, ⟨4, 4, .ro, .const 4, false, [], none⟩, ⟨0, 4, .ro, .const 4, false, [], none⟩]⟩]

/-- Part 1 of the register table of the ARY page. -/
def regsAry1 : List RegDef := [
  ⟨"BC_CFG", 0x90, 1, 4, false, [⟨31, 1, .rw, .const 0, false, [], none⟩, ⟨16, 8, .rw, .const 0x32, true, [(20, 255)], none⟩, ⟨8, 8, .rw, .const 0x14, true, [(1, 255)], none⟩]⟩,
  ⟨"BC_RUN", 0x94, 1, 4, false, [⟨0, 16, .rw, .const 0x400, true, [(1, 16384)], none⟩]⟩,
  ⟨"BC_TIME", 0x98, 1, 4, false, [⟨16, 16, .rw, .const 0x258, true, [], none⟩, ⟨8, 8, .rw, .const 5, true, [], none⟩, ⟨0, 8, .rw, .const 0xF, true, [(1, 255)], none⟩]⟩,
  ⟨"BC_NOM", 0x9c, 1, 4, false, [⟨0, 24, .rw, .const 0x4B000, true, [(1, 16777215)], none⟩]⟩,
  ⟨"BC_THR", 0xa0, 1, 4, false, [⟨16, 16, .rw, .const 0x3000, true, [], none⟩, ⟨0, 16, .rw, .const 0x800, true, [], none⟩]⟩,
  ⟨"BC_DARK", 0xa4, 1, 4, false, [⟨16, 16, .rw, .const 0x800, true, [], none⟩, ⟨0, 16, .rw, .const 0x40, true, [], none⟩]⟩,
  ⟨"BC_BASE", 0xa8, 1, 4, false, [⟨0, 17, .rw, .const 0, true, [], none⟩]⟩,
  ⟨"BC_CTRL", 0xac, 1, 4, false, [⟨31, 1, .w1s, .const 0, false, [], none⟩, ⟨30, 1, .w1s, .const 0, false, [], none⟩, ⟨16, 8, .ro, .const 0, false, [], none⟩, ⟨4, 1, .rw, .const 0, false, [], none⟩, ⟨0, 4, .rw, .const 0, false, [], none⟩]⟩,
  ⟨"BC_STAT", 0xb0, 1, 4, false, [⟨31, 1, .ro, .const 0, false, [], none⟩, ⟨30, 1, .ro, .const 0, false, [], none⟩, ⟨20, 8, .ro, .const 0, false, [], none⟩, ⟨16, 4, .ro, .const 0, false, [], none⟩, ⟨0, 14, .ro, .const 0, false, [], none⟩]⟩,
  ⟨"BC_CNT", 0xb4, 1, 4, false, [⟨16, 16, .ro, .const 0, false, [], none⟩, ⟨0, 16, .ro, .const 0, false, [], none⟩]⟩,
  ⟨"GAIN_CFG", 0xc0, 1, 4, false, [⟨31, 1, .rw, .const 1, false, [], none⟩, ⟨30, 1, .rw, .const 0, false, [], none⟩, ⟨16, 8, .rw, .const 8, true, [], none⟩, ⟨0, 16, .rw, .const 0x80, true, [(1, 16384)], none⟩]⟩,
  ⟨"GAIN_CNT", 0xc4, 1, 4, false, [⟨16, 16, .ro, .const 0, false, [], none⟩, ⟨0, 16, .ro, .const 0, false, [], none⟩]⟩]

/-- The block registers of a ARY page. -/
def regsAry : List RegDef := regsAry0 ++ regsAry1

/-- Part 0 of the register table of the MEM page. -/
def regsMem0 : List RegDef := [
  ⟨"STAT", 0x40, 1, 4, false, [⟨24, 8, .ro, .const 0, false, [], none⟩, ⟨16, 2, .ro, .const 2, false, [], none⟩, ⟨2, 1, .ro, .const 0, false, [], none⟩, ⟨1, 1, .ro, .const 0, false, [], none⟩, ⟨0, 1, .ro, .const 0, false, [], none⟩]⟩,
  ⟨"CE", 0x44, 1, 4, false, [⟨0, 32, .ro, .const 0, false, [], none⟩]⟩,
  ⟨"UE", 0x48, 1, 4, false, [⟨16, 16, .ro, .const 0, false, [], none⟩, ⟨8, 8, .ro, .const 0, false, [], none⟩, ⟨0, 8, .ro, .const 0, false, [], none⟩]⟩,
  ⟨"SCRUB_POS", 0x4c, 1, 4, false, [⟨0, 22, .ro, .const 0, false, [], none⟩]⟩,
  ⟨"SCRUB_PASS", 0x50, 1, 4, false, [⟨0, 32, .ro, .const 0, false, [], none⟩]⟩,
  ⟨"SPARE_CTRL", 0x54, 1, 4, false, [⟨31, 1, .w1s, .const 0, false, [], none⟩, ⟨16, 8, .ro, .const 0, false, [], none⟩, ⟨0, 5, .rw, .const 0, false, [], none⟩]⟩,
  ⟨"PPR_CTRL", 0x58, 1, 4, false, [⟨31, 1, .w1s, .const 0, false, [], none⟩, ⟨16, 8, .ro, .const 0, false, [], none⟩, ⟨0, 16, .ro, .const 0, false, [], none⟩]⟩,
  ⟨"UE_HEAD_LO", 0x60, 1, 4, false, [⟨0, 32, .ro, .const 0, false, [], none⟩]⟩,
  ⟨"UE_HEAD_HI", 0x64, 1, 4, false, [⟨31, 1, .ro, .const 0, false, [], none⟩, ⟨26, 5, .ro, .const 0, false, [], none⟩, ⟨19, 7, .ro, .const 0, false, [], none⟩, ⟨16, 3, .ro, .const 0, false, [], none⟩, ⟨8, 8, .ro, .const 0, false, [], none⟩, ⟨0, 5, .ro, .const 0, false, [], none⟩]⟩,
  ⟨"UE_CTRL", 0x68, 1, 4, false, [⟨0, 1, .w1s, .const 0, false, [], none⟩]⟩,
  ⟨"PC", 0x100, 32, 4, false, [⟨29, 3, .ro, .pcState, false, [], none⟩, ⟨21, 7, .ro, .pcLogical, false, [], none⟩, ⟨10, 11, .ro, .const 0, false, [], none⟩, ⟨0, 8, .ro, .const 0, false, [], none⟩]⟩,
  ⟨"MAP", 0x200, 1, 4, true, [⟨20, 4, .rwl, .const 5, false, [(0, 13), (15, 15)], none⟩, ⟨16, 4, .rwl, .const 4, false, [(0, 13), (15, 15)], none⟩, ⟨12, 4, .rwl, .const 3, false, [(0, 13), (15, 15)], none⟩, ⟨8, 4, .rwl, .const 2, false, [(0, 13), (15, 15)], none⟩, ⟨4, 4, .rwl, .const 1, false, [(0, 13), (15, 15)], none⟩, ⟨0, 4, .rwl, .const 0, false, [(0, 13), (15, 15)], none⟩]⟩]

/-- Part 1 of the register table of the MEM page. -/
def regsMem1 : List RegDef := [
  ⟨"REGION", 0x204, 1, 4, true, [⟨24, 8, .rw, .const 0x18, false, [], none⟩, ⟨16, 8, .rw, .const 0x1B, false, [], none⟩, ⟨8, 8, .rw, .const 0x22, false, [], none⟩, ⟨0, 8, .rw, .const 4, false, [], none⟩]⟩,
  ⟨"REGION_RES", 0x208, 1, 4, true, [⟨0, 8, .ro, .const 0, false, [], none⟩]⟩,
  ⟨"SCRUB", 0x20c, 1, 4, true, [⟨31, 1, .rw, .const 1, false, [], none⟩, ⟨0, 11, .rw, .const 0x3C, false, [(10, 1440)], none⟩]⟩,
  ⟨"ACT", 0x210, 1, 4, true, [⟨16, 2, .rw, .const 2, true, [(1, 2)], none⟩, ⟨0, 16, .rw, .const 0x1000, true, [(1024, 16384)], none⟩]⟩,
  ⟨"REF", 0x214, 1, 4, true, [⟨4, 1, .rw, .const 0, false, [], none⟩, ⟨0, 4, .rw, .const 8, false, [(1, 8)], none⟩]⟩,
  ⟨"SPARE_CFG", 0x218, 1, 4, true, [⟨31, 1, .rw, .const 1, false, [], none⟩, ⟨12, 12, .rw, .const 0x100, false, [(1, 1024)], none⟩, ⟨0, 8, .rw, .const 0x10, false, [(1, 255)], none⟩]⟩,
  ⟨"TEST_CTRL", 0x220, 1, 4, true, [⟨31, 1, .w1s, .const 0, false, [], none⟩, ⟨30, 1, .w1s, .const 0, false, [], none⟩, ⟨16, 8, .ro, .const 0, false, [], none⟩]⟩,
  ⟨"TEST_ADDR_LO", 0x224, 1, 4, true, [⟨0, 32, .rw, .const 0, false, [], none⟩]⟩,
  ⟨"TEST_ADDR_HI", 0x228, 1, 4, true, [⟨0, 5, .rw, .const 0, false, [], none⟩]⟩,
  ⟨"TEST_CHK", 0x22c, 1, 4, true, [⟨0, 32, .rw, .const 0, false, [], none⟩]⟩,
  ⟨"TEST_SYN", 0x230, 1, 4, true, [⟨0, 32, .ro, .const 0, false, [], none⟩]⟩]

/-- The block registers of a MEM page. -/
def regsMem : List RegDef := regsMem0 ++ regsMem1

/-- Part 0 of the register table of the DMA page. -/
def regsDma0 : List RegDef := [
  ⟨"CFG", 0x40, 1, 4, false, [⟨16, 16, .rw, .const 0x1000, true, [(1, 65535)], none⟩, ⟨0, 6, .rw, .const 0x10, true, [(1, 32)], none⟩]⟩,
  ⟨"CTRL", 0x44, 1, 4, false, [⟨16, 8, .ro, .const 0, false, [], none⟩, ⟨4, 1, .w1s, .const 0, false, [], none⟩, ⟨3, 1, .w1s, .const 0, false, [], none⟩, ⟨2, 1, .w1s, .const 0, false, [], none⟩, ⟨1, 1, .w1s, .const 0, false, [], none⟩, ⟨0, 1, .w1s, .const 0, false, [], none⟩]⟩,
  ⟨"STAT", 0x48, 1, 4, false, [⟨29, 3, .ro, .const 0, false, [], none⟩, ⟨28, 1, .ro, .const 0, false, [], none⟩, ⟨27, 1, .ro, .const 0, false, [], none⟩, ⟨26, 1, .ro, .const 0, false, [], none⟩, ⟨16, 8, .ro, .const 0, false, [], none⟩, ⟨0, 16, .ro, .const 0, false, [], none⟩]⟩,
  ⟨"LAST", 0x4c, 1, 4, false, [⟨24, 8, .ro, .const 0, false, [], none⟩, ⟨0, 16, .ro, .const 0, false, [], none⟩]⟩,
  ⟨"D", 0x80, 16, 4, false, [⟨0, 32, .rw, .const 0, false, [], none⟩]⟩,
  ⟨"A", 0xc0, 16, 4, false, [⟨0, 32, .ro, .const 0, false, [], none⟩]⟩,
  ⟨"POS_DONE_LO", 0x100, 1, 4, false, [⟨0, 32, .ro, .const 0, false, [], none⟩]⟩,
  ⟨"POS_DONE_HI", 0x104, 1, 4, false, [⟨0, 32, .ro, .const 0, false, [], none⟩]⟩,
  ⟨"POS_DESC_LO", 0x108, 1, 4, false, [⟨0, 32, .ro, .const 0, false, [], none⟩]⟩,
  ⟨"POS_DESC_HI", 0x10c, 1, 4, false, [⟨0, 32, .ro, .const 0, false, [], none⟩]⟩,
  ⟨"CHKVAL_LO", 0x110, 1, 4, false, [⟨0, 32, .ro, .const 0, false, [], none⟩]⟩,
  ⟨"CHKVAL_HI", 0x114, 1, 4, false, [⟨0, 32, .ro, .const 0, false, [], none⟩]⟩]

/-- Part 1 of the register table of the DMA page. -/
def regsDma1 : List RegDef := [
  ⟨"ERRADDR_LO", 0x118, 1, 4, false, [⟨0, 32, .ro, .const 0, false, [], none⟩]⟩,
  ⟨"ERRADDR_HI", 0x11c, 1, 4, false, [⟨0, 32, .ro, .const 0, false, [], none⟩]⟩]

/-- The block registers of a DMA page. -/
def regsDma : List RegDef := regsDma0 ++ regsDma1

/-- Part 0 of the register table of the CHK page. -/
def regsChk0 : List RegDef := [
  ⟨"CFG", 0x40, 1, 4, false, [⟨31, 1, .rw, .chkOwner, false, [], none⟩, ⟨9, 1, .rw, .const 1, true, [], none⟩, ⟨8, 1, .rw, .const 1, true, [], none⟩, ⟨0, 7, .rw, .const 0x20, true, [(8, 64)], none⟩]⟩,
  ⟨"CTRL", 0x44, 1, 4, false, [⟨31, 1, .w1s, .const 0, false, [], none⟩, ⟨30, 1, .w1s, .const 0, false, [], none⟩, ⟨29, 1, .w1s, .const 0, false, [], none⟩, ⟨0, 3, .rw, .const 2, false, [], none⟩]⟩,
  ⟨"STAT", 0x48, 1, 4, false, [⟨31, 1, .ro, .const 0, false, [], none⟩, ⟨30, 1, .ro, .const 0, false, [], none⟩, ⟨29, 1, .ro, .const 0, false, [], none⟩, ⟨0, 5, .ro, .const 0, false, [], none⟩]⟩,
  ⟨"POLY_LO", 0x50, 1, 4, false, [⟨0, 32, .rw, .const 0x04C11DB7, true, [], none⟩]⟩,
  ⟨"POLY_HI", 0x54, 1, 4, false, [⟨0, 32, .rw, .const 0, true, [], none⟩]⟩,
  ⟨"INIT_LO", 0x58, 1, 4, false, [⟨0, 32, .rw, .const 0xFFFFFFFF, true, [], none⟩]⟩,
  ⟨"INIT_HI", 0x5c, 1, 4, false, [⟨0, 32, .rw, .const 0, true, [], none⟩]⟩,
  ⟨"XOR_LO", 0x60, 1, 4, false, [⟨0, 32, .rw, .const 0xFFFFFFFF, true, [], none⟩]⟩,
  ⟨"XOR_HI", 0x64, 1, 4, false, [⟨0, 32, .rw, .const 0, true, [], none⟩]⟩,
  ⟨"RUN_LO", 0x68, 1, 4, false, [⟨0, 32, .rw, .const 0xFFFFFFFF, false, [], none⟩]⟩,
  ⟨"RUN_HI", 0x6c, 1, 4, false, [⟨0, 32, .rw, .const 0, false, [], none⟩]⟩,
  ⟨"RESULT_LO", 0x70, 1, 4, false, [⟨0, 32, .ro, .const 0, false, [], none⟩]⟩]

/-- Part 1 of the register table of the CHK page. -/
def regsChk1 : List RegDef := [
  ⟨"RESULT_HI", 0x74, 1, 4, false, [⟨0, 32, .ro, .const 0, false, [], none⟩]⟩,
  ⟨"EXP_LO", 0x78, 1, 4, false, [⟨0, 32, .rw, .const 0, false, [], none⟩]⟩,
  ⟨"EXP_HI", 0x7c, 1, 4, false, [⟨0, 32, .rw, .const 0, false, [], none⟩]⟩,
  ⟨"FEED_B", 0x80, 1, 4, false, [⟨0, 8, .wo, .const 0, false, [], none⟩]⟩,
  ⟨"FEED_H", 0x84, 1, 4, false, [⟨0, 16, .wo, .const 0, false, [], none⟩]⟩,
  ⟨"FEED_W", 0x88, 1, 4, false, [⟨0, 32, .wo, .const 0, false, [], none⟩]⟩,
  ⟨"ALIVE_CFG", 0x90, 1, 4, false, [⟨31, 1, .rw, .const 0, false, [], none⟩, ⟨30, 1, .rw, .const 0, false, [], none⟩, ⟨29, 1, .ro, .const 1, false, [], none⟩, ⟨0, 2, .rw, .const 1, false, [], none⟩]⟩,
  ⟨"ALIVE", 0x94, 1, 4, false, [⟨0, 32, .wo, .const 0, false, [], none⟩]⟩,
  ⟨"ALIVE_EXP", 0x98, 1, 4, false, [⟨0, 32, .ro, .const 0, false, [], none⟩]⟩,
  ⟨"ALIVE_CNT", 0x9c, 1, 4, false, [⟨16, 16, .ro, .const 0, false, [], none⟩, ⟨0, 16, .ro, .const 0, false, [], none⟩]⟩,
  ⟨"ALIVE_GAP", 0xa0, 1, 4, false, [⟨0, 32, .ro, .const 0, false, [], none⟩]⟩]

/-- The block registers of a CHK page. -/
def regsChk : List RegDef := regsChk0 ++ regsChk1

/-- Part 0 of the register table of the TIM page. -/
def regsTim0 : List RegDef := [
  ⟨"NOW_LO", 0x40, 1, 4, false, [⟨0, 32, .ro, .const 0, false, [], none⟩]⟩,
  ⟨"NOW_HI", 0x44, 1, 4, false, [⟨0, 32, .ro, .const 0, false, [], none⟩]⟩,
  ⟨"RAW_LO", 0x48, 1, 4, false, [⟨0, 32, .ro, .const 0, false, [], none⟩]⟩,
  ⟨"RAW_HI", 0x4c, 1, 4, false, [⟨0, 32, .ro, .const 0, false, [], none⟩]⟩,
  ⟨"INC_LO", 0x50, 1, 4, false, [⟨0, 32, .rw, .const 0x33333333, false, [], none⟩]⟩,
  ⟨"INC_HI", 0x54, 1, 4, false, [⟨0, 8, .rw, .const 3, false, [], none⟩]⟩,
  ⟨"ADJ_LO", 0x58, 1, 4, false, [⟨0, 32, .wo, .const 0, false, [], none⟩]⟩,
  ⟨"ADJ_HI", 0x5c, 1, 4, false, [⟨0, 32, .wo, .const 0, false, [], none⟩]⟩,
  ⟨"ALARM_LO", 0x60, 1, 4, false, [⟨0, 32, .rw, .const 0, false, [], none⟩]⟩,
  ⟨"ALARM_HI", 0x64, 1, 4, false, [⟨0, 32, .rw, .const 0, false, [], none⟩]⟩,
  ⟨"CTRL", 0x68, 1, 4, false, [⟨0, 1, .rw, .const 0, false, [], none⟩]⟩,
  ⟨"PTP", 0x6c, 1, 4, false, [⟨1, 1, .rw, .const 0, false, [], none⟩, ⟨0, 1, .rw, .const 0, false, [], none⟩]⟩]

/-- Part 1 of the register table of the TIM page. -/
def regsTim1 : List RegDef := [
  ⟨"QSEL", 0x70, 1, 4, false, [⟨0, 7, .rw, .const 0, false, [(0, 79)], none⟩]⟩,
  ⟨"QLK_TS_LO", 0x74, 1, 4, false, [⟨0, 32, .ro, .const 0, false, [], none⟩]⟩,
  ⟨"QLK_TS_HI", 0x78, 1, 4, false, [⟨0, 32, .ro, .const 0, false, [], none⟩]⟩,
  ⟨"TC_CNT", 0x7c, 1, 4, false, [⟨16, 16, .ro, .const 0, false, [], none⟩, ⟨0, 16, .ro, .const 0, false, [], none⟩]⟩]

/-- The block registers of a TIM page. -/
def regsTim : List RegDef := regsTim0 ++ regsTim1

/-- Part 0 of the register table of the NET page. -/
def regsNet0 : List RegDef := [
  ⟨"CFG", 0x40, 1, 4, false, [⟨30, 2, .rwl, .const 0, false, [(0, 2)], none⟩, ⟨29, 1, .rwl, .const 1, false, [], none⟩, ⟨27, 2, .rwl, .const 0, false, [], none⟩]⟩,
  ⟨"STAT", 0x44, 1, 4, false, [⟨28, 4, .ro, .const 0, false, [], none⟩, ⟨0, 8, .ro, .const 0, false, [], none⟩]⟩,
  ⟨"PRIO", 0x48, 1, 4, false, [⟨24, 8, .rw, .const 0, false, [], none⟩, ⟨16, 1, .rw, .const 0, false, [], none⟩, ⟨12, 4, .rw, .const 7, false, [(0, 7)], none⟩, ⟨8, 4, .rw, .const 6, false, [(0, 7)], none⟩, ⟨4, 4, .rw, .const 5, false, [(0, 7)], none⟩, ⟨0, 4, .rw, .const 0, false, [(0, 7)], none⟩]⟩,
  ⟨"ETYPE", 0x4c, 1, 4, false, [⟨16, 16, .rwl, .const 0x88B6, false, [(1536, 65535)], none⟩, ⟨0, 16, .rwl, .const 0x88B5, false, [(1536, 65535)], none⟩]⟩,
  ⟨"HOSTET", 0x50, 1, 4, false, [⟨0, 16, .rw, .const 0, false, [(0, 0), (1536, 65535)], none⟩]⟩,
  ⟨"RING", 0x54, 1, 4, false, [⟨0, 17, .rwl, .const 0, false, [], none⟩]⟩,
  ⟨"RXR_IDX", 0x58, 1, 4, false, [⟨16, 6, .ro, .const 0, false, [], none⟩, ⟨0, 6, .rw, .const 0, false, [], none⟩]⟩,
  ⟨"TXR_IDX", 0x5c, 1, 4, false, [⟨16, 6, .ro, .const 0, false, [], none⟩, ⟨0, 6, .rw, .const 0, false, [], none⟩]⟩,
  ⟨"CNT_0", 0x70, 1, 4, false, [⟨16, 16, .ro, .const 0, false, [], none⟩, ⟨0, 16, .ro, .const 0, false, [], none⟩]⟩,
  ⟨"CNT_1", 0x74, 1, 4, false, [⟨16, 16, .ro, .const 0, false, [], none⟩, ⟨0, 16, .ro, .const 0, false, [], none⟩]⟩,
  ⟨"CNT_2", 0x78, 1, 4, false, [⟨16, 16, .ro, .const 0, false, [], none⟩, ⟨0, 16, .ro, .const 0, false, [], none⟩]⟩,
  ⟨"CNT_3", 0x7c, 1, 4, false, [⟨16, 16, .ro, .const 0, false, [], none⟩, ⟨0, 16, .ro, .const 0, false, [], none⟩]⟩]

/-- The block registers of a NET page. -/
def regsNet : List RegDef := regsNet0

/-- Part 0 of the register table of the FAB page. -/
def regsFab0 : List RegDef := [
  ⟨"CFG", 0x40, 1, 4, false, [⟨31, 1, .rw, .const 0, false, [], none⟩, ⟨30, 1, .rw, .const 0, false, [], none⟩, ⟨29, 1, .rwl, .const 0, false, [], none⟩, ⟨8, 8, .rwl, .const 0, false, [], none⟩, ⟨0, 8, .rwl, .const 0xFF, false, [(0, 63), (255, 255)], none⟩]⟩,
  ⟨"STAT", 0x44, 1, 4, false, [⟨29, 3, .ro, .const 0, false, [], none⟩, ⟨22, 7, .ro, .const 0, false, [], none⟩, ⟨8, 8, .ro, .const 0xFE, false, [], none⟩, ⟨0, 8, .ro, .const 0, false, [], none⟩]⟩,
  ⟨"EPOCH", 0x48, 1, 4, false, [⟨0, 32, .ro, .const 0, false, [], none⟩]⟩,
  ⟨"UID_LO", 0x50, 1, 4, false, [⟨0, 32, .ro, .const 0, false, [], none⟩]⟩,
  ⟨"UID_HI", 0x54, 1, 4, false, [⟨0, 32, .ro, .const 0, false, [], none⟩]⟩,
  ⟨"RECK", 0x60, 1, 4, false, [⟨31, 1, .w1s, .const 0, false, [], none⟩, ⟨16, 8, .ro, .const 0, false, [], none⟩, ⟨0, 8, .rw, .const 0xFF, false, [], none⟩]⟩,
  ⟨"MIRROR_LO", 0x68, 1, 4, false, [⟨0, 32, .ro, .const 0, false, [], none⟩]⟩,
  ⟨"MIRROR_HI", 0x6c, 1, 4, false, [⟨0, 32, .ro, .const 0, false, [], none⟩]⟩,
  ⟨"SHARE", 0x70, 1, 4, false, [⟨31, 1, .w1s, .const 0, false, [], none⟩, ⟨16, 8, .ro, .const 0, false, [], none⟩, ⟨0, 8, .rw, .const 0, false, [], none⟩]⟩,
  ⟨"SHARE_ID_LO", 0x74, 1, 4, false, [⟨0, 32, .rw, .const 0, false, [], none⟩]⟩,
  ⟨"SHARE_ID_HI", 0x78, 1, 4, false, [⟨0, 32, .rw, .const 0, false, [], none⟩]⟩,
  ⟨"SURV", 0x80, 1, 4, false, [⟨16, 16, .rwl, .const 0, false, [], none⟩, ⟨0, 16, .rwl, .const 0, false, [], none⟩]⟩]

/-- Part 1 of the register table of the FAB page. -/
def regsFab1 : List RegDef := [
  ⟨"SURV_CTRL", 0x84, 1, 4, false, [⟨31, 1, .rwl, .const 0, false, [], none⟩, ⟨30, 1, .w1s, .const 0, false, [], none⟩, ⟨0, 16, .ro, .const 0, false, [], none⟩]⟩,
  ⟨"SURV_NEED", 0x88, 1, 4, false, [⟨0, 16, .ro, .const 0, false, [], none⟩]⟩,
  ⟨"TOFS", 0x90, 1, 4, false, [⟨0, 32, .ro, .const 0, false, [], none⟩]⟩,
  ⟨"MOT", 0xa0, 1, 4, false, [⟨30, 2, .rwl, .const 0, false, [(0, 2)], none⟩, ⟨0, 8, .rwl, .const 0, false, [], none⟩]⟩,
  ⟨"MOT_DY_LO", 0xa4, 1, 4, false, [⟨0, 32, .rwl, .const 0, false, [], none⟩]⟩,
  ⟨"MOT_DY_HI", 0xa8, 1, 4, false, [⟨0, 16, .rwl, .const 0, false, [], none⟩]⟩,
  ⟨"MOT_MEMBERS_LO", 0xac, 1, 4, false, [⟨0, 32, .rw, .const 0, false, [], none⟩]⟩,
  ⟨"MOT_MEMBERS_HI", 0xb0, 1, 4, false, [⟨0, 32, .rw, .const 0, false, [], none⟩]⟩,
  ⟨"MOT_CTRL", 0xb4, 1, 4, false, [⟨1, 1, .w1s, .const 0, false, [], none⟩, ⟨0, 1, .w1s, .const 0, false, [], none⟩]⟩,
  ⟨"MOT_STAT", 0xb8, 1, 4, false, [⟨31, 1, .ro, .const 0, false, [], none⟩, ⟨24, 7, .ro, .const 0, false, [], none⟩, ⟨16, 8, .ro, .const 0xFF, false, [], none⟩]⟩,
  ⟨"CNT", 0xc0, 1, 4, false, [⟨16, 16, .ro, .const 0, false, [], none⟩, ⟨0, 16, .ro, .const 0, false, [], none⟩]⟩,
  ⟨"ROUTE", 0x100, 64, 4, false, [⟨31, 1, .ro, .const 0, false, [], none⟩, ⟨24, 4, .ro, .const 0, false, [], none⟩, ⟨16, 8, .ro, .const 0, false, [], none⟩, ⟨8, 3, .ro, .const 0, false, [], none⟩]⟩]

/-- The block registers of a FAB page. -/
def regsFab : List RegDef := regsFab0 ++ regsFab1

/-- Part 0 of the register table of the RCK page. -/
def regsRck0 : List RegDef := [
  ⟨"CTRL", 0x40, 1, 4, false, [⟨16, 16, .wo, .const 0, false, [], none⟩, ⟨2, 1, .w1s, .const 0, false, [], none⟩, ⟨1, 1, .w1s, .const 0, false, [], none⟩, ⟨0, 1, .w1s, .const 0, false, [], none⟩]⟩,
  ⟨"CFG", 0x44, 1, 4, false, [⟨0, 1, .rw, .const 0, false, [], none⟩]⟩,
  ⟨"CAUSE", 0x48, 1, 4, false, [⟨24, 8, .ro, .const 1, false, [], none⟩, ⟨8, 8, .ro, .const 0, false, [], none⟩, ⟨0, 8, .ro, .const 0, false, [], none⟩]⟩,
  ⟨"CLK", 0x4c, 1, 4, false, [⟨31, 1, .ro, .const 0, false, [], none⟩, ⟨30, 1, .ro, .const 0, false, [], none⟩]⟩,
  ⟨"ISL_LOCK_LO", 0x50, 1, 4, false, [⟨0, 32, .ro, .const 0, false, [], none⟩]⟩,
  ⟨"ISL_LOCK_HI", 0x54, 1, 4, false, [⟨0, 9, .ro, .const 0, false, [], none⟩]⟩,
  ⟨"ISL_TMO_LO", 0x58, 1, 4, false, [⟨0, 32, .ro, .const 0, false, [], none⟩]⟩,
  ⟨"ISL_TMO_HI", 0x5c, 1, 4, false, [⟨0, 9, .ro, .const 0, false, [], none⟩]⟩,
  ⟨"CELLAR_ADDR", 0x60, 1, 4, false, [⟨0, 16, .rw, .const 0, false, [], none⟩]⟩,
  ⟨"CELLAR_DATA", 0x64, 1, 4, false, [⟨0, 32, .rw, .const 0, false, [], none⟩]⟩,
  ⟨"CELLAR_STAT", 0x68, 1, 4, false, [⟨0, 32, .ro, .const 0, false, [], none⟩]⟩,
  ⟨"PWR_IN", 0x70, 1, 4, false, [⟨16, 16, .ro, .const 0, false, [], none⟩, ⟨0, 16, .ro, .const 0, false, [], none⟩]⟩]

/-- Part 1 of the register table of the RCK page. -/
def regsRck1 : List RegDef := [
  ⟨"PWR_PH", 0x74, 1, 4, false, [⟨16, 16, .ro, .const 0x3FFF, false, [], none⟩, ⟨0, 16, .ro, .const 0, false, [], none⟩]⟩,
  ⟨"THERM", 0x78, 1, 4, false, [⟨16, 16, .ro, .const 0, false, [], none⟩, ⟨0, 16, .ro, .const 0, false, [], none⟩]⟩,
  ⟨"THERM_LIM", 0x7c, 1, 4, false, [⟨24, 8, .ro, .const 0x37, false, [], none⟩, ⟨16, 8, .ro, .const 0x2F, false, [], none⟩, ⟨8, 8, .ro, .const 0x6E, false, [], none⟩, ⟨1, 1, .ro, .const 0, false, [], none⟩, ⟨0, 1, .ro, .const 0, false, [], none⟩]⟩,
  ⟨"BKP", 0x80, 16, 4, false, [⟨0, 32, .rw, .const 0, false, [], none⟩]⟩]

/-- The block registers of a RCK page. -/
def regsRck : List RegDef := regsRck0 ++ regsRck1

/-- Part 0 of the register table of the LCY page. -/
def regsLcy0 : List RegDef := [
  ⟨"STATE", 0x40, 1, 4, false, [⟨31, 1, .ro, .const 0, false, [], none⟩, ⟨30, 1, .ro, .const 0, false, [], none⟩, ⟨16, 8, .ro, .const 0, false, [], none⟩, ⟨8, 8, .ro, .const 0, false, [], none⟩, ⟨0, 8, .ro, .const 0, false, [], none⟩]⟩,
  ⟨"WIPES", 0x44, 1, 4, false, [⟨0, 32, .ro, .const 0, false, [], none⟩]⟩,
  ⟨"LAST", 0x48, 1, 4, false, [⟨24, 8, .ro, .const 0, false, [], none⟩, ⟨16, 8, .ro, .const 0, false, [], none⟩, ⟨0, 8, .ro, .const 0, false, [], none⟩]⟩]

/-- The block registers of a LCY page. -/
def regsLcy : List RegDef := regsLcy0

/-- Part 0 of the register table of the LED page. -/
def regsLed0 : List RegDef := [
  ⟨"CFG", 0x40, 1, 4, false, [⟨17, 4, .rwl, .const 6, false, [], none⟩, ⟨0, 17, .rwl, .const 0, false, [], none⟩]⟩,
  ⟨"WR", 0x48, 1, 4, false, [⟨0, 32, .ro, .const 0, false, [], none⟩]⟩,
  ⟨"RD", 0x4c, 1, 4, false, [⟨0, 32, .rw, .const 0, false, [], none⟩]⟩,
  ⟨"STAT", 0x50, 1, 4, false, [⟨31, 1, .ro, .const 0, false, [], none⟩, ⟨30, 1, .ro, .const 0, false, [], none⟩, ⟨0, 7, .ro, .const 0, false, [], none⟩]⟩,
  ⟨"LOST", 0x54, 1, 4, false, [⟨0, 32, .ro, .const 0, false, [], none⟩]⟩,
  ⟨"CNT", 0x58, 1, 4, false, [⟨16, 16, .ro, .const 0, false, [], none⟩, ⟨0, 16, .ro, .const 0, false, [], none⟩]⟩,
  ⟨"CHAIN", 0x80, 12, 4, false, [⟨0, 32, .ro, .const 0, false, [], none⟩]⟩]

/-- The block registers of a LED page. -/
def regsLed : List RegDef := regsLed0

/-- The block registers of each block (R55); HST has none beyond its header. -/
def blockRegs : Block → List RegDef
  | .glb => regsGlb
  | .rck => regsRck
  | .lcy => regsLcy
  | .ink => regsInk
  | .tim => regsTim
  | .net => regsNet
  | .fab => regsFab
  | .hst => []
  | .ing => regsIng
  | .exp => regsExp
  | .srv => regsSrv
  | .cor => regsCor
  | .ras => regsRas
  | .cmp => regsCmp
  | .alc => regsAlc
  | .pak => regsPak
  | .qlk => regsQlk
  | .ary => regsAry
  | .mot => regsMot
  | .mem => regsMem
  | .dma => regsDma
  | .chk => regsChk
  | .led => regsLed

end Sys2Proof.Machine
end

