-- ==== Sys2Proof/Machine/Parts.lean ====
section
/-!
DEFINITION. The parts of the machine's state that no register field holds: pins, queues, tables, engines and their
work in hand, each a structure of plain data, grouped by the block that owns it.
-/
namespace Sys2Proof.Machine

/-! ### Module: pins, messages, reckoning -/

/-- The levels of the J2 control signals that enter the module (R46, R50) and what other devices do to shared lines. -/
structure Pins where
  psupOk     : Bool := false   -- PERMIT_SUPPLY at or above 2.7 V (R50)
  permitLvl  : Bool := false   -- comparator of R48: line high
  custodyRaw : Bool := true    -- unfiltered CUSTODY_N; true = custody not engaged (R49, R51)
  custody    : Bool := true    -- filtered CUSTODY_N (R49)
  perstN     : Bool := false   -- level of PERST_N
  resetN     : Bool := true    -- level of RESET_N
  alertN     : Bool := true    -- level of ASP_ALERT_N
  irqExtLow  : Nat  := 0       -- bit p: another device holds IRQ_N[p] low
  faultExt   : Bool := false   -- another device holds FAULT_N low
  deriving DecidableEq, Repr

/-- What the module sends to the outside, one entry for each emission, oldest last. -/
inductive Output where
  | msix (vector : Nat)                                             -- R72
  | setpoint (lanes : List Byte)                                    -- the 31 characters of a frame on MTX_0 and MTX_1
  | deflection (word : List Byte)                                   -- the 15 characters of a DTX word
  | edge (tick phase : Nat) (time : Int)                            -- a phase edge handed to the packer (R243)
  | qframe (lane : Nat) (chars : List Byte)                         -- a frame on QTX lane (R281)
  | marker (lane : Nat) (chars : List Byte)                         -- a tick marker (R286)
  | laneMap (lane : Nat) (chars : List Byte)                        -- a lane-map set (R299)
  | spi (tx : List Byte)                                            -- a transaction of the array service port (R305)
  | ether (port sub : Nat) (frame : List Byte)                      -- an Ethernet frame, from destination to FCS (R386)
  | hostWrite (addr : Nat) (data : List Byte)                       -- a posted write to HOST space
  | hostRead (addr len : Nat)                                       -- a read request to HOST space
  | completion (data : List Byte) (poisoned : Bool)                 -- a read completion (R58)
  | config (retry : Bool)                                           -- a configuration completion (R431)
  | regRead (value : Nat)                                           -- the value a register read returns
  deriving DecidableEq, Repr

/-- Reckoning (R75 to R81): the request in hand, the queued one, what was captured, and the two slots. -/
structure Reck where
  seq      : Nat := 1                       -- SEQ of the next summary
  source   : Nat := 0                       -- SOURCE of the request in hand
  reqr     : Nat := 0xFF                    -- REQUESTER of the request in hand
  qSource  : Nat := 0                       -- SOURCE of the queued request
  qReqr    : Nat := 0xFF                    -- REQUESTER of the queued request
  peers    : List Nat := []                 -- fabric peers a copy of the summary in hand is owed to
  qPeers   : List Nat := []                 -- the same for the queued one
  captured : Option (List Byte) := none     -- the summary's bytes 0x000 to 0xFF7 once captured
  slot0    : List Byte := []                -- empty stands for 4,096 zero bytes
  slot1    : List Byte := []
  deriving DecidableEq, Repr

/-! ### Motion (chapters 10 and 11) -/

/-- An accepted position sample (R233, R236): times in 1/16 ns. -/
structure Sample where
  seq     : Nat
  x       : Int
  y       : Int
  status  : Nat
  arrival : Int
  time    : Int
  lane    : Nat
  deriving DecidableEq, Repr

/-- A received copy held for the compare with the other lane's copy (R235). -/
structure Copy where
  seq     : Nat
  lane    : Nat
  body    : List Byte
  arrival : Int
  matched : Bool := false        -- the other lane's copy has been compared
  deriving DecidableEq, Repr

/-- One axis of the profile generator (R251 to R254); `next` is a target held until the axis has come to rest. -/
structure Axis where
  p      : Int := 0                 -- position, 2^-21 count
  v      : Int := 0                 -- speed along dirn, 2^-20 count per µs
  dirn   : Int := 1
  tgt    : Option Int := none       -- target of the move in hand, 2^-21 count
  vc     : Int := 0
  vs     : Int := 0
  toRest : Bool := false            -- a deceleration to rest with no target (R253, R254)
  hard   : Bool := false            -- that deceleration is a stop ramp at STOP_EFF, else at DEC
  next   : Option (Int × Int × Int) := none   -- (target, VC, VS) to take once at rest (R254)
  deriving DecidableEq, Repr

/-- The motion block's own state. -/
structure Mot where
  samples    : List Sample := []        -- accepted samples, latest first, at most 33 (R238)
  copy       : Option Copy := none      -- first copy of the latest SEQ (R235)
  acq        : Nat := 0                 -- the count of ACQUIRING (R237)
  gap        : Nat := 0                 -- sample intervals passed in HOLDOVER without an accepted sample
  stepRun    : Nat := 0                 -- STEP discards in succession (R235)
  equalRun   : Nat := 0                 -- equal copies in succession (R250)
  high       : Option Int := none       -- the high-water position H (R240)
  trajectory : Bool := false            -- the profile generator runs a trajectory (R257)
  wantTraj   : Bool := false            -- a trajectory waits for the position state to become VALID (R257)
  ax         : Axis := {}
  ay         : Axis := {}
  mtxSeq     : Nat := 0
  dtxSeq     : Nat := 0
  lastWord   : Int := 0                 -- launch time of the last deflection word
  predicted  : Option Int := none       -- e(t) of the first untriggered tick (R241)
  due        : Bool := false            -- a sample has shown that tick due
  committed  : Option (Nat × Int) := none   -- a committed edge: tick and time
  lastEdge   : Option (Nat × Int × Nat × Int) := none   -- last launched edge: tick, time, S(t) in 0.25 ns, Y_thr
  resDone    : Bool := true             -- its residual has been computed
  actRef     : Option (Int × Int) := none   -- X_ref of a finished stripe and the time its words stay ACTIVE (R247)
  nextPhase  : Nat := 16                -- the next phase of that tick still to be placed; 16 = none
  ackWait    : Bool := false            -- an edge withheld for missing data or acknowledgements
  residual   : Option Int := none       -- ε of the latest tick whose residual is known
  writing    : Bool := false            -- FLAGS.WRITING (R245)
  stopRamp   : Bool := false            -- FLAGS.STOP_RAMP
  afterHalt  : Bool := false            -- the run-up in hand follows a halt
  hFixed     : Bool := false            -- h is fixed (R269, R271): from rest, or from the first run-up, to its launch
  hTick      : Nat := 0                 -- h, the first tick to be launched (R259, R269)
  vr         : Int := 0                 -- run-up speed, 2^-20 count per µs
  yBack      : Int := 0                 -- back-up point, counts
  atRunup    : Bool := false            -- both axes dwell at the run-up point (R260 step 3)
  xDwell     : Nat := 0                 -- steps since the X move ended
  gapBeam    : Bool := false            -- gap request of beam check
  gapCal     : Bool := false            -- gap request of background calibration
  turns      : Nat := 0                 -- turnarounds run, for R485
  vTherm     : Option Int := none       -- v_therm, 2^-20 count per µs
  tNeed      : Option Nat := none       -- t_need of R268
  scFault    : Bool := false            -- latest sample's SC_FAULT
  holding    : Bool := false            -- latest sample's HOLDING
  reversal   : Bool := false            -- the cause of REVERSAL is present
  keepAcc    : Option (Int × Int × Int) := none   -- ACC, DEC, STOP in force for the ramp in progress (R255)
  hGroup     : Nat := 0                 -- h_g, the smallest h of any member of the group (R417)
  abandonHold : Bool := false           -- an abandonment waits for RESUME or FLUSH before the next run-up (R274)
  abandonRel : Bool := false            -- armed waybills are abandoned on release of the page (R526)
  deriving DecidableEq, Repr

/-! ### Ingest, waybills and travellers (chapters 4 and 5) -/

/-- What arming captures for a stripe (R127, R223, R239, R262 to R265). -/
structure Plan where
  k        : Nat                 -- K
  g        : Nat                 -- MOT_GRID.PITCH, counts
  a        : Nat                 -- A
  n        : Nat                 -- code depth
  bank     : Nat                 -- beam-table bank named (R214)
  lanes    : Nat                 -- data lanes k
  full     : Nat                 -- ALC_DOSE.FULL (R223)
  emax     : Nat
  dutyBeam : Nat
  dutyGrp  : Nat
  dseed    : Nat
  damp     : Nat
  weakAbs  : Nat
  acc      : Int                 -- profile values captured (R265)
  dec      : Int
  stop     : Int
  vmax     : Int
  settle   : Nat
  tMin     : Nat                 -- T_min of R262, 0.25 ns
  tq       : List Nat            -- T_q of each segment, 0.25 ns (R262)
  bands    : List (List (Nat × Nat))   -- per segment, its bands as (first tile-block row, rows) (R139)
  gstripe  : Nat := 0            -- its number in the motion group (R416)
  order    : Nat := 0            -- PAK_CFG.ORDER captured (R283)
  launched : Nat := 0            -- ticks launched so far
  ts0      : Nat := 0            -- time stamp of the phase-0 edge of tick 0 (R469)
  tsLast   : Nat := 0            -- that of the last tick launched
  segsMade : Nat := 0            -- SEG records made (R469)
  deriving DecidableEq, Repr

/-- A waybill in the queue (R125, R126). -/
structure Waybill where
  seq   : Nat
  words : List Nat
  plan  : Option Plan := none    -- some: armed
  deriving DecidableEq, Repr

/-- A check block of an accepted or received stream, as the block table holds it (R122). -/
structure BlockEntry where
  offset : Nat
  len    : Nat
  seq    : Nat
  crc    : Nat
  damaged : Bool := false
  deriving DecidableEq, Repr

/-- The states of a layout handle (R148). -/
inductive LayoutState where
  | empty | receiving | accepted | freed
  deriving DecidableEq, Repr

/-- A bounding box [xl, xu] × [yl, yu] in database units (R108). -/
structure Box where
  xl : Int
  yl : Int
  xu : Int
  yu : Int
  deriving DecidableEq, Repr

/-- What the cell table keeps of a cell definition (R94 to R96): `body` counts its body records. -/
structure CellInfo where
  num   : Nat
  ofs   : Nat
  depth : Nat
  box   : Box
  body  : Nat
  deriving DecidableEq, Repr

/-- The bin grid of a TOP record (R100). -/
structure BinGrid where
  gx   : Int
  gy   : Int
  log  : Nat
  nbx  : Nat
  nby  : Nat
  deriving DecidableEq, Repr

/-- One BIN record (R101) and its place in the stream. -/
structure BinInfo where
  bx  : Nat
  by' : Nat
  rx  : Nat
  ry  : Nat
  ofs : Nat
  deriving DecidableEq, Repr

/-- Where the interpreter stands in the order of R89. -/
inductive Place where
  | start | cells | cell | top | bin | ended
  deriving DecidableEq, Repr

/-- The interpreter of a stream (R89, R115): what it has met so far. The index of R122 is built from it. -/
structure Interp where
  place   : Place := .start
  grid    : Nat := 0
  bytes   : Nat := 0
  id      : Nat := 0
  ncells  : Nat := 0                     -- CELLS of the FILE record
  seen    : Nat := 0                     -- CELL records met
  cells   : List CellInfo := []          -- cells closed
  cur     : Option CellInfo := none      -- the cell that is open
  top     : Option BinGrid := none
  bins    : List BinInfo := []           -- bins met, latest first
  deriving DecidableEq, Repr

/-- What the M2620 keeps of one layout handle (R118 to R124): the MiB pages of the layout store it holds, in stream
order, and the index of its stream. -/
structure Layout where
  state  : LayoutState := .empty
  pages  : List Nat := []
  bytes  : Nat := 0              -- FILE.BYTES
  index  : Interp := {}
  blocks : List BlockEntry := []
  indexDamaged : Bool := false
  deriving DecidableEq, Repr

/-- The stream being received (R113 to R121). -/
structure Delivery where
  handle  : Nat
  source  : Nat
  resume  : Nat := 0             -- the resume offset of R114
  bufOfs  : Nat := 0             -- stream offset of the first byte of `buf`
  buf     : List Byte := []      -- bytes accepted and not yet judged
  staged  : List (Nat × List Byte) := []   -- blocks that passed, with their offsets, oldest first
  expSeq  : Nat := 0             -- expected BLOCK_SEQ
  freeing : Nat := 0             -- buffers whose block is interpreted and that are not yet free (R120)
  tries   : Nat := 0
  interp  : Interp := {}
  deriving DecidableEq, Repr

/-- A repair delivery (R146). -/
structure Repair where
  handle : Nat
  source : Nat
  offset : Nat                   -- of the damaged block
  buf    : List Byte := []
  tries  : Nat := 0
  stream : Nat                   -- STREAM before the repair
  deriving DecidableEq, Repr

/-- The states of a traveller (R131). -/
inductive TrvState where
  | free | expanding | listed | raster | buffered | draining | waitRepair
  deriving DecidableEq, Repr

/-- One of the 512 travellers (R130, R131). -/
structure Traveller where
  state   : TrvState := .free
  rcmp    : Bool := false
  survey  : Bool := false
  handle  : Nat := 0
  stripe  : Nat := 0
  wseq    : Nat := 0             -- sequence number of its waybill
  seg     : Nat := 0             -- segment index q
  j       : Nat := 0             -- its position in the stripe
  band    : Nat := 0
  nbands  : Nat := 1
  slot    : Option Nat := none
  listed  : Nat := 0             -- bands whose list has been completed in this pass
  corrected : Nat := 0           -- bands corrected into the slot in this pass
  valid   : Bool := false        -- the slot is valid
  restart : Bool := false        -- waits to be expanded again from its first band (R131)
  redo    : Bool := false        -- a recomputation is in hand or waits for its dispatch (R143)
  firstRead : Bool := false
  lastRead  : Bool := false
  damage  : Option Nat := none   -- offset of the damaged block it waits for
  recorded : Bool := false       -- its SEG record is in the ledger staging
  deriving DecidableEq, Repr

/-- What an expander has in hand (R137, R149). -/
structure Expander where
  work    : Option (Nat × Nat) := none   -- traveller and band
  waiting : Bool := false                -- waits for list pages (R138)
  clocks  : Nat := 0                     -- busy clocks not yet shown in EXP_n_BUSY (R149)
  mism    : Option (Nat × Nat) := none   -- its mismatched band's waybill and segment, until dispatched again (R137)
  deriving DecidableEq, Repr

/-- One element of an outline (R106), in database units from the segment's lower-left corner. -/
structure Elem where
  quad : Bool
  cx   : Int
  cy   : Int
  ex   : Int
  ey   : Int
  deriving DecidableEq, Repr

/-- A clipped figure (R135): its dose class, record type, start point and elements. -/
structure Fig where
  dclass : Nat
  type   : Nat
  x0     : Int
  y0     : Int
  elems  : List Elem
  deriving DecidableEq, Repr

/-- The list of one band (R138), and how far the raster stage has come with it: tile rows binned, tiles dispatched and
tiles finished, all counted in meeting order from the band's start (R159, R161). -/
structure BandList where
  trv   : Nat
  band  : Nat
  figs  : List Fig
  pages : Nat
  rows  : Nat := 0
  next  : Nat := 0
  done  : Nat := 0
  refs  : Nat := 0               -- bytes this band holds in the reference store
  deriving DecidableEq, Repr

/-! ### The raster stage (chapters 6 and 7) -/

/-- Where a dispatched tile stands (R166 to R171). -/
inductive TileAt where
  | pair (p : Nat)       -- a pair computes it
  | emit (p : Nat)       -- its pair stalls at emit for a full staging pool
  | limit (p : Nat)      -- its pair has found a mismatch and stalls while 4 votes are open
  | vote                 -- its vote waits for a voter
  | spare (e : Nat)      -- a spare computes it a third time
  | pairVote (p : Nat)   -- a voter pair computes it a third time
  | voted (p : Nat)      -- the voter pair's agreed record waits for the resolution
  | taken                -- it was taken from a pair before it finished
  | agreed               -- agreed or won by vote, not yet corrected
  deriving DecidableEq, Repr

/-- A dispatched tile that is not yet corrected, with the records CMP holds of it (R160, R169). -/
structure Tile where
  trv   : Nat
  wseq  : Nat
  j     : Nat
  band  : Nat
  tseq  : Nat
  place : TileAt
  void  : Bool := false          -- its segment's pass has ended: it is completed and discarded
  pair  : Nat := 0               -- the mismatching pair and its engines
  engA  : Nat := 0
  engB  : Nat := 0
  inj   : Bool := false          -- the mismatch was injected (R177)
  tries : Nat := 0               -- voter mismatches met
  recA  : List Nat := []
  recB  : List Nat := []
  recV  : List Nat := []         -- a voter pair's
  deriving DecidableEq, Repr

/-- The raster stage. -/
structure Ras where
  tiles   : List Tile := []      -- oldest first; a mismatch moves a tile to the end
  waiting : List Nat := []       -- pairs that wait for a spare (R173)
  leaving : List Nat := []       -- engines that leave once their tile or vote is finished (R175)
  decay   : List Nat := []       -- engines whose strike level is due to fall (R172)
  binWait : Bool := false        -- the binner waits for the reference store (R161)
  deriving DecidableEq, Repr

/-! ### Survey and dose correction (chapter 8) -/

/-- The partial sums a module keeps of one stripe that it has walked itself in a shared survey (R409, R411). -/
structure StripeAcc where
  stripe : Nat
  walked : Nat := 0                          -- segments of it walked
  acc    : List (Nat × Nat) := []            -- partial sums by cell
  deriving DecidableEq, Repr

/-- The survey unit and the correction engine. Cells are named by (a + 1) × (NCY + 2) + (b + 1), their place in the map
(R182). -/
structure Srv where
  mode     : Nat := 0                        -- MODE of the operation in progress
  todo     : List (Nat × Nat) := []          -- ranges of segments s × SQ + q still to be handed out, as [first, end)
  left     : Nat := 0                        -- segments of them not yet walked
  shared   : Bool := false                   -- the survey is shared (R409)
  sid      : Nat := 0                        -- its SID (R410)
  parts    : List StripeAcc := []            -- stripes walked by this module
  whole    : List Nat := []                  -- stripes whose sums are complete
  acc      : List (Nat × Nat) := []          -- accumulators A by cell (R184)
  col      : Nat := 0                        -- the next cell column to sweep, counted from a = −1
  deltaMax : Nat := 0
  sat      : Nat := 0
  aborting : Bool := false                   -- ABORT waits for the next segment boundary (R194)
  damaged  : List (Nat × Nat) := []          -- damaged code words of maps: (handle, byte offset in the map), oldest first
  repaired : List (Nat × Nat) := []          -- words of maps that have been restored
  repair   : Option Nat := none              -- the handle whose map is being repaired (R203)
  coarse   : List Nat := []                  -- handles that have lost both copies of a coarse word (R203)
  redo     : List (Nat × Nat) := []          -- cost records to be walked again: (handle, segment)
  retired  : List Nat := []                  -- retired correction slices (R202)
  failed   : List (Nat × Nat) := []          -- each slice's last failure: (slice, correction clock)
  deriving DecidableEq, Repr

/-- Ingest and expansion. -/
structure Ing where
  delivery  : Option Delivery := none
  repair    : Option Repair := none
  layouts   : List Layout := List.replicate 16 {}
  waybills  : List Waybill := []           -- queue, head first; armed ones first
  damagedQ  : List (Nat × Nat) := []       -- damaged blocks held: (handle, offset), oldest first, at most 16
  damagedW  : List (Nat × Nat) := []       -- further damaged blocks waiting for a place
  travellers : List Traveller := List.replicate 512 {}
  expanders : List Expander := List.replicate 8 {}
  lists     : List BandList := []
  releasing : List Nat := []               -- pages of freed handles not yet shown in ING_LS_FREE (R124)
  curSeg    : Nat := 0                     -- position of the segment the allocator is reading
  ras       : Ras := {}
  srv       : Srv := {}
  deriving DecidableEq, Repr

/-! ### Allocation (chapter 9) -/

/-- The allocator's state of the current stripe (R217, R225 to R228). Carries and window sums are listed by beam or
row group and are 0 where nothing is listed. -/
structure Alc where
  next    : Nat := 0                              -- the next tick to compute
  carry   : List (Nat × Int) := []
  wsum    : List (Nat × Nat) := []
  gsum    : List (Nat × Nat) := []
  codes   : List (Nat × List (Nat × Nat)) := []   -- per tick held: (beam, code), codes of 0 left out, oldest first
  stopped : Bool := false                         -- COMPARE_FAIL or STATE_LOST: no further tick (R225, R226)
  planLost : Bool := false                        -- plan words lost in both copies (R226)
  fired   : Bool := false                         -- SWAP has made the former active bank wait for its copy (R214)
  abandonRel : Bool := false                      -- the release owes the abandonment of R525
  deriving DecidableEq, Repr

/-! ### The Q-link (chapter 12) -/

/-- A DATA frame kept until it is acknowledged (R290): its 1,024 characters, the stream byte its payload begins at, and
the resends that count towards RESEND_LIM. -/
structure QFrame where
  alive : Nat
  pos   : Nat
  bytes : Nat                    -- stream bytes in its payload
  crc   : Nat
  chars : List Byte
  resent : Nat := 0
  due   : Bool := false          -- it waits to be resent
  deriving DecidableEq, Repr

/-- The payload stream of a logical lane (R282, R284), of a stripe or of an alignment run. -/
structure Stream where
  logical : Nat
  wseq    : Nat
  k       : Nat
  n       : Nat
  order   : Nat
  total   : Nat                  -- its length in bytes
  pos     : Nat := 0             -- bytes that frames have taken
  alive   : Nat := 0             -- ALIVE of its next frame
  frames  : List QFrame := []    -- unacknowledged, oldest first
  lastDue : Bool := false        -- closed early: a LAST frame is owed
  stopped : Bool := false        -- no further byte is sent (R291)
  deriving DecidableEq, Repr

/-- The margin scan of a lane (R483, R484): the preset, series and step in hand, the HEIGHT of that preset once its series
has ended, (WIDTH, HEIGHT) of the presets measured in this scan and in the latest complete one, the order number of that
scan, whether one has completed since the lane last left role DATA, and a PRESET that waits for role STANDBY (R496). -/
structure Scan where
  preset : Nat := 0
  width  : Bool := false
  step   : Nat := 0
  height : Nat := 0
  now    : List (Nat × Nat) := []
  last   : List (Nat × Nat) := []
  order  : Nat := 0
  ready  : Bool := false
  want   : Option Nat := none
  deriving DecidableEq, Repr

/-- The adaptation of a receiver (R480): its three decision-feedback taps, and the steps of 4,096 bits since its CTLE setting
last moved, which moves once per 256 of them at most. -/
structure Rx where
  taps  : List Int := [0, 0, 0]
  since : Nat := 256
  deriving DecidableEq, Repr

/-- A physical lane: the frame count of BLANK and TRAIN frames, and how far its training and its lane-map sets are. -/
structure Lane where
  alive   : Nat := 0
  sent    : Nat := 0             -- TRAIN frames sent in this phase
  clean   : Nat := 0             -- TRAIN frames sent since ERR last showed its receiver
  sets    : Nat := 0             -- lane-map sets sent since it was selected
  setsDue : Nat := 0             -- sets owed after a change
  unlocked : Nat := 0            -- consecutive status frames that show its receiver unlocked
  corrupt : Bool := false        -- a crossing check failed: the next frame's CRC field is inverted (R450)
  scan    : Scan := {}
  deriving DecidableEq, Repr

/-- An alignment run (R487): its pulse code, P and D in 1/256 ns, the phase spacing in 0.25 ns, the time its stream opened
in 1/16 ns, and the ticks launched. -/
structure AlnRun where
  code     : Nat
  period   : Nat
  spacing  : Nat
  dur      : Nat
  k        : Nat
  repeats  : Nat
  n        : Nat
  order    : Nat
  opened   : Int
  launched : Nat := 0
  bad      : Nat := 0            -- the run is discarded with this RESULT (R488, R490)
  deriving DecidableEq, Repr

/-- The packer: streams, lanes and what the array's status frames last showed. -/
structure Pak where
  streams  : List Stream := []
  lanes    : List Lane := List.replicate 80 {}
  marked   : Option Int := none              -- the edge whose markers have been sent
  takeover : Option (Nat × Nat) := none      -- a takeover in hand: logical lane and physical lane (R300)
  waiting  : List Nat := []                  -- logical lanes that wait for a physical lane
  page0    : List Nat := List.replicate 80 0x7F
  page1    : List Nat := List.replicate 80 0xFF
  lock     : Nat := 0
  inv      : Nat := 0
  seen     : Option Nat := none              -- the latest array alive counter
  dead     : Bool := false                   -- it does not advance
  miss     : Bool := false                   -- the latest status frame shows MISS
  rot      : Option (Nat × Nat) := none      -- a rotation in hand: the lane that gives up DATA and the one that takes it
  scans    : Nat := 0                        -- margin scans completed on any lane
  rx       : List Rx := List.replicate 6 {}  -- QRX_0 to QRX_3, MRX_0 and MRX_1
  aln      : Option AlnRun := none           -- the alignment run in hand (R487)
  rotDue   : Bool := false                   -- a lane rotation is due in this turnaround (R485)
  alnDue   : Bool := false                   -- an alignment run is due
  alnNow   : Bool := false                   -- NOW has been written since the last run
  deriving DecidableEq, Repr

/-! ### Array service and beam check (chapter 13) -/

/-- A session of beam check (R317): its parts, the first being measured, and the first beam of it not yet measured. -/
structure Session where
  manual : Bool
  parts  : List Nat
  ofs    : Nat := 0
  abort  : Bool := false
  wrote  : Bool := false         -- it has written an entry of the staging bank
  deriving DecidableEq, Repr

/-- The array service block. -/
structure Ary where
  hk      : Option (Bool × Nat × Nat) := none   -- a housekeeping transaction in hand: WRITE, ADDR, DATA
  bank    : Nat := 0                            -- the staging bank a passport load writes
  inkLost : Bool := false                       -- the innkeeper went down during the load
  session : Option Session := none
  run     : Option (Nat × Nat) := none          -- a check run in hand: START and COUNT
  spoiled : Bool := false                       -- the permit was withdrawn during it
  dark    : Bool := false                       -- the latest dark check failed
  held    : List Nat := []                      -- beams whose write-back is held (R318)
  stuck   : List Nat := []                      -- beams of the stuck list whose write-back is held
  deriving DecidableEq, Repr

/-! ### The fabric (chapter 18) -/

/-- A known neighbour (R403): the link it was heard on, its UID, its address and its own link. -/
structure Neighbour where
  link : Nat
  uid  : Nat
  addr : Nat
  far  : Nat
  mac  : Nat
  deriving DecidableEq, Repr

/-- An LSA held (R403): entries are (neighbour's UID, local link, neighbour's link). -/
structure Lsa where
  uid     : Nat
  addr    : Nat
  pref    : Nat
  epoch   : Nat
  seq     : Nat
  entries : List (Nat × Nat × Nat)
  deriving DecidableEq, Repr

/-- The alignment values of a PLAN frame (R414, R416). -/
structure Align where
  dir : Nat
  a   : Nat
  g   : Nat
  nt  : Nat
  y0  : Int
  deriving DecidableEq, Repr

/-- A follower's plan of one group stripe (R416): T_q by segment. -/
structure GroupPlan where
  gstripe : Nat
  align   : Option Align
  tq      : List (Nat × Nat)
  deriving DecidableEq, Repr

/-- What the lead keeps of one follower (R415 to R417): the last FSTAT and the plans of its group stripes. -/
structure Follower where
  addr    : Nat
  heard   : Bool := false
  lost    : Bool := false
  tick    : Nat := 0xFFFFFFFF
  h       : Nat := 0xFFFFFFFF
  cap     : Nat := 0xFFFFFFFF
  gstripe : Nat := 0
  flags   : Nat := 0
  plans   : List GroupPlan := []
  deriving DecidableEq, Repr

/-- A share being served (R408): the OFS and CSEQ of the peer's latest CREDIT frame, and the offset up to which the
stream has been sent. -/
structure Share where
  peer   : Nat
  handle : Nat
  ofs    : Nat := 0
  sent   : Nat := 0
  cseq   : Option Nat := none
  deriving DecidableEq, Repr

/-- What has been received of one stripe from one walker in a shared survey (R411): the chunks, by cell column and row,
and the CHUNKS and CRC of DENS_END. -/
structure StripeSum where
  stripe   : Nat
  src      : Nat
  chunks   : List (List Byte) := []
  total    : Option (Nat × Nat) := none
  deriving DecidableEq, Repr

/-- The fabric's own state. -/
structure Fab where
  neighbours : List Neighbour := []
  lsas       : List Lsa := []
  members    : List (Nat × Nat) := []            -- (UID, address) of the settled membership
  seqs       : List (Nat × Nat) := []            -- (KIND, SEQ of the next frame)
  reckFrom   : List Nat := []                    -- peers whose summary is awaited (R407)
  mirror     : List (Nat × List Byte) := []      -- mirror slots by address, 4,096 bytes each (R55, R407)
  shareWait  : Bool := false                     -- a SHARE_RSP is awaited (R408)
  shares     : List Share := []
  shareOn    : Bool := false                     -- a peer serves this module's delivery (R408)
  mapCrcs    : List (Nat × Nat) := []            -- MAPCRC frames received: SID and CRC (R412)
  ownCrc     : Option Nat := none                -- the module's own map CRC of that SID
  crcDiff    : Bool := false                     -- one differed from it
  sums       : List StripeSum := []
  treqT1     : Option Nat := none                -- t1 of the latest TREQ (R413)
  routeZero  : Bool := false                     -- a route to address 0 has been known and not lost (R413)
  followers  : List Follower := []
  armCount   : Nat := 0                          -- stripes armed since ROLE was written (R416)
  held       : Bool := false                     -- FAB_MOT_CTRL.STOP held on this module (R415)
  leadStripe : Nat := 0                          -- GSTRIPE of the last MSTAT
  leadLost   : Bool := false                     -- no MSTAT has come for 100 µs (R418)
  deriving DecidableEq, Repr

/-! ### The ledger (chapter 20) -/

/-- What the ledger keeps of one segment until its SEG record is made (R219, R468), by waybill and position. -/
structure SegCounts where
  wseq   : Nat
  j      : Nat
  qsat   : Nat := 0
  blim   : Nat := 0
  glim   : Nat := 0
  carry  : Nat := 0
  crc    : Nat := 0xFFFFFFFFFFFFFFFF     -- running value of CODE_CRC
  rcmp   : Nat := 0
  votes  : Nat := 0
  nomaj  : Nat := 0
  halts  : Nat := 0
  resent : Nat := 0
  pairs  : Option Nat := none
  flags  : Nat := 0
  made   : Bool := false                 -- its SEG record has been made
  deriving DecidableEq, Repr

/-- An OPEN record whose map CRC was pending (R470). -/
structure PendingMap where
  handle : Nat
  id     : Nat
  lseq   : Nat
  deriving DecidableEq, Repr

/-- The ledger's own state. -/
structure Led where
  staging  : List (List Byte) := []      -- records made and not yet in the ring, oldest first (R472)
  next     : Nat := 0                    -- LSEQ of the next record made
  chain    : List Byte := List.replicate 48 0
  lastClose : List Byte := List.replicate 48 0   -- CHAIN of the previous CLOSE record
  segs     : List SegCounts := []
  pendMaps : List PendingMap := []
  openSeq  : List (Nat × Nat) := []      -- (WSEQ, STRIPE) of stripes whose OPEN has no CLOSE, oldest first
  memLoss  : Option (Nat × Nat) := none  -- first LSEQ and number of records lost with HBM, whose GAP record is owed (R424)
  owed     : List (Waybill × Plan × Nat) := []   -- abandoned stripes whose CLOSE follows that GAP record
  deriving DecidableEq, Repr

/-! ### HBM controller (chapter 14) -/

/-- A finding of a stack's UE log (R334); `addr` is none for a spare or reserve row. -/
structure UeEntry where
  addr   : Option Nat
  pc     : Nat
  origin : Nat
  deriving DecidableEq, Repr

/-- A logical channel whose whole content was lost with its pseudo-channel (R341): every code word of it is poison but
those written whole since. With `dead` no pseudo-channel serves it, and writes are discarded. -/
structure LostChannel where
  chan    : Nat
  pc      : Nat
  time    : Nat
  cleared : List Nat := []
  dead    : Bool := false
  deriving DecidableEq, Repr

/-- The activate-count table of a bank (R336): rows with their counts. A bank is named by physical pseudo-channel × 64 +
bank. -/
structure ActTable where
  bank : Nat
  rows : List (Nat × Nat) := []
  bad  : Bool := false           -- an entry is uncorrectable
  fast : Bool := false           -- every row is refreshed once per 4 ms until the refresh cycle ends
  deriving DecidableEq, Repr

/-- One stack's own state. -/
structure Stack where
  log       : List UeEntry := []             -- oldest first, at most 16
  passStart : Nat := 0                       -- when the current scrub pass began
  sub       : Nat := 0                       -- the code word within the local granule being scrubbed
  hot       : Bool := false                  -- TEMP_HIGH's cause is present
  copy      : Option (Nat × Nat) := none     -- a sparing copy: source and destination
  ppr       : Bool := false                  -- PPR runs
  want      : List Nat := []                 -- pseudo-channels that need sparing and have had no spare
  hsel      : List Nat := [0, 1, 2, 3, 4, 5] -- HSEL in force (R323)
  filled    : Bool := false                  -- the stack has been filled since its block reset
  deriving DecidableEq, Repr

/-- The memory controller's own state; code words are named by their index, address / 32, and rows by bank × 16,384 +
row. `dev` lists the XOR of the stored check bytes of a code word with those of R326, least significant byte first. -/
structure MemCtl where
  poison : List Nat := []            -- code words that hold the poison record (R331)
  dev    : List (Nat × Nat) := []    -- code words whose check bytes deviate otherwise
  inj    : List Nat := []            -- code words that an injection has changed
  lost   : List LostChannel := []
  fixed  : List Nat := []            -- rows with a correction in the current scrub pass of their stack (R338)
  remaps : List Nat := []            -- remapped rows
  debts  : List (Nat × Nat) := []    -- refreshes owed by a bank
  acts   : List ActTable := []
  stackSt : List Stack := List.replicate 4 {}
  lossDue : Bool := false            -- a reset of the MEM pages has lost HBM, and R424 is still to be carried out
  deriving DecidableEq, Repr

/-! ### DMA channels (chapter 15) -/

/-- A DMA channel's own state; its active set stands in DMA_n_A. -/
structure DmaChan where
  pend   : List Nat := []              -- the pending set's 16 words; none held where empty
  first  : Bool := true                -- the active set began its chain
  inHost : Bool := false               -- it was fetched from HOST space
  fetch  : Option (Bool × Nat) := none -- the descriptor to be fetched: whether from HOST, and its address
  idx    : List Nat := []              -- index entries read so far
  moved  : Nat := 0                    -- bytes moved, in source order
  issued : Nat := 0                    -- bytes of the index table, or of the data, that requests have been issued for
  reqs   : List (Nat × Nat) := []      -- outstanding requests to HOST, oldest first: address and length
  stale  : Nat := 0                    -- outstanding requests that a stop has left behind
  held   : List Byte := []             -- data read that ingest has not taken
  run    : Nat := 0                    -- R over the bytes moved
  chk    : Nat := 0                    -- CHK of the previous descriptor of the chain
  deriving DecidableEq, Repr

/-- The channels and what the endpoint's configuration space says. -/
structure Dma where
  chans     : List DmaChan := List.replicate 32 {}
  busMaster : Bool := false            -- Bus Master Enable
  payload   : Nat := 128               -- maximum payload size
  readReq   : Nat := 512               -- maximum read request size
  deriving DecidableEq, Repr

/-! ### Time (chapter 17) -/

/-- The time base (R379): the raw counter C, the clocks since C0, the base B in 2^-32 ns, the writes of _LO that are
held, and the captured _HI values of R382. -/
structure Tim where
  c      : Nat := 0
  since  : Nat := 0
  base   : Nat := 0
  heldInc : Option Nat := none
  heldAdj : Option Nat := none
  bad     : Bool := false         -- B, C0 or INC has failed its check, and neither INC nor a step has been written since (R383)
  deriving DecidableEq, Repr

/-! ### Ethernet (chapter 17) -/

/-- A transport peer (R396, R408): an Ethernet address on a sub-port, or a fabric address. -/
structure Peer where
  fabric : Bool
  addr   : Nat
  sub    : Nat
  deriving DecidableEq, Repr

/-- A frame that pause or PFC holds back: its sub-port, its class in the order of R389, and its bytes. -/
structure TxFrame where
  sub   : Nat
  cls   : Nat
  bytes : List Byte
  deriving DecidableEq, Repr

/-- An Ethernet port. -/
structure NetPort where
  full75  : Bool := false              -- the receive buffer has passed 75% and not fallen below 50% since (R388)
  held    : List (Nat × Nat) := []     -- sub-ports held by pause, with the mask of the priorities held
  queue   : List TxFrame := []         -- frames that pause holds back, oldest first
  peer    : Option Peer := none
  owed    : Bool := false              -- a REQ is still to be answered (R397)
  cseq    : Nat := 0                   -- CSEQ of the last CREDIT frame
  lastEnd : Nat := 0                   -- the END last sent
  deriving DecidableEq, Repr

/-! ### Check units (chapter 16) -/

/-- One queued write of a check unit (R368, R369). -/
inductive ChkEntry where
  | feed (bytes : List Byte)
  | ctrl (value : Nat)
  | reg (off value : Nat)                  -- a register written on its own
  | pair (off : Nat) (lo : Option Nat) (hi : Nat)   -- a _LO and _HI pair; `off` is that of _LO
  | owner (value : Nat)                    -- a write of CFG by an agent that does not own the unit
  deriving DecidableEq, Repr

/-- A check unit: its queue, oldest first, and the _LO writes it holds, by offset. -/
structure Chk where
  queue  : List ChkEntry := []
  heldLo : List (Nat × Nat) := []
  deriving DecidableEq, Repr

/-! ### The innkeeper (chapters 3, 19, 20 and 21) -/

/-- What a bank of the persistent store, or the innkeeper's image of it, holds (R437, R438): the user area (bytes that are
not 0, by rising offset), the life-cycle record, the remapped rows, (STATE, LOGICAL) of the 128 pseudo-channels (none
listed: as after reset), the active firmware slot, the phase map, the counts, and the commit budget. -/
structure StoreImage where
  gen      : Nat := 0
  user     : List (Nat × Byte) := []
  state    : Nat := 0x10
  target   : Nat := 0
  remaps   : List Nat := []
  maps     : List (Nat × Nat) := []
  slot     : Nat := 0
  active   : Nat := 0x3FFF       -- phases active
  failed   : Nat := 0            -- phases switched off
  wipes    : Nat := 0
  powerUps : Nat := 0
  tokens   : Nat := 64
  moves    : Nat := 0            -- commits of life-cycle transitions
  security : Nat := 0            -- the minimum security version (R463, R464)
  deriving DecidableEq, Repr

/-- Why a commit is made: a host's write (R439), a record of the innkeeper's own, entry into WIPING, the end of WIPING. -/
inductive Commit where
  | host | record | enter | leave
  deriving DecidableEq, Repr

/-- A firmware slot (R463): whether it holds valid firmware, its version where it is not that of manufacture, and its
security version. -/
structure FwSlot where
  valid    : Bool := true
  version  : Option Nat := none
  security : Nat := 0
  deriving DecidableEq, Repr

/-- The innkeeper's own state. -/
structure Ink where
  eeprom   : List Byte := []      -- the identity EEPROM's 256 bytes, where they have been accepted (R54)
  raw      : List Byte := []      -- what the last read of the EEPROM gave; empty where it failed
  attempts : Nat := 0             -- EEPROM read attempts at the last power-up (R85)
  lcCmd    : Bool := false        -- an accepted life-cycle request has still to be completed (R444)
  wiped    : Bool := false        -- the steps of a wipe have begun since its module reset (R445)
  image    : StoreImage := {}     -- the store's image in the innkeeper's memory (R437)
  bank0    : Option StoreImage := none   -- the two banks; none = not valid
  bank1    : Option StoreImage := none
  bad      : Bool := false        -- the cause of STORE_BAD
  one      : Bool := false        -- the cause of STORE_ONE
  commit   : Option Commit := none       -- the commit being made
  queue    : List Commit := []    -- commits that wait for a token, or for the one being made
  retired  : Bool := false        -- the retirement fuse is blown
  slots    : List FwSlot := [{}, {}]
  running  : Nat := 0             -- the slot that runs
  next     : Option Nat := none   -- the slot of the next restart or power-up (R463)
  staged   : Option Nat := none   -- the slot verified by a stage since power-up
  fresh    : Bool := false        -- the running firmware is new and not yet permanent (R464)
  deriving DecidableEq, Repr

/-! ### Power and resets (chapter 19) -/

/-- The stages of a module reset (R432). -/
inductive ModPhase where
  | none | asserted | blocksReset
  deriving DecidableEq, Repr

/-- Supply, clocks, resets and the always-on stores of the reset controller. -/
structure Pwr where
  powered   : Bool := true        -- the power stage runs
  phaseLow  : Bool := true        -- FAULT_N is held low by a reset phase of R433
  vinOut    : Bool := false       -- VIN lies outside 6 to 40 V
  modPhase  : ModPhase := .none
  warn      : Bool := false       -- the power-fail warning is in force (R421)
  overV     : Bool := false       -- the power stage has stopped for overvoltage
  perstRst  : Bool := true        -- the PCI Express reset is asserted
  rstLow    : Bool := false       -- RESET_N has fallen and has not yet reset or risen
  ref156    : Bool := false       -- REFCLK156 is present (R429)
  ref100    : Bool := false       -- REFCLK100 is present
  lost156   : Bool := false       -- REFCLK156 has been lost and has not returned (R429)
  lost100   : Bool := false       -- the same for REFCLK100
  wds       : List Int := []      -- times of the latest watchdog restarts, 1/16 ns, latest first (R425)
  inkHalted : Bool := false       -- the innkeeper stays halted
  haltCause : Bool := false       -- the cause of INK_HALTED, present until a write of INK_RST (R425)
  booted    : Bool := false       -- the boot of R431 has ended
  cellarBad : List Nat := []      -- cellar words that are uncorrectable, by word address
  tripLid   : Nat := 0            -- consecutive checks at or above the lid trip limit (R515)
  tripDie   : Nat := 0
  tripped   : Bool := false       -- a trip has occurred and the power stage is to stop or has stopped
  tripWarn  : Nat := 0x2F         -- the lid warning limit in force at the trip (R515)
  deriving DecidableEq, Repr

end Sys2Proof.Machine
end

