-- ==== Sys2Proof/Machine/State.lean ====
section
/-!
DEFINITION. The machine's state as plain data, the reasons a command can stop with, and the state right after a
power-up reset.
-/
namespace Sys2Proof.Machine

/-- The reasons a command stops the model. -/
inductive Fault where
  /-- Raised by HBM_READ and HBM_WRITE for an address at or above 96 GiB: the spec gives HBM no such address (R31,
  R322). Safe: the model stops where the hardware has no place to answer from. -/
  | noSuchAddress
  deriving DecidableEq, Repr

/-- The reasons the model has no meaning for a command. -/
inductive Refusal where
  /-- Raised by no meaning; it marks an arm of exec whose command has not been modelled. Safe: the model stops. -/
  | notModelled (mnemonic : String)
  deriving DecidableEq, Repr

/-- HBM as (address, byte) pairs in canonical form: addresses strictly rising, no entry equal to the byte that the
initialisation fill leaves (R329). -/
abbrev Memory := List Host.Cell

/-- The whole machine. -/
structure State where
  regs    : FieldStore := []           -- every register field that differs from its reset value
  hbm     : Memory := []               -- HBM contents
  free    : Nat := 0                   -- the model's own: free values drawn so far
  out     : List Output := []          -- what the module has sent, latest first
  pins    : Pins := {}
  reck    : Reck := {}
  mot     : Mot := {}
  ing     : Ing := {}
  alc     : Alc := {}
  pak     : Pak := {}
  ary     : Ary := {}
  fab     : Fab := {}
  mem     : MemCtl := {}
  led     : Led := {}
  dma     : Dma := {}
  tim     : Tim := {}
  net     : List NetPort := [{}, {}]
  ink     : Ink := {}
  chk     : List Chk := List.replicate 8 {}
  pwr     : Pwr := {}
  pending : List Sys2Proof.Instr := [] -- commands waiting, first in first out
  deriving DecidableEq, Repr

/-- The machine right after a power-up reset: every field at its reset value, every page in RESET, no command
waiting. -/
def State.reset : State := {}

end Sys2Proof.Machine
end

