-- ==== Sys2Proof/Machine/Ops.lean ====
section
/-!
DEFINITION. The operations every meaning is built from: reading and writing a register field, the page header, events
and their messages, faults and their classes, the permit switch, halt requests, reckoning requests and HBM bytes.
-/
namespace Sys2Proof.Machine

/-- The value of a register field. -/
def State.rd (s : State) (f : Fld) : Nat := s.regs.get f

/-- Give a register field a value. -/
def State.wr (s : State) (f : Fld) (v : Nat) : State := { s with regs := s.regs.set f v }

/-- Write several fields, in order. -/
def State.wrs (s : State) : List (Fld × Nat) → State
  | [] => s
  | (f, v) :: t => (s.wr f v).wrs t

/-- Add to a field, saturating at the greatest value it holds. -/
def State.satInc (s : State) (f : Fld) (d : Nat) : State := s.wr f (satAdd (2 ^ f.width - 1) (s.rd f) d)

/-- Add to a field that wraps. -/
def State.wrapInc (s : State) (f : Fld) (d : Nat) : State := s.wr f (s.rd f + d)

/-- A field that is a single bit reads 1. -/
def State.bit (s : State) (f : Fld) : Bool := s.rd f == 1

/-- The value of a 64-bit quantity held in a _LO and a _HI register. -/
def State.rd64 (s : State) (lo hi : Fld) : Nat := s.rd lo + 2 ^ 32 * s.rd hi

/-- Write a 64-bit quantity to a _LO and a _HI register. -/
def State.wr64 (s : State) (lo hi : Fld) (v : Nat) : State := (s.wr lo (v % 2 ^ 32)).wr hi (v / 2 ^ 32)

/-- Record something the module sends. -/
def State.emit (s : State) (o : Output) : State := { s with out := o :: s.out }

/-- Draw a value the spec leaves open. -/
def State.draw (s : State) : Nat × State := (Config.freeValue s.free, { s with free := s.free + 1 })

/-! ### Time (R378, R379) -/

/-- INC in force. -/
def State.timeInc (s : State) : Nat := s.rd64 Reg.TIM_INC_LO_INC Reg.TIM_INC_HI_INC

/-- T in 1/16 ns (R379), unreliable while a check of its terms has failed (R383). -/
def State.now (s : State) : Nat :=
  (if s.tim.bad then Config.unreliableTime s.tim.c else (s.tim.base + s.tim.since * s.timeInc) / 2 ^ 28) % 2 ^ 64

/-! ### The page header (R61 to R68) -/

/-- The numbers of PAGE_STATE.STATE (R62). -/
abbrev stOFF : Nat := 0
abbrev stRESET : Nat := 1
abbrev stRELEASING : Nat := 2
abbrev stIDLE : Nat := 3
abbrev stRUNNING : Nat := 4
abbrev stQUIESCING : Nat := 5
abbrev stQUIESCED : Nat := 6
abbrev stSTOPPING : Nat := 7

/-- ENABLE resets to 1 in these blocks (R62). -/
def Block.enabledAtReset : Block → Bool
  | .glb | .rck | .lcy | .ink | .tim | .hst => true
  | _ => false

/-- The default of EVT_ROUTE.NUM, the master event table (R71). -/
def Page.defaultEvent (p : Page) : Nat :=
  match p.block with
  | .glb => 0 | .rck => 1 | .lcy => 2 | .ink => 3 | .tim => 4 | .net => 5 + p.inst | .fab => 7 | .hst => 8 | .ing => 9
  | .exp => 10 + p.inst | .srv => 18 | .cor => 19 | .cmp => 20 | .alc => 21 | .pak => 22 | .ary => 23 | .mot => 24
  | .mem => 25 + p.inst | .chk => 29 + p.inst | .led => 37 | .ras => 40 + p.inst | .dma => 92 + p.inst
  | .qlk => 124 + p.inst / 20

namespace Hdr
def enable (p : Page) : Fld := ⟨p.base + 0x8, 0, 1, if p.block.enabledAtReset then 1 else 0⟩
def quiesce (p : Page) : Fld := ⟨p.base + 0x8, 1, 1, 0⟩
def resetReq (p : Page) : Fld := ⟨p.base + 0x8, 2, 1, 0⟩
def state (p : Page) : Fld := ⟨p.base + 0xC, 0, 3, 1⟩
def pendEn (p : Page) : Fld := ⟨p.base + 0xC, 3, 1, 0⟩
def pendRel (p : Page) : Fld := ⟨p.base + 0xC, 4, 1, 1⟩
def evtRaw (p : Page) : Fld := ⟨p.base + 0x10, 0, 32, 0⟩
def evtMask (p : Page) : Fld := ⟨p.base + 0x14, 0, 32, 0⟩
def evtNum (p : Page) : Fld := ⟨p.base + 0x18, 0, 7, p.defaultEvent⟩
def evtOff (p : Page) : Fld := ⟨p.base + 0x18, 8, 1, 0⟩
def discards (p : Page) : Fld := ⟨p.base + 0x1C, 0, 16, 0⟩
def raises (p : Page) : Fld := ⟨p.base + 0x1C, 16, 16, 0⟩
def faultStat (p : Page) : Fld := ⟨p.base + 0x20, 0, 32, 0⟩
def injFlip (p : Page) : Fld := ⟨p.base + 0x24, 0, 16, 0⟩
def injTarget (p : Page) : Fld := ⟨p.base + 0x24, 16, 8, 0⟩
def injArm (p : Page) : Fld := ⟨p.base + 0x24, 31, 1, 0⟩
def scratch (p : Page) : Fld := ⟨p.base + 0x28, 0, 32, 0⟩
def lock (p : Page) : Fld := ⟨p.base + 0x2C, 0, 1, 0⟩
def hold (p : Page) : Fld := ⟨p.base + 0x2C, 1, 1, 0⟩
end Hdr

/-- The single-instance pages. -/
abbrev pGLB : Page := ⟨.glb, 0⟩
abbrev pRCK : Page := ⟨.rck, 0⟩
abbrev pLCY : Page := ⟨.lcy, 0⟩
abbrev pINK : Page := ⟨.ink, 0⟩
abbrev pTIM : Page := ⟨.tim, 0⟩
abbrev pFAB : Page := ⟨.fab, 0⟩
abbrev pHST : Page := ⟨.hst, 0⟩
abbrev pING : Page := ⟨.ing, 0⟩
abbrev pSRV : Page := ⟨.srv, 0⟩
abbrev pCOR : Page := ⟨.cor, 0⟩
abbrev pCMP : Page := ⟨.cmp, 0⟩
abbrev pALC : Page := ⟨.alc, 0⟩
abbrev pPAK : Page := ⟨.pak, 0⟩
abbrev pARY : Page := ⟨.ary, 0⟩
abbrev pMOT : Page := ⟨.mot, 0⟩
abbrev pLED : Page := ⟨.led, 0⟩

/-- PAGE_STATE.STATE of a page. -/
def State.pstate (s : State) (p : Page) : Nat := s.rd (Hdr.state p)

/-- A page's STATE is RESET or RELEASING (R62). -/
def State.inReset (s : State) (p : Page) : Bool := s.pstate p == stRESET || s.pstate p == stRELEASING

/-- A page is running: STATE is RUNNING or QUIESCING (R63). -/
def State.running (s : State) (p : Page) : Bool := s.pstate p == stRUNNING || s.pstate p == stQUIESCING

/-- A page takes new work: STATE is IDLE or RUNNING (R63). -/
def State.accepts (s : State) (p : Page) : Bool := s.pstate p == stIDLE || s.pstate p == stRUNNING

/-- PAGE_STATE.LOCKED: the lockable fields are locked at present (R62, R65). -/
def State.locked (s : State) (p : Page) : Bool := s.bit (Hdr.lock p) && s.running p

/-- The block's start and end conditions move a page between IDLE and RUNNING, and end QUIESCING (R63). -/
def State.setRunning (s : State) (p : Page) (busy : Bool) : State :=
  if busy then (if s.pstate p == stIDLE then s.wr (Hdr.state p) stRUNNING else s)
  else if s.pstate p == stRUNNING then s.wr (Hdr.state p) stIDLE
  else if s.pstate p == stQUIESCING then s.wr (Hdr.state p) stQUIESCED
  else s

/-! ### Who is heard (R52, R69, R522) -/

/-- A register access of an agent reaches the module: the host's while the endpoint is on its link, the innkeeper's
while it runs, the console's in a service state. -/
def State.hears (s : State) (ag : Sys2Proof.Agent) : Bool :=
  s.pwr.powered && match ag with
    | .host => !s.inReset pHST
    | .innkeeper => !s.bit Reg.INK_STATUS_INK_DOWN
    | .console => s.rd Reg.LCY_STATE_STATE == 0x01 || s.rd Reg.LCY_STATE_STATE == 0x30

/-! ### Events and messages (R67, R71 to R74) -/

namespace Reg
/-- Word w of entry n of the MSI-X table at 0x0007_8000; word 3 is the vector control, whose mask bit resets to 1
(R55, R72; the reset value PRESUMED from the PCI Express specification, log entry 8). -/
def msixWord (n w : Nat) : Fld := ⟨0x78000 + 16 * n + 4 * w, 0, 32, if w = 3 then 1 else 0⟩
/-- Word i of the pending-bit array at 0x0007_9000. -/
def msixPend (i : Nat) : Fld := ⟨0x79000 + 4 * i, 0, 32, 0⟩
end Reg

/-- MSI-X vector n is masked in its table entry. -/
def State.vectorMasked (s : State) (n : Nat) : Bool := (s.rd (Reg.msixWord n 3)).testBit 0

/-- A message for vector n: sent, or kept pending while the vector is masked (R72). An endpoint that is not on its link
sends none (R522). -/
def State.message (s : State) (n : Nat) : State :=
  if s.inReset pHST then s else if s.vectorMasked n then s.wr (Reg.msixPend (n / 32)) (setBit (s.rd (Reg.msixPend (n / 32))) (n % 32))
  else s.emit (.msix n)

/-- A bit of a page's EVT_RAW is set. -/
def State.evt (s : State) (p : Page) (b : Nat) : Bool := (s.rd (Hdr.evtRaw p)).testBit b

/-- Set EVT_RAW bit b of a page: a 0-to-1 change counts in RAISES and, if the bit is enabled and the page is routed,
makes a message (R67, R72). -/
def State.raise (s : State) (p : Page) (b : Nat) : State :=
  if s.evt p b then s
  else
    let t := (s.wr (Hdr.evtRaw p) (setBit (s.rd (Hdr.evtRaw p)) b)).satInc (Hdr.raises p) 1
    if (s.rd (Hdr.evtMask p)).testBit b && !s.bit (Hdr.evtOff p) then t.message (s.rd (Hdr.evtNum p) % 128) else t

/-- Raise an event only under a condition. -/
def State.raiseIf (s : State) (c : Bool) (p : Page) (b : Nat) : State := if c then s.raise p b else s

/-- The page's event is asserted: an enabled EVT_RAW bit is set (R71). -/
def State.pageEvent (s : State) (p : Page) : Bool := s.rd (Hdr.evtRaw p) &&& s.rd (Hdr.evtMask p) != 0

/-- Device event n is asserted (R71). -/
def State.deviceEvent (s : State) (n : Nat) : Bool :=
  allPages.any fun p => s.pageEvent p && !s.bit (Hdr.evtOff p) && s.rd (Hdr.evtNum p) == n

/-- The four-bit field of GLB_IRQ_SEL that serves device event n (R74). -/
def irqSel (n : Nat) : Fld := ⟨0x100 + 4 * (n / 8), 4 * (n % 8), 4, 0⟩

/-- The module holds IRQ_N[p] low (R74). -/
def State.irqLow (s : State) (p : Nat) : Bool :=
  (List.range 128).any fun n => (s.rd (irqSel n)).testBit 3 && s.rd (irqSel n) % 4 == p && s.deviceEvent n

/-! ### Faults (R68, R452, R453) -/

/-- The class A bits of a block's FAULT_STAT (R452). -/
def Block.classA : Block → Nat
  | .glb => 0x80000001 | .tim => 0x80000001 | .cor => 0x80000000 | .cmp => 0x80000000 | .alc => 0x80000003
  | .pak => 0x80000004 | .qlk => 0x80000000 | .mot => 0x80000000 | .led => 0x80000002
  | _ => 0

/-- The class S bits (R452). -/
def Block.classS : Block → Nat
  | .rck => 0x80000019 | .lcy => 0x80000001 | .ink => 0x80000000 | .fab => 0x80000017 | .hst => 0x80000000
  | .ing => 0x80000001 | .exp => 0x80000000 | .srv => 0x80000000 | .ary => 0x80000001 | .mem => 0x80000006
  | .pak => 0xB | .mot => 0x7FFFFFFF
  | _ => 0

/-- The class D bits (R452). -/
def Block.classD : Block → Nat
  | .rck => 0x26 | .lcy => 0x2 | .fab => 0x8 | .exp => 0x1 | .srv => 0x1 | .cor => 0x1 | .ras => 0x80000001
  | .cmp => 0x3 | .qlk => 0x1 | .ary => 0x2 | .mem => 0x1 | .led => 0x1
  | _ => 0

/-- The class I bits (R452). -/
def Block.classI : Block → Nat
  | .net | .dma | .chk => 0xFFFFFFFF
  | _ => 0

/-- The blocks with a class A bit. -/
def classABlocks : List Block := [.glb, .tim, .cor, .cmp, .alc, .pak, .mot, .led, .qlk]

/-- Some class A bit is set in some page: GATE_INT (R453). -/
def State.faultA (s : State) : Bool :=
  classABlocks.any fun b => b.pages.any fun p => s.rd (Hdr.faultStat p) &&& b.classA != 0

/-- A bit of FAULT_STAT is set. -/
def State.fault (s : State) (p : Page) (b : Nat) : Bool := (s.rd (Hdr.faultStat p)).testBit b

/-- Island i's PLL is locked (RCK_ISL_LOCK, R447). -/
def State.islandLocked (s : State) (i : Nat) : Bool :=
  if i < 32 then (s.rd Reg.RCK_ISL_LOCK_LO_LOCK).testBit i else (s.rd Reg.RCK_ISL_LOCK_HI_LOCK).testBit (i - 32)

/-- A module reset has been asserted and is not yet released (R432). -/
def State.modReset (s : State) : Bool := s.pwr.modPhase != .none

/-- The page's island runs and the page is neither OFF, in RESET nor RELEASING (R62, R63). -/
def State.live (s : State) (p : Page) : Bool := 3 ≤ s.pstate p

/-- Some page has a set bit in the given class. -/
def State.anyFault (s : State) (cls : Block → Nat) : Bool :=
  allPages.any fun p => s.rd (Hdr.faultStat p) &&& cls p.block != 0

/-! ### Reckoning requests (R76, R460) -/

/-- Add a peer that a request serves, once. -/
def addPeer (l : List Nat) (source reqr : Nat) : List Nat := if source = 2 ∧ !l.contains reqr then l ++ [reqr] else l

/-- A reckoning request from a source (R76): it starts, is queued, or is merged with the queued one, or with the automatic
summary of a module reset's assertion. -/
def State.reckon (s : State) (source reqr : Nat) : State :=
  if s.rd Reg.GLB_RECKON_BUSY = 0 then
    { s.wr Reg.GLB_RECKON_BUSY 1 with
      reck := { s.reck with source := source, reqr := reqr, captured := none, peers := addPeer [] source reqr } }
  else if s.rd Reg.GLB_RECKON_PEND = 0 then
    if s.pwr.modPhase = .asserted ∧ s.reck.source = 3 ∧ source ≠ 3 then
      ({ s with reck := { s.reck with peers := addPeer s.reck.peers source reqr } }).raise pGLB 3
    else
      { s.wr Reg.GLB_RECKON_PEND 1 with
        reck := { s.reck with qSource := source, qReqr := reqr, qPeers := addPeer [] source reqr } }
  else
    ({ s with reck := { s.reck with qPeers := addPeer s.reck.qPeers source reqr } }).raise pGLB 3

/-- An automatic request, if its bit of GLB_RECK_AUTO is 1 (R460). -/
def State.autoReckon (s : State) (enable : Fld) : State := if s.bit enable then s.reckon 3 0xFF else s

/-- Set FAULT_STAT bit b of a page; a class A bit that becomes set may file a reckoning (R68, R453, R460). -/
def State.setFault (s : State) (p : Page) (b : Nat) : State :=
  if s.fault p b then s
  else
    let t := s.wr (Hdr.faultStat p) (setBit (s.rd (Hdr.faultStat p)) b)
    if p.block.classA.testBit b then t.autoReckon Reg.GLB_RECK_AUTO_CLASSA else t

/-- An injection into a page's own configuration storage takes place at an access to it (R451, R456; DEDUCED, log entry
42): TARGET 0x00 spoils one copy, which is restored and counted, and 0xFF both, which sets CFG_CHECK. The first part
tells that both copies failed. -/
def State.cfgInject (s : State) (p : Page) : Bool × State :=
  let tg := s.rd (Hdr.injTarget p)
  if s.bit (Hdr.injArm p) ∧ (tg = 0x00 ∨ tg = 0xFF) then
    let t := s.wr (Hdr.injArm p) 0
    if s.rd (Hdr.injFlip p) = 0 then (false, t)
    else if tg = 0 then (false, t.satInc Reg.GLB_CFG_FIX_COUNT 1) else (true, t.setFault p 31)
  else (false, s)

/-- An injection into the check bits of the first copy of the beam table takes place at a read of the table (R230, R456;
DEDUCED, log entry 42): the word is restored from its other copy (R213). -/
def State.btInject (s : State) : State :=
  if s.bit (Hdr.injArm pALC) ∧ s.rd (Hdr.injTarget pALC) = 2 then
    let t := s.wr (Hdr.injArm pALC) 0
    if s.rd (Hdr.injFlip pALC) = 0 then t else t.raise pALC 9
  else s

/-- A write of a block register: lost if its sender is not heard, discarded with EVT_RAW[31] while the page is in RESET
or RELEASING (R62), else what the block does with it. -/
def State.access (s : State) (ag : Sys2Proof.Agent) (p : Page) (k : State → State) : State :=
  if !s.hears ag then s else if s.inReset p then s.raise p 31 else k (s.cfgInject p).2

/-- A write that asks a block for new work: a page that is OFF, STOPPING, QUIESCING or QUIESCED takes none (R63,
DEDUCED, log entry 25). -/
def State.newWork (s : State) (ag : Sys2Proof.Agent) (p : Page) (k : State → State) : State :=
  s.access ag p fun s => if s.accepts p then k s else s

/-! ### Ethernet frames (R53, R54, R386, R389) -/

/-- The MAC address of a sub-port: MAC_BASE counted on, or a locally administered one while no EEPROM is accepted. -/
def State.macOf (s : State) (port sub : Nat) : Nat :=
  if s.ink.eeprom.isEmpty then 0x024F44 * 2 ^ 24 + Config.fusedMac % 2 ^ 20 * 16 + (4 * port + sub)
  else (beAt s.ink.eeprom 0x20 6 + 4 * port + sub) % 2 ^ 48

/-- The classes of R389, in order of precedence. -/
abbrev clLaunch : Nat := 0
abbrev clPtp : Nat := 1
abbrev clFabric : Nat := 2
abbrev clCredit : Nat := 3
abbrev clHost : Nat := 4

/-- The PCP of a class (NET_n_PRIO). -/
def State.pcpOf (s : State) (port cls : Nat) : Nat :=
  if cls = clPtp then s.rd (Reg.NET_PRIO_PTP port) else if cls = clFabric then s.rd (Reg.NET_PRIO_FAB port)
  else if cls = clCredit then s.rd (Reg.NET_PRIO_XPORT port) else s.rd (Reg.NET_PRIO_HOST port)

/-- A frame with its source, its tag where one is given, its payload padded to 60 bytes in all, and its FCS. -/
def etherFrame (dst src : Nat) (pcp : Option Nat) (etype : Nat) (payload : List Byte) : List Byte :=
  let tag := match pcp with | some p => beBytes 2 0x8100 ++ beBytes 2 (p * 2 ^ 13) | none => []
  let body := beBytes 6 dst ++ beBytes 6 src ++ tag ++ beBytes 2 etype ++ payload
  let full := body ++ List.replicate (60 - body.length) 0
  full ++ leBytes 4 (crc32.of full)

/-- A sub-port's link is up. -/
def State.linkUp (s : State) (port sub : Nat) : Bool := decide (port < 2) && decide (sub < 4) && (s.rd (Reg.NET_STAT_LINK port)).testBit sub

/-- Pause holds a class on a sub-port (R388). -/
def State.classHeld (s : State) (port sub cls : Nat) : Bool :=
  ((s.net.getD port {}).held.any fun e => e.1 == sub && e.2.testBit (s.pcpOf port cls))

/-- Change a port's own state. -/
def State.modNet (s : State) (n : Nat) (f : NetPort → NetPort) : State := { s with net := modAt s.net n f }

/-- A complete frame leaves by a sub-port, or waits while pause holds its class; with the link down it is not sent. -/
def State.etherOut (s : State) (port sub cls : Nat) (frame : List Byte) : State :=
  if !s.linkUp port sub then s
  else if s.classHeld port sub cls then s.modNet port fun p => { p with queue := p.queue ++ [⟨sub, cls, frame⟩] }
  else s.emit (.ether port sub frame)

/-- Send a frame of a class that the module makes. -/
def State.etherSend (s : State) (port sub cls dst etype : Nat) (payload : List Byte) : State :=
  let pcp := if s.bit (Reg.NET_PRIO_TAG port) then some (s.pcpOf port cls) else none
  s.etherOut port sub cls (etherFrame dst (s.macOf port sub) pcp etype payload)

/-! ### Fabric frames (R401, R402) -/

/-- The fabric group address. -/
def fabGroup : Nat := 0x034F44464142

/-- The route to a fabric address: the link it leaves by, if one is known (R405). -/
def State.routeLink (s : State) (a : Nat) : Option Nat :=
  if decide (a < 64) && s.bit (Reg.FAB_ROUTE_VALID a) then some (s.rd (Reg.FAB_ROUTE_LINK a)) else none

/-- The SEQ of the next frame of a kind (R401). -/
def State.fabricSeq (s : State) (kind : Nat) : Nat := ((s.fab.seqs.find? fun e => e.1 == kind).map Prod.snd).getD 0

/-- The bytes of a fabric frame (R401). -/
def fabricBytes (kind src dst ttl epoch seq : Nat) (payload : List Byte) : List Byte :=
  let l := leBytes 4 (0x01000000 + 0x10000 * kind + 0x100 * src + dst) ++ leBytes 4 (0x1000000 * ttl + payload.length) ++
    leBytes 4 epoch ++ leBytes 4 seq ++ payload
  l ++ leBytes 4 (crc32c.of l)

/-- The Ethernet destination of a fabric frame on a link: the group address, or the neighbour's sub-port (R401). -/
def State.fabricMac (s : State) (link dst ttl : Nat) : Nat :=
  if dst = 0xFF ∨ ttl = 1 then fabGroup
  else match s.fab.neighbours.find? fun e => e.link == link with | some e => e.mac | none => fabGroup

/-- Put a fabric frame on a link. -/
def State.fabricPut (s : State) (link dst ttl : Nat) (frame : List Byte) : State :=
  s.etherSend (link / 4) (link % 4) clFabric (s.fabricMac link dst ttl) (s.rd (Reg.NET_ETYPE_FAB (link / 4))) frame

/-- Send one frame of a kind on each of the links given. -/
def State.fabricOn (s : State) (links : List Nat) (kind dst ttl : Nat) (payload : List Byte) : State :=
  let q := s.fabricSeq kind
  let fr := fabricBytes kind (s.rd Reg.FAB_STAT_ADDR) dst ttl (s.rd Reg.FAB_EPOCH_EPOCH) q payload
  let t := { s with fab := { s.fab with seqs := (kind, (q + 1) % 2 ^ 32) :: s.fab.seqs.filter fun e => e.1 != kind } }
  links.foldl (fun u l => u.fabricPut l dst ttl fr) t

/-- Send a frame to one module by its route, or to every module through every neighbour; with no route nothing is
sent. A module without an address originates only HELLO and LSA frames (R404). -/
def State.fabricSend (s : State) (kind dst ttl : Nat) (payload : List Byte) : State :=
  if s.rd Reg.FAB_STAT_ADDR ≥ 64 ∧ kind ≠ 0x01 ∧ kind ≠ 0x02 then s
  else if dst = 0xFF then s.fabricOn (s.fab.neighbours.map Neighbour.link) kind dst ttl payload
  else match s.routeLink dst with
    | some l => s.fabricOn [l] kind dst ttl payload
    | none => s

/-- The module is the lead, or a follower, of a motion group (R414). -/
def State.isLead (s : State) : Bool := s.rd Reg.FAB_MOT_ROLE == 1
def State.isFollower (s : State) : Bool := s.rd Reg.FAB_MOT_ROLE == 2

/-- The group stripe of the current stripe (R416). -/
def State.curGstripe (s : State) : Nat :=
  match s.ing.waybills with
  | w :: _ => match w.plan with | some p => p.gstripe | none => s.fab.armCount
  | [] => s.fab.armCount

/-! ### Halts (R269 to R271, R273) -/

/-- The states of MOT_HALT_STAT.HSTATE (R271). -/
abbrev hIDLE : Nat := 0
abbrev hMOVE : Nat := 1
abbrev hTURN : Nat := 2
abbrev hRUN : Nat := 3
abbrev hSTOPPING : Nat := 4
abbrev hBACKING : Nat := 5
abbrev hWAITING : Nat := 6
abbrev hRUNUP : Nat := 7

/-- The bits of MOT_HALT_STAT.REASON (R270). -/
abbrev rLATE : Nat := 0
abbrev rPOISON : Nat := 1
abbrev rHOST : Nat := 2
abbrev rPERMIT : Nat := 3
abbrev rPOS : Nat := 4
abbrev rSCHOLD : Nat := 5
abbrev rDCLAMP : Nat := 6
abbrev rTHERM : Nat := 7
abbrev rALLOC : Nat := 8
abbrev rLINK : Nat := 9
abbrev rVLIM : Nat := 10
abbrev rABANDON : Nat := 11

/-- HSTATE. -/
def State.hstate (s : State) : Nat := s.rd Reg.MOT_HALT_STAT_HSTATE

/-- REASON. -/
def State.reasons (s : State) : Nat := s.rd Reg.MOT_HALT_STAT_REASON

/-- The first tick whose edge is not committed, the ceiling of every stop request (R269). -/
def State.firstUncommitted (s : State) : Nat :=
  match s.mot.committed with
  | some (t, _) => t + 1
  | none => s.rd Reg.MOT_TICK_NEXT_TICK

/-- The ceiling of the halt held, if one is held (R269). -/
def State.ceiling (s : State) : Option Nat :=
  if s.rd Reg.MOT_HALT_TICK_TICK = 0xFFFFFFFF then none else some (s.rd Reg.MOT_HALT_TICK_TICK)

/-- Both axes go over to the stop ramp (R253). -/
def Axis.stopRamp (a : Axis) : Axis := { a with tgt := none, next := none, toRest := true, hard := true }

/-- A halt is requested with a reason and a ceiling (R269, R271, R273): RUN enters STOPPING and counts, BACKING and
RUNUP return to STOPPING with h unchanged, a turnaround holds its dwell with h = 0, a move is stopped, and with no
stripe there is nothing to halt (DEDUCED, log entry 20). A follower keeps its reason and ceiling and sends HREQ; its
HSTATE is the lead's (R414, R415). -/
def State.halt (s : State) (reason ceiling : Nat) : State :=
  let withReason := s.wr Reg.MOT_HALT_STAT_REASON (setBit s.reasons reason)
  let ramp (t : State) : State :=
    { t.wr Reg.MOT_HALT_STAT_HSTATE hSTOPPING with
      mot := { t.mot with stopRamp := true, ax := t.mot.ax.stopRamp, ay := t.mot.ay.stopRamp } }
  let lower (t : State) (c : Nat) : State :=
    t.wr Reg.MOT_HALT_TICK_TICK (match s.ceiling with | some d => min c d | none => c)
  let h := s.hstate
  if h = hIDLE then s
  else if s.isFollower then
    let t := lower withReason ceiling
    let u := if h = hRUN ∧ s.ceiling.isNone then ((t.raise pMOT 8).satInc Reg.MOT_HALT_CNT_HALTS 1).autoReckon Reg.GLB_RECK_AUTO_HALT else t
    u.fabricSend 0x52 (s.rd Reg.FAB_MOT_LEAD) 16
      (leBytes 4 (u.rd Reg.MOT_HALT_TICK_TICK) ++ leBytes 4 s.curGstripe ++ leBytes 2 u.reasons ++ leBytes 2 0)
  else if h = hMOVE then
    { s with mot := { s.mot with stopRamp := true, ax := s.mot.ax.stopRamp, ay := s.mot.ay.stopRamp } }
  else if h = hTURN then withReason.wr Reg.MOT_HALT_TICK_TICK 0
  else if h = hRUN then
    (((lower (ramp withReason) ceiling).raise pMOT 8).satInc Reg.MOT_HALT_CNT_HALTS 1).autoReckon Reg.GLB_RECK_AUTO_HALT
  else if h = hSTOPPING then
    if s.mot.hFixed then withReason else lower withReason ceiling
  else if h = hBACKING ∨ h = hRUNUP then
    ramp (withReason.wr Reg.MOT_HALT_TICK_TICK s.mot.hTick)
  else withReason

/-- A stop request (R269): a halt whose ceiling is the first tick whose edge is not committed. -/
def State.stopRequest (s : State) (reason : Nat) : State := s.halt reason s.firstUncommitted

/-! ### The permit switch (R434, R435) -/

/-- The QTX lanes are at electrical idle: the PAK page is in RESET or RELEASING, or a module reset is asserted (R432). -/
def State.txOff (s : State) : Bool := s.inReset pPAK || s.modReset

/-- The motion and deflection quads run in safe mode (R432). -/
def State.safeMode (s : State) : Bool := s.inReset pMOT || s.modReset

/-- The GATE bits of GLB_PERMIT (R434). A module reset counts from its assertion (R432, R433; DEDUCED, log entry 39). -/
def State.gateRst (s : State) : Bool := s.modReset || s.inReset pGLB || s.inReset pMOT || s.inReset pALC || s.inReset pPAK
def State.gateWarn (s : State) : Bool := s.pwr.warn
def State.gatePsup (s : State) : Bool := !s.pins.psupOk
def State.gateCust (s : State) : Bool := s.rd Reg.LCY_STATE_CUSTODY == 0
def State.gateLcy (s : State) : Bool := s.rd Reg.LCY_STATE_STATE != 0x10

/-- GATE is not 0. -/
def State.gated (s : State) : Bool :=
  s.gateRst || s.gateWarn || s.gatePsup || s.gateCust || s.gateLcy || s.faultA

/-- The permit switch is closed: REQ = 1 and GATE = 0 (R434). -/
def State.switchClosed (s : State) : Bool := s.bit Reg.GLB_PERMIT_REQ && !s.gated

/-- The switch opens (R435): REQ becomes 0, the line falls with the tool's pull-down (R47), a check run and an alignment run in hand are spoiled (R319, R488), and, while a stripe's ticks are being launched, a stop is requested with
reason PERMIT. -/
def State.openSwitch (s : State) : State :=
  let t : State := { s.wr Reg.GLB_PERMIT_REQ 0 with
    pins := { s.pins with permitLvl := false }
    ary := { s.ary with spoiled := true }
    pak := { s.pak with aln := s.pak.aln.map fun r => { r with bad := if r.bad = 0 then 2 else r.bad } } }
  if s.mot.writing then t.stopRequest rPERMIT else t

/-- A GATE bit that is 1 opens a closed switch, clears REQ and sets GLB EVT_RAW[4] (R435). -/
def State.settle (s : State) : State :=
  if s.bit Reg.GLB_PERMIT_REQ && s.gated then s.openSwitch.raise pGLB 4 else s

/-- The end of every meaning: the next state, once the permit switch has followed its gates. -/
def done (s : State) : Host.Outcome State Fault Refusal := .next s.settle

/-! ### HBM bytes -/

/-- HBM holds 96 GiB (R31). -/
def hbmSize : Nat := 96 * 2 ^ 30

/-- The byte an HBM address holds; an unlisted address holds the fill's zero (R329). -/
def Memory.read (a : Nat) : Memory → Byte
  | [] => 0
  | (b, v) :: t => if b = a then v else Memory.read a t

/-- List a byte, keeping addresses rising. -/
def Memory.put (a : Nat) (v : Byte) : Memory → Memory
  | [] => [(a, v)]
  | (b, w) :: t => if a < b then (a, v) :: (b, w) :: t else if b = a then (a, v) :: t else (b, w) :: Memory.put a v t

/-- Unlist an address. -/
def Memory.erase (a : Nat) : Memory → Memory
  | [] => []
  | (b, w) :: t => if b = a then Memory.erase a t else (b, w) :: Memory.erase a t

/-- Write one byte, keeping the canonical form. -/
def Memory.write (m : Memory) (a : Nat) (v : Byte) : Memory := if v = 0 then Memory.erase a m else Memory.put a v m

/-- Write a byte string at an address. -/
def Memory.writeBytes (m : Memory) (a : Nat) : List Byte → Memory
  | [] => m
  | b :: t => Memory.writeBytes (m.write a b) (a + 1) t

/-- Read n bytes from an address. -/
def Memory.readBytes (m : Memory) (a n : Nat) : List Byte := (List.range n).map fun i => Memory.read (a + i) m

/-- Remove every byte of a range. -/
def Memory.clearRange (m : Memory) (a n : Nat) : Memory := m.filter fun c => !(a ≤ c.1 && c.1 < a + n)

/-- The canonical form: addresses strictly rising, no zero listed. -/
def Memory.wf (m : Memory) : Bool := (m.map Prod.fst).Pairwise (· < ·) && m.all fun c => c.2 != 0

end Sys2Proof.Machine
end

