-- ==== Sys2Proof/Machine/Operands.lean ====
section
/-!
DEFINITION. The operands of a stripe: the fields of a waybill's words (R125, R222), the geometry that follows from them
(R19 to R22, R210, R239), and the stripes armed at present.
-/
namespace Sys2Proof.Machine

/-! ### Waybill fields (R125) -/

/-- Word i of a waybill. -/
def Waybill.word (w : Waybill) (i : Nat) : Nat := w.words.getD i 0
def Waybill.handle (w : Waybill) : Nat := bits (w.word 0) 27 24
def Waybill.dir (w : Waybill) : Nat := bits (w.word 0) 16 16
def Waybill.stripe (w : Waybill) : Nat := bits (w.word 0) 15 0
def Waybill.startSeg (w : Waybill) : Nat := bits (w.word 1) 23 0
def Waybill.length (w : Waybill) : Nat := w.word 2
def Waybill.td (w : Waybill) : Nat := bits (w.word 3) 14 0
def Waybill.itin (w : Waybill) : Nat := bits (w.word 4) 19 16
def Waybill.depth (w : Waybill) : Nat := bits (w.word 4) 6 4
def Waybill.adv (w : Waybill) : Nat := bits (w.word 4) 2 0
def Waybill.periodMin (w : Waybill) : Nat := w.word 5
def Waybill.tag (w : Waybill) : Nat := w.word 6

/-- Reserved bits are 0 and every field holds a permitted value: check 1 of R127 (R125, R222). -/
def Waybill.fieldsOk (w : Waybill) : Bool :=
  bits (w.word 0) 31 28 == 0 && bits (w.word 0) 23 17 == 0 && bits (w.word 1) 31 24 == 0 && w.length != 0 &&
  bits (w.word 3) 31 15 == 0 && decide (256 ≤ w.td) && decide (w.td ≤ 16384) && bits (w.word 4) 31 20 == 0 &&
  bits (w.word 4) 15 7 == 0 && bits (w.word 4) 3 3 == 0 && decide (4 ≤ w.depth) && decide (w.depth ≤ 6) &&
  decide (w.adv ≤ 3) && w.word 7 == 0

/-! ### Geometry -/

/-- The stripe's width in pixels, W = 512 × K (R22). -/
def Plan.w (p : Plan) : Nat := 512 * p.k

/-- Passes, P = 512 / (K × A) (R20). -/
def Plan.passes (p : Plan) : Nat := 512 / (p.k * p.a)

/-- Ticks per segment, N_s = W / A. -/
def Plan.ns (p : Plan) : Nat := p.w / p.a

/-- Ticks of the stripe, N_t (R210). -/
def nTicks (length k a : Nat) : Nat := (length + 511 * k + a - 2) / a + 1

/-- Segments of the stripe, ceil(LENGTH / W) (R125). -/
def nSegs (length k : Nat) : Nat := ceilDiv length (512 * k)

/-- The segment index of the j-th segment of a stripe (R125). -/
def Waybill.segIndex (w : Waybill) (j : Nat) : Nat := if w.dir = 0 then w.startSeg + j else w.startSeg - j

/-- The direction sign s (R240). -/
def Waybill.sign (w : Waybill) : Int := if w.dir = 0 then 1 else -1

/-- Y_thr(t) in counts (R239). -/
def yThr (w : Waybill) (k a g : Nat) (orgY : Int) (t : Int) : Int :=
  let ww : Int := 512 * k
  if w.dir = 0 then ((w.startSeg : Int) * ww - 511 * k - a + 1 + a * t) * g - orgY
  else (((w.startSeg : Int) + 1) * ww - a * t) * g - orgY

/-- X_ref in counts (R239). -/
def xRef (w : Waybill) (k g : Nat) (orgX : Int) : Int := (w.stripe : Int) * (512 * k) * g - orgX

/-- MOT_ORG_X and MOT_ORG_Y as counts (R239). -/
def State.orgX (s : State) : Int := sx 32 (s.rd Reg.MOT_ORG_X_ORG)
def State.orgY (s : State) : Int := sx 32 (s.rd Reg.MOT_ORG_Y_ORG)

/-- The lag of row r with the itinerary offset OY(r) (R210). -/
def lag (dir k a r oy : Nat) : Nat := if dir = 0 then k * (511 - r) + a - 1 - oy else k * r + oy

/-! ### HBM regions (R324) and slots (R215) -/

/-- One GiB and one MiB. -/
abbrev gib : Nat := 2 ^ 30
abbrev mib : Nat := 2 ^ 20

/-- The bases of the map, stripe-buffer and last regions. -/
def State.mapBase (s : State) : Nat := s.rd Reg.MEM_REGION_LS_GIB * gib
def State.sbBase (s : State) : Nat := s.mapBase + s.rd Reg.MEM_REGION_MAP_GIB * gib
def State.lastBase (s : State) : Nat := s.sbBase + s.rd Reg.MEM_REGION_SB_GIB * gib

/-- The first byte above the survey workspace, where the ledger and the result table may lie. -/
def State.wsEnd (s : State) : Nat := s.lastBase + s.rd Reg.MEM_REGION_WS_GIB * gib

/-- Bytes of a slot (R22). -/
def slotSize (k : Nat) : Nat := (512 * k) * (512 * k) * 2

/-- The HBM address of the corrected dose of slot pixel (u, vs) (R215). -/
def State.slotAddr (s : State) (k slot u vs : Nat) : Nat :=
  s.sbBase + slot * slotSize k + 2 * ((vs * k + u % k) * 512 + u / k)

/-- The logical channel of a code word (R322). -/
def chanOf (c : Nat) : Nat := c / 8 % 120

/-- The stack that serves a code word (R321). -/
def stackOf (c : Nat) : Nat := chanOf c / 30

/-- A stack answers accesses: its fill has ended and its page is neither in RESET nor RELEASING, OFF nor IDLE (R329). -/
def State.stackReady (s : State) (m : Nat) : Bool := s.bit (Reg.MEM_STAT_INIT_DONE m) && decide (4 ≤ s.pstate ⟨.mem, m⟩)

/-- A code word belongs to a channel that was lost and has not been written since (R341). -/
def State.wordLost (s : State) (c : Nat) : Bool :=
  s.mem.lost.any fun l => l.chan == chanOf c && (l.dead || !l.cleared.contains c)

/-- A code word reads as poison: it holds the poison record, its channel is lost, or its stack does not answer (R327,
R329, R341). -/
def State.wordPoisoned (s : State) (c : Nat) : Bool :=
  s.mem.poison.contains c || s.wordLost c || !s.stackReady (stackOf c)

/-- The code words that a byte range touches. -/
def wordsOf (a n : Nat) : List Nat := (List.range ((a + n + 31) / 32 - a / 32)).map fun i => a / 32 + i

/-- Some code word of a byte range is poisoned. -/
def State.poisoned (s : State) (a n : Nat) : Bool := (wordsOf a n).any s.wordPoisoned

/-- n bytes of HBM as a little-endian value. -/
def State.hbmVal (s : State) (a n : Nat) : Nat := leVal (Memory.readBytes s.hbm a n)

/-- The code words that a byte range covers whole. -/
def wholeWords (a n : Nat) : List Nat := (wordsOf a n).filter fun c => decide (a ≤ 32 * c) && decide (32 * c + 32 ≤ a + n)

/-- Code words written whole hold good data again (R328, R331); a lost channel's words are no longer lost. -/
def State.wordsGood (s : State) (cs : List Nat) : State :=
  { s with mem := { s.mem with
      poison := s.mem.poison.filter fun c => !cs.contains c
      dev := s.mem.dev.filter fun e => !cs.contains e.1
      inj := s.mem.inj.filter fun c => !cs.contains c
      lost := s.mem.lost.map fun l => { l with cleared := l.cleared ++ cs.filter fun c => chanOf c == l.chan && !l.cleared.contains c } } }

/-- Write the bytes of a string that lie in one code word. -/
def Memory.writePart (m : Memory) (a : Nat) (l : List Byte) (c : Nat) : Memory :=
  let lo := max a (32 * c)
  let hi := min (a + l.length) (32 * c + 32)
  Memory.writeBytes m lo ((l.drop (lo - a)).take (hi - lo))

/-- A write to a code word lands: its stack answers, its channel is not dead, and a narrow write meets no poison (R328,
R329, R341). -/
def State.takes (s : State) (whole : List Nat) (c : Nat) : Bool :=
  s.stackReady (stackOf c) && !(s.mem.lost.any fun l => l.chan == chanOf c && l.dead) &&
    (whole.contains c || !s.wordPoisoned c)

/-- What is noted of a code word that does not take a write: an access before the fill, or a narrow write to a poisoned
word; a dead channel discards it (R328, R329, R341). -/
def State.missed (s : State) (whole : List Nat) (c : Nat) : State :=
  let p : Page := ⟨.mem, stackOf c⟩
  if !s.stackReady (stackOf c) then s.raise p 11
  else if s.mem.lost.any fun l => l.chan == chanOf c && l.dead then s
  else if whole.contains c then s
  else (s.raise p 1).satInc (Reg.MEM_UE_NARROW (stackOf c)) 1

/-- Store bytes as a block of the data path does, code word by code word. -/
def State.hbmStore (s : State) (a : Nat) (l : List Byte) : State :=
  let whole := wholeWords a l.length
  let all := wordsOf a l.length
  let ws := all.filter (s.takes whole)
  (all.filter fun c => !s.takes whole c).foldl (fun t c => t.missed whole c)
    ({ s with hbm := ws.foldl (fun m c => Memory.writePart m a l c) s.hbm }.wordsGood (whole.filter fun c => ws.contains c))

/-! ### The tables in on-die memory -/

namespace Reg
/-- Word r of itinerary i, at BAR0 0x0120_0000 (R208). -/
def itin (i r : Nat) : Fld := ⟨0x1200000 + 0x800 * i + 4 * r, 0, 32, 0⟩
/-- Word w of the entry of beam b in a bank of the beam table (R213, R214); the two banks have places of their own
above BAR0's end, because the window at 0x0100_0000 shows one of them. -/
def btWord (bank b w : Nat) : Fld := ⟨0x5000000 + 0x200000 * bank + 8 * b + 4 * w, 0, 32, if w = 0 then 0x24000 else 0⟩
/-- The cellar word at a byte address (R436), at a place of its own. -/
def cellar (a : Nat) : Fld := ⟨0x6000000 + a, 0, 32, 0⟩
end Reg

/-- OX and OY of a row of an itinerary (R208). -/
def State.itinOX (s : State) (i r : Nat) : Nat := bits (s.rd (Reg.itin i r)) 5 0
def State.itinOY (s : State) (i r : Nat) : Nat := bits (s.rd (Reg.itin i r)) 10 8

namespace Reg
/-- Word c of the dose-class table (R198). -/
def doseClass (c : Nat) : Fld := ⟨0x1300000 + 4 * c, 0, 16, 0x4000⟩
/-- Gaussian tap t of kernel k, fogging tap t, and word i of the short-range kernel (R186). -/
def gaussTap (k t : Nat) : Fld := ⟨0x1310000 + 0x400 * k + 4 * t, 0, 17, 0⟩
def fogTap (t : Nat) : Fld := ⟨0x1311000 + 4 * t, 0, 17, 0⟩
def srTap (i : Nat) : Fld := ⟨0x1312000 + 4 * i, 0, 16, if i = 12 then 0x4000 else 0⟩
end Reg

/-- STATE and GAIN of a beam in a bank (R213). -/
def State.btState (s : State) (bank b : Nat) : Nat := bits (s.rd (Reg.btWord bank b 0)) 17 16
def State.btGain (s : State) (bank b : Nat) : Nat := bits (s.rd (Reg.btWord bank b 0)) 15 0

/-- A beam is absent for a stripe that names a bank (R220). -/
def State.btAbsent (s : State) (bank weakAbs b : Nat) : Bool :=
  s.btState bank b == 2 || (s.btState bank b == 1 && weakAbs == 1)

/-- The hash of R218. -/
def ditherHash (seed i j r : Nat) : Nat :=
  let m := 2 ^ 32
  let h0 := seed % m ^^^ (i % m * 0x9E3779B1 % m) ^^^ (j % m * 0x85EBCA77 % m) ^^^ (r * 0xC2B2AE3D % m)
  let h1 := (h0 ^^^ h0 / 2 ^ 16) * 0x7FEB352D % m
  let h2 := (h1 ^^^ h1 / 2 ^ 15) * 0x846CA68B % m
  h2 ^^^ h2 / 2 ^ 16

/-- The mask-frame row of meeting row v (R210), modulo 2^32 in a -Y stripe that runs below row 0. -/
def Waybill.maskRow (w : Waybill) (ww v : Nat) : Nat :=
  if w.dir = 0 then w.startSeg * ww + v else (w.startSeg + 1) * ww + 2 ^ 32 - 1 - v

/-! ### The armed stripes -/

/-- Waybills armed, at most two (R127). -/
def State.armed (s : State) : List Waybill := s.ing.waybills.filter fun w => w.plan.isSome

/-- The current stripe: the first armed waybill and its plan (R127, R129). -/
def State.cur (s : State) : Option (Waybill × Plan) :=
  match s.ing.waybills with
  | [] => none
  | w :: _ => w.plan.map fun p => (w, p)

/-- Change the current stripe's plan. -/
def State.modPlan (s : State) (f : Plan → Plan) : State :=
  match s.ing.waybills with
  | [] => s
  | w :: t => { s with ing := { s.ing with waybills := { w with plan := w.plan.map f } :: t } }

/-- The code of a beam in a list that leaves out codes of 0. -/
def codeOf (codes : List (Nat × Nat)) (b : Nat) : Nat := ((codes.find? fun e => e.1 == b).map Prod.snd).getD 0

/-- Parcel (t, g, j) of R282, packed in the order of R283. -/
def parcel (codes : List (Nat × Nat)) (n order g j : Nat) : List Byte :=
  let cs := (List.range 64).map fun x => codeOf codes (4096 * g + 64 * j + x)
  if order = 0 then leBytes (8 * n) ((cs.reverse).foldl (fun acc c => acc * 2 ^ n + c) 0)
  else (List.range n).flatMap fun i =>
    leBytes 8 ((cs.reverse).foldl (fun acc c => acc * 2 + c / 2 ^ i % 2) 0)

/-- Every parcel of a tick in ascending parcel number (R282). -/
def tickParcels (codes : List (Nat × Nat)) (n order : Nat) : List Byte :=
  (List.range 64).flatMap fun j => (List.range 64).flatMap fun g => parcel codes n order g j

/-- Parcels below number `bound` that go to logical lane l of k (R282). -/
def parcelsBelow (k l bound : Nat) : Nat := (bound + k - 1 - l) / k

/-- The stream bytes of tick t on logical lane l: its first byte and the first byte after it. -/
def Stream.tickFrom (st : Stream) (t : Nat) : Nat := 8 * st.n * parcelsBelow st.k st.logical (4096 * t)
def Stream.tickTo (st : Stream) (t : Nat) : Nat := 8 * st.n * parcelsBelow st.k st.logical (4096 * (t + 1))

/-- Every frame of a stream with a byte of tick t has been sent and acknowledged. -/
def Stream.tickAcked (st : Stream) (t : Nat) : Bool :=
  decide (st.tickTo t ≤ st.pos) &&
    st.frames.all fun f => decide (f.pos + f.bytes ≤ st.tickFrom t) || decide (st.tickTo t ≤ f.pos)

/-- The stream of logical lane l of the stripe with a waybill's sequence number. -/
def State.streamOf (s : State) (wseq l : Nat) : Option Stream :=
  s.pak.streams.find? fun st => st.logical == l && st.wseq == wseq

/-- Every frame holding a byte of tick t on every data lane is acknowledged (R289). -/
def State.tickAcked (s : State) (wseq k t : Nat) : Bool :=
  (List.range k).all fun l => match s.streamOf wseq l with | some st => st.tickAcked t | none => false

/-- The codes the allocator holds for a tick (R228). -/
def State.tickCodes (s : State) (t : Nat) : List (Nat × Nat) := ((s.alc.codes.find? fun e => e.1 == t).map Prod.snd).getD []

/-- Some waybill is armed. -/
def State.anyArmed (s : State) : Bool := !s.armed.isEmpty

/-- K in ALC_GEOM (R230). -/
def State.kBeam (s : State) : Nat := 2 ^ s.rd Reg.ALC_GEOM_KLOG

/-- Y_thr(t) of the current stripe. -/
def State.curThr (s : State) (w : Waybill) (p : Plan) (t : Nat) : Int := yThr w p.k p.a p.g s.orgY t

/-- The allocator holds the codes of tick t of the current stripe (R228). -/
def State.allocHolds (s : State) (t : Nat) : Bool := decide (t < s.alc.next)

/-- The waybill queue's counters and the current stripe's registers (R148). -/
def State.showQueue (s : State) : State :=
  s.wrs [(Reg.ING_WB_QSTAT_DEPTH, s.ing.waybills.length), (Reg.ING_WB_QSTAT_ARMED, s.armed.length),
    (Reg.ING_WB_CUR_SEQ, match s.cur with | some (w, _) => w.seq | none => 0),
    (Reg.ING_WB_CUR_STRIPE, match s.cur with | some (w, _) => w.stripe | none => 0)]

end Sys2Proof.Machine
end

