-- ==== Sys2Proof/Machine/Ledger.lean ====
section
/-!
DEFINITION. The ledger (R465 to R476): how its records are made, chained and kept in the cellar, and the records that
arming, completion and abandonment make.
-/
namespace Sys2Proof.Machine

/-- Write bytes into the cellar, four at a time (R436). -/
def State.cellarPut (s : State) (a : Nat) (l : List Byte) : State :=
  (List.range (l.length / 4)).foldl (fun t i => t.wr (Reg.cellar (a + 4 * i)) (leAt l (4 * i) 4)) s

/-- The last tick launched of the current stripe, as the flush header holds it (R474). -/
def State.lastLaunched (s : State) : Nat :=
  match s.cur with
  | some (_, p) => if p.launched = 0 then 0 else p.launched - 1
  | none => 0

/-- The flush header (R474). -/
def State.ledHeader (s : State) (stale : Bool) : List Byte :=
  let first := s.led.openSeq.headD (0, 0)
  leBytes 4 0x4644454C ++ leBytes 4 (s.rd Reg.RCK_CELLAR_STAT_GEN) ++ leBytes 4 s.led.next ++
    leBytes 4 ((if s.led.openSeq.isEmpty then 0 else 1) + (if stale then 2 else 0)) ++ leBytes 8 s.now ++ s.led.chain ++
    leBytes 2 first.1 ++ leBytes 2 first.2 ++ leBytes 4 s.lastLaunched ++ List.replicate 176 0

/-- LED_STAT follows the staging; entering HELD is counted and raises EVT_RAW[3] (R472). -/
def State.ledShow (s : State) : State :=
  let n := s.led.staging.length
  let t := s.wrs [(Reg.LED_STAT_STAGED, min n 64), (Reg.LED_STAT_OPEN, if s.led.openSeq.isEmpty then 0 else 1),
    (Reg.LED_STAT_HELD, if 32 ≤ n then 1 else 0)]
  if 32 ≤ n && !s.bit Reg.LED_STAT_HELD then (t.satInc Reg.LED_CNT_HOLDS 1).raise pLED 3 else t

/-- Records are made while the LED page works and its hash units agree (R465, R471). -/
def State.ledOn (s : State) : Bool := s.live pLED && !s.fault pLED 1

/-- The ledger follows a stripe: records are made and the stripe's OPEN record has been made and not closed. A stripe
armed while no records were made is written without a ledger (R465). -/
def State.ledFor (s : State) (wseq : Nat) : Bool := s.ledOn && s.led.openSeq.any fun e => e.1 == wseq

/-- Make a record (R466, R471, R474): chain it, place it in the staging and the cellar, and rewrite the header. `fresh`
starts a chain, as an OPEN record does. -/
def State.record (s : State) (kind flags wseq stripe : Nat) (body : List Byte) (fresh : Bool) : State :=
  if !s.ledOn then s
  else
    let n := s.led.next
    let head := leBytes 1 kind ++ leBytes 1 1 ++ leBytes 2 flags ++ leBytes 4 n ++ leBytes 8 s.now ++
      leBytes 4 wseq ++ leBytes 2 stripe ++ leBytes 2 0 ++ slice body 0 184
    let ch := sha384 (if fresh then head else s.led.chain ++ head)
    let t := { s with led := { s.led with staging := s.led.staging ++ [head ++ ch], next := (n + 1) % 2 ^ 32, chain := ch } }
    let t1 := (t.cellarPut (0x100 + 256 * (n % 63)) (head ++ ch)).cellarPut 0 (t.ledHeader false)
    let t2 := (List.range 12).foldl (fun u i => u.wr (Reg.LED_CHAIN_CHAIN i) (leAt ch (4 * i) 4)) t1
    (t2.raise pLED 0).ledShow

/-! ### Segments -/

/-- What is kept of a segment. -/
def State.segOf (s : State) (wseq j : Nat) : SegCounts :=
  (s.led.segs.find? fun c => c.wseq == wseq && c.j == j).getD { wseq := wseq, j := j }

/-- Change what is kept of a segment. -/
def State.modSeg (s : State) (wseq j : Nat) (f : SegCounts → SegCounts) : State :=
  { s with led := { s.led with
      segs := f (s.segOf wseq j) :: s.led.segs.filter fun c => !(c.wseq == wseq && c.j == j) } }

/-- The first and last tick a segment governs (R468). -/
def segFirst (p : Plan) (j : Nat) : Nat := j * p.ns
def segLast (w : Waybill) (p : Plan) (j : Nat) : Nat :=
  if j + 1 = nSegs w.length p.k then nTicks w.length p.k p.a - 1 else (j + 1) * p.ns - 1

/-- The segment that governs a tick (R263). -/
def segOfTick (w : Waybill) (p : Plan) (t : Nat) : Nat := min (t / p.ns) (nSegs w.length p.k - 1)

/-- SLOT_SUM of a segment whose pixels lie in a slot (R468). -/
def State.slotSum (s : State) (w : Waybill) (p : Plan) (j slot : Nat) : Nat :=
  let rows := min p.w (w.length - j * p.w)
  let row (vs : Nat) : Nat := (List.range p.w).foldl (fun acc u =>
    let e := s.hbmVal (s.slotAddr p.k slot u vs) 2
    acc + e * (2 * ditherHash 0 (w.stripe * p.w + u) (w.maskRow p.w (j * p.w + vs)) 0 + 1)) 0
  ((List.range rows).foldl (fun acc vs => acc + row vs) 0) % 2 ^ 64

/-- Make the SEG record of segment j (R468); with no slot left its SLOT_SUM is a free value. -/
def State.segRecord (s : State) (w : Waybill) (p : Plan) (j last : Nat) (slot : Option Nat) (part : Bool) : State :=
  let c := s.segOf w.seq j
  let sum : Nat × State := match slot with | some n => (s.slotSum w p j n, s) | none => s.draw
  let s0 := sum.2
  let body := leBytes 4 (w.segIndex j) ++ leBytes 4 (segFirst p j) ++ leBytes 4 last ++ leBytes 4 0 ++ leBytes 8 sum.1 ++
    leBytes 8 (crc64.final c.crc) ++ leBytes 4 c.qsat ++ leBytes 4 c.blim ++ leBytes 4 c.glim ++ leBytes 4 c.carry ++
    leBytes 2 c.rcmp ++ leBytes 2 c.votes ++ leBytes 2 c.nomaj ++ leBytes 2 c.halts ++ leBytes 4 c.resent ++
    leBytes 1 (c.pairs.getD (s.rd Reg.CMP_STAT_PAIRS))
  let t := (s0.record 2 (c.flags + (if part then 1 else 0)) w.seq w.stripe body false).modSeg w.seq j fun d => { d with made := true }
  { t with ing := { t.ing with waybills := t.ing.waybills.map fun v =>
      if v.seq = w.seq then { v with plan := v.plan.map fun q => { q with segsMade := q.segsMade + 1 } } else v } }

/-! ### Open, close, map and gap records -/

/-- CRC-64 of a table of 32-bit words. -/
def State.tableCrc (s : State) (fs : List Fld) : Nat := crc64.of (fs.flatMap fun f => leBytes 4 (s.rd f))

/-- The map CRC of a handle, or 0 while its map is being surveyed (R467). -/
def State.mapCrc (s : State) (h : Nat) : Nat :=
  if s.rd (Reg.COR_MAP_DESC_STATE h) = 1 then 0 else s.rd64 (Reg.COR_MAP_CRC_LO_CRC h) (Reg.COR_MAP_CRC_HI_CRC h)

/-- Beams absent in a bank (R220). -/
def State.absentCount (s : State) (bank weakAbs : Nat) : Nat :=
  ((List.range 262144).filter fun b => s.btAbsent bank weakAbs b).length

/-- The OPEN record of a waybill that has just been armed (R467). -/
def State.openRecord (s : State) (w : Waybill) (p : Plan) : State :=
  if !s.ledOn then s
  else
    let pm : PendingMap := { handle := w.handle, id := (s.ing.layouts.getD w.handle {}).index.id, lseq := s.led.next }
    let pend := s.rd (Reg.COR_MAP_DESC_STATE w.handle) = 1
    let lay := s.ing.layouts.getD w.handle {}
    let body := leBytes 8 lay.index.id ++ leBytes 8 (s.mapCrc w.handle) ++ w.words.flatMap (leBytes 4) ++
      leBytes 8 (s.tableCrc ((List.range 512).map (Reg.itin w.itin))) ++
      leBytes 8 (s.tableCrc ((List.range 262144).flatMap fun b => [Reg.btWord p.bank b 0, Reg.btWord p.bank b 1])) ++
      leBytes 8 (s.tableCrc ((List.range 256).map Reg.doseClass)) ++
      leBytes 8 (s.tableCrc ((List.range 25).map Reg.srTap)) ++
      leBytes 4 p.full ++ leBytes 2 p.emax ++ leBytes 2 p.dutyBeam ++ leBytes 4 p.dutyGrp ++ leBytes 4 p.dseed ++
      leBytes 1 p.damp ++ leBytes 1 (p.weakAbs + 2 * p.order) ++ leBytes 1 (s.rd Reg.GLB_ID_DPVER) ++
      leBytes 1 (s.rd Reg.ALC_GEOM_KLOG) ++ leBytes 2 p.g ++ leBytes 1 p.lanes ++ leBytes 1 0 ++
      leBytes 4 (s.absentCount p.bank p.weakAbs) ++ leBytes 4 0 ++ leBytes 8 Config.fusedUid ++ s.led.lastClose
    let t := { s with led := { s.led with
      openSeq := s.led.openSeq ++ [(w.seq, w.stripe)],
      pendMaps := if pend then s.led.pendMaps ++ [pm] else s.led.pendMaps } }
    t.record 1 (if pend then 1 else 0) w.seq w.stripe body true

/-- The CLOSE record of a stripe (R469); `ending` is END and `h` the halt tick of an abandoned stripe. -/
def State.closeRecord (s : State) (w : Waybill) (p : Plan) (ending h : Nat) : State :=
  if !s.ledFor w.seq then s
  else
    let made := match s.ing.waybills.find? fun v => v.seq == w.seq with
      | some v => (v.plan.map Plan.segsMade).getD p.segsMade
      | none => p.segsMade
    let body := leBytes 4 (nTicks w.length p.k p.a) ++ leBytes 4 made ++ leBytes 1 ending ++ leBytes 3 0 ++ leBytes 4 h ++
      leBytes 8 p.ts0 ++ leBytes 8 p.tsLast
    let t := { s with led := { s.led with openSeq := s.led.openSeq.filter fun e => e.1 != w.seq,
                                          segs := s.led.segs.filter fun c => c.wseq != w.seq } }
    let u := t.record 3 0 w.seq w.stripe body false
    (({ u with led := { u.led with lastClose := u.led.chain } }).raise pLED 1).ledShow

/-- Make the records that close an abandoned stripe (R469): PARTIAL records for the segments begun, then CLOSE with END
= 1. -/
def State.closeNow (s : State) (w : Waybill) (p : Plan) (h : Nat) : State :=
  let js := (List.range (nSegs w.length p.k)).filter fun j => decide (segFirst p j < h) && !(s.segOf w.seq j).made
  let slotOf (t : State) (j : Nat) : Option Nat :=
    (t.ing.travellers.find? fun v => v.state != .free && !v.survey && v.wseq == w.seq && v.j == j && v.valid).bind Traveller.slot
  let t := if s.ledFor w.seq then js.foldl (fun t j =>
    t.segRecord w p j (min (h - 1) (segLast w p j)) (slotOf t j) (decide (h - 1 < segLast w p j))) s else s
  t.closeRecord w p 1 h

/-- The ledger of an abandoned stripe is closed, after the GAP record of a memory loss where one is owed (R424, R469). -/
def State.closeAbandoned (s : State) (w : Waybill) (p : Plan) (h : Nat) : State :=
  if s.led.memLoss.isSome then { s with led := { s.led with owed := s.led.owed ++ [(w, p, h)] } } else s.closeNow w p h

/-- The MAP record of a handle whose survey has ended (R470); `crc` is 0 if it did not complete. -/
def State.mapRecord (s : State) (h crc : Nat) (aborted : Bool) : State :=
  match s.led.pendMaps.filter fun e => e.handle == h with
  | [] => s
  | e :: es =>
    let t := { s with led := { s.led with pendMaps := s.led.pendMaps.filter fun e => e.handle != h } }
    t.record 4 (if aborted then 1 else 0) 0 0
      (leBytes 8 e.id ++ leBytes 8 crc ++ leBytes 4 e.lseq ++ leBytes 4 (es.length + 1) ++ leBytes 1 h) false

/-- The GAP record of lost records (R469, R473). -/
def State.gapRecord (s : State) (lseq count : Nat) : State := s.record 5 0 0 0 (leBytes 4 lseq ++ leBytes 4 count) false

/-- Once the MEM pages are RUNNING again after a loss: the GAP record, then the CLOSE records that waited for it (R424). -/
def State.lossRecords (s : State) : State :=
  match s.led.memLoss with
  | none => s
  | some (first, n) =>
    let t : State := { s with led := { s.led with memLoss := none, owed := [] } }
    let u := if n = 0 then t else t.gapRecord first n
    s.led.owed.foldl (fun v e => v.closeNow e.1 e.2.1 e.2.2) u

/-- Records the ring holds (R465). -/
def State.ringCap (s : State) : Nat := 2 ^ s.rd Reg.LED_CFG_SIZE_LOG * 4096

/-- Records in the ring that the host has not drained. -/
def State.ringUsed (s : State) : Nat := (s.rd Reg.LED_WR_LSEQ + 2 ^ 32 - s.rd Reg.LED_RD_LSEQ) % 2 ^ 32

/-- The HBM address of record LSEQ (R465). -/
def State.ringAddr (s : State) (lseq : Nat) : Nat := s.rd Reg.LED_CFG_BASE * mib + 256 * (lseq % s.ringCap)

end Sys2Proof.Machine
end

