-- ==== Sys2Proof/Machine/Motion.lean ====
section
/-!
DEFINITION. The machinery of chapters 10 and 11 that the motion commands share: frames, the estimate, the profile
generator, the envelope, late data, and what moves HSTATE. Times are in 1/16 ns, positions in counts, speeds in 2^-20
count per µs.
-/
namespace Sys2Proof.Machine

/-! ### Position states (R237) -/

abbrev psNOLOCK : Nat := 0
abbrev psACQUIRING : Nat := 1
abbrev psVALID : Nat := 2
abbrev psHOLDOVER : Nat := 3
abbrev psLOST : Nat := 4

/-- PSTATE. -/
def State.posState (s : State) : Nat := s.rd Reg.MOT_POS_STAT_PSTATE

/-- Tick edges are launched only in VALID and HOLDOVER (R237). -/
def State.posLive (s : State) : Bool := s.posState == psVALID || s.posState == psHOLDOVER

/-- Ticks are suppressed (R261). -/
def State.suppressed (s : State) : Bool := s.bit Reg.MOT_POS_STAT_SUPPRESS

/-- Change the motion block's own state. -/
def State.modMot (s : State) (f : Mot → Mot) : State := { s with mot := f s.mot }

/-- The MOT page is RUNNING while a stripe is armed or a trajectory runs (R250). -/
def State.motShow (s : State) : State := s.setRunning pMOT (s.anyArmed || s.mot.trajectory)

/-- SLAT and LATE_LIM in 1/16 ns (R250). -/
def State.slat (s : State) : Int := 4 * (s.rd Reg.MOT_PORT_SLAT : Int)
def State.lateLim (s : State) : Int := 4 * (s.rd Reg.MOT_TIMING_LATE_LIM : Int)

/-! ### Estimate (R238) -/

/-- The accepted sample that velocity is formed from: N SEQ steps before k, or the oldest within that span. -/
def State.velBase (s : State) : Option (Sample × Sample) :=
  match s.mot.samples with
  | [] => none
  | k :: t =>
    let n := 2 ^ s.rd Reg.MOT_PORT_VLOG
    match (t.filter fun j => (k.seq + 65536 - j.seq) % 65536 ≤ n).getLast? with
    | none => none
    | some j => if j.time < k.time then some (k, j) else none

/-- An axis of the estimate at a time, with 16 fraction bits. -/
def est16 (pk pj tk tj τ : Int) : Int := pk * 65536 + rhe ((pk - pj) * (τ - tk) * 65536) (tk - tj)

/-- The estimate at a time, in counts: X and Y. -/
def State.estimate (s : State) (τ : Int) : Int × Int :=
  match s.velBase with
  | some (k, j) => (rhe (est16 k.x j.x k.time j.time τ) 65536, rhe (est16 k.y j.y k.time j.time τ) 65536)
  | none => match s.mot.samples with
    | k :: _ => (k.x, k.y)
    | [] => (0, 0)

/-! ### Frames (R232) -/

/-- A motion-port frame: SOF K27.7, TYPE and data, CRC-32C least significant byte first, EOF K29.7. -/
def portFrame (body : List Byte) : List Byte := 0xFB#8 :: body ++ leBytes 4 (crc32c.of body) ++ [0xFD#8]

/-- The setpoint frame of R245. -/
def setpointFrame (type seq : Nat) (x y vx vy : Int) (flags : Nat) : List Byte :=
  portFrame (leBytes 1 type ++ leBytes 2 seq ++ leBytes 6 (enc 48 x) ++ leBytes 6 (enc 48 y) ++
    leBytes 4 (enc 32 vx) ++ leBytes 4 (enc 32 vy) ++ leBytes 1 flags ++ leBytes 1 0)

/-- The deflection word of R247. -/
def deflectionWord (seq : Nat) (dx dy : Int) (flags : Nat) : List Byte :=
  portFrame (leBytes 1 0x70 ++ leBytes 1 seq ++ leBytes 3 (enc 24 dx) ++ leBytes 3 (enc 24 dy) ++ leBytes 1 flags)

/-! ### The profile generator (R251 to R255) -/

/-- A register in force, raised to the value a protected ramp keeps (R255). -/
def State.accNow (s : State) : Int :=
  max (s.rd Reg.MOT_PROF_ACC_ACC : Int) (match s.mot.keepAcc with | some (a, _, _) => a | none => 0)
def State.decNow (s : State) : Int :=
  max (s.rd Reg.MOT_PROF_DEC_DEC : Int) (match s.mot.keepAcc with | some (_, d, _) => d | none => 0)
def State.stopNow (s : State) : Int :=
  max (max (s.rd Reg.MOT_PROF_STOP_STOP : Int) (match s.mot.keepAcc with | some (_, _, t) => t | none => 0)) s.decNow
def State.vMax (s : State) : Int := 256 * (s.rd Reg.MOT_PROF_VMAX_VMAX : Int)
def State.vMin (s : State) : Int := 256 * (s.rd Reg.MOT_PLAN_VMIN_VMIN : Int)

/-- Start a move towards a target from an axis that is at rest or already moving the right way (R252). -/
def Axis.begin (a : Axis) (tgt vc vs : Int) : Axis :=
  { a with tgt := some tgt, vc := vc, vs := vs, toRest := false, hard := false, next := none,
           dirn := if a.v = 0 then (if tgt < a.p then -1 else 1) else a.dirn }

/-- Take a new target (R254): at once from rest or when it lies ahead at or beyond the braking distance, else after a
deceleration to rest at DEC. -/
def Axis.retarget (a : Axis) (dec tgt vc vs : Int) : Axis :=
  if a.v = 0 then a.begin tgt vc vs
  else
    let rem := a.dirn * (tgt - a.p)
    let brake := (a.v * a.v - vs * vs) / dec
    if rem < 0 ∨ rem < brake then { a with tgt := none, toRest := true, hard := false, next := some (tgt, vc, vs) }
    else a.begin tgt vc vs

/-- One 1 µs step of a move (R253). -/
def Axis.moveStep (a : Axis) (acc dec tgt : Int) : Axis :=
  let rem := a.dirn * (tgt - a.p)
  let brake := (a.v * a.v - a.vs * a.vs) / dec
  let v1 :=
    if rem - 2 * a.v ≤ brake then max a.vs (a.v - dec)
    else if a.v < a.vc then min a.vc (a.v + acc)
    else max a.vc (a.v - dec)
  let p1 := a.p + a.dirn * (a.v + v1)
  if a.dirn * (tgt - p1) ≤ 0 then { a with p := tgt, v := a.vs, tgt := none } else { a with p := p1, v := v1 }

/-- One step of a deceleration to rest; at rest a held target is taken (R253, R254). -/
def Axis.restStep (a : Axis) (dec : Int) : Axis :=
  let v1 := max 0 (a.v - dec)
  let b := { a with p := a.p + a.dirn * (a.v + v1), v := v1 }
  if v1 = 0 then
    match a.next with
    | some (t, vc, vs) => b.begin t vc vs
    | none => { b with toRest := false, hard := false }
  else b

/-- One step towards a speed with no target (R258). -/
def Axis.speedStep (a : Axis) (acc dec vt : Int) : Axis :=
  let v1 := if a.v < vt then min vt (a.v + acc) else max vt (a.v - dec)
  { a with p := a.p + a.dirn * (a.v + v1), v := v1 }

/-- One step of an axis: a deceleration to rest, a move, or a speed to follow. -/
def Axis.step (a : Axis) (acc dec stop : Int) (follow : Option Int) : Axis :=
  if a.toRest then a.restStep (if a.hard then stop else dec)
  else match a.tgt with
    | some t => a.moveStep acc dec t
    | none => match follow with
      | some vt => a.speedStep acc dec vt
      | none => a

/-- The axis has no move in hand and stands still. -/
def Axis.ended (a : Axis) : Bool := a.tgt.isNone && !a.toRest && a.v == 0

/-- Keep a setpoint within its virtual limits, in counts (R256; how is DEDUCED, log entry 21). -/
def Axis.limit (a : Axis) (lo hi : Int) : Axis :=
  if a.p < lo * 2 ^ 21 then { a with p := lo * 2 ^ 21, v := 0 }
  else if hi * 2 ^ 21 < a.p then { a with p := hi * 2 ^ 21, v := 0 }
  else a

/-- The virtual limits in counts (R256). -/
def State.limXLo (s : State) : Int := 1024 * sx 32 (s.rd Reg.MOT_VLIM_X_LO_LIM)
def State.limXHi (s : State) : Int := 1024 * sx 32 (s.rd Reg.MOT_VLIM_X_HI_LIM)
def State.limYLo (s : State) : Int := 1024 * sx 32 (s.rd Reg.MOT_VLIM_Y_LO_LIM)
def State.limYHi (s : State) : Int := 1024 * sx 32 (s.rd Reg.MOT_VLIM_Y_HI_LIM)

/-- A point lies within the virtual limits. -/
def State.inLimits (s : State) (x y : Int) : Bool :=
  decide (s.limXLo ≤ x) && decide (x ≤ s.limXHi) && decide (s.limYLo ≤ y) && decide (y ≤ s.limYHi)

/-! ### Speeds of a stripe (R258, R259, R262, R263) -/

/-- The speed of a segment with period T_q in 0.25 ns: A × G / T_q. -/
def segSpeed (a g tq : Nat) : Nat := if tq = 0 then 0 else rheN (a * g * 4000 * 2 ^ 20) tq

/-- The stripe's fastest speed, min(A × G / T_min, VMAX) (R265). -/
def Plan.vTop (p : Plan) (vmax : Int) : Int := min (segSpeed p.a p.g p.tMin : Int) vmax

/-- The envelope's limit at a position from one segment (R263): `d0` and `d1` are how far the position lies before the
segment's first threshold and after its last. -/
def envAt (v dec acc : Int) (d0 d1 : Int) : Int :=
  if 0 < d0 then isqrt (v * v + 2 * dec * d0 * 2 ^ 20).toNat
  else if 0 < d1 then isqrt (v * v + 2 * acc * d1 * 2 ^ 20).toNat
  else v

/-! ### Motion groups (R414 to R417) -/

/-- The module's followers, as FAB_MOT_MEMBERS lists them. -/
def State.listed (s : State) (a : Nat) : Bool :=
  if a < 32 then (s.rd Reg.FAB_MOT_MEMBERS_LO_MEMBERS).testBit a else (s.rd Reg.FAB_MOT_MEMBERS_HI_MEMBERS).testBit (a - 32)

/-- What the lead keeps of a follower. -/
def State.follower (s : State) (a : Nat) : Follower := (s.fab.followers.find? fun f => f.addr == a).getD { addr := a }

/-- A condition holds of every listed follower of a lead; it holds in a module that is no lead (R417). -/
def State.groupAll (s : State) (f : Follower → Bool) : Bool :=
  !s.isLead || (List.range 64).all fun a => !s.listed a || ((s.follower a).heard && f (s.follower a))

/-- The listed followers. -/
def State.followersNow (s : State) : List Follower :=
  if s.isLead then (List.range 64).filterMap fun a => if s.listed a then some (s.follower a) else none else []

/-- A bit of a follower's FLAGS: 0 SUPPRESS, 1 READY, 2 DONE, 3 HOLD (R416). -/
def Follower.flag (f : Follower) (b : Nat) : Bool := f.flags.testBit b

/-- T_q of a segment: the module's own and, in a lead, the largest of any follower (R417). -/
def State.segTq (s : State) (p : Plan) (j : Nat) : Nat :=
  (s.followersNow.flatMap fun f => (f.plans.filter fun g => g.gstripe == p.gstripe).flatMap fun g =>
    (g.tq.filter fun e => e.1 == j).map Prod.snd).foldl max (p.tq.getD j 0)

/-- The least cap of any follower, in 2^-20 count per µs (R415, R417). -/
def State.groupCap (s : State) : Option Int :=
  s.followersNow.foldl (fun acc f => if f.cap = 0xFFFFFFFF then acc else
    match acc with | some c => some (min c (256 * f.cap)) | none => some (256 * f.cap)) none

/-- FAB_MOT_DY in counts, and Y_thr(0) − DY of a stripe (R414). -/
def State.groupDy (s : State) : Int := sx 48 (s.rd64 Reg.FAB_MOT_DY_LO_DY Reg.FAB_MOT_DY_HI_DY)
def State.groupY0 (s : State) (w : Waybill) (p : Plan) : Int := s.curThr w p 0 - s.groupDy

/-- A follower of a group agrees with the lead about a stripe (R414). -/
def State.aligned (s : State) (w : Waybill) (p : Plan) (f : Follower) : Bool :=
  match (f.plans.find? fun g => g.gstripe == p.gstripe && g.align.isSome).bind GroupPlan.align with
  | none => false
  | some al => al.dir == w.dir && al.a == p.a && al.g == p.g && al.nt == nTicks w.length p.k p.a && al.y0 == s.groupY0 w p

/-- A listed follower has sent the alignment of an armed stripe of the lead, and it differs. -/
def State.misaligned (s : State) : Bool :=
  s.followersNow.any fun f => s.ing.waybills.any fun w => match w.plan with
    | some p => (f.plans.any fun g => g.gstripe == p.gstripe && g.align.isSome) && !s.aligned w p f
    | none => false

/-- A pair of stripes that is not aligned sets ALIGN in the lead (R414). -/
def State.alignCheck (s : State) : State := if s.misaligned then s.setFault pFAB 4 else s

/-- v_env(y) of a stripe (R263): the smallest over all segments. -/
def State.vEnv (s : State) (w : Waybill) (p : Plan) (y : Int) : Int :=
  let nt := nTicks w.length p.k p.a
  let last := p.tq.length - 1
  let vs := (List.range p.tq.length).map fun j =>
    let v : Int := segSpeed p.a p.g (s.segTq p j)
    let t1 := if j = last then nt - 1 else (j + 1) * p.ns - 1
    envAt v s.decNow s.accNow (w.sign * (s.curThr w p (j * p.ns) - y)) (w.sign * (y - s.curThr w p t1))
  vs.foldl min (p.vTop s.vMax)

/-- t_need: the first tick not yet computed that reads a slot that is not valid (R268). -/
def State.findNeed (s : State) (w : Waybill) (p : Plan) : Option Nat :=
  let segs := nSegs w.length p.k
  let open_ := (List.range segs).filter fun j =>
    decide (p.a * s.alc.next ≤ (j + 1) * p.w - 1 + 511 * p.k + p.a - 1) &&
      !s.ing.travellers.any fun t =>
        t.state != .free && !t.survey && t.wseq == w.seq && t.j == j && t.valid
  (open_.head?).map fun j => max (j * p.ns) s.alc.next

/-- The first untriggered tick. -/
def State.tickNext (s : State) : Nat := s.rd Reg.MOT_TICK_NEXT_TICK

/-- Late data step 1 and 2 of R268: slow down while t_need is near, lift when it is not. -/
def State.lateCheck (s : State) : State :=
  match s.cur with
  | none => s
  | some (w, p) =>
    match s.findNeed w p with
    | none => (s.modMot fun m => { m with tNeed := none }).wr Reg.MOT_HALT_STAT_SLOW_LATE 0
    | some t =>
      let s1 := s.modMot fun m => { m with tNeed := some t }
      if t ≤ s.tickNext + s.rd Reg.MOT_LATE_LEAD_LEAD then
        if s.bit Reg.MOT_HALT_STAT_SLOW_LATE then s1
        else ((s1.wr Reg.MOT_HALT_STAT_SLOW_LATE 1).raise pMOT 11).satInc Reg.MOT_HALT_CNT_SLOWS 1
      else s1.wr Reg.MOT_HALT_STAT_SLOW_LATE 0

/-- v_target (R258), with v_late where SLOW_LATE holds (R268). -/
def State.vTarget (s : State) (w : Waybill) (p : Plan) (y : Int) : Int :=
  let env := s.vEnv w p y
  let v1 := min env s.vMax
  let v2 := match s.mot.vTherm with | some t => min v1 t | none => v1
  let v3 := if s.bit Reg.MOT_HALT_STAT_SLOW_LATE then min v2 (env * s.rd Reg.MOT_PLAN_CFG_LATE_FRAC / 256) else v2
  match s.groupCap with | some c => min v3 c | none => v3

/-- d_run(v) in counts (R259). -/
def dRun (v acc : Int) (settle : Nat) : Int :=
  ceilDivI (v * v) (2 * acc * 2 ^ 20) + ceilDivI (v * settle) (2 ^ 20)

/-- v_r at a tick: the least of the envelope there, v_therm and VMAX (R271). -/
def State.runupSpeed (s : State) (w : Waybill) (p : Plan) (h : Nat) : Int :=
  let v := min (s.vEnv w p (s.curThr w p h)) s.vMax
  match s.mot.vTherm with | some t => min v t | none => v

/-- The run-up point of tick h at speed v_r (R259). -/
def State.runupPoint (s : State) (w : Waybill) (p : Plan) (h : Nat) (v : Int) : Int :=
  s.curThr w p h - w.sign * dRun v s.accNow (s.rd Reg.MOT_PLAN_CFG_SETTLE)

/-! ### HSTATE (R257, R260, R271) -/

/-- A trajectory starts from the latest accepted sample with v = 0 (R257); a follower runs none (R414). -/
def State.startTrajectory (s : State) : State :=
  if s.isFollower then s
  else match s.mot.samples with
  | [] => s
  | k :: _ =>
    (s.modMot fun m => { m with trajectory := true, wantTraj := false, ax := { p := k.x * 2 ^ 21 }, ay := { p := k.y * 2 ^ 21 } }).motShow

/-- The trajectory ends; hold frames follow (R257). -/
def State.endTrajectory (s : State) : State :=
  (s.modMot fun m => { m with trajectory := false, wantTraj := false, stopRamp := false, keepAcc := none }).motShow

/-- Both axes set out for the run-up point of the current stripe with h = 0 (R260 step 2). -/
def State.moveToRunup (s : State) : State :=
  match s.cur with
  | none => s
  | some (w, p) =>
    let v := s.runupSpeed w p 0
    let y := s.runupPoint w p 0 v
    s.modMot fun m =>
      { m with hTick := 0, hGroup := 0, vr := v, yBack := y, atRunup := false, xDwell := 0, afterHalt := false,
               ax := m.ax.retarget s.decNow (xRef w p.k p.g s.orgX * 2 ^ 21) s.vMax 0,
               ay := m.ay.retarget s.decNow (y * 2 ^ 21) s.vMax 0 }

/-- A waybill has become current: from IDLE the state becomes TURN and, at once or when the position state is VALID, a
trajectory starts; in TURN the axes set out for its run-up point (R257, R260, R271). A follower takes its HSTATE from
the lead (R414). -/
def State.becomeCurrent (s : State) : State :=
  let s0 := (s.wr Reg.MOT_TICK_NEXT_TICK 0).modMot fun m =>
    { m with predicted := none, due := false, committed := none, lastEdge := none, nextPhase := 16, resDone := true,
             residual := none, hFixed := false, tNeed := none, high := none, hTick := 0, hGroup := 0 }
  if s.isFollower then s0
  else if s.hstate = hIDLE then
    let s1 := (s0.wr Reg.MOT_HALT_STAT_HSTATE hTURN).wr Reg.MOT_POS_STAT_SUPPRESS 1
    if s.posState = psVALID then s1.startTrajectory.moveToRunup else s1.modMot fun m => { m with wantTraj := true }
  else if s.hstate = hTURN then s0.moveToRunup
  else s0

/-- A host move ends: IDLE, the trajectory ends, EVT_RAW[14]; a stripe that has become current meanwhile begins its
turnaround (R257, R271). -/
def State.endMove (s : State) : State :=
  let t := ((s.wr Reg.MOT_HALT_STAT_HSTATE hIDLE).endTrajectory).raise pMOT 14
  if t.cur.isSome then t.becomeCurrent else t

/-- A stopping stage is at rest (R269, R271): h is fixed, ticks are suppressed, and the back-up begins. -/
def State.atRest (s : State) : State :=
  match s.cur with
  | none => s.wr Reg.MOT_HALT_STAT_HSTATE hTURN
  | some (w, p) =>
    let h := if s.mot.hFixed then s.mot.hTick else s.tickNext
    let s1 := ((s.wr Reg.MOT_HALT_STAT_HSTATE hBACKING).wr Reg.MOT_POS_STAT_SUPPRESS 1).wr Reg.MOT_HALT_TICK_TICK h
    let hg := s.followersNow.foldl (fun a f => if f.h = 0xFFFFFFFF then a else min a f.h) h
    let v := s.runupSpeed w p hg
    let y := s.runupPoint w p hg v
    let s2 := if s.mot.hFixed then s1 else s1.modSeg w.seq (segOfTick w p h) fun c => { c with halts := c.halts + 1 }
    s2.modMot fun m =>
      { m with hTick := h, hGroup := hg, hFixed := true, vr := v, yBack := y, stopRamp := false, writing := false, afterHalt := true,
               predicted := none, due := false, high := none,
               ay := m.ay.begin (y * 2 ^ 21) s.vMax 0 }

/-- The run-up begins: no halt is held any more (R276), suppression ends and the Y axis moves to its threshold with VC = VS = v_r (R259, R271). -/
def State.startRunup (s : State) : State :=
  match s.cur with
  | none => s
  | some (w, p) =>
    let v := match s.mot.vTherm with | some t => min s.mot.vr t | none => s.mot.vr
    (((s.wr Reg.MOT_HALT_STAT_HSTATE hRUNUP).wr Reg.MOT_POS_STAT_SUPPRESS 0).wr Reg.MOT_HALT_TICK_TICK 0xFFFFFFFF).modMot fun m =>
      { m with vr := v, hFixed := true, atRunup := false, high := none,
               ay := m.ay.begin (s.curThr w p m.hGroup * 2 ^ 21) v v }

/-! ### The queue of armed stripes -/

/-- The pass of a traveller ends before its segment is finished: its lists and the expander's work on it are dropped,
and its tiles in flight are completed and discarded (R162, R171). -/
def State.dropPass (s : State) (i : Nat) : State :=
  { s with ing := { s.ing with
      lists := s.ing.lists.filter fun e => e.trv != i
      expanders := s.ing.expanders.map fun x => match x.work with
        | some (t, _) => if t = i then { x with work := none, waiting := false } else x
        | none => x
      ras := { s.ing.ras with tiles := (s.ing.ras.tiles.filter fun t => !(t.trv == i && t.place == .taken)).map fun t =>
        if t.trv = i then { t with void := true } else t } } }

/-- Free a traveller, its list pages, its slot and the expander that works on it (R131). -/
def State.freeTrv (s : State) (i : Nat) : State :=
  let t := s.dropPass i
  { t with ing := { t.ing with travellers := setAt t.ing.travellers i {} } }

/-- Release every traveller of a waybill (R274). -/
def State.freeStripe (s : State) (wseq : Nat) : State :=
  (List.range 512).foldl (fun t i =>
    match t.ing.travellers[i]? with
    | some v => if v.state ≠ .free ∧ !v.survey ∧ v.wseq = wseq then t.freeTrv i else t
    | none => t) s

/-- Banks named by armed waybills, as ALC_BT_STAT.NAMED shows them (R214). -/
def State.namedBanks (s : State) : Nat :=
  s.armed.foldl (fun a w => match w.plan with | some p => a ||| 2 ^ p.bank | none => a) 0

/-- The beam-table banks after a change: a former ACTIVE bank that no armed waybill names any more starts its copy, and
WRITABLE follows (R214). -/
def State.bankShow (s : State) : State :=
  let n := s.namedBanks
  let stage := 1 - s.rd Reg.ALC_BT_STAT_ACTIVE
  let s1 := s.wr Reg.ALC_BT_STAT_NAMED n
  let s2 := if s1.alc.fired && !n.testBit stage then
      { s1.wr Reg.ALC_BT_STAT_COPYING 1 with alc := { s1.alc with fired := false } } else s1
  s2.wr Reg.ALC_BT_STAT_WRITABLE
    (if !n.testBit stage && !s2.bit Reg.ALC_BT_STAT_SWAP_PEND && !s2.bit Reg.ALC_BT_STAT_COPYING && !s2.alc.fired then 1 else 0)

/-- The survey unit has an operation in hand, which keeps the ING, COR and SRV pages RUNNING (R192). -/
def State.surveyBusy (s : State) : Bool := decide (1 ≤ s.rd Reg.SRV_STAT_PHASE) && decide (s.rd Reg.SRV_STAT_PHASE ≤ 4)

/-- The pages that run while a stripe is armed (R198, R230, R250), and the registers that show the queue. -/
def State.armShow (s : State) : State :=
  (((s.showQueue.bankShow.motShow).setRunning pALC s.anyArmed).setRunning pPAK s.anyArmed).setRunning pCOR (s.anyArmed || s.surveyBusy)

/-- The allocator forgets a stripe (R227): its carries, its window sums and its codes. -/
def State.alcClear (s : State) : State :=
  { s.wr Reg.ALC_TICK_TICK 0xFFFFFFFF with
    alc := { s.alc with next := 0, carry := [], wsum := [], gsum := [], codes := [], planLost := false } }

/-- The streams of the stripe close (R284): no further parcel is sent, a stream that had begun and not ended owes its LAST
frame, and no frame is resent (R302). PAK_ACK_TICK shows none. -/
def State.closeStreams (s : State) : State :=
  { s.wr Reg.PAK_ACK_TICK_TICK 0xFFFFFFFF with
    pak := { s.pak with streams := s.pak.streams.map fun st =>
      { st with lastDue := st.lastDue || (decide (0 < st.pos) && decide (st.pos < st.total)), pos := st.total, frames := [] } } }

/-- The head of the queue, an armed waybill, leaves it; the next armed one becomes current (R129, R274). -/
def State.dropHead (s : State) : State :=
  let t := ({ s with ing := { s.ing with waybills := s.ing.waybills.tail } } : State).alcClear.closeStreams
  if t.cur.isSome then t.becomeCurrent.armShow
  else ((t.wr Reg.MOT_TICK_NEXT_TICK 0xFFFFFFFF).modMot fun m =>
    { m with predicted := none, due := false, committed := none, nextPhase := 16, tNeed := none }).armShow

/-- The reasons that belong to an abandoned stripe: LATE, POISON, ALLOC, LINK, ABANDON (R274). -/
def stripeReasons : List Nat := [rLATE, rPOISON, rALLOC, rLINK, rABANDON]

/-- Abandonment of the current stripe completes (R274) with halt tick h. -/
def State.abandon (s : State) (h : Nat) : State :=
  match s.cur with
  | none => s
  | some (w, p) =>
    let s1 := (s.closeAbandoned w p h).freeStripe w.seq
    let s2 := (s1.wr Reg.ING_WB_QSTAT_STOPPED 1).raise pMOT 15
    let s3 := s2.wr Reg.MOT_HALT_STAT_REASON (stripeReasons.foldl clrBit s2.reasons)
    let s4 := (s3.wr Reg.MOT_HALT_TICK_TICK (if s3.reasons = 0 then 0xFFFFFFFF else 0)).modMot fun m =>
      { m with abandonHold := true, hFixed := false, writing := false, stopRamp := false }
    let s5 := if s4.hstate = hIDLE ∨ s4.isFollower then s4 else s4.wr Reg.MOT_HALT_STAT_HSTATE hTURN
    (s5.autoReckon Reg.GLB_RECK_AUTO_ABANDON).dropHead

/-- Remove the second armed waybill as abandonment removes a waybill (R525): its ledger is closed with h = 0. -/
def State.dropSecond (s : State) : State :=
  match s.ing.waybills with
  | w :: v :: rest =>
    match v.plan with
    | some p =>
      let t := (s.closeAbandoned v p 0).freeStripe v.seq
      ({ t with ing := { t.ing with waybills := w :: rest } }.wr Reg.ING_WB_QSTAT_STOPPED 1).armShow
    | none => s
  | _ => s

/-- The gap requests of a turnaround that begins: beam check while EN is 1 (R317), and from the innkeeper rotation and
alignment as they fall due (R485). -/
def State.gapRequests (s : State) : State :=
  let n := s.mot.turns + 1
  let due (every : Nat) : Bool := every != 0 && n % every == 0
  let up := !s.bit Reg.INK_STATUS_INK_DOWN && s.live pPAK
  let rot := up && due (s.rd Reg.PAK_ALN_SCHED_ROT_EVERY)
  let aln := up && (due (s.rd Reg.PAK_ALN_SCHED_ALN_EVERY) || rot || s.pak.alnNow)
  { s with
    mot := { s.mot with turns := n, gapBeam := s.bit Reg.ARY_BC_CFG_EN && s.live pARY, gapCal := rot || aln }
    pak := { s.pak with rotDue := rot, alnDue := aln } }

/-- MOT_HALT_TICK between stripes: a halt that is held applies with h = 0 of the next stripe, and with no reason left
none is held (R273, R276). -/
def State.haltShow (s : State) : State :=
  s.wr Reg.MOT_HALT_TICK_TICK (if s.reasons = 0 then 0xFFFFFFFF else 0)

/-- The same once a reason has cleared: nothing changes while a stripe is being written or halted. -/
def State.haltCleared (s : State) : State :=
  if s.reasons = 0 ∧ (s.hstate = hTURN ∨ s.hstate = hIDLE) then s.haltShow else s

/-- A follower has launched the last tick of the stripe that this plan numbers: it says DONE, or has gone on to its next
stripe (R415, R417). -/
def Follower.doneWith (f : Follower) (p : Plan) : Bool := f.flag 2 || f.gstripe == (p.gstripe + 1) % 2 ^ 32

/-- Step 1 of a turnaround (R260), once every member of the group has launched its last tick: ticks are suppressed and
the Y axis slows to rest until a stripe becomes current. -/
def State.turnStep (s : State) : State :=
  match s.cur with
  | none => s
  | some (w, p) =>
    if p.launched < nTicks w.length p.k p.a ∨ !s.groupAll (fun f => f.doneWith p) then s
    else
      let t := ((s.wr Reg.MOT_POS_STAT_SUPPRESS 1).modMot fun m => { m with writing := false }).haltShow
      if s.isFollower then t
      else ((t.wr Reg.MOT_HALT_STAT_HSTATE hTURN).modMot fun m =>
        { m with atRunup := false, xDwell := 0, stopRamp := false,
                 ay := { m.ay with tgt := none, toRest := true, hard := false } }).gapRequests

/-- Entry into LOST (R237). -/
def State.posLost (s : State) : State :=
  let t := ((s.setFault pMOT 0).raise pMOT 0).modMot fun m => { m with committed := none, predicted := none, due := false }
  (t.stopRequest rPOS).wr Reg.MOT_POS_STAT_PSTATE psLOST

/-- Entry into VALID (R237): EVT_RAW[1], and a trajectory that waits for it starts (R257). -/
def State.posValid (s : State) : State :=
  let t := (s.wr Reg.MOT_POS_STAT_PSTATE psVALID).raise pMOT 1
  if t.mot.wantTraj && t.cur.isSome then t.startTrajectory.moveToRunup else t

/-- The automatic reasons whose conditions have ended clear: LATE and POISON once the allocator holds the codes of
tick h (R270), LINK once every logical lane has a lane and the frames of tick h are acknowledged (R289). -/
def State.autoClear (s : State) : State :=
  let h := if s.mot.hFixed ∨ s.hstate = hTURN then s.mot.hTick else s.tickNext
  let s1 := if s.allocHolds h ∧ s.hstate ≠ hRUN then
      s.wr Reg.MOT_HALT_STAT_REASON (clrBit (clrBit s.reasons rLATE) rPOISON) else s
  let s2 := match s1.cur with
    | some (w, p) =>
      if s1.reasons.testBit rLINK && s1.hstate != hRUN && s1.pak.waiting.isEmpty && s1.tickAcked w.seq p.lanes h &&
          !s1.fault pPAK 1 then s1.wr Reg.MOT_HALT_STAT_REASON (clrBit s1.reasons rLINK) else s1
    | none => s1
  s2.haltCleared

end Sys2Proof.Machine
end

