-- ==== Sys2Proof/Machine/Window.lean ====
section
/-!
DEFINITION. The expansion window and its travellers (R130, R131), marking for recomputation (R143, R144), the pages of
the layout store (R122) and the walk of a band (R133 to R140).
-/
namespace Sys2Proof.Machine

/-! ### Travellers -/

/-- A traveller. -/
def State.trv (s : State) (i : Nat) : Traveller := s.ing.travellers.getD i {}

/-- Change a traveller. -/
def State.modTrv (s : State) (i : Nat) (f : Traveller → Traveller) : State :=
  { s with ing := { s.ing with travellers := modAt s.ing.travellers i f } }

/-- The traveller that a waybill's segment j holds. -/
def State.findTrv (s : State) (wseq j : Nat) : Option Nat :=
  s.ing.travellers.findIdx? fun t => t.state != .free && !t.survey && t.wseq == wseq && t.j == j

/-- Mark traveller i for recomputation (R143, R144). -/
def State.markTrv (s : State) (i : Nat) : State :=
  let t := s.trv i
  let counted (u : State) : State := (u.satInc Reg.ING_RCMP_CNT_REQUESTED 1).raise pING 7
  match t.state with
  | .buffered | .draining =>
    if t.restart then s
    else counted (s.modTrv i fun t => { t with valid := false, restart := true, redo := true, listed := 0, corrected := 0, band := 0 })
  | .expanding | .listed | .raster =>
    if t.rcmp || t.restart then s else counted (s.modTrv i fun t => { t with rcmp := true })
  | _ => s

/-- Mark a segment for recomputation; a segment that holds no traveller is computed afresh anyway (R144). -/
def State.markRecompute (s : State) (wseq j : Nat) : State :=
  match s.findTrv wseq j with
  | some i => s.markTrv i
  | none => s

/-- The waybill of a sequence number and its place in the queue. -/
def State.waybillOf (s : State) (wseq : Nat) : Option (Waybill × Plan) :=
  (s.ing.waybills.find? fun w => w.seq == wseq).bind fun w => w.plan.map fun p => (w, p)

/-- The window: (waybill, position) of the next AHEAD + S segments in stage order (R130). -/
def State.window (s : State) : List (Waybill × Plan × Nat) :=
  let segs := s.armed.flatMap fun w => match w.plan with
    | some p => (List.range (nSegs w.length p.k)).map fun j => (w, p, j)
    | none => []
  (segs.drop s.ing.curSeg).take (s.rd Reg.ING_CFG_AHEAD + s.rd Reg.ALC_GEOM_SLOTS_SET)

/-- A slot that no traveller holds (R131): the lowest. -/
def State.freeSlot (s : State) : Option Nat :=
  (List.range (s.rd Reg.ALC_GEOM_SLOTS_SET)).find? fun n => s.ing.travellers.all fun t => t.state == .free || t.slot != some n

/-- ING RUNNING: a delivery or repair is open, a waybill is armed or a survey traveller is in use (R148). -/
def State.ingShow (s : State) : State :=
  s.setRunning pING (s.ing.delivery.isSome || s.ing.repair.isSome || s.anyArmed || s.surveyBusy ||
    s.ing.travellers.any fun t => t.state != .free && t.survey)

/-! ### The layout store (R122) -/

/-- A layout handle. -/
def State.lay (s : State) (h : Nat) : Layout := s.ing.layouts.getD h {}

/-- Change a layout handle. -/
def State.modLay (s : State) (h : Nat) (f : Layout → Layout) : State :=
  { s with ing := { s.ing with layouts := modAt s.ing.layouts h f } }

/-- The HBM address of a byte of a layout's space. -/
def Layout.addr (l : Layout) (o : Nat) : Nat := l.pages.getD (o / mib) 0 * mib + o % mib

/-- Pages of the layout store that are held. -/
def State.heldPages (s : State) : List Nat := s.ing.layouts.flatMap Layout.pages ++ s.ing.releasing

/-- Unreserved layout-store space F, in MiB. -/
def State.lsUnreserved (s : State) : Nat := s.rd Reg.MEM_REGION_LS_GIB * 1024 - s.heldPages.length

/-- ING_LS_FREE in units of 4 KiB (R122). -/
def State.lsFree4k (s : State) : Nat := 4 * (s.lsUnreserved - 9) * mib / 7 / 4096

/-- Reserve n MiB of the layout store: the lowest free pages (DESIGN CHOICE, log entry 24). -/
def State.takePages (s : State) (n : Nat) : List Nat :=
  ((List.range (s.rd Reg.MEM_REGION_LS_GIB * 1024)).filter fun i => !s.heldPages.contains i).take n

/-- The reservation for a stream of a given size, in MiB (R122). -/
def lsReserve (bytes : Nat) : Nat := ceilDiv (7 * bytes + 36 * mib) (4 * mib)

/-- MiB of a stream and its index as built (R122). -/
def Layout.trimmed (l : Layout) : Nat :=
  let maxCell := (l.index.cells.map fun c => c.num + 1).foldl max 0
  let rows := match l.index.top with | some g => g.nby | none => 0
  ceilDiv (l.bytes + 8 * maxCell + 8 * rows + 8 * l.index.bins.length + 16 * l.blocks.length) mib

/-- Words of a layout's stream, by byte offset. -/
def State.layWord (s : State) (l : Layout) (o : Nat) : Nat := s.hbmVal (l.addr o) 4

/-- A record of the stream: its offset and its words. -/
structure Rec where
  ofs : Nat
  ws  : List Nat
  deriving DecidableEq, Repr

/-- Word i of a record; its TYPE, ARG and LEN (R87). -/
def Rec.w (r : Rec) (i : Nat) : Nat := r.ws.getD i 0
def Rec.type (r : Rec) : Nat := bits (r.w 0) 31 24
def Rec.arg (r : Rec) : Nat := bits (r.w 0) 23 16
def Rec.len (r : Rec) : Nat := bits (r.w 0) 15 0

/-- The record at an offset of a layout. -/
def State.layRec (s : State) (l : Layout) (o : Nat) : Rec :=
  let n := max 1 (bits (s.layWord l o) 15 0)
  ⟨o, (List.range n).map fun i => s.layWord l (o + 4 * i)⟩

/-- The body records that follow an offset, up to the record that ends the cell or bin; `fuel` bounds their number. -/
def State.layBody (s : State) (l : Layout) : Nat → Nat → List Rec
  | 0, _ => []
  | fuel + 1, o =>
    if l.bytes ≤ o then []
    else
      let r := s.layRec l o
      if r.type = 0x03 ∨ r.type = 0x05 ∨ r.type = 0x06 then []
      else if r.type = 0x0E ∨ r.type = 0x0F then s.layBody l fuel (o + 4 * r.len)
      else r :: s.layBody l fuel (o + 4 * r.len)

/-! ### Records as geometry (R90, R91, R97 to R108) -/

/-- The anchor at word i: X, Y and HI (R90). -/
def Rec.ax (r : Rec) (i : Nat) : Int := sx 40 (r.w i + bits (r.w (i + 2)) 7 0 * 2 ^ 32)
def Rec.ay (r : Rec) (i : Nat) : Int := sx 40 (r.w (i + 1) + bits (r.w (i + 2)) 15 8 * 2 ^ 32)
def Rec.hi (r : Rec) (i : Nat) : Nat := bits (r.w (i + 2)) 31 16

/-- Delta k of the run that starts at word i (R91). -/
def Rec.delta (r : Rec) (i k : Nat) : Int :=
  let b := 24 * k
  let two := r.w (i + b / 32) + r.w (i + b / 32 + 1) * 2 ^ 32
  sx 24 (two / 2 ^ (b % 32))

/-- An orientation applied to a vector (R97). -/
def orient (o : Nat) (x y : Int) : Int × Int :=
  match o % 8 with
  | 0 => (x, y)
  | 1 => (-y, x)
  | 2 => (-x, -y)
  | 3 => (y, -x)
  | 4 => (x, -y)
  | 5 => (y, x)
  | 6 => (-x, y)
  | _ => (-y, -x)

/-- The orientation that applies b first and then a: reflections act before rotations (R97). -/
def composeOrient (a b : Nat) : Nat :=
  let rot := if a < 4 then a + b else a + 8 - b
  (rot % 4) + (if (a / 4 + b / 4) % 2 = 1 then 4 else 0)

/-- A placement: an orientation and an origin. -/
structure Xform where
  o : Nat
  x : Int
  y : Int
  deriving DecidableEq, Repr

def Xform.id : Xform := ⟨0, 0, 0⟩

/-- A point through a placement. -/
def Xform.pt (t : Xform) (x y : Int) : Int × Int := ((orient t.o x y).1 + t.x, (orient t.o x y).2 + t.y)

/-- The placement u inside the placement t. -/
def Xform.comp (t u : Xform) : Xform := ⟨composeOrient t.o u.o, (t.pt u.x u.y).1, (t.pt u.x u.y).2⟩

/-- The box of a list of points. -/
def boxOf (ps : List (Int × Int)) : Option Box :=
  match ps with
  | [] => none
  | p :: t => some (t.foldl (fun b q => ⟨min b.xl q.1, min b.yl q.2, max b.xu q.1, max b.yu q.2⟩) ⟨p.1, p.2, p.1, p.2⟩)

/-- A box through a placement. -/
def Xform.box (t : Xform) (b : Box) : Box :=
  (boxOf [t.pt b.xl b.yl, t.pt b.xl b.yu, t.pt b.xu b.yl, t.pt b.xu b.yu]).getD b

/-- The vertices of a TRAP (R104). -/
def Rec.trapPts (r : Rec) : List (Int × Int) :=
  let x := r.ax 1
  let y := r.ay 1
  let wb : Int := bits (r.w 4) 23 0
  let wt : Int := bits (r.w 5) 23 0
  let dt := sx 24 (r.w 6)
  let h : Int := bits (r.w 7) 23 0
  if (r.hi 1) % 2 = 0 then [(x, y), (x + wb, y), (x + dt + wt, y + h), (x + dt, y + h)]
  else [(x, y), (x + h, y + dt), (x + h, y + dt + wt), (x, y + wb)]

/-- The vertices of a POLY after V0 (R105): k deltas remain from number i, starting at (x, y). -/
def Rec.polyGo (r : Rec) (manh : Bool) : Nat → Nat → Int → Int → List (Int × Int)
  | 0, _, _, _ => []
  | k + 1, i, x, y =>
    let q := if manh then (if i % 2 = 0 then (x + r.delta 4 i, y) else (x, y + r.delta 4 i))
      else (x + r.delta 4 (2 * i), y + r.delta 4 (2 * i + 1))
    q :: r.polyGo manh k (i + 1) q.1 q.2

/-- N, MANH and the bitmap of a CURVE (R105, R106). -/
def Rec.n (r : Rec) : Nat := bits (r.hi 1) 10 0
def Rec.manh (r : Rec) : Bool := (r.hi 1).testBit 15
def Rec.kindWords (r : Rec) : Nat := ceilDiv r.n 32
def Rec.quad (r : Rec) (i : Nat) : Bool := (r.w (4 + i / 32)).testBit (i % 32)
def Rec.quads (r : Rec) : Nat := ((List.range r.n).filter r.quad).length

/-- The elements of a CURVE (R106): k remain from element i, delta d, current point (x, y). -/
def Rec.curveGo (r : Rec) : Nat → Nat → Nat → Int → Int → List Elem
  | 0, _, _, _, _ => []
  | k + 1, i, d, x, y =>
    let o := 4 + r.kindWords
    if r.quad i then
      let cx := x + r.delta o d
      let cy := y + r.delta o (d + 1)
      let e : Elem := ⟨true, cx, cy, cx + r.delta o (d + 2), cy + r.delta o (d + 3)⟩
      e :: r.curveGo k (i + 1) (d + 4) e.ex e.ey
    else
      let e : Elem := ⟨false, 0, 0, x + r.delta o d, y + r.delta o (d + 1)⟩
      e :: r.curveGo k (i + 1) (d + 2) e.ex e.ey

/-- Straight elements through points. -/
def straights (ps : List (Int × Int)) : List Elem := ps.map fun p => ⟨false, 0, 0, p.1, p.2⟩

/-- A figure record as an outline in its own coordinates: start point and elements. -/
def Rec.outline (r : Rec) : (Int × Int) × List Elem :=
  let x := r.ax 1
  let y := r.ay 1
  if r.type = 0x10 then
    let w : Int := bits (r.w 4) 23 0
    let h : Int := bits (r.w 5) 23 0
    ((x, y), straights [(x + w, y), (x + w, y + h), (x, y + h)])
  else if r.type = 0x11 then ((x, y), straights (r.trapPts.drop 1))
  else if r.type = 0x12 then ((x, y), straights (r.polyGo r.manh (r.n - 1) 0 x y))
  else ((x, y), r.curveGo r.n 0 0 x y)

/-- The points of a figure's bounding box (R108). -/
def outlinePts (o : (Int × Int) × List Elem) : List (Int × Int) :=
  o.1 :: o.2.flatMap fun e => if e.quad then [(e.cx, e.cy), (e.ex, e.ey)] else [(e.ex, e.ey)]

/-- A record is a figure. -/
def Rec.isFig (r : Rec) : Bool := 0x10 ≤ r.type && r.type ≤ 0x13

/-- The cell that a PLACE or ARRAY names, its orientation, and the repetitions of an ARRAY (R98, R99). -/
def Rec.cell (r : Rec) : Nat := bits (r.w 1) 19 0
def Rec.ori (r : Rec) : Nat := bits (r.hi 2) 2 0
def Rec.nx (r : Rec) : Nat := if r.type = 0x09 then bits (r.w 8) 23 0 + 1 else 1
def Rec.ny (r : Rec) : Nat := if r.type = 0x09 then bits (r.w 9) 23 0 + 1 else 1
def Rec.px (r : Rec) : Int := if r.type = 0x09 then r.ax 5 else 0
def Rec.py (r : Rec) : Int := if r.type = 0x09 then r.ay 5 else 0

/-- Instance (i, j) of a placement. -/
def Rec.inst (r : Rec) (i j : Nat) : Xform := ⟨r.ori, r.ax 2 + i * r.px, r.ay 2 + j * r.py⟩

/-- A cell of a layout's index. -/
def Interp.cellOf (x : Interp) (n : Nat) : Option CellInfo := x.cells.find? fun c => c.num == n

/-- The box of a record (R108); none for a placement of an empty cell. -/
def Rec.bbox (r : Rec) (ix : Interp) : Option Box :=
  if r.isFig then boxOf (outlinePts r.outline)
  else match ix.cellOf r.cell with
    | none => none
    | some c =>
      if c.body = 0 then none
      else
        let b (i j : Nat) : List (Int × Int) :=
          let q := (r.inst i j).box c.box
          [(q.xl, q.yl), (q.xu, q.yu)]
        boxOf (b 0 0 ++ b (r.nx - 1) 0 ++ b 0 (r.ny - 1) ++ b (r.nx - 1) (r.ny - 1))

/-! ### The walk (R133 to R140) -/

/-- The strict test of R133. -/
def Box.meets (b t : Box) : Bool := decide (b.xl < t.xu) && decide (t.xl < b.xu) && decide (b.yl < t.yu) && decide (t.yl < b.yu)

/-- The indices i below n for which [lo + i p, hi + i p] passes the strict test against [t0, t1) (R134). -/
def passRange (n : Nat) (p lo hi t0 t1 : Int) : List Nat :=
  let first : Int := if 0 < p then (t0 - hi) / p + 1 else if p < 0 then (lo - t1) / (-p) + 1 else 0
  let last : Int := if 0 < p then ceilDivI (t1 - lo) p - 1 else if p < 0 then ceilDivI (hi - t0) (-p) - 1 else (n : Int) - 1
  let a := (max first 0).toNat
  let b := (min last ((n : Int) - 1) + 1).toNat
  if p = 0 ∧ !(decide (lo < t1) && decide (t0 < hi)) then [] else (List.range (b - a)).map fun i => a + i

/-- What a walk has found and what it costs: figures, placement instances, failed records, passing arrays, and the
byte ranges of the stream that it read. -/
structure Walk where
  figs  : List Fig := []
  inst  : Nat := 0
  fails : Nat := 0
  arrs  : Nat := 0
  reads : List (Nat × Nat) := []
  deriving DecidableEq, Repr

/-- Note a record that has been read. -/
def Walk.read (k : Walk) (r : Rec) : Walk := { k with reads := k.reads ++ [(r.ofs, 4 * r.len)] }

/-- A figure through a placement, from the segment's corner (x0, y0). -/
def Rec.fig (r : Rec) (t : Xform) (x0 y0 : Int) : Fig :=
  let o := r.outline
  let m (x y : Int) : Int × Int := ((t.pt x y).1 - x0, (t.pt x y).2 - y0)
  { dclass := r.arg, type := r.type, x0 := (m o.1.1 o.1.2).1, y0 := (m o.1.1 o.1.2).2,
    elems := o.2.map fun e => ⟨e.quad, (m e.cx e.cy).1, (m e.cx e.cy).2, (m e.ex e.ey).1, (m e.ex e.ey).2⟩ }

/-- The instances of a placement that pass, in ascending j and within j ascending i (R134). -/
def Rec.passing (r : Rec) (t : Xform) (b target : Box) : List (Nat × Nat) :=
  let q := (t.comp (r.inst 0 0)).box b
  let vi := orient t.o r.px 0
  let vj := orient t.o 0 r.py
  let is := if vi.2 = 0 then passRange r.nx vi.1 q.xl q.xu target.xl target.xu
    else passRange r.nx vi.2 q.yl q.yu target.yl target.yu
  let js := if vj.1 = 0 then passRange r.ny vj.2 q.yl q.yu target.yl target.yu
    else passRange r.ny vj.1 q.xl q.xu target.xl target.xu
  js.flatMap fun j => is.map fun i => (i, j)

/-- Walk the records of a cell or bin; `fuel` is the depth left (R96, R133). -/
def State.walkRecs (s : State) (l : Layout) (target : Box) (x0 y0 : Int) : Nat → Xform → List Rec → Walk → Walk
  | 0, _, _, k => k
  | fuel + 1, t, rs, k0 =>
    rs.foldl (fun k r =>
      let k := k.read r
      match r.bbox l.index with
      | none => { k with fails := k.fails + 1 }
      | some b =>
        if !(t.box b).meets target then { k with fails := k.fails + 1 }
        else if r.isFig then { k with figs := k.figs ++ [r.fig t x0 y0] }
        else match l.index.cellOf r.cell with
          | none => k
          | some c =>
            let body := s.layBody l (l.bytes / 4) (c.ofs + 32)
            let k1 := if r.type = 0x09 then { k with arrs := k.arrs + 1 } else k
            (r.passing t c.box target).foldl (fun k ij =>
              s.walkRecs l target x0 y0 fuel (t.comp (r.inst ij.1 ij.2)) body { k with inst := k.inst + 1 }) k1) k0

/-- The bins that a target box asks for (R133): the number visited, and those the stream holds. -/
def Layout.binsFor (l : Layout) (target : Box) : Nat × List BinInfo :=
  match l.index.top with
  | none => (0, [])
  | some g =>
    let sd : Int := 64 * 2 ^ g.log
    let rx := (l.index.bins.map BinInfo.rx).foldl max 0
    let ry := (l.index.bins.map BinInfo.ry).foldl max 0
    let c0 := (target.xl - g.gx) / sd
    let c1 := (target.xu - 1 - g.gx) / sd
    let r0 := (target.yl - g.gy) / sd
    let r1 := (target.yu - 1 - g.gy) / sd
    let nx := (min c1 ((g.nbx : Int) - 1) - max 0 (c0 - rx) + 1).toNat
    let ny := (min r1 ((g.nby : Int) - 1) - max 0 (r0 - ry) + 1).toNat
    (nx * ny, (l.index.bins.reverse.filter fun b =>
      decide (c0 ≤ (b.bx : Int) + rx) && decide ((b.bx : Int) ≤ c1) && decide (r0 ≤ (b.by' : Int) + ry) && decide ((b.by' : Int) ≤ r1)))

/-- The walk of a target box (R133), figures relative to (x0, y0); and the bins visited. -/
def State.walk (s : State) (l : Layout) (target : Box) (x0 y0 : Int) : Walk × Nat :=
  let bs := l.binsFor target
  (bs.2.foldl (fun k b => s.walkRecs l target x0 y0 32 Xform.id (s.layBody l (l.bytes / 4) (b.ofs + 12))
    { k with reads := k.reads ++ [(b.ofs, 12)] }) {}, bs.1)

/-- The box of a figure (R108). -/
def Fig.box (f : Fig) : Box :=
  (boxOf (outlinePts ((f.x0, f.y0), f.elems))).getD ⟨f.x0, f.y0, f.x0, f.y0⟩

/-- A box extended on every side (R199). -/
def Box.grow (b : Box) (e : Int) : Box := ⟨b.xl - e, b.yl - e, b.xu + e, b.yu + e⟩

/-- By how much a layout's bands, tile blocks and tiles are extended in the box tests (R199). -/
def srExt (sr : Bool) : Int := if sr then 128 else 0

/-- The tile blocks (column, row) of a segment of side n blocks that a figure's box meets (R135, R199), within rows r0
to r1 - 1. -/
def Fig.blocks (f : Fig) (sr : Bool) (n r0 r1 : Nat) : List (Nat × Nat) :=
  (List.range (r1 - r0)).flatMap fun i => ((List.range n).map fun c => (c, r0 + i)).filter fun b =>
    f.box.meets (Box.grow ⟨65536 * b.1, 65536 * b.2, 65536 * (b.1 + 1), 65536 * (b.2 + 1)⟩ (srExt sr))

/-- A figure's own list bytes (R138). -/
def Fig.bytes (f : Fig) : Nat :=
  if f.type = 0x10 then 16 else if f.type = 0x11 then 32
  else if f.type = 0x12 then 8 + 8 * (f.elems.length + 1)
  else 8 + 8 * (f.elems.length + (f.elems.filter Elem.quad).length)

/-- List bytes of a set of figures over rows r0 to r1 - 1 (R138). -/
def listBytes (figs : List Fig) (sr : Bool) (n r0 r1 : Nat) : Nat :=
  (figs.map fun f => f.bytes + 8 * (f.blocks sr n r0 r1).length).sum

/-- Clocks of a walk without its read term (R140). -/
def Walk.clocks (k : Walk) (sr : Bool) (bins n r0 r1 : Nat) : Nat :=
  let entries := (k.figs.map fun f => (f.blocks sr n r0 r1).length).sum
  3 * bins + 2 * k.fails + 12 * k.arrs + 6 * k.inst + 4 * k.figs.length + (entries - k.figs.length)

/-- Bytes a walk reads, each record once (R141). -/
def Walk.readBytes (k : Walk) : Nat := (k.reads.eraseDups.map Prod.snd).sum

/-- The clocks a band takes at most (R140). -/
def Walk.cost (k : Walk) (sr : Bool) (bins n r0 r1 : Nat) : Nat := max (k.clocks sr bins n r0 r1) (k.readBytes / 4)

/-! ### Bands and segments -/

/-- The mask box of segment q of a stripe, in database units (R125). -/
def segBox (k stripe q : Nat) : Box :=
  let w : Int := 512 * k * 64
  ⟨stripe * w, q * w, (stripe + 1) * w, (q + 1) * w⟩

/-- The tile-block rows [r0, r1) of a band, from the segment's lower edge (R139). -/
def bandRows (dir k : Nat) (b : Nat × Nat) : Nat × Nat :=
  if dir = 0 then (b.1, b.1 + b.2) else (k / 2 - b.1 - b.2, k / 2 - b.1)

/-- The mask box of rows [r0, r1) of a segment, extended where the map has SR = 1 (R199). -/
def rowsBox (sr : Bool) (k stripe q r0 r1 : Nat) : Box :=
  let b := segBox k stripe q
  Box.grow ⟨b.xl, b.yl + 65536 * r0, b.xu, b.yl + 65536 * r1⟩ (srExt sr)

end Sys2Proof.Machine
end

