-- ==== Sys2Proof/Machine/Alc.lean ====
section
/-!
DEFINITION. Beam allocation (chapter 9): the itineraries, the beam table and its banks, the quantiser of one tick, and
the meanings of the allocator's commands.
-/
namespace Sys2Proof.Machine

open Sys2Proof (Agent AlcUpset)

/-! ### Tables (R208, R209, R213, R214, R23) -/

/-- Itinerary i is named by an armed waybill. -/
def State.itinNamed (s : State) (i : Nat) : Bool := s.armed.any fun w => w.itin == i

/-- Write word r of itinerary i (R208, R209); the write is discarded while an armed waybill names i. The first part tells
whether it landed. -/
def State.itinStore (s : State) (i r v : Nat) : Bool × State :=
  if s.itinNamed i then (false, s.raise pALC 31) else (true, s.wr (Reg.itin i r) (v &&& 0x73F))

/-- ITINERARY_WRITE (R208, R209): word r of itinerary i. -/
def execItineraryWrite (agent : Agent) (i r : Nat) (value : Word) (s : State) : Host.Outcome State Fault Refusal :=
  if 16 ≤ i ∨ 512 ≤ r then done s
  else done (s.access agent pALC fun s => (s.itinStore i r value.toNat).2)

/-- The value of an entry's word is reserved (R213). -/
def btReserved (w v : Nat) : Bool := if w = 0 then decide (v % 65536 < 0x1000) else decide (v / 2 ^ 30 = 3)

/-- The bits of an entry's word that exist (R213). -/
def btMask (w : Nat) : Nat := if w = 0 then 0x3FFFF else 0xC0FFFFFF

/-- Write word 0, word 1 or both words of a beam's entry into the staging bank (R213, R214). A write of one word reads the
entry for its check bits. The first part tells whether the write landed. -/
def State.btStore (s : State) (beam : Nat) (word0 word1 : Option Nat) : Bool × State :=
  let bad := (match word0 with | some v => btReserved 0 v | none => false) ||
    (match word1 with | some v => btReserved 1 v | none => false)
  if !s.bit Reg.ALC_BT_STAT_WRITABLE || bad then (false, s.raise pALC 31)
  else
    let bank := 1 - s.rd Reg.ALC_BT_STAT_ACTIVE
    let s := if word0.isNone || word1.isNone then s.btInject else s
    let t := match word0 with | some v => s.wr (Reg.btWord bank beam 0) (v &&& btMask 0) | none => s
    (true, match word1 with | some v => t.wr (Reg.btWord bank beam 1) (v &&& btMask 1) | none => t)

/-- BEAM_TABLE_WRITE (R213, R214): word 0, word 1 or both words of a beam's entry. -/
def execBeamTableWrite (agent : Agent) (beam : Nat) (word0 word1 : Option Word) (s : State) :
    Host.Outcome State Fault Refusal :=
  if 262144 ≤ beam then done s
  else done (s.access agent pALC fun s => (s.btStore beam (word0.map BitVec.toNat) (word1.map BitVec.toNat)).2)

/-- What a write of SWAP does (R214). -/
def State.swap (s : State) : State :=
  if s.bit Reg.ALC_BT_STAT_SWAP_PEND then s
  else if s.bit Reg.ALC_BT_STAT_WRITABLE then (s.wr Reg.ALC_BT_STAT_SWAP_PEND 1).bankShow
  else s.raise pALC 31

/-- SWAP (R214). -/
def execSwap (agent : Agent) (s : State) : Host.Outcome State Fault Refusal := done (s.access agent pALC State.swap)

/-- CANCEL (R214). -/
def execCancel (agent : Agent) (s : State) : Host.Outcome State Fault Refusal :=
  done (s.access agent pALC fun s => (s.wr Reg.ALC_BT_STAT_SWAP_PEND 0).bankShow)

/-- Copy one bank of the beam table over the other. -/
def State.copyBank (s : State) (src dst : Nat) : State :=
  let base (b : Nat) : Nat := 32 * (0x5000000 + 0x200000 * b)
  let inBank (b : Nat) (e : Nat × Nat) : Bool := decide (base b ≤ e.1) && decide (e.1 < base b + 32 * 0x200000)
  let kept := s.regs.filter fun e => !inBank dst e
  { s with regs := (s.regs.filter (inBank src)).foldl (fun r e => FieldStore.put (e.1 + base dst - base src) e.2 r) kept }

/-- BANK_COPY_COMPLETE (R214): the former ACTIVE bank holds what ACTIVE holds. -/
def execBankCopyComplete (s : State) : Host.Outcome State Fault Refusal :=
  if s.bit Reg.ALC_BT_STAT_COPYING ∧ s.inReset pALC = false then
    let a := s.rd Reg.ALC_BT_STAT_ACTIVE
    done ((((s.btInject.copyBank a (1 - a)).wr Reg.ALC_BT_STAT_COPYING 0).raise pALC 8).bankShow)
  else done s

/-- SLOTS_SET: SLOTS, or the largest number that fits the stripe buffer (R23). -/
def State.slotsFit (s : State) : Nat :=
  min (s.rd Reg.ALC_GEOM_SLOTS) (s.rd Reg.MEM_REGION_SB_GIB * gib / slotSize s.kBeam)

/-- Recompute SLOTS_SET; a clip raises the configuration event (R23, R230). -/
def State.slotsShow (s : State) : State :=
  let t := s.wr Reg.ALC_GEOM_SLOTS_SET s.slotsFit
  if s.slotsFit < s.rd Reg.ALC_GEOM_SLOTS then t.raise pALC 0 else t

/-- A write of ALC_GEOM (R23, R65, R66, R230). -/
def State.geomWrite (s : State) (v : Nat) : State :=
  let slots := bits v 13 8
  let klog := bits v 2 0
  if slots < 2 ∨ 48 < slots ∨ klog < 2 ∨ 6 < klog then s.raise pALC 31
  else if s.running pALC then
    s.raiseIf (slots != s.rd Reg.ALC_GEOM_SLOTS || klog != s.rd Reg.ALC_GEOM_KLOG) pALC 31
  else ((s.wr Reg.ALC_GEOM_SLOTS slots).wr Reg.ALC_GEOM_KLOG klog).slotsShow

/-- ALC_GEOM_WRITE (R23, R230). -/
def execAlcGeomWrite (agent : Agent) (value : Word) (s : State) : Host.Outcome State Fault Refusal :=
  done (s.access agent pALC fun s => s.geomWrite value.toNat)

/-! ### The plan of a stripe (R210, R212, R220) -/

/-- Lag of a row in a stripe (R210). -/
def State.rowLag (s : State) (w : Waybill) (p : Plan) (r : Nat) : Nat := lag w.dir p.k p.a r (s.itinOY w.itin r)

/-- The class of a row: OX and residue (R210). -/
def State.rowClass (s : State) (w : Waybill) (p : Plan) (r : Nat) : Nat × Nat :=
  (s.itinOX w.itin r, s.rowLag w p r % p.a)

/-- The rows of a beam's class whose beam in its column is present (R220). -/
def State.presentRows (s : State) (w : Waybill) (p : Plan) (r c : Nat) : List Nat :=
  (List.range 512).filter fun q => s.rowClass w p q == s.rowClass w p r && !s.btAbsent p.bank p.weakAbs (512 * q + c)

/-- rank[b] and present[b] (R212, R220). -/
def State.rankOf (s : State) (w : Waybill) (p : Plan) (r c : Nat) : Nat × Nat :=
  let rows := s.presentRows w p r c
  let l := s.rowLag w p r
  ((rows.filter fun q => decide (s.rowLag w p q < l) || (s.rowLag w p q == l && decide (q < r))).length, rows.length)

/-! ### One tick (R216 to R219) -/

/-- A value of a sparse table; 0 where nothing is listed. -/
def look (l : List (Nat × Nat)) (b : Nat) : Nat := codeOf l b

/-- A carry; 0 where nothing is listed. -/
def lookI (l : List (Nat × Int)) (b : Nat) : Int := ((l.find? fun e => e.1 == b).map Prod.snd).getD 0

/-- A beam's request in one tick, before the group stage. -/
structure Request where
  b    : Nat
  x    : Int
  c1   : Nat
  j    : Option Nat            -- the segment of its pixel; none where no pixel is read
  qsat : Bool := false
  blim : Bool := false
  deriving DecidableEq, Repr

/-- share_j of R216. -/
def shareOf (tau j m : Nat) : Nat := tau * (j + 1) / m - tau * j / m

/-- The dither of R218, in 2^-36 code. -/
def ditherOf (damp h : Nat) : Int := ((h / 2 ^ 16 : Nat) - 32768 : Int) * damp * 4096

/-- The slot that holds segment j of a stripe, if it is valid (R131). -/
def State.segSlot (s : State) (wseq j : Nat) : Option Nat :=
  (s.ing.travellers.find? fun t => t.state != .free && !t.survey && t.wseq == wseq && t.j == j && t.valid).bind Traveller.slot

/-- The pixel row that row r's beams are over at tick t; none outside the stripe (R210). -/
def State.rowPixel (s : State) (w : Waybill) (p : Plan) (t r : Nat) : Option Nat :=
  let l := s.rowLag w p r
  if l ≤ p.a * t ∧ p.a * t - l < w.length then some (p.a * t - l) else none

/-- First half of R217 for one beam. -/
def State.request (s : State) (w : Waybill) (p : Plan) (t : Nat) (wsum : List (Nat × Nat)) (b : Nat) : Request :=
  let r := b / 512
  let c := b % 512
  let carry := lookI s.alc.carry b
  match s.rowPixel w p t r with
  | none => { b := b, x := carry, c1 := 0, j := none }
  | some v =>
    if s.btAbsent p.bank p.weakAbs b then { b := b, x := carry, c1 := 0, j := none }
    else
      let u := p.k * c + s.itinOX w.itin r
      let j := v / p.w
      let e := s.hbmVal (s.slotAddr p.k ((s.segSlot w.seq j).getD 0) u (v % p.w)) 2
      let rk := s.rankOf w p r c
      let x : Int := (shareOf (e * p.full) rk.1 rk.2 * s.btGain p.bank b : Nat) + carry
      let d := if p.damp = 0 then 0
        else ditherOf p.damp (ditherHash p.dseed (w.stripe * p.w + u) (w.maskRow p.w v) rk.1)
      let q := rhe (x + d) (2 ^ 36)
      let c0 := min (max q 0).toNat (2 ^ p.n - 1)
      let c1 := min c0 (p.dutyBeam - look wsum b)
      { b := b, x := x, c1 := c1, j := some j, qsat := decide (((2 ^ p.n - 1 : Nat) : Int) < q), blim := decide (c1 < c0) }

/-- What the group stage makes of one beam: its code, its new carry, and whether GLIM or CARRY acted. -/
structure Result where
  b     : Nat
  code  : Nat
  carry : Int
  j     : Option Nat
  qsat  : Bool
  blim  : Bool
  glim  : Bool
  clamp : Bool
  deriving DecidableEq, Repr

/-- Second half of R217 for one row group. -/
def groupStage (n lim gsum : Nat) (rs : List Request) : List Result :=
  let sum := (rs.map Request.c1).sum
  let bud := lim - gsum
  rs.map fun r =>
    let code := if bud < sum then r.c1 * bud / sum else r.c1
    let raw : Int := r.x - (code : Int) * 2 ^ 36
    let hi : Int := ((2 ^ n - 1 : Nat) : Int) * 2 ^ 36
    { b := r.b, code := code, carry := min (max raw (-(2 ^ 36))) hi, j := r.j, qsat := r.qsat, blim := r.blim,
      glim := decide (code < r.c1), clamp := decide (hi < raw) }

/-- The codes, carries and events of one tick, over the 64 row groups (R217). -/
def State.tickResults (s : State) (w : Waybill) (p : Plan) (t : Nat) : List Result :=
  let wsum := if t % 1024 = 0 then [] else s.alc.wsum
  let gsum := if t % 64 = 0 then [] else s.alc.gsum
  (List.range 64).flatMap fun g =>
    groupStage p.n p.dutyGrp (look gsum g) ((List.range 4096).map fun i => s.request w p t wsum (4096 * g + i))

/-- Count an event of R219 against its segment, in its counter and in EVT_RAW. -/
def State.countEvent (s : State) (wseq : Nat) (rs : List Result) (f : Result → Bool) (cnt : Fld) (bit : Nat)
    (upd : SegCounts → Nat → SegCounts) : State :=
  let hit := rs.filter f
  if hit.isEmpty then s
  else
    let t := (s.wrapInc cnt hit.length).raise pALC bit
    let js := (hit.filterMap Result.j).eraseDups
    js.foldl (fun u j => u.modSeg wseq j fun c => upd c (hit.filter fun r => r.j == some j).length) t

/-- The held state after a tick (R217, R219, R228). -/
def State.takeTick (s : State) (w : Waybill) (p : Plan) (t : Nat) : State :=
  let rs := s.tickResults w p t
  let wsum := if t % 1024 = 0 then [] else s.alc.wsum
  let gsum := if t % 64 = 0 then [] else s.alc.gsum
  let s1 := s.countEvent w.seq rs Result.qsat Reg.ALC_CNT_QSAT_COUNT 4 fun c k => { c with qsat := c.qsat + k }
  let s2 := s1.countEvent w.seq rs Result.blim Reg.ALC_CNT_BLIM_COUNT 5 fun c k => { c with blim := c.blim + k }
  let s3 := s2.countEvent w.seq rs Result.glim Reg.ALC_CNT_GLIM_COUNT 6 fun c k => { c with glim := c.glim + k }
  let s4 := s3.countEvent w.seq rs Result.clamp Reg.ALC_CNT_CARRY_COUNT 7 fun c k => { c with carry := c.carry + k }
  { s4.wr Reg.ALC_TICK_TICK t with
    alc := { s4.alc with
      next := t + 1
      carry := (rs.filter fun r => r.carry != 0).map fun r => (r.b, r.carry)
      wsum := (rs.filter fun r => look wsum r.b + r.code != 0).map fun r => (r.b, look wsum r.b + r.code)
      gsum := (List.range 64).map fun g =>
        (g, look gsum g + ((rs.filter fun r => r.b / 4096 == g).map Result.code).sum)
      codes := s4.alc.codes ++ [(t, (rs.filter fun r => r.code != 0).map fun r => (r.b, r.code))] } }

/-! ### Data (R131, R226) -/

/-- The segments whose pixels tick t reads. -/
def State.tickSegs (s : State) (w : Waybill) (p : Plan) (t : Nat) : List Nat :=
  (((List.range 512).filterMap fun r => s.rowPixel w p t r).map fun v => v / p.w).eraseDups

/-- The 1,024 bytes that row r's beams read at tick t (R215): segment and HBM address. -/
def State.rowRead (s : State) (w : Waybill) (p : Plan) (t r : Nat) : Option (Nat × Nat) :=
  (s.rowPixel w p t r).bind fun v =>
    (s.segSlot w.seq (v / p.w)).map fun slot => (v / p.w, s.slotAddr p.k slot (s.itinOX w.itin r) (v % p.w))

/-- The segment in which tick t meets poison (R226). -/
def State.tickPoison (s : State) (w : Waybill) (p : Plan) (t : Nat) : Option Nat :=
  (((List.range 512).filterMap (s.rowRead w p t)).find? fun e => s.poisoned e.2 1024).map Prod.fst

/-- The allocator has read the last pixel of segment j once it has computed tick t (R131). -/
def State.segRead (s : State) (w : Waybill) (p : Plan) (t j : Nat) : Bool :=
  (List.range 512).all fun r => decide (min ((j + 1) * p.w) w.length + s.rowLag w p r ≤ p.a * (t + 1))

/-- Travellers as tick t has read them: BUFFERED becomes DRAINING, and the last pixel is noted. -/
def State.readMarks (s : State) (w : Waybill) (p : Plan) (t : Nat) : State :=
  let js := s.tickSegs w p t
  { s with ing := { s.ing with travellers := s.ing.travellers.map fun v =>
    if v.state != .free && !v.survey && v.wseq == w.seq then
      let u := if js.contains v.j && v.state == .buffered then { v with state := .draining, firstRead := true } else v
      if u.state == .draining && s.segRead w p t v.j then { u with lastRead := true } else u
    else v } }

/-- ING_WB_SEG: the segment that the pixel rows of least lag have reached (R148). -/
def State.showSeg (s : State) (w : Waybill) (p : Plan) (t : Nat) : State :=
  let j := min (p.a * t / p.w) (nSegs w.length p.k - 1)
  { s.wr Reg.ING_WB_SEG_SEG (w.segIndex j) with ing := { s.ing with curSeg := j } }

/-- The ticks that may be computed now: up to 10 beyond the latest one launched, while nothing has failed (R225, R226,
R228). -/
def State.canCompute (s : State) (w : Waybill) (p : Plan) (t : Nat) : Bool :=
  s.live pALC && !s.alc.stopped && !s.alc.abandonRel && !s.alc.planLost && decide (t < nTicks w.length p.k p.a) && decide (t < p.launched + 10) &&
    (s.tickSegs w p t).all fun j => (s.segSlot w.seq j).isSome

/-- The allocator can compute no further tick of the stripe (R225, R226). -/
def State.allocFails (s : State) (bit t : Nat) : State :=
  let u := s.setFault pALC bit
  ({ u with alc := { u.alc with stopped := true } }).halt rALLOC t

/-- Compute tick t from valid data. -/
def State.computeTick (s : State) (w : Waybill) (p : Plan) (t : Nat) : State :=
  ((s.takeTick w p t).readMarks w p t).showSeg w p t

/-- The upset of this tick: what the surroundings do, or an armed injection on the second copy's code (R230). -/
def State.alcUpset (s : State) (u : AlcUpset) : AlcUpset × State :=
  if s.bit (Hdr.injArm pALC) && s.rd (Hdr.injTarget pALC) == 1 && u == .none then
    (if bits (s.rd (Hdr.injFlip pALC)) 5 0 = 0 then .none else .mismatch, s.wr (Hdr.injArm pALC) 0)
  else (u, s)

/-- TICK_COMPUTE (R217, R225, R226, R228). -/
def execTickCompute (upset : AlcUpset) (s : State) : Host.Outcome State Fault Refusal :=
  match s.cur with
  | none => done s
  | some (w, p) =>
    let t := s.alc.next
    if !s.canCompute w p t then done s
    else match s.tickPoison w p t with
      | some j => done (((s.raise pALC 3).halt rPOISON t).markRecompute w.seq j)
      | none =>
        let su := (s.btInject.alcUpset upset).2
        match (s.btInject.alcUpset upset).1 with
        | .none => done (su.computeTick w p t)
        | .mismatch => done (((su.raise pALC 2).satInc Reg.ALC_CNT_RETRY_RETRIES 1).computeTick w p t)
        | .mismatchTwice => done (((su.raise pALC 2).satInc Reg.ALC_CNT_RETRY_RETRIES 1).allocFails 0 t)
        | .restored => done ((su.raise pALC 9).computeTick w p t)
        | .stateLost => done (su.allocFails 1 t)
        | .planLost => done { su with alc := { su.alc with planLost := true } }

/-- PLAN_REBUILD (R226): plan words are rebuilt from the itinerary and the bank. -/
def execPlanRebuild (s : State) : Host.Outcome State Fault Refusal :=
  done (if s.alc.planLost ∧ s.live pALC then { s with alc := { s.alc with planLost := false } } else s)

/-- ALLOCATOR_RESET_ABANDON (R525): with the page released, the second armed waybill is removed and the current stripe
abandoned, in WAITING or before its first tick. -/
def execAllocatorResetAbandon (s : State) : Host.Outcome State Fault Refusal :=
  match s.cur with
  | none => done { s with alc := { s.alc with abandonRel := s.alc.abandonRel && s.inReset pALC } }
  | some (_, p) =>
    if s.alc.abandonRel ∧ s.inReset pALC = false ∧ (s.hstate = hWAITING ∨ p.launched = 0) then
      let t := ({ s with alc := { s.alc with abandonRel := false } } : State).dropSecond
      done (t.abandon (if p.launched = 0 then 0 else t.mot.hTick))
    else done s

end Sys2Proof.Machine
end

