-- ==== Sys2Proof/Machine/Mot.lean ====
section
/-!
DEFINITION. The meanings of the motion commands (chapters 10 and 11): position samples, deflection words, tick edges,
setpoints, host moves, halts and abandonment. Times are in 1/16 ns.
-/
namespace Sys2Proof.Machine

open Sys2Proof (Agent)

/-! ### Deflection words (R247) -/

/-- X_ref, and whether a word launched at a time is ACTIVE (R247). -/
def State.activeRef (s : State) (τ : Int) : Option Int :=
  match s.cur with
  | some (w, p) =>
    if 0 < p.launched ∧ p.launched < nTicks w.length p.k p.a then some (xRef w p.k p.g s.orgX)
    else s.mot.actRef.bind fun e => if τ ≤ e.2 then some e.1 else none
  | none => s.mot.actRef.bind fun e => if τ ≤ e.2 then some e.1 else none

/-- Send one deflection word; a quad that is not locked sends electrical idle (R432). -/
def State.sendWord (s : State) (τ dx dy : Int) (flags : Nat) : State :=
  (if s.islandLocked 40 then s.emit (.deflection (deflectionWord s.mot.dtxSeq dx dy flags)) else s).modMot fun m =>
    { m with dtxSeq := (m.dtxSeq + 1) % 256, lastWord := τ }

/-- The word launched at a time (R247). -/
def State.deflect (s : State) (τ : Int) : State :=
  if s.safeMode ∨ s.rd Reg.MOT_DEFL_ENABLE = 0 ∨ s.posLive = false then s.sendWord τ 0 0 8
  else match s.activeRef τ with
    | none => s.sendWord τ 0 0 0
    | some x =>
      let lim : Int := s.rd Reg.MOT_DEFL_LIM
      let dx := x - (s.estimate τ).1
      let dy := s.mot.residual.getD 0
      let clamped := decide (dx < -lim) || decide (lim < dx) || decide (dy < -lim) || decide (lim < dy)
      let flags := 1 + (if s.posState = psHOLDOVER then 2 else 0) + (if clamped then 4 else 0)
      let t := s.sendWord τ (max (-lim) (min lim dx)) (max (-lim) (min lim dy)) flags
      if clamped then ((t.satInc Reg.MOT_CNT_5_DCLAMP 1).raise pMOT 6).stopRequest rDCLAMP else t

/-! ### Position samples (R235 to R241) -/

/-- The fields of a position frame, characters 1 to 21 (R233). -/
structure PosFrame where
  type   : Nat
  seq    : Nat
  x      : Int
  y      : Int
  status : Nat
  zero   : Nat
  crcOk  : Bool
  body   : List Byte
  deriving DecidableEq, Repr

/-- Read a frame's characters. -/
def posFrame (f : List Byte) : PosFrame :=
  { type := leAt f 0 1, seq := leAt f 1 2, x := sx 48 (leAt f 3 6), y := sx 48 (leAt f 9 6), status := leAt f 15 1,
    zero := leAt f 16 1, crcOk := f.length == 21 && crc32c.of (f.take 17) == leAt f 17 4, body := f }

/-- Everything but VALID_X and VALID_Y is as R235 asks. -/
def PosFrame.formOk (f : PosFrame) : Bool := f.crcOk && f.type == 0x50 && f.zero == 0 && bits f.status 7 4 == 0

/-- VALID_X and VALID_Y are both 1. -/
def PosFrame.valid (f : PosFrame) : Bool := f.status % 4 == 3

/-- The lane is used and locked (R231, R234). -/
def State.laneUsed (s : State) (lane : Nat) : Bool :=
  let m := s.rd Reg.MOT_PORT_RXMODE
  (m == 0 || m == lane + 1) && (s.rd Reg.MOT_POS_STAT_LOCK).testBit lane

/-- A discard (R235, R237). -/
def State.smpDiscard (s : State) (counter : Fld) : State :=
  ((s.satInc counter 1).raise pMOT 2).modMot fun m => { m with acq := if s.posState = psACQUIRING then 0 else m.acq }

/-- The two lanes' copies differ (R235). -/
def State.disagree (s : State) : State :=
  (((s.setFault pMOT 1).raise pMOT 3).modMot fun m => { m with equalRun := 0 }).posLost

/-- The sample's time (R236); none where it is discarded as stale. The flag says that TIMING counts it. -/
def State.smpTime (s : State) (prev : Sample) (d : Nat) (arrival : Int) : Option (Int × Bool) :=
  let p := prev.time + 800 * d
  let r := arrival - s.slat - p
  if r.natAbs ≤ s.lateLim.toNat then some (p + rhe r 16, false)
  else if r.natAbs ≤ 4 * s.lateLim.toNat then some (p, true)
  else none

/-- The registers that show an accepted sample (R250). -/
def State.showSample (s : State) (k : Sample) : State :=
  let vy : Int := match s.velBase with
    | some (a, b) => rhe ((a.y - b.y) * 4096 * 16000) (a.time - b.time)
    | none => 0
  s.wrs [(Reg.MOT_POS_STAT_LANE, k.lane), (Reg.MOT_POS_STAT_SEQ, k.seq),
    (Reg.MOT_POS_X_LO_POS, enc 32 k.x), (Reg.MOT_POS_X_HI_POS, enc 48 k.x / 2 ^ 32),
    (Reg.MOT_POS_Y_LO_POS, enc 32 k.y), (Reg.MOT_POS_Y_HI_POS, enc 48 k.y / 2 ^ 32),
    (Reg.MOT_VEL_Y_VEL, enc 32 vy), (Reg.MOT_SMP_TS_LO_TS, enc 32 k.arrival), (Reg.MOT_SMP_TS_HI_TS, enc 64 k.arrival / 2 ^ 32)]

/-- Compare an accepted sample with the high-water position (R240). -/
def State.hysteresis (s : State) (w : Waybill) (y : Int) : State :=
  if s.suppressed then s.modMot fun m => { m with high := none }
  else match s.mot.high with
    | none => s.modMot fun m => { m with high := some y }
    | some h =>
      if 0 ≤ w.sign * (y - h) then s.modMot fun m => { m with high := some y }
      else if -(s.rd Reg.MOT_TRIG_HYST : Int) ≤ w.sign * (y - h) then s.satInc Reg.MOT_CNT_2_JITTER 1
      else (((s.setFault pMOT 3).raise pMOT 4).modMot fun m => { m with reversal := true }).posLost

/-- The crossing time of a threshold from the estimate, on the 0.25 ns grid (R241). -/
def State.crossing (s : State) (w : Waybill) (thr : Int) : Option Int :=
  s.velBase.bind fun (k, j) =>
    let dy := w.sign * (k.y - j.y)
    if 0 < dy then some (4 * rhe (k.time * dy + w.sign * (thr - k.y) * (k.time - j.time)) (4 * dy)) else none

/-- What a sample shows of the first untriggered tick: that it is due, or when it will be (R240, R241). -/
def State.trigger (s : State) (w : Waybill) (p : Plan) : State :=
  let t := s.tickNext
  if !s.posLive || s.suppressed || decide (nTicks w.length p.k p.a ≤ t) || s.mot.committed.isSome then s
  else
    let thr := s.curThr w p t
    s.modMot fun m => { m with
      due := m.due || (match m.high with | some h => decide (0 ≤ w.sign * (h - thr)) | none => false),
      predicted := s.crossing w thr }

/-- The residual of the last edge, once two samples bracket it (R247). -/
def State.residualNow (s : State) : State :=
  match s.mot.resDone, s.mot.lastEdge, s.mot.samples with
  | false, some (_, at_, _, thr), b :: a :: _ =>
    if a.time ≤ at_ ∧ at_ ≤ b.time then
      let ε := thr - (a.y + rhe ((b.y - a.y) * (at_ - a.time)) (b.time - a.time))
      (s.modMot fun m => { m with resDone := true, residual := some ε }).wr Reg.MOT_EDGE_RES_EPS (enc 32 ε)
    else s
  | _, _, _ => s

/-- The position state after an accepted sample (R237); `d` is its SEQ distance. -/
def State.posNext (s : State) (d : Nat) : State :=
  let ps := s.posState
  if ps = psACQUIRING then
    let c := if d = 1 then s.mot.acq + 1 else 1
    let t := s.modMot fun m => { m with acq := c }
    if 64 ≤ c then t.posValid else t
  else if ps = psHOLDOVER then
    if d - 1 ≤ s.rd Reg.MOT_TRIG_MISS_LIM then s.posValid else s.posLost
  else s

/-- What the status bits and the limits ask of an accepted sample (R235, R246, R256). -/
def State.smpChecks (s : State) (k : Sample) : State :=
  let s1 := s.modMot fun m => { m with scFault := k.status.testBit 2, holding := k.status.testBit 3 }
  let s2 := if k.status.testBit 2 then (s1.setFault pMOT 2).posLost else s1
  let s3 := if s2.running pMOT ∧ s2.inLimits k.x k.y = false then (s2.setFault pMOT 4).stopRequest rVLIM else s2
  if k.status.testBit 3 ∧ s3.mot.writing then s3.stopRequest rSCHOLD else s3

/-- An accepted sample takes its place and its effect. -/
def State.smpAccept (s : State) (k : Sample) (d : Nat) (fresh : Bool) (dtxAt : Int) : State :=
  let s1 := s.modMot fun m => { m with
    samples := k :: (if fresh then [] else m.samples.take 32), stepRun := 0, gap := 0,
    acq := if fresh then 1 else m.acq }
  let s2 := if fresh then s1.wr Reg.MOT_POS_STAT_PSTATE psACQUIRING else s1.posNext d
  let s3 := (s2.showSample k).smpChecks k
  let s4 := match s3.cur with
    | some (w, p) => if s3.posLive then ((s3.hysteresis w k.y).trigger w p).residualNow else s3
    | none => s3
  (s4.deflect dtxAt).motShow

/-- A good copy judged against the sample before it (R235, R236). -/
def State.smpJudge (s : State) (lane : Nat) (f : PosFrame) (arrival dtxAt : Int) : State :=
  let mk (t : Int) : Sample := ⟨f.seq, f.x, f.y, f.status, arrival, t, lane⟩
  let fresh := s.posState = psNOLOCK ∨ s.posState = psLOST
  match s.mot.samples with
  | [] => s.smpAccept (mk (arrival - s.slat)) 1 true dtxAt
  | prev :: _ =>
    if fresh then s.smpAccept (mk (arrival - s.slat)) 1 true dtxAt
    else
      let d := (f.seq + 65536 - prev.seq) % 65536
      if d = 0 then
        if f.x = prev.x ∧ f.y = prev.y ∧ f.status = prev.status then s.smpDiscard Reg.MOT_CNT_2_REPEAT else s.disagree
      else if 32768 ≤ d then s.smpDiscard Reg.MOT_CNT_1_STALE
      else match s.smpTime prev d arrival with
        | none => s.smpDiscard Reg.MOT_CNT_1_STALE
        | some (t, timing) =>
          let s1 := if timing then s.satInc Reg.MOT_CNT_1_TIMING 1 else s
          let e := s1.estimate t
          let lim := s1.rd Reg.MOT_TRIG_STEP_LIM
          if lim < (f.y - e.2).natAbs ∨ lim < (f.x - e.1).natAbs then
            let s2 := (s1.smpDiscard Reg.MOT_CNT_3_STEP).modMot fun m => { m with stepRun := m.stepRun + 1 }
            if 3 ≤ s2.mot.stepRun then (s2.modMot fun m => { m with stepRun := 0 }).posLost else s2
          else (s1.satInc Reg.MOT_CNT_0_MISS (d - 1)).smpAccept (mk t) d false dtxAt

/-- The second copy of a sample is compared with the first (R235). -/
def State.smpSecond (s : State) (c : Copy) (f : PosFrame) (arrival : Int) : State :=
  let seen := s.modMot fun m => { m with copy := some { c with matched := true } }
  if 1600 < arrival - c.arrival then seen.smpDiscard Reg.MOT_CNT_1_STALE
  else if f.body = c.body then seen.modMot fun m => { m with equalRun := min 64 (m.equalRun + 1) }
  else seen.disagree

/-- A received copy (R235). -/
def State.sample (s : State) (lane : Nat) (arrival dtxAt : Int) (f : PosFrame) : State :=
  if !f.formOk then s.smpDiscard Reg.MOT_CNT_0_CRC
  else if !f.valid then s.smpDiscard Reg.MOT_CNT_0_MISS
  else
    let first (t : State) : State :=
      (t.modMot fun m => { m with
        copy := some ⟨f.seq, lane, f.body, arrival, false⟩,
        equalRun := match m.copy with | some c => if c.matched then m.equalRun else 0 | none => 0 }).smpJudge lane f arrival dtxAt
    match s.mot.copy with
    | some c =>
      if c.seq = f.seq ∧ c.lane ≠ lane ∧ c.matched = false then s.smpSecond c f arrival
      else if c.seq = f.seq then s.smpJudge lane f arrival dtxAt
      else first s
    | none => first s

/-- POSITION_SAMPLE (R233 to R241): characters 1 to 21 of a frame that has arrived on a lane; `dtxAt` is when the
deflection word made from it leaves. -/
def execPositionSample (lane : Nat) (arrival dtxAt : Int) (frame : List Byte) (s : State) :
    Host.Outcome State Fault Refusal :=
  done (if s.live pMOT && s.laneUsed lane then s.sample lane arrival dtxAt (posFrame frame) else s)

/-- DEFLECTION_WORD_TIMEOUT (R247): 60 ns after the last word, or every 50 ns in safe mode (R432). -/
def execDeflectionWordTimeout (now : Int) (s : State) : Host.Outcome State Fault Refusal :=
  done (if s.mot.lastWord + (if s.safeMode then 800 else 960) ≤ now then s.deflect now else s)

/-- With every used lane unlocked the position state is NO_LOCK, as LOST where it was VALID or HOLDOVER (R237). -/
def State.lanesChecked (s : State) : State :=
  if s.laneUsed 0 ∨ s.laneUsed 1 ∨ s.posState = psNOLOCK then s
  else (if s.posLive then s.posLost else s).wr Reg.MOT_POS_STAT_PSTATE psNOLOCK

/-- MOTION_LANE_LOCK_CHANGE (R231, R237). -/
def execMotionLaneLockChange (lane : Nat) (locked : Bool) (s : State) : Host.Outcome State Fault Refusal :=
  let old := s.rd Reg.MOT_POS_STAT_LOCK
  let new := if locked then setBit old lane else clrBit old lane
  if lane ≥ 2 ∨ new = old ∨ s.inReset pMOT then done s
  else done ((s.wr Reg.MOT_POS_STAT_LOCK new).raise pMOT 7).lanesChecked

/-- When the sample after the latest one is overdue (R237). -/
def State.overdue (s : State) (now : Int) (missed : Nat) : Bool :=
  match s.mot.samples with
  | k :: _ => decide (k.time + 800 * (missed + 1) + s.slat + 1200 ≤ now)
  | [] => false

/-- HOLDOVER (R237). -/
def execHoldover (now : Int) (s : State) : Host.Outcome State Fault Refusal :=
  done (if s.posState = psVALID ∧ s.overdue now 0 = true then
    (s.wr Reg.MOT_POS_STAT_PSTATE psHOLDOVER).modMot fun m => { m with gap := 1 } else s)

/-- HOLDOVER_MISS_LIMIT (R237): one more sample interval has passed, and with more than MISS_LIM the state is LOST. -/
def execHoldoverMissLimit (now : Int) (s : State) : Host.Outcome State Fault Refusal :=
  if s.posState = psHOLDOVER ∧ s.overdue now s.mot.gap = true then
    let t := s.modMot fun m => { m with gap := m.gap + 1 }
    done (if s.rd Reg.MOT_TRIG_MISS_LIM < t.mot.gap then t.posLost else t)
  else done s

/-! ### Tick edges (R241 to R243) -/

/-- S(t) in 0.25 ns from the commanded period in force (R242, R258). -/
def State.spacing (s : State) (p : Plan) : Nat :=
  let tc := s.rd Reg.MOT_PLAN_TC_TC
  ceilDiv (if tc = 0 then p.tMin else tc) 16

/-- The next place of the 0.25 ns grid at or after a time. -/
def gridUp (τ : Int) : Int := 4 * ceilDivI τ 4

/-- The bound of R242 on the edge of the next tick. -/
def State.edgeBound (s : State) (p : Plan) (t : Nat) : Option Int :=
  match s.mot.lastEdge with
  | some (t0, e0, s0, _) => if t0 + 1 = t then some (e0 + 4 * (p.tMin + 15 * (s0 - s.spacing p))) else none
  | none => none

/-- Commit the edge of tick t (R241, R242). -/
def State.commit (s : State) (p : Plan) (t : Nat) (now : Int) : State :=
  let want := match s.mot.due, s.mot.predicted with
    | false, some e => max e (gridUp (now + 256))
    | _, _ => gridUp (now + 256)
  let s1 := if s.mot.due then s.satInc Reg.MOT_CNT_4_LATE_EDGE 1 else s
  let held := match s.edgeBound p t with | some b => if want < b then some b else none | none => none
  let s2 := match held with
    | some _ => (s1.satInc Reg.MOT_CNT_4_OVSP 1).raise pMOT 5
    | none => s1
  s2.modMot fun m => { m with committed := some (t, held.getD want), predicted := none, due := false, ackWait := false }

/-- EDGE_COMMIT (R241, R268, R289). -/
def execEdgeCommit (now : Int) (s : State) : Host.Outcome State Fault Refusal :=
  match s.cur with
  | none => done s
  | some (w, p) =>
    let t := s.tickNext
    let below := match s.ceiling with | some c => decide (t < c) | none => true
    let reached := s.mot.due || (match s.mot.predicted with | some e => decide (e - 256 ≤ now) | none => false)
    if !s.live pMOT || !s.posLive || s.suppressed || s.mot.committed.isSome || decide (nTicks w.length p.k p.a ≤ t) ||
        !below || !reached then done s
    else if !s.allocHolds t then done (s.halt rLATE t)
    else if !s.tickAcked w.seq p.lanes t then done (((s.raise pPAK 6).modMot fun m => { m with ackWait := true }).halt rLINK t)
    else done (s.commit p t now)

/-- HSTATE follows the launch of tick h of a run-up (R259, R271). -/
def State.runBegins (s : State) : State :=
  let t := (if s.mot.afterHalt then s.raise pMOT 9 else s).modMot fun m =>
    { m with writing := true, hFixed := false, afterHalt := false }
  let u := if t.reasons = 0 then t.wr Reg.MOT_HALT_TICK_TICK 0xFFFFFFFF else t
  if u.isFollower then u else u.wr Reg.MOT_HALT_STAT_HSTATE hRUN

/-- The launch of the edge of tick t at a time (R243). -/
def State.launch (s : State) (w : Waybill) (p : Plan) (t : Nat) (at_ : Int) : State :=
  let sp := s.spacing p
  let s1 := s.emit (.edge t 0 at_)
  let s2 := s1.wrs [(Reg.MOT_EDGE_TS_LO_TS, enc 32 at_), (Reg.MOT_EDGE_TS_HI_TS, enc 64 at_ / 2 ^ 32),
    (Reg.MOT_TICK_NEXT_TICK, t + 1)]
  let s3 := if s2.posState = psHOLDOVER then s2.satInc Reg.MOT_CNT_3_EXTRAP 1 else s2
  let s4 := s3.modSeg w.seq (segOfTick w p t) fun c => { c with crc := crc64.feed c.crc (tickParcels (s.tickCodes t) p.n 0) }
  let s5 := { s4 with alc := { s4.alc with codes := s4.alc.codes.filter fun e => decide (t < e.1) } }
  let s6 := (s5.modPlan fun q => { q with launched := t + 1, ts0 := if t = 0 then enc 64 at_ else q.ts0, tsLast := enc 64 at_ }).modMot
    fun m => { m with committed := none, lastEdge := some (t, at_, sp, s.curThr w p t), nextPhase := 1, resDone := false }
  let s7 := if s6.hstate = hRUNUP ∨ (s6.isFollower ∧ s6.mot.writing = false) then s6.runBegins else s6
  if t + 1 = nTicks w.length p.k p.a then
    let tc := s7.rd Reg.MOT_PLAN_TC_TC
    (s7.modMot fun m => { m with
      actRef := some (xRef w p.k p.g s.orgX, at_ + 4 * (15 * sp) + 4 * (if tc = 0 then p.tMin else tc)) }).turnStep
  else s7

/-- TICK_EDGE_LAUNCH (R243): the committed edge's time has come. -/
def execTickEdgeLaunch (s : State) : Host.Outcome State Fault Refusal :=
  match s.cur, s.mot.committed with
  | some (w, p), some (t, at_) => done (if s.live pMOT && s.posLive then s.launch w p t at_ else s)
  | _, _ => done s

/-- PHASE_EDGE (R243). -/
def execPhaseEdge (s : State) : Host.Outcome State Fault Refusal :=
  match s.mot.lastEdge with
  | some (t, at_, sp, _) =>
    if s.mot.nextPhase < 16 then
      done ((s.emit (.edge t s.mot.nextPhase (at_ + 4 * (s.mot.nextPhase * sp)))).modMot fun m =>
        { m with nextPhase := m.nextPhase + 1 })
    else done s
  | none => done s

/-! ### Setpoints (R245, R251 to R260) -/

/-- Advance both axes by one step (R253, R258), within the virtual limits (R256). -/
def State.axesStep (s : State) : State :=
  let follow : Option Int := match s.cur with
    | some (w, p) =>
      if s.hstate = hRUN ∨ s.hstate = hRUNUP then some (s.vTarget w p (rhe s.mot.ay.p (2 ^ 21))) else none
    | none => none
  let ax := (s.mot.ax.step s.accNow s.decNow s.stopNow none).limit s.limXLo s.limXHi
  let ay := (s.mot.ay.step s.accNow s.decNow s.stopNow follow).limit s.limYLo s.limYHi
  s.modMot fun m => { m with ax := ax, ay := ay, keepAcc := if ax.ended && ay.ended then none else m.keepAcc }

/-- The commanded tick period that a setpoint's VY gives, in 0.25 ns (R258); 0 while s * VY ≤ 0. -/
def commandedPeriod (w : Waybill) (p : Plan) (vy : Int) : Nat :=
  let v := w.sign * vy
  if v ≤ 0 then 0 else ceilDiv (4000 * p.a * p.g * 4096) v.toNat

/-- A frame leaves on MTX_0 and MTX_1; a motion quad that is not locked sends electrical idle (R432). -/
def State.setpointOut (s : State) (fr : List Byte) : State := if s.islandLocked 39 then s.emit (.setpoint fr) else s

/-- The setpoint or hold frame of this microsecond, and MOT_PLAN_TC and MOT_PLAN_TQ with it (R245, R258, R276). -/
def State.sendSetpoint (s : State) : State :=
  let m := s.mot
  let vx := rhe (m.ax.dirn * m.ax.v) 256
  let vy := rhe (m.ay.dirn * m.ay.v) 256
  let flags := (if m.writing then 1 else 0) + (if m.stopRamp then 2 else 0)
  let fr := if m.trajectory then setpointFrame 0x60 m.mtxSeq (rhe m.ax.p (2 ^ 21)) (rhe m.ay.p (2 ^ 21)) vx vy flags
    else setpointFrame 0x62 m.mtxSeq 0 0 0 0 flags
  let s1 := if s.isFollower then s
    else (s.setpointOut fr).modMot fun m => { m with mtxSeq := (m.mtxSeq + 1) % 65536 }
  match s1.cur with
  | some (w, p) =>
    s1.wrs [(Reg.MOT_PLAN_TC_TC, if m.trajectory then commandedPeriod w p vy else 0),
      (Reg.MOT_PLAN_TQ_TQ, p.tq.getD (segOfTick w p s.tickNext) 0)]
  | none => s1.wrs [(Reg.MOT_PLAN_TC_TC, 0), (Reg.MOT_PLAN_TQ_TQ, 0)]

/-- Where the stage is, in 2^-21 count: the profile generator's Y, or in a follower the latest sample's. -/
def State.yNow (s : State) : Int :=
  if s.isFollower then (match s.mot.samples with | k :: _ => k.y * 2 ^ 21 | [] => 0) else s.mot.ay.p

/-- How fast it moves, in 2^-20 count per µs: the commanded speed, or in a follower that of the latest two samples. -/
def State.vNow (s : State) : Int :=
  if s.isFollower then
    match s.mot.samples with
    | k :: j :: _ => if k.time - j.time ≤ 0 then 0 else ((k.y - j.y).natAbs * 2 ^ 20 * 16000 : Nat) / (k.time - j.time)
    | _ => 0
  else s.mot.ay.v

/-- The speed cannot be slowed later and still stop before Y_thr(t_need): halt with LATE (R268 step 3). A follower asks
50 µs of travel earlier (R415). -/
def State.lateHalt (s : State) : State :=
  match s.cur, s.mot.tNeed with
  | some (w, p), some t =>
    let dir := if s.isFollower then w.sign else s.mot.ay.dirn
    let rem := dir * (s.curThr w p t * 2 ^ 21 - s.yNow)
    let v := s.vNow
    let ahead := if s.isFollower then 100 * v else 2 * v
    if s.hstate = hRUN ∧ rem - ahead ≤ v * v / s.stopNow then s.halt rLATE t else s
  | _, _ => s

/-- SLOW_THERM follows v_therm against v_env (R266). -/
def State.thermShow (s : State) : State :=
  match s.cur, s.mot.vTherm with
  | some (w, p), some v =>
    if v < s.vEnv w p (rhe s.yNow (2 ^ 21)) then
      if s.bit Reg.MOT_HALT_STAT_SLOW_THERM then s else (s.wr Reg.MOT_HALT_STAT_SLOW_THERM 1).raise pMOT 12
    else s.wr Reg.MOT_HALT_STAT_SLOW_THERM 0
  | _, _ => s.wr Reg.MOT_HALT_STAT_SLOW_THERM 0

/-- HSTATE after a step: the ends of moves, stops, back-ups and turnarounds (R260, R271, R274). -/
def State.moveEnds (s : State) : State :=
  let xEnd := s.mot.ax.ended
  let yEnd := s.mot.ay.ended
  let h := s.hstate
  if h = hMOVE then (if xEnd && yEnd then s.endMove else s)
  else if h = hSTOPPING then (if xEnd && yEnd && s.groupAll (fun f => f.flag 0) then s.atRest else s)
  else if h = hBACKING then
    if xEnd && yEnd then
      let t := (s.wr Reg.MOT_HALT_STAT_HSTATE hWAITING).raise pMOT 10
      if t.reasons.testBit rABANDON then t.abandon t.mot.hTick else t
    else s
  else if h = hTURN then
    match s.cur with
    | none => if xEnd && yEnd && s.mot.trajectory then ((s.wr Reg.MOT_HALT_STAT_HSTATE hIDLE).wr Reg.MOT_POS_STAT_SUPPRESS 0).endTrajectory
      else if s.mot.trajectory then s
      else ((s.wr Reg.MOT_HALT_STAT_HSTATE hIDLE).wr Reg.MOT_POS_STAT_SUPPRESS 0).endTrajectory
    | some (w, p) =>
      if p.launched < nTicks w.length p.k p.a ∧ s.mot.trajectory then
        let t := s.modMot fun m => { m with atRunup := xEnd && yEnd, xDwell := if xEnd then m.xDwell + 1 else 0 }
        t.wr Reg.MOT_HALT_STAT_GAP (if t.mot.atRunup && (t.mot.gapBeam || t.mot.gapCal) then 1 else 0)
      else s
  else s

/-- SETPOINT_FRAME (R245): one microsecond of the profile generator. In safe mode the quads send hold frames (R432). -/
def execSetpointFrame (s : State) : Host.Outcome State Fault Refusal :=
  if s.safeMode then
    done ((s.setpointOut (setpointFrame 0x62 s.mot.mtxSeq 0 0 0 0 0)).modMot fun m => { m with mtxSeq := (m.mtxSeq + 1) % 65536 })
  else
    let s1 := if s.mot.trajectory then s.axesStep else s
    done ((if s1.isFollower then s1 else s1.moveEnds).sendSetpoint.lateCheck.lateHalt.thermShow.autoClear.motShow)

/-- The host's target in counts: X or Y in nm is 64 counts per nm (R257). -/
def nmCounts (v : Nat) : Int := 64 * sx 32 v

/-- GO (R257): a host move starts, replaces its target, or is refused. -/
def State.goMove (s : State) : State :=
  let x := nmCounts (s.rd Reg.MOT_MOVE_X_X)
  let y := nmCounts (s.rd Reg.MOT_MOVE_Y_Y)
  if s.anyArmed ∨ (s.hstate ≠ hIDLE ∧ s.hstate ≠ hMOVE) then s.wr Reg.MOT_MOVE_CTRL_RESULT 1
  else if s.inLimits x y = false then s.wr Reg.MOT_MOVE_CTRL_RESULT 2
  else if s.accepts pMOT = false then s.wr Reg.MOT_MOVE_CTRL_RESULT 3
  else if s.posState ≠ psVALID then s.wr Reg.MOT_MOVE_CTRL_RESULT 4
  else
    let t := if s.mot.trajectory then s else s.startTrajectory
    ((t.modMot fun m => { m with
        stopRamp := false
        ax := m.ax.retarget t.decNow (x * 2 ^ 21) t.vMax 0, ay := m.ay.retarget t.decNow (y * 2 ^ 21) t.vMax 0 }).wrs
      [(Reg.MOT_HALT_STAT_HSTATE, hMOVE), (Reg.MOT_MOVE_CTRL_RESULT, 0)])

/-- GO (R257). -/
def execGoMove (agent : Agent) (s : State) : Host.Outcome State Fault Refusal :=
  done (s.access agent pMOT State.goMove)

/-- The dwell of R260 step 3 may end. -/
def State.dwellOver (s : State) : Bool :=
  match s.cur with
  | none => false
  | some (w, p) =>
    s.hstate == hTURN && s.mot.atRunup && decide (s.rd Reg.MOT_PLAN_CFG_SETTLE ≤ s.mot.xDwell) && !s.mot.gapBeam && !s.mot.gapCal &&
      s.reasons == 0 && s.allocHolds 0 && !(s.mot.abandonHold && s.bit Reg.ING_WB_QSTAT_STOPPED) &&
      s.groupAll (fun f => f.flag 1 && f.gstripe == p.gstripe && s.aligned w p f)

/-- RUNUP_START (R260 steps 3 and 4). A late first segment holds the dwell with reason LATE (R268). -/
def execRunupStart (s : State) : Host.Outcome State Fault Refusal :=
  let s0 := s.autoClear.alignCheck
  if s0.dwellOver then done (s0.startRunup.raise pMOT 16)
  else if s0.hstate = hTURN ∧ s0.mot.atRunup ∧ s0.cur.isSome ∧ s0.allocHolds 0 = false then done (s0.halt rLATE 0)
  else done s0

/-- GAP_MAX_EXPIRY (R260): the dwell has lasted GAP_MAX ms, and every gap request is released. -/
def execGapMaxExpiry (s : State) : Host.Outcome State Fault Refusal :=
  if s.hstate = hTURN ∧ s.mot.atRunup then
    let t := (s.modMot fun m => { m with gapBeam := false, gapCal := false }).wr Reg.MOT_HALT_STAT_GAP 0
    done { t with pak := { t.pak with rotDue := false, alnDue := false,
                                      aln := t.pak.aln.map fun r => { r with bad := if r.bad = 0 then 3 else r.bad } } }
  else done s

/-! ### Halts by software (R270, R274) -/

/-- The condition of a software reason has ended (R270). -/
def State.reasonEnded (s : State) (r : Nat) : Bool :=
  if r = rHOST ∨ r = rDCLAMP then true
  else if r = rPERMIT then s.switchClosed && s.pins.permitLvl
  else if r = rPOS then s.posState == psVALID
  else if r = rSCHOLD then !s.mot.holding
  else if r = rVLIM then match s.mot.samples with | k :: _ => s.inLimits k.x k.y | [] => true
  else false

/-- What a write of RESUME clears (R270); clearing POS ends the REVERSAL cause (R240). -/
def State.resume (s : State) : State :=
  let clr := [rHOST, rPERMIT, rPOS, rSCHOLD, rDCLAMP, rVLIM].filter fun r => s.reasons.testBit r && s.reasonEnded r
  let t := s.wr Reg.MOT_HALT_STAT_REASON (clr.foldl clrBit s.reasons)
  (if clr.contains rPOS then t.modMot fun m => { m with reversal := false } else t).haltCleared

/-- What a write of STOP does (R270). -/
def State.stop (s : State) : State := if s.hstate = hIDLE then s.raise pMOT 31 else s.stopRequest rHOST

/-- An abandonment is asked for (R274), with the reason of the stop it begins with. -/
def State.abandonFor (s : State) (reason : Nat) : State :=
  let h := s.hstate
  if h = hWAITING then s.abandon s.mot.hTick
  else if h = hRUN ∨ h = hRUNUP ∨ h = hSTOPPING ∨ h = hBACKING then
    (s.stopRequest reason).wr Reg.MOT_HALT_STAT_REASON (setBit (s.stopRequest reason).reasons rABANDON)
  else s.raise pMOT 31

/-- What a write of ABANDON does (R274). -/
def State.abandonWrite (s : State) : State := s.abandonFor rHOST

/-- STOP (R270). -/
def execStop (agent : Agent) (s : State) : Host.Outcome State Fault Refusal := done (s.access agent pMOT State.stop)

/-- RESUME (R270). -/
def execResume (agent : Agent) (s : State) : Host.Outcome State Fault Refusal := done (s.access agent pMOT State.resume)

/-- ABANDON (R274). -/
def execAbandon (agent : Agent) (s : State) : Host.Outcome State Fault Refusal :=
  done (s.access agent pMOT State.abandonWrite)

/-- HALT_RESUME (R272). -/
def execHaltResume (s : State) : Host.Outcome State Fault Refusal :=
  let s0 := s.autoClear
  if s0.hstate = hWAITING ∧ s0.reasons = 0 ∧ s0.posState = psVALID ∧ s0.allocHolds s0.mot.hTick = true ∧
      s0.groupAll (fun f => f.flag 1) = true then done s0.startRunup
  else done s0

/-! ### Array temperature (R266, R267) -/

/-- v_therm and the THERM reason at a new report (R266, R267). -/
def State.thermReport (s : State) : State :=
  let t : Int := sx 16 (s.rd Reg.MOT_TEMP_TEMP)
  let hard : Int := sx 16 (s.rd Reg.MOT_THERM_LIM_HARD)
  let soft : Int := sx 16 (s.rd Reg.MOT_THERM_LIM_SOFT)
  let s1 := if hard ≤ t then s.setFault pMOT 5 else s
  match s1.cur with
  | none => s1.modMot fun m => { m with vTherm := none }
  | some (_, p) =>
    let v : Option Int := if t ≤ soft then none else some (p.vTop s1.vMax * (hard - t) / (hard - soft))
    let s2 := s1.modMot fun m => { m with vTherm := v }
    let low : Bool := match v with | some x => decide (x < s2.vMin) | none => false
    let s3 := if hard ≤ t ∨ low = true then s2.stopRequest rTHERM else s2
    if t ≤ hard - s3.rd Reg.MOT_THERM_CFG_THYST ∧ low = false then
      (s3.wr Reg.MOT_HALT_STAT_REASON (clrBit s3.reasons rTHERM)).haltCleared else s3

/-- A temperature report (R266, R311), which only an enabled ARY page passes on: `src` is ARY_TEMP.SRC. -/
def State.tempReport (s : State) (src temp : Nat) : State :=
  if !s.live pARY then s
  else
    let t := s.wrs [(Reg.ARY_TEMP_SRC, src), (Reg.ARY_TEMP_TEMP, temp)]
    if t.inReset pMOT then t
    else (t.wrs [(Reg.MOT_TEMP_TEMP, temp), (Reg.MOT_TEMP_FRESH, 1)]).thermReport.thermShow

/-- ARRAY_TEMP_REPORT (R266, R311): a report from a source and its value. -/
def execArrayTempReport (src : Nat) (temp : BitVec 16) (s : State) : Host.Outcome State Fault Refusal :=
  done (s.tempReport src temp.toNat)

/-- TEMPERATURE_REPORT_STALE (R267): STALE ms without a report. -/
def execTemperatureReportStale (s : State) : Host.Outcome State Fault Refusal :=
  if s.inReset pMOT then done s
  else
    let t := s.wr Reg.MOT_TEMP_FRESH 0
    done (if t.cur.isSome then ((t.setFault pMOT 6).raise pMOT 17).stopRequest rTHERM else t)

/-- MOT_RESET_ABANDON (R526): on the page's release every armed waybill is abandoned, the one being written at the
first tick not launched. -/
def execMotResetAbandon (s : State) : Host.Outcome State Fault Refusal :=
  if s.mot.abandonRel ∧ s.inReset pMOT = false then
    let t := s.modMot fun m => { m with abandonRel := false }
    let u := t.dropSecond
    match u.cur with
    | some (_, p) => done ((u.abandon p.launched).wr Reg.MOT_HALT_STAT_HSTATE hIDLE)
    | none => done t
  else done s

end Sys2Proof.Machine
end

