-- ==== Sys2Proof/Machine/Qlink.lean ====
section
/-!
DEFINITION. The Q-link (chapter 12): frames and parcels, tick markers, lane-map sets, acknowledgement and
retransmission, return lanes, bring-up, and lane sparing, with the meanings of the packer's commands.
-/
namespace Sys2Proof.Machine

open Sys2Proof (Agent FrameUpset)

/-! ### Roles and link states (R297, R304) -/

abbrev lsDOWN : Nat := 0
abbrev lsBLANK : Nat := 1
abbrev lsTRAIN : Nat := 2
abbrev lsMAP : Nat := 3
abbrev lsREADY : Nat := 4
abbrev lsBLIND : Nat := 5
abbrev lsFAILED : Nat := 6

abbrev roOFF : Nat := 0
abbrev roTRAINING : Nat := 1
abbrev roSTANDBY : Nat := 2
abbrev roDATA : Nat := 3
abbrev roFAILED : Nat := 4

abbrev pQLK (n : Nat) : Page := ⟨.qlk, n⟩

def State.lstate (s : State) : Nat := s.rd Reg.PAK_STAT_LSTATE
def State.laneRole (s : State) (n : Nat) : Nat := s.rd (Reg.QLK_STAT_ROLE n)

/-- A lane's own state. -/
def State.laneAt (s : State) (n : Nat) : Lane := s.pak.lanes.getD n {}

/-- Change the packer's own state. -/
def State.modPak (s : State) (f : Pak → Pak) : State := { s with pak := f s.pak }

/-- Change a lane's own state. -/
def State.modLane (s : State) (n : Nat) (f : Lane → Lane) : State :=
  s.modPak fun p => { p with lanes := modAt p.lanes n f }

/-- Change the stream of a logical lane. -/
def State.modStream (s : State) (l : Nat) (f : Stream → Stream) : State :=
  s.modPak fun p => { p with streams := p.streams.map fun st => if st.logical = l then f st else st }

/-- The physical lane in role DATA that carries a logical lane. -/
def State.laneOf (s : State) (l : Nat) : Option Nat :=
  (List.range 80).find? fun n => s.laneRole n == roDATA && s.rd (Reg.QLK_STAT_LOGICAL n) == l

/-- The physical lane whose receiver is r, among the lanes in a role. -/
def State.laneAtRx (s : State) (r : Nat) : Option Nat :=
  (List.range 80).find? fun n => s.rd (Reg.QLK_STAT_RXN n) == r && (s.laneRole n == roDATA || s.laneRole n == roSTANDBY)

/-- Registers that follow the streams: PAK_ACK_TICK (R303). -/
def State.ackShow (s : State) : State :=
  match s.cur with
  | none => s
  | some (w, p) =>
    match ((List.range s.alc.next).reverse.find? fun t => s.tickAcked w.seq p.lanes t) with
    | some t => s.wr Reg.PAK_ACK_TICK_TICK t
    | none => s.wr Reg.PAK_ACK_TICK_TICK 0xFFFFFFFF

/-- K and STANDBY follow the lanes' roles; a logical lane that waits or is being taken over still counts in k, which
changes only at training (R298, R303). -/
def State.countShow (s : State) : State :=
  s.wr Reg.PAK_STAT_STANDBY ((List.range 80).filter fun n => s.laneRole n == roSTANDBY).length

/-- The margin scan of a lane that changes its role: what is in hand is dropped (R483), and a lane that leaves DATA has
completed none since. -/
def Scan.restart (c : Scan) (leaves : Bool) : Scan :=
  { c with preset := 0, width := false, step := 0, height := 0, now := [], ready := c.ready && !leaves }

/-- A lane's role changes (R304): QLK_n EVT_RAW[0], and its page is RUNNING in role DATA. A PRESET that a restore has left
waiting takes force in role STANDBY (R496). -/
def State.setLaneRole (s : State) (n ro : Nat) : State :=
  if s.laneRole n = ro then s
  else
    let t := ((s.wr (Reg.QLK_STAT_ROLE n) ro).raise (pQLK n) 0).setRunning (pQLK n) (ro == roDATA)
    let u := t.modLane n fun q => { q with scan := q.scan.restart (s.laneRole n == roDATA) }
    match ro == roSTANDBY, (u.laneAt n).scan.want with
    | true, some p => (u.wr (Reg.QLK_TXEQ_PRESET n) p).modLane n fun q => { q with scan := { q.scan with want := none } }
    | _, _ => u

/-- Lanes with USE set to data or spare. -/
def State.usedLanes (s : State) : List Nat := (List.range 80).filter fun n => s.rd (Reg.QLK_CFG_USE n) != 0

/-! ### Frames (R281 to R284) -/

/-- A Q-link frame of 1,024 characters; `bad` inverts its CRC field (R450). -/
def qFrame (type alive rgid : Nat) (payload : List Byte) (bad : Bool) : List Byte :=
  let body := leBytes 1 type ++ leBytes 1 alive ++ leBytes 1 rgid ++ payload
  0xBC#8 :: body ++ leBytes 4 (if bad then 0xFFFFFFFF - crc32.of body else crc32.of body)

/-- The payload of a TRAIN frame. -/
def trainPayload (n : Nat) : List Byte := (List.range 1016).map fun i => BitVec.ofNat 8 (n + 37 * i)

/-- The sequence number that stands for an alignment run in place of a waybill's. -/
def alnSeq : Nat := 2 ^ 32

/-- The codes of a tick of a stream: the allocator's, or the one pulse of an alignment tick (R487). -/
def State.streamCodes (s : State) (st : Stream) (t : Nat) : List (Nat × Nat) :=
  if st.wseq = alnSeq then
    match s.pak.aln with
    | some r =>
      let l := t / r.repeats
      let q := (l + 4096 * r.k - 4096 * t % r.k) % r.k
      [(4096 * (q % 64) + 64 * (q / 64), r.code)]
    | none => []
  else s.tickCodes t

/-- A byte of a stream (R282, R283). -/
def State.streamByte (s : State) (st : Stream) (i : Nat) : Byte :=
  let q := st.logical + st.k * (i / (8 * st.n))
  (parcel (s.streamCodes st (q / 4096)) st.n st.order (q % 64) (q % 4096 / 64)).getD (i % (8 * st.n)) 0

/-- The row group of the parcel that holds a byte of a stream. -/
def Stream.groupAt (st : Stream) (i : Nat) : Nat := (st.logical + st.k * (i / (8 * st.n))) % 64

/-- The tick of a byte of a stream. -/
def Stream.tickAt (st : Stream) (i : Nat) : Nat := (st.logical + st.k * (i / (8 * st.n))) / 4096

/-- The ticks whose bytes may be sent: those the allocator holds, up to the sixth beyond the latest launched (R284). -/
def State.mayPack (s : State) (st : Stream) (t : Nat) : Bool :=
  if st.wseq = alnSeq then
    match s.pak.aln with | some r => decide (t < r.launched + 6) && r.bad == 0 | none => false
  else match s.cur with
    | some (w, p) => w.seq == st.wseq && decide (t < p.launched + 6) && decide (t < s.alc.next)
    | none => false

/-- TYPE of a DATA frame. -/
def dataType (st : Stream) (first last : Bool) : Nat :=
  0x40 + (if first then 0x20 else 0) + 0x10 * st.order + 4 * (st.n - 4) + (if last then 2 else 0)

/-- The stream that a data lane carries: the one it has, or that of the current stripe once the one before is closed. -/
def State.openStream (s : State) (l : Nat) : State :=
  if s.pak.aln.isSome || s.mot.gapCal then s
  else match s.cur with
  | some (w, p) =>
    let old := s.pak.streams.find? fun st => st.logical == l
    let busy := match old with | some st => st.wseq == w.seq || st.lastDue | none => false
    if busy || decide (p.lanes ≤ l) || decide (0 < p.launched) then s
    else
      let st : Stream := { logical := l, wseq := w.seq, k := p.lanes, n := p.n, order := p.order,
                           total := 8 * p.n * parcelsBelow p.lanes l (4096 * nTicks w.length p.k p.a) }
      s.modPak fun q => { q with streams := st :: q.streams.filter fun st => st.logical != l }
  | none => s

/-- The segment of the ledger that counts a resent frame: the one governing the tick of its first byte (R468). -/
def State.countResent (s : State) (st : Stream) (f : QFrame) : State :=
  match s.cur with
  | some (w, p) => if w.seq = st.wseq then
      s.modSeg w.seq (segOfTick w p (st.tickAt f.pos)) fun c => { c with resent := c.resent + 1 } else s
  | none => s

/-- QLK_n_ALIVE (R304); with no frame unacknowledged ACKED is a free value. -/
def State.aliveShow (s : State) (n l : Nat) : State :=
  match s.pak.streams.find? fun st => st.logical == l with
  | none => s
  | some st =>
    let d : Nat × State := match st.frames with | f :: _ => (f.alive, s) | [] => s.draw
    d.2.wrs [(Reg.QLK_ALIVE_ACKED n, d.1), (Reg.QLK_ALIVE_SENT n, (st.alive + 255) % 256)]

/-- Resend a frame (R290). -/
def State.resend (s : State) (n : Nat) (st : Stream) (f : QFrame) : State :=
  let t := (s.emit (.qframe n f.chars)).modStream st.logical fun q =>
    { q with frames := q.frames.map fun g => if g.alive = f.alive then { g with due := false } else g }
  ((((t.satInc Reg.PAK_CNT_RESENT 1).satInc (Reg.QLK_CNT_RESENT n) 1).raise pPAK 2).raise (pQLK n) 1).countResent st f

/-- Send a new frame of a stream (R281 to R284). -/
def State.sendData (s : State) (n : Nat) (st : Stream) (bad : Bool) : State :=
  let len := if st.lastDue then 0 else min 1016 (st.total - st.pos)
  let last := st.lastDue || decide (st.pos + len = st.total)
  let rg : Nat × State := if len = 0 then s.draw else (st.groupAt st.pos, s)
  let body := (List.range len).map fun i => s.streamByte st (st.pos + i)
  let fr := qFrame (dataType st (st.alive == 0 && st.pos == 0) last) st.alive rg.1 (body ++ List.replicate (1016 - len) 0) bad
  let f : QFrame := { alive := st.alive, pos := st.pos, bytes := len, crc := leAt fr 1020 4, chars := fr }
  ((rg.2.emit (.qframe n fr)).modStream st.logical fun q =>
    { q with pos := q.pos + len, alive := (q.alive + 1) % 256, frames := q.frames ++ [f], lastDue := false }).aliveShow n st.logical

/-- A frame on a data lane: a resent one first, then a LAST frame owed, then new bytes, up to 64 unacknowledged. -/
def State.sendOnData (s : State) (n : Nat) (upset : FrameUpset) : State :=
  let l := s.rd (Reg.QLK_STAT_LOGICAL n)
  let s1 := s.openStream l
  let bad := (s1.laneAt n).corrupt
  let s2 := s1.modLane n fun q => { q with corrupt := false }
  let blank (t : State) : State :=
    (t.emit (.qframe n (qFrame 0 (t.laneAt n).alive 0xFF (List.replicate 1016 0) bad))).modLane n fun q =>
      { q with alive := (q.alive + 1) % 256 }
  if (match s1.pak.takeover with | some (_, m) => m == n | none => false) then s1
  else match s1.pak.streams.find? fun st => st.logical == l with
  | none => blank s2
  | some st =>
    match st.frames.find? QFrame.due with
    | some f => s2.resend n st f
    | none =>
      if decide (64 ≤ st.frames.length) || st.stopped then s1
      else if st.lastDue then s2.sendData n st bad
      else if st.pos = st.total then (if st.frames.isEmpty then blank s2 else s1)
      else if s1.mayPack st (st.tickAt (min (st.pos + 1015) (st.total - 1))) = false then s1
      else match upset with
        | .none => s2.sendData n st bad
        | .mismatch =>
          let t := s2.modStream l fun x => { x with stopped := true }
          if st.wseq = alnSeq then t.modPak fun q => { q with aln := q.aln.map fun r => { r with bad := if r.bad = 0 then 3 else r.bad } }
          else t.allocFails 0 (st.tickAt st.pos)

/-- QLINK_FRAME_SEND (R281): lane n completes a frame: DATA, BLANK or TRAIN as the link's state and the lane's role ask.
Nothing is completed where the lane is idle or sends only pauses. `upset`: the two CRCs of R291 differ. -/
def execQlinkFrameSend (n : Nat) (upset : FrameUpset) (s : State) : Host.Outcome State Fault Refusal :=
  if 80 ≤ n ∨ s.lstate = lsDOWN ∨ s.txOff ∨ s.inReset (pQLK n) then done s
  else
    let bad := (s.laneAt n).corrupt
    let blank : State := (s.emit (.qframe n (qFrame 0 (s.laneAt n).alive 0xFF (List.replicate 1016 0) bad))).modLane n fun q =>
      { q with alive := (q.alive + 1) % 256, corrupt := false }
    let train : State := (s.emit (.qframe n (qFrame 0x80 (s.laneAt n).alive n (trainPayload n) bad))).modLane n fun q =>
      { q with alive := (q.alive + 1) % 256, corrupt := false, sent := q.sent + 1, clean := q.clean + 1 }
    if s.lstate = lsBLANK ∨ s.lstate = lsFAILED then done (if s.rd (Reg.QLK_CFG_USE n) = 0 then s else blank)
    else if s.lstate = lsTRAIN then done (if s.rd (Reg.QLK_CFG_USE n) = 0 then s else train)
    else if s.laneRole n = roTRAINING then done train
    else if s.laneRole n = roSTANDBY then done blank
    else if s.laneRole n = roDATA then done (s.sendOnData n upset)
    else done s

/-! ### Tick markers and lane-map sets (R285, R286, R299) -/

/-- t_K of R286 in 0.01 ns from the lane epoch, and OFS: `e` is E_n on the same scale. -/
def markerStart (e : Int) : Int × Nat :=
  let k := (e - 2048) / 32 * 32
  (k, (e - 2048 - k).toNat)

/-- The nine characters of a marker (R285). -/
def markerChars (tick spacing ofs : Nat) : List Byte :=
  let body := leBytes 1 tick ++ leBytes 1 (tick / 256 % 8 * 32 + ofs) ++ leBytes 5 spacing
  0x7C#8 :: body ++ leBytes 1 (crc8.of body)

/-- The marker of a tick on data lane n; `at_` is its edge in 1/16 ns, and QLAT is 81.92 ns. The lane that TIM_QSEL names
is stamped (R384). -/
def State.markOn (s : State) (n tick spacing : Nat) (at_ : Int) (stamp : Nat) : State :=
  let epoch : Int := 200 * (Config.laneEpoch % 4 : Nat)
  let e := at_ * 25 / 4 + 8192 - s.rd (Reg.QLK_SKEW_SKEW n) - epoch
  let t := s.emit (.marker n (markerChars tick spacing (markerStart e).2))
  if s.rd Reg.TIM_QSEL_LANE = n ∧ s.live pTIM then t.wr64 Reg.TIM_QLK_TS_LO_TS Reg.TIM_QLK_TS_HI_TS stamp else t

/-- TICK_MARKER (R286): the markers of the latest launched tick, one on each data lane; `stamp` is the time value of the
K28.3 at the pin of the lane that TIM_QSEL names. -/
def execTickMarker (stamp : BitVec 64) (s : State) : Host.Outcome State Fault Refusal :=
  match s.mot.lastEdge with
  | some (t, at_, sp, _) =>
    if s.lstate = lsDOWN ∨ s.txOff ∨ s.pak.marked = some at_ then done s
    else
      let u := s.modPak fun p => { p with marked := some at_ }
      done ((List.range 80).foldl (fun v n => if s.laneRole n = roDATA then v.markOn n t sp at_ stamp.toNat else v) u)
  | none => done s

/-- The lane-map set of a lane (R299). -/
def State.mapChars (s : State) (n : Nat) : List Byte :=
  let body := leBytes 1 (if s.laneRole n = roDATA then s.rd (Reg.QLK_STAT_LOGICAL n) else 0x7F) ++
    leBytes 1 (s.rd Reg.PAK_STAT_K) ++ leBytes 1 n
  0xDC#8 :: body ++ leBytes 1 (crc8.of body)

/-- The lanes selected at training that still carry a role. -/
def State.selected (s : State) : List Nat := (List.range 80).filter fun n => s.laneRole n == roDATA || s.laneRole n == roSTANDBY

/-- LANE_MAP_SET (R299): a set is sent on data or standby lane n. In blind mode 64 sets on every selected lane make the
link BLIND (R297). -/
def execLaneMapSet (n : Nat) (s : State) : Host.Outcome State Fault Refusal :=
  if 80 ≤ n ∨ s.lstate < lsMAP ∨ s.lstate = lsFAILED ∨ s.txOff ∨ s.inReset (pQLK n) ∨ ¬(s.laneRole n = roDATA ∨ s.laneRole n = roSTANDBY) then done s
  else
    let t := (s.emit (.laneMap n (s.mapChars n))).modLane n fun q => { q with sets := q.sets + 1, setsDue := q.setsDue - 1 }
    if t.lstate = lsMAP ∧ t.rd Reg.PAK_CFG_MODE = 1 ∧ (t.selected.all fun m => decide (64 ≤ (t.laneAt m).sets)) = true then
      done ((t.wr Reg.PAK_STAT_LSTATE lsBLIND).raise pPAK 0)
    else done t

/-! ### Lane failure and sparing (R300 to R302) -/

/-- The next takeover begins, if none is in hand and a logical lane waits: the lowest STANDBY lane takes it, its margin
scan is abandoned, and it owes two lane-map sets. With no STANDBY lane the logical lane stays without one. -/
def State.spare (s : State) : State :=
  match s.pak.takeover, s.pak.waiting with
  | none, l :: rest =>
    match (List.range 80).find? fun n => s.laneRole n == roSTANDBY with
    | some n =>
      let t := ((s.setLaneRole n roDATA).wr (Reg.QLK_STAT_LOGICAL n) l).modLane n fun q => { q with setsDue := 2, unlocked := 0 }
      (t.modPak fun p => { p with takeover := some (l, n), waiting := rest }).countShow
    | none => (s.setFault pPAK 0).raise pPAK 5
  | _, _ => s

/-- A logical lane has no physical lane. -/
def State.noSpare (s : State) : Bool := !s.pak.waiting.isEmpty

/-- A rotation that is not finished is abandoned (R486, R497): the two lanes take their old roles back, and the old lane-map
sets are owed again. -/
def State.unrotate (s : State) : State :=
  match s.pak.rot, s.pak.takeover with
  | some (old, new), some (l, _) =>
    let t := ((s.setLaneRole new roSTANDBY).wr (Reg.QLK_STAT_LOGICAL new) 0x7F).modLane new fun q => { q with setsDue := 2 }
    let u := ((t.setLaneRole old roDATA).wr (Reg.QLK_STAT_LOGICAL old) l).modLane old fun q => { q with setsDue := 2, unlocked := 0 }
    (u.modPak fun p => { p with rot := none, takeover := none, rotDue := false }).countShow
  | _, _ => s.modPak fun p => { p with rot := none }

/-- A lane fails (R300): electrical idle, role FAILED, and its logical lane waits for a STANDBY lane. A rotation in hand is
abandoned first (R497). -/
def State.failLane (s0 : State) (n cause : Nat) : State :=
  let s := if s0.pak.rot.isSome then s0.unrotate else s0
  let l := s.rd (Reg.QLK_STAT_LOGICAL n)
  let wasData := s.laneRole n == roDATA
  let t := ((s.setLaneRole n roFAILED).wrs [(Reg.QLK_STAT_FAILCAUSE n, cause), (Reg.QLK_STAT_LOGICAL n, 0x7F)]).setFault (pQLK n) 0
  let u := ((t.raise (pQLK n) 3).raise pPAK 3).countShow
  if wasData then
    let v := u.modPak fun p =>
      { p with takeover := if p.takeover.any fun e => e.2 == n then none else p.takeover
               waiting := if p.takeover.any fun e => e.2 == n then l :: p.waiting else p.waiting ++ [l]
               aln := p.aln.map fun r => { r with bad := if r.bad = 0 then 3 else r.bad } }
    v.spare
  else u

/-- The adoption of a takeover is seen (R300 step 3): every unacknowledged frame of the logical lane is resent. -/
def State.adopted (s : State) : State :=
  match s.pak.takeover with
  | none => s
  | some (l, n) =>
    if s.pak.page1.getD (s.rd (Reg.QLK_STAT_RXN n)) 0xFF = l then
      let t := (s.modPak fun p => { p with takeover := none, rot := none, rotDue := p.rotDue && p.rot.isNone }).modStream l fun st =>
        { st with frames := st.frames.map fun f => { f with due := true } }
      (t.raise pPAK 4).spare
    else s

/-! ### Acknowledgement (R288 to R290) -/

/-- The physical return lane that carries the array's return lane number, if it is locked (R293, R295). -/
def State.qrxOf (s : State) (src : Nat) : Bool :=
  (List.range 4).any fun m => (s.rd Reg.PAK_STAT_QRX_LOCK).testBit m &&
    s.rd ([Reg.PAK_QRX_MAP_VALID_0, Reg.PAK_QRX_MAP_VALID_1, Reg.PAK_QRX_MAP_VALID_2, Reg.PAK_QRX_MAP_VALID_3].getD m Reg.PAK_QRX_MAP_VALID_0) == 1 &&
    s.rd ([Reg.PAK_QRX_MAP_SRC_0, Reg.PAK_QRX_MAP_SRC_1, Reg.PAK_QRX_MAP_SRC_2, Reg.PAK_QRX_MAP_SRC_3].getD m Reg.PAK_QRX_MAP_SRC_0) == src

/-- Both return lanes that carry the echoes of a receiver are locked. -/
def State.echoLanes (s : State) (r : Nat) : Bool := s.qrxOf (r % 2) && s.qrxOf (2 + r % 2)

/-- A frame is to be resent; the resend counts towards RESEND_LIM where `counts` holds, and a frame that has already been
resent that often fails its lane with cause 1 (R290). -/
def State.wantResend (s : State) (n l : Nat) (f : QFrame) (counts : Bool) : State :=
  if f.due then s
  else if counts && decide (s.rd Reg.PAK_CFG_RESEND_LIM ≤ f.resent) then s.failLane n 1
  else s.modStream l fun q => { q with frames := q.frames.map fun g =>
    if g.alive = f.alive then { g with due := true, resent := if counts then g.resent + 1 else g.resent } else g }

/-- One echo record (R288, R293). -/
def State.echoRecord (s : State) (r : List Byte) : State :=
  let rxn := leAt r 0 1
  let stat := leAt r 2 1
  if rxn = 0xFF then s
  else match s.laneAtRx rxn with
  | none => s
  | some n =>
    if s.laneRole n ≠ roDATA then s
    else
      let l := s.rd (Reg.QLK_STAT_LOGICAL n)
      match (s.pak.streams.find? fun st => st.logical == l).bind fun st => st.frames.find? fun f => f.alive == leAt r 1 1 with
      | none => s
      | some f =>
        let good := leAt r 4 4 == f.crc && (stat.testBit 1 || (stat.testBit 0 && leAt r 3 1 == l))
        if good then
          ((s.modStream l fun q => { q with frames := q.frames.filter fun g => g.alive != f.alive }).aliveShow n l).ackShow
        else s.wantResend n l f true

/-- A return frame, characters 1 to 135, is in form (R292). -/
def returnOk (f : List Byte) : Bool :=
  f.length == 135 && crc32.of (f.take 131) == leAt f 131 4 && leAt f 2 1 < 4

/-- The fields of PAK_QRX_MAP for QRX_m. -/
def qrxValid (m : Nat) : Fld := ⟨0x17004C, 8 * m + 7, 1, 0⟩
def qrxInv (m : Nat) : Fld := ⟨0x17004C, 8 * m + 6, 1, 0⟩
def qrxSrc (m : Nat) : Fld := ⟨0x17004C, 8 * m, 2, 0⟩

/-- A return frame is accepted from QRX_m: the lane is locked, the frame is in form, and its SRC is no other locked
lane's, which maps the lane (R295). -/
def State.returnFrame (s : State) (m : Nat) (f : List Byte) (k : State → State) : State :=
  let src := leAt f 2 1
  let taken := (List.range 4).any fun q => q != m && s.bit (qrxValid q) && s.rd (qrxSrc q) == src && (s.rd Reg.PAK_STAT_QRX_LOCK).testBit q
  if 4 ≤ m ∨ s.inReset pPAK ∨ (s.rd Reg.PAK_STAT_QRX_LOCK).testBit m = false ∨ returnOk f = false ∨ taken then s
  else k (s.wrs [(qrxValid m, 1), (qrxSrc m, src)])

/-- ECHO_FRAME (R293): characters 1 to 135 of a return frame on QRX_m. -/
def execEchoFrame (m : Nat) (frame : List Byte) (s : State) : Host.Outcome State Fault Refusal :=
  done (s.returnFrame m frame fun t =>
    if leAt frame 0 1 = 0xE0 ∧ t.rd Reg.PAK_CFG_MODE = 2 then
      (List.range 16).foldl (fun u i => u.echoRecord (slice frame (3 + 8 * i) 8)) t
    else t)

/-- ECHO_TIMEOUT (R290): the frame of lane n with the given ALIVE has had no acknowledgement within ECHO_TO. -/
def execEchoTimeout (n alive : Nat) (s : State) : Host.Outcome State Fault Refusal :=
  if 80 ≤ n ∨ s.laneRole n ≠ roDATA ∨ s.inReset pPAK then done s
  else
    let l := s.rd (Reg.QLK_STAT_LOGICAL n)
    match (s.pak.streams.find? fun st => st.logical == l).bind fun st => st.frames.find? fun f => f.alive == alive with
    | none => done s
    | some f =>
      if f.due then done s
      else
        let counts := s.echoLanes (s.rd (Reg.QLK_STAT_RXN n))
        let t := if counts then ((s.satInc Reg.PAK_CNT_ECHO_TO 1).satInc (Reg.QLK_CNT_ECHO_TO n) 1).raise (pQLK n) 2 else s
        done (t.wantResend n l f counts)

/-! ### Status frames (R294) -/

/-- Bring-up follows a status frame (R297): BLANK ends, an inverted lane is turned round, MAP ends. -/
def State.bringupStatus (s : State) : State :=
  if s.rd Reg.PAK_CFG_MODE ≠ 2 then s
  else if s.lstate = lsBLANK then
    (s.wr Reg.PAK_STAT_LSTATE lsTRAIN).modPak fun p => { p with lanes := p.lanes.map fun q => { q with sent := 0, clean := 0 } }
  else if s.lstate = lsTRAIN then
    (List.range 80).foldl (fun t r =>
      let n := t.pak.page0.getD r 0x7F
      if t.pak.inv.testBit r && decide (n < 80) && decide (2048 ≤ (t.laneAt n).sent) then
        (t.wr (Reg.QLK_STAT_INV n) (1 - t.rd (Reg.QLK_STAT_INV n))).modLane n fun q => { q with sent := 0, clean := 0 }
      else t) s
  else if s.lstate = lsMAP then
    if s.selected.all fun n => s.pak.page1.getD (s.rd (Reg.QLK_STAT_RXN n)) 0xFF ==
        (if s.laneRole n = roDATA then s.rd (Reg.QLK_STAT_LOGICAL n) else 0x7F) then
      (s.wr Reg.PAK_STAT_LSTATE lsREADY).raise pPAK 0
    else s
  else s

/-- Data lanes whose receiver LOCK shows unlocked in two consecutive status frames fail with cause 2. -/
def State.checkLocks (s : State) : State :=
  if s.lstate ≠ lsREADY then s
  else (List.range 80).foldl (fun t n =>
    let r := t.rd (Reg.QLK_STAT_RXN n)
    if t.laneRole n = roDATA ∧ r < 80 then
      if t.pak.lock.testBit r then t.modLane n fun q => { q with unlocked := 0 }
      else
        let u := t.modLane n fun q => { q with unlocked := q.unlocked + 1 }
        if 2 ≤ (u.laneAt n).unlocked then u.failLane n 2 else u
    else t) s

/-- What a status frame says; the copies of one interval carry one ALIVE, and only the first of them counts for LOCK
(DEDUCED, log entry 28). -/
def State.status (s : State) (pl : List Byte) : State :=
  let alive := leAt pl 0 4
  let fresh := s.pak.seen != some alive
  let table := (List.range 80).map fun r => leAt pl (38 + r) 1
  let page := leAt pl 7 1
  let err := leAt pl 28 10
  let miss := (leAt pl 6 1).testBit 0
  let s1 := (s.wrs [(Reg.PAK_ARY_ALIVE_ALIVE, alive), (Reg.PAK_ARY_TEMP_TEMP, leAt pl 4 2)]).modPak fun p =>
    { p with seen := some alive, dead := p.dead && !fresh, miss := miss, lock := leAt pl 8 10, inv := leAt pl 18 10,
             page0 := if page = 0 then table else p.page0, page1 := if page = 1 then table else p.page1 }
  let s2 := (List.range 80).foldl (fun t r =>
    let n := t.pak.page0.getD r 0x7F
    if err.testBit r && decide (n < 80) then t.modLane n fun q => { q with clean := 0 } else t) s1
  let s3 := if miss then ((s2.setFault pPAK 1).raise pPAK 7).stopRequest rLINK else s2
  let s4 := if fresh then s3.checkLocks else s3
  (s4.adopted.bringupStatus).tempReport 1 (leAt pl 4 2)

/-- STATUS_FRAME (R294): characters 1 to 135 of a return frame on QRX_m. Blind mode uses nothing of it but to show the latest
alive counter and temperature (R296, R303). -/
def execStatusFrame (m : Nat) (frame : List Byte) (s : State) : Host.Outcome State Fault Refusal :=
  done (s.returnFrame m frame fun t =>
    if leAt frame 0 1 ≠ 0xE4 ∨ t.lstate = lsDOWN then t
    else if t.rd Reg.PAK_CFG_MODE = 2 then t.status (slice frame 3 128)
    else t.wrs [(Reg.PAK_ARY_ALIVE_ALIVE, leAt frame 3 4), (Reg.PAK_ARY_TEMP_TEMP, leAt frame 7 2)])

/-- ARRAY_DEAD (R294): 10 µs without an advance of ALIVE on any locked return lane. -/
def execArrayDead (s : State) : Host.Outcome State Fault Refusal :=
  if s.inReset pPAK ∨ s.lstate = lsDOWN ∨ s.rd Reg.PAK_CFG_MODE ≠ 2 then done s
  else done (((s.modPak fun p => { p with dead := true }).setFault pPAK 2).raise pPAK 8)

/-! ### Return lanes (R295) -/

/-- Some parity has no locked return lane: the cause of RETURN_LOST. -/
def State.returnLost (s : State) : Bool :=
  (List.range 2).any fun p => !s.qrxOf p && !s.qrxOf (p + 2)

/-- RETURN_LANE_LOCK_CHANGE (R295). -/
def execReturnLaneLockChange (m : Nat) (locked : Bool) (s : State) : Host.Outcome State Fault Refusal :=
  let old := s.rd Reg.PAK_STAT_QRX_LOCK
  let new := if locked then setBit old m else clrBit old m
  if 4 ≤ m ∨ s.inReset pPAK ∨ new = old then done s
  else
    let t := (s.wr Reg.PAK_STAT_QRX_LOCK new).raise pPAK 9
    let par := s.rd (qrxSrc m) % 2
    done (if locked then t
      else if s.bit (qrxValid m) && !t.qrxOf par && !t.qrxOf (par + 2) then t.setFault pPAK 3 else t)

/-- RETURN_LANE_POLARITY_FLIP (R295): 100 µs without lock. -/
def execReturnLanePolarityFlip (m : Nat) (s : State) : Host.Outcome State Fault Refusal :=
  if 4 ≤ m ∨ s.inReset pPAK ∨ (s.rd Reg.PAK_STAT_QRX_LOCK).testBit m then done s
  else done (s.wr (qrxInv m) (1 - s.rd (qrxInv m)))

/-! ### Bring-up (R297, R298) -/

/-- Every used lane goes back to training: role TRAINING, no logical lane, no receiver, and k is 0 (R297). -/
def State.toBlank (s : State) : State :=
  let t := (List.range 80).foldl (fun t n =>
    ((t.setLaneRole n (if t.rd (Reg.QLK_CFG_USE n) = 0 then roOFF else roTRAINING)).wrs
      [(Reg.QLK_STAT_LOGICAL n, 0x7F), (Reg.QLK_STAT_RXN n, 0x7F), (Reg.QLK_STAT_FAILCAUSE n, 0)])) s
  let u := (t.wrs [(Reg.PAK_STAT_LSTATE, lsBLANK), (Reg.PAK_STAT_K, 0)]).modPak fun p =>
    { p with streams := [], takeover := none, waiting := [], lanes := p.lanes.map fun q => { alive := q.alive, scan := q.scan }, rot := none }
  let v := if u.rd Reg.PAK_CFG_MODE = 1 then u.wr Reg.PAK_STAT_LSTATE lsTRAIN else u
  v.countShow

/-- The link goes DOWN: electrical idle, every role OFF, k = 0 (R297). -/
def State.linkDown (s : State) : State :=
  let t := (List.range 80).foldl (fun t n => (t.setLaneRole n roOFF).wrs
    [(Reg.QLK_STAT_LOGICAL n, 0x7F), (Reg.QLK_STAT_RXN n, 0x7F), (Reg.QLK_STAT_FAILCAUSE n, 0)]) s
  ((t.wrs [(Reg.PAK_STAT_LSTATE, lsDOWN), (Reg.PAK_STAT_K, 0)]).modPak fun p =>
    { p with streams := [], takeover := none, waiting := [], rot := none, lanes := p.lanes.map fun q => { scan := q.scan } }).countShow

/-- DOWN ends once the PAK page is enabled and MODE is not off; STOPPING, OFF, RESET and RELEASING end every other state
(R297). -/
def State.linkFollow (s : State) : State :=
  let p := s.pstate pPAK
  let up := p = stIDLE ∨ p = stRUNNING ∨ p = stQUIESCING ∨ p = stQUIESCED
  if s.lstate = lsDOWN then (if up ∧ s.rd Reg.PAK_CFG_MODE ≠ 0 then s.toBlank else s)
  else if up then s else s.linkDown

/-- What a write of PAK_CTRL.RETRAIN does (R297). -/
def State.retrain (s : State) : State :=
  if s.anyArmed then s.raise pPAK 31 else if s.lstate = lsDOWN then s else s.toBlank

/-- What a write of PAK_CFG.MODE does (R66, R297, R303); RWL: no change while the page runs. -/
def State.modeWrite (s : State) (m : Nat) : State :=
  if m = 3 then s.raise pPAK 31
  else if m = s.rd Reg.PAK_CFG_MODE then s
  else if s.running pPAK then s.raise pPAK 31
  else
    let t := s.wr Reg.PAK_CFG_MODE m
    if t.lstate = lsDOWN then t.linkFollow else if m = 0 then t.linkDown else t.toBlank

/-- PAK_RETRAIN (R297). -/
def execPakRetrain (agent : Agent) (s : State) : Host.Outcome State Fault Refusal :=
  done (s.access agent pPAK State.retrain)

/-- PAK_MODE_CHANGE (R297): a write of MODE. -/
def execPakModeChange (agent : Agent) (mode : BitVec 2) (s : State) : Host.Outcome State Fault Refusal :=
  done (s.access agent pPAK fun s => s.modeWrite mode.toNat)

/-- The receiver on which a lane trains (R298): PAGE 0 names it on exactly one receiver, which is locked, and no error
showed on it over the last 2,048 TRAIN frames. -/
def State.trainedOn (s : State) (n : Nat) : Option Nat :=
  match (List.range 80).filter fun r => s.pak.page0.getD r 0x7F == n with
  | [r] => if s.pak.lock.testBit r && decide (2048 ≤ (s.laneAt n).clean) then some r else none
  | _ => none

/-- A lane takes its role after training: `role` and logical number, or FAILED with cause 4. A lane that fails at
bring-up raises no lane-failed event (DEDUCED, log entry 29). -/
def State.placeLane (s : State) (n ro l r : Nat) : State :=
  let t := (s.setLaneRole n ro).wrs [(Reg.QLK_STAT_LOGICAL n, l), (Reg.QLK_STAT_RXN n, r),
    (Reg.QLK_STAT_FAILCAUSE n, if ro = roFAILED then 4 else 0)]
  (if ro = roFAILED then t.setFault (pQLK n) 0 else t).modLane n fun q => { q with sets := 0, setsDue := 2, unlocked := 0 }

/-- The lanes are selected (R298): the first 64 trained lanes with USE = data become data lanes. -/
def State.selectLanes (s : State) : State :=
  let blind := s.rd Reg.PAK_CFG_MODE = 1
  let trained := s.usedLanes.filter fun n => blind || (s.trainedOn n).isSome
  let data := (trained.filter fun n => s.rd (Reg.QLK_CFG_USE n) == 1).take 64
  let rx (n : Nat) : Nat := if blind then 0x7F else (s.trainedOn n).getD 0x7F
  let t := s.usedLanes.foldl (fun t n =>
    if data.contains n then t.placeLane n roDATA (data.idxOf n) (rx n)
    else if trained.contains n then t.placeLane n roSTANDBY 0x7F (rx n)
    else t.placeLane n roFAILED 0x7F 0x7F) s
  let u := (t.wr Reg.PAK_STAT_K data.length).countShow
  if data.isEmpty then (u.wr Reg.PAK_STAT_LSTATE lsFAILED).raise pPAK 1 else u.wr Reg.PAK_STAT_LSTATE lsMAP

/-- TRAIN_PHASE_COMPLETE (R298): 4,096 TRAIN frames have been sent on every used lane. -/
def execTrainPhaseComplete (s : State) : Host.Outcome State Fault Refusal :=
  if s.inReset pPAK = false ∧ s.lstate = lsTRAIN ∧ (s.usedLanes.all fun n => decide (4096 ≤ (s.laneAt n).sent)) = true then
    done s.selectLanes
  else done s

/-- BRINGUP_TIMEOUT (R297): 10 ms in BLANK, TRAIN or MAP. -/
def execBringupTimeout (s : State) : Host.Outcome State Fault Refusal :=
  if s.inReset pPAK = false ∧ (s.lstate = lsBLANK ∨ s.lstate = lsTRAIN ∨ s.lstate = lsMAP) then
    done ((s.wr Reg.PAK_STAT_LSTATE lsFAILED).raise pPAK 1)
  else done s

/-! ### Retraining one lane (R301) -/

/-- What a write of QLK_n_CTRL.RETRAIN does. -/
def State.laneRetrain (s : State) (n : Nat) : State :=
  if s.lstate = lsREADY ∧ (s.laneRole n = roFAILED ∨ s.laneRole n = roOFF) then
    ((s.setLaneRole n roTRAINING).wr (Reg.QLK_STAT_RXN n) 0x7F).modLane n fun q => { alive := q.alive, scan := q.scan }
  else s.raise (pQLK n) 31

/-- QLK_RETRAIN (R301). -/
def execQlkRetrain (agent : Agent) (n : Nat) (s : State) : Host.Outcome State Fault Refusal :=
  if 80 ≤ n then done s else done (s.access agent (pQLK n) fun s => s.laneRetrain n)

/-- LANE_RETRAIN_COMPLETE (R301): the TRAIN phase of lane n alone ends. -/
def execLaneRetrainComplete (n : Nat) (s : State) : Host.Outcome State Fault Refusal :=
  if 80 ≤ n ∨ s.inReset pPAK ∨ s.lstate ≠ lsREADY ∨ s.laneRole n ≠ roTRAINING ∨ (s.laneAt n).sent < 4096 then done s
  else match s.trainedOn n with
    | some r => done (((s.placeLane n roSTANDBY 0x7F r).countShow).spare)
    | none => done (s.placeLane n roFAILED 0x7F 0x7F)

end Sys2Proof.Machine
end

