-- ==== Sys2Proof/Machine/Ary.lean ====
section
/-!
DEFINITION. Array passport and beam check (chapter 13): the array service port, the passport load, housekeeping and
temperature polls, the detector port, check runs, classification and write-back, and the gain updates of R491.
-/
namespace Sys2Proof.Machine

open Sys2Proof (Agent)

/-- Change the array service block's own state. -/
def State.modAry (s : State) (f : Ary → Ary) : State := { s with ary := f s.ary }

/-- The ARY page is RUNNING while a load, a session or a housekeeping command is in progress (R320). -/
def State.aryShow (s : State) : State :=
  s.setRunning pARY (s.bit Reg.ARY_PASS_CTRL_BUSY || s.ary.session.isSome || s.bit Reg.ARY_HK_RES_BUSY)

/-- The opcode and address of a transaction (R305, R306). -/
def spiHead (op addr : Nat) : List Byte := leBytes 1 op ++ beBytes 3 addr

/-! ### The passport (R308, R309) -/

/-- The little-endian 16-bit words of a byte string. -/
def words16 : List Byte → List Nat
  | a :: b :: t => (a.toNat + 256 * b.toNat) :: words16 t
  | _ => []

/-- The little-endian 32-bit words of a byte string. -/
def words32 : List Byte → List Nat
  | a :: b :: c :: d :: t => leVal [a, b, c, d] :: words32 t
  | _ => []

/-- The innkeeper runs. -/
def State.inkUp (s : State) : Bool := !s.bit Reg.INK_STATUS_INK_DOWN

/-- The end of a passport load that fails: RESULT and EVT_RAW[1]. -/
def State.passFail (s : State) (res : Nat) : State :=
  ((s.wrs [(Reg.ARY_PASS_CTRL_RESULT, res), (Reg.ARY_PASS_CTRL_BUSY, 0)]).raise pARY 1).aryShow

/-- What a write of ARY_PASS_CTRL.LOAD does: step 1 (R309). -/
def State.passStart (s : State) : State :=
  let fail (r : Nat) : State := (s.wr Reg.ARY_PASS_CTRL_RESULT r).raise pARY 1
  if s.bit Reg.ARY_PASS_CTRL_BUSY ∨ s.ary.session.isSome then fail 0x01
  else if s.inkUp = false then fail 0x06
  else if s.rd Reg.ALC_BT_STAT_WRITABLE = 0 then fail 0x04
  else ((s.wr Reg.ARY_PASS_CTRL_BUSY 1).modAry fun a =>
    { a with bank := 1 - s.rd Reg.ALC_BT_STAT_ACTIVE, inkLost := false }).aryShow

/-- LOAD (R309). -/
def execLoadPassport (agent : Agent) (s : State) : Host.Outcome State Fault Refusal :=
  done (s.newWork agent pARY State.passStart)

/-- The header of a passport is good: step 2. -/
def passHeaderOk (img : List Byte) : Bool :=
  leAt img 0 4 == 0x50535041 && leAt img 4 2 == 1 && leAt img 6 2 == 512 && leAt img 8 2 == 512 &&
    decide (leAt img 12 4 ≤ 16384) && crc32c.of (slice img 0 60) == leAt img 60 4

/-- The tables of a passport are good: step 3. -/
def passTablesOk (img : List Byte) : Bool :=
  let nd := leAt img 12 4
  let defs := slice img 0x82000 (4 * nd)
  crc32c.of (slice img 0x1000 524288) == leAt img 0x81000 4 && crc32c.of defs == leAt img 0x92000 4 &&
    (words32 defs).all fun e => bits e 29 18 == 0 && bits e 31 30 != 0

/-- The entry that a load writes for beam b (R309): its word 0, and whether its gain is bad. The worst of the listed
classes and a bad gain decides STATE. -/
def passEntry (defs : List Nat) (b gain : Nat) : Nat × Bool :=
  let cls := ((defs.filter fun e => bits e 17 0 == b).map fun e => bits e 31 30).foldl max 0
  if gain < 0x1000 then (0x10000 * max cls 2 + 0x4000, true) else (0x10000 * cls + gain, false)

/-- Step 4: the first `n` entries of a bank take their passport values. -/
def State.passWrite (s : State) (img : List Byte) (bank n : Nat) : State :=
  let defs := words32 (slice img 0x82000 (4 * leAt img 12 4))
  (((words16 (slice img 0x1000 524288)).zipIdx).take n).foldl (fun t (e : Nat × Nat) =>
    let w := passEntry defs e.2 e.1
    let u := t.wrs [(Reg.btWord bank e.2 0, w.1), (Reg.btWord bank e.2 1, 0)]
    if w.2 then u.wr Reg.ARY_PASS_CNT_BADGAIN (u.rd Reg.ARY_PASS_CNT_BADGAIN + 1) else u) (s.wr Reg.ARY_PASS_CNT_BADGAIN 0)

/-- PASSPORT_LOAD_COMPLETE (R309): `image` is what the array's passport memory returns from address 0, and `written` the
entries that had been written when an interruption came. -/
def execPassportLoadComplete (image : List Byte) (written : Nat) (s : State) : Host.Outcome State Fault Refusal :=
  if s.bit Reg.ARY_PASS_CTRL_BUSY = false ∨ s.inReset pARY then done s
  else
    let s0 := s.emit (.spi (spiHead 0x03 0))
    let good := passHeaderOk image && passTablesOk image
    if s0.ary.inkLost ∨ s0.inkUp = false then
      done ((if good then s0.passWrite image s0.ary.bank written else s0).passFail 0x06)
    else if passHeaderOk image = false then done (s0.passFail 0x02)
    else if passTablesOk image = false then done (s0.passFail 0x03)
    else if s0.bit Reg.ALC_BT_STAT_WRITABLE = false ∨ s0.ary.bank = s0.rd Reg.ALC_BT_STAT_ACTIVE then
      done ((s0.passWrite image s0.ary.bank written).passFail 0x05)
    else
      let t := (s0.passWrite image s0.ary.bank 262144).wrs
        ([(Reg.ARY_PASS_INFO_RANK, leAt image 10 1), (Reg.ARY_PASS_INFO_NDEF, leAt image 12 4),
          (Reg.ARY_PASS_CTRL_RESULT, 0), (Reg.ARY_PASS_CTRL_BUSY, 0)] ++
          (List.range 4).map fun i => (Reg.ARY_PASS_SER_SER i, leAt image (0x20 + 4 * i) 4))
      done ((t.raise pARY 0).aryShow)

/-! ### Housekeeping (R310, R311) -/

/-- What a write of ARY_HK_CMD.GO does. -/
def State.hkStart (s : State) : State :=
  if s.bit Reg.ARY_HK_RES_BUSY then s.raise pARY 31
  else ((s.wr Reg.ARY_HK_RES_BUSY 1).modAry fun a =>
    { a with hk := some (s.bit Reg.ARY_HK_CMD_WRITE, s.rd Reg.ARY_HK_CMD_ADDR, s.rd Reg.ARY_HK_CMD_DATA) }).aryShow

/-- HK_GO (R310): ARY_HK_CMD is written with GO = 1. -/
def execHkGo (agent : Agent) (write : Bool) (addr : BitVec 8) (data : BitVec 16) (s : State) : Host.Outcome State Fault Refusal :=
  done (s.newWork agent pARY fun s =>
    if s.bit Reg.ARY_HK_RES_BUSY then s.raise pARY 31
    else (s.wrs [(Reg.ARY_HK_CMD_WRITE, if write then 1 else 0), (Reg.ARY_HK_CMD_ADDR, addr.toNat),
      (Reg.ARY_HK_CMD_DATA, data.toNat)]).hkStart)

/-- HK_TRANSACTION_COMPLETE (R310): `value` is what a read returns. -/
def execHkTransactionComplete (value : BitVec 16) (s : State) : Host.Outcome State Fault Refusal :=
  match s.ary.hk with
  | none => done s
  | some (write, addr, data) =>
    let t := (s.modAry fun a => { a with hk := none }).wr Reg.ARY_HK_RES_BUSY 0
    let u := if write then t.emit (.spi (spiHead 0x02 addr ++ beBytes 2 data))
      else ((t.emit (.spi (spiHead 0x0B addr))).wr Reg.ARY_HK_RES_DATA value.toNat).raise pARY 2
    done u.aryShow

/-- TEMPERATURE_POLL (R311): POLL ms have passed, and the array returns a value. -/
def execTemperaturePoll (value : BitVec 16) (s : State) : Host.Outcome State Fault Refusal :=
  if s.live pARY ∧ s.bit Reg.ARY_CFG_HKTEMP = true then
    done ((s.emit (.spi (spiHead 0x0B 0x10))).tempReport 2 value.toNat)
  else done s

/-- ARRAY_ALERT (R307). -/
def execArrayAlert (s : State) : Host.Outcome State Fault Refusal :=
  done (if s.inReset pARY then s else s.raise pARY 3)

/-! ### The detector port (R312) -/

/-- Every enabled channel is locked. -/
def State.detLocked (s : State) : Bool :=
  s.rd Reg.ARY_DET_CFG_LANES &&& s.rd Reg.ARY_DET_STAT_LOCK == s.rd Reg.ARY_DET_CFG_LANES

/-- The cause of DET_LOST (R320). -/
def State.detLost (s : State) : Bool := s.bit Reg.ARY_BC_CFG_EN && !s.detLocked

/-- DET_LOST follows its cause. -/
def State.detShow (s : State) : State := if s.detLost then s.setFault pARY 1 else s


/-- The gap request of beam check is released (R317). -/
def State.gapRelease (s : State) : State :=
  (s.modMot fun m => { m with gapBeam := false }).wr Reg.MOT_HALT_STAT_GAP
    (if s.bit Reg.MOT_HALT_STAT_GAP && s.mot.gapCal then 1 else 0)

/-- A run is discarded (R315, R319): EVT_RAW[6], and the session ends, with its gap request. The part is carried on at the
next turnaround (DEDUCED, log entry 30). -/
def State.runDiscard (s : State) : State :=
  let t := (((s.modAry fun a => { a with run := none, session := none, spoiled := false }).wr Reg.ARY_BC_STAT_RUNNING 0).raise pARY 6).aryShow
  if s.ary.session.any fun x => !x.manual then t.gapRelease else t

/-- DETECTOR_LOCK_CHANGE (R312, R319): `rate` is the sample rate then measured, in 10 kSa/s. -/
def execDetectorLockChange (ch : Nat) (locked : Bool) (rate : Nat) (s : State) : Host.Outcome State Fault Refusal :=
  let old := s.rd Reg.ARY_DET_STAT_LOCK
  let new := if locked then setBit old ch else clrBit old ch
  if 4 ≤ ch ∨ s.inReset pARY ∨ new = old then done s
  else
    let t := ((s.wrs [(Reg.ARY_DET_STAT_LOCK, new), (Reg.ARY_DET_STAT_RATE, rate)]).raise pARY 4).detShow
    let u := if t.detLocked then t else
      { t with pak := { t.pak with aln := t.pak.aln.map fun r => { r with bad := if r.bad = 0 then 2 else r.bad } } }
    done (if u.ary.run.isSome && !u.detLocked then u.runDiscard else u)

/-! ### Sessions (R317) -/

/-- The beams of the next run: START and COUNT. -/
def State.nextRun (s : State) (ss : Session) : Nat × Nat :=
  (16384 * ss.parts.headD 0 + ss.ofs, min (s.rd Reg.ARY_BC_RUN_COUNT) (16384 - ss.ofs))

/-- The conditions of R314 that hold for every run. -/
def State.runOk (s : State) : Bool := s.switchClosed && s.pins.permitLvl && s.detLocked

/-- The conditions of a manual session (R314). -/
def State.manualOk (s : State) : Bool := s.runOk && s.hstate == hIDLE && !s.anyArmed

/-- What a write of ARY_BC_CTRL.START does. -/
def State.bcStart (s : State) : State :=
  if s.ary.session.isSome ∨ s.bit Reg.ARY_PASS_CTRL_BUSY then s.wr Reg.ARY_BC_CTRL_RESULT 1
  else if s.manualOk = false then s.wr Reg.ARY_BC_CTRL_RESULT 2
  else
    let ps := if s.bit Reg.ARY_BC_CTRL_ALL then List.range 16 else [s.rd Reg.ARY_BC_CTRL_PART]
    let ss : Session := { manual := true, parts := ps }
    ((s.wr Reg.ARY_BC_CTRL_RESULT 0).modAry fun a => { a with session := some ss }).aryShow

/-- What a write of ARY_BC_CTRL.ABORT does: the session ends after the run in hand. -/
def State.bcAbort (s : State) : State :=
  if s.ary.run.isSome then s.modAry fun a => { a with session := a.session.map fun x => { x with abort := true } }
  else (s.modAry fun a => { a with session := none }).aryShow

/-- ARY_BC_START (R317): ARY_BC_CTRL is written with START = 1. -/
def execAryBcStart (agent : Agent) (all : Bool) (part : BitVec 4) (s : State) : Host.Outcome State Fault Refusal :=
  done (s.newWork agent pARY fun s =>
    (s.wrs [(Reg.ARY_BC_CTRL_ALL, if all then 1 else 0), (Reg.ARY_BC_CTRL_PART, part.toNat)]).bcStart)

/-- ARY_BC_ABORT (R317). -/
def execAryBcAbort (agent : Agent) (s : State) : Host.Outcome State Fault Refusal :=
  done (s.access agent pARY State.bcAbort)


/-- The time of a run (R317): DLY + COUNT × SLOT, in 10 ns. -/
def State.runTime (s : State) (count : Nat) : Nat := s.rd Reg.ARY_BC_TIME_DLY + count * s.rd Reg.ARY_BC_CFG_SLOT

/-- The CHECK transaction of a run (R306, R313). -/
def State.startRun (s : State) (ss : Session) : State :=
  let r := s.nextRun ss
  (((s.emit (.spi (spiHead 0x20 r.1 ++ beBytes 2 r.2 ++ leBytes 1 (s.rd Reg.ARY_BC_CFG_SLOT) ++
    leBytes 1 (s.rd Reg.ARY_BC_CFG_ON)))).modAry fun a =>
      { a with run := some r, spoiled := false, session := some ss }).wr Reg.ARY_BC_STAT_RUNNING 1).aryShow

/-- CHECK_RUN_START (R313, R314, R317): `left` is the time before GAP_MAX expires, in 10 ns. Rotation and alignment come
first in a dwell (R485). -/
def execCheckRunStart (left : Nat) (s : State) : Host.Outcome State Fault Refusal :=
  if s.live pARY = false ∨ s.ary.run.isSome then done s
  else match s.ary.session with
    | some ss =>
      if ss.manual then done (if s.manualOk then s.startRun ss else s)
      else if s.mot.gapBeam = false ∨ s.mot.gapCal ∨ s.bit Reg.MOT_HALT_STAT_GAP = false ∨ s.runOk = false then done s
      else done (if s.runTime (s.nextRun ss).2 + 10000 ≤ left then s.startRun ss else s.gapRelease)
    | none =>
      let ss : Session := { manual := false, parts := [s.rd Reg.ARY_BC_STAT_NEXT_PART], ofs := s.rd Reg.ARY_BC_STAT_NEXT_OFS }
      if s.bit Reg.ARY_BC_CFG_EN = false ∨ s.mot.gapBeam = false ∨ s.mot.gapCal ∨ s.bit Reg.MOT_HALT_STAT_GAP = false ∨
          s.runOk = false then done s
      else done (if s.runTime (s.nextRun ss).2 + 10000 ≤ left then s.startRun ss else s.gapRelease)

/-! ### Measurement, classification and write-back (R315, R316, R318) -/

/-- The ratio of a slot (R315). -/
def ratio (q n d nd nom : Int) : Nat := (min (max (rhe ((q * nd - d * n) * 2 ^ 22) (nd * n * nom)) 0) 65535).toNat

/-- The class of a ratio, in the encoding of STATE (R316). -/
def State.classOf (s : State) (r : Nat) : Nat :=
  if s.rd Reg.ARY_BC_THR_WEAK_LO ≤ r then 0 else if s.rd Reg.ARY_BC_THR_ABS_LO ≤ r then 1 else 2

/-- The HBM address of a result-table entry (R318). -/
def State.resultAddr (s : State) (b : Nat) : Nat := s.rd Reg.ARY_BC_BASE_BASE * mib + 4 * b

/-- The table lies in the last region above the survey workspace; a table placed elsewhere is not written (DESIGN CHOICE,
log entry 30). -/
def State.resultFits (s : State) : Bool :=
  decide (s.wsEnd ≤ s.resultAddr 0) && decide (s.resultAddr 262144 ≤ hbmSize)

/-- Write a result-table entry. -/
def State.putResult (s : State) (b session cls r : Nat) : State :=
  if s.resultFits then s.hbmStore (s.resultAddr b) (leBytes 4 (0x1000000 * session + 0x10000 * cls + r)) else s

/-- A beam-table entry takes a new STATE, SRC = 0b01 and STAMP = SESSION (R318). -/
def State.putClass (s : State) (bank b cls session : Nat) : State :=
  let w := s.rd (Reg.btWord bank b 0)
  ((s.wrs [(Reg.btWord bank b 0, 0x10000 * cls + w % 0x10000), (Reg.btWord bank b 1, 0x40000000 + session)]).satInc
    Reg.ARY_BC_CNT_CHANGED 1).raise pARY 7

/-- The class write-back of one measured beam; STUCK is never cleared (R316). A host write in the same cycle lands
instead, and the drop is counted. -/
def State.writeClass (s : State) (bank session b cls : Nat) (host : Bool) : State :=
  if s.btState bank b = 3 ∨ s.btState bank b = cls then s
  else if host then s.satInc Reg.ARY_BC_CNT_SKIPPED 1
  else (s.putClass bank b cls session).modAry fun a => { a with session := a.session.map fun x => { x with wrote := true } }

/-- The target gain of R491; r is above 0 while ABS_LO is, and for r = 0 the target is a free value. -/
def State.gainTarget (s : State) (r : Nat) : Int × State :=
  if r = 0 then ((s.draw.1 : Int), s.draw.2) else (min (max (rhe (2 ^ 28) r) 4096) 65535, s)

/-- The gain update of one measured beam (R491). -/
def State.writeGain (s : State) (bank session b cls r : Nat) (host : Bool) : State :=
  if s.bit Reg.ARY_GAIN_CFG_EN = false ∨ 2 ≤ cls ∨ 2 ≤ s.btState bank b then s
  else
    let t := (s.gainTarget r).2
    let g : Int := t.btGain bank b
    let dg := (s.gainTarget r).1 - g
    let step : Int := t.rd Reg.ARY_GAIN_CFG_STEP
    if dg.natAbs ≤ t.rd Reg.ARY_GAIN_CFG_DEAD then t
    else if host then t.satInc Reg.ARY_BC_CNT_SKIPPED 1
    else
      let w := t.rd (Reg.btWord bank b 0)
      let u := (t.satInc Reg.ARY_GAIN_CNT_STEPS 1).satInc Reg.ARY_GAIN_CNT_LIMITED (if step < dg.natAbs then 1 else 0)
      (u.wrs [(Reg.btWord bank b 0, w / 0x10000 * 0x10000 + enc 16 (g + max (-step) (min step dg))),
        (Reg.btWord bank b 1, 0x40000000 + session)]).modAry fun a =>
          { a with session := a.session.map fun x => { x with wrote := true } }

/-- The write-back of beams from the result table: classes first, then gains (R318, R491); a poisoned entry is skipped
(R333). -/
def State.writeBack (s : State) (bs : List Nat) (session : Nat) (host : List Nat) : State :=
  let bank := 1 - s.rd Reg.ALC_BT_STAT_ACTIVE
  let entry (b : Nat) : Nat := s.hbmVal (s.resultAddr b) 4
  let live := bs.filter fun b => entry b / 0x1000000 == session && !s.poisoned (s.resultAddr b) 4
  let s := if live.isEmpty then s else s.btInject
  let t := live.foldl (fun t b => t.writeClass bank session b (bits (entry b) 17 16) (host.contains b)) s
  live.foldl (fun t b => t.writeGain bank session b (bits (entry b) 17 16) (entry b % 0x10000) (host.contains b)) t

/-- The staging bank takes a write. -/
def State.stagingOpen (s : State) : Bool := s.bit Reg.ALC_BT_STAT_WRITABLE

/-- Write back the beams of a run, or hold them while the staging bank is not writable. -/
def State.writeBackRun (s : State) (bs : List Nat) (host : List Nat) : State :=
  if s.stagingOpen && s.ary.held.isEmpty then s.writeBack bs (s.rd Reg.ARY_BC_STAT_SESSION) host
  else ((s.modAry fun a => { a with held := a.held ++ bs }).wr Reg.ARY_BC_STAT_PEND_WB 1).raise pARY 8

/-- The stuck list's beams become STUCK in the staging bank (R316). -/
def State.writeStuck (s : State) (bs : List Nat) (session : Nat) : State :=
  let bank := 1 - s.rd Reg.ALC_BT_STAT_ACTIVE
  bs.foldl (fun t b => if t.btState bank b = 3 then t else (t.putClass bank b 3 session).modAry fun a =>
    { a with session := a.session.map fun x => { x with wrote := true } }) s

/-- The end of a part: the stuck list is read, SESSION advances, EVT_RAW[5], and with SWAP = 1 a swap is asked for. -/
def State.partEnd (s : State) (ss : Session) (stuck : List Nat) : State :=
  let n := min 32 stuck.length
  let s1 := (List.range (2 * n + 1)).foldl (fun t i => t.emit (.spi (spiHead 0x0B (0x20 + i)))) s
  let bs := (stuck.take 32).filter fun b => decide (b < 262144)
  let session := s1.rd Reg.ARY_BC_STAT_SESSION
  let s2 := if bs.isEmpty then s1 else if s1.stagingOpen then s1.writeStuck bs session
    else ((s1.modAry fun a => { a with stuck := a.stuck ++ bs }).wr Reg.ARY_BC_STAT_PEND_WB 1).raise pARY 8
  let wrote := match s2.ary.session with | some x => x.wrote | none => false
  let s3 := (s2.wrapInc Reg.ARY_BC_STAT_SESSION 1).raise pARY 5
  let s4 := if s3.bit Reg.ARY_GAIN_CFG_EN && s3.bit Reg.ARY_GAIN_CFG_SWAP && wrote then s3.swap else s3
  if ss.manual then
    let rest := ss.parts.tail
    s4.modAry fun a => { a with session := if rest.isEmpty || ss.abort then none else some { manual := true, parts := rest } }
  else
    ((s4.wrs [(Reg.ARY_BC_STAT_NEXT_PART, ss.parts.headD 0 + 1), (Reg.ARY_BC_STAT_NEXT_OFS, 0)]).modAry fun a =>
      { a with session := none }).gapRelease

/-- After a run: the next run of the part, the part's end, or an aborted session's. -/
def State.runAfter (s : State) (ss : Session) (count : Nat) (stuck : List Nat) : State :=
  let ofs := ss.ofs + count
  let t := if ss.manual then s else s.wr Reg.ARY_BC_STAT_NEXT_OFS ofs
  if 16384 ≤ ofs then (t.partEnd ss stuck).aryShow
  else (t.modAry fun a => { a with session := if ss.abort then none else a.session.map fun x => { x with ofs := ofs } }).aryShow

/-- CHECK_RUN_COMPLETE (R315 to R318, R491): the dark sum and its samples, each slot's sum and samples, the array's stuck
list if the part ends here, and the beams whose entry a host write reaches in the same cycle. -/
def execCheckRunComplete (dark : Int) (darkN : Nat) (slots : List (Int × Nat)) (stuck hostHit : List Nat) (s : State) :
    Host.Outcome State Fault Refusal :=
  match s.ary.run, s.ary.session with
  | some (start, count), some ss =>
    let s0 := (s.modAry fun a => { a with run := none }).wr Reg.ARY_BC_STAT_RUNNING 0
    let base : Int := sx 16 (s.rd Reg.ARY_BC_DARK_BASE)
    let excess := decide (0 < darkN) && decide ((s.rd Reg.ARY_BC_DARK_LIM : Int) * darkN < dark - base * darkN)
    let empty := darkN == 0 || slots.length != count || slots.any fun e => e.2 == 0
    if excess then
      done (((s0.modAry fun a => { a with dark := true }).setFault pARY 0).raise pARY 9).runDiscard
    else
      let s1 := if darkN = 0 then s0 else s0.modAry fun a => { a with dark := false }
      if empty || s1.ary.spoiled || !s1.runOk then done s1.runDiscard
      else
        let session := s1.rd Reg.ARY_BC_STAT_SESSION
        let nom : Int := s1.rd Reg.ARY_BC_NOM_NOM
        let t := slots.zipIdx.foldl (fun t e =>
          let r := ratio e.1.1 e.1.2 dark darkN nom
          t.putResult (start + e.2) session (s1.classOf r) r) s1
        done ((t.writeBackRun ((List.range count).map fun i => start + i) hostHit).runAfter ss count stuck)
  | _, _ => done s

/-- WRITE_BACK_APPLY (R318): the staging bank has become writable, and what is held is applied, entries of the latest
session only. -/
def execWriteBackApply (s : State) : Host.Outcome State Fault Refusal :=
  if s.bit Reg.ARY_BC_STAT_PEND_WB && s.stagingOpen && !s.inReset pARY then
    let latest := (s.ary.held.map fun b => s.hbmVal (s.resultAddr b) 4 / 0x1000000)
    let now := s.rd Reg.ARY_BC_STAT_SESSION
    let session := if latest.contains now then now else (now + 255) % 256
    let t := (s.modAry fun a => { a with held := [], stuck := [] }).wr Reg.ARY_BC_STAT_PEND_WB 0
    done ((t.writeBack s.ary.held session []).writeStuck s.ary.stuck session)
  else done s

end Sys2Proof.Machine
end

