-- ==== Sys2Proof/Machine/Cal.lean ====
section
/-!
DEFINITION. Background calibration (chapter 21): receive adaptation, the detector's sampling phases, margin scans, lane
rotation and the alignment run. Times are in 1/16 ns unless a docstring says otherwise.
-/
namespace Sys2Proof.Machine

open Sys2Proof (AlnPulse)

/-! ### Receivers (R480 to R482) -/

/-- The equaliser registers of receiver m: QRX_0 to QRX_3, then MRX_0 and MRX_1 (R481). -/
def eqFreeze (m : Nat) : Fld := if m < 4 then Reg.PAK_QRX_EQ_FREEZE m else Reg.MOT_MRX_EQ_FREEZE (m - 4)
def eqCtle (m : Nat) : Fld := if m < 4 then Reg.PAK_QRX_EQ_CTLE m else Reg.MOT_MRX_EQ_CTLE (m - 4)
def eqPhase (m : Nat) : Fld := if m < 4 then Reg.PAK_QRX_EQ_PHASE m else Reg.MOT_MRX_EQ_PHASE (m - 4)
def eqEyeW (m : Nat) : Fld := if m < 4 then Reg.PAK_QRX_EQ_EYE_W m else Reg.MOT_MRX_EQ_EYE_W (m - 4)
def eqEyeH (m : Nat) : Fld := if m < 4 then Reg.PAK_QRX_EQ_EYE_H m else Reg.MOT_MRX_EQ_EYE_H (m - 4)

/-- A step of at most one. -/
def unitStep (d : Int) : Int := max (-1) (min 1 d)

/-- RECEIVER_ADAPTATION_STEP (R480): 4,096 bits of receiver m. The operands are the directions its updates ask for and what
its monitor measures; the CTLE setting moves once per 256 steps at most. FREEZE holds all but the monitor. -/
def execReceiverAdaptationStep (rx : Nat) (ctle phase : Int) (taps : List Int) (eyeW eyeH : BitVec 8) (s : State) :
    Host.Outcome State Fault Refusal :=
  if 6 ≤ rx ∨ s.inReset (if rx < 4 then pPAK else pMOT) then done s
  else
    let s1 := s.wrs [(eqEyeW rx, eyeW.toNat), (eqEyeH rx, eyeH.toNat)]
    if s.bit (eqFreeze rx) then done s1
    else
      let c : Int := s.rd (eqCtle rx)
      let since := (s.pak.rx.getD rx {}).since
      let c1 := if 256 ≤ since then max 0 (min 15 (c + unitStep ctle)) else c
      let p1 := ((s.rd (eqPhase rx) : Int) + unitStep phase) % 64
      let s2 := s1.wrs [(eqCtle rx, c1.toNat), (eqPhase rx, p1.toNat)]
      done (s2.modPak fun p => { p with rx := modAt p.rx rx fun r =>
        { taps := r.taps.zipIdx.map fun e => e.1 + unitStep (taps.getD e.2 0), since := if c1 = c then min 256 (r.since + 1) else 1 } })

/-- PH_i of ARY_DET_PHASE. -/
def detPhase (i : Nat) : Fld := ⟨0x300088, 4 * i, 4, 4⟩

/-- One phase from `a` towards `b` the shorter way round the 8 phases of a bit; from the opposite phase, upwards. -/
def phaseTowards (a b : Nat) : Nat :=
  let d := (b + 8 - a) % 8
  if d = 0 then a else if d ≤ 4 then (a + 1) % 8 else (a + 7) % 8

/-- DETECTOR_PHASE_STEP (R482): 4,096 samples of a locked channel; `mid` is the midpoint between the observed
transitions. -/
def execDetectorPhaseStep (ch mid : Nat) (s : State) : Host.Outcome State Fault Refusal :=
  if 4 ≤ ch ∨ s.inReset pARY ∨ s.bit Reg.ARY_DET_PHASE_FREEZE ∨ (s.rd Reg.ARY_DET_STAT_LOCK).testBit ch = false then done s
  else done (s.wr (detPhase ch) (phaseTowards (s.rd (detPhase ch)) (mid % 8)))

/-! ### Margin scans (R483, R484) -/

/-- QLK_n_EYE follows the preset in force, from the latest complete scan; on a data lane it keeps its values. -/
def State.eyeShow (s : State) (n : Nat) : State :=
  if s.laneRole n = roDATA then s
  else match (s.laneAt n).scan.last[s.rd (Reg.QLK_TXEQ_PRESET n)]? with
    | some e => s.wrs [(Reg.QLK_EYE_WIDTH n, min e.1 0xFFFF), (Reg.QLK_EYE_HEIGHT n, min e.2 0xFFFF)]
    | none => s

/-- The preset with the largest WIDTH × HEIGHT; the lowest of equal ones. -/
def bestPreset (l : List (Nat × Nat)) : Nat :=
  l.zipIdx.foldl (fun b e => if (l.getD b (0, 0)).1 * (l.getD b (0, 0)).2 < e.1.1 * e.1.2 then e.2 else b) 0

/-- A scan of lane n is complete (R484). -/
def State.scanEnds (s : State) (n : Nat) (l : List (Nat × Nat)) : State :=
  let prod (p : Nat) : Nat := (l.getD p (0, 0)).1 * (l.getD p (0, 0)).2
  let s1 := ((s.modPak fun p => { p with scans := p.scans + 1 }).satInc (Reg.QLK_TXEQ_SCANS n) 1).modLane n fun q =>
    { q with scan := { q.scan with preset := 0, width := false, step := 0, height := 0, now := [], last := l,
                                   order := s.pak.scans + 1, ready := true } }
  let b := bestPreset l
  let cur := prod (s.rd (Reg.QLK_TXEQ_PRESET n))
  let s2 := if s.bit (Reg.QLK_TXEQ_AUTO n) ∧ cur < prod b ∧ 9 * cur ≤ 8 * prod b then s1.wr (Reg.QLK_TXEQ_PRESET n) b else s1
  s2.eyeShow n

/-- MARGIN_SCAN_STEP (R483): the step in hand of STANDBY lane n passes or fails. Steps of the height series lower the swing
by 10 mV each, steps of the width series raise the jitter by 1/256 UI each; the first that fails ends its series. -/
def execMarginScanStep (n : Nat) (passed : Bool) (s : State) : Host.Outcome State Fault Refusal :=
  if 80 ≤ n ∨ s.laneRole n ≠ roSTANDBY ∨ s.inReset pPAK ∨ s.inReset (pQLK n) then done s
  else
    let c := (s.laneAt n).scan
    let put (c : Scan) : State := s.modLane n fun q => { q with scan := c }
    if passed then done (put { c with step := c.step + 1 })
    else if c.width = false then done (put { c with width := true, step := 0, height := 10 * c.step })
    else
      let l := c.now ++ [(2 * c.step, c.height)]
      if c.preset < 7 then done (put { c with preset := c.preset + 1, width := false, step := 0, height := 0, now := l })
      else done (s.scanEnds n l)

/-! ### Rotation and the alignment run in a dwell (R485 to R489) -/

/-- The gap request of background calibration is released once neither is pending. -/
def State.calShow (s : State) : State :=
  if s.pak.rotDue ∨ s.pak.alnDue ∨ s.mot.gapCal = false then s
  else (s.modMot fun m => { m with gapCal := false }).wr Reg.MOT_HALT_STAT_GAP
    (if s.bit Reg.MOT_HALT_STAT_GAP && s.mot.gapBeam then 1 else 0)

/-- A dwell is open for calibration: the request is raised and granted, the innkeeper runs, and the packer is live. -/
def State.calDwell (s : State) : Bool :=
  s.mot.gapCal && s.bit Reg.MOT_HALT_STAT_GAP && s.inkUp && s.live pPAK

/-- Every DATA frame sent has been acknowledged. -/
def State.allAcked (s : State) : Bool := s.pak.streams.all fun st => st.frames.isEmpty && !st.lastDue

/-- The data lane whose last margin scan is oldest; a lane that has had none counts as oldest. -/
def State.oldestData (s : State) : Option Nat :=
  ((List.range 80).filter fun n => s.laneRole n == roDATA).foldl (fun b n => match b with
    | none => some n
    | some m => if (s.laneAt n).scan.order < (s.laneAt m).scan.order then some n else some m) none

/-- The lowest STANDBY lane that has completed a scan since it last left role DATA. -/
def State.freshSpare (s : State) : Option Nat :=
  (List.range 80).find? fun n => s.laneRole n == roSTANDBY && (s.laneAt n).scan.ready

/-- LANE_ROTATION (R486): the exchange begins, or, with no lanes to exchange, the rotation is over. -/
def execLaneRotation (s : State) : Host.Outcome State Fault Refusal :=
  if s.calDwell = false ∨ s.pak.rotDue = false ∨ s.lstate ≠ lsREADY ∨ s.pak.takeover.isSome ∨ s.allAcked = false then done s
  else match s.oldestData, s.freshSpare with
    | some old, some new =>
      let l := s.rd (Reg.QLK_STAT_LOGICAL old)
      let t := ((s.setLaneRole old roSTANDBY).wr (Reg.QLK_STAT_LOGICAL old) 0x7F).modLane old fun q => { q with setsDue := 2 }
      let u := ((t.setLaneRole new roDATA).wr (Reg.QLK_STAT_LOGICAL new) l).modLane new fun q => { q with setsDue := 2, unlocked := 0 }
      done (u.modPak fun p => { p with rot := some (old, new), takeover := some (l, new) }).countShow
    | _, _ => done (s.modPak fun p => { p with rotDue := false }).calShow

/-- ROTATION_ADOPTION_TIMEOUT (R486): PAGE 1 has not shown the adoption within 100 µs. -/
def execRotationAdoptionTimeout (s : State) : Host.Outcome State Fault Refusal :=
  if s.pak.rot.isSome then done s.unrotate.calShow else done s

/-- The run in hand ends with a RESULT. -/
def State.alnEnd (s : State) (res : Nat) : State :=
  ((s.modPak fun p => { p with aln := none, alnDue := false, alnNow := false }).wrs
    [(Reg.PAK_ALN_STAT_RESULT, res), (Reg.PAK_ALN_STAT_RUNNING, 0)]).calShow

/-- The run is discarded (R488): its streams close as a stripe's do (R284), and no SKEW changes. -/
def State.alnDiscard (s : State) (res : Nat) : State :=
  (s.modPak fun p => { p with streams := p.streams.map fun st =>
    if st.wseq = alnSeq then
      { st with lastDue := st.lastDue || (decide (0 < st.pos) && decide (st.pos < st.total)), pos := st.total, frames := [] }
    else st }).alnEnd res

/-- The conditions of R487, within a dwell. -/
def State.alnOk (s : State) (w : Waybill) : Bool :=
  s.switchClosed && s.pins.permitLvl && s.detLocked && s.allAcked && s.pak.takeover.isNone && s.pak.waiting.isEmpty &&
    (s.pak.streams.all fun st => st.wseq != w.seq)

/-- The streams of an alignment run, one on every data lane (R487 step 1). -/
def alnStreams (k n order repeats : Nat) : List Stream :=
  (List.range k).map fun l =>
    { logical := l, wseq := alnSeq, k := k, n := n, order := order, total := 8 * n * parcelsBelow k l (4096 * (k * repeats)) }

/-- ALIGNMENT_RUN_START (R487): at a time, in the dwell before a stripe, after any rotation. -/
def execAlignmentRunStart (now : Int) (s : State) : Host.Outcome State Fault Refusal :=
  match s.cur with
  | none => done s
  | some (w, p) =>
    if s.calDwell = false ∨ s.pak.alnDue = false ∨ s.pak.rotDue ∨ s.pak.aln.isSome then done s
    else if s.alnOk w = false then done (s.alnEnd 1)
    else
      let c := min (s.rd Reg.PAK_ALN_CFG_CODE) (2 ^ p.n - 1)
      let r : AlnRun :=
        { code := c, dur := c * w.td, period := max (128000 * s.rd Reg.PAK_ALN_CFG_PERIOD) (c * w.td + 256000),
          spacing := ceilDiv p.tMin 16, k := p.lanes, repeats := s.rd Reg.PAK_ALN_CFG_REPEAT, n := p.n,
          order := s.rd Reg.PAK_CFG_ORDER, opened := now }
      done ((s.modPak fun q => { q with aln := some r, alnNow := false,
                                        streams := alnStreams r.k r.n r.order r.repeats }).wr Reg.PAK_ALN_STAT_RUNNING 1)

/-- The time of the phase-0 edge of alignment tick a: 100 µs + a × P after the stream opens, on the 0.25 ns grid. -/
def AlnRun.edge (r : AlnRun) (a : Nat) : Int := gridUp (r.opened + 1600000 + ceilDiv (a * r.period) 16)

/-- The ticks of the run. -/
def AlnRun.ticks (r : AlnRun) : Nat := r.k * r.repeats

/-- ALIGNMENT_TICK_EDGE (R487 step 2): the place of the next edge has come. An edge that cannot be committed discards the
run. -/
def execAlignmentTickEdge (s : State) : Host.Outcome State Fault Refusal :=
  match s.pak.aln with
  | none => done s
  | some r =>
    if r.bad ≠ 0 then done (s.alnDiscard r.bad)
    else if r.ticks ≤ r.launched then done s
    else if s.tickAcked alnSeq r.k r.launched = false ∨ s.live pMOT = false then done (s.alnDiscard 3)
    else
      let at_ := r.edge r.launched
      let t := (s.emit (.edge r.launched 0 at_)).modMot fun m =>
        { m with lastEdge := some (r.launched, at_, r.spacing, 0), nextPhase := 1, resDone := true }
      done (t.modPak fun p => { p with aln := some { r with launched := r.launched + 1 } })

/-- A sum of fractions with positive denominators. -/
def addFrac (x y : Int × Nat) : Int × Nat := (x.1 * y.2 + y.1 * x.2, x.2 * y.2)

/-- The nominal arrival of the pulse of tick a for logical lane l, in 1/6,400 ns (R488). -/
def State.alnArrival (s : State) (r : AlnRun) (l a : Nat) : Int :=
  let q := (l + 4096 * r.k - 4096 * a % r.k) % r.k
  400 * r.edge a + 524288 + 1600 * (q % 64 % 16 * r.spacing + s.rd Reg.PAK_ALN_LAT_LAT)

/-- ΣQf, ΣQs and Σ(arr + D − s) of logical lane l over its pulses, the last in 1/6,400 ns (R488). -/
def State.alnSums (s : State) (r : AlnRun) (pulses : List AlnPulse) (l : Nat) : (Int × Nat) × (Int × Nat) × Int :=
  (List.range r.repeats).foldl (fun acc i =>
    let a := l * r.repeats + i
    match pulses[a]? with
    | none => acc
    | some e =>
      (addFrac acc.1 (e.full * e.darkN - e.dark * e.fullN, e.darkN), addFrac acc.2.1 (e.split * e.darkN - e.dark * e.splitN, e.darkN),
        acc.2.2 + (s.alnArrival r l a + 25 * r.dur - 400 * e.start))) ((0, 1), (0, 1), 0)

/-- δ_n in 0.01 ns (R488), for ΣQf > 0. -/
def alnLate (r : AlnRun) (e : (Int × Nat) × (Int × Nat) × Int) : Int :=
  rhe (e.2.1.1 * e.1.2 * (25 * r.dur) * r.repeats - e.2.2 * e.2.1.2 * e.1.1) (64 * e.2.1.2 * e.1.1 * r.repeats)

/-- The new SKEW of a lane (R489). -/
def newSkew (skew t tMin stepMax : Int) : Nat :=
  (min (max (skew + max (-stepMax) (min stepMax (t - tMin - skew))) 0) 2560).toNat

/-- The dark check of R315 over a pulse's dark window: no sample, or an excess. -/
def State.alnDark (s : State) (e : AlnPulse) : Bool :=
  e.darkN == 0 || decide ((s.rd Reg.ARY_BC_DARK_LIM : Int) * e.darkN < e.dark - sx 16 (s.rd Reg.ARY_BC_DARK_BASE) * e.darkN)

/-- The values of R489 are written: each data lane's SKEW, PAK_ALN_SPREAD and RUNS. -/
def State.alnApply (s : State) (r : AlnRun) (pulses : List AlnPulse) : State :=
  let ts : List (Nat × Int) := ((List.range 80).filter fun n => s.laneRole n == roDATA).map fun n =>
    (n, (s.rd (Reg.QLK_SKEW_SKEW n) : Int) + alnLate r (s.alnSums r pulses (s.rd (Reg.QLK_STAT_LOGICAL n))))
  match ts with
  | [] => s.alnEnd 3
  | h :: _ =>
    let tMin := ts.foldl (fun m e => min m e.2) h.2
    let top := ts.foldl (fun b e => if b.2 < e.2 then e else b) h
    let step : Int := s.rd Reg.PAK_ALN_CFG_STEP_MAX
    let t := ts.foldl (fun t e => t.wr (Reg.QLK_SKEW_SKEW e.1) (newSkew (s.rd (Reg.QLK_SKEW_SKEW e.1)) e.2 tMin step)) s
    ((t.wrs [(Reg.PAK_ALN_SPREAD_LANE, top.1), (Reg.PAK_ALN_SPREAD_DELTA, min (top.2 - tMin).toNat 0xFFFF)]).satInc
      Reg.PAK_ALN_STAT_RUNS 1).alnEnd 0

/-- ALIGNMENT_RUN_COMPLETE (R488, R489): the last tick has been launched; `pulses` is what the detector saw, tick by
tick. -/
def execAlignmentRunComplete (pulses : List AlnPulse) (s : State) : Host.Outcome State Fault Refusal :=
  match s.pak.aln with
  | none => done s
  | some r =>
    if r.bad ≠ 0 then done (s.alnDiscard r.bad)
    else if r.launched < r.ticks then done s
    else if pulses.length ≠ r.ticks ∨ (pulses.any fun e => s.alnDark e) then done (s.alnDiscard 2)
    else if (List.range r.k).any fun l => decide ((s.alnSums r pulses l).1.1 ≤ 0) then done (s.alnDiscard 4)
    else done (s.alnApply r pulses)

end Sys2Proof.Machine
end

