-- ==== Sys2Proof/Machine/Chk.lean ====
section
/-!
DEFINITION. The check units of chapter 16 (R366 to R377): the queue of writes, and what each entry does when it is
taken.
-/
namespace Sys2Proof.Machine

open Sys2Proof (Agent)

/-- The page of unit n. -/
abbrev pCHK (n : Nat) : Page := ⟨.chk, n⟩

/-- The unit's own state. -/
def State.chkUnit (s : State) (n : Nat) : Chk := s.chk.getD n {}

/-- Change the unit's own state. -/
def State.setChk (s : State) (n : Nat) (u : Chk) : State := { s with chk := setAt s.chk n u }

/-- The unit's configuration as a check code (R366). -/
def State.chkSet (s : State) (n : Nat) : CrcSet :=
  { w := s.rd (Reg.CHK_CFG_WIDTH n)
    poly := s.rd64 (Reg.CHK_POLY_LO_POLY n) (Reg.CHK_POLY_HI_POLY n)
    init := s.rd64 (Reg.CHK_INIT_LO_INIT n) (Reg.CHK_INIT_HI_INIT n)
    xorOut := s.rd64 (Reg.CHK_XOR_LO_XOROUT n) (Reg.CHK_XOR_HI_XOROUT n)
    refIn := s.bit (Reg.CHK_CFG_REFIN n)
    refOut := s.bit (Reg.CHK_CFG_REFOUT n) }

/-- RUN. -/
def State.chkRun (s : State) (n : Nat) : Nat := s.rd64 (Reg.CHK_RUN_LO_RUN n) (Reg.CHK_RUN_HI_RUN n)

/-- Write RUN. -/
def State.setChkRun (s : State) (n v : Nat) : State := s.wr64 (Reg.CHK_RUN_LO_RUN n) (Reg.CHK_RUN_HI_RUN n) v

/-- RESULT shows the final value at every moment, and STAT.QUEUE the entries queued (R366, R377). -/
def State.chkShow (s : State) (n : Nat) : State :=
  let r := (s.chkSet n).final (s.chkRun n)
  ((s.wr64 (Reg.CHK_RESULT_LO_RESULT n) (Reg.CHK_RESULT_HI_RESULT n) r).wr (Reg.CHK_STAT_QUEUE n)
    (min 16 (s.chkUnit n).queue.length)).setRunning (pCHK n) (!(s.chkUnit n).queue.isEmpty)

/-- The unit accepts a write from an agent: the page is out of reset, on and not stopping, and the agent owns the
unit (R62, R374, R375). -/
def State.chkAccepts (s : State) (n : Nat) (ag : Agent) : Bool :=
  !s.inReset (pCHK n) && s.pstate (pCHK n) != stOFF && s.pstate (pCHK n) != stSTOPPING &&
    ((s.rd (Reg.CHK_CFG_OWNER n) == 0 && ag == .host) || (s.rd (Reg.CHK_CFG_OWNER n) == 1 && ag == .innkeeper))

/-- Queue an entry, or discard the write with EVT_RAW[31] (R368, R374, R375). A write that meets a full queue is held
by the register network and stands behind the sixteen entries. -/
def State.chkQueue (s : State) (n : Nat) (ag : Agent) (e : ChkEntry) : State :=
  if s.chkAccepts n ag then
    (s.setChk n { s.chkUnit n with queue := (s.chkUnit n).queue ++ [e] }).chkShow n
  else s.raise (pCHK n) 31

/-- A _LO write is held until the _HI write that follows (R369). -/
def State.chkHoldLo (s : State) (n : Nat) (ag : Agent) (off v : Nat) : State :=
  if s.chkAccepts n ag then
    s.setChk n { s.chkUnit n with heldLo := (off, v) :: (s.chkUnit n).heldLo.filter fun e => e.1 != off }
  else s.raise (pCHK n) 31

/-- A _HI write enters the queue together with the held _LO write (R369). -/
def State.chkPair (s : State) (n : Nat) (ag : Agent) (off v : Nat) : State :=
  let u := s.chkUnit n
  let lo := (u.heldLo.find? fun e => e.1 == off).map Prod.snd
  if s.chkAccepts n ag then
    ((s.setChk n { u with heldLo := u.heldLo.filter fun e => e.1 != off }).chkQueue n ag (.pair off lo v))
  else s.raise (pCHK n) 31

/-- RUN ← INIT; CMPV and MATCH are cleared, SYNC is set and BAD ends (R366, R372, R373, R376). -/
def State.chkStart (s : State) (n : Nat) : State :=
  (s.setChkRun n (s.chkSet n).init).wrs
    [(Reg.CHK_STAT_CMPV n, 0), (Reg.CHK_STAT_MATCH n, 0), (Reg.CHK_STAT_BAD n, 0), (Reg.CHK_ALIVE_CFG_SYNC n, 1)]

/-- Load a named set and start (R371). -/
def State.chkPreset (s : State) (n set : Nat) : State :=
  let c := presetSet set
  ((((s.wr64 (Reg.CHK_POLY_LO_POLY n) (Reg.CHK_POLY_HI_POLY n) c.poly).wr64 (Reg.CHK_INIT_LO_INIT n)
    (Reg.CHK_INIT_HI_INIT n) c.init).wr64 (Reg.CHK_XOR_LO_XOROUT n) (Reg.CHK_XOR_HI_XOROUT n) c.xorOut).wrs
    [(Reg.CHK_CFG_WIDTH n, c.w), (Reg.CHK_CFG_REFIN n, if c.refIn then 1 else 0),
     (Reg.CHK_CFG_REFOUT n, if c.refOut then 1 else 0)]).chkStart n

/-- Compare RESULT with EXP over the low W bits (R372). -/
def State.chkCompare (s : State) (n : Nat) : State :=
  let c := s.chkSet n
  let e := s.rd64 (Reg.CHK_EXP_LO_EXP n) (Reg.CHK_EXP_HI_EXP n)
  if c.final (s.chkRun n) % 2 ^ c.w = e % 2 ^ c.w then
    s.wrs [(Reg.CHK_STAT_CMPV n, 1), (Reg.CHK_STAT_MATCH n, 1)]
  else (s.wrs [(Reg.CHK_STAT_CMPV n, 1), (Reg.CHK_STAT_MATCH n, 0)]).raise (pCHK n) 0

/-- Feed bytes; an armed injection on RUN's check bits fails this feed (R366, R376). -/
def State.chkFeed (s : State) (n : Nat) (l : List Byte) : State :=
  let t := s.setChkRun n ((s.chkSet n).feed (s.chkRun n) l)
  if s.bit (Hdr.injArm (pCHK n)) && s.rd (Hdr.injTarget (pCHK n)) == 1 then
    let u := t.wr (Hdr.injArm (pCHK n)) 0
    if s.rd (Hdr.injFlip (pCHK n)) = 0 then u else (u.setFault (pCHK n) 0).wr (Reg.CHK_STAT_BAD n) 1
  else t

/-- A write of CTRL: a reserved SET or a PRESET of a locked unit discards it; else SET lands, then PRESET or START,
then CMP (R66, R371, R372). -/
def State.chkCtrl (s : State) (n v : Nat) : State :=
  if v % 8 > 4 then s.raise (pCHK n) 31
  else if v.testBit 30 && s.locked (pCHK n) then s.raise (pCHK n) 31
  else
    let s1 := s.wr (Reg.CHK_CTRL_SET n) (v % 8)
    let s2 := if v.testBit 30 then s1.chkPreset n (v % 8) else if v.testBit 31 then s1.chkStart n else s1
    if v.testBit 29 then s2.chkCompare n else s2

/-- The fields of a _LO and _HI pair, by the offset of _LO, and whether it is lockable (R377). -/
def chkPairFields (n : Nat) : Nat → Option (Fld × Fld × Bool)
  | 0x50 => some (Reg.CHK_POLY_LO_POLY n, Reg.CHK_POLY_HI_POLY n, true)
  | 0x58 => some (Reg.CHK_INIT_LO_INIT n, Reg.CHK_INIT_HI_INIT n, true)
  | 0x60 => some (Reg.CHK_XOR_LO_XOROUT n, Reg.CHK_XOR_HI_XOROUT n, true)
  | 0x68 => some (Reg.CHK_RUN_LO_RUN n, Reg.CHK_RUN_HI_RUN n, false)
  | 0x78 => some (Reg.CHK_EXP_LO_EXP n, Reg.CHK_EXP_HI_EXP n, false)
  | _ => none

/-- A pair is applied in its place in the queue: bits at and above W are reserved, a locked pair is kept (R65, R66,
R367, R369); a RUN write ends BAD (R376). -/
def State.chkPairApply (s : State) (n off : Nat) (lo : Option Nat) (hi : Nat) : State :=
  match chkPairFields n off with
  | none => s
  | some (fl, fh, lockable) =>
    let v := (lo.getD (s.rd fl)) + 2 ^ 32 * hi
    if v ≥ 2 ^ (s.rd (Reg.CHK_CFG_WIDTH n)) then s.raise (pCHK n) 31
    else if lockable && s.locked (pCHK n) then s.raiseIf (v != s.rd64 fl fh) (pCHK n) 31
    else
      let t := s.wr64 fl fh v
      if off = 0x68 then t.wr (Reg.CHK_STAT_BAD n) 0 else t

/-- Clear the bits at and above W of a pair (R367). -/
def State.chkCut (s : State) (w : Nat) (p : Fld × Fld) : State := s.wr64 p.1 p.2 (s.rd64 p.1 p.2 % 2 ^ w)

/-- A write of CFG (R65, R66, R367, R374). -/
def State.chkCfg (s : State) (n v : Nat) : State :=
  let w := v % 128
  if w < 8 ∨ w > 64 then s.raise (pCHK n) 31
  else
    let s1 := s.wr (Reg.CHK_CFG_OWNER n) (v / 2 ^ 31 % 2)
    if s.locked (pCHK n) then
      s1.raiseIf (w != s.rd (Reg.CHK_CFG_WIDTH n) || v / 2 ^ 8 % 2 != s.rd (Reg.CHK_CFG_REFIN n) ||
        v / 2 ^ 9 % 2 != s.rd (Reg.CHK_CFG_REFOUT n)) (pCHK n) 31
    else
      let s2 := s1.wrs [(Reg.CHK_CFG_WIDTH n, w), (Reg.CHK_CFG_REFIN n, v / 2 ^ 8 % 2),
        (Reg.CHK_CFG_REFOUT n, v / 2 ^ 9 % 2)]
      [(Reg.CHK_POLY_LO_POLY n, Reg.CHK_POLY_HI_POLY n), (Reg.CHK_INIT_LO_INIT n, Reg.CHK_INIT_HI_INIT n),
       (Reg.CHK_XOR_LO_XOROUT n, Reg.CHK_XOR_HI_XOROUT n), (Reg.CHK_RUN_LO_RUN n, Reg.CHK_RUN_HI_RUN n),
       (Reg.CHK_EXP_LO_EXP n, Reg.CHK_EXP_HI_EXP n)].foldl (fun t p => t.chkCut w p) s2

/-- The width A of the alive values, by AW (R373). -/
def aliveBits (aw : Nat) : Nat := 2 ^ (aw + 2)

/-- A write of ALIVE in its place in the queue (R373). -/
def State.chkAlive (s : State) (n v : Nat) : State :=
  let a := aliveBits (s.rd (Reg.CHK_ALIVE_CFG_AW n))
  let m := 2 ^ a
  let x := v % m
  let e := s.rd (Reg.CHK_ALIVE_EXP_E n) % m
  let fold (t : State) : State :=
    if s.bit (Reg.CHK_ALIVE_CFG_FOLD n) then t.chkFeed n (leBytes (ceilDiv a 8) x) else t
  if !s.bit (Reg.CHK_ALIVE_CFG_EN n) then s.raise (pCHK n) 31
  else if s.bit (Reg.CHK_ALIVE_CFG_SYNC n) then
    fold (s.wrs [(Reg.CHK_ALIVE_EXP_E n, (x + 1) % m), (Reg.CHK_ALIVE_CFG_SYNC n, 0)])
  else if x = e then fold (s.wr (Reg.CHK_ALIVE_EXP_E n) ((x + 1) % m))
  else if (x + 1) % m = e then (s.raise (pCHK n) 1).satInc (Reg.CHK_ALIVE_CNT_REPEAT n) 1
  else
    fold ((((s.raise (pCHK n) 2).satInc (Reg.CHK_ALIVE_CNT_SKIP n) 1).wr (Reg.CHK_ALIVE_GAP_GAP n) ((x + m - e) % m)).wr
      (Reg.CHK_ALIVE_EXP_E n) ((x + 1) % m))

/-- A single register in its place in the queue (R368). -/
def State.chkReg (s : State) (n off v : Nat) : State :=
  match off with
  | 0x40 => s.chkCfg n v
  | 0x90 => s.wrs [(Reg.CHK_ALIVE_CFG_EN n, v / 2 ^ 31 % 2), (Reg.CHK_ALIVE_CFG_FOLD n, v / 2 ^ 30 % 2),
      (Reg.CHK_ALIVE_CFG_AW n, v % 4), (Reg.CHK_ALIVE_CFG_SYNC n, 1)]
  | 0x94 => s.chkAlive n v
  | _ => s

/-- What an entry does when the unit takes it. -/
def State.chkApply (s : State) (n : Nat) : ChkEntry → State
  | .feed l => s.chkFeed n l
  | .ctrl v => s.chkCtrl n v
  | .reg off v => s.chkReg n off v
  | .pair off lo hi => s.chkPairApply n off lo hi
  | .owner v => s.wr (Reg.CHK_CFG_OWNER n) v

/-- The unit takes its oldest entry (R368). -/
def State.chkTake (s : State) (n : Nat) : State :=
  match (s.chkUnit n).queue with
  | [] => s
  | e :: t => ((s.setChk n { s.chkUnit n with queue := t }).chkApply n e).chkShow n

/-- A write of any register of the unit (R368, R369, R374): a pair's halves, a feed, CTRL, or another register. -/
def State.chkWrite (s : State) (n : Nat) (ag : Agent) (off v : Nat) : State :=
  if off = 0x80 then s.chkQueue n ag (.feed (leBytes 1 v))
  else if off = 0x84 then s.chkQueue n ag (.feed (leBytes 2 v))
  else if off = 0x88 then s.chkQueue n ag (.feed (leBytes 4 v))
  else if off = 0x44 then s.chkQueue n ag (.ctrl v)
  else if off = 0x40 then
    if s.chkAccepts n ag then s.chkQueue n ag (.reg off v)
    else if !s.inReset (pCHK n) && s.pstate (pCHK n) != stOFF && s.pstate (pCHK n) != stSTOPPING &&
        (s.chkUnit n).queue.isEmpty && ag != .console then
      (s.setChk n { s.chkUnit n with queue := [.owner (v / 2 ^ 31 % 2)] }).chkShow n
    else s.raise (pCHK n) 31
  else if off = 0x90 ∨ off = 0x94 then s.chkQueue n ag (.reg off v)
  else if (chkPairFields n off).isSome then s.chkHoldLo n ag off v
  else if (chkPairFields n (off - 4)).isSome then s.chkPair n ag (off - 4) v
  else s

/-- FEED_B (R368). -/
def execFeedB (n : Nat) (agent : Agent) (value : Word) (s : State) : Host.Outcome State Fault Refusal :=
  done (if s.hears agent && decide (n < 8) then s.chkWrite n agent 0x80 value.toNat else s)

/-- FEED_H (R368). -/
def execFeedH (n : Nat) (agent : Agent) (value : Word) (s : State) : Host.Outcome State Fault Refusal :=
  done (if s.hears agent && decide (n < 8) then s.chkWrite n agent 0x84 value.toNat else s)

/-- FEED_W (R368). -/
def execFeedW (n : Nat) (agent : Agent) (value : Word) (s : State) : Host.Outcome State Fault Refusal :=
  done (if s.hears agent && decide (n < 8) then s.chkWrite n agent 0x88 value.toNat else s)

/-- CHK_QUEUE_ENTRY_TAKEN (R368). -/
def execChkQueueEntryTaken (n : Nat) (s : State) : Host.Outcome State Fault Refusal := done (s.chkTake n)

/-- CHK_START: CTRL is written with START = 1 and the SET field (R366). -/
def execChkStart (n : Nat) (agent : Agent) (set : BitVec 3) (s : State) : Host.Outcome State Fault Refusal :=
  done (if s.hears agent && decide (n < 8) then s.chkWrite n agent 0x44 (2 ^ 31 + set.toNat) else s)

/-- PRESET (R371). -/
def execPreset (n : Nat) (agent : Agent) (set : BitVec 3) (s : State) : Host.Outcome State Fault Refusal :=
  done (if s.hears agent && decide (n < 8) then s.chkWrite n agent 0x44 (2 ^ 30 + set.toNat) else s)

/-- CMP (R372). -/
def execCmpGo (n : Nat) (agent : Agent) (set : BitVec 3) (s : State) : Host.Outcome State Fault Refusal :=
  done (if s.hears agent && decide (n < 8) then s.chkWrite n agent 0x44 (2 ^ 29 + set.toNat) else s)

/-- RUN_WRITE: a write of RUN_LO or of RUN_HI (R369, R370). -/
def execRunWrite (n : Nat) (agent : Agent) (high : Bool) (value : Word) (s : State) :
    Host.Outcome State Fault Refusal :=
  done (if s.hears agent && decide (n < 8) then s.chkWrite n agent (if high then 0x6C else 0x68) value.toNat else s)

/-- ALIVE (R373). -/
def execAlive (n : Nat) (agent : Agent) (value : Word) (s : State) : Host.Outcome State Fault Refusal :=
  done (if s.hears agent && decide (n < 8) then s.chkWrite n agent 0x94 value.toNat else s)

end Sys2Proof.Machine
end

