-- ==== Sys2Proof/Machine/Ifs.lean ====
section
/-!
DEFINITION. The rules of the figure stream (R86 to R111) as the interpreter applies them record by record (R115, R116).
-/
namespace Sys2Proof.Machine

/-- A value lies in the 40-bit range (R111). -/
def in40 (v : Int) : Bool := decide (-(2 ^ 39) ≤ v) && decide (v ≤ 2 ^ 39 - 1)

/-- A box lies in the 40-bit range. -/
def Box.in40 (b : Box) : Bool := Machine.in40 b.xl && Machine.in40 b.yl && Machine.in40 b.xu && Machine.in40 b.yu

/-- A value lies in the range of a delta (R91). -/
def inDelta (v : Int) : Bool := decide (-8388608 ≤ v) && decide (v ≤ 8388607)

/-- A box contains another. -/
def Box.contains (b c : Box) : Bool := decide (b.xl ≤ c.xl) && decide (b.yl ≤ c.yl) && decide (c.xu ≤ b.xu) && decide (c.yu ≤ b.yu)

/-- The record types of R88. -/
def knownType (t : Nat) : Bool :=
  [0x01, 0x02, 0x03, 0x04, 0x05, 0x06, 0x08, 0x09, 0x0E, 0x0F, 0x10, 0x11, 0x12, 0x13].contains t

/-- Deltas of a POLY or CURVE (R105, R106). -/
def Rec.nDeltas (r : Rec) : Nat :=
  if r.type = 0x12 then (if r.manh then r.n - 1 else 2 * (r.n - 1)) else 2 * (r.n - r.quads) + 4 * r.quads

/-- First word of the delta run. -/
def Rec.runAt (r : Rec) : Nat := if r.type = 0x12 then 4 else 4 + r.kindWords

/-- LEN is what the record's type and fields require (R88, R105, R106). -/
def Rec.lenOk (r : Rec) : Bool :=
  match r.type with
  | 0x01 => r.len == 9
  | 0x02 => r.len == 8
  | 0x03 | 0x06 => r.len == 1
  | 0x04 | 0x08 => r.len == 5
  | 0x05 => r.len == 3
  | 0x09 => r.len == 10
  | 0x0F => r.len == 4
  | 0x10 => r.len == 6
  | 0x11 => r.len == 8
  | 0x12 | 0x13 => decide (4 ≤ r.len) && r.len == r.runAt + ceilDiv (24 * r.nDeltas) 32
  | _ => decide (1 ≤ r.len)

/-- Padding bits after a delta run are 0 (R91). -/
def Rec.padOk (r : Rec) : Bool :=
  let used := 24 * r.nDeltas
  used % 32 == 0 || (r.w (r.runAt + used / 32)) / 2 ^ (used % 32) == 0

/-- Reserved bits are 0, and ARG is 0 where the record is no figure (R87 to R110). -/
def Rec.reservedOk (r : Rec) : Bool :=
  (r.isFig || r.arg == 0) &&
  match r.type with
  | 0x01 => bits (r.w 2) 15 0 == 0 && bits (r.w 3) 31 11 == 0 && bits (r.w 4) 31 21 == 0
  | 0x02 => bits (r.w 1) 31 20 == 0 && r.hi 2 == 0 && r.hi 5 == 0
  | 0x04 => bits (r.hi 1) 15 5 == 0
  | 0x08 => bits (r.w 1) 31 20 == 0 && bits (r.hi 2) 15 3 == 0
  | 0x09 => bits (r.w 1) 31 20 == 0 && bits (r.hi 2) 15 3 == 0 && r.hi 5 == 0 && bits (r.w 8) 31 24 == 0 &&
      bits (r.w 9) 31 24 == 0
  | 0x10 => r.hi 1 == 0 && bits (r.w 4) 31 24 == 0 && bits (r.w 5) 31 24 == 0
  | 0x11 => bits (r.hi 1) 15 1 == 0 && [4, 5, 6, 7].all fun i => bits (r.w i) 31 24 == 0
  | 0x12 => bits (r.hi 1) 14 11 == 0 && r.padOk
  | 0x13 => bits (r.hi 1) 15 11 == 0 && r.padOk &&
      (List.range (32 * r.kindWords - r.n)).all fun i => !r.quad (r.n + i)
  | _ => true

/-- The record may stand where the interpreter is (R89, R101). -/
def Interp.orderOk (x : Interp) (r : Rec) : Bool :=
  let body := r.isFig || r.type == 0x08 || r.type == 0x09
  if r.type = 0x0E ∨ r.type = 0x0F then x.place != .start
  else match x.place with
    | .start => r.type == 0x01
    | .cells => r.type == 0x02 || r.type == 0x04
    | .cell => body || r.type == 0x03
    | .top => r.type == 0x05 || r.type == 0x06
    | .bin => body || r.type == 0x05 || r.type == 0x06
    | .ended => false

/-- Bins ascend (R89). -/
def Interp.binOrderOk (x : Interp) (r : Rec) : Bool :=
  match x.top, x.bins with
  | some g, b :: _ => decide (b.by' * g.nbx + b.bx < bits (r.w 1) 31 16 * g.nbx + bits (r.w 1) 15 0)
  | _, _ => true

/-- Depth with a placement of a cell (R96). -/
def Interp.depthOk (x : Interp) (r : Rec) : Bool :=
  match x.cellOf r.cell with
  | some c => decide (c.depth + 1 ≤ if x.place = .cell then 31 else 32)
  | none => true

/-- Vertex and element counts (R105, R106). -/
def Rec.countOk (r : Rec) : Bool :=
  if r.type = 0x12 then
    if r.manh then decide (4 ≤ r.n) && decide (r.n ≤ 1024) && r.n % 2 == 0 &&
      ((r.outline.2.getLast?).map Elem.ex).getD (r.ax 1) == r.ax 1
    else decide (3 ≤ r.n) && decide (r.n ≤ 1024)
  else if r.type = 0x13 then decide (1 ≤ r.n) && decide (r.n ≤ 1024) && decide (r.quads ≤ 256)
  else true

/-- The implied closing edge lies in the delta range (R105, R106). -/
def Rec.closeOk (r : Rec) : Bool :=
  if r.type = 0x12 ∨ r.type = 0x13 then
    match r.outline.2.getLast? with
    | some e => inDelta (r.ax 1 - e.ex) && inDelta (r.ay 1 - e.ey)
    | none => true
  else true

/-- Coordinates stay in range, array pitches are not 0 where they must not be, and the grid ends in range (R99, R100,
R111). -/
def Rec.rangeOk (r : Rec) (x : Interp) : Bool :=
  if r.isFig then match r.bbox x with | some b => b.in40 | none => true
  else if r.type = 0x08 ∨ r.type = 0x09 then
    !(decide (1 < r.nx) && r.px == 0) && !(decide (1 < r.ny) && r.py == 0) &&
      in40 (r.ax 2 + (r.nx - 1 : Nat) * r.px) && in40 (r.ay 2 + (r.ny - 1 : Nat) * r.py) &&
      (match r.bbox x with | some b => b.in40 | none => true)
  else if r.type = 0x04 then
    let sd : Int := 64 * 2 ^ bits (r.hi 1) 4 0
    decide (r.ax 1 + (bits (r.w 4) 15 0 + 1 : Nat) * sd ≤ 2 ^ 39 - 1) &&
      decide (r.ay 1 + (bits (r.w 4) 31 16 + 1 : Nat) * sd ≤ 2 ^ 39 - 1)
  else true

/-- A body record lies in its cell's box; a top-level record lies in the grid, in the right bin, within its reach; a
bin lies in the grid (R94, R101, R102). -/
def Rec.placeOk (r : Rec) (x : Interp) : Bool :=
  if r.type = 0x05 then
    match x.top with
    | some g => decide (bits (r.w 1) 15 0 < g.nbx) && decide (bits (r.w 1) 31 16 < g.nby)
    | none => true
  else if r.isFig ∨ r.type = 0x08 ∨ r.type = 0x09 then
    match r.bbox x with
    | none => true
    | some b => match x.place with
      | .cell => match x.cur with | some c => c.box.contains b | none => true
      | _ => match x.top, x.bins with
        | some g, bin :: _ =>
          let sd : Int := 64 * 2 ^ g.log
          let bx := (b.xl - g.gx) / sd
          let byy := (b.yl - g.gy) / sd
          let ux := (max (b.xu - 1) b.xl - g.gx) / sd
          let uy := (max (b.yu - 1) b.yl - g.gy) / sd
          bx == bin.bx && byy == bin.by' && decide (ux < g.nbx) && decide (uy < g.nby) &&
            decide (ux - bx ≤ bin.rx) && decide (uy - byy ≤ bin.ry)
        | _, _ => true
  else true

/-- Sizes that must not be 0, BIN_LOG and the order of a cell's box (R94, R100, R103, R104). -/
def Rec.sizeOk (r : Rec) : Bool :=
  match r.type with
  | 0x10 => bits (r.w 4) 23 0 != 0 && bits (r.w 5) 23 0 != 0
  | 0x11 => bits (r.w 7) 23 0 != 0 && (bits (r.w 4) 23 0 != 0 || bits (r.w 5) 23 0 != 0)
  | 0x04 => decide (10 ≤ bits (r.hi 1) 4 0) && decide (bits (r.hi 1) 4 0 ≤ 20)
  | 0x02 => decide (r.ax 2 ≤ r.ax 5) && decide (r.ay 2 ≤ r.ay 5)
  | _ => true

/-- BYTES of a FILE record (R92). -/
def Rec.fileBytes (r : Rec) : Nat := r.w 5 + r.w 6 * 2 ^ 32

/-- The code of a record, 0 where it is well formed (R116): the lowest that applies. `free` is the free layout-store
space in bytes. -/
def Interp.code (x : Interp) (r : Rec) (free : Nat) : Nat :=
  let isPlace := r.type == 0x08 || r.type == 0x09
  if (x.place = .start ∧ r.type ≠ 0x01) ∨ (x.place ≠ .start ∧ r.type = 0x01) ∨
      (r.type = 0x01 ∧ (r.w 1 ≠ 0x56534649 ∨ bits (r.w 2) 31 16 ≠ 1)) then 0x10
  else if r.type = 0x01 ∧ (bits (r.w 3) 10 0 < 128 ∨ 1024 < bits (r.w 3) 10 0) then 0x11
  else if r.type = 0x01 ∧ (r.fileBytes % 4 ≠ 0 ∨ 2 ^ 40 ≤ r.fileBytes ∨ free < r.fileBytes) then 0x12
  else if !knownType r.type then 0x13
  else if !r.lenOk then 0x14
  else if !r.reservedOk then 0x15
  else if !x.orderOk r ∨ (r.type = 0x05 ∧ !x.binOrderOk r) then 0x16
  else if r.type = 0x02 ∧ ((x.cellOf (bits (r.w 1) 19 0)).isSome ∨ x.ncells ≤ x.seen) then 0x17
  else if isPlace ∧ (x.cellOf r.cell).isNone then 0x18
  else if isPlace ∧ !x.depthOk r then 0x19
  else if !r.countOk then 0x1A
  else if !r.closeOk then 0x1B
  else if !r.rangeOk x then 0x1C
  else if !r.placeOk x then 0x1D
  else if !r.sizeOk then 0x1E
  else 0

/-- The interpreter after a well-formed record. -/
def Interp.take (x : Interp) (r : Rec) : Interp :=
  match r.type with
  | 0x01 => { x with place := .cells, grid := bits (r.w 3) 10 0, ncells := bits (r.w 4) 20 0, bytes := r.fileBytes,
                     id := r.w 7 + r.w 8 * 2 ^ 32 }
  | 0x02 => { x with place := .cell, seen := x.seen + 1,
                     cur := some ⟨bits (r.w 1) 19 0, r.ofs, 1, ⟨r.ax 2, r.ay 2, r.ax 5, r.ay 5⟩, 0⟩ }
  | 0x03 => { x with place := .cells, cur := none, cells := match x.cur with | some c => c :: x.cells | none => x.cells }
  | 0x04 => { x with place := .top, top := some ⟨r.ax 1, r.ay 1, bits (r.hi 1) 4 0, bits (r.w 4) 15 0 + 1, bits (r.w 4) 31 16 + 1⟩ }
  | 0x05 => { x with place := .bin,
                     bins := ⟨bits (r.w 1) 15 0, bits (r.w 1) 31 16, bits (r.w 2) 15 0, bits (r.w 2) 31 16, r.ofs⟩ :: x.bins }
  | 0x06 => { x with place := .ended }
  | 0x0E | 0x0F => x
  | _ => { x with cur := x.cur.map fun c =>
      let d := if r.isFig then 1 else match x.cellOf r.cell with | some p => p.depth + 1 | none => 1
      { c with body := c.body + 1, depth := max c.depth d } }

/-- The records of a block that lies at a stream offset: each is as long as its LEN says; `fuel` bounds their number. -/
def blockRecs : Nat → Nat → List Byte → List Rec
  | 0, _, _ => []
  | fuel + 1, ofs, l =>
    if l.isEmpty then []
    else
      let n := max 1 (leAt l 0 2)
      ⟨ofs, (List.range n).map fun i => leAt l (4 * i) 4⟩ :: blockRecs fuel (ofs + 4 * n) (l.drop (4 * n))

/-- Interpret records in order: the interpreter after them, or the first malformed record and its code. -/
def Interp.run (free : Nat) : Interp → List Rec → Interp × Option (Rec × Nat)
  | x, [] => (x, none)
  | x, r :: t =>
    if x.code r free = 0 then Interp.run free (x.take r) t
    else (x, some (r, x.code r free))

/-- How a block in staging is found (R113). -/
inductive Located where
  /-- More bytes are needed. -/
  | more
  /-- No CHECK record can be found. -/
  | unreadable
  /-- The block is so many bytes long. -/
  | found (len : Nat)
  deriving DecidableEq, Repr

/-- Locate the CHECK record by LEN fields alone (R113); `o` is the offset reached in the block. -/
def locate : Nat → Nat → List Byte → Located
  | 0, _, _ => .more
  | fuel + 1, o, l =>
    if 65536 < o + 4 then .unreadable
    else if l.length < 4 then .more
    else
      let len := leAt l 0 2
      let type := leAt l 3 1
      if len = 0 then .unreadable
      else if type = 0x0F then
        if len ≠ 4 then .unreadable
        else if 65536 < o + 16 then .unreadable
        else if l.length < 16 then .more
        else .found (o + 16)
      else if 65536 < o + 4 * len then .unreadable
      else if l.length < 4 * len then .more
      else locate fuel (o + 4 * len) (l.drop (4 * len))

end Sys2Proof.Machine
end

