-- ==== Sys2Proof/Machine/Ing.lean ====
section
/-!
DEFINITION. Ingest (chapters 4 and 5): deliveries, check blocks, repairs, layout handles and the waybill queue.
-/
namespace Sys2Proof.Machine

open Sys2Proof (Agent)

/-! ### Registers of the delivery (R117) -/

/-- Show the resume offset. -/
def State.showResume (s : State) (o : Nat) : State :=
  s.wrs [(Reg.ING_IFS_RESUME_LO_RES_LO, o % 2 ^ 32), (Reg.ING_IFS_RESUME_HI_RES_HI, o / 2 ^ 32)]

/-- Show an error: code, record type, offset and expected BLOCK_SEQ together. -/
def State.showError (s : State) (code rtype ofs blk : Nat) : State :=
  s.wrs [(Reg.ING_IFS_ERR_CODE, code), (Reg.ING_IFS_ERR_RTYPE, rtype), (Reg.ING_IFS_ERR_OFS_LO_OFS_LO, ofs % 2 ^ 32),
    (Reg.ING_IFS_ERR_OFS_HI_OFS_HI, ofs / 2 ^ 32), (Reg.ING_IFS_ERR_BLK_BLOCK, blk)]

/-- A share from a peer ends with the delivery or repair it feeds (R408). -/
def State.shareEnds (s : State) : State :=
  if s.fab.shareOn then ({ s with fab := { s.fab with shareOn := false } } : State).raise pFAB 4 else s

/-- Set the delivery in hand. -/
def State.setDelivery (s : State) (d : Option Delivery) : State :=
  let t : State := { s with ing := { s.ing with delivery := d } }
  if d.isNone then t.shareEnds else t

/-- Set the repair in hand. -/
def State.setRepair (s : State) (r : Option Repair) : State :=
  let t : State := { s with ing := { s.ing with repair := r } }
  if r.isNone then t.shareEnds else t

/-- Clear a handle: its space is unreserved at once (R112, R121). -/
def State.clearLayout (s : State) (h : Nat) : State :=
  { s with ing := { s.ing with
      layouts := setAt s.ing.layouts h {}
      damagedQ := s.ing.damagedQ.filter fun e => e.1 != h
      damagedW := s.ing.damagedW.filter fun e => e.1 != h } }

/-- The stream being received is rejected (R112, R115). -/
def State.reject (s : State) (d : Delivery) (code rtype ofs : Nat) : State :=
  ((((s.showError code rtype ofs d.expSeq).wr Reg.ING_IFS_STAT_STREAM 3).clearLayout d.handle).setDelivery none |>.raise pING 1).ingShow

/-! ### Opening and ending (R118, R121, R146) -/

/-- The fields that a write of ING_LOAD leaves. -/
def State.loadFields (s : State) (handle source : Nat) (repair : Bool) : State :=
  s.wrs [(Reg.ING_LOAD_HANDLE, handle), (Reg.ING_LOAD_SOURCE, source), (Reg.ING_LOAD_REPAIR, if repair then 1 else 0)]

/-- DELIVERY_START (R118). -/
def State.deliveryStart (s : State) (h source : Nat) : State :=
  if source = 3 then s.raise pING 31
  else
    let t := s.loadFields h source false
    if s.ing.delivery.isSome ∨ s.ing.repair.isSome then t.wr Reg.ING_LOAD_RESULT 1
    else if (s.lay h).state ≠ .empty then t.wr Reg.ING_LOAD_RESULT 2
    else
      (((((t.wr Reg.ING_LOAD_RESULT 0).wr Reg.ING_IFS_STAT_STREAM 1).showResume 0).modLay h
        fun l => { l with state := .receiving }).setDelivery (some { handle := h, source := source })).ingShow

/-- DELIVERY_START (R118). -/
def execDeliveryStart (agent : Agent) (handle : BitVec 4) (source : BitVec 2) (s : State) : Host.Outcome State Fault Refusal :=
  done (s.access agent pING fun s => s.deliveryStart handle.toNat source.toNat)

/-- The oldest damaged block held for a handle (R145). -/
def State.damagedOf (s : State) (h : Nat) : Option Nat := (s.ing.damagedQ.find? fun e => e.1 == h).map Prod.snd

/-- REPAIR_START (R146). -/
def State.repairStart (s : State) (h source : Nat) : State :=
  if source = 3 then s.raise pING 31
  else
    let t := s.loadFields h source true
    if s.ing.repair.isSome then t.wr Reg.ING_LOAD_RESULT 1
    else match s.damagedOf h with
      | none => t.wr Reg.ING_LOAD_RESULT 3
      | some o =>
        (((((t.wr Reg.ING_LOAD_RESULT 0).wr Reg.ING_IFS_STAT_STREAM 1).wr Reg.ING_IFS_ERR_TRIES 0).showResume o).setRepair
          (some { handle := h, source := source, offset := o, stream := s.rd Reg.ING_IFS_STAT_STREAM })).ingShow

/-- REPAIR_START (R146). -/
def execRepairStart (agent : Agent) (handle : BitVec 4) (source : BitVec 2) (s : State) : Host.Outcome State Fault Refusal :=
  done (s.access agent pING fun s => s.repairStart handle.toNat source.toNat)

/-- A repair ends; a suspended stream goes on from its kept offset (R146). -/
def State.endRepair (s : State) (r : Repair) : State :=
  let t := s.setRepair none
  match t.ing.delivery with
  | some d => (((t.wr Reg.ING_IFS_STAT_STREAM 1).wr Reg.ING_IFS_ERR_TRIES d.tries).showResume d.resume).ingShow
  | none => (t.wr Reg.ING_IFS_STAT_STREAM r.stream).ingShow

/-- A delivery ends as ABORT ends it, without its event (R121, R523). -/
def State.endDelivery (s : State) (d : Delivery) : State :=
  ((((s.showError 0 0 0 0).wrs [(Reg.ING_IFS_ERR_TRIES, 0), (Reg.ING_IFS_STAT_STREAM, 3)]).clearLayout d.handle).setDelivery none).ingShow

/-- DELIVERY_ABORT (R121, R146). -/
def State.deliveryAbort (s : State) : State :=
  match s.ing.repair, s.ing.delivery with
  | some r, _ => (s.endRepair r).raise pING 10
  | none, some d => (s.endDelivery d).raise pING 10
  | none, none => s

/-- DELIVERY_ABORT (R118, R120, R146). -/
def execDeliveryAbort (agent : Agent) (s : State) : Host.Outcome State Fault Refusal :=
  done (s.access agent pING State.deliveryAbort)

/-! ### Bytes and blocks (R113, R114, R119, R120) -/

/-- A staging buffer is free for the block being received (R120). -/
def Delivery.room (d : Delivery) : Bool := decide (d.staged.length + d.freeing < 4)

/-- Ingest stalls the source it takes bytes from while no staging buffer is free (R120). -/
def State.ingestStalls (s : State) (source : Nat) : Bool :=
  match s.ing.repair, s.ing.delivery with
  | none, some d => d.source == source && !d.room
  | _, _ => false

/-- Bytes offered to ingest by a source, for a handle at a stream offset (R119, R120, R146). A PCIe transfer carries its
offset alone. -/
def State.ingestOffer (s : State) (source handle ofs : Nat) (bytes : List Byte) : State :=
  if s.inReset pING then s
  else
    let drop := s.satInc Reg.ING_SRC_DROP_DROPS 1
    match s.ing.repair, s.ing.delivery with
    | some r, _ =>
      if r.source = source ∧ (source = 0 ∨ r.handle = handle) ∧ ofs = r.offset + r.buf.length then
        (s.setRepair (some { r with buf := r.buf ++ bytes })).showResume (ofs + bytes.length)
      else drop
    | none, some d =>
      if d.source = source ∧ (source = 0 ∨ d.handle = handle) ∧ ofs = d.resume then
        if d.room then
          (s.setDelivery (some { d with buf := d.buf ++ bytes, resume := ofs + bytes.length })).showResume (ofs + bytes.length)
        else s
      else drop
    | none, none => drop

/-- INGEST_TRANSFER (R119, R120, R146). -/
def execIngestTransfer (source handle ofs : Nat) (bytes : List Byte) (s : State) : Host.Outcome State Fault Refusal :=
  done (s.ingestOffer source handle ofs bytes)

/-- A block failure of the stream being received (R114). -/
def State.blockFails (s : State) (d : Delivery) (code : Nat) : State :=
  let n := d.tries + 1
  let t := ((s.showError code 0xFF d.bufOfs d.expSeq).wr Reg.ING_IFS_ERR_TRIES n).raise pING 0
  if 16 ≤ n then t.reject d code 0xFF d.bufOfs
  else (t.setDelivery (some { d with buf := [], resume := d.bufOfs, tries := n })).showResume d.bufOfs

/-- A block found in the stream being received (R113, R114, R117). -/
def State.blockFound (s : State) (d : Delivery) (len : Nat) : State :=
  let blk := d.buf.take len
  let seq := leAt blk (len - 12) 4
  if crc64.of (blk.take (len - 8)) ≠ leAt blk (len - 8) 8 then s.blockFails d 1
  else if d.expSeq < seq then s.blockFails d 2
  else if seq < d.expSeq then
    ((s.satInc Reg.ING_IFS_DUP_DUP 1).setDelivery (some { d with buf := [], resume := d.bufOfs })).showResume d.bufOfs
  else
    let s1 := if d.expSeq = 0 then (s.showError 0 0 0 0).wr Reg.ING_IFS_DUP_DUP 0 else s
    (s1.wr Reg.ING_IFS_ERR_TRIES 0).setDelivery (some { d with
      buf := d.buf.drop len, bufOfs := d.bufOfs + len, staged := d.staged ++ [(d.bufOfs, blk)], expSeq := d.expSeq + 1, tries := 0 })

/-- A block failure of a repair (R146). -/
def State.repairFails (s : State) (r : Repair) (code blk : Nat) : State :=
  let n := r.tries + 1
  let t := ((s.showError code 0xFF r.offset blk).wr Reg.ING_IFS_ERR_TRIES n).raise pING 0
  if 16 ≤ n then t.endRepair r else (t.setRepair (some { r with buf := [], tries := n })).showResume r.offset

/-- Store bytes of a layout's stream at an offset, page by page; `fuel` bounds the pages. -/
def State.layStore (s : State) (l : Layout) : Nat → Nat → List Byte → State
  | 0, _, _ => s
  | fuel + 1, o, b =>
    if b.isEmpty then s
    else
      let n := mib - o % mib
      (s.hbmStore (l.addr o) (b.take n)).layStore l fuel (o + n) (b.drop n)

/-- Bring damaged blocks that wait into the sixteen places of ING_REPAIR (R145). -/
def State.damageShow (s : State) : State :=
  let n := 16 - s.ing.damagedQ.length
  { s with ing := { s.ing with damagedQ := s.ing.damagedQ ++ s.ing.damagedW.take n, damagedW := s.ing.damagedW.drop n } }

/-- A damaged block has been restored (R146); the SEG records of the segments that waited for it say so (R468). -/
def State.blockRestored (s : State) (h o : Nat) : State :=
  let waits (v : Traveller) : Bool := v.handle == h && v.damage == some o
  let s1 := (s.ing.travellers.filter fun v => waits v && !v.survey).foldl (fun t v =>
    t.modSeg v.wseq v.j fun c => { c with flags := c.flags ||| 4 }) s
  let t : State := { s1 with ing := { s1.ing with
    damagedQ := s.ing.damagedQ.filter fun e => e != (h, o),
    travellers := s.ing.travellers.map fun v => if waits v then { v with damage := none } else v } }
  (t.modLay h fun l => { l with blocks := l.blocks.map fun b => if b.offset = o then { b with damaged := false } else b }).damageShow

/-- A block found in a repair (R146): its CRC and BLOCK_SEQ must be those of the block table. -/
def State.repairFound (s : State) (r : Repair) (len : Nat) : State :=
  let blk := r.buf.take len
  let l := s.lay r.handle
  match l.blocks.find? fun b => b.offset == r.offset with
  | none => s.endRepair r
  | some b =>
    if crc64.of (blk.take (len - 8)) ≠ leAt blk (len - 8) 8 then s.repairFails r 1 b.seq
    else if b.len ≠ len ∨ b.crc ≠ leAt blk (len - 8) 8 ∨ b.seq ≠ leAt blk (len - 12) 4 then s.repairFails r 2 b.seq
    else
      let t := (((s.layStore l 2 r.offset blk).blockRestored r.handle r.offset).wr Reg.ING_IFS_ERR_TRIES 0).raise pING 9
      t.endRepair r

/-- BLOCK_RECEIVED (R113, R114, R146): the block at the head of what has been received is judged, once its CHECK record
or the lack of one is plain. -/
def execBlockReceived (s : State) : Host.Outcome State Fault Refusal :=
  if s.inReset pING then done s
  else match s.ing.repair, s.ing.delivery with
    | some r, _ => match locate 16384 0 r.buf with
      | .more => done s
      | .unreadable => done (s.repairFails r 3 (((s.lay r.handle).blocks.find? fun b => b.offset == r.offset).map BlockEntry.seq |>.getD 0))
      | .found n => done (s.repairFound r n)
    | none, some d => match locate 16384 0 d.buf with
      | .more => done s
      | .unreadable => done (s.blockFails d 3)
      | .found n => done (s.blockFound d n)
    | none, none => done s

/-! ### Interpretation (R115, R122, R123) -/

/-- The stream is accepted (R115, R122): the reservation is trimmed. -/
def State.accept (s : State) (d : Delivery) (x : Interp) : State :=
  let t := s.modLay d.handle fun l =>
    let a := { l with state := .accepted, bytes := x.bytes, index := x }
    { a with pages := a.pages.take a.trimmed }
  (((t.wr Reg.ING_IFS_STAT_STREAM 2).setDelivery none).raise pING 2).ingShow

/-- A block has been interpreted without a malformed record: it is filed, and the last one ends the stream (R115,
R122). -/
def State.blockFiled (s : State) (d : Delivery) (ofs : Nat) (blk : List Byte) (x : Interp) : State :=
  let fin := ofs + blk.length
  let s1 := if (s.lay d.handle).pages.isEmpty then
      let ps := s.takePages (lsReserve x.bytes)
      s.modLay d.handle fun l => { l with pages := ps, bytes := x.bytes }
    else s
  let s2 := (s1.layStore (s1.lay d.handle) 2 ofs blk).modLay d.handle fun l => { l with
    index := x,
    blocks := l.blocks ++ [{ offset := ofs, len := blk.length, seq := leAt blk (blk.length - 12) 4, crc := leAt blk (blk.length - 8) 8 }] }
  let d1 := { d with staged := d.staged.tail, interp := x, freeing := d.freeing + 1 }
  if fin < x.bytes then s2.setDelivery (some d1)
  else if fin = x.bytes ∧ x.seen < x.ncells then s2.reject d 0x17 0x0F (fin - 16)
  else if x.place ≠ .ended ∨ fin ≠ x.bytes ∨ !d1.staged.isEmpty ∨ !d1.buf.isEmpty then s2.reject d 0x1F 0x0F (fin - 16)
  else s2.accept d1 x

/-- BLOCK_INTERPRETED (R115). -/
def execBlockInterpreted (s : State) : Host.Outcome State Fault Refusal :=
  match s.inReset pING, s.ing.delivery with
  | false, some d => match d.staged with
    | [] => done s
    | (ofs, blk) :: _ => match Interp.run (s.lsFree4k * 4096) d.interp (blockRecs 16384 ofs blk) with
      | (_, some (r, c)) => done (s.reject { d with expSeq := leAt blk (blk.length - 12) 4 } c r.type r.ofs)
      | (x, none) => done (s.blockFiled d ofs blk x)
  | _, _ => done s

/-- STAGING_BUFFER_FREE (R120). -/
def execStagingBufferFree (s : State) : Host.Outcome State Fault Refusal :=
  match s.ing.delivery with
  | some d => done (s.setDelivery (some { d with freeing := d.freeing - 1 }))
  | none => done s

/-! ### Freeing a handle (R124) -/

/-- A handle is in use. -/
def State.handleBusy (s : State) (h : Nat) : Bool :=
  (s.ing.waybills.any fun w => w.handle == h) || (match s.ing.delivery with | some d => d.handle == h | none => false) ||
    (match s.ing.repair with | some r => r.handle == h | none => false) ||
    s.ing.travellers.any fun t => t.state != .free && t.handle == h

/-- What a write of ING_FREE does to the layout store (R124). -/
def State.freeGo (s : State) (h : Nat) : State :=
  let t := s.wr Reg.ING_FREE_HANDLE h
  if (s.lay h).state = .empty then t.wr Reg.ING_FREE_RESULT 1
  else if s.handleBusy h then t.wr Reg.ING_FREE_RESULT 2
  else
    let u := (t.wr Reg.ING_FREE_RESULT 0).clearLayout h
    { u with ing := { u.ing with releasing := s.ing.releasing ++ (s.lay h).pages } }

/-- LAYOUT_SPACE_RELEASED (R124). -/
def execLayoutSpaceReleased (s : State) : Host.Outcome State Fault Refusal :=
  done { s with ing := { s.ing with releasing := [] } }

/-! ### Damage in the layout store (R145) -/

/-- The damage mark of a traveller that waits for the index, beyond every stream offset. -/
abbrev indexMark : Nat := 2 ^ 40

/-- Uncorrectable data at offset o of a layout's space (R145). -/
def State.layoutDamaged (s : State) (h o : Nat) : State :=
  let l := s.lay h
  if l.bytes ≤ o then s.modLay h fun l => { l with indexDamaged := true }
  else match l.blocks.find? fun b => decide (b.offset ≤ o) && decide (o < b.offset + b.len) with
    | none => s
    | some b =>
      if b.damaged then s
      else
        let t := s.modLay h fun l => { l with blocks := l.blocks.map fun c => if c.offset = b.offset then { c with damaged := true } else c }
        (({ t with ing := { t.ing with damagedW := t.ing.damagedW ++ [(h, b.offset)] } } : State).damageShow).raise pING 8

/-- INDEX_REBUILD_COMPLETE (R145). -/
def execIndexRebuildComplete (handle : BitVec 4) (s : State) : Host.Outcome State Fault Refusal :=
  let h := handle.toNat
  let l := s.lay h
  if !l.indexDamaged ∨ s.inReset pING then done s
  else
    let inIndex := ((List.range (l.pages.length * 32768)).filter fun i => decide (l.bytes ≤ 32 * i)).map fun i => l.addr (32 * i) / 32
    let t := (s.modLay h fun l => { l with indexDamaged := false }).wordsGood inIndex
    done { t with
      ing := { t.ing with travellers := t.ing.travellers.map fun v =>
        if v.handle = h ∧ v.damage = some indexMark then { v with damage := none } else v } }

/-! ### The waybill queue (R126, R128) -/

/-- POST (R126). -/
def State.post (s : State) : State :=
  let q := s.rd Reg.ING_WB_QSTAT_NEXT_SEQ
  if 8 ≤ s.ing.waybills.length ∨ s.bit Reg.ING_WB_QSTAT_STOPPED then
    (s.wrs [(Reg.ING_WB_RESULT_SEQ, q), (Reg.ING_WB_RESULT_CODE, 1), (Reg.ING_WB_RESULT_DETAIL, 0)]).raise pING 4
  else
    let w : Waybill := { seq := q, words := (List.range 8).map fun i => s.rd (Reg.ING_WB_WORD i) }
    (({ s with ing := { s.ing with waybills := s.ing.waybills ++ [w] } } : State).wr Reg.ING_WB_QSTAT_NEXT_SEQ
      (if q = 0xFFFF then 1 else q + 1)).showQueue

/-- POST (R126). -/
def execPost (agent : Agent) (s : State) : Host.Outcome State Fault Refusal :=
  done (s.access agent pING State.post)

/-- WAYBILL_RESUME (R128). -/
def State.waybillResume (s : State) : State :=
  (s.wr Reg.ING_WB_QSTAT_STOPPED 0).modMot fun m => { m with abandonHold := false }

/-- WAYBILL_RESUME (R128). -/
def execWaybillResume (agent : Agent) (s : State) : Host.Outcome State Fault Refusal :=
  done (s.access agent pING State.waybillResume)

/-- FLUSH (R128). -/
def State.flush (s : State) : State :=
  let t : State := { s with ing := { s.ing with waybills := s.ing.waybills.filter fun w => w.plan.isSome } }
  ((t.wrs [(Reg.ING_WB_QSTAT_STOPPED, 0), (Reg.ING_WB_QSTAT_HOLD, 0)]).modMot fun m => { m with abandonHold := false }).showQueue

/-- FLUSH (R128). -/
def execFlush (agent : Agent) (s : State) : Host.Outcome State Fault Refusal :=
  done (s.access agent pING State.flush)

/-! ### Recomputation (R143, R144) -/

/-- RCMP_REQ (R144, R148): recompute segment `seg` of the current or the second armed stripe. -/
def State.rcmpReq (s : State) (next : Bool) (seg : Nat) : State :=
  let t := s.wrs [(Reg.ING_RCMP_REQ_NEXT, if next then 1 else 0), (Reg.ING_RCMP_REQ_SEG, seg)]
  match s.armed[if next then 1 else 0]? with
  | none => t.wr Reg.ING_RCMP_REQ_MISS 1
  | some w =>
    match s.window.find? fun e => e.1.seq == w.seq && w.segIndex e.2.2 == seg with
    | some e => (t.wr Reg.ING_RCMP_REQ_MISS 0).markRecompute w.seq e.2.2
    | none =>
      match s.ing.travellers.find? fun v => v.state != .free && !v.survey && v.wseq == w.seq && v.seg == seg with
      | some v => (t.wr Reg.ING_RCMP_REQ_MISS 0).markRecompute w.seq v.j
      | none => t.wr Reg.ING_RCMP_REQ_MISS 1

/-- RCMP_REQ (R144). -/
def execRcmpReq (agent : Agent) (next : Bool) (seg : BitVec 24) (s : State) : Host.Outcome State Fault Refusal :=
  done (s.access agent pING fun s => s.rcmpReq next seg.toNat)

end Sys2Proof.Machine
end

