-- ==== Sys2Proof/Machine/Ecc.lean ====
section
/-!
DEFINITION. The Reed–Solomon code of R326 over GF(2^8), and the classification of a code word by its syndromes (R327).
-/
namespace Sys2Proof.Machine

/-- Multiply by α = 0x02 in the field of 0x11D (R326). -/
def gfDouble (a : Nat) : Nat := if a < 128 then 2 * a else (2 * a) ^^^ 0x11D

/-- The product of two field elements; `n` bits of b are left. -/
def gfMulGo : Nat → Nat → Nat → Nat
  | 0, _, _ => 0
  | n + 1, a, b => (if b % 2 = 1 then a else 0) ^^^ gfMulGo n (gfDouble a) (b / 2)

/-- The product of two field elements. -/
def gfMul (a b : Nat) : Nat := gfMulGo 8 a b

/-- α^p. -/
def gfPow : Nat → Nat
  | 0 => 1
  | p + 1 => gfDouble (gfPow p)

/-- One step of the division by g(x): the remainder so far and the next data byte. -/
def rsStep (r : List Nat) (d : Nat) : List Nat :=
  let f := d ^^^ r.getD 0 0
  [r.getD 1 0 ^^^ gfMul 0x0F f, r.getD 2 0 ^^^ gfMul 0x36 f, r.getD 3 0 ^^^ gfMul 0x78 f, gfMul 0x40 f]

/-- The four check bytes of 32 data bytes (R326). -/
def rsCheck (data : List Nat) : List Nat := data.foldl rsStep [0, 0, 0, 0]

/-- Syndrome S_i of the 36 bytes of a code word, data bytes first (R327). -/
def syndrome (w : List Nat) (i : Nat) : Nat := w.foldl (fun acc b => gfMul acc (gfPow i) ^^^ b) 0

/-- The classes of R327. -/
inductive WordClass where
  | good
  | correctable (index value : Nat)   -- the byte of the 36 in error and what it is XORed with
  | poison
  | bad
  deriving DecidableEq, Repr

/-- The classification of a code word (R327). -/
def classify (w : List Nat) : WordClass :=
  let s := [0, 1, 2, 3].map (syndrome w)
  let a := s.getD 0 0
  let b := s.getD 1 0
  let c := s.getD 2 0
  let d := s.getD 3 0
  if a = 0 ∧ b = 0 ∧ c = 0 ∧ d = 0 then .good
  else if a = 0 ∧ b = 0 ∧ c = 0 ∧ d = 0x9F then .poison
  else if a = 0 ∨ b = 0 ∨ c = 0 ∨ d = 0 then .bad
  else match (List.range 36).find? fun p =>
      gfMul a (gfPow p) == b && gfMul b (gfPow p) == c && gfMul c (gfPow p) == d with
    | some p => .correctable (35 - p) a
    | none => .bad

/-- The XOR of check bytes that marks poison (R331). -/
def poisonMark : List Nat := [0x01, 0x07, 0x0E, 0x08]

end Sys2Proof.Machine
end

