-- ==== Sys2Proof/Machine/Raster.lean ====
section
/-!
DEFINITION. Rasterisation (chapter 6): from clipped figures to coverage values and tile records, the cost of a tile, and
the covered length that the survey measures (R184).
-/
namespace Sys2Proof.Machine

/-! ### Edges (R153, R154) -/

/-- An edge: the end of smaller y first; `chord` marks a chord of a flattened element. -/
structure Edge where
  xa : Int
  ya : Int
  xb : Int
  yb : Int
  dir : Int
  chord : Bool
  deriving DecidableEq, Repr

/-- The edge from one point to another; a horizontal one is dropped (R153). -/
def mkEdge (chord : Bool) (p q : Int × Int) : List Edge :=
  if p.2 = q.2 then []
  else if p.2 < q.2 then [⟨p.1, p.2, q.1, q.2, 1, chord⟩]
  else [⟨q.1, q.2, p.1, p.2, -1, chord⟩]

/-- The chord points 1 to n of a quadratic element (R154). -/
def flatten (c q e : Int × Int) : List (Int × Int) :=
  let ax := c.1 - 2 * q.1 + e.1
  let ay := c.2 - 2 * q.2 + e.2
  let d := max ax.natAbs ay.natAbs
  let m := ((List.range 14).find? fun i => decide (d ≤ 4 ^ i)).getD 13
  let n := 2 ^ m
  (List.range n).map fun k : Nat =>
    let i : Int := k + 1
    (c.1 + rhe (2 * i * n * (q.1 - c.1) + i * i * ax) ((n : Int) * n),
     c.2 + rhe (2 * i * n * (q.2 - c.2) + i * i * ay) ((n : Int) * n))

/-- Edges through a list of points. -/
def polyline (chord : Bool) : Int × Int → List (Int × Int) → List Edge
  | _, [] => []
  | p, q :: t => mkEdge chord p q ++ polyline chord q t

/-- The edges of an outline after its start; `first` closes it. -/
def elemEdges (first : Int × Int) : Int × Int → List Elem → List Edge
  | p, [] => mkEdge false p first
  | p, e :: t =>
    (if e.quad then polyline true p (flatten p (e.cx, e.cy) (e.ex, e.ey)) else mkEdge false p (e.ex, e.ey)) ++
      elemEdges first (e.ex, e.ey) t

/-- The edges of a clipped figure (R153). -/
def Fig.edges (f : Fig) : List Edge := elemEdges (f.x0, f.y0) (f.x0, f.y0) f.elems

/-! ### Covered length on a line (R155 to R157) -/

/-- X(e, k) (R155). -/
def Edge.at (e : Edge) (k : Int) : Int := 16 * e.xa + rhe (8 * (2 * k + 1 - 2 * e.ya) * (e.xb - e.xa)) (e.yb - e.ya)

/-- Insert by first component. -/
def insertBy (p : Int × Int) : List (Int × Int) → List (Int × Int)
  | [] => [p]
  | q :: t => if p.1 ≤ q.1 then p :: q :: t else q :: insertBy p t

/-- Sort by first component. -/
def sortBy (l : List (Int × Int)) : List (Int × Int) := l.foldr insertBy []

/-- The intervals in which the winding count is not 0: `w` is the count so far, `start` where it left 0. -/
def windGo : Int → Int → List (Int × Int) → List (Int × Int)
  | _, _, [] => []
  | w, start, (x, d) :: t =>
    if w = 0 then windGo (w + d) x t
    else if w + d = 0 then (start, x) :: windGo 0 x t
    else windGo (w + d) start t

/-- The intervals a figure covers on line k (R156). -/
def coveredOn (es : List Edge) (k : Int) : List (Int × Int) :=
  windGo 0 0 (sortBy ((es.filter fun e => decide (e.ya ≤ k) && decide (k < e.yb)).map fun e => (e.at k, e.dir)))

/-- Merge sorted intervals into disjoint ones: `cur` is the one being built. -/
def mergeGo : Int × Int → List (Int × Int) → List (Int × Int)
  | cur, [] => [cur]
  | cur, p :: t => if p.1 ≤ cur.2 then mergeGo (cur.1, max cur.2 p.2) t else cur :: mergeGo p t

/-- The union of intervals as disjoint intervals. -/
def unionOf (l : List (Int × Int)) : List (Int × Int) :=
  match sortBy l with
  | [] => []
  | p :: t => mergeGo p t

/-- The length of disjoint intervals inside [lo, hi). -/
def lengthIn (l : List (Int × Int)) (lo hi : Int) : Nat :=
  (l.map fun p => (max 0 (min p.2 hi - max p.1 lo)).toNat).sum

/-! ### Coverage (R158) and the tile record (R160, R199) -/

/-- A figure ready for rasterisation: its class and its edges. -/
structure Shape where
  cls   : Nat
  edges : List Edge
  deriving DecidableEq, Repr

/-- The intervals covered by classes of at least c on a line. -/
def atLeast (shapes : List Shape) (c : Nat) (k : Int) : List (Int × Int) :=
  unionOf ((shapes.filter fun s => decide (c ≤ s.cls)).flatMap fun s => coveredOn s.edges k)

/-- q_≥c of n pixels from column i of row j (R158). -/
def qAtLeast (shapes : List Shape) (c : Nat) (i j : Int) (n : Nat) : List Nat :=
  let lines := (List.range 64).map fun v : Nat => atLeast shapes c (64 * j + v)
  (List.range n).map fun h : Nat =>
    let lo := 1024 * (i + h)
    rheN (lines.map fun l => lengthIn l lo (lo + 1024)).sum 256

/-- Insert into an ascending list without repeats. -/
def insertNat (c : Nat) : List Nat → List Nat
  | [] => [c]
  | d :: t => if c < d then c :: d :: t else if c = d then d :: t else d :: insertNat c t

/-- The classes of a set of shapes, ascending. -/
def classesOf (shapes : List Shape) : List Nat := shapes.foldr (fun s l => insertNat s.cls l) []

/-- q_c of n × m pixels from (i, j), row by row, of each class that is present, ascending. -/
def coverage (shapes : List Shape) (i j : Int) (n m : Nat) : List (Nat × List (List Nat)) :=
  let cs := classesOf shapes
  let ge := cs.map fun c => (List.range m).map fun v : Nat => qAtLeast shapes c i (j + v) n
  let zero := List.replicate m (List.replicate n 0)
  (((cs.zip ge).zip (ge.drop 1 ++ [zero])).map fun e =>
    (e.1.1, (e.1.2.zip e.2).map fun r => (r.1.zip r.2).map fun q => q.1 - q.2)).filter
    fun e => e.2.any fun r => r.any fun q => decide (0 < q)

/-- Pack 9-bit values into n words, lowest first (R91, R160). -/
def pack9 (qs : List Nat) (n : Nat) : List Nat :=
  let v := qs.foldr (fun q acc => acc * 512 + q) 0
  (List.range n).map fun i => v / 2 ^ (32 * i) % 2 ^ 32

/-- The value of index p in a packed run. -/
def unpack9 (ws : List Nat) (p : Nat) : Nat :=
  let b := 9 * p
  (ws.getD (b / 32) 0 + ws.getD (b / 32 + 1) 0 * 2 ^ 32) / 2 ^ (b % 32) % 512

/-- The box of tile (tx, ty), extended where SR = 1 (R199). -/
def tileBox (sr : Bool) (tx ty : Nat) : Box :=
  Box.grow ⟨4096 * tx, 4096 * ty, 4096 * (tx + 1), 4096 * (ty + 1)⟩ (srExt sr)

/-- The figures that pass the tile box test. -/
def tileFigs (figs : List Fig) (sr : Bool) (tx ty : Nat) : List Fig := figs.filter fun f => f.box.meets (tileBox sr tx ty)

/-- Figures as shapes. -/
def shapesOf (figs : List Fig) : List Shape := figs.map fun f => ⟨f.dclass, f.edges⟩

/-- The core and the apron of a plane given as 68 rows of 68 values (R199). -/
def coreOf (rows : List (List Nat)) : List Nat := ((rows.drop 2).take 64).flatMap fun r => (r.drop 2).take 64
def apronOf (rows : List (List Nat)) : List Nat :=
  (rows.take 2).flatten ++ (((rows.drop 2).take 64).flatMap fun r => r.take 2 ++ r.drop 66) ++ (rows.drop 66).flatten

/-- The tile record of tile (tx, ty) of traveller `trv` (R160, R199). -/
def tileRecord (figs : List Fig) (sr : Bool) (trv tseq tx ty : Nat) : List Nat :=
  let shapes := shapesOf (tileFigs figs sr tx ty)
  let planes := if sr then
      (coverage shapes (64 * tx - 2) (64 * ty - 2) 68 68).flatMap fun e =>
        e.1 :: pack9 (coreOf e.2) 1152 ++ pack9 (apronOf e.2) 149
    else (coverage shapes (64 * tx) (64 * ty) 64 64).flatMap fun e => e.1 :: pack9 e.2.flatten 1152
  let stride := if sr then 1302 else 1153
  (planes.length / stride * 2 ^ 23 + tseq) :: trv :: planes

/-! ### Tile order (R159) -/

/-- The tile column and row of a tile sequence number. -/
def tileOf (dir k tseq : Nat) : Nat × Nat :=
  let r := tseq / (8 * k)
  (tseq % (8 * k), if dir = 0 then r else 8 * k - 1 - r)

/-! ### Tile cost (R163, R199) -/

/-- An edge counts in a tile: it crosses a sample line and does not lie at or right of the right boundary. -/
def Edge.counts (b : Box) (e : Edge) : Bool :=
  decide (max e.ya b.yl < min e.yb b.yu) && decide (min e.xa e.xb < b.xu)

/-- T_tile (R163, R199). -/
def tileCost (figs : List Fig) (sr : Bool) (tx ty : Nat) : Nat :=
  let fs := tileFigs figs sr tx ty
  let b := tileBox sr tx ty
  let es := fs.flatMap fun f => f.edges.filter (Edge.counts b)
  let m := ceilDiv (max (classesOf (shapesOf fs)).length 1) 4
  (if sr then 1156 else 1024) * m + 2 * (es.filter fun e => !e.chord).length + 6 * (es.filter Edge.chord).length

/-- References of a tile in the reference store: 4 bytes a figure (R161). -/
def tileRefs (figs : List Fig) (sr : Bool) (tx ty : Nat) : Nat := 4 * (tileFigs figs sr tx ty).length

/-! ### Pixel correction (R200) -/

/-- q_c at (h, v) of plane number i of a record, (h, v) counted from the tile's lower-left pixel. -/
def planeAt (rc : List Nat) (sr : Bool) (i : Nat) (h v : Int) : Nat :=
  let stride := if sr then 1302 else 1153
  let plane := (rc.drop (2 + stride * i + 1)).take (stride - 1)
  if 0 ≤ h ∧ h < 64 ∧ 0 ≤ v ∧ v < 64 then unpack9 (plane.take 1152) (64 * v.toNat + h.toNat)
  else
    let idx : Int := if v < 0 then (v + 2) * 68 + h + 2
      else if v < 64 then 136 + 4 * v + (if h < 0 then h + 2 else h - 62)
      else 392 + (v - 64) * 68 + h + 2
    unpack9 (plane.drop 1152) idx.toNat

/-- w at (h, v): coverage weighted by dose class, in units of 2^-22 (R200). -/
def weightAt (factor : Nat → Nat) (rc : List Nat) (sr : Bool) (h v : Int) : Nat :=
  let stride := if sr then 1302 else 1153
  ((List.range (rc.getD 0 0 / 2 ^ 23)).map fun i =>
    planeAt rc sr i h v * factor (rc.getD (2 + stride * i) 0 % 256)).sum

/-- s of a pixel before it is kept from falling below 0 (R200). -/
def sharpAt (factor : Nat → Nat) (kern : Nat → Int) (rc : List Nat) (sr : Bool) (h v : Int) : Int :=
  if sr then
    ((List.range 25).map fun i => kern i * (weightAt factor rc sr (h + (i % 5 : Nat) - 2) (v + (i / 5 : Nat) - 2) : Int)).sum
  else 16384 * (weightAt factor rc sr h v : Int)

/-- Where a coordinate lies between cell centres: the lower cell and the fraction in 1/4096 (R200). -/
def cellFrac (d : Nat) (i : Int) : Int × Int :=
  let a0 := (2 * i + 1 - d) / (2 * d)
  (a0, rhe (4096 * (2 * i + 1 - d - 2 * d * a0)) (2 * d))

/-- The dose factor at a pixel (R200): bilinear over a map given by its cells. -/
def factorAt (dm : Int → Int → Nat) (d : Nat) (i j : Int) : Int :=
  let x := cellFrac d i
  let y := cellFrac d j
  rhe ((4096 - x.2) * (4096 - y.2) * dm x.1 y.1 + x.2 * (4096 - y.2) * dm (x.1 + 1) y.1 +
    (4096 - x.2) * y.2 * dm x.1 (y.1 + 1) + x.2 * y.2 * dm (x.1 + 1) (y.1 + 1)) (2 ^ 24)

/-- The dose before the clamp at 65,535 (R200). -/
def doseOf (sharp factor : Int) : Nat := (rhe (max sharp 0 * factor) (2 ^ 36)).toNat

end Sys2Proof.Machine
end

