-- ==== Sys2Proof/Machine/Expand.lean ====
section
/-!
DEFINITION. Expansion (R130 to R149): the dispatch of bands to expanders, band lists and their pages, slots, the life of
a traveller, and the completion of a stripe.
-/
namespace Sys2Proof.Machine

/-! ### Cost records (R142, R185) -/

/-- The HBM address of the workspace allocation of a handle (R191). -/
def State.workspace (s : State) (h : Nat) : Nat := s.lastBase + s.rd (Reg.COR_MAP_PARAM_WS h) * mib

/-- The HBM address of the cost record of segment number s × SQ + q of a handle. -/
def State.costAddr (s : State) (h n : Nat) : Nat := s.workspace h + 24576 + 256 * n

/-- The number of a segment in its handle's survey area. -/
def State.segNumber (s : State) (h stripe q : Nat) : Nat := stripe * s.rd (Reg.COR_MAP_AREA_SQ h) + q

/-- A cost-record field of n bytes at an offset. -/
def State.costField (s : State) (h stripe q ofs n : Nat) : Nat :=
  s.hbmVal (s.costAddr h (s.segNumber h stripe q) + ofs) n

/-- ROW_BYTES of the m-th tile-block row that the array meets (R142). -/
def State.rowBytes (s : State) (h stripe q dir k m : Nat) : Nat :=
  s.costField h stripe q (0x20 + 4 * (if dir = 0 then m else k / 2 - 1 - m)) 4

/-- REF_KIB of the m-th tile-block row that the array meets (R185). -/
def State.refKib (s : State) (h stripe q dir k m : Nat) : Nat :=
  s.costField h stripe q (0xB0 + 2 * (if dir = 0 then m else k / 2 - 1 - m)) 2

/-- Whether a handle's map has SR = 1 (R199). -/
def State.srOf (s : State) (h : Nat) : Bool := s.bit (Reg.COR_MAP_DESC_SR h)

/-! ### The list pool (R138) -/

/-- Pages of the list pool that no band holds. -/
def State.poolFree (s : State) : Nat := 2560 - (s.ing.lists.map BandList.pages).sum

/-- Pages that a number of list bytes takes. -/
def pagesFor (bytes : Nat) : Nat := ceilDiv bytes 65536

/-- The pages that the cost record bounds a band of a segment by (R132, R139). -/
def State.bandPages (s : State) (w : Waybill) (p : Plan) (j b : Nat) : Nat :=
  let band := (p.bands.getD j []).getD b (0, 0)
  pagesFor ((List.range band.2).map fun i => s.rowBytes w.handle w.stripe (w.segIndex j) w.dir p.k (band.1 + i)).sum

/-! ### Dispatch (R132) -/

/-- Work for an expander. -/
inductive Work where
  | band (i b : Nat)
  | first (w : Waybill) (p : Plan) (j : Nat)
  | survey (h n : Nat)
  deriving DecidableEq, Repr

/-- Some expander works on a traveller. -/
def State.expanding (s : State) (i : Nat) : Bool := s.ing.expanders.any fun x => match x.work with
  | some (t, _) => t == i
  | none => false

/-- Bands of a traveller that hold list pages (R131). -/
def State.resident (s : State) (i : Nat) : Nat := (s.ing.lists.filter fun e => e.trv == i).length

/-- A traveller waits for a band to be dispatched. -/
def State.wantsBand (s : State) (i : Nat) (t : Traveller) : Bool :=
  !s.expanding i && t.damage.isNone &&
    match t.state with
    | .expanding | .waitRepair => true
    | .raster => t.restart || (decide (t.listed < t.nbands) && decide (s.resident i < 2))
    | .buffered | .draining => t.restart
    | _ => false

/-- Where a traveller's segment stands in stage order. -/
def State.stageRank (s : State) (t : Traveller) : Nat :=
  ((s.armed.findIdx? fun w => w.seq == t.wseq).getD 2) * 2 ^ 32 + t.j

/-- The traveller of least rank that satisfies a test, with the pages its band is bounded by in the pool. -/
def State.bandWork (s : State) (f : Traveller → Bool) : Option Work :=
  let cands := (s.ing.travellers.zipIdx.filter fun e => f e.1 && !e.1.survey && s.wantsBand e.2 e.1 &&
    match s.waybillOf e.1.wseq with
    | some (w, p) => decide (s.bandPages w p e.1.j (if e.1.restart then 0 else e.1.listed) ≤ s.poolFree)
    | none => false)
  match cands with
  | [] => none
  | c :: cs =>
    let best := cs.foldl (fun a e => if s.stageRank e.1 < s.stageRank a.1 then e else a) c
    some (.band best.2 (if best.1.restart then 0 else best.1.listed))

/-- A traveller that is free. -/
def State.freeTraveller (s : State) : Option Nat := s.ing.travellers.findIdx? fun t => t.state == .free

/-- Survey travellers in use. -/
def State.surveyTrvs (s : State) : Nat := (s.ing.travellers.filter fun t => t.state != .free && t.survey).length

/-- The next segment of a survey, cost walk or cost-record repair to walk: handle and number. -/
def State.surveyNext (s : State) : Option (Nat × Nat) :=
  let h := s.rd Reg.SRV_STAT_HANDLE
  let first := if s.rd Reg.SRV_STAT_PHASE = 1 ∧ !s.ing.srv.aborting then s.ing.srv.todo.find? fun r => decide (r.1 < r.2) else none
  match first with
  | some r => some (h, r.1)
  | none => s.ing.srv.redo.find? fun e => !s.ing.travellers.any fun t =>
    t.state != .free && t.survey && t.handle == e.1 && s.segNumber t.handle t.stripe t.seg == e.2

/-- The first work in the dispatch order (R132). -/
def State.nextWork (s : State) : Option Work :=
  match s.bandWork fun t => t.restart || t.redo with
  | some k => some k
  | none =>
    match s.bandWork fun t => !(t.restart || t.redo) with
    | some k => some k
    | none =>
      let first := (s.window.find? fun e => (s.findTrv e.1.seq e.2.2).isNone).bind fun e =>
        if s.freeTraveller.isSome && decide (s.bandPages e.1 e.2.1 e.2.2 0 ≤ s.poolFree) then some (Work.first e.1 e.2.1 e.2.2)
        else none
      match first with
      | some k => some k
      | none =>
        match s.ing.travellers.zipIdx.find? fun e => e.1.survey && s.wantsBand e.2 e.1 with
        | some e => some (.band e.2 0)
        | none =>
          if s.surveyTrvs < s.rd Reg.ING_CFG_SURV_TRV && s.freeTraveller.isSome then
            s.surveyNext.map fun e => .survey e.1 e.2
          else none

/-- Give an expander a band. -/
def State.giveBand (s : State) (n i b : Nat) : State :=
  let t : State := { s with ing := { s.ing with expanders := modAt s.ing.expanders n fun x => { x with work := some (i, b), waiting := false } } }
  ((t.modTrv i fun v => { v with band := b }).setRunning ⟨.exp, n⟩ true).ingShow

/-- A band of traveller i's segment is dispatched: the mismatch of an earlier walk of it is past (R137). -/
def State.redispatched (s : State) (i : Nat) : State :=
  let f (x : Expander) : Expander := if x.mism = some ((s.trv i).wseq, (s.trv i).j) then { x with mism := none } else x
  { s with ing := { s.ing with expanders := s.ing.expanders.map f } }

/-- An expander takes new work (R137, R149). -/
def State.expanderIdle (s : State) (n : Nat) : Bool :=
  s.accepts ⟨.exp, n⟩ && !s.fault ⟨.exp, n⟩ 0 && !s.inReset pING &&
    match s.ing.expanders[n]? with | some x => x.work.isNone | none => false

/-- An uncorrectable read of the traveller table (R147): every traveller of the armed stripes is marked, and one that the
allocator drains halts it at the next tick boundary. -/
def State.trvUpset (s : State) : State :=
  let held (i : Nat) : Bool := (s.trv i).state != .free && !(s.trv i).survey
  let t := (List.range 512).foldl (fun u i => if held i then u.markTrv i else u) (s.setFault pING 0)
  if (List.range 512).any fun i => held i && (s.trv i).state == .draining then t.halt rPOISON s.alc.next else t

/-- Expander n takes the first work (R131, R132). -/
def State.dispatch (s : State) (n : Nat) : State :=
  match s.nextWork with
    | none => s
    | some (.band i b) =>
      let t := (if (s.trv i).restart then s.dropPass i else s).redispatched i
      (t.modTrv i fun v => if v.restart then
          { v with state := .expanding, restart := false, redo := true, valid := false, listed := 0, corrected := 0 }
        else if v.state = .waitRepair then { v with state := .expanding } else v).giveBand n i b
    | some (.first w p j) =>
      match s.freeTraveller with
      | none => s
      | some i =>
        let v : Traveller := { state := .expanding, handle := w.handle, stripe := w.stripe, wseq := w.seq,
                               seg := w.segIndex j, j := j, nbands := (p.bands.getD j []).length }
        (s.modTrv i fun _ => v).giveBand n i 0
    | some (.survey h m) =>
      match s.freeTraveller with
      | none => s
      | some i =>
        let sq := s.rd (Reg.COR_MAP_AREA_SQ h)
        let v : Traveller := { state := .expanding, survey := true, handle := h, stripe := m / sq, seg := m % sq }
        let rest := s.ing.srv.todo.filter fun r => decide (r.1 < r.2)
        let t : State := match rest with
          | r :: rs =>
            if s.rd Reg.SRV_STAT_PHASE = 1 ∧ s.rd Reg.SRV_STAT_HANDLE = h ∧ m = r.1 then
              { s with ing := { s.ing with srv := { s.ing.srv with todo := (r.1 + 1, r.2) :: rs } } } else s
          | [] => s
        (t.modTrv i fun _ => v).giveBand n i 0

/-- EXPANDER_DISPATCH (R131, R132): an idle expander n takes the first work. `upset`: the dispatcher's read of the traveller
table is uncorrectable (R147). -/
def execExpanderDispatch (n : Nat) (upset : Bool) (s : State) : Host.Outcome State Fault Refusal :=
  done (if !s.expanderIdle n then s else (if upset then s.trvUpset else s).dispatch n)

/-! ### A band's walk -/

/-- The walk of a band: what it finds, the bins visited, and the tile-block rows [r0, r1). -/
def State.walkBand (s : State) (w : Waybill) (p : Plan) (j b : Nat) : (Walk × Nat) × (Nat × Nat) :=
  let rr := bandRows w.dir p.k ((p.bands.getD j []).getD b (0, 0))
  let q := w.segIndex j
  let c := segBox p.k w.stripe q
  (s.walk (s.lay w.handle) (rowsBox (s.srOf w.handle) p.k w.stripe q rr.1 rr.2) c.xl c.yl, rr)

/-- The block of a layout that holds a stream offset and is damaged, or the offset itself where its bytes are poisoned. -/
def State.damageAt (s : State) (l : Layout) (o : Nat) : Bool :=
  s.poisoned (l.addr o) 4 || l.blocks.any fun b => b.damaged && decide (b.offset ≤ o) && decide (o < b.offset + b.len)

/-- The first damaged offset that a walk has read (R145). -/
def State.walkDamage (s : State) (h : Nat) (reads : List (Nat × Nat)) : Option Nat :=
  let l := s.lay h
  if l.indexDamaged then some indexMark
  else (reads.flatMap fun r => (List.range (r.2 / 4)).map fun i => r.1 + 4 * i).find? (s.damageAt l)

/-- The expander n has nothing in hand. -/
def State.freeExpander (s : State) (n : Nat) : State :=
  ({ s with ing := { s.ing with expanders := modAt s.ing.expanders n fun x => { x with work := none, waiting := false } } } : State).setRunning
    ⟨.exp, n⟩ false

/-- Busy clocks of expander n (R149). -/
def State.expBusy (s : State) (n clocks : Nat) : State :=
  let c := ((s.ing.expanders[n]?).map Expander.clocks).getD 0 + clocks
  { s.wrapInc (Reg.EXP_BUSY_KCLK n) (c / 1024) with
    ing := { s.ing with expanders := modAt s.ing.expanders n fun x => { x with clocks := c % 1024 } } }

/-- A traveller's band meets damaged layout-store data (R131, R145). -/
def State.meetDamage (s : State) (n i h o : Nat) : State :=
  let blk := ((s.lay h).blocks.find? fun b => decide (b.offset ≤ o) && decide (o < b.offset + b.len)).map BlockEntry.offset
  let t := ((s.freeExpander n).modTrv i fun v => { v with state := .waitRepair, damage := some (blk.getD o) }).raise ⟨.exp, n⟩ 0
  if o = indexMark then t else t.layoutDamaged h o

/-- A band's list is complete and its pages are taken (R131). -/
def State.listDone (s : State) (n i b : Nat) (figs : List Fig) (pages : Nat) : State :=
  let t : State := { s.freeExpander n with ing := { (s.freeExpander n).ing with
    lists := s.ing.lists ++ [{ trv := i, band := b, figs := figs, pages := pages }] } }
  let free := t.freeSlot
  (t.wrapInc (Reg.EXP_FIGS_FIGS n) figs.length).modTrv i fun v =>
    let u := { v with listed := b + 1 }
    match u.slot, free with
    | some _, _ => { u with state := .raster }
    | none, some k => { u with state := .raster, slot := some k, valid := false }
    | none, none => { u with state := .listed }

/-- Expander n's copies have disagreed on a band of a segment: the band's list is discarded (R137). -/
def State.expMismatch (s : State) (n wseq j : Nat) : State :=
  let t := s.freeExpander n
  { t with ing := { t.ing with expanders := modAt t.ing.expanders n fun x => { x with mism := some (wseq, j) } } }

/-- BAND_LIST_COMPLETE (R131, R137, R138): expander n ends its band after some clocks, at most those of R140; `mismatch`
says that its two copies disagreed. -/
def execBandListComplete (n clocks : Nat) (mismatch : Bool) (s : State) : Host.Outcome State Fault Refusal :=
  match (s.ing.expanders[n]?).bind Expander.work with
  | none => done s
  | some (i, b) =>
    let t := s.trv i
    match s.waybillOf t.wseq with
    | none => done s
    | some (w, p) =>
      if t.survey ∨ (s.ing.expanders.getD n {}).waiting then done s
      else
        let k := s.walkBand w p t.j b
        let sr := s.srOf w.handle
        let side := p.k / 2
        let s1 := s.expBusy n (min clocks (k.1.1.cost sr k.1.2 side k.2.1 k.2.2))
        match s.walkDamage w.handle k.1.1.reads with
        | some o => done (s1.meetDamage n i w.handle o)
        | none =>
          if mismatch then done ((s1.expMismatch n t.wseq t.j).setFault ⟨.exp, n⟩ 0)
          else
            let pages := pagesFor (listBytes k.1.1.figs sr side k.2.1 k.2.2)
            if s.poolFree < pages then
              done (({ s1 with ing := { s1.ing with expanders := modAt s1.ing.expanders n fun x => { x with waiting := true } } } : State).raise
                ⟨.exp, n⟩ 1)
            else done (s1.listDone n i b k.1.1.figs pages)

/-- LIST_POOL_WAIT_END (R138): an expander that waits for list pages goes on once the pool holds a page. -/
def execListPoolWaitEnd (n : Nat) (s : State) : Host.Outcome State Fault Refusal :=
  if 0 < s.poolFree then
    done { s with ing := { s.ing with expanders := modAt s.ing.expanders n fun x => { x with waiting := false } } }
  else done s

/-- SLOT_ASSIGN (R131): the first listed traveller in stage order takes the lowest free slot. -/
def execSlotAssign (s : State) : Host.Outcome State Fault Refusal :=
  match s.freeSlot, s.ing.travellers.zipIdx.filter fun e => e.1.state == .listed with
  | some k, c :: cs =>
    let best := cs.foldl (fun a e => if s.stageRank e.1 < s.stageRank a.1 then e else a) c
    done (s.modTrv best.2 fun v => { v with state := .raster, slot := some k, valid := false })
  | _, _ => done s

/-! ### The end of a band, of a segment and of a stripe -/

/-- Tiles of a band (R159). -/
def Plan.bandTiles (p : Plan) (j b : Nat) : Nat := ((p.bands.getD j []).getD b (0, 0)).2 * 16 * (8 * p.k)

/-- Correction has written every word of a traveller's slot: none of them is poisoned any more (R328). -/
def State.slotWhole (s : State) (i : Nat) : State :=
  match (s.trv i).slot, s.waybillOf (s.trv i).wseq with
  | some n, some (_, p) =>
    let a := s.sbBase + n * slotSize p.k
    s.wordsGood (wordsOf a (slotSize p.k))
  | _, _ => s

/-- A traveller's bands are all corrected (R131, R143). -/
def State.segmentDone (s : State) (i : Nat) : State :=
  let t := s.trv i
  if t.rcmp then
    s.modTrv i fun v => { v with rcmp := false, restart := true, redo := true, listed := 0, corrected := 0, band := 0 }
  else
    let s0 := s.slotWhole i
    let s1 := s0.modTrv i fun v => { v with valid := true, redo := false, state := if v.lastRead then .draining else .buffered }
    if t.redo then (s1.satInc Reg.ING_RCMP_CNT_DONE 1).modSeg t.wseq t.j fun c => { c with rcmp := c.rcmp + 1 } else s1

/-- BAND_CORRECTED (R131): all tiles of traveller i's oldest band are corrected into its slot. -/
def execBandCorrected (i : Nat) (s : State) : Host.Outcome State Fault Refusal :=
  let t := s.trv i
  match s.ing.lists.find? fun e => e.trv == i, s.waybillOf t.wseq with
  | some e, some (_, p) =>
    if e.done < p.bandTiles t.j e.band then done s
    else
      let s1 := ({ s with ing := { s.ing with lists := s.ing.lists.filter fun f => !(f.trv == i && f.band == e.band) } } : State).modTrv i
        fun v => { v with corrected := v.corrected + 1 }
      done (if t.corrected + 1 < t.nbands then s1 else s1.segmentDone i)
  | _, _ => done s

/-- The last pixel of a traveller's segment is read and its last tick launched (R131, R468). -/
def State.segOver (s : State) (t : Traveller) : Bool :=
  t.state == .draining && t.lastRead && match s.waybillOf t.wseq with
    | some (w, p) => decide (segLast w p t.j < p.launched)
    | none => false

/-- TRAVELLER_RELEASE (R131). -/
def execTravellerRelease (i : Nat) (s : State) : Host.Outcome State Fault Refusal :=
  let t := s.trv i
  let kept := s.live pLED && (s.led.openSeq.any fun e => e.1 == t.wseq)
  if s.segOver t ∧ (kept = false ∨ (s.segOf t.wseq t.j).made) then done (s.freeTrv i).ingShow else done s

/-- SEG_RECORD (R468, R471, R472): the record of traveller i's segment enters the staging while fewer than 64 are staged.
`hashFail`: the two hash units disagree twice in succession, and no record is made. -/
def execSegRecord (i : Nat) (hashFail : Bool) (s : State) : Host.Outcome State Fault Refusal :=
  let t := s.trv i
  match s.waybillOf t.wseq with
  | none => done s
  | some (w, p) =>
    if s.segOver t ∧ s.ledFor t.wseq ∧ (s.segOf t.wseq t.j).made = false ∧ s.led.staging.length < 64 then
      if hashFail then done (s.setFault pLED 1) else done (s.segRecord w p t.j (segLast w p t.j) t.slot false)
    else done s

/-- STRIPE_COMPLETE (R129, R469): every tick is computed and launched, the turnaround has begun and every SEG record is
made. -/
def execStripeComplete (s : State) : Host.Outcome State Fault Refusal :=
  match s.cur with
  | none => done s
  | some (w, p) =>
    let nt := nTicks w.length p.k p.a
    let recorded := !s.ledFor w.seq || (List.range (nSegs w.length p.k)).all fun j => (s.segOf w.seq j).made
    if s.alc.next < nt ∨ p.launched < nt ∨ !recorded ∨ (s.hstate = hRUN ∧ s.isFollower = false) then done s
    else done ((((s.closeRecord w p 0 0).freeStripe w.seq).raise pING 6).dropHead.ingShow)

end Sys2Proof.Machine
end

