-- ==== Sys2Proof/Machine/Pairs.lean ====
section
/-!
DEFINITION. The raster stage (chapters 6 and 7): the binner, pairs and spares, the dispatch of tiles, the compare, the
vote, and strikes and retirement.
-/
namespace Sys2Proof.Machine

open Sys2Proof (Agent TileUpset)

/-! ### Engines and roles (R165, R180) -/

/-- The page of engine e. -/
abbrev pRAS (e : Nat) : Page := ⟨.ras, e⟩

/-- The values of RAS_n_ROLE.ROLE. -/
abbrev roleNONE : Nat := 0
abbrev roleA : Nat := 1
abbrev roleB : Nat := 2
abbrev roleSPARE : Nat := 3
abbrev roleVOTING : Nat := 4
abbrev roleRETIRED : Nat := 5

/-- ROLE of an engine. -/
def State.role (s : State) (e : Nat) : Nat := s.rd (Reg.RAS_ROLE_ROLE e)

/-- Give an engine a role and a pair (0x1F = none); a change sets its EVT_RAW[2]. -/
def State.setRole (s : State) (e r p : Nat) : State :=
  ((s.wr (Reg.RAS_ROLE_ROLE e) r).wr (Reg.RAS_ROLE_PAIR e) p).raiseIf (s.role e != r) (pRAS e) 2

/-- An engine is available: its page is IDLE or RUNNING, and it is not retired (R165, R173). -/
def State.engineOk (s : State) (e : Nat) : Bool := s.accepts (pRAS e) && s.role e != roleRETIRED

/-- A pair is in service. -/
def State.inServ (s : State) (p : Nat) : Bool := s.bit (Reg.CMP_PAIR_INSERV p)

/-- The engines of a pair. -/
def State.engA (s : State) (p : Nat) : Nat := s.rd (Reg.CMP_PAIR_ENG_A p)
def State.engB (s : State) (p : Nat) : Nat := s.rd (Reg.CMP_PAIR_ENG_B p)

/-- The raster stage's own state. -/
def State.ras (s : State) : Ras := s.ing.ras
def State.modRas (s : State) (f : Ras → Ras) : State := { s with ing := { s.ing with ras := f s.ing.ras } }

/-- The pair that a tile occupies. -/
def TileAt.pairOf : TileAt → Option Nat
  | .pair p | .emit p | .limit p | .pairVote p => some p
  | _ => none

/-- A tile's vote is open (R170). -/
def TileAt.voting : TileAt → Bool
  | .vote | .spare _ | .pairVote _ | .voted _ => true
  | _ => false

/-- Pair p holds a tile. -/
def State.pairBusy (s : State) (p : Nat) : Bool := s.ras.tiles.any fun t => t.place.pairOf == some p

/-- Open votes. -/
def State.openVotes (s : State) : Nat := (s.ras.tiles.filter fun t => t.place.voting).length

/-- An engine has a tile in hand. -/
def State.engineBusy (s : State) (e : Nat) : Bool :=
  s.ras.tiles.any fun t => match t.place with
    | .spare n => n == e
    | q => match q.pairOf with
      | some p => s.engA p == e || s.engB p == e
      | none => false

/-- The pairs in service are noted for every segment being rasterised (R468). -/
def State.notePairs (s : State) : State :=
  let n := s.rd Reg.CMP_STAT_PAIRS
  (s.ing.travellers.filter fun t => t.state == .raster && !t.survey && decide (t.corrected < t.nbands)).foldl (fun u t =>
    u.modSeg t.wseq t.j fun c => { c with pairs := some (match c.pairs with | some m => min m n | none => n) }) s

/-- CMP_STAT, the faults NO_SPARE and PAIRS_LOW, and RUNNING follow the raster stage (R173, R178, R179). -/
def State.cmpShow (s : State) : State :=
  let es := List.range 52
  let pairs := ((List.range 24).filter s.inServ).length
  let spares := (es.filter fun e => s.role e == roleSPARE || s.role e == roleVOTING).length
  let s1 := s.wrs [(Reg.CMP_STAT_PAIRS, pairs), (Reg.CMP_STAT_SPARES, spares),
    (Reg.CMP_STAT_RETIRED, (es.filter fun e => s.role e == roleRETIRED).length), (Reg.CMP_STAT_VOTES, s.openVotes)]
  let s2 := if s.live pCMP && spares == 0 then s1.setFault pCMP 0 else s1
  let s3 := if s.live pCMP && decide (pairs < s.rd Reg.CMP_CFG_MIN_PAIRS) then s2.setFault pCMP 1 else s2
  let s4 := s3.setRunning pCMP (s.ras.tiles.any fun t => t.place != .agreed && t.place != .taken)
  let s5 := es.foldl (fun u e => u.setRunning (pRAS e) (s.engineBusy e)) s4
  if pairs = s.rd Reg.CMP_STAT_PAIRS then s5 else s5.notePairs

/-- Put a pair into service with its two engines. -/
def State.setPair (s : State) (p a b : Nat) : State :=
  ((s.wrs [(Reg.CMP_PAIR_ENG_A p, a), (Reg.CMP_PAIR_ENG_B p, b), (Reg.CMP_PAIR_INSERV p, 1)]).setRole a roleA p).setRole b roleB p

/-- The lowest-numbered spare that is not voting. -/
def State.freeSpare (s : State) : Option Nat := (List.range 52).find? fun e => s.role e == roleSPARE && s.engineOk e

/-- The pairs are formed when CMP goes from OFF to IDLE (R165). -/
def State.formPairs (s : State) : State :=
  let ok := s.engineOk
  let step1 := (List.range 24).foldl (fun t p => if ok (2 * p) && ok (2 * p + 1) then t.setPair p (2 * p) (2 * p + 1)
    else t.wr (Reg.CMP_PAIR_INSERV p) 0) s
  let step2 := (List.range 52).foldl (fun t e =>
    if ok e && !(t.role e == roleA && t.inServ (e / 2)) && !(t.role e == roleB && t.inServ (e / 2)) then t.setRole e roleSPARE 0x1F else t) step1
  let step3 := (List.range 24).foldl (fun t p =>
    if t.inServ p then t
    else
      let a := if ok (2 * p) then some (2 * p) else if ok (2 * p + 1) then some (2 * p + 1) else none
      match a with
      | none => t
      | some a =>
        if t.role a != roleSPARE then t
        else match (List.range 52).find? fun e => t.role e == roleSPARE && t.engineOk e && e != a with
          | some b => t.setPair p a b
          | none => t) step2
  step3.cmpShow

/-- An engine becomes available while CMP works: it joins the pool (R165). -/
def State.joinPool (s : State) (e : Nat) : State :=
  if s.live pCMP && s.engineOk e && s.role e == roleNONE then (s.setRole e roleSPARE 0x1F).cmpShow else s

/-! ### Tiles -/

/-- A tile of the same identity. -/
def Tile.same (a b : Tile) : Bool := a.trv == b.trv && a.wseq == b.wseq && a.band == b.band && a.tseq == b.tseq && a.void == b.void

/-- Change a tile where it stands. -/
def State.setTile (s : State) (t u : Tile) : State := s.modRas fun r => { r with tiles := r.tiles.map fun v => if v.same t then u else v }

/-- Change a tile and put it at the end of the list. -/
def State.queueTile (s : State) (t u : Tile) : State := s.modRas fun r => { r with tiles := (r.tiles.filter fun v => !v.same t) ++ [u] }

/-- Change a tile and put it at the head of the dispatch order. -/
def State.headTile (s : State) (t u : Tile) : State := s.modRas fun r => { r with tiles := u :: r.tiles.filter fun v => !v.same t }

/-- Remove a tile. -/
def State.dropTile (s : State) (t : Tile) : State := s.modRas fun r => { r with tiles := r.tiles.filter fun v => !v.same t }

/-- The list a tile is taken from. -/
def State.tileList (s : State) (t : Tile) : Option BandList := s.ing.lists.find? fun e => e.trv == t.trv && e.band == t.band

/-- A tile of a band is finished: corrected or discarded. Its references leave the store (R161). -/
def State.tileDone (s : State) (t : Tile) : State :=
  let u := s.dropTile t
  if t.void then u
  else { u with ing := { u.ing with lists := u.ing.lists.map fun e =>
    if e.trv = t.trv ∧ e.band = t.band then { e with done := e.done + 1 } else e } }

/-- The record of a tile (R160). -/
def State.recordOf (s : State) (t : Tile) : List Nat :=
  match s.tileList t, s.waybillOf t.wseq with
  | some e, some (w, p) =>
    let c := tileOf w.dir p.k t.tseq
    tileRecord e.figs (s.srOf w.handle) t.trv t.tseq c.1 c.2
  | _, _ => []

/-- References of a tile in bytes. -/
def State.refsOf (s : State) (t : Tile) : Nat :=
  match s.tileList t, s.waybillOf t.wseq with
  | some e, some (w, p) =>
    let c := tileOf w.dir p.k t.tseq
    tileRefs e.figs (s.srOf w.handle) c.1 c.2
  | _, _ => 0

/-- The references of a tile are released once its record has left its pair (R161). -/
def State.freeRefs (s : State) (t : Tile) : State :=
  let n := s.refsOf t
  { s with ing := { s.ing with lists := s.ing.lists.map fun e =>
    if !t.void && e.trv == t.trv && e.band == t.band then { e with refs := e.refs - n } else e } }

/-- Bytes CMP holds in the staging pool (R169). -/
def State.stagingUsed (s : State) : Nat :=
  4 * ((s.ras.tiles.filter fun t => t.place != .agreed).map fun t => t.recA.length + t.recB.length).sum

/-- The staging pool has room for a record of n words. -/
def State.stagingRoom (s : State) (n : Nat) : Bool := decide (s.stagingUsed + 4 * n ≤ 16 * mib)

/-- An engine completes a tile; every 2^WINDOW_LOG of them its level is due to fall (R172). -/
def State.engineDone (s : State) (e : Nat) : State :=
  let t := s.wrapInc (Reg.RAS_TILES_TILES e) 1
  if t.rd (Reg.RAS_TILES_TILES e) % 2 ^ s.rd Reg.CMP_CFG_WINDOW_LOG = 0 then t.modRas fun r => { r with decay := r.decay ++ [e] } else t

/-- STRIKE_DECAY (R172). -/
def execStrikeDecay (n : Nat) (s : State) : Host.Outcome State Fault Refusal :=
  if s.ras.decay.contains n then
    done ((s.wr (Reg.RAS_STRIKES_LEVEL n) (s.rd (Reg.RAS_STRIKES_LEVEL n) - 1)).modRas fun r => { r with decay := r.decay.erase n })
  else done s

/-! ### Retirement (R172 to R175) -/

/-- The tile in hand of a pair is taken from it; a vote it serves goes back to the head of the order (R162, R173). -/
def State.takeTile (s : State) (p : Nat) : State :=
  match s.ras.tiles.find? fun t => t.place == .pair p || t.place == .emit p || t.place == .pairVote p with
  | none => s
  | some t =>
    if t.place = .pairVote p then s.headTile t { t with place := .vote }
    else if t.void then s.dropTile t
    else s.queueTile t { t with place := .taken, recA := [], recB := [] }

/-- A pair seeks a second engine (R173): a free spare, or the first voting one to become free, or none. -/
def State.refill (s : State) (p : Nat) : State :=
  let a := s.engA p
  match s.freeSpare with
  | some b => ((s.setPair p a b).modRas fun r => { r with waiting := r.waiting.filter (· != p) }).raise pCMP 4
  | none =>
    if (List.range 52).any fun e => s.role e == roleVOTING then
      s.modRas fun r => { r with waiting := if r.waiting.contains p then r.waiting else r.waiting ++ [p] }
    else (((s.wr (Reg.CMP_PAIR_INSERV p) 0).setRole a roleSPARE 0x1F).modRas fun r =>
      { r with waiting := r.waiting.filter (· != p) }).raise pCMP 5

/-- A pair out of service, none of its engines left. -/
def State.closePair (s : State) (p : Nat) : State :=
  ((s.wr (Reg.CMP_PAIR_INSERV p) 0).modRas fun r => { r with waiting := r.waiting.filter (· != p) }).raise pCMP 5

/-- Pair p has lost the engines in `gone`: the survivor becomes engine A and a spare engine B; with both gone the pair
is taken out of service (R173, R174). -/
def State.reform (s : State) (p : Nat) (gone : List Nat) : State :=
  let t := s.takeTile p
  let a := s.engA p
  let b := s.engB p
  let okA := !gone.contains a
  let okB := !gone.contains b && !s.ras.waiting.contains p
  if okA then ((t.setRole a roleA p).refill p)
  else if okB then ((t.wr (Reg.CMP_PAIR_ENG_A p) b).setRole b roleA p).refill p
  else t.closePair p

/-- An abandoned vote of a spare goes back to the head of the order (R173). -/
def State.dropVoter (s : State) (e : Nat) : State :=
  match s.ras.tiles.find? fun t => t.place == .spare e with
  | none => s
  | some t => (s.headTile t { t with place := .vote }).wrs [(Reg.CMP_LAST_VOTE_OUTCOME, 3), (Reg.CMP_LAST_VOTE_VOTER, e),
      (Reg.CMP_LAST_VOTE_VPAIR, 0x1F), (Reg.CMP_LAST_VOTE_TSEQ, t.tseq)]

/-- Engines retire in one raster clock: the pairs in ascending order, then the spares (R173, R174). -/
def State.retire (s : State) (es : List Nat) : State :=
  let es := es.filter fun e => s.role e != roleRETIRED
  let s1 := es.foldl (fun t e =>
    ((((t.setRole e roleRETIRED 0x1F).setFault (pRAS e) 0).raise (pRAS e) 1).raise pCMP 3)) s
  let s2 := (List.range 24).foldl (fun t p =>
    if s.inServ p && es.any (fun e => (e == s.engA p && s.role e == roleA) || (e == s.engB p && s.role e == roleB)) then t.reform p es else t) s1
  ((es.filter fun e => s.role e == roleVOTING).foldl State.dropVoter s2).cmpShow

/-- One strike to each engine of a list (R172). -/
def State.strike (s : State) (es : List Nat) : State :=
  let s1 := es.foldl (fun t e =>
    ((t.satInc (Reg.RAS_STRIKES_LEVEL e) 1).satInc (Reg.RAS_STRIKES_TOTAL e) 1).raise (pRAS e) 0) s
  let out := es.filter fun e => s.rd Reg.CMP_CFG_RETIRE ≤ s1.rd (Reg.RAS_STRIKES_LEVEL e)
  if out.isEmpty then s1 else s1.retire out

/-- The check of a page's configuration storage at an access: an engine whose page fails it is retired in the same clock
(R172, R451). -/
def State.cfgAccess (s : State) (p : Page) : Bool × State :=
  let c := s.cfgInject p
  (c.1, if c.1 ∧ p.block = .ras then c.2.retire [p.inst] else c.2)

/-- An engine leaves by software: a busy one once its tile or vote is finished (R175). -/
def State.leaveEngine (s : State) (e : Nat) : State :=
  if s.engineBusy e then s.modRas fun r => { r with leaving := if r.leaving.contains e then r.leaving else r.leaving ++ [e] }
  else
    let r := s.role e
    let p := s.rd (Reg.RAS_ROLE_PAIR e)
    let s1 : State := s.modRas fun r => { r with leaving := r.leaving.filter (· != e) }
    if r = roleRETIRED ∨ r = roleNONE then s1
    else if (r = roleA ∨ r = roleB) ∧ s.inServ p then ((s1.setRole e roleNONE 0x1F).reform p [e]).cmpShow
    else (s1.setRole e roleNONE 0x1F).cmpShow

/-- Engines that were to leave do so once they are idle. -/
def State.leaveIdle (s : State) : State := s.ras.leaving.foldl (fun t e => if t.engineBusy e then t else t.leaveEngine e) s

/-- PAIR_REFORM (R173): a pair that waits for a spare takes one, or is taken out of service. -/
def execPairReform (p : Nat) (s : State) : Host.Outcome State Fault Refusal :=
  if s.ras.waiting.contains p then done (s.refill p).cmpShow else done s

/-! ### The binner (R161, R167) -/

/-- References in the store. -/
def State.refsHeld (s : State) : Nat := (s.ing.lists.map BandList.refs).sum

/-- Bands in stage order, as far as their travellers hold a slot. -/
def State.bandsInOrder (s : State) (f : BandList → Bool) : Option BandList :=
  let cands := s.ing.lists.filter fun e => (s.trv e.trv).slot.isSome && f e
  match cands with
  | [] => none
  | c :: cs => some (cs.foldl (fun a e =>
      if s.stageRank (s.trv e.trv) < s.stageRank (s.trv a.trv) ||
        (s.stageRank (s.trv e.trv) == s.stageRank (s.trv a.trv) && decide (e.band < a.band)) then e else a) c)

/-- The first tile sequence number of a band, and its tile rows (R139, R159). -/
def Plan.bandStart (p : Plan) (j b : Nat) : Nat := ((p.bands.getD j []).getD b (0, 0)).1 * 16 * (8 * p.k)
def Plan.bandRowsOf (p : Plan) (j b : Nat) : Nat := ((p.bands.getD j []).getD b (0, 0)).2 * 16

/-- References of one tile row of a band, counted from its start in meeting order. -/
def State.rowRefs (s : State) (e : BandList) (w : Waybill) (p : Plan) (j row : Nat) : Nat :=
  ((List.range (8 * p.k)).map fun x =>
    let c := tileOf w.dir p.k (p.bandStart j e.band + row * (8 * p.k) + x)
    tileRefs e.figs (s.srOf w.handle) c.1 c.2).sum

/-- The longest run of tile rows whose references fit in a number of bytes: rows taken and their references. -/
def runLength (refs : Nat → Nat) (cap : Nat) : Nat → Nat → Nat → Nat → Nat × Nat
  | 0, _, n, sum => (n, sum)
  | fuel + 1, row, n, sum =>
    if n ≠ 0 ∧ cap < sum + refs row then (n, sum) else runLength refs cap fuel (row + 1) (n + 1) (sum + refs row)

/-- BINNER_RUN (R161, R167): the next run of the first band that is not wholly binned; `mismatch` says that the two
copies disagreed, and the run is binned again. -/
def execBinnerRun (mismatch : Bool) (s : State) : Host.Outcome State Fault Refusal :=
  if s.ras.binWait ∨ !s.accepts pCMP ∨ mismatch then done s
  else match s.bandsInOrder fun e => match s.waybillOf (s.trv e.trv).wseq with
      | some (_, p) => decide (e.rows < p.bandRowsOf (s.trv e.trv).j e.band)
      | none => false with
    | none => done s
    | some e =>
      let t := s.trv e.trv
      match s.waybillOf t.wseq with
      | none => done s
      | some (w, p) =>
        let run := runLength (s.rowRefs e w p t.j) (32 * mib) (p.bandRowsOf t.j e.band - e.rows) e.rows 0 0
        if 0 < s.refsHeld ∧ 32 * mib < s.refsHeld + run.2 then done (s.modRas fun r => { r with binWait := true })
        else done { s with ing := { s.ing with lists := s.ing.lists.map fun f =>
          if f.trv = e.trv ∧ f.band = e.band then { f with rows := f.rows + run.1, refs := f.refs + run.2 } else f } }

/-- REFERENCE_STORE_FREE (R161): the binner goes on. -/
def execReferenceStoreFree (s : State) : Host.Outcome State Fault Refusal := done (s.modRas fun r => { r with binWait := false })

/-! ### Dispatch (R166, R170) -/

/-- A pair can take a tile. -/
def State.pairIdle (s : State) (p : Nat) : Bool :=
  s.inServ p && !s.ras.waiting.contains p && !s.pairBusy p &&
    !s.ras.leaving.contains (s.engA p) && !s.ras.leaving.contains (s.engB p)

/-- The next undispatched tile: the first in stage order, band order and TSEQ (R159, R166). -/
def State.nextTile (s : State) (p : Nat) : Option (Tile × BandList) :=
  (s.bandsInOrder fun e => match s.waybillOf (s.trv e.trv).wseq with
    | some (_, q) => decide (e.next < e.rows * (8 * q.k))
    | none => false).bind fun e =>
      let t := s.trv e.trv
      (s.waybillOf t.wseq).map fun wp =>
        ({ trv := e.trv, wseq := t.wseq, j := t.j, band := e.band, tseq := wp.2.bandStart t.j e.band + e.next, place := .pair p }, e)

/-- A pair takes a tile taken earlier, or the next one. -/
def State.feedPair (s : State) (p : Nat) : State :=
  match s.ras.tiles.find? fun t => t.place == .taken with
  | some t => s.setTile t { t with place := .pair p }
  | none => match s.nextTile p with
    | none => s
    | some (t, e) =>
      let u : State := { s with ing := { s.ing with lists := s.ing.lists.map fun f =>
        if f.trv = e.trv ∧ f.band = e.band then { f with next := f.next + 1 } else f } }
      (u.modRas fun r => { r with tiles := r.tiles ++ [t] }).notePairs

/-- TILE_DISPATCH (R166, R170): an idle voter or pair takes the first tile. -/
def execTileDispatch (s : State) : Host.Outcome State Fault Refusal :=
  if !s.accepts pCMP then done s
  else
    let idle := (List.range 24).filter s.pairIdle
    match s.ras.tiles.find? fun t => t.place == .vote with
    | some t =>
      match s.freeSpare with
      | some e => done ((s.setTile t { t with place := .spare e }).setRole e roleVOTING 0x1F).cmpShow
      | none => match (s.ras.tiles.filter fun t => t.place == .vote).findSome? fun t => (idle.find? fun p => p != t.pair).map fun p => (t, p) with
        | some (t, p) => done (s.setTile t { t with place := .pairVote p }).cmpShow
        | none => match idle with
          | p :: _ => done (s.feedPair p).cmpShow
          | [] => done s
    | none => match idle with
      | p :: _ => done (s.feedPair p).cmpShow
      | [] => done s

/-! ### Compare (R168, R169, R177) -/

/-- XOR a value into a word of a record. -/
def xorWord (rc : List Nat) (i v : Nat) : List Nat := if i < rc.length then setAt rc i ((rc.getD i 0) ^^^ v) else rc

/-- An armed injection of an engine on its next coverage word (R177): the flip, if the record has one. -/
def State.injects (s : State) (e : Nat) (rc : List Nat) : Option Nat :=
  if s.bit (Hdr.injArm (pRAS e)) && s.rd (Hdr.injTarget (pRAS e)) == 1 && decide (3 < rc.length) then
    some (s.rd (Hdr.injFlip (pRAS e)))
  else none

/-- Apply an engine's injection to its record. -/
def State.inject (s : State) (e : Nat) (rc : List Nat) : List Nat × State :=
  match s.injects e rc with
  | some f => (xorWord rc 3 f, s.wr (Hdr.injArm (pRAS e)) 0)
  | none => (rc, s)

/-- The kind of a mismatch and its word, if there is one (R168). -/
def mismatchOf (u : TileUpset) (a b : List Nat) : Option (Nat × Nat) :=
  match u with
  | .poison w => some (3, w)
  | .timing w _ _ => some (1, w)
  | _ => if a = b then none else some (0, ((List.range a.length).find? fun i => a.getD i 0 != b.getD i 0).getD 0)

/-- The records of two engines under an upset. -/
def upsetRecs (u : TileUpset) (rc : List Nat) : List Nat × List Nat :=
  match u with
  | .value w a b | .timing w a b => (xorWord rc w a.toNat, xorWord rc w b.toNat)
  | _ => (rc, rc)

/-- A mismatch is counted and shown (R179). -/
def State.showMismatch (s : State) (t : Tile) (p kind word : Nat) (inj : Bool) : State :=
  let s1 := ((s.wrapInc Reg.CMP_CNT_MISMATCH_COUNT 1).wrs [(Reg.CMP_LAST_MM_PAIR, p), (Reg.CMP_LAST_MM_KIND, kind),
    (Reg.CMP_LAST_MM_TSEQ, t.tseq), (Reg.CMP_LAST_MM_POS_WORD, word), (Reg.CMP_LAST_MM_POS_TRV, t.trv)]).raise pCMP 0
  if inj then (s1.satInc Reg.CMP_CNT_INJ_COUNT 1).raise pCMP 7 else s1

/-- A vote's outcome is shown (R179). -/
def State.showVote (s : State) (t : Tile) (outcome voter vpair : Nat) : State :=
  s.wrs [(Reg.CMP_LAST_VOTE_OUTCOME, outcome), (Reg.CMP_LAST_VOTE_VOTER, voter), (Reg.CMP_LAST_VOTE_VPAIR, vpair),
    (Reg.CMP_LAST_VOTE_TSEQ, t.tseq)]

/-- A vote has closed: the first pair that waits for a place opens its vote (R170). -/
def State.voteClosed (s : State) : State :=
  match s.ras.tiles.find? fun t => match t.place with | .limit _ => true | _ => false with
  | some t => if s.openVotes < 4 then s.queueTile t { t with place := .vote } else s
  | none => s

/-- The pass of a segment ends and the whole segment is computed again (R143, R171). -/
def State.endPass (s : State) (i : Nat) : State :=
  let t := s.trv i
  let s1 := (s.dropPass i).modTrv i fun v => { v with rcmp := false, restart := true, redo := true, valid := false, listed := 0, corrected := 0, band := 0 }
  if t.rcmp then s1 else (s1.satInc Reg.ING_RCMP_CNT_REQUESTED 1).raise pING 7

/-- No majority (R171): nothing is released, and the segment is computed again. -/
def State.noMajority (s : State) (t : Tile) (voter vpair : Nat) : State :=
  let s1 := ((((s.showVote t 2 voter vpair).satInc Reg.CMP_CNT_VOTE_NOMAJ 1).raise pCMP 2).autoReckon Reg.GLB_RECK_AUTO_NOMAJ).dropTile t
  let s2 := if t.void then s1 else (s1.modSeg t.wseq t.j fun c => { c with nomaj := c.nomaj + 1 }).endPass t.trv
  s2.voteClosed

/-- Both engines of a pair complete a tile. -/
def State.pairDone (s : State) (p : Nat) : State := (s.engineDone (s.engA p)).engineDone (s.engB p)

/-- The records that a pair emits. -/
structure PairRecs where
  recA     : List Nat
  recB     : List Nat
  mismatch : Option (Nat × Nat)      -- kind and word
  engInj   : Bool                    -- an engine's injection has acted
  cmpInj   : Bool                    -- an injection on the staging pool has acted
  deriving DecidableEq, Repr

/-- The records of pair p's engines under an upset and the armed injections (R168, R177), and the state after those. -/
def State.pairRecs (s : State) (rc : List Nat) (p : Nat) (u : TileUpset) : PairRecs × State :=
  let base := upsetRecs u rc
  let ia := s.inject (s.engA p) base.1
  let ib := ia.2.inject (s.engB p) base.2
  let armed := s.bit (Hdr.injArm pCMP) && s.rd (Hdr.injTarget pCMP) == 1
  let hit := armed && s.rd (Hdr.injFlip pCMP) != 0
  ({ recA := ia.1, recB := ib.1, mismatch := mismatchOf (if hit then .poison 0 else u) ia.1 ib.1,
     engInj := ia.1 != base.1 || ib.1 != base.2, cmpInj := hit },
    if armed then ib.2.wr (Hdr.injArm pCMP) 0 else ib.2)

/-- A first record compare of a pair. -/
def State.compareFirst (s : State) (t : Tile) (p : Nat) (u : TileUpset) : State :=
  let r := s.pairRecs (s.recordOf t) p u
  let s1 := r.2
  match r.1.mismatch with
  | none =>
    let s2 := (s1.freeRefs t).pairDone p
    if t.void then s2.tileDone t else s2.setTile t { t with place := .agreed, recA := r.1.recA }
  | some (kind, word) =>
    let s2 := s1.showMismatch t p kind word (r.1.engInj || r.1.cmpInj)
    if kind = 3 then (s2.freeRefs t).noMajority { t with engA := s.engA p, engB := s.engB p } 0x3F 0x1F
    else
      let full := decide (4 ≤ s.openVotes)
      let v : Tile := { t with place := if full then .limit p else .vote, pair := p, engA := s.engA p, engB := s.engB p,
                               inj := r.1.engInj, recA := r.1.recA, recB := r.1.recB }
      ((s2.pairDone p).queueTile t v).raiseIf full pCMP 6

/-- A voter pair's mismatch (R170): the vote returns to the head, or after two ends without a majority. -/
def State.voterMismatch (s : State) (t : Tile) (p : Nat) : State :=
  if 1 ≤ t.tries then s.noMajority { t with tries := t.tries + 1 } 0x3F p
  else s.headTile t { t with place := .vote, tries := t.tries + 1 }

/-- Pair p ends the record of the tile in hand (R168, R169). -/
def State.recordCompare (s : State) (p : Nat) (upset : TileUpset) : State :=
  match s.ras.tiles.find? fun t => t.place == .pair p || t.place == .pairVote p with
  | none => s
  | some t =>
    let rc := s.recordOf t
    if t.place = .pair p then
      if !s.stagingRoom rc.length then s.setTile t { t with place := .emit p }
      else (s.compareFirst t p upset).leaveIdle.cmpShow
    else
      let r := s.pairRecs rc p upset
      match r.1.mismatch with
      | none => ((r.2.pairDone p).setTile t { t with place := .voted p, recV := r.1.recA }).leaveIdle.cmpShow
      | some (kind, word) =>
        (((r.2.showMismatch t p kind word (r.1.engInj || r.1.cmpInj)).pairDone p).voterMismatch t p).leaveIdle.cmpShow

/-- TILE_RECORD_COMPARE (R168, R169). -/
def execTileRecordCompare (p : Nat) (upset : TileUpset) (s : State) : Host.Outcome State Fault Refusal :=
  done (s.recordCompare p upset)

/-- TILE_STALL (R168, R169, R171): pair p has held a tile for 16,777,216 clocks without emitting a word. -/
def execTileStall (p : Nat) (s : State) : Host.Outcome State Fault Refusal :=
  match s.ras.tiles.find? fun t => t.place == .pair p || t.place == .pairVote p with
  | none => done s
  | some t =>
    let s1 := s.showMismatch t p 2 0 false
    if t.place = .pairVote p then done (s1.voterMismatch t p).leaveIdle.cmpShow
    else done (((s1.freeRefs t).noMajority t 0x3F 0x1F).strike [s.engA p, s.engB p]).leaveIdle.cmpShow

/-- STAGING_POOL_FREE (R169): a pair stalled at emit goes on. -/
def execStagingPoolFree (p : Nat) (s : State) : Host.Outcome State Fault Refusal :=
  match s.ras.tiles.find? fun t => t.place == .emit p with
  | none => done s
  | some t => if s.stagingRoom (s.recordOf t).length then done (s.setTile t { t with place := .pair p }) else done s

/-! ### The vote (R171) -/

/-- A tile is won by vote: the voter's record goes to correction. -/
def State.won (s : State) (t : Tile) (rc : List Nat) : State :=
  let s1 := ((s.satInc Reg.CMP_CNT_VOTE_WON 1).raise pCMP 1).freeRefs t
  let s2 := if t.void then s1.tileDone t
    else (s1.modSeg t.wseq t.j fun c => { c with votes := c.votes + 1 }).setTile t
      { t with place := .agreed, recA := rc, recB := [], recV := [] }
  s2.voteClosed

/-- The resolution of a vote by a record: `voter` and `vpair` as CMP_LAST_VOTE shows them. Where a TIMING mismatch left
two equal records, A wins and the struck engine is a free value. -/
def State.resolve (s : State) (t : Tile) (rc : List Nat) (voter vpair : Nat) (inj : Bool) : State :=
  let hit (u : State) (es : List Nat) : State := if t.inj || inj then u else u.strike es
  if rc = t.recA ∧ rc = t.recB then
    let d := s.draw
    hit ((d.2.showVote t 0 voter vpair).won t rc) [if d.1 % 2 = 0 then t.engB else t.engA]
  else if rc = t.recA then hit ((s.showVote t 0 voter vpair).won t rc) [t.engB]
  else if rc = t.recB then hit ((s.showVote t 1 voter vpair).won t rc) [t.engA]
  else hit ((s.freeRefs t).noMajority t voter vpair) (if voter = 0x3F then [t.engA, t.engB] else [t.engA, t.engB, voter])

/-- VOTE_RESOLVED (R171): of the votes whose voter has a record or computes one, the given one ends. -/
def execVoteResolved (vote : Nat) (upset : TileUpset) (s : State) : Host.Outcome State Fault Refusal :=
  match (s.ras.tiles.filter fun t => match t.place with | .spare _ | .voted _ => true | _ => false)[vote]? with
  | none => done s
  | some t => match t.place with
    | .spare e =>
      let base := (upsetRecs upset (s.recordOf t)).1
      let i := s.inject e base
      let s1 := (i.2.engineDone e).setRole e roleSPARE 0x1F
      match upset with
      | .poison _ => done ((s1.freeRefs t).noMajority t e 0x1F).leaveIdle.cmpShow
      | _ => done (s1.resolve t i.1 e 0x1F (i.1 != base)).leaveIdle.cmpShow
    | .voted p => done (s.resolve t t.recV 0x3F p false).leaveIdle.cmpShow
    | _ => done s

/-- A block reset of CMP: staged and open tiles are dispatched again from their start (R175). -/
def State.cmpReset (s : State) : State :=
  s.modRas fun r => { r with waiting := [], tiles := (r.tiles.filter fun t => !t.void).map fun t =>
    if t.place = .agreed then t else { t with place := .taken, recA := [], recB := [], recV := [], tries := 0, inj := false } }

end Sys2Proof.Machine
end

