-- ==== Sys2Proof/Machine/Survey.lean ====
section
/-!
DEFINITION. Survey and dose correction (chapter 8): density and cost records, the dose-factor map, operations of the
survey unit, pixel correction, and damage to a map.
-/
namespace Sys2Proof.Machine

open Sys2Proof (Agent)

/-! ### The cell grid (R181, R182) -/

/-- D at a pitch (R181). -/
def cellSide (pitch : Nat) : Nat := rheN 64000 pitch

/-- NCX or NCY: cells over n stripes or segments of width w (R182). -/
def cellCount (n w d : Nat) : Nat := ceilDiv (n * w) d

/-- The geometry of a handle's map, as its descriptor holds it. -/
structure MapGeo where
  d   : Nat
  w   : Nat
  sx  : Nat
  sq  : Nat
  ncx : Nat
  ncy : Nat
  deriving DecidableEq, Repr

/-- A geometry from K, D, SX and SQ. -/
def mkGeo (k d sx sq : Nat) : MapGeo := ⟨d, 512 * k, sx, sq, cellCount sx (512 * k) d, cellCount sq (512 * k) d⟩

/-- The geometry of a handle's map. -/
def State.geo (s : State) (h : Nat) : MapGeo :=
  mkGeo (s.rd (Reg.COR_MAP_PARAM_K h)) (s.rd (Reg.COR_MAP_DESC_D h)) (s.rd (Reg.COR_MAP_AREA_SX h)) (s.rd (Reg.COR_MAP_AREA_SQ h))

/-- Cells of the map, and its bytes (R182). -/
def MapGeo.rows (g : MapGeo) : Nat := g.ncy + 2
def MapGeo.cols (g : MapGeo) : Nat := g.ncx + 2
def MapGeo.bytes (g : MapGeo) : Nat := 2 * g.cols * g.rows

/-- The place of cell (a, b) in the map (R182). -/
def MapGeo.key (g : MapGeo) (a b : Int) : Nat := ((a + 1) * g.rows + (b + 1)).toNat

/-- A cell lies in the map. -/
def MapGeo.has (g : MapGeo) (a b : Int) : Bool :=
  decide (-1 ≤ a) && decide (a ≤ g.ncx) && decide (-1 ≤ b) && decide (b ≤ g.ncy)

/-- NFX and NFY (R188). -/
def MapGeo.nfx (g : MapGeo) : Nat := g.ncx / 64 + 3
def MapGeo.nfy (g : MapGeo) : Nat := g.ncy / 64 + 3

/-- Bytes of the workspace allocation (R195). -/
def MapGeo.workBytes (g : MapGeo) (iter rmax : Nat) : Nat :=
  24576 + 256 * g.sx * g.sq + 8 * g.nfx * g.nfy + 67108864 + 8 * g.rows * (2 * iter * rmax + 2 * ceilDiv g.w g.d + 8)

/-- The HBM address of a handle's map. -/
def State.mapAddr (s : State) (h : Nat) : Nat := s.mapBase + s.rd (Reg.COR_MAP_DESC_BASE h) * mib

/-- The dose factor of a cell; 0 outside the map. -/
def State.mapCell (s : State) (h : Nat) (a b : Int) : Nat :=
  if (s.geo h).has a b then s.hbmVal (s.mapAddr h + 2 * (s.geo h).key a b) 2 else 0

/-! ### Kernels (R186, R187) and the parameter block (R191) -/

/-- The live words that a START copies into the parameter block, in the order the model gives them (DESIGN CHOICE, log
entry 26): Gaussian taps, fogging taps, COR_TARGET, COR_KERN_k, COR_FOG, COR_CFG. -/
def State.liveParams (s : State) : List Nat :=
  ((List.range 4).flatMap fun k => (List.range 256).map fun t => s.rd (Reg.gaussTap k t)) ++
  ((List.range 1024).map fun t => s.rd (Reg.fogTap t)) ++
  [s.rd Reg.COR_TARGET_T * 65536 + s.rd Reg.COR_TARGET_H] ++
  ((List.range 4).map fun k => s.rd (Reg.COR_KERN_EN k) * 2 ^ 31 + s.rd (Reg.COR_KERN_RADIUS k) * 65536 + s.rd (Reg.COR_KERN_ETA k)) ++
  [s.rd Reg.COR_FOG_EN * 2 ^ 31 + s.rd Reg.COR_FOG_RADIUS * 65536 + s.rd Reg.COR_FOG_ETA,
   s.rd Reg.COR_CFG_ITER * 65536 + s.rd Reg.COR_CFG_CONV_LIM]

/-- Word i of a handle's parameter block. -/
def State.param (s : State) (h i : Nat) : Nat := s.hbmVal (s.workspace h + 4 * i) 4

/-- An enabled kernel's taps sum to 65,536 (R187); kernel 4 is fogging. -/
def State.kernelOk (s : State) (k : Nat) : Bool :=
  let sum (tap : Nat → Fld) (r : Nat) : Nat := s.rd (tap 0) + 2 * ((List.range r).map fun t => s.rd (tap (t + 1))).sum
  if k < 4 then !s.bit (Reg.COR_KERN_EN k) || sum (Reg.gaussTap k) (s.rd (Reg.COR_KERN_RADIUS k)) == 65536
  else !s.bit Reg.COR_FOG_EN || sum Reg.fogTap (s.rd Reg.COR_FOG_RADIUS) == 65536

/-- R_max of the live registers, and of a handle's parameter block (R195). -/
def State.liveRmax (s : State) : Nat :=
  ((List.range 4).map fun k => if s.bit (Reg.COR_KERN_EN k) then s.rd (Reg.COR_KERN_RADIUS k) else 0).foldl max 0
def State.paramRmax (s : State) (h : Nat) : Nat :=
  ((List.range 4).map fun k => let v := s.param h (2049 + k); if v / 2 ^ 31 = 1 then bits v 23 16 else 0).foldl max 0

/-- The page that judges a write at an offset of the kernel window: SRV for the Gaussian and fogging taps, COR for the
short-range kernel (R186); none in the reserved part. -/
def kernelPage (o : Nat) : Option Page := if o < 0x2000 then some pSRV else if o < 0x2064 then some pCOR else none

/-- The tap word at an offset of the kernel window. -/
def kernelFld (o : Nat) : Fld :=
  if o < 0x1000 then Reg.gaussTap (o / 0x400) (o % 0x400 / 4)
  else if o < 0x2000 then Reg.fogTap ((o - 0x1000) / 4) else Reg.srTap ((o - 0x2000) / 4)

/-- Write a tap (R186). The first part tells whether the write landed. -/
def State.kernelStore (s : State) (p : Page) (o v : Nat) : Bool × State :=
  if s.running p ∨ (o < 0x2000 ∧ 65536 < bits v 16 0) then (false, s.raise p 31) else (true, s.wr (kernelFld o) v)

/-- Write a dose-class factor (R198). The first part tells whether the write landed. -/
def State.doseStore (s : State) (c v : Nat) : Bool × State :=
  if s.running pCOR then (false, s.raise pCOR 31) else (true, s.wr (Reg.doseClass c) v)

/-- KERNEL_WINDOW_WRITE (R186). -/
def execKernelWindowWrite (agent : Agent) (ofs : BitVec 16) (value : Word) (s : State) : Host.Outcome State Fault Refusal :=
  let o := ofs.toNat / 4 * 4
  match kernelPage o with
  | some p => done (s.access agent p fun s => (s.kernelStore p o value.toNat).2)
  | none => done s

/-- DOSE_CLASS_TABLE_WRITE (R198). -/
def execDoseClassTableWrite (agent : Agent) (c : BitVec 8) (value : Word) (s : State) : Host.Outcome State Fault Refusal :=
  done (s.access agent pCOR fun s => (s.doseStore c.toNat value.toNat).2)

/-! ### Operations (R191 to R194, R197) -/

/-- Change the survey unit's own state. -/
def State.srv (s : State) : Srv := s.ing.srv
def State.modSrv (s : State) (f : Srv → Srv) : State := { s with ing := { s.ing with srv := f s.ing.srv } }

/-- The pages that run while an operation or a repair is in progress (R192, R204). -/
def State.srvShow (s : State) : State :=
  ((s.setRunning pSRV (s.rd Reg.SRV_STAT_PHASE != 0)).setRunning pCOR (s.anyArmed || s.surveyBusy)).ingShow

/-- COR_DMG shows the oldest damaged word of a host map (R205). -/
def State.dmgShow (s : State) : State :=
  match s.srv.damaged.find? fun e => s.rd (Reg.COR_MAP_DESC_STATE e.1) = 3 with
  | some (h, o) => s.wrs [(Reg.COR_DMG_LO_OFS_LO, o % 2 ^ 32), (Reg.COR_DMG_HI_VALID, 1), (Reg.COR_DMG_HI_HANDLE, h),
      (Reg.COR_DMG_HI_OFS_HI, o / 2 ^ 32)]
  | none => s.wrs [(Reg.COR_DMG_LO_OFS_LO, 0), (Reg.COR_DMG_HI_VALID, 0), (Reg.COR_DMG_HI_HANDLE, 0), (Reg.COR_DMG_HI_OFS_HI, 0)]

/-- The fields that a write of SRV_CTRL leaves. -/
def State.srvFields (s : State) (h mode : Nat) (sr : Bool) : State :=
  s.wrs [(Reg.SRV_CTRL_HANDLE, h), (Reg.SRV_CTRL_MODE, mode), (Reg.SRV_CTRL_SR, if sr then 1 else 0)]

/-- The geometry a START would use. -/
def State.newGeo (s : State) : MapGeo :=
  mkGeo s.kBeam (cellSide (s.rd Reg.MOT_GRID_PITCH)) (s.rd Reg.SRV_AREA_SX) (s.rd Reg.SRV_AREA_SQ)

/-- MAP_MIB and WS_MIB of a START (R182, R195). -/
def State.needMap (s : State) : Nat := ceilDiv s.newGeo.bytes mib
def State.needWs (s : State) (mode : Nat) : Nat :=
  ceilDiv (if mode = 2 then s.newGeo.workBytes 0 0 else s.newGeo.workBytes (s.rd Reg.COR_CFG_ITER) s.liveRmax) mib

/-- Two ranges of MiB overlap. -/
def overlaps (a n b m : Nat) : Bool := decide (a < b + m) && decide (b < a + n)

/-- MiB of a handle's map and of its workspace allocation. -/
def State.mapMib (s : State) (h : Nat) : Nat := ceilDiv (s.geo h).bytes mib
def State.wsMib (s : State) (h : Nat) : Nat :=
  ceilDiv ((s.geo h).workBytes (s.rd (Reg.COR_MAP_PARAM_ITER h)) (s.paramRmax h)) mib

/-- The map fits its region and overlaps no other (R191 check 4). -/
def State.mapFits (s : State) (h : Nat) : Bool :=
  let o := s.rd Reg.SRV_MAP_MAP
  decide (o + s.needMap ≤ s.rd Reg.MEM_REGION_MAP_GIB * 1024) && (List.range 16).all fun i =>
    i == h || s.rd (Reg.COR_MAP_DESC_STATE i) == 0 || !overlaps o s.needMap (s.rd (Reg.COR_MAP_DESC_BASE i)) (s.mapMib i)

/-- The workspace allocation fits and overlaps no other (R191 check 5); an allocation is held until the map is replaced
or the handle freed (R195). -/
def State.wsFits (s : State) (h mode : Nat) : Bool :=
  let o := s.rd Reg.SRV_MAP_WS
  decide (o + s.needWs mode ≤ s.rd Reg.MEM_REGION_WS_GIB * 1024) && (List.range 16).all fun i =>
    i == h || s.rd (Reg.COR_MAP_PARAM_K i) == 0 || !overlaps o (s.needWs mode) (s.rd (Reg.COR_MAP_PARAM_WS i)) (s.wsMib i)

/-- The checks of R191 in order: RESULT and DETAIL of a refusal. -/
def State.srvRefusal (s : State) (h mode : Nat) : Option (Nat × Nat) :=
  let st := s.rd (Reg.COR_MAP_DESC_STATE h)
  if s.surveyBusy then some (1, 0)
  else if (s.lay h).state ≠ .accepted then some (2, 0)
  else match if mode = 0 then (List.range 5).find? fun k => !s.kernelOk k else none with
    | some k => some (3, k)
    | none =>
      if (mode = 0 ∨ mode = 2) ∧ !s.mapFits h then some (4, 0)
      else if (mode = 0 ∨ mode = 2) ∧ !s.wsFits h mode then some (5, 0)
      else if (mode = 0 ∨ mode = 2) ∧ (s.armed.any fun w => w.handle == h) then some (6, 0)
      else if mode = 1 ∧ st ≠ 2 ∧ st ≠ 3 then some (7, 0)
      else if mode = 3 ∧ ¬(st = 3 ∧ s.bit (Reg.COR_MAP_DESC_DAMAGED h)) then some (7, 0)
      else none

/-- Clear a handle's descriptor. -/
def State.clearDesc (s : State) (h : Nat) : State :=
  let base := 0x130100 + 0x20 * h
  ({ s with regs := s.regs.clear fun a => decide (base ≤ a) && decide (a < base + 0x20) } : State).modSrv fun v =>
    { v with damaged := v.damaged.filter fun e => e.1 != h, redo := v.redo.filter fun e => e.1 != h,
             repaired := v.repaired.filter fun e => e.1 != h, repair := v.repair.filter (· != h), coarse := v.coarse.filter (· != h) }

/-- The descriptor of a new map, and its workspace: parameter block written, cost records and coarse grid cleared
(R191). -/
def State.newMap (s : State) (h mode : Nat) (sr : Bool) : State :=
  let g := s.newGeo
  let t := (s.clearDesc h).wrs [(Reg.COR_MAP_DESC_STATE h, 1), (Reg.COR_MAP_DESC_SR h, if sr then 1 else 0),
    (Reg.COR_MAP_DESC_D h, g.d), (Reg.COR_MAP_DESC_BASE h, s.rd Reg.SRV_MAP_MAP), (Reg.COR_MAP_AREA_SQ h, g.sq),
    (Reg.COR_MAP_AREA_SX h, g.sx), (Reg.COR_MAP_PARAM_K h, s.kBeam),
    (Reg.COR_MAP_PARAM_ITER h, if mode = 0 then s.rd Reg.COR_CFG_ITER else 0), (Reg.COR_MAP_PARAM_WS h, s.rd Reg.SRV_MAP_WS)]
  let w := t.workspace h
  let u : State := { t with hbm := Memory.clearRange t.hbm w (24576 + 256 * g.sx * g.sq + 8 * g.nfx * g.nfy) }
  if mode = 0 then
    let ps := s.liveParams.flatMap (leBytes 4)
    let v : State := { u with hbm := Memory.clearRange u.hbm (u.mapAddr h) g.bytes }
    (v.hbmStore w ps).hbmStore (w + 12288) ps
  else u

/-- SID of a shared survey (R410): over the parameter block, LAYOUT_ID and SRV_AREA. -/
def State.newSid (s : State) (h : Nat) : Nat :=
  crc64.of (s.liveParams.flatMap (leBytes 4) ++ leBytes 8 (s.lay h).index.id ++
    leBytes 4 (s.rd Reg.SRV_AREA_SX + 65536 * s.rd Reg.SRV_AREA_SQ)) % 2 ^ 32

/-- Segments of the stripes FAB_SURV.FIRST to LAST that lie in an area of SX stripes (R409). -/
def State.sharedRange (s : State) (sx sq : Nat) : Nat × Nat :=
  (s.rd Reg.FAB_SURV_FIRST * sq, max (s.rd Reg.FAB_SURV_FIRST) (min (s.rd Reg.FAB_SURV_LAST + 1) sx) * sq)

/-- What is handed out to the expanders (R192, R409): the whole area, or the module's part of a shared survey. The extra
workspace that a shared one takes is a free value: the spec gives no formula for FAB_SURV_NEED. -/
def State.walkPlan (s : State) (h mode : Nat) : State :=
  let sx := s.rd Reg.SRV_AREA_SX
  let sq := s.rd Reg.SRV_AREA_SQ
  let shared := mode == 0 && s.bit Reg.FAB_SURV_CTRL_EN
  let r := if shared then s.sharedRange sx sq else if mode = 1 then
    (0, s.rd (Reg.COR_MAP_AREA_SX h) * s.rd (Reg.COR_MAP_AREA_SQ h)) else (0, sx * sq)
  let sid := if shared then s.newSid h else 0
  let t := s.modSrv fun v => { v with
    todo := [r], left := r.2 - r.1, shared := shared, sid := if shared then sid else v.sid, parts := [], whole := [] }
  if shared then
    let u : State := { t with fab := { t.fab with sums := [], mapCrcs := [], ownCrc := none, crcDiff := t.fab.crcDiff && s.srv.sid == sid } }
    (u.draw.2.wr Reg.FAB_SURV_NEED_MIB (u.draw.1 % 65536)).wr Reg.FAB_SURV_CTRL_MISSING sx
  else t

/-- A START of the survey unit (R191). -/
def State.srvStart (s : State) (h mode : Nat) (sr : Bool) : State :=
  let t := ((s.srvFields h mode sr).wr Reg.SRV_NEED_WS_MIB (s.needWs mode)).wr Reg.SRV_NEED_MAP_MIB s.needMap
  match s.srvRefusal h mode with
  | some (r, d) => ((t.wr Reg.SRV_CTRL_RESULT r).wr Reg.SRV_CTRL_DETAIL d).raise pSRV 0
  | none =>
    let u := t.wrs [(Reg.SRV_CTRL_RESULT, 0), (Reg.SRV_CTRL_DETAIL, 0), (Reg.SRV_STAT_OUTCOME, 0), (Reg.SRV_STAT_HANDLE, h),
      (Reg.SRV_PROG_SEGS, 0), (Reg.SRV_STAT_PHASE, if mode = 0 ∨ mode = 1 then 1 else 4)]
    let v := if mode = 0 ∨ mode = 2 then u.newMap h mode sr else u
    ((v.modSrv fun x => { x with mode := mode, acc := [], col := 0, deltaMax := 0, sat := 0, aborting := false }).walkPlan h mode).srvShow

/-- SURVEY_START (R191). -/
def execSurveyStart (agent : Agent) (handle : BitVec 4) (sr : Bool) (s : State) : Host.Outcome State Fault Refusal :=
  done (s.newWork agent pSRV fun s => s.srvStart handle.toNat 0 sr)

/-- COST_WALK_START (R191, R193). -/
def execCostWalkStart (agent : Agent) (handle : BitVec 4) (sr : Bool) (s : State) : Host.Outcome State Fault Refusal :=
  done (s.newWork agent pSRV fun s => s.srvStart handle.toNat 1 sr)

/-- HOST_MAP_COMMIT (R191, R197). -/
def execHostMapCommit (agent : Agent) (handle : BitVec 4) (sr : Bool) (s : State) : Host.Outcome State Fault Refusal :=
  done (s.newWork agent pSRV fun s => s.srvStart handle.toNat 2 sr)

/-- HOST_MAP_RECHECK (R191, R203). -/
def execHostMapRecheck (agent : Agent) (handle : BitVec 4) (sr : Bool) (s : State) : Host.Outcome State Fault Refusal :=
  done (s.newWork agent pSRV fun s => s.srvStart handle.toNat 3 sr)

/-- A handle whose surveyed map has a damaged word and can be repaired, the oldest word first (R203). -/
def State.repairDue (s : State) : Option Nat :=
  (s.srv.damaged.find? fun e => (s.rd (Reg.COR_MAP_DESC_STATE e.1) = 1 ∨ s.rd (Reg.COR_MAP_DESC_STATE e.1) = 2) ∧ e.1 ∉ s.srv.coarse).map
    Prod.fst

/-- SRV_STAT shows the repair in progress while no operation is (R204). -/
def State.repairShow (s : State) : State :=
  (if s.surveyBusy then s
    else match s.srv.repair with
    | some h => s.wrs [(Reg.SRV_STAT_PHASE, 5), (Reg.SRV_STAT_HANDLE, h)]
    | none => s.wr Reg.SRV_STAT_PHASE 0).srvShow

/-- The next repair starts, if none is in progress (R203). -/
def State.nextRepair (s : State) : State :=
  if s.inReset pSRV then s
  else
    (match s.srv.repair, s.repairDue with
      | none, some h => (s.modSrv fun v => { v with repair := some h }).raise pSRV 6
      | _, _ => s).repairShow

/-- An operation ends with an outcome. -/
def State.srvEnd (s : State) (outcome : Nat) : State :=
  (((s.wr Reg.SRV_STAT_PHASE 0).wr Reg.SRV_STAT_OUTCOME outcome).modSrv fun v => { v with
    acc := [], aborting := false, todo := [], left := 0, shared := false, parts := [], whole := [] }).nextRepair

/-- The operation ends aborted (R194, R470): the map is NONE and its cost records are invalid. -/
def State.srvAborted (s : State) : State :=
  let h := s.rd Reg.SRV_STAT_HANDLE
  let g := s.geo h
  let t := (s.wrs [(Reg.COR_MAP_DESC_STATE h, 0), (Reg.COR_MAP_DESC_COSTED h, 0), (Reg.COR_MAP_DONE_COLS h, 0),
    (Reg.COR_MAP_DESC_DAMAGED h, 0)]).modSrv fun v =>
    { v with damaged := v.damaged.filter fun e => e.1 != h, repair := v.repair.filter (· != h), redo := v.redo.filter fun e => e.1 != h }
  let u : State := { t with hbm := Memory.clearRange t.hbm (t.costAddr h 0) (256 * g.sx * g.sq) }
  (((List.range 512).foldl (fun v i => if (v.trv i).state ≠ .free ∧ (v.trv i).survey ∧ (v.trv i).handle = h then v.freeTrv i else v) u).srvEnd 2
    |>.mapRecord h 0 true).raise pSRV 4

/-- A write of ABORT (R194). -/
def State.srvAbort (s : State) : State :=
  if !s.surveyBusy then s
  else if s.rd Reg.SRV_STAT_PHASE = 1 then
    if s.ing.travellers.any fun t => t.state != .free && t.survey then s.modSrv fun v => { v with aborting := true }
    else s.srvAborted
  else if s.armed.any fun w => w.handle == s.rd Reg.SRV_STAT_HANDLE then s.raise pSRV 31
  else s.srvAborted

/-- SRV_ABORT (R194). -/
def execSrvAbort (agent : Agent) (s : State) : Host.Outcome State Fault Refusal := done (s.access agent pSRV State.srvAbort)

/-- FREE (R124, R194): a release of the handle ends its survey as ABORT does and frees its map and workspace. -/
def State.freeLayout (s : State) (h : Nat) : State :=
  let t := s.freeGo h
  if (s.lay h).state = .empty ∨ s.handleBusy h then t
  else ((if s.surveyBusy && s.rd Reg.SRV_STAT_HANDLE == h then t.srvAborted else t).clearDesc h).dmgShow.nextRepair

/-- FREE (R124, R195). -/
def execFreeLayout (agent : Agent) (handle : BitVec 4) (s : State) : Host.Outcome State Fault Refusal :=
  done (s.access agent pING fun s => s.freeLayout handle.toNat)

/-! ### The walk (R184, R185, R196) -/

/-- The walk of a whole segment of a handle (R184). -/
def State.walkSegment (s : State) (h stripe q : Nat) : Walk × Nat :=
  let k := s.rd (Reg.COR_MAP_PARAM_K h)
  let c := segBox k stripe q
  s.walk (s.lay h) (rowsBox (s.srOf h) k stripe q 0 (k / 2)) c.xl c.yl

/-- Covered length per cell column on one survey line of a segment: (cell column, length) (R184). -/
def lineCells (g : MapGeo) (stripe : Nat) (ivs : List (Int × Int)) : List (Nat × Nat) :=
  let lo := stripe * g.w
  let a0 := lo / g.d
  (List.range ((lo + g.w - 1) / g.d + 1 - a0)).map fun i =>
    let p0 : Int := max ((a0 + i : Nat) * g.d) lo - lo
    let p1 : Int := min ((a0 + i + 1 : Nat) * g.d) (lo + g.w) - lo
    (a0 + i, lengthIn ivs (1024 * p0) (1024 * p1))

/-- Add to an accumulator. -/
def accAdd (acc : List (Nat × Nat)) (key n : Nat) : List (Nat × Nat) :=
  if n = 0 then acc else (key, codeOf acc key + n) :: acc.filter fun e => e.1 != key

/-- The contribution of one segment to the accumulators (R184). -/
def segDensity (g : MapGeo) (stripe q : Nat) (shapes : List Shape) (acc : List (Nat × Nat)) : List (Nat × Nat) :=
  (List.range g.w).foldl (fun acc r =>
    let b := (q * g.w + r) / g.d
    (lineCells g stripe (atLeast shapes 0 (64 * (r : Int) + 32))).foldl (fun acc e => accAdd acc (g.key e.1 b) e.2) acc) acc

/-- ρ of an accumulator (R184). -/
def rhoOf (g : MapGeo) (a : Nat) : Nat := rheN (a * 32) (g.d * g.d)

/-- The bytes of a cost record (R142, R185). -/
def costRecord (k : Walk) (bins side : Nat) (sr : Bool) : List Byte :=
  let rows := List.range 32
  let entries := (k.figs.map fun f => (f.blocks sr side 0 side).length).sum
  let rowBytes (i : Nat) : Nat :=
    if i < side then listBytes (k.figs.filter fun f => !(f.blocks sr side i (i + 1)).isEmpty) sr side i (i + 1) else 0
  let tiles (y0 n : Nat) : List (Nat × Nat) := (List.range n).flatMap fun y => (List.range (16 * side)).map fun x => (x, y0 + y)
  let costs := (tiles 0 (16 * side)).map fun t => tileCost k.figs sr t.1 t.2
  let ref (i : Nat) : Nat :=
    if i < side then min 0xFFFF (ceilDiv ((tiles (16 * i) 16).map fun t => tileRefs k.figs sr t.1 t.2).sum 1024) else 0
  leBytes 8 k.figs.length ++ leBytes 8 k.inst ++ leBytes 8 entries ++ leBytes 4 (ceilDiv (k.cost sr bins side 0 side) 1024) ++
    leBytes 4 (ceilDiv k.readBytes 1024) ++ rows.flatMap (fun i => leBytes 4 (rowBytes i)) ++
    leBytes 8 costs.sum ++ leBytes 4 (costs.foldl max 0) ++ leBytes 4 ((if sr then 1 else 0) + 2) ++
    rows.flatMap (fun i => leBytes 2 (ref i)) ++ List.replicate 16 0

/-- Write the density of the accumulators into the map's cells that a segment touches (R184). -/
def State.writeDensity (s : State) (h : Nat) (g : MapGeo) (acc : List (Nat × Nat)) : State :=
  acc.foldl (fun t e => { t with hbm := Memory.writeBytes t.hbm (t.mapAddr h + 2 * e.1) (leBytes 2 (rhoOf g e.2)) }) s

/-! ### Shared surveys (R409 to R411) -/

/-- The cell columns a stripe touches: the first and the last. -/
def stripeCols (g : MapGeo) (stripe : Nat) : Nat × Nat := (stripe * g.w / g.d, (stripe * g.w + g.w - 1) / g.d)

/-- The stripes of the area that touch cell column a. -/
def colStripes (g : MapGeo) (a : Nat) : List Nat :=
  (List.range g.sx).filter fun i => decide (a * g.d / g.w ≤ i) && decide (i ≤ ((a + 1) * g.d - 1) / g.w)

/-- The DENS payloads of a stripe (R411): column by column, its cell rows in chunks of at most 2,040 from row 0 on (where
the chunks begin is a DESIGN CHOICE, log entry 35). -/
def stripeChunks (g : MapGeo) (sid stripe : Nat) (acc : List (Nat × Nat)) : List (List Byte) :=
  let c := stripeCols g stripe
  (List.range (c.2 + 1 - c.1)).flatMap fun i =>
    (List.range (ceilDiv g.ncy 2040)).map fun j =>
      let n := min 2040 (g.ncy - 2040 * j)
      [sid, stripe, c.1 + i, 2040 * j, n].flatMap (leBytes 4) ++
        (List.range n).flatMap fun r => leBytes 4 (codeOf acc (g.key (c.1 + i : Nat) (2040 * j + r : Nat)))

/-- Broadcast a stripe's chunks and DENS_END (R411). -/
def State.sendStripe (s : State) (g : MapGeo) (stripe : Nat) (acc : List (Nat × Nat)) : State :=
  let cs := stripeChunks g s.srv.sid stripe acc
  (cs.foldl (fun t c => t.fabricSend 0x30 0xFF 16 c) s).fabricSend 0x31 0xFF 16
    (leBytes 4 s.srv.sid ++ leBytes 4 stripe ++ leBytes 4 cs.length ++ leBytes 4 (crc32c.of cs.flatten))

/-- The partial sums of a whole stripe are added once, and every cell whose stripes are all complete takes its density. -/
def State.addStripe (s : State) (h : Nat) (g : MapGeo) (stripe : Nat) (sums : List (Nat × Nat)) : State :=
  if s.srv.whole.contains stripe || decide (g.sx ≤ stripe) then s
  else
    let t := s.modSrv fun v => { v with
      acc := sums.foldl (fun a e => accAdd a e.1 e.2) v.acc, whole := stripe :: v.whole }
    let c := stripeCols g stripe
    let ready := (List.range (c.2 + 1 - c.1)).filter fun i => (colStripes g (c.1 + i)).all t.srv.whole.contains
    let cells := t.srv.acc.filter fun e => ready.any fun i => e.1 / g.rows == c.1 + i + 1
    ((t.writeDensity h g cells).wr Reg.FAB_SURV_CTRL_MISSING (g.sx - t.srv.whole.length)).raise pFAB 5

/-- The module's own part of a stripe grows by one walked segment; the stripe's end broadcasts it. -/
def State.ownStripe (s : State) (h : Nat) (g : MapGeo) (stripe q : Nat) (k : Walk) : State :=
  let old := (s.srv.parts.find? fun e => e.stripe == stripe).getD { stripe := stripe }
  let new : StripeAcc := { old with walked := old.walked + 1, acc := segDensity g stripe q (shapesOf k.figs) old.acc }
  let t := s.modSrv fun v => { v with parts := new :: v.parts.filter fun e => e.stripe != stripe }
  if new.walked = g.sq then (t.sendStripe g stripe new.acc).addStripe h g stripe new.acc else t

/-- A segment has been walked: its cost record is written, its density accumulated (R184, R185, R409). -/
def State.segWalked (s : State) (h stripe q : Nat) (k : Walk) (bins : Nat) (repair : Bool) : State :=
  let g := s.geo h
  let sr := s.srOf h
  let n := stripe * g.sq + q
  let t := s.hbmStore (s.costAddr h n) (costRecord k bins (g.w / 1024) sr)
  if repair then t.modSrv fun v => { v with redo := v.redo.filter fun e => e != (h, n) }
  else
    let u := (t.wrapInc Reg.SRV_PROG_SEGS 1).modSrv fun v => { v with left := v.left - 1 }
    if s.srv.mode = 0 then
      if s.srv.shared then u.ownStripe h g stripe q k
      else
        let acc := segDensity g stripe q (shapesOf k.figs) s.srv.acc
        (u.modSrv fun v => { v with acc := acc }).writeDensity h g acc
    else u

/-- TAKE (R411): the stripes FIRST to LAST are walked as well; those being walked or complete are walked again from
scratch. -/
def State.takeStripes (s : State) : State :=
  if s.rd Reg.SRV_STAT_PHASE = 1 ∧ s.srv.shared then
    let g := s.geo (s.rd Reg.SRV_STAT_HANDLE)
    let r := s.sharedRange g.sx g.sq
    s.modSrv fun v => { v with
      todo := v.todo ++ [r], left := v.left + (r.2 - r.1)
      parts := v.parts.filter fun e => !(decide (r.1 ≤ e.stripe * g.sq) && decide (e.stripe * g.sq < r.2) && e.walked == g.sq) }
  else s

/-- TAKE (R411). -/
def execTakeGo (agent : Agent) (s : State) : Host.Outcome State Fault Refusal := done (s.newWork agent pFAB State.takeStripes)

/-- SURVEY_SEGMENT_WALKED (R184, R185, R194, R196): expander n ends its survey segment; `mismatch` says that the two copies
of the survey unit disagreed, and the segment is walked again. -/
def execSurveySegmentWalked (n clocks : Nat) (mismatch : Bool) (s : State) : Host.Outcome State Fault Refusal :=
  match (s.ing.expanders[n]?).bind Expander.work with
  | none => done s
  | some (i, _) =>
    let t := s.trv i
    if !t.survey then done s
    else
      let k := s.walkSegment t.handle t.stripe t.seg
      let side := (s.geo t.handle).w / 1024
      let s1 := s.expBusy n (min clocks (k.1.cost (s.srOf t.handle) k.2 side 0 side))
      match s.walkDamage t.handle k.1.reads with
      | some o => done (s1.meetDamage n i t.handle o)
      | none =>
        if mismatch then done ((s1.freeExpander n).raise pSRV 9)
        else
          let redo := s.srv.redo.contains (t.handle, s.segNumber t.handle t.stripe t.seg)
          let s2 := (((s1.freeExpander n).wrapInc (Reg.EXP_FIGS_FIGS n) k.1.figs.length).freeTrv i).segWalked t.handle t.stripe t.seg k.1 k.2 redo
          done (if s2.srv.aborting && !s2.ing.travellers.any (fun t => t.state != .free && t.survey) then s2.srvAborted else s2.srvShow)

/-- The module's own walk has ended, and in a shared survey every stripe of the area is complete (R411). -/
def State.walkOver (s : State) : Bool :=
  s.rd Reg.SRV_STAT_PHASE == 1 && !s.srv.aborting && s.srv.left == 0 &&
    (!s.srv.shared || decide ((s.geo (s.rd Reg.SRV_STAT_HANDLE)).sx ≤ s.srv.whole.length))

/-- WALK_COMPLETE (R192, R411). -/
def execWalkComplete (s : State) : Host.Outcome State Fault Refusal :=
  if s.walkOver ∧ s.srv.mode = 0 then
    done ((((s.wr (Reg.COR_MAP_DESC_COSTED (s.rd Reg.SRV_STAT_HANDLE)) 1).wr Reg.SRV_STAT_PHASE 2).raise pSRV 1).raiseIf
      s.srv.shared pFAB 6)
  else done s

/-- COST_WALK_COMPLETE (R193). -/
def execCostWalkComplete (s : State) : Host.Outcome State Fault Refusal :=
  if s.walkOver ∧ s.srv.mode = 1 then
    done (((s.wr (Reg.COR_MAP_DESC_COSTED (s.rd Reg.SRV_STAT_HANDLE)) 1).srvEnd 1).raise pSRV 3)
  else done s

/-! ### Residue checking (R202) -/

/-- A residue failure of a correction slice at a correction clock; a second one within 10^9 clocks retires the slice. -/
def State.residue (s : State) (slice clock : Nat) : State :=
  let t := (s.satInc Reg.COR_RES_FAILS 1).raise pCOR 0
  let again := s.srv.failed.any fun e => e.1 == slice && decide (clock ≤ e.2 + 10 ^ 9)
  if s.srv.retired.contains slice ∨ 64 ≤ slice then t
  else if again then
    (((t.modSrv fun v => { v with retired := slice :: v.retired, failed := v.failed.filter fun e => e.1 != slice }).wr Reg.COR_RES_SLICES
      (63 - s.srv.retired.length)).setFault pCOR 0).raise pCOR 1
  else t.modSrv fun v => { v with failed := (slice, clock) :: v.failed.filter fun e => e.1 != slice }

/-! ### Fogging and the proximity iteration (R188 to R190) -/

/-- ρ64 of a coarse cell (R188); ρ is 0 outside the map. -/
def rho64 (g : MapGeo) (rho : Int → Int → Nat) (ca cb : Int) : Nat :=
  if decide (-1 ≤ ca) && decide (ca ≤ (g.ncx / 64 : Nat) + 1) && decide (-1 ≤ cb) && decide (cb ≤ (g.ncy / 64 : Nat) + 1) then
    rheN (((List.range 64).map fun i : Nat => ((List.range 64).map fun j : Nat => rho (64 * ca + i) (64 * cb + j)).sum).sum) 4096
  else 0

/-- One pass of a kernel of radius r with taps w over values f along an axis (R188, R189). -/
def kernelPass (w : Nat → Nat) (r : Nat) (f : Int → Nat) : Nat :=
  rheN (((List.range (2 * r + 1)).map fun i : Nat =>
    let t : Int := (i : Int) - r
    w t.natAbs * f t).sum) 65536

/-- F of a coarse cell (R188). -/
def fogAt (g : MapGeo) (w : Nat → Nat) (r : Nat) (rho : Int → Int → Nat) (ca cb : Int) : Nat :=
  kernelPass w r fun t => kernelPass w r fun u => rho64 g rho (ca + u) (cb + t)

/-- The fog term of a cell (R188), bilinear from the coarse centres. -/
def fogTerm (f : Int → Int → Nat) (a b : Int) : Nat :=
  let a0 := (2 * a - 63) / 128
  let b0 := (2 * b - 63) / 128
  let rx := 2 * a - 63 - 128 * a0
  let ry := 2 * b - 63 - 128 * b0
  (rhe ((128 - rx) * (128 - ry) * f a0 b0 + rx * (128 - ry) * f (a0 + 1) b0 + (128 - rx) * ry * f a0 (b0 + 1) +
    rx * ry * f (a0 + 1) (b0 + 1)) 16384).toNat

/-- The parameters of a map (R191): kernels as (η, radius, taps), η_f, T and H. -/
structure Prox where
  kernels : List (Nat × Nat × List Nat)
  etaF    : Nat
  fogR    : Nat
  fogTaps : List Nat
  t       : Nat
  h       : Nat
  iter    : Nat
  deriving DecidableEq, Repr

/-- The parameters that a handle's parameter block holds. -/
def State.prox (s : State) (h : Nat) : Prox :=
  let kern := (List.range 4).filterMap fun k =>
    let v := s.param h (2049 + k)
    if v / 2 ^ 31 = 1 then some (bits v 15 0, bits v 23 16, (List.range 256).map fun t => s.param h (256 * k + t)) else none
  let fog := s.param h 2053
  { kernels := kern, etaF := if fog / 2 ^ 31 = 1 then bits fog 15 0 else 0, fogR := bits fog 25 16,
    fogTaps := (List.range 1024).map fun t => s.param h (1024 + t), t := bits (s.param h 2048) 31 16,
    h := bits (s.param h 2048) 15 0, iter := bits (s.param h 2054) 18 16 }

/-- d of a cell after a number of iterations, before and after the clamp (R189). -/
def proxRaw (p : Prox) (g : MapGeo) (rho ff : Int → Int → Nat) : Nat → Int → Int → Nat
  | 0, _, _ => 16384
  | it + 1, a, b =>
    let pv (x y : Int) : Nat := if g.has x y then rheN (rho x y * min (proxRaw p g rho ff it x y) 65535) 16384 else 0
    let bs := (p.kernels.map fun k =>
      k.1 * kernelPass (fun i => k.2.2.getD i 0) k.2.1 fun t => kernelPass (fun i => k.2.2.getD i 0) k.2.1 fun u => pv (a + u) (b + t)).sum +
      p.etaF * ff a b
    rheN (p.t * 2 ^ 29) (p.h * 2 ^ 15 + bs)

/-- d of a cell (R189). -/
def proxAt (p : Prox) (g : MapGeo) (rho ff : Int → Int → Nat) (it : Nat) (a b : Int) : Nat := min (proxRaw p g rho ff it a b) 65535

/-- ρ from accumulators. -/
def rhoFrom (g : MapGeo) (acc : List (Nat × Nat)) (a b : Int) : Nat := if g.has a b then rhoOf g (codeOf acc (g.key a b)) else 0

/-- The HBM address of an entry of the coarse grid (DESIGN CHOICE, log entry 26): the two copies of rho64 and then the two
of F, each by column. -/
def State.coarseAddr (s : State) (h copy : Nat) (g : MapGeo) (ca cb : Int) : Nat :=
  s.workspace h + 24576 + 256 * g.sx * g.sq + 2 * (copy * g.nfx * g.nfy + ((ca + 1) * g.nfy + (cb + 1)).toNat)

/-- F of a coarse cell as the workspace holds it. -/
def State.fogStored (s : State) (h : Nat) (g : MapGeo) (ca cb : Int) : Nat := s.hbmVal (s.coarseAddr h 2 g ca cb) 2

/-- The fog term of a cell from the stored grid; 0 with fogging disabled (R188). -/
def State.fogOf (s : State) (h : Nat) (g : MapGeo) (p : Prox) (a b : Int) : Nat :=
  if p.etaF = 0 then 0 else fogTerm (s.fogStored h g) a b

/-- FOG_COMPLETE (R188, R192): the coarse grid is written; a residue failure has been computed again (R202). -/
def execFogComplete (fail : Option Nat) (clock : Nat) (s : State) : Host.Outcome State Fault Refusal :=
  if s.rd Reg.SRV_STAT_PHASE ≠ 2 then done s
  else
    let h := s.rd Reg.SRV_STAT_HANDLE
    let g := s.geo h
    let p := s.prox h
    let rho := rhoFrom g s.srv.acc
    let cells := (List.range g.nfx).flatMap fun a : Nat => (List.range g.nfy).map fun b : Nat => ((a : Int) - 1, (b : Int) - 1)
    let grid (f : Int → Int → Nat) : List Byte := cells.flatMap fun c => leBytes 2 (f c.1 c.2)
    let r := grid (rho64 g rho)
    let f := if p.etaF = 0 then List.replicate r.length 0 else grid (fogAt g (fun i => p.fogTaps.getD i 0) p.fogR rho)
    let t := s.hbmStore (s.coarseAddr h 0 g (-1) (-1)) (r ++ r ++ f ++ f)
    let u := match fail with | some n => t.residue n clock | none => t
    done ((u.wr Reg.SRV_STAT_PHASE 3).modSrv fun v => { v with col := 0, deltaMax := 0, sat := 0 })

/-- The final factors of a cell column, each with the clamp and the change of the last iteration (R189, R190). -/
def State.columnOf (s : State) (h : Nat) (g : MapGeo) (rho : Int → Int → Nat) (a : Int) : List (Nat × Nat × Bool) :=
  let p := s.prox h
  let ff := s.fogOf h g p
  (List.range g.rows).map fun i : Nat =>
    let b : Int := (i : Int) - 1
    let raw := proxRaw p g rho ff p.iter a b
    let old := proxAt p g rho ff (p.iter - 1) a b
    (min raw 65535, ((min raw 65535 : Int) - old).natAbs, decide (65535 < raw))

/-- SWEEP_COLUMN (R189, R190): the next column's factors are written; after the last the check begins. The sweep waits for
a repair of its map (R203). -/
def execSweepColumn (fail : Option Nat) (clock : Nat) (s : State) : Host.Outcome State Fault Refusal :=
  if s.rd Reg.SRV_STAT_PHASE ≠ 3 ∨ s.srv.repair = some (s.rd Reg.SRV_STAT_HANDLE) then done s
  else
    let h := s.rd Reg.SRV_STAT_HANDLE
    let g := s.geo h
    let c := s.srv.col
    let col := s.columnOf h g (rhoFrom g s.srv.acc) ((c : Int) - 1)
    let s1 := s.hbmStore (s.mapAddr h + 2 * c * g.rows) (col.flatMap fun e => leBytes 2 e.1)
    let dl := col.foldl (fun m e => max m e.2.1) s.srv.deltaMax
    let sat := min 0xFFFFFFFF (s.srv.sat + (col.filter fun e => e.2.2).length)
    let s2 := (s1.wr (Reg.COR_MAP_DONE_COLS h) (c + 1)).modSrv fun v => { v with col := c + 1, deltaMax := dl, sat := sat }
    let s3 := match fail with | some n => s2.residue n clock | none => s2
    if c + 1 < g.cols then done s3
    else done (((s3.wrs [(Reg.COR_MAP_STAT_DELTA h, dl), (Reg.COR_MAP_SAT_SAT h, sat), (Reg.SRV_STAT_PHASE, 4)])).raiseIf
      (decide (s.rd Reg.COR_CFG_CONV_LIM < dl)) pSRV 8)

/-! ### The check of a map (R192, R197, R203) -/

/-- CRC-64 of a handle's map bytes. -/
def State.mapBytesCrc (s : State) (h : Nat) : Nat := crc64.of (Memory.readBytes s.hbm (s.mapAddr h) (s.geo h).bytes)

/-- Compare the CRCs received for the module's SID with its own (R412). -/
def State.mapCrcCheck (s : State) (sid c : Nat) : State :=
  if s.fab.mapCrcs.any fun e => e.1 == sid && e.2 != c then
    ((({ s with fab := { s.fab with crcDiff := true } } : State).setFault pFAB 0).raise pFAB 7)
  else s

/-- CHECK of a shared survey: the CRC is broadcast and compared with those received (R412). -/
def State.shareCrc (s : State) (c : Nat) : State :=
  if s.srv.shared then
    let t : State := { s with fab := { s.fab with ownCrc := some c } }
    (t.fabricSend 0x33 0xFF 16 (leBytes 4 s.srv.sid ++ leBytes 8 c)).mapCrcCheck s.srv.sid c
  else s

/-- MAP_COMPLETE (R192, R412, R470); the check waits for a repair of its map (R203). -/
def execMapComplete (s : State) : Host.Outcome State Fault Refusal :=
  let h := s.rd Reg.SRV_STAT_HANDLE
  if s.rd Reg.SRV_STAT_PHASE ≠ 4 ∨ s.srv.mode ≠ 0 ∨ s.srv.repair = some h then done s
  else
    let c := s.mapBytesCrc h
    let t := ((s.shareCrc c).wr64 (Reg.COR_MAP_CRC_LO_CRC h) (Reg.COR_MAP_CRC_HI_CRC h) c).wr (Reg.COR_MAP_DESC_STATE h) 2
    done (((t.srvEnd 1).raise pSRV 2).mapRecord h c false)

/-- The damage mark of a traveller that waits for its handle's map, beyond every stream offset. -/
abbrev mapMark : Nat := 2 ^ 40 + 1

/-- Travellers that wait for a handle's map to be whole go on (R203). -/
def State.mapWhole (s : State) (h : Nat) : State :=
  { s with ing := { s.ing with travellers := s.ing.travellers.map fun v =>
    if v.handle = h ∧ v.damage = some mapMark then { v with damage := none } else v } }

/-- HOST_MAP_CHECK_COMPLETE (R197, R203): a commit compares with SRV_HCRC, a re-check with the map's CRC (DEDUCED, log
entry 27). -/
def execHostMapCheckComplete (s : State) : Host.Outcome State Fault Refusal :=
  let h := s.rd Reg.SRV_STAT_HANDLE
  if s.rd Reg.SRV_STAT_PHASE ≠ 4 ∨ (s.srv.mode ≠ 2 ∧ s.srv.mode ≠ 3) then done s
  else
    let c := s.mapBytesCrc h
    if s.srv.mode = 2 then
      if c = s.rd64 Reg.SRV_HCRC_LO_HCRC Reg.SRV_HCRC_HI_HCRC then
        let t := (s.wr64 (Reg.COR_MAP_CRC_LO_CRC h) (Reg.COR_MAP_CRC_HI_CRC h) c).wrs [(Reg.COR_MAP_DESC_STATE h, 3),
          (Reg.COR_MAP_DONE_COLS h, (s.geo h).cols)]
        done ((t.srvEnd 1).raise pSRV 2)
      else done (((s.wr (Reg.COR_MAP_DESC_STATE h) 0).srvEnd 3).raise pSRV 5)
    else if c = s.rd64 (Reg.COR_MAP_CRC_LO_CRC h) (Reg.COR_MAP_CRC_HI_CRC h) then
      let t := (s.wr (Reg.COR_MAP_DESC_DAMAGED h) 0).modSrv fun v => { v with
        damaged := v.damaged.filter fun e => e.1 != h, repaired := v.repaired ++ v.damaged.filter fun e => e.1 == h }
      done (((t.mapWhole h).srvEnd 1).dmgShow)
    else done ((s.srvEnd 3).raise pSRV 5)

/-! ### Damage (R203) -/

/-- A code word of a handle's map is damaged: `o` is its byte offset in the map. -/
def State.mapDamaged (s : State) (h o : Nat) : State :=
  let st := s.rd (Reg.COR_MAP_DESC_STATE h)
  if st = 0 ∨ s.srv.damaged.contains (h, o) then s
  else
    let t := (s.wr (Reg.COR_MAP_DESC_DAMAGED h) 1).modSrv fun v => { v with damaged := v.damaged ++ [(h, o)] }
    if st = 3 then t.dmgShow else t.nextRepair

/-- Damage in a workspace allocation at an offset (R203): a cost record is walked again; a word of the parameter block or
the coarse grid comes from the other copy unless that is poisoned too. -/
def State.workDamaged (s : State) (h o : Nat) : State :=
  let g := s.geo h
  let recs := 24576
  let grid := recs + 256 * g.sx * g.sq
  let copy (other : Nat) : State :=
    if s.poisoned (s.workspace h + other) 32 then
      ((s.setFault pSRV 0).modSrv fun v => { v with coarse := if v.coarse.contains h then v.coarse else v.coarse ++ [h],
                                                    repair := v.repair.filter (· != h) }).nextRepair
    else s.hbmStore (s.workspace h + o) (Memory.readBytes s.hbm (s.workspace h + other) 32)
  let n := 2 * g.nfx * g.nfy
  if o < recs then copy (if o < 12288 then o + 12288 else o - 12288)
  else if o < grid then
    let m := (o - recs) / 256
    (s.hbmStore (s.workspace h + o) (List.replicate 32 0)).modSrv fun v =>
      { v with redo := if v.redo.contains (h, m) then v.redo else v.redo ++ [(h, m)] }
  else if o < grid + 4 * n then
    let r := (o - grid) / n
    copy (if r % 2 = 0 then o + n else o - n)
  else s

/-- The accumulators of a whole area, walked afresh. -/
def State.walkArea (s : State) (h : Nat) : List (Nat × Nat) :=
  let g := s.geo h
  (List.range (g.sx * g.sq)).foldl (fun acc n =>
    segDensity g (n / g.sq) (n % g.sq) (shapesOf (s.walkSegment h (n / g.sq) (n % g.sq)).1.figs) acc) []

/-- MAP_REPAIR_COMPLETE (R203): the damaged cells of the map under repair are computed again and written; a column not
yet swept gets its density. -/
def execMapRepairComplete (s : State) : Host.Outcome State Fault Refusal :=
  match s.srv.repair with
  | none => done s
  | some h =>
    if s.inReset pSRV then done s
    else
      let g := s.geo h
      let acc := s.walkArea h
      let rho := rhoFrom g acc
      let p := s.prox h
      let value (i : Nat) : Nat :=
        let a : Int := ((i / g.rows : Nat) : Int) - 1
        let b : Int := ((i % g.rows : Nat) : Int) - 1
        if g.cols * g.rows ≤ i then 0
        else if s.rd (Reg.COR_MAP_DESC_STATE h) = 1 ∧ s.rd (Reg.COR_MAP_DONE_COLS h) ≤ i / g.rows then rho a b
        else proxAt p g rho (s.fogOf h g p) p.iter a b
      let t := (s.srv.damaged.filter fun e => e.1 == h).foldl (fun u e =>
        u.hbmStore (s.mapAddr h + e.2) ((List.range 16).flatMap fun i => leBytes 2 (value (e.2 / 2 + i)))) s
      let u := (t.wr (Reg.COR_MAP_DESC_DAMAGED h) 0).modSrv fun v => { v with
        damaged := v.damaged.filter fun e => e.1 != h, repair := none,
        repaired := v.repaired ++ v.damaged.filter fun e => e.1 == h }
      done ((u.mapWhole h).raise pSRV 7).nextRepair

/-! ### Pixel correction (R198, R200, R202) -/

/-- The byte offsets in the map of the cells that a tile's correction reads. -/
def tileCells (g : MapGeo) (i0 j0 : Int) : List Nat :=
  let x0 := (cellFrac g.d i0).1
  let x1 := (cellFrac g.d (i0 + 63)).1 + 1
  let y0 := (cellFrac g.d j0).1
  let y1 := (cellFrac g.d (j0 + 63)).1 + 1
  (List.range (x1 - x0 + 1).toNat).flatMap fun a : Nat => (List.range (y1 - y0 + 1).toNat).map fun b : Nat => 2 * g.key (x0 + a) (y0 + b)

/-- The poisoned code word of the map that a tile's correction reads, by its byte offset in the map (R203). -/
def State.tileDamage (s : State) (h : Nat) (g : MapGeo) (i0 j0 : Int) : Option Nat :=
  ((tileCells g i0 j0).find? fun o => s.poisoned (s.mapAddr h + o) 2).map fun o => o / 32 * 32

/-- A tile whose correction reads a repaired cell marks its segment (R468). -/
def State.noteRepaired (s : State) (h : Nat) (g : MapGeo) (i0 j0 : Int) (t : Tile) : State :=
  if (tileCells g i0 j0).any fun o => s.srv.repaired.contains (h, o / 32 * 32) then
    s.modSeg t.wseq t.j fun c => { c with flags := c.flags ||| 2 }
  else s

/-- What a corrected pixel counts: its slot address if it lies within LENGTH, its dose, whether it was clamped, and whether s
fell below 0. -/
structure Pixel where
  addr : Option Nat
  dose : Nat
  sat  : Bool
  neg  : Bool
  deriving DecidableEq, Repr

/-- The corrected pixels of a tile (R200); those within LENGTH have a place in the slot (R215). -/
def State.tilePixels (s : State) (w : Waybill) (p : Plan) (t : Tile) (slot : Nat) : List Pixel :=
  let h := w.handle
  let g := s.geo h
  let sr := s.srOf h
  let c := tileOf w.dir p.k t.tseq
  let q := w.segIndex t.j
  let factor (i : Nat) : Nat := s.rd (Reg.doseClass i)
  let kern (i : Nat) : Int := sx 16 (s.rd (Reg.srTap i))
  (List.range 4096).map fun n =>
    let u := 64 * c.1 + n % 64
    let y := 64 * c.2 + n / 64
    let vs := if w.dir = 0 then y else p.w - 1 - y
    let sv := sharpAt factor kern t.recA sr ((n % 64 : Nat) : Int) ((n / 64 : Nat) : Int)
    let e := doseOf sv (factorAt (s.mapCell h) g.d ((w.stripe * p.w + u : Nat) : Int) ((q * p.w + y : Nat) : Int))
    { addr := if t.j * p.w + vs < w.length then some (s.slotAddr p.k slot u vs) else none, dose := min 65535 e, sat := decide (65535 < e), neg := decide (sv < 0) }

/-- A tile that correction discards; its segment is computed again (R202, R203). -/
def State.discardTile (s : State) (t : Tile) : State := (s.tileDone t).markTrv t.trv

/-- Correct a tile into its slot (R200). -/
def State.correct (s : State) (w : Waybill) (p : Plan) (t : Tile) (slot : Nat) : State :=
  let px := s.tilePixels w p t slot
  let put (m : List Host.Cell) (x : Pixel) : List Host.Cell := match x.addr with
    | some a => Memory.writeBytes m a (leBytes 2 x.dose)
    | none => m
  let s1 : State := { s with hbm := px.foldl put s.hbm }
  let sat := (px.filter Pixel.sat).length
  let s2 := (s1.wrapInc Reg.COR_PIXSAT_COUNT sat).wrapInc Reg.COR_PIXNEG_COUNT (px.filter Pixel.neg).length
  (s2.raiseIf (decide (0 < sat)) pCOR 2).tileDone t

/-- TILE_CORRECT (R200, R202, R203): the oldest agreed tile; `fail` names a correction slice whose residue check failed. -/
def execTileCorrect (fail : Option Nat) (clock : Nat) (s : State) : Host.Outcome State Fault Refusal :=
  if !s.live pCOR then done s
  else match s.ras.tiles.find? fun t => t.place == .agreed with
    | none => done s
    | some t =>
      match s.waybillOf t.wseq, (s.trv t.trv).slot with
      | some (w, p), some slot =>
        if t.void then done (s.dropTile t)
        else
          let c := tileOf w.dir p.k t.tseq
          let g := s.geo w.handle
          let i0 : Int := ((w.stripe * p.w + 64 * c.1 : Nat) : Int)
          let j0 : Int := ((w.segIndex t.j * p.w + 64 * c.2 : Nat) : Int)
          match s.tileDamage w.handle g i0 j0 with
          | some o =>
            done ((((s.discardTile t).raise pCOR 3).mapDamaged w.handle o).modTrv t.trv fun v => { v with damage := some mapMark })
          | none => match fail with
            | some n => done ((s.discardTile t).residue n clock)
            | none => done ((s.noteRepaired w.handle g i0 j0 t).correct w p t slot)
      | _, _ => done (s.dropTile t)

end Sys2Proof.Machine
end

