-- ==== Sys2Proof/Machine/Mem.lean ====
section
/-!
DEFINITION. The memory subsystem (chapter 14): address mapping, code words, errors and poison, the scrubber, refresh and
row activation, repair, sparing, check-bit tests, regions, and the loss of HBM with a reset of the MEM pages (R424).
-/
namespace Sys2Proof.Machine

open Sys2Proof (Agent)

abbrev pMEM (m : Nat) : Page := ⟨.mem, m⟩

/-- One stack's own state. -/
def State.stack (s : State) (m : Nat) : Stack := s.mem.stackSt.getD m {}

/-- Change the memory controller's own state. -/
def State.modMem (s : State) (f : MemCtl → MemCtl) : State := { s with mem := f s.mem }

/-- Change one stack's own state. -/
def State.modStack (s : State) (m : Nat) (f : Stack → Stack) : State :=
  s.modMem fun c => { c with stackSt := modAt c.stackSt m f }

/-! ### Address mapping (R321, R322) -/

/-- Where a code word lies: logical channel, local granule, column, row and bank index. -/
structure Home where
  chan : Nat
  n    : Nat
  col  : Nat
  row  : Nat
  bank : Nat
  deriving DecidableEq, Repr

/-- Bit i of the bank hash. -/
def hashBit (row sel : Nat) : Nat := if sel < 14 then row / 2 ^ sel % 2 else 0

/-- The bank hash of a row. -/
def bankHash (hsel : List Nat) (row : Nat) : Nat :=
  (List.range 6).foldl (fun a i => a + 2 ^ i * hashBit row (hsel.getD i 0xF)) 0

/-- The place of a code word (R322). -/
def homeOf (hsel : List Nat) (c : Nat) : Home :=
  let n := c / 8 / 120
  let row := n / 256
  { chan := chanOf c, n := n, col := n % 4, row := row, bank := (n / 4 % 64) ^^^ bankHash hsel row }

def State.home (s : State) (c : Nat) : Home := homeOf (s.stack (stackOf c)).hsel c

/-- The physical pseudo-channel that serves a logical channel (R321, R340). -/
def State.pcOf (s : State) (l : Nat) : Option Nat :=
  (List.range 128).find? fun q => s.rd (Reg.MEM_PC_LOGICAL (q / 32) (q % 32)) == l &&
    (s.rd (Reg.MEM_PC_STATE (q / 32) (q % 32)) == 0 || s.rd (Reg.MEM_PC_STATE (q / 32) (q % 32)) == 2)

/-- The physical pseudo-channel of a code word; 0x7F where none serves it. -/
def State.wordPc (s : State) (c : Nat) : Nat := (s.pcOf (chanOf c)).getD 0x7F

/-- A row's name: bank of its pseudo-channel × 16,384 + row. -/
def State.rowKey (s : State) (c : Nat) : Nat := (64 * s.wordPc c + (s.home c).bank) * 16384 + (s.home c).row

/-! ### Code words (R326, R331) -/

/-- The poison record (R331). -/
def poisonRecord (origin pc time : Nat) : List Byte :=
  [0x50#8, 0x4F#8, 0x49#8, 0x53#8] ++ leBytes 1 origin ++ leBytes 1 pc ++ leBytes 2 0 ++ leBytes 8 time ++ List.replicate 16 0

/-- The data bytes of a code word as they are stored. -/
def State.wordData (s : State) (c : Nat) : List Byte :=
  match s.mem.lost.find? fun l => l.chan == chanOf c && (l.dead || !l.cleared.contains c) with
  | some l => poisonRecord 0x07 l.pc l.time
  | none => Memory.readBytes s.hbm (32 * c) 32

/-- The XOR of the stored check bytes with those of R326. -/
def State.wordDev (s : State) (c : Nat) : List Nat :=
  if s.mem.poison.contains c || s.wordLost c then poisonMark
  else match s.mem.dev.find? fun e => e.1 == c with
    | some (_, d) => (leBytes 4 d).map BitVec.toNat
    | none => [0, 0, 0, 0]

/-- XOR two byte lists. -/
def xorList (a b : List Nat) : List Nat := List.zipWith (· ^^^ ·) a b

/-- The stored check bytes. -/
def State.wordCheck (s : State) (c : Nat) : List Nat := xorList (rsCheck ((s.wordData c).map BitVec.toNat)) (s.wordDev c)

/-- The 36 stored bytes. -/
def State.word36 (s : State) (c : Nat) : List Nat := (s.wordData c).map BitVec.toNat ++ s.wordCheck c

/-- Store the 36 bytes of a code word. -/
def State.putWord (s : State) (c : Nat) (w : List Nat) : State :=
  let data := w.take 32
  let d := xorList (rsCheck data) (w.drop 32)
  let t : State := { s with hbm := Memory.writeBytes s.hbm (32 * c) (data.map (BitVec.ofNat 8)) }.wordsGood [c]
  if d = [0, 0, 0, 0] then t
  else if d = poisonMark then t.modMem fun m => { m with poison := c :: m.poison }
  else t.modMem fun m => { m with dev := (c, leVal (d.map (BitVec.ofNat 8))) :: m.dev }

/-- Store good data in a code word. -/
def State.putGood (s : State) (c : Nat) (data : List Byte) : State :=
  { s with hbm := Memory.writeBytes s.hbm (32 * c) data }.wordsGood [c]

/-- Poison a code word with a record (R331). -/
def State.putPoison (s : State) (c origin pc time : Nat) : State :=
  (s.putGood c (poisonRecord origin pc time)).modMem fun m => { m with poison := c :: m.poison }

/-! ### The UE log (R334) -/

/-- The region of an address, as MEM_n_UE_HEAD shows it (R345). -/
def State.regionOf (s : State) (a : Nat) : Nat :=
  if a < s.mapBase then 0 else if a < s.sbBase then 1 else if a < s.lastBase then 2 else if a < s.wsEnd then 3 else 4

/-- MEM_n_UE_HEAD shows the oldest finding; the address of one in a spare is a free value. -/
def State.headShow (s : State) (m : Nat) : State :=
  match (s.stack m).log with
  | [] => s.wrs [(Reg.MEM_UE_HEAD_HI_VALID m, 0), (Reg.MEM_UE_HEAD_HI_COUNT m, 0)]
  | e :: _ =>
    let d : Nat × State := match e.addr with | some a => (a, s) | none => s.draw
    d.2.wrs [(Reg.MEM_UE_HEAD_LO_ADDR_LO m, d.1), (Reg.MEM_UE_HEAD_HI_VALID m, 1),
      (Reg.MEM_UE_HEAD_HI_COUNT m, (s.stack m).log.length), (Reg.MEM_UE_HEAD_HI_PC m, e.pc),
      (Reg.MEM_UE_HEAD_HI_REGION m, match e.addr with | some a => s.regionOf a | none => 5),
      (Reg.MEM_UE_HEAD_HI_ORIGIN m, e.origin), (Reg.MEM_UE_HEAD_HI_ADDR_HI m, d.1 / 2 ^ 32)]

/-- Log a finding, or count it lost. -/
def State.logUe (s : State) (m : Nat) (e : UeEntry) : State :=
  if 16 ≤ (s.stack m).log.length then s.satInc (Reg.MEM_UE_LOST m) 1
  else (s.modStack m fun k => { k with log := k.log ++ [e] }).headShow m

/-- What a write of POP does. -/
def State.popUe (s : State) (m : Nat) : State := (s.modStack m fun k => { k with log := k.log.tail }).headShow m

/-- POP (R334). -/
def execPop (agent : Agent) (n : Nat) (s : State) : Host.Outcome State Fault Refusal :=
  if 4 ≤ n then done s else done (s.access agent (pMEM n) fun s => s.popUe n)

/-! ### Sparing (R340, R341) -/

def State.pcState (s : State) (m i : Nat) : Nat := s.rd (Reg.MEM_PC_STATE m i)

/-- SPARES follows the states. -/
def State.spareShow (s : State) (m : Nat) : State :=
  s.wr (Reg.MEM_STAT_SPARES m) ((List.range 32).filter fun i => s.pcState m i == 1).length

/-- The lowest spare of a stack. -/
def State.spareOf (s : State) (m : Nat) : Option Nat := (List.range 32).find? fun i => s.pcState m i == 1

/-- Start a sparing copy, if none is in progress; the answer is RESULT of R340. -/
def State.startCopy (s : State) (m i : Nat) : Nat × State :=
  if (s.stack m).copy.isSome then (1, s)
  else match s.spareOf m with
    | none => (2, s)
    | some d =>
      if s.pcState m i ≠ 0 then (3, s)
      else
        let t := s.wrs [(Reg.MEM_PC_STATE m i, 2), (Reg.MEM_PC_STATE m d, 3), (Reg.MEM_STAT_COPYING m, 1)]
        (0, (((t.modStack m fun k => { k with copy := some (i, d), want := k.want.filter (· != i) }).raise (pMEM m) 6).spareShow m))

/-- A pseudo-channel needs sparing (R340, R341): it starts, waits for the copy in progress, or finds no spare. -/
def State.needSpare (s : State) (m i : Nat) : State :=
  if s.pcState m i ≠ 0 then s
  else
    let r := s.startCopy m i
    if r.1 = 0 then r.2
    else
      let t := s.modStack m fun k => { k with want := if k.want.contains i then k.want else k.want ++ [i] }
      if r.1 = 2 then t.setFault (pMEM m) 0 else t

/-- Automatic sparing by counts (R340). -/
def State.autoSpare (s : State) (m i : Nat) : State :=
  if s.bit Reg.MEM_SPARE_CFG_AUTO && (decide (s.rd Reg.MEM_SPARE_CFG_REMAP_LIM ≤ s.rd (Reg.MEM_PC_REMAPS m i)) ||
      decide (s.rd Reg.MEM_SPARE_CFG_UE_LIM ≤ s.rd (Reg.MEM_PC_UE m i))) then s.needSpare m i else s

/-- What a write of MEM_n_SPARE_CTRL.GO does. -/
def State.spareGo (s : State) (m : Nat) : State :=
  let r := s.startCopy m (s.rd (Reg.MEM_SPARE_CTRL_PC m))
  r.2.wr (Reg.MEM_SPARE_CTRL_RESULT m) r.1

/-- SPARE_GO (R340): MEM_n_SPARE_CTRL is written with PC and GO = 1. -/
def execSpareGo (agent : Agent) (n : Nat) (pc : BitVec 5) (s : State) : Host.Outcome State Fault Refusal :=
  if 4 ≤ n then done s
  else done (s.newWork agent (pMEM n) fun s => (s.wr (Reg.MEM_SPARE_CTRL_PC n) pc.toNat).spareGo n)

/-- The next pseudo-channel that has waited for a copy starts its own. -/
def State.nextCopy (s : State) (m : Nat) : State :=
  match (s.stack m).want.find? fun i => s.pcState m i == 0 with
  | some i => s.needSpare m i
  | none => s

/-- SPARING_COMPLETE (R340): the channel map switches. -/
def execSparingComplete (n : Nat) (s : State) : Host.Outcome State Fault Refusal :=
  match (s.stack n).copy with
  | some (i, d) =>
    if 4 ≤ n ∨ s.running (pMEM n) = false ∨ s.pstate (pMEM n) = stQUIESCED then done s
    else
      let l := s.rd (Reg.MEM_PC_LOGICAL n i)
      let t := s.wrs [(Reg.MEM_PC_STATE n d, 0), (Reg.MEM_PC_LOGICAL n d, l), (Reg.MEM_PC_STATE n i, 4),
        (Reg.MEM_PC_LOGICAL n i, 0x7F), (Reg.MEM_STAT_COPYING n, 0)]
      done ((((t.modStack n fun k => { k with copy := none }).raise (pMEM n) 7).spareShow n).nextCopy n)
  | none => done s

/-! ### Row remap (R338) -/

/-- Remap a row: a bank's table holds 16 entries, and a full one counts towards automatic sparing. -/
def State.remapRow (s : State) (key : Nat) : State :=
  let q := key / 16384 / 64
  let m := q / 32
  if s.mem.remaps.contains key then s.raise (pMEM m) 4
  else if 16 ≤ (s.mem.remaps.filter fun k => k / 16384 == key / 16384).length then
    let t := s.raise (pMEM m) 5
    if t.bit Reg.MEM_SPARE_CFG_AUTO then t.needSpare m (q % 32) else t
  else
    let t := (s.modMem fun c => { c with remaps := c.remaps ++ [key], fixed := c.fixed.filter (· != key) }).raise (pMEM m) 4
    ((t.wr (Reg.MEM_PC_REMAPS m (q % 32)) (t.rd (Reg.MEM_PC_REMAPS m (q % 32)) + 1)).wr (Reg.MEM_PPR_CTRL_LEFT m)
      (t.mem.remaps.filter fun k => k / 16384 / 64 / 32 == m).length).autoSpare m (q % 32)

/-- A correction in a row: the second of one scrub pass remaps it. -/
def State.countFix (s : State) (key : Nat) : State :=
  if s.mem.fixed.contains key then s.remapRow key else s.modMem fun c => { c with fixed := key :: c.fixed }

/-! ### Reads (R327 to R332) -/

/-- What a read finds: whether the word is poisoned, and its data. -/
structure ReadResult where
  poisoned : Bool
  found    : Bool          -- an uncorrectable word was found by this read
  data     : List Byte
  deriving DecidableEq, Repr

/-- An uncorrectable word is found (R332, R333). -/
def State.uncorrectable (s : State) (c : Nat) (scrub : Bool) : State :=
  let m := stackOf c
  let q := s.wordPc c
  let origin := if s.mem.inj.contains c then 0x06 else if scrub then 0x01 else 0x02
  let key := s.rowKey c
  let t := (((s.putPoison c origin q s.now).satInc (Reg.MEM_UE_FOUND m) 1).satInc (Reg.MEM_PC_UE m (q % 32)) 1).logUe m ⟨some (32 * c), q, origin⟩
  ((t.raise (pMEM m) (if scrub then 2 else 1)).remapRow key).autoSpare m (q % 32)

/-- Read a code word with the bytes that upsets have changed (index 0 to 35, XOR value). -/
def State.readWord (s : State) (c : Nat) (flips : List (Nat × BitVec 8)) (scrub : Bool) : ReadResult × State :=
  let m := stackOf c
  let w := flips.foldl (fun w e => w.modify e.1 fun b => b ^^^ e.2.toNat) (s.word36 c)
  let known := flips.isEmpty && (s.mem.poison.contains c || s.wordLost c)
  let dead := s.mem.lost.any fun l => l.chan == chanOf c && l.dead
  if known || dead then
    let time := leAt (s.wordData c) 8 8
    let again := !dead && decide (time < (s.stack m).passStart)
    (⟨true, false, s.wordData c⟩, if again then s.logUe m ⟨some (32 * c), leAt (s.wordData c) 5 1, leAt (s.wordData c) 4 1⟩ else s)
  else match classify w with
    | .good => (⟨false, false, (w.take 32).map (BitVec.ofNat 8)⟩, if flips.isEmpty then s else s.putWord c w)
    | .correctable i v =>
      let data := ((w.modify i fun b => b ^^^ v).take 32).map (BitVec.ofNat 8)
      (⟨false, false, data⟩, (((s.putGood c data).wrapInc (Reg.MEM_CE_COUNT m) 1).raise (pMEM m) 0).countFix (s.rowKey c))
    | _ =>
      let t := s.uncorrectable c scrub
      (⟨true, true, t.wordData c⟩, t)

/-! ### Row activation (R336) -/

/-- A row of a bank is activated. -/
def State.activate (s : State) (bank row : Nat) : State :=
  let m := bank / 64 / 32
  let tb := (s.mem.acts.find? fun t => t.bank == bank).getD { bank := bank }
  let put (t : ActTable) (u : State) : State :=
    u.modMem fun c => { c with acts := t :: c.acts.filter fun x => x.bank != bank }
  let inj := s.bit (Hdr.injArm (pMEM m)) && s.rd (Hdr.injTarget (pMEM m)) == 4
  let bad := inj && s.rd (Hdr.injFlip (pMEM m)) != 0
  let s0 := if inj then s.wr (Hdr.injArm (pMEM m)) 0 else s
  if tb.bad then put { tb with rows := [], bad := false, fast := true } s0
  else
    let n := ((tb.rows.find? fun e => e.1 == row).map Prod.snd).getD 0
    if tb.rows.any fun e => e.1 == row then
      if s.rd Reg.MEM_ACT_TH ≤ n + 1 then put { tb with rows := tb.rows.filter fun e => e.1 != row } (s0.raise (pMEM m) 8)
      else put { tb with rows := tb.rows.map (fun e => if e.1 = row then (e.1, n + 1) else e), bad := bad } s0
    else if tb.rows.length < 128 then put { tb with rows := tb.rows ++ [(row, 1)], bad := bad } s0
    else put { tb with rows := (tb.rows.map fun e => (e.1, e.2 - 1)).filter fun e => e.2 != 0 } s0

/-- An access that opens its row activates it. -/
def State.opens (s : State) (c : Nat) (open_ : Bool) : State :=
  if open_ then match s.pcOf (chanOf c) with
    | some q => s.activate (64 * q + (s.home c).bank) (s.home c).row
    | none => s
  else s

/-! ### Accesses (R325 to R332) -/

/-- A code word is protected from host and DMA writes (R15, R197): it lies in the space of a layout with an armed stripe,
or in a map whose STATE is not NONE, but for the damaged words of a host map (R203). -/
def State.wordProtected (s : State) (c : Nat) : Bool :=
  let a := 32 * c
  (s.armed.any fun w => decide (a < s.mapBase) && (s.lay w.handle).pages.contains (a / mib)) ||
  (List.range 16).any fun h =>
    let st := s.rd (Reg.COR_MAP_DESC_STATE h)
    st != 0 && decide (s.mapAddr h ≤ a) && decide (a < s.mapAddr h + (s.geo h).bytes) &&
      !(st == 3 && s.srv.damaged.contains (h, a - s.mapAddr h))

/-- The next write of a stack takes an armed injection (R342): the 36 bytes stored. -/
def State.injectWord (s : State) (m c : Nat) (w : List Nat) : List Nat × State :=
  let tg := s.rd (Hdr.injTarget (pMEM m))
  if s.bit (Hdr.injArm (pMEM m)) && decide (1 ≤ tg) && decide (tg ≤ 3) then
    let i := if tg = 1 then 32 else if tg = 2 then 34 else 0
    let f := s.rd (Hdr.injFlip (pMEM m))
    ((w.modify i fun b => b ^^^ f % 256).modify (i + 1) fun b => b ^^^ f / 256,
      (s.wr (Hdr.injArm (pMEM m)) 0).modMem fun k => { k with inj := c :: k.inj })
  else (w, s)

/-- Write the bytes of a string that lie in one code word. `host`: a BAR2 or DMA write; `ep`: it came poisoned. -/
def State.writeWord (s : State) (a : Nat) (l : List Byte) (host ep : Bool) (c : Nat) : State :=
  let m := stackOf c
  let lo := max a (32 * c)
  let hi := min (a + l.length) (32 * c + 32)
  let part := (l.drop (lo - a)).take (hi - lo)
  let put (t : State) (data : List Byte) : State :=
    let d := data.map BitVec.toNat
    let e := t.injectWord m c (d ++ rsCheck d)
    let u := e.2.putWord c e.1
    if e.2.mem.inj.contains c then u.modMem fun k => { k with inj := c :: k.inj } else u
  if !s.stackReady m then s.raise (pMEM m) 11
  else if s.mem.lost.any fun x => x.chan == chanOf c && x.dead then s
  else if host && s.wordProtected c then s.raise (pMEM 0) 15
  else if ep then s.putPoison c 0x05 (s.wordPc c) s.now
  else if part.length = 32 then put s part
  else
    let r := s.readWord c [] false
    if r.1.poisoned then (r.2.raise (pMEM m) 1).satInc (Reg.MEM_UE_NARROW m) 1
    else put r.2 (r.1.data.take (lo - 32 * c) ++ part ++ r.1.data.drop (hi - 32 * c))

/-- Write a byte string. -/
def State.memWrite (s : State) (a : Nat) (l : List Byte) (host ep : Bool) : State :=
  (wordsOf a l.length).foldl (fun t c => t.writeWord a l host ep c) s

/-- Read one code word for a reader: its data, or none where it is poisoned; all ones before the fill (R329). -/
def State.memRead (s : State) (c : Nat) : Option (List Byte) × State :=
  if !s.stackReady (stackOf c) then (some (List.replicate 32 0xFF), s.raise (pMEM (stackOf c)) 11)
  else
    let r := s.readWord c [] false
    (if r.1.poisoned then none else some r.1.data, r.2)

/-- HBM_READ (R327): a reader reads the code word of an address; `flips` are the stored bytes that upsets have changed,
and `opens` tells whether the access opens its row. -/
def execHbmRead (addr : Nat) (flips : List (Nat × BitVec 8)) (opens : Bool) (s : State) : Host.Outcome State Fault Refusal :=
  if hbmSize ≤ addr then .fault .noSuchAddress
  else
    let c := addr / 32
    if !s.stackReady (stackOf c) then
      done ((s.raise (pMEM (stackOf c)) 11).emit (.completion (List.replicate 32 0xFF) true))
    else
      let r := (s.opens c opens).readWord c flips false
      done (r.2.emit (.completion r.1.data r.1.poisoned))

/-- HBM_WRITE (R325, R328): `host` tells a BAR2 or DMA write, which protection stops, from one of a data-path block. -/
def execHbmWrite (addr : Nat) (data : List Byte) (host opens : Bool) (s : State) : Host.Outcome State Fault Refusal :=
  if hbmSize < addr + data.length then .fault .noSuchAddress
  else done ((s.opens (addr / 32) opens).memWrite addr data host false)

/-! ### Owners (R333) -/

/-- The tile of a slot pixel has been corrected in the traveller's present pass. -/
def State.tileWritten (s : State) (i : Nat) (dir k u vs : Nat) (p : Plan) : Bool :=
  let t := s.trv i
  let tseq := (if dir = 0 then vs / 64 else 8 * k - 1 - vs / 64) * (8 * k) + u / 64
  (List.range t.nbands).any fun b =>
    let b0 := ((p.bands.getD t.j []).getD b (0, 0)).1 * 16 * (8 * k)
    let n := ((p.bands.getD t.j []).getD b (0, 0)).2 * 16 * (8 * k)
    decide (b0 ≤ tseq) && decide (tseq < b0 + n) && (decide (b < t.corrected) ||
      s.ing.lists.any fun e => e.trv == i && e.band == b && decide (tseq - b0 < e.next) &&
        !s.ing.ras.tiles.any fun x => x.trv == i && x.tseq == tseq)

/-- The allocator has read every pixel of slot row vs and column phase ux of a segment (R210). -/
def State.wordRead (s : State) (w : Waybill) (p : Plan) (j ux vs : Nat) : Bool :=
  let v := j * p.w + vs
  (match s.cur with | some (c, _) => c.seq == w.seq | none => false) &&
  (List.range 512).all fun r =>
    let l := lag w.dir p.k p.a r (s.itinOY w.itin r)
    s.itinOX w.itin r != ux || (v + l) % p.a != 0 || decide ((v + l) / p.a < s.alc.next)

/-- A stripe-buffer word is lost: the segment that holds its slot is marked for recomputation, unless the word has been
read or not yet been written (R333). -/
def State.slotDamaged (s : State) (a : Nat) : State :=
  let k := s.kBeam
  let o := a - s.sbBase
  let n := o / slotSize k
  let px := o % slotSize k / 2
  let vs := px / 512 / k
  let ux := px / 512 % k
  let u := px % 512 * k + ux
  match (List.range 512).find? fun i => (s.trv i).state != .free && (s.trv i).slot == some n with
  | none => s
  | some i =>
    match s.waybillOf (s.trv i).wseq with
    | none => s
    | some (w, p) =>
      if (s.trv i).state = .raster ∧ s.tileWritten i w.dir k u vs p = false then s
      else if s.wordRead w p (s.trv i).j ux vs then s
      else s.markTrv i

/-- Poison in the ledger area (R473): the record comes back from the cellar, or is lost. -/
def State.ledDamaged (s : State) (a : Nat) : State :=
  let i := (a - s.rd Reg.LED_CFG_BASE * mib) / 256
  let wr := s.rd Reg.LED_WR_LSEQ
  if wr = 0 then s
  else
    let lseq := wr - 1 - (wr - 1 + s.ringCap - i) % s.ringCap
    if wr ≤ lseq ∨ s.inReset pLED then s
    else if s.led.next - lseq ≤ 63 then
      s.hbmStore (s.ringAddr lseq) ((List.range 64).flatMap fun j => leBytes 4 (s.rd (Reg.cellar (0x100 + 256 * (lseq % 63) + 4 * j))))
    else if lseq < s.rd Reg.LED_RD_LSEQ then s
    else ((((s.setFault pLED 0).wr Reg.LED_LOST_LSEQ lseq).satInc Reg.LED_CNT_LOST 1).raise pLED 4).gapRecord lseq 1

/-- The owner of a lost code word is told (R333). -/
def State.tellOwner (s : State) (c : Nat) : State :=
  let a := 32 * c
  if a < s.mapBase then
    match (List.range 16).find? fun h => (s.lay h).pages.contains (a / mib) with
    | some h => s.layoutDamaged h ((s.lay h).pages.idxOf (a / mib) * mib + a % mib)
    | none => s
  else if a < s.sbBase then
    match (List.range 16).find? fun h => s.rd (Reg.COR_MAP_DESC_STATE h) != 0 && decide (s.mapAddr h ≤ a) && decide (a < s.mapAddr h + (s.geo h).bytes) with
    | some h => s.mapDamaged h (a - s.mapAddr h)
    | none => s
  else if a < s.lastBase then s.slotDamaged a
  else if a < s.wsEnd then
    match (List.range 16).find? fun h => s.rd (Reg.COR_MAP_DESC_STATE h) != 0 && decide (s.workspace h ≤ a) && decide (a < s.workspace h + s.wsMib h * mib) with
    | some h => s.workDamaged h (a - s.workspace h)
    | none => s
  else if s.rd Reg.LED_CFG_BASE * mib ≤ a ∧ a < s.rd Reg.LED_CFG_BASE * mib + 256 * s.ringCap then s.ledDamaged a
  else s

/-! ### The scrubber (R333) -/

/-- Local granules of a scrub pass (R322). -/
abbrev passGranules : Nat := 3355444

/-- The scrubber's next place: within a local granule the 30 logical channels' 240 code words, then those of two spares. -/
def State.scrubNext (s : State) (m : Nat) : State :=
  let k := (s.stack m).sub + 1
  if k < 256 then s.modStack m fun x => { x with sub := k }
  else
    let t := s.modStack m fun x => { x with sub := 0 }
    let n := t.rd (Reg.MEM_SCRUB_POS_N m) + 1
    if n < passGranules then t.wr (Reg.MEM_SCRUB_POS_N m) n
    else
      let u := (((t.wr (Reg.MEM_SCRUB_POS_N m) 0).wrapInc (Reg.MEM_SCRUB_PASS_PASSES m) 1).raise (pMEM m) 3).modStack m
        fun x => { x with passStart := s.now }
      u.modMem fun c => { c with fixed := c.fixed.filter fun k => k / 16384 / 64 / 32 != m }

/-- A finding in a spare, which holds no address: it is corrected, or logged. -/
def State.scrubSpare (s : State) (m : Nat) (flips : List (Nat × BitVec 8)) : State :=
  let i := 30 + ((s.stack m).sub - 240) / 8
  if s.pcState m i ≠ 1 ∨ flips.isEmpty then s
  else match classify (flips.foldl (fun w e => w.modify e.1 fun b => b ^^^ e.2.toNat) (List.replicate 36 0)) with
    | .good => s
    | .correctable _ _ => (s.wrapInc (Reg.MEM_CE_COUNT m) 1).raise (pMEM m) 0
    | _ => (((s.satInc (Reg.MEM_UE_FOUND m) 1).satInc (Reg.MEM_PC_UE m i) 1).logUe m ⟨none, 32 * m + i, 0x01⟩).raise (pMEM m) 2

/-- SCRUB_READ (R333): stack n's scrubber reads its next code word. -/
def execScrubRead (n : Nat) (flips : List (Nat × BitVec 8)) (s : State) : Host.Outcome State Fault Refusal :=
  if 4 ≤ n ∨ s.stackReady n = false ∨ s.pstate (pMEM n) ≠ stRUNNING ∨ s.bit Reg.MEM_SCRUB_EN = false then done s
  else
    let k := (s.stack n).sub
    if 240 ≤ k then done ((s.scrubSpare n flips).scrubNext n)
    else
      let c := ((s.rd (Reg.MEM_SCRUB_POS_N n)) * 120 + 30 * n + k / 8) * 8 + k % 8
      if hbmSize ≤ 32 * c then done (s.scrubNext n)
      else
        let r := s.readWord c flips true
        done ((if r.1.found then r.2.tellOwner c else r.2).scrubNext n)

/-- SCRUBBER_BEHIND (R333): a pass has taken more than 110% of PERIOD, in minutes. -/
def execScrubberBehind (n : Nat) (s : State) : Host.Outcome State Fault Refusal :=
  if n < 4 ∧ s.stackReady n = true ∧ s.bit Reg.MEM_SCRUB_EN = true ∧
      66 * 16 * 10 ^ 9 * s.rd Reg.MEM_SCRUB_PERIOD < s.now - (s.stack n).passStart then done (s.raise (pMEM n) 12)
  else done s

/-! ### Fill, refresh and temperature (R329, R335 to R337) -/

/-- A page leaves OFF for IDLE (R323, R329, R345): the hash in force is taken; a stack already filled resumes at once. -/
def State.memStart (s : State) (m : Nat) : State :=
  let hs := [Reg.MEM_MAP_HSEL_0, Reg.MEM_MAP_HSEL_1, Reg.MEM_MAP_HSEL_2, Reg.MEM_MAP_HSEL_3, Reg.MEM_MAP_HSEL_4, Reg.MEM_MAP_HSEL_5]
  let t := s.modStack m fun k => { k with hsel := hs.map s.rd }
  if t.bit (Reg.MEM_STAT_INIT_DONE m) then t.setRunning (pMEM m) true else t

/-- MEM_FILL_COMPLETE (R329): every code word of the stack is zero, and the page goes to RUNNING. -/
def execMemFillComplete (n : Nat) (s : State) : Host.Outcome State Fault Refusal :=
  if 4 ≤ n ∨ s.pstate (pMEM n) ≠ stIDLE ∨ s.bit (Reg.MEM_STAT_INIT_DONE n) = true then done s
  else
    let mine (c : Nat) : Bool := stackOf c == n
    let t : State := { s with
      hbm := s.hbm.filter fun e => !mine (e.1 / 32)
      mem := { s.mem with
        poison := s.mem.poison.filter fun c => !mine c
        dev := s.mem.dev.filter fun e => !mine e.1
        inj := s.mem.inj.filter fun c => !mine c
        lost := s.mem.lost.filter fun l => l.dead || l.chan / 30 != n } }
    let u := (((t.wr (Reg.MEM_STAT_INIT_DONE n) 1).setRunning (pMEM n) true).raise (pMEM n) 10).modStack n
      fun k => { k with passStart := s.now, sub := 0 }
    done (if (List.range 4).all fun m => u.running (pMEM m) then u.lossRecords else u)

/-- The refreshes a bank owes. -/
def State.debt (s : State) (bank : Nat) : Nat := codeOf s.mem.debts bank

/-- A bank's debt becomes a value. -/
def State.setDebt (s : State) (bank d : Nat) : State :=
  s.modMem fun c => { c with debts := if d = 0 then c.debts.filter fun e => e.1 != bank else (bank, d) :: c.debts.filter fun e => e.1 != bank }

/-- REFRESH_DUE (R335): tREFI has passed for a bank of pseudo-channel `pc` of stack n; `busy` tells that it has a queued
request. -/
def execRefreshDue (n pc bank : Nat) (busy : Bool) (s : State) : Host.Outcome State Fault Refusal :=
  if 4 ≤ n ∨ 32 ≤ pc ∨ 64 ≤ bank ∨ s.live (pMEM n) = false then done s
  else
    let b := 64 * (32 * n + pc) + bank
    let t := s.setDebt b (s.debt b + 1)
    let all (u : State) : State := (List.range 64).foldl (fun v i =>
      v.setDebt (64 * (32 * n + pc) + i) (v.debt (64 * (32 * n + pc) + i) - 1)) u
    if s.bit Reg.MEM_REF_MODE then done (all t)
    else if !busy then done (t.setDebt b (t.debt b - 1))
    else if s.rd Reg.MEM_REF_DEBT_MAX ≤ t.debt b then done ((all t).raise (pMEM n) 9)
    else done t

/-- REFRESH_CYCLE_END (R336): the bank's activate-count table is cleared. -/
def execRefreshCycleEnd (n pc bank : Nat) (s : State) : Host.Outcome State Fault Refusal :=
  if 4 ≤ n ∨ 32 ≤ pc ∨ 64 ≤ bank then done s
  else done (s.modMem fun c => { c with acts := c.acts.filter fun t => t.bank != 64 * (32 * n + pc) + bank })

/-- STACK_TEMPERATURE_READ (R335, R337): °C. -/
def execStackTemperatureRead (n : Nat) (temp : BitVec 8) (s : State) : Host.Outcome State Fault Refusal :=
  if 4 ≤ n ∨ s.inReset (pMEM n) then done s
  else
    let v := temp.toNat
    let old := s.rd (Reg.MEM_STAT_REF2X n)
    let new := if 85 ≤ v then 1 else if v < 83 then 0 else old
    let t := (s.wrs [(Reg.MEM_STAT_TEMP n, v), (Reg.MEM_STAT_REF2X n, new)]).raiseIf (new != old) (pMEM n) 13
    let u := t.modStack n fun k => { k with hot := decide (95 ≤ v) || (k.hot && decide (90 ≤ v)) }
    done (if 95 ≤ v then u.setFault (pMEM n) 2 else u)

/-! ### Permanent repair (R339) -/

/-- What a write of MEM_n_PPR_CTRL.GO does. -/
def State.pprGo (s : State) (m : Nat) : State :=
  if s.pstate pALC = stRUNNING ∨ s.pstate pING = stRUNNING ∨ s.pstate pSRV = stRUNNING then s.wr (Reg.MEM_PPR_CTRL_RESULT m) 1
  else (s.wr (Reg.MEM_PPR_CTRL_RESULT m) 0).modStack m fun k => { k with ppr := true }

/-- PPR_GO (R339). -/
def execPprGo (agent : Agent) (n : Nat) (s : State) : Host.Outcome State Fault Refusal :=
  if 4 ≤ n then done s else done (s.newWork agent (pMEM n) fun s => s.pprGo n)

/-- PPR_COMPLETE (R339): `left` lists, by their place among the stack's remapped rows, the rows for which the device
reported no spare resource. -/
def execPprComplete (n : Nat) (left : List Nat) (s : State) : Host.Outcome State Fault Refusal :=
  if 4 ≤ n ∨ (s.stack n).ppr = false then done s
  else
    let mine := s.mem.remaps.filter fun k => k / 16384 / 64 / 32 == n
    let kept := (mine.zipIdx.filter fun e => left.contains e.2).map Prod.fst
    let t := (s.modStack n fun k => { k with ppr := false }).modMem fun c =>
      { c with remaps := (c.remaps.filter fun k => k / 16384 / 64 / 32 != n) ++ kept }
    let u := t.wrs ([(Reg.MEM_PPR_CTRL_LEFT n, kept.length), (Reg.MEM_PPR_CTRL_RESULT n, if kept.isEmpty then 0 else 2)] ++
      (List.range 32).map fun i => (Reg.MEM_PC_REMAPS n i, (kept.filter fun k => k / 16384 / 64 % 32 == i).length))
    done (u.raise (pMEM n) 14)

/-! ### A dead pseudo-channel (R341) -/

/-- The code words of a logical channel that lie in a byte range, in rising order. -/
def chanWords (l : Nat) (r : Nat × Nat) : List Nat :=
  ((List.range (r.2 / 30720 + 2)).flatMap fun g => (List.range 8).map fun w => (r.1 / 30720 + g) * 960 + 8 * l + w).filter
    fun c => decide (r.1 < 32 * c + 32) && decide (32 * c < r.1 + r.2)

/-- The byte ranges of HBM whose loss some owner is told of (R333): the pages of every layout, every map, every slot in use,
every workspace and the records of the ledger ring, told in this order (DESIGN CHOICE, log entry 46). -/
def State.ownedRanges (s : State) : List (Nat × Nat) :=
  let maps := (List.range 16).filter fun h => s.rd (Reg.COR_MAP_DESC_STATE h) != 0
  let count := min s.ringCap (max s.ringUsed (min 63 (s.rd Reg.LED_WR_LSEQ)))
  (List.range 16).flatMap (fun h => (s.lay h).pages.map fun p => (p * mib, mib)) ++
    maps.map (fun h => (s.mapAddr h, (s.geo h).bytes)) ++
    (s.ing.travellers.filterMap fun t => t.slot).map (fun k => (s.sbBase + k * slotSize s.kBeam, slotSize s.kBeam)) ++
    maps.map (fun h => (s.workspace h, s.wsMib h * mib)) ++
    (List.range count).map fun j => (s.ringAddr (s.rd Reg.LED_WR_LSEQ - count + j), 256)

/-- A logical channel's content is lost, and every owner is told. -/
def State.loseChannel (s : State) (l pc : Nat) (dead : Bool) : State :=
  let mine (c : Nat) : Bool := chanOf c == l
  let t : State := { s with
    hbm := s.hbm.filter fun e => !mine (e.1 / 32)
    mem := { s.mem with
      poison := s.mem.poison.filter fun c => !mine c
      dev := s.mem.dev.filter fun e => !mine e.1
      inj := s.mem.inj.filter fun c => !mine c
      lost := { chan := l, pc := pc, time := s.now, dead := dead } :: s.mem.lost.filter fun x => x.chan != l } }
  (s.ownedRanges.flatMap (chanWords l)).foldl (fun u c => u.tellOwner c) t

/-- PSEUDO_CHANNEL_DEAD (R341): pseudo-channel `pc` of stack n. -/
def execPseudoChannelDead (n pc : Nat) (s : State) : Host.Outcome State Fault Refusal :=
  if 4 ≤ n ∨ 32 ≤ pc ∨ s.inReset (pMEM n) ∨ s.pcState n pc = 5 then done s
  else
    let st := s.pcState n pc
    let l := s.rd (Reg.MEM_PC_LOGICAL n pc)
    let t := s.wr (Reg.MEM_PC_STATE n pc) 5
    if st = 0 ∨ st = 2 then
      let t1 := match (s.stack n).copy with
        | some (i, d) => if i = pc then ((t.wrs [(Reg.MEM_PC_STATE n d, 1), (Reg.MEM_STAT_COPYING n, 0)]).modStack n
            fun k => { k with copy := none }) else t
        | none => t
      match t1.spareOf n with
      | some d =>
        done (((t1.wrs [(Reg.MEM_PC_LOGICAL n pc, 0x7F), (Reg.MEM_PC_STATE n d, 0), (Reg.MEM_PC_LOGICAL n d, l)]).spareShow n).loseChannel l (32 * n + pc) false)
      | none => done (((t1.setFault (pMEM n) 1).setFault (pMEM n) 0).loseChannel l (32 * n + pc) true)
    else if st = 3 then
      match (s.stack n).copy with
      | some (i, _) =>
        done ((((t.wrs [(Reg.MEM_PC_STATE n i, 0), (Reg.MEM_STAT_COPYING n, 0)]).modStack n fun k => { k with copy := none }).spareShow n).needSpare n i)
      | none => done t
    else done (t.spareShow n)

/-! ### Check-bit testing (R342) -/

/-- The address of the test code word. -/
def State.testAddr (s : State) : Nat := s.rd Reg.MEM_TEST_ADDR_LO_ADDR + 2 ^ 32 * s.rd Reg.MEM_TEST_ADDR_HI_ADDR

/-- The address may be tested. -/
def State.testOk (s : State) : Bool :=
  let a := s.testAddr
  a % 32 == 0 && decide (s.wsEnd ≤ a) && decide (a < hbmSize) &&
    !(decide (s.rd Reg.LED_CFG_BASE * mib ≤ a) && decide (a < s.rd Reg.LED_CFG_BASE * mib + 256 * s.ringCap)) &&
    !(decide (s.rd Reg.ARY_BC_BASE_BASE * mib ≤ a) && decide (a < s.rd Reg.ARY_BC_BASE_BASE * mib + 2 ^ 20))

/-- What a write of MEM_0_TEST_CTRL.WRITE does: the stored check bytes are replaced. -/
def State.testWrite (s : State) : State :=
  if !s.testOk then s.wr Reg.MEM_TEST_CTRL_RESULT 2
  else
    let c := s.testAddr / 32
    if !s.stackReady (stackOf c) then s.raise (pMEM (stackOf c)) 11
    else (s.putWord c ((s.wordData c).map BitVec.toNat ++ (leBytes 4 (s.rd Reg.MEM_TEST_CHK_CHK)).map BitVec.toNat)).wr Reg.MEM_TEST_CTRL_RESULT 0

/-- What a write of MEM_0_TEST_CTRL.READ does: the stored check bytes and the syndromes. -/
def State.testRead (s : State) : State :=
  if !s.testOk then s.wr Reg.MEM_TEST_CTRL_RESULT 2
  else
    let c := s.testAddr / 32
    if !s.stackReady (stackOf c) then s.raise (pMEM (stackOf c)) 11
    else
      let w := s.word36 c
      s.wrs [(Reg.MEM_TEST_CHK_CHK, leVal ((w.drop 32).map (BitVec.ofNat 8))),
        (Reg.MEM_TEST_SYN_SYN, leVal ((List.range 4).map fun i => BitVec.ofNat 8 (syndrome w i))), (Reg.MEM_TEST_CTRL_RESULT, 0)]

/-- TEST_WRITE (R342). -/
def execTestWrite (agent : Agent) (s : State) : Host.Outcome State Fault Refusal := done (s.access agent (pMEM 0) State.testWrite)

/-- TEST_READ (R342). -/
def execTestRead (agent : Agent) (s : State) : Host.Outcome State Fault Refusal := done (s.access agent (pMEM 0) State.testRead)

/-! ### Regions (R324) -/

/-- A range lies in [lo, hi). -/
def inRange (a n lo hi : Nat) : Bool := decide (lo ≤ a) && decide (a + n ≤ hi)

/-- The sizes meet the bounds of R324. -/
def regionBounds (ls map sb ws : Nat) : Bool :=
  decide (1 ≤ ls) && decide (1 ≤ map) && decide (1 ≤ sb) && decide (ls + map + sb + 2 ≤ 96) && decide (1 ≤ ws) &&
    decide (ws + 1 ≤ 96 - ls - map - sb)

/-- Every live allocation stays at its HBM address, with its offset in its region as the descriptor holds it, inside a
region of its own kind (R324; the offsets DEDUCED, log entry 31). -/
def State.regionKeeps (s : State) (ls map sb ws : Nat) : Bool :=
  let last := (ls + map + sb) * gib
  let live := (List.range 16).filter fun h => s.rd (Reg.COR_MAP_DESC_STATE h) != 0
  (s.heldPages.all fun p => decide (p * mib + mib ≤ ls * gib)) &&
  (live.isEmpty || (s.mapBase == ls * gib && s.lastBase == last)) &&
  (live.all fun h => inRange (s.mapAddr h) (s.mapMib h * mib) (ls * gib) ((ls + map) * gib) &&
      inRange (s.workspace h) (s.wsMib h * mib) last (last + ws * gib)) &&
  (!s.live pLED || inRange (s.rd Reg.LED_CFG_BASE * mib) (256 * s.ringCap) (last + ws * gib) hbmSize) &&
  (!s.bit Reg.ARY_BC_CFG_EN || inRange (s.rd Reg.ARY_BC_BASE_BASE * mib) (2 ^ 20) (last + ws * gib) hbmSize)

/-- What a write of MEM_0_REGION does (R324). -/
def State.regionWrite (s : State) (v : Nat) : State :=
  let sb := bits v 31 24
  let map := bits v 23 16
  let ls := bits v 15 8
  let ws := bits v 7 0
  if s.pstate pALC = stRUNNING then s.wr Reg.MEM_REGION_RES_RESULT 1
  else if regionBounds ls map sb ws = false then s.wr Reg.MEM_REGION_RES_RESULT 2
  else if s.regionKeeps ls map sb ws = false then s.wr Reg.MEM_REGION_RES_RESULT 3
  else
    (s.wrs [(Reg.MEM_REGION_SB_GIB, sb), (Reg.MEM_REGION_MAP_GIB, map), (Reg.MEM_REGION_LS_GIB, ls),
      (Reg.MEM_REGION_WS_GIB, ws), (Reg.MEM_REGION_RES_RESULT, 0)]).slotsShow

/-- MEM_0_REGION_WRITE (R324). -/
def execMem0RegionWrite (agent : Agent) (value : Word) (s : State) : Host.Outcome State Fault Refusal :=
  done (s.access agent (pMEM 0) fun s => s.regionWrite value.toNat)

/-! ### The loss of HBM (R424) -/

/-- The stripe being written, or about to be (R424 step 2). -/
def State.lossStripe (s : State) : State :=
  match s.cur with
  | none => s
  | some (_, p) =>
    if s.inReset pMOT then s
    else if p.launched = 0 ∧ s.hstate = hTURN then s.abandon 0
    else if s.hstate = hIDLE ∨ s.hstate = hMOVE ∨ s.hstate = hTURN then s
    else s.abandonFor rPOISON

/-- MEM_RESET_LOSS (R424): what follows a reset of the MEM pages. -/
def execMemResetLoss (s : State) : Host.Outcome State Fault Refusal :=
  if s.mem.lossDue = false then done s
  else
    let first := s.rd Reg.LED_RD_LSEQ
    let n := (s.rd Reg.LED_WR_LSEQ + 2 ^ 32 - first) % 2 ^ 32
    let s0 : State := { s.modMem fun m => { m with lossDue := false } with
      led := { s.led with memLoss := if s.ledOn then some (first, n) else none } }
    let s1 := s0.dropSecond
    let s2 : State := ({ s1 with ing := { s1.ing with waybills := s1.ing.waybills.filter fun w => w.plan.isSome } }.wr
      Reg.ING_WB_QSTAT_STOPPED 1).lossStripe.armShow
    let s3 := match s2.ing.repair with | some r => s2.endRepair r | none => s2
    let s4 := match s3.ing.delivery with | some d => s3.endDelivery d | none => s3
    let s5 := if s4.surveyBusy then s4.srvAborted else s4
    let s6 := (List.range 16).foldl (fun t h => ((t.clearLayout h).clearDesc h).mapRecord h 0 true) s5
    done (({ s6 with ing := { s6.ing with damagedQ := [], damagedW := [] } } : State).modSrv fun v =>
      { v with damaged := [], repaired := [], repair := none, redo := [], coarse := [] }).repairShow

end Sys2Proof.Machine
end

