-- ==== Sys2Proof/Machine/Tables.lean ====
section
/-!
DEFINITION. The table windows of BAR0 from 0x0100_0000 to 0x0131_FFFF (R55) as one address range, as DMA channels and
host accesses reach them (R56, R186, R198, R208, R209, R213, R214).
-/
namespace Sys2Proof.Machine

/-- The table windows' addresses: the first, and the first above the last. -/
def tableBase : Nat := 0x1000000
def tableEnd : Nat := 0x1320000

/-- A row of R55 maps a table address. -/
def tableMapped (a : Nat) : Bool :=
  (decide (tableBase ≤ a) && decide (a < 0x1301000)) || (decide (0x1310000 ≤ a) && decide (a < tableEnd))

/-- What a window read returns for the word at an address (R62 leaves a window readable in reset; DEDUCED, log entry 32). -/
def State.tableRead (s : State) (a : Nat) : Nat :=
  if a < 0x1200000 then
    let o := a - tableBase
    let act := s.rd Reg.ALC_BT_STAT_ACTIVE
    s.rd (Reg.btWord (if s.bit Reg.ALC_BT_CTRL_VIEW then act else 1 - act) (o / 8) (o / 4 % 2))
  else if a < 0x1300000 then
    let o := a - 0x1200000
    if o < 0x8000 then s.rd (Reg.itin (o / 0x800) (o % 0x800 / 4)) else 0
  else if a < 0x1300400 then s.rd (Reg.doseClass ((a - 0x1300000) / 4))
  else if a < 0x1310000 then 0
  else if (kernelPage (a - 0x1310000)).isSome then s.rd (kernelFld (a - 0x1310000)) else 0

/-- The page that judges a write at a table address; none where the address is reserved or unmapped. -/
def tablePage (a : Nat) : Option Page :=
  if a < 0x1208000 then some pALC else if a < 0x1300000 then none
  else if a < 0x1300400 then some pCOR else if a < 0x1310000 then none else kernelPage (a - 0x1310000)

/-- A write of one word, or of both words of a beam-table entry, at a table address. The first part tells whether it
landed: a reserved place takes a write without effect (R10). -/
def State.tableWrite (s : State) (a v : Nat) (second : Option Nat) : Bool × State :=
  if !tableMapped a then (false, s.raise pHST 0)
  else match tablePage a with
    | none => (true, s)
    | some p =>
      if s.inReset p then (false, s.raise p 31)
      else if a < 0x1200000 then
        let o := a - tableBase
        if o / 4 % 2 = 0 then s.btStore (o / 8) (some v) second else s.btStore (o / 8) none (some v)
      else if a < 0x1300000 then s.itinStore ((a - 0x1200000) / 0x800) ((a - 0x1200000) % 0x800 / 4) v
      else if a < 0x1310000 then s.doseStore ((a - 0x1300000) / 4) v
      else s.kernelStore p (a - 0x1310000) v

end Sys2Proof.Machine
end

