-- ==== Sys2Proof/Machine/Dma.lean ====
section
/-!
DEFINITION. The DMA channels (chapter 15): descriptors, requests and their answers, chains, check values, completion,
errors, pausing and stopping, and the endpoint's configuration requests (R431).
-/
namespace Sys2Proof.Machine

open Sys2Proof (Agent DmaResp ConfigWrite)

/-- The page of channel n. -/
def pDMA (n : Nat) : Page := ⟨.dma, n⟩

/-- A channel's own state. -/
def State.chan (s : State) (n : Nat) : DmaChan := s.dma.chans.getD n {}
def State.modChan (s : State) (n : Nat) (f : DmaChan → DmaChan) : State :=
  { s with dma := { s.dma with chans := modAt s.dma.chans n f } }

/-- The numbers of DMA_n_STAT.STATE (R365). -/
abbrev dIDLE : Nat := 0
abbrev dRUNNING : Nat := 1
abbrev dPAUSING : Nat := 2
abbrev dPAUSED : Nat := 3
abbrev dERROR : Nat := 5

/-- STATE of a channel. -/
def State.dstate (s : State) (n : Nat) : Nat := s.rd (Reg.DMA_STAT_STATE n)

/-! ### Descriptors (R347 to R349) -/

/-- A descriptor's fields (R348). -/
structure Desc where
  mode    : Nat
  ssp     : Nat
  dsp     : Nat
  isp     : Nat
  chk     : Nat
  chkmode : Nat
  seed    : Bool
  cont    : Bool
  chain   : Bool
  irq     : Bool
  wb      : Bool
  nsp     : Nat
  src     : Nat
  dst     : Nat
  len     : Nat
  idx     : Nat
  elem    : Nat
  next    : Nat
  seedVal : Nat
  expect  : Nat
  tag     : Nat
  deriving DecidableEq, Repr

/-- The fields of 16 words. -/
def descOf (w : List Nat) : Desc :=
  let c := w.getD 0 0
  let q (i : Nat) : Nat := w.getD i 0 + 2 ^ 32 * w.getD (i + 1) 0
  { mode := bits c 31 30, ssp := bits c 29 28, dsp := bits c 27 25, isp := bits c 24 24, chk := bits c 23 21,
    chkmode := bits c 20 19, seed := c.testBit 18, cont := c.testBit 17, chain := c.testBit 16, irq := c.testBit 15,
    wb := c.testBit 14, nsp := bits c 13 13, src := q 1, dst := q 3, len := w.getD 5 0, idx := q 6,
    elem := bits (w.getD 8 0) 12 0, next := q 9, seedVal := q 11, expect := q 13, tag := bits (w.getD 15 0) 15 0 }

/-- The active set. -/
def State.active (s : State) (n : Nat) : List Nat := (List.range 16).map fun i => s.rd (Reg.DMA_A_A n i)
def State.desc (s : State) (n : Nat) : Desc := descOf (s.active n)

/-- The bytes a descriptor moves. -/
def Desc.total (d : Desc) : Nat := if d.mode = 0 then d.len else d.len * d.elem

/-- The check set of R355; CHK = 0 computes nothing. -/
def Desc.set (d : Desc) : CrcSet := if d.chk = 1 then crc32c else if d.chk = 2 then crc64 else if d.chk = 3 then crc32 else crc16

/-- Bytes of a stored check value (R355). -/
def Desc.chkBytes (d : Desc) : Nat := if d.chk = 0 then 0 else if d.chk = 2 then 8 else 4

/-- Where the check value is stored. -/
def Desc.chkPlace (d : Desc) : Nat := d.dst + d.total

/-- n bytes at an address lie within a destination space (R347): 0 HBM, 1 HOST, 2 TABLE, 3 INGEST, 4 NULL. -/
def spaceHolds (sp a n : Nat) : Bool :=
  match sp with
  | 0 => decide (a + n ≤ hbmSize)
  | 1 => decide (a + n ≤ 2 ^ 64)
  | 2 => decide (tableBase ≤ a) && decide (a + n ≤ tableEnd)
  | 3 => decide (a + n ≤ 2 ^ 40)
  | _ => true

/-- The checks of R349 that look at one descriptor alone; the fields that a mode or space ignores are not checked
(DEDUCED, log entry 33). -/
def Desc.ok (d : Desc) (w : List Nat) : Bool :=
  bits (w.getD 0 0) 12 0 == 0 && bits (w.getD 8 0) 31 13 == 0 && bits (w.getD 15 0) 31 24 == 0 &&
  d.mode != 3 && d.ssp != 3 && decide (d.dsp ≤ 4) && decide (d.chk ≤ 4) && d.chkmode != 3 &&
  d.src % 4 == 0 && (d.dsp == 4 || d.dst % 4 == 0) && (d.mode == 0 || d.idx % 4 == 0) && (!d.chain || (d.next % 64 == 0 && spaceHolds d.nsp d.next 64)) &&
  (if d.mode = 0 then d.len % 4 == 0 && decide (4 ≤ d.len)
   else d.elem % 4 == 0 && decide (4 ≤ d.elem) && decide (d.elem ≤ 4096) && decide (1 ≤ d.len) && decide (d.len ≤ 16777216)) &&
  !(d.ssp == 1 && d.dsp == 1) && !(d.ssp == 2 && (d.dsp == 2 || d.dsp == 3)) &&
  (d.mode != 0 || (spaceHolds d.ssp d.src d.len && spaceHolds d.dsp d.dst d.len)) &&
  (d.mode == 0 || spaceHolds d.isp d.idx (4 * d.len)) &&
  (d.chkmode != 1 || (decide (d.dsp ≤ 2) && d.mode != 2 && spaceHolds d.dsp d.chkPlace d.chkBytes)) &&
  !(d.cont && d.seed)

/-- The whole of R349 for a descriptor that becomes active. -/
def Desc.valid (d : Desc) (w : List Nat) (first : Bool) (prevChk : Nat) : Bool :=
  d.ok w && !(first && d.cont) && (!d.cont || d.chk == prevChk)

/-! ### Requests (R351, R352, R363) -/

/-- The life-cycle state closes BAR2 and the HBM spaces of DMA (R441). -/
def State.bar2Closed (s : State) : Bool :=
  s.rd Reg.LCY_STATE_STATE == 0x00 || s.rd Reg.LCY_STATE_STATE == 0x40 || s.rd Reg.LCY_STATE_STATE == 0x50

/-- A descriptor names HBM, or HOST, as a space it uses. -/
def Desc.usesHbm (d : Desc) : Bool := d.ssp == 0 || d.dsp == 0 || (d.mode != 0 && d.isp == 0)
def Desc.usesHost (d : Desc) : Bool := d.ssp == 1 || d.dsp == 1 || (d.mode != 0 && d.isp == 1)

/-- One read request: its space, address and length, and whether it reads the index table. -/
structure Req where
  space : Nat
  addr  : Nat
  len   : Nat
  index : Bool
  deriving DecidableEq, Repr

/-- The most bytes one request of a space may take from an address on: a HOST request within the maximum read request
size and a 4 KiB page, an HBM request within a granule, a TABLE request of one word or one beam-table entry. -/
def State.reqMax (s : State) (space addr : Nat) : Nat :=
  if space = 1 then min s.dma.readReq (4096 - addr % 4096)
  else if space = 0 then 256 - addr % 256
  else if addr < 0x1200000 ∧ addr % 8 = 0 then 8 else 4

/-- The source address of data byte p, and the bytes from it to the end of the transfer or of its element. -/
def Desc.srcAt (d : Desc) (idx : List Nat) (p : Nat) : Nat × Nat :=
  if d.mode = 0 then (d.src + p, d.len - p)
  else if d.mode = 1 then (d.src + idx.getD (p / d.elem) 0 * d.elem + p % d.elem, d.elem - p % d.elem)
  else (d.src + p, d.elem - p % d.elem)

/-- The destination address of data byte p. -/
def Desc.dstAt (d : Desc) (idx : List Nat) (p : Nat) : Nat :=
  if d.mode = 2 then d.dst + idx.getD (p / d.elem) 0 * d.elem + p % d.elem else d.dst + p

/-- The index table has still to be read. -/
def DmaChan.indexing (c : DmaChan) (d : Desc) : Bool := d.mode != 0 && decide (c.idx.length < d.len)

/-- The request whose first byte stands at a position of the index table or of the data; none beyond the end. -/
def State.reqAt (s : State) (n p : Nat) : Option Req :=
  let c := s.chan n
  let d := s.desc n
  if c.indexing d then
    if p < 4 * d.len then some ⟨d.isp, d.idx + p, min (4 * d.len - p) (s.reqMax d.isp (d.idx + p)), true⟩ else none
  else if p < d.total then
    let a := d.srcAt c.idx p
    some ⟨d.ssp, a.1, min a.2 (s.reqMax d.ssp a.1), false⟩
  else none

/-- An element's addresses lie within their spaces (R352). -/
def Desc.elemOk (d : Desc) (idx : List Nat) (p : Nat) : Bool :=
  let k := p / d.elem * d.elem
  d.mode == 0 || (spaceHolds d.ssp (d.srcAt idx k).1 d.elem && spaceHolds d.dsp (d.dstAt idx k) d.elem)

/-- Outstanding HOST requests of a channel, and of all channels (R363). -/
def DmaChan.tags (c : DmaChan) : Nat := c.reqs.length + c.stale
def State.tagsUsed (s : State) : Nat := (s.dma.chans.map DmaChan.tags).sum

/-- A non-posted request may be sent. -/
def State.tagFree (s : State) (n : Nat) : Bool :=
  decide ((s.chan n).tags < s.rd (Reg.DMA_CFG_OUTSTD n)) && decide (s.tagsUsed < 256)

/-- Send one HOST read request. -/
def State.sendReq (s : State) (n a len : Nat) : State :=
  (s.modChan n fun c => { c with reqs := c.reqs ++ [(a, len)] }).emit (.hostRead a len)

/-- Issue the next HOST request of channel n, if it has one and a tag is free: a descriptor fetch, or the index or data
request that follows those issued. While PAUSING only the requests that complete an element begun are issued, so that
POS_DONE is exact (DESIGN CHOICE, log entry 34). -/
def State.issueOne (s : State) (n : Nat) : State :=
  let c := s.chan n
  let d := s.desc n
  if !s.tagFree n then s
  else match c.fetch with
    | some (host, a) => if host && s.dstate n == dRUNNING && c.reqs.isEmpty then s.sendReq n a 64 else s
    | none =>
      let go := s.dstate n == dRUNNING ||
        (s.dstate n == dPAUSING && !c.indexing d && d.mode != 0 && c.issued % (max d.elem 1) != 0)
      if !go || !s.bit (Reg.DMA_STAT_ACT n) then s
      else match s.reqAt n c.issued with
        | some r =>
          if r.space = 1 ∧ (r.index ∨ d.elemOk c.idx c.issued) then
            (s.modChan n fun c => { c with issued := c.issued + r.len }).sendReq n r.addr r.len
          else s
        | none => s

/-- Channel n issues what it can. -/
def State.issueAll (s : State) (n : Nat) : State := (List.range 32).foldl (fun t _ => t.issueOne n) s

/-- Every channel issues what it can, in rotation after channel n (R363; the order of grants is a DESIGN CHOICE, log
entry 34). -/
def State.pump (s : State) (n : Nat) : State := (List.range 32).foldl (fun t i => t.issueAll ((n + i) % 32)) s

/-! ### Ending and starting (R350, R354, R356, R359, R362) -/

/-- DMA_n_POS_DESC. -/
def State.posDesc (s : State) (n : Nat) : Nat := s.rd64 (Reg.DMA_POS_DESC_LO_DESC n) (Reg.DMA_POS_DESC_HI_DESC n)

/-- Bytes posted to HOST, in writes within the maximum payload size and a 4 KiB page. -/
def State.hostPost (s : State) : Nat → Nat → List Byte → State
  | 0, _, _ => s
  | k + 1, a, l =>
    if l.isEmpty then s
    else
      let n := min s.dma.payload (4096 - a % 4096)
      (s.emit (.hostWrite a (l.take n))).hostPost k (a + n) (l.drop n)

/-- Write D_TAG back with DONE = 1 and a RESULT, where WB = 1 and the descriptor came from memory (R356, R359). -/
def State.writeBackTag (s : State) (n result : Nat) : State :=
  let d := s.desc n
  let a := s.posDesc n
  let word := leBytes 4 (0x80000000 + 0x10000 * result + d.tag)
  if !d.wb || a == 2 ^ 64 - 1 then s
  else if (s.chan n).inHost then s.hostPost 1 (a + 60) word
  else s.memWrite (a + 60) word true false

/-- DMA_n_LAST. -/
def State.lastShow (s : State) (n result : Nat) : State :=
  s.wrs [(Reg.DMA_LAST_RESULT n, result), (Reg.DMA_LAST_TAG n, (s.desc n).tag)]

/-- The address DMA_n_ERRADDR takes for an error (R359): the source address of the next request, the descriptor's own
address, or, for a check mismatch, a free value: the spec names none. -/
def State.errAddr (s : State) (n code : Nat) : Nat × State :=
  let c := s.chan n
  let d := s.desc n
  if code = 0x10 ∨ code = 0x14 ∨ code = 0x15 then (s.posDesc n, s)
  else if code = 0x18 then (s.draw.1 % 2 ^ 64, s.draw.2)
  else match c.fetch with
    | some (_, a) => (a, s)
    | none => if c.indexing d then (d.idx + 4 * c.idx.length, s) else ((d.srcAt c.idx c.moved).1 % 2 ^ 64, s)

/-- The channel goes to ERROR (R359); its outstanding requests are left to be discarded. -/
def State.dmaError (s : State) (n code : Nat) : State :=
  let e := s.errAddr n code
  let t := e.2.wrs [(Reg.DMA_STAT_STATE n, dERROR), (Reg.DMA_STAT_ERR n, code)]
  let u := ((t.wr64 (Reg.DMA_ERRADDR_LO_ADDR n) (Reg.DMA_ERRADDR_HI_ADDR n) e.1).lastShow n code).writeBackTag n code
  (u.modChan n fun c => { c with fetch := none, held := [], stale := c.stale + c.reqs.length, reqs := [] }).raise (pDMA n) 2

/-- The spaces a descriptor names are open (codes 0x17 and 0x19 of R359). -/
def State.spacesClosed (s : State) (hbm host : Bool) : Option Nat :=
  if hbm && s.bar2Closed then some 0x17 else if host && !s.dma.busMaster then some 0x19 else none

/-- The words become the active set, which is checked and starts (R349, R350, R354). -/
def State.activateDesc (s : State) (n : Nat) (w : List Nat) (first : Bool) : State :=
  let d := descOf w
  let c := s.chan n
  let init := if d.cont then c.run else if d.chk = 0 then 0 else if d.seed then d.seedVal % 2 ^ d.set.w else d.set.init
  let t := (s.wrs ((List.range 16).map fun i => (Reg.DMA_A_A n i, w.getD i 0))).wrs
    [(Reg.DMA_STAT_STATE n, dRUNNING), (Reg.DMA_STAT_ACT n, 1), (Reg.DMA_STAT_DISCARD n, 0), (Reg.DMA_STAT_ERR n, 0),
     (Reg.DMA_POS_DONE_LO_DONE n, 0), (Reg.DMA_POS_DONE_HI_DONE n, 0)]
  let u := (t.wr64 (Reg.DMA_CHKVAL_LO_R n) (Reg.DMA_CHKVAL_HI_R n) init).modChan n fun c =>
    { c with first := first, fetch := none, idx := [], moved := 0, issued := 0, reqs := [], held := [], run := init, chk := d.chk }
  let v := u.setRunning (pDMA n) true
  if (w.getD 15 0).testBit 31 && !first then v.dmaError n 0x15
  else if !d.valid w first c.chk then v.dmaError n 0x10
  else match v.spacesClosed d.usesHbm d.usesHost with
    | some e => v.dmaError n e
    | none => v.pump n

/-- A descriptor of the staging registers, or the pending set, becomes active (R350). -/
def State.takeStaging (s : State) (n : Nat) (w : List Nat) : State :=
  (((s.wr (Reg.DMA_STAT_HOPS n) 0).wr64 (Reg.DMA_POS_DESC_LO_DESC n) (Reg.DMA_POS_DESC_HI_DESC n) (2 ^ 64 - 1)).modChan n
    fun c => { c with inHost := false }).activateDesc n w true

/-- The channel goes to IDLE. -/
def State.dmaIdle (s : State) (n : Nat) : State :=
  (s.wrs [(Reg.DMA_STAT_STATE n, dIDLE), (Reg.DMA_STAT_ACT n, 0), (Reg.DMA_STAT_ERR n, 0)]).setRunning (pDMA n) false

/-- The pending set becomes active, or the channel goes to IDLE. -/
def State.takePending (s : State) (n : Nat) : State :=
  let w := (s.chan n).pend
  if w.isEmpty then s.dmaIdle n
  else
    ((((s.modChan n fun c => { c with pend := [] }).wr (Reg.DMA_STAT_PEND n) 0).raise (pDMA n) 5).takeStaging n w)

/-- What a write of GO does (R350). -/
def State.dmaGo (s : State) (n : Nat) : State :=
  let w := (List.range 16).map fun i => s.rd (Reg.DMA_D_D n i)
  let result (t : State) (r : Nat) : State := t.wr (Reg.DMA_CTRL_RESULT n) r
  if s.bit (Hdr.quiesce (pDMA n)) || !s.accepts (pDMA n) then result s 3
  else if !s.bit (Reg.DMA_STAT_ACT n) then (result s 0).takeStaging n w
  else if (s.chan n).pend.isEmpty then
    (result s 1).wr (Reg.DMA_STAT_PEND n) 1 |>.modChan n fun c => { c with pend := w }
  else result s 2

/-- DMA_GO (R350). -/
def execDmaGo (agent : Agent) (n : BitVec 5) (s : State) : Host.Outcome State Fault Refusal :=
  done (s.access agent (pDMA n.toNat) fun s => s.dmaGo n.toNat)

/-! ### Data (R351 to R353, R355, R360) -/

/-- The data of a request: its bytes, and the poisoned parts of it as (first byte, bytes, ORIGIN). -/
structure Got where
  data   : List Byte
  poison : List (Nat × Nat × Nat)
  deriving DecidableEq, Repr

/-- Read a request's bytes from HBM, code word by code word. -/
def State.hbmGet (s : State) (a len : Nat) : Got × State :=
  (wordsOf a len).foldl (fun (g : Got × State) c =>
    let lo := max a (32 * c)
    let hi := min (a + len) (32 * c + 32)
    let closed := !s.stackReady (stackOf c)
    let r := g.2.memRead c
    let d := (r.1.getD []).drop (lo - 32 * c)
    (⟨g.1.data ++ slice d 0 (hi - lo),
      if r.1.isNone || closed then g.1.poison ++ [(lo - a, hi - lo, 0x04)] else g.1.poison⟩, r.2)) (⟨[], []⟩, s)

/-- Read a request's bytes from the table windows. -/
def State.tableGet (s : State) (a len : Nat) : Got × State :=
  (⟨(List.range (len / 4)).flatMap fun i => leBytes 4 (s.tableRead (a + 4 * i)), []⟩,
    s.raiseIf ((List.range (len / 4)).any fun i => !tableMapped (a + 4 * i)) pHST 0)

/-- An armed injection makes the next buffer word uncorrectable (R365, R456). -/
def State.bufferUpset (s : State) (n : Nat) (upset : Bool) : Bool × State :=
  if s.bit (Hdr.injArm (pDMA n)) && s.rd (Hdr.injTarget (pDMA n)) == 1 then
    (upset || s.rd (Hdr.injFlip (pDMA n)) != 0, s.wr (Hdr.injArm (pDMA n)) 0)
  else (upset, s)

/-- A discarded write (R347). -/
def State.dmaDiscard (s : State) (n : Nat) : State := (s.wr (Reg.DMA_STAT_DISCARD n) 1).raise (pDMA n) 6

/-- Write bytes to the table windows: an aligned pair of words of the beam table as one entry, else word by word. -/
def State.tablePut (s : State) (n : Nat) : Nat → Nat → List Byte → State
  | 0, _, _ => s
  | k + 1, a, l =>
    if l.isEmpty then s
    else
      let two := decide (a < 0x1200000) && a % 8 == 0 && decide (8 ≤ l.length)
      let r := s.tableWrite a (leAt l 0 4) (if two then some (leAt l 4 4) else none)
      let t := if r.1 then r.2 else r.2.dmaDiscard n
      if two then t.tablePut n k (a + 8) (l.drop 8) else t.tablePut n k (a + 4) (l.drop 4)

/-- Poison the code words that poisoned parts of a write at an address fall into (R360). -/
def State.putParts (s : State) (a : Nat) (ps : List (Nat × Nat × Nat)) : State :=
  ps.foldl (fun t e => (wordsOf (a + e.1) e.2.1).foldl (fun u c =>
    if u.wordProtected c || !u.stackReady (stackOf c) then u else u.putPoison c e.2.2 (u.wordPc c) u.now) t) s

/-- Write a request's good data to the destination space. -/
def State.dmaPut (s : State) (n space a : Nat) (l : List Byte) : State :=
  match space with
  | 0 =>
    let t := s.memWrite a l true false
    if (wordsOf a l.length).any s.wordProtected then t.dmaDiscard n else t
  | 1 => s.hostPost l.length a l
  | 2 => s.tablePut n l.length a l
  | 3 => s.ingestOffer 0 0 a l
  | _ => s

/-- Show POS_DONE and CHKVAL: bytes in linear mode; else whole elements, with R over those alone. -/
def State.posShow (s : State) (n : Nat) : State :=
  let c := s.chan n
  let d := s.desc n
  if d.mode = 0 then
    (s.wr64 (Reg.DMA_POS_DONE_LO_DONE n) (Reg.DMA_POS_DONE_HI_DONE n) c.moved).wr64 (Reg.DMA_CHKVAL_LO_R n)
      (Reg.DMA_CHKVAL_HI_R n) c.run
  else if c.moved % d.elem = 0 then
    (s.wr64 (Reg.DMA_POS_DONE_LO_DONE n) (Reg.DMA_POS_DONE_HI_DONE n) (c.moved / d.elem)).wr64 (Reg.DMA_CHKVAL_LO_R n)
      (Reg.DMA_CHKVAL_HI_R n) c.run
  else s

/-- Good data of the next request, in source order, reaches the destination; a stalled ingest leaves it in the channel
(R351, R355, R361). -/
def State.dmaData (s : State) (n : Nat) (l : List Byte) : State :=
  let c := s.chan n
  let d := s.desc n
  if d.dsp = 3 ∧ s.ingestStalls 0 then s.modChan n fun c => { c with held := l }
  else
    let t := s.dmaPut n d.dsp (d.dstAt c.idx c.moved) l
    (t.modChan n fun c => { c with
      moved := c.moved + l.length, held := [], run := if d.chk = 0 then 0 else d.set.feed c.run l }).posShow n

/-- The data of the next request (R351, R360): poison stops the channel after HBM has been written. -/
def State.dmaGot (s : State) (n : Nat) (g : Got) : State :=
  let c := s.chan n
  let d := s.desc n
  if g.poison.isEmpty then (s.dmaData n g.data).pump n
  else if d.dsp = 0 then
    let a := d.dstAt c.idx c.moved
    ((s.dmaPut n 0 a g.data).putParts a g.poison).dmaError n 0x13
  else s.dmaError n 0x13

/-- The index entries of the next index request; poison stops the channel. -/
def State.dmaIndex (s : State) (n : Nat) (g : Got) : State :=
  if !g.poison.isEmpty then s.dmaError n 0x13
  else
    let es := (List.range (g.data.length / 4)).map fun i => leAt g.data (4 * i) 4
    (s.modChan n fun c =>
      let idx := c.idx ++ es
      { c with idx := idx, issued := if (s.desc n).len ≤ idx.length then 0 else c.issued }).pump n

/-- The bytes of the data poisoned by a buffer word: its first eight. -/
def Got.spoil (g : Got) (bad : Bool) : Got := if bad then { g with poison := g.poison ++ [(0, min 8 g.data.length, 0x03)] } else g

/-- The next answer is taken by the request in turn. -/
def State.dmaTake (s : State) (n : Nat) (r : Req) (g : Got) (upset : Bool) : State :=
  let b := s.bufferUpset n upset
  let t := if b.1 then b.2.setFault (pDMA n) 0 else b.2
  if r.index then t.dmaIndex n (g.spoil b.1) else t.dmaGot n (g.spoil b.1)

/-- A request to HBM or a table window, issued and answered (R351); held data is offered to ingest again first. While
PAUSING no new request is issued, but those that complete an element begun. -/
def State.dmaLocal (s : State) (n : Nat) (upset : Bool) : State :=
  let c := s.chan n
  let d := s.desc n
  if !c.held.isEmpty then if s.ingestStalls 0 then s else (s.dmaData n c.held).pump n
  else if c.fetch.isSome || !c.reqs.isEmpty then s
  else
    let at_ := if c.indexing d then 4 * c.idx.length else c.moved
    let go := s.dstate n == dRUNNING ||
      (s.dstate n == dPAUSING && !c.indexing d && d.mode != 0 && c.moved % (max d.elem 1) != 0)
    if !go then s
    else match s.reqAt n at_ with
      | none => s
      | some r =>
        if !r.index && !d.elemOk c.idx c.moved then s.dmaError n 0x16
        else if r.space = 1 then s
        else if r.space = 0 ∧ s.bar2Closed then s.dmaError n 0x17
        else
          let g := if r.space = 0 then s.hbmGet r.addr r.len else s.tableGet r.addr r.len
          g.2.dmaTake n r g.1 upset

/-- DMA_RESPONSE (R351, R359, R360): the answer to the channel's oldest request, in source order. An answer to a request
that a stop left behind only frees its tag. -/
def execDmaResponse (n : BitVec 5) (resp : DmaResp) (upset : Bool) (s : State) : Host.Outcome State Fault Refusal :=
  let n := n.toNat
  let c := s.chan n
  if resp != .memory ∧ 0 < c.stale then done ((s.modChan n fun c => { c with stale := c.stale - 1 }).pump n)
  else if s.inReset (pDMA n) || !s.bit (Reg.DMA_STAT_ACT n) || !(s.dstate n == dRUNNING || s.dstate n == dPAUSING) then done s
  else match resp with
    | .memory => done (s.dmaLocal n upset)
    | .failed => if c.reqs.isEmpty || c.fetch.isSome || !c.held.isEmpty then done s else done (s.dmaError n 0x11)
    | .completion data ep =>
      match c.reqs with
      | [] => done s
      | r :: rest =>
        if c.fetch.isSome ∨ !c.held.isEmpty ∨ data.length ≠ r.2 then done s
        else
          let t := s.modChan n fun c => { c with reqs := rest }
          done (t.dmaTake n ⟨1, r.1, r.2, c.indexing (s.desc n)⟩
            ⟨data, if ep then [(0, data.length, 0x05)] else []⟩ upset)

/-- DMA_COMPLETION_TIMEOUT (R358): the oldest outstanding request has had no last completion for 1 ms. -/
def execDmaCompletionTimeout (n : BitVec 5) (s : State) : Host.Outcome State Fault Refusal :=
  let n := n.toNat
  let c := s.chan n
  if 0 < c.stale then done ((s.modChan n fun c => { c with stale := c.stale - 1 }).pump n)
  else match c.reqs with
    | [] => done s
    | _ :: rest => done ((s.modChan n fun c => { c with reqs := rest }).dmaError n 0x12)

/-! ### Completion and chains (R354, R356, R357) -/

/-- The descriptor's check value is stored or compared; the answer tells a mismatch (R355). -/
def State.finishCheck (s : State) (n : Nat) : Bool × State :=
  let d := s.desc n
  let v := d.set.final (s.chan n).run
  if d.chk = 0 then (false, s)
  else if d.chkmode = 1 then (false, s.dmaPut n d.dsp d.chkPlace (leBytes d.chkBytes v))
  else if d.chkmode = 2 then (v != d.expect % 2 ^ d.set.w, s)
  else (false, s)

/-- The chain goes on to D_NEXT (R354). -/
def State.chainNext (s : State) (n : Nat) : State :=
  let d := s.desc n
  let host := d.nsp == 1
  if d.next = s.posDesc n ∧ host = (s.chan n).inHost then s.dmaError n 0x15
  else if s.rd (Reg.DMA_CFG_HOP_LIM n) < s.rd (Reg.DMA_STAT_HOPS n) + 1 then s.dmaError n 0x14
  else
    let t := s.modChan n fun c => { c with fetch := some (host, d.next) }
    match t.spacesClosed (!host) host with
    | some e => t.dmaError n e
    | none => t.pump n

/-- The end of a descriptor whose data and check value are in place (R356): the tag, DMA_n_LAST, the events, and what
runs next. A pause applies before what runs next, and is discarded where nothing does (R364). -/
def State.descEnds (s : State) (n : Nat) : State :=
  let d := s.desc n
  let pausing := s.dstate n == dPAUSING
  let result := s.rd (Reg.DMA_STAT_DISCARD n)
  let t := ((s.writeBackTag n result).lastShow n result).raiseIf d.irq (pDMA n) 0
  let u := if d.chain then t.chainNext n else (t.raise (pDMA n) 1).takePending n
  if pausing && u.dstate n == dRUNNING then u.wr (Reg.DMA_STAT_STATE n) dPAUSING else u

/-- DMA_DESCRIPTOR_COMPLETE (R356): every byte has been moved and every answer has arrived. -/
def execDmaDescriptorComplete (n : BitVec 5) (s : State) : Host.Outcome State Fault Refusal :=
  let n := n.toNat
  let c := s.chan n
  let d := s.desc n
  if s.inReset (pDMA n) || !s.bit (Reg.DMA_STAT_ACT n) || !(s.dstate n == dRUNNING || s.dstate n == dPAUSING) ||
    c.indexing d || decide (c.moved < d.total) || c.fetch.isSome || !c.held.isEmpty then done s
  else
    let k := s.finishCheck n
    done (if k.1 then k.2.dmaError n 0x18 else k.2.descEnds n)

/-- A fetched descriptor becomes active (R354). -/
def State.descFetched (s : State) (n : Nat) (host : Bool) (a : Nat) (g : Got) : State :=
  if !g.poison.isEmpty then s.dmaError n 0x13
  else
    let w := (List.range 16).map fun i => leAt g.data (4 * i) 4
    (((s.wr (Reg.DMA_STAT_HOPS n) (s.rd (Reg.DMA_STAT_HOPS n) + 1)).wr64 (Reg.DMA_POS_DESC_LO_DESC n)
      (Reg.DMA_POS_DESC_HI_DESC n) a).modChan n fun c => { c with inHost := host }).activateDesc n w false

/-- DMA_DESCRIPTOR_FETCH (R354): the 64 bytes at D_NEXT have been answered. -/
def execDmaDescriptorFetch (n : BitVec 5) (resp : DmaResp) (s : State) : Host.Outcome State Fault Refusal :=
  let n := n.toNat
  let c := s.chan n
  if s.inReset (pDMA n) || !(s.dstate n == dRUNNING || s.dstate n == dPAUSING) || decide (0 < c.stale ∧ resp ≠ .memory) then done s
  else match c.fetch, resp with
    | some (false, a), .memory =>
      if s.dstate n = dPAUSING then done s
      else if s.bar2Closed then done (s.dmaError n 0x17)
            else
        let g := s.hbmGet a 64
        done (g.2.descFetched n false a g.1)
    | some (true, _), .failed => done (if c.reqs.isEmpty then s else s.dmaError n 0x11)
    | some (true, a), .completion data ep =>
      if c.reqs.isEmpty ∨ data.length ≠ 64 then done s
      else
        let t := s.modChan n fun c => { c with reqs := [] }
        let pausing := s.dstate n == dPAUSING
        let u := t.descFetched n true a ⟨data, if ep then [(0, 64, 0x05)] else []⟩
        done (if pausing && u.dstate n == dRUNNING then u.wr (Reg.DMA_STAT_STATE n) dPAUSING else u)
    | _, _ => done s

/-! ### Pausing, stopping, closing (R358, R361, R362, R364) -/

/-- What a write of PAUSE does (R361). -/
def State.dmaPause (s : State) (n : Nat) : State :=
  if s.dstate n = dRUNNING then s.wr (Reg.DMA_STAT_STATE n) dPAUSING else s.raise (pDMA n) 31

/-- PAUSE (R361). -/
def execPause (agent : Agent) (n : BitVec 5) (s : State) : Host.Outcome State Fault Refusal :=
  done (s.access agent (pDMA n.toNat) fun s => s.dmaPause n.toNat)

/-- DMA_PAUSED (R361): the data of every outstanding request has been written, and no element is begun. -/
def execDmaPaused (n : BitVec 5) (s : State) : Host.Outcome State Fault Refusal :=
  let n := n.toNat
  let c := s.chan n
  let d := s.desc n
  if s.dstate n = dPAUSING ∧ c.reqs.isEmpty ∧ (d.mode = 0 ∨ c.moved % (max d.elem 1) = 0 ∨ !c.held.isEmpty) ∧
      s.inReset (pDMA n) = false then
    done ((s.wr (Reg.DMA_STAT_STATE n) dPAUSED).raise (pDMA n) 3)
  else done s

/-- What a write of RESUME does (R361): the spaces must still be open. -/
def State.dmaResume (s : State) (n : Nat) : State :=
  if s.dstate n = dPAUSED then
    let d := s.desc n
    let t := s.wr (Reg.DMA_STAT_STATE n) dRUNNING
    match t.spacesClosed d.usesHbm d.usesHost with
    | some e => t.dmaError n e
    | none => t.pump n
  else s.raise (pDMA n) 31

/-- DMA_RESUME (R361). -/
def execDmaResume (agent : Agent) (n : BitVec 5) (s : State) : Host.Outcome State Fault Refusal :=
  done (s.access agent (pDMA n.toNat) fun s => s.dmaResume n.toNat)

/-- What a write of STOP does (R362): outstanding requests are left to be discarded, the pending set with them. -/
def State.dmaStop (s : State) (n : Nat) : State :=
  if s.dstate n = dIDLE then s
  else
    let t := (s.lastShow n 0x1A).modChan n fun c =>
      { c with pend := [], fetch := none, held := [], stale := c.stale + c.reqs.length, reqs := [] }
    ((t.wr (Reg.DMA_STAT_PEND n) 0).raise (pDMA n) 4).dmaIdle n

/-- DMA_STOP (R362). -/
def execDmaStop (agent : Agent) (n : BitVec 5) (s : State) : Host.Outcome State Fault Refusal :=
  done (s.access agent (pDMA n.toNat) fun s => s.dmaStop n.toNat)

/-- What a write of CLEAR does (R362). -/
def State.dmaClear (s : State) (n : Nat) : State := if s.dstate n = dERROR then s.takePending n else s.raise (pDMA n) 31

/-- CLEAR (R362). -/
def execClearErr (agent : Agent) (n : BitVec 5) (s : State) : Host.Outcome State Fault Refusal :=
  done (s.access agent (pDMA n.toNat) fun s => s.dmaClear n.toNat)

/-- A space closes under channels that use it (R359, R364). -/
def State.closeSpace (s : State) (code : Nat) (uses : Desc → Bool) (fetches : Bool → Bool) : State :=
  (List.range 32).foldl (fun t n =>
    let live := t.dstate n == dRUNNING || t.dstate n == dPAUSING || (code == 0x17 && t.dstate n == dPAUSED)
    let hit := uses (t.desc n) || (match (t.chan n).fetch with | some (h, _) => fetches h | none => false)
    if live && hit then t.dmaError n code else t) s

/-- The life-cycle state has become one that closes BAR2 (R359, R441). -/
def State.dmaLifeCycle (s : State) : State := if s.bar2Closed then s.closeSpace 0x17 Desc.usesHbm (fun h => !h) else s

/-- Bus Master Enable becomes 0 (R359). -/
def State.clearBusMaster (s : State) : State :=
  ({ s with dma := { s.dma with busMaster := false } } : State).closeSpace 0x19 Desc.usesHost id

/-- BUS_MASTER_ENABLE_CLEARED (R359). -/
def execBusMasterEnableCleared (s : State) : Host.Outcome State Fault Refusal := done s.clearBusMaster

/-- The configuration fields as a write leaves them; a size that R60 does not give is not taken. -/
def State.configWrite (s : State) (w : ConfigWrite) : State :=
  let d := { s.dma with
    payload := if [128, 256, 512].contains w.payload then w.payload else s.dma.payload
    readReq := if [128, 256, 512, 1024, 2048, 4096].contains w.readReq then w.readReq else s.dma.readReq }
  let t : State := { s with dma := d }
  if w.busMaster then { t with dma := { t.dma with busMaster := true } } else t.clearBusMaster

/-- CONFIGURATION_REQUEST (R431, R522): answered once the PCI Express island is released, with Configuration Request Retry Status
until the GLB page leaves reset. -/
def execConfigurationRequest (write : Option ConfigWrite) (s : State) : Host.Outcome State Fault Refusal :=
  if !s.pwr.powered || s.pwr.perstRst || s.inReset pHST then done s
  else if s.inReset pGLB then done (s.emit (.config true))
  else done ((match write with | some w => s.configWrite w | none => s).emit (.config false))

/-- ENABLE = 0 or a block reset of a channel's page acts as STOP (R362); what a reset leaves outstanding keeps its tag. -/
def State.dmaPageStops (s : State) (n : Nat) : State := s.dmaStop n

end Sys2Proof.Machine
end

