-- ==== Sys2Proof/Machine/Xport.lean ====
section
/-!
DEFINITION. The Isavon transport (R395 to R397): frames of the stream to ingest, and credit.
-/
namespace Sys2Proof.Machine

/-- A port's page. -/
def pNET (n : Nat) : Page := ⟨.net, n⟩

/-- A port's own state. -/
def State.port (s : State) (n : Nat) : NetPort := s.net.getD n {}

/-- Word i of a transport frame, and its fields (R395). -/
def xWord (f : List Byte) (i : Nat) : Nat := leAt f (4 * i) 4
def xKind (f : List Byte) : Nat := bits (xWord f 0) 23 16
def xHandle (f : List Byte) : Nat := bits (xWord f 0) 3 0
def xOfs (f : List Byte) : Nat := xWord f 1 + 2 ^ 32 * bits (xWord f 2) 7 0
def xLen (f : List Byte) : Nat := bits (xWord f 3) 13 0
def xEnd (f : List Byte) : Nat := xWord f 5 + 2 ^ 32 * bits (xWord f 6) 7 0

/-- Reserved bits are 0, and the fields that a kind does not use (R395). -/
def xReserved (f : List Byte) : Bool :=
  bits (xWord f 0) 15 4 == 0 && bits (xWord f 2) 31 8 == 0 && bits (xWord f 3) 31 14 == 0 &&
  (if xKind f = 2 then bits (xWord f 6) 31 8 == 0 && bits (xWord f 7) 31 10 == 0 && bits (xWord f 7) 7 2 == 0 && xLen f == 0
   else xWord f 4 == 0 && xWord f 5 == 0 && xWord f 6 == 0 && xWord f 7 == 0)

/-- The lengths of R395, and agreement with the bytes of the frame, which Ethernet may have padded to 60. -/
def xLenOk (f : List Byte) : Bool :=
  let n := 36 + xLen f
  (if xKind f = 1 then xLen f % 4 == 0 && decide (4 ≤ xLen f) && decide (xLen f ≤ 8192)
   else if xKind f = 3 then xLen f == 0 && xOfs f == 0 else true) &&
  decide (n ≤ f.length) && (f.length == n || decide (f.length ≤ 46))

/-- A frame passes the checks of R396, in their order. -/
def xGood (f : List Byte) : Bool :=
  decide (36 ≤ f.length) && decide (36 + xLen f ≤ f.length) && leAt f (32 + xLen f) 4 == crc32c.of (f.take (32 + xLen f)) &&
  bits (xWord f 0) 31 24 == 1 && decide (1 ≤ xKind f) && decide (xKind f ≤ 3) && xReserved f && xLenOk f

/-- The delivery or repair that takes bytes: its source, its handle and its resume offset. -/
def State.openStreamOf (s : State) : Option (Nat × Nat × Nat) :=
  match s.ing.repair, s.ing.delivery with
  | some r, _ => some (r.source, r.handle, r.offset + r.buf.length)
  | none, some d => some (d.source, d.handle, d.resume)
  | none, none => none

/-- Free staging space in bytes (R120, R397): the buffers not occupied, less what the block being received has taken. -/
def State.stagingFree (s : State) : Nat :=
  match s.ing.repair, s.ing.delivery with
  | some r, _ => 262144 - r.buf.length
  | none, some d => (4 - (d.staged.length + d.freeing)) * 65536 - d.buf.length
  | none, none => 0

/-- A transport frame received on a port from a peer (R396). -/
def State.xportFrame (s : State) (n : Nat) (from_ : Peer) (f : List Byte) : State :=
  if !xGood f then (s.satInc (Reg.NET_CNT_2_XBAD n) 1).raise (pNET n) 6
  else if xKind f = 3 then s.modNet n fun p => { p with peer := some from_, owed := true }
  else if xKind f = 1 then
    let data := (f.drop 32).take (xLen f)
    let offer := s.ingestOffer (n + 1) (xHandle f) (xOfs f) data
    match s.openStreamOf with
    | some (src, h, resume) =>
      if src ≠ n + 1 ∨ h ≠ xHandle f ∨ resume ≠ xOfs f then offer
      else if (s.port n).lastEnd < xOfs f + xLen f then (s.satInc (Reg.NET_CNT_2_XCREDIT n) 1).raise (pNET n) 6
      else offer.modNet n fun p => { p with peer := some from_ }
    | none => offer
  else s

/-- The bytes of a CREDIT frame (R395, R397). -/
def creditFrame (handle ofs cseq end_ open_ repair stream : Nat) : List Byte :=
  let h := [0x01020000 + handle, ofs % 2 ^ 32, ofs / 2 ^ 32 % 256, 0, cseq, end_ % 2 ^ 32, end_ / 2 ^ 32 % 256,
    512 * repair + 256 * open_ + stream].flatMap (leBytes 4)
  h ++ leBytes 4 (crc32c.of h)

/-- Send a transport frame to a peer of port n: by its route, or to its Ethernet address (R389, R408). -/
def State.xportTo (s : State) (n : Nat) (p : Peer) (f : List Byte) : State :=
  if p.fabric then s.fabricSend 0x22 p.addr 16 f
  else s.etherSend n p.sub clCredit p.addr (s.rd (Reg.NET_ETYPE_XPORT n)) f

/-- The CREDIT frame of port n at this moment (R397). -/
def State.sendCredit (s : State) (n : Nat) : State :=
  match (s.port n).peer with
  | none => s
  | some p =>
    let resume := s.rd Reg.ING_IFS_RESUME_LO_RES_LO + 2 ^ 32 * s.rd Reg.ING_IFS_RESUME_HI_RES_HI
    let mine := match s.openStreamOf with | some (src, h, o) => if src = n + 1 then some (h, o) else none | none => none
    let ofs := match mine with | some (_, o) => o | none => resume
    let end_ := match mine with | some (_, o) => o + s.stagingFree | none => resume
    let cseq := ((s.port n).cseq + 1) % 2 ^ 32
    let f := creditFrame (match mine with | some (h, _) => h | none => 0) ofs cseq end_ (if mine.isSome then 1 else 0)
      (if mine.isSome && s.ing.repair.isSome then 1 else 0) (s.rd Reg.ING_IFS_STAT_STREAM)
    (s.modNet n fun q => { q with owed := false, cseq := cseq, lastEnd := end_ }).xportTo n p f

/-- CREDIT (R397): a REQ is answered, or the stream of an open delivery is granted more, as time and the buffers
require. -/
def execCredit (n : BitVec 1) (s : State) : Host.Outcome State Fault Refusal :=
  let n := n.toNat
  let mine := match s.openStreamOf with | some (src, _, _) => src == n + 1 | none => false
  done (if s.live (pNET n) && ((s.port n).owed || mine) then s.sendCredit n else s)

/-- REQ (R396): a transport frame of that kind arrives on a port from an Ethernet address. -/
def execReqFrame (n : BitVec 1) (sub : BitVec 2) (source : BitVec 48) (frame : List Byte) (s : State) :
    Host.Outcome State Fault Refusal :=
  done (if s.live (pNET n.toNat) && xKind frame == 3 then s.xportFrame n.toNat ⟨false, source.toNat, sub.toNat⟩ frame else s)

/-- DATA (R396). -/
def execDataFrame (n : BitVec 1) (sub : BitVec 2) (source : BitVec 48) (frame : List Byte) (s : State) :
    Host.Outcome State Fault Refusal :=
  done (if s.live (pNET n.toNat) && xKind frame == 1 then s.xportFrame n.toNat ⟨false, source.toNat, sub.toNat⟩ frame else s)

end Sys2Proof.Machine
end

