-- ==== Sys2Proof/Machine/Fab.lean ====
section
/-!
DEFINITION. The Llynre fabric (chapter 18): neighbours, LSAs, addresses and routes, reckonings and layouts shared with
peers, shared surveys and the time offset. Motion groups are in Group, and the reception of frames in Net.
-/
namespace Sys2Proof.Machine

open Sys2Proof (Agent)

/-! ### Frames (R401) -/

def fWord (f : List Byte) (i : Nat) : Nat := leAt f (4 * i) 4
def fKind (f : List Byte) : Nat := bits (fWord f 0) 23 16
def fSrc (f : List Byte) : Nat := bits (fWord f 0) 15 8
def fDst (f : List Byte) : Nat := bits (fWord f 0) 7 0
def fTtl (f : List Byte) : Nat := bits (fWord f 1) 31 24
def fLen (f : List Byte) : Nat := bits (fWord f 1) 15 0
def fPayload (f : List Byte) : List Byte := (f.drop 16).take (fLen f)

/-- The kinds of R402. -/
def fabricKinds : List Nat :=
  [0x01, 0x02, 0x10, 0x11, 0x20, 0x21, 0x22, 0x30, 0x31, 0x32, 0x33, 0x40, 0x41, 0x50, 0x51, 0x52, 0x53, 0x60]

/-- CHK, VER, KIND and the reserved bits are right (R401); Ethernet may have padded the frame. -/
def fGood (f : List Byte) : Bool :=
  decide (20 + fLen f ≤ f.length) && (f.length == 20 + fLen f || decide (f.length ≤ 46)) && decide (fLen f ≤ 8192) &&
  fLen f % 4 == 0 && leAt f (16 + fLen f) 4 == crc32c.of (f.take (16 + fLen f)) && bits (fWord f 0) 31 24 == 1 &&
  fabricKinds.contains (fKind f) && bits (fWord f 1) 23 16 == 0

/-- Count a dropped frame (R401, R406). -/
def State.fabDrop (s : State) : State := s.satInc Reg.FAB_CNT_DROP 1

/-! ### Links and the page (R403, R420) -/

/-- The module's UID. -/
def ownUid : Nat := Config.fusedUid % 2 ^ 64

/-- The fabric links: sub-ports whose bit is set in FAB_CFG.LINKS and whose Ethernet link is up. -/
def State.fabLinks (s : State) : List Nat :=
  (List.range 8).filter fun l => (s.rd Reg.FAB_CFG_LINKS).testBit l && s.linkUp (l / 4) (l % 4)

/-- The page runs while any fabric link is up; FAB_STAT.STATE reads 0 while none is. -/
def State.fabShow (s : State) : State :=
  let up := !s.fabLinks.isEmpty
  (if up then (if s.rd Reg.FAB_STAT_STATE = 0 then s.wr Reg.FAB_STAT_STATE 1 else s) else s.wr Reg.FAB_STAT_STATE 0).setRunning pFAB up

/-- The fabric acts: its page runs. -/
def State.fabOn (s : State) : Bool := s.live pFAB && !s.fabLinks.isEmpty

/-- Membership settles anew. -/
def State.unsettle (s : State) : State := if s.rd Reg.FAB_STAT_STATE = 0 then s else s.wr Reg.FAB_STAT_STATE 1

/-! ### Neighbours and LSAs (R403) -/

/-- Adopt an EPOCH if it is larger. -/
def State.adoptEpoch (s : State) (e : Nat) : State := s.wr Reg.FAB_EPOCH_EPOCH (max (s.rd Reg.FAB_EPOCH_EPOCH) e)

/-- Flood the module's own LSA. -/
def State.sendLsa (s : State) : State :=
  let ns := s.fab.neighbours
  s.fabricSend 0x02 0xFF 16 (leBytes 8 ownUid ++ leBytes 1 (s.rd Reg.FAB_STAT_ADDR) ++ leBytes 1 (s.rd Reg.FAB_CFG_PREF) ++
    leBytes 1 ns.length ++ [0] ++ leBytes 4 (s.rd Reg.FAB_EPOCH_EPOCH) ++
    ns.flatMap fun e => leBytes 8 e.uid ++ leBytes 1 e.link ++ leBytes 1 e.far ++ [0, 0])

/-- The set of neighbours has changed: EPOCH advances beyond the largest seen, and the LSA is flooded. -/
def State.neighboursChanged (s : State) : State :=
  (s.wr Reg.FAB_EPOCH_EPOCH (s.rd Reg.FAB_EPOCH_EPOCH + 1)).unsettle.sendLsa

/-- A HELLO payload received on a link from an Ethernet address. -/
def State.helloIn (s : State) (link mac : Nat) (p : List Byte) : State :=
  let e : Neighbour := { link := link, uid := leAt p 0 8, addr := leAt p 8 1, far := leAt p 10 1, mac := mac }
  let t := s.adoptEpoch (leAt p 12 4)
  let known := s.fab.neighbours.any fun x => x.link == link && x.uid == e.uid && x.far == e.far
  let u : State := { t with fab := { t.fab with neighbours := t.fab.neighbours.filter (fun x => x.link != link) ++ [e] } }
  if known then u else u.neighboursChanged

/-- A neighbour is lost: by silence, or with its link. -/
def State.neighbourLost (s : State) (link : Nat) : State :=
  if s.fab.neighbours.any fun x => x.link == link then
    ({ s with fab := { s.fab with neighbours := s.fab.neighbours.filter fun x => x.link != link } } : State).neighboursChanged
  else s

/-- NEIGHBOUR_LOST (R403): three HELLO intervals without a HELLO on a link. -/
def execNeighbourLost (link : BitVec 3) (s : State) : Host.Outcome State Fault Refusal :=
  done (if s.live pFAB then s.neighbourLost link.toNat else s)

/-- HELLO_SEND (R403). -/
def execHelloSend (s : State) : Host.Outcome State Fault Refusal :=
  if !s.fabOn then done s
  else done (s.fabLinks.foldl (fun t l => t.fabricOn [l] 0x01 0xFF 1 (leBytes 8 ownUid ++ leBytes 1 (t.rd Reg.FAB_STAT_ADDR) ++
    leBytes 1 (t.rd Reg.FAB_CFG_PREF) ++ leBytes 1 l ++ [0] ++ leBytes 4 (t.rd Reg.FAB_EPOCH_EPOCH))) s)

/-- LSA_FLOOD (R403): every 10 ms. -/
def execLsaFlood (s : State) : Host.Outcome State Fault Refusal := done (if s.fabOn then s.sendLsa else s)

/-- An LSA payload with the SEQ of its frame. -/
def lsaOf (seq : Nat) (p : List Byte) : Lsa :=
  { uid := leAt p 0 8, addr := leAt p 8 1, pref := leAt p 9 1, epoch := leAt p 12 4, seq := seq,
    entries := (List.range (leAt p 10 1)).map fun i => (leAt p (16 + 12 * i) 8, leAt p (24 + 12 * i) 1, leAt p (25 + 12 * i) 1) }

/-- The LSA is newer than the one held from its sender. -/
def State.lsaNew (s : State) (l : Lsa) : Bool :=
  l.uid != ownUid && match s.fab.lsas.find? fun x => x.uid == l.uid with | some x => decide (x.seq < l.seq) | none => true

/-- Keep a newer LSA; a change of what it says unsettles the membership. -/
def State.lsaIn (s : State) (l : Lsa) : State :=
  let t := s.adoptEpoch l.epoch
  if !s.lsaNew l then t
  else
    let same := s.fab.lsas.any fun x => x.uid == l.uid && x.addr == l.addr && x.pref == l.pref && x.entries == l.entries
    let u : State := { t with fab := { t.fab with lsas := t.fab.lsas.filter (fun x => x.uid != l.uid) ++ [l] } }
    if same then u else u.unsettle

/-- LSA_EXPIRY (R403): an LSA has not been refreshed for 30 ms. -/
def execLsaExpiry (uid : BitVec 64) (s : State) : Host.Outcome State Fault Refusal :=
  if s.fab.lsas.any fun x => x.uid == uid.toNat then
    done ({ s with fab := { s.fab with lsas := s.fab.lsas.filter fun x => x.uid != uid.toNat } } : State).unsettle
  else done s

/-! ### Addresses and routes (R404, R405) -/

/-- A module as the topology shows it. -/
structure Node where
  uid     : Nat
  addr    : Nat
  pref    : Nat
  entries : List (Nat × Nat × Nat)
  deriving DecidableEq, Repr

/-- This module and every module an LSA is held from. -/
def State.topology (s : State) : List Node :=
  { uid := ownUid, addr := s.rd Reg.FAB_STAT_ADDR, pref := s.rd Reg.FAB_CFG_PREF,
    entries := s.fab.neighbours.map fun e => (e.uid, e.link, e.far) } ::
  s.fab.lsas.map fun l => { uid := l.uid, addr := l.addr, pref := l.pref, entries := l.entries }

/-- The neighbours of a module over links that both ends report: (UID, local link). -/
def adjacent (ns : List Node) (u : Nat) : List (Nat × Nat) :=
  match ns.find? fun n => n.uid == u with
  | none => []
  | some n => (n.entries.filter fun e => ns.any fun m => m.uid == e.1 && m.entries.contains (u, e.2.2, e.2.1)).map fun e => (e.1, e.2.1)

/-- One round of the search outwards from a module: hop counts by UID. -/
def hopRound (ns : List Node) (d : Nat) (ds : List (Nat × Nat)) : List (Nat × Nat) :=
  ds ++ ((ds.filter fun e => e.2 == d).flatMap fun e => ((adjacent ns e.1).map Prod.fst).filter fun v =>
    !ds.any fun x => x.1 == v).eraseDups.map fun v => (v, d + 1)

/-- Hop counts from a module, up to 15. -/
def hopsFrom (ns : List Node) (u : Nat) : List (Nat × Nat) := (List.range 15).foldl (fun ds d => hopRound ns d ds) [(u, 0)]

/-- UIDs that the LSAs lead to, one link direction sufficing. -/
def mentioned (ns : List Node) : List Nat :=
  (List.range 64).foldl (fun us _ => (us ++ (us.flatMap fun u => match ns.find? fun n => n.uid == u with
    | some n => n.entries.map Prod.fst | none => [])).eraseDups) [ownUid]

/-- Insert a node by ascending UID. -/
def insertUid (n : Node) : List Node → List Node
  | [] => [n]
  | m :: t => if n.uid < m.uid then n :: m :: t else m :: insertUid n t

/-- The assignment of addresses (R404 steps 1 to 4): (UID, address), 0xFE where none is held. -/
def assignAddrs (ns : List Node) : List (Nat × Nat) :=
  let us := ns.foldr insertUid []
  let s1 := us.foldl (fun (a : List (Nat × Nat)) n => if n.addr < 64 ∧ !(a.any fun e => e.2 == n.addr) then a ++ [(n.uid, n.addr)] else a) []
  let s2 := us.foldl (fun (a : List (Nat × Nat)) n =>
    if (a.any fun e => e.1 == n.uid) ∨ 64 ≤ n.pref ∨ (a.any fun e => e.2 == n.pref) then a else a ++ [(n.uid, n.pref)]) s1
  us.foldl (fun (a : List (Nat × Nat)) n =>
    if a.any fun e => e.1 == n.uid then a
    else match (List.range 64).find? fun x => !(a.any fun e => e.2 == x) with
      | some x => a ++ [(n.uid, x)]
      | none => a ++ [(n.uid, 0xFE)]) s2

/-- The address of a UID in an assignment. -/
def addrIn (as : List (Nat × Nat)) (u : Nat) : Nat := ((as.find? fun e => e.1 == u).map Prod.snd).getD 0xFE

/-- The lesser of two next hops: by address, then by local link. -/
def betterHop (as : List (Nat × Nat)) (x y : Nat × Nat) : Nat × Nat :=
  if addrIn as x.1 < addrIn as y.1 ∨ (addrIn as x.1 = addrIn as y.1 ∧ x.2 ≤ y.2) then x else y

/-- The next hop from one module to another: UID, local link and hops (R405). -/
def nextHop (ns : List Node) (as : List (Nat × Nat)) (from_ dst : Nat) : Option (Nat × Nat × Nat) :=
  let ds := hopsFrom ns dst
  match (ds.find? fun e => e.1 == from_).map Prod.snd with
  | none => none
  | some d =>
    match (adjacent ns from_).filter fun e => ds.any fun x => x.1 == e.1 && x.2 + 1 == d with
    | [] => none
    | h :: t => let b := t.foldl (betterHop as) h; some (b.1, b.2, d)

/-- Clear every route. -/
def State.clearRoutes (s : State) : State := { s with regs := s.regs.clear fun a => decide (0x60100 ≤ a) && decide (a < 0x60200) }

/-- Write the routes to every other member, FAB_STAT.DIAM, and the loss of the route to address 0 (R405, R413). -/
def State.setRoutes (s : State) (ns : List Node) (as : List (Nat × Nat)) : State :=
  let rs := (as.filter fun e => e.1 != ownUid && decide (e.2 < 64)).filterMap fun e => (nextHop ns as ownUid e.1).map fun h => (e.2, h)
  let t := rs.foldl (fun (t : State) r => t.wrs [(Reg.FAB_ROUTE_VALID r.1, 1), (Reg.FAB_ROUTE_HOPS r.1, r.2.2.2),
    (Reg.FAB_ROUTE_NEXT r.1, addrIn as r.2.1), (Reg.FAB_ROUTE_LINK r.1, r.2.2.1)]) s.clearRoutes
  let zero := t.bit (Reg.FAB_ROUTE_VALID 0)
  let u := t.wr Reg.FAB_STAT_DIAM ((rs.map fun r => r.2.2.2).foldl max 0)
  ({ u with fab := { u.fab with routeZero := zero } } : State).raiseIf (s.fab.routeZero && !zero && addrIn as ownUid != 0) pFAB 10

/-- The members of R404 as the topology shows them: those that links reported by both ends lead to. -/
def State.memberNodes (s : State) : List Node :=
  let ns := s.topology
  let ds := hopsFrom ns ownUid
  ns.filter fun n => ds.any fun e => e.1 == n.uid

/-- The membership may settle: an LSA is held from every UID that the LSAs lead to. -/
def State.maySettle (s : State) : Bool := (mentioned s.topology).all fun u => s.topology.any fun n => n.uid == u

/-- The membership settles (R404, R405). -/
def State.settleMembers (s : State) : State :=
  let ns := s.memberNodes
  let as := assignAddrs ns
  let own := addrIn as ownUid
  let t := s.wrs [(Reg.FAB_STAT_ADDR, own), (Reg.FAB_STAT_MEMBERS, min 127 ns.length), (Reg.FAB_STAT_STATE, if own = 0xFE then 3 else 2)]
  let u := (t.raiseIf (own != s.rd Reg.FAB_STAT_ADDR) pFAB 1).raiseIf (as != s.fab.members) pFAB 0
  let v := if own = 0xFE then u.setFault pFAB 3 else u
  ({ v with fab := { v.fab with members := as } } : State).setRoutes ns as

/-! ### Forwarding (R406) -/

/-- The links to the neighbours whose route to a source runs through this module. -/
def State.spread (s : State) (src : Nat) : List Nat :=
  let ns := s.memberNodes
  match s.fab.members.find? fun e => e.2 == src with
  | none => []
  | some (u, _) => (s.fab.neighbours.filter fun n => match nextHop ns s.fab.members n.uid u with
      | some (v, _, _) => v == ownUid | none => false).map Neighbour.link

/-- A frame with its TTL lowered by one. -/
def lowerTtl (f : List Byte) : List Byte :=
  let b := f.take 4 ++ leBytes 4 (fWord f 1 - 2 ^ 24) ++ (f.drop 8).take (8 + fLen f)
  b ++ leBytes 4 (crc32c.of b)

/-- Forward a good frame for another address or for all (R406). An LSA that is new is flooded to every neighbour but the
one it came from, so that it travels before routes exist (DEDUCED, log entry 36). -/
def State.fabricForward (s : State) (link : Nat) (f : List Byte) : State :=
  let own := s.rd Reg.FAB_STAT_ADDR
  let dst := fDst f
  let count (t : State) : State := t.satInc Reg.FAB_CNT_FWD 1
  if dst = own ∨ (fSrc f = own ∧ own < 64) then s
  else if dst = 0xFF then
    if fTtl f ≤ 1 then s
    else
      let ls := if fKind f = 0x02 then (if s.lsaNew (lsaOf (fWord f 3) (fPayload f)) then
          (s.fab.neighbours.map Neighbour.link).filter fun l => l != link else []) else s.spread (fSrc f)
      ls.foldl (fun t l => count (t.fabricPut l dst (fTtl f - 1) (lowerTtl f))) s
  else if fTtl f ≤ 1 then s.fabDrop
  else match s.routeLink dst with
    | some l => count (s.fabricPut l dst (fTtl f - 1) (lowerTtl f))
    | none => s.fabDrop

/-! ### Reckonings (R407) -/

/-- A write of FAB_RECK.GO (R407). -/
def State.fabReckGo (s : State) (dst : Nat) : State :=
  let t := s.wr Reg.FAB_RECK_DST dst
  if dst = 0xFF then
    ({ t.wr Reg.FAB_RECK_RESULT 0 with fab := { t.fab with reckFrom :=
      ((s.fab.members.filter fun e => e.1 != ownUid && decide (e.2 < 64)).map Prod.snd) } } : State).fabricSend 0x10 0xFF 16 []
  else if (t.routeLink dst).isNone then t.wr Reg.FAB_RECK_RESULT 1
  else
    ({ t.wr Reg.FAB_RECK_RESULT 0 with fab := { t.fab with reckFrom := [dst] } } : State).fabricSend 0x10 dst 16 []

/-- FAB_RECK_GO (R407). -/
def execFabReckGo (agent : Agent) (dst : BitVec 8) (s : State) : Host.Outcome State Fault Refusal :=
  done (s.newWork agent pFAB fun s => s.fabReckGo dst.toNat)

/-- RECKON_REQUEST_TIMEOUT (R407): 1 ms without a summary from a peer asked. -/
def execReckonRequestTimeout (s : State) : Host.Outcome State Fault Refusal :=
  if s.fab.reckFrom.isEmpty then done s
  else done (({ s.wr Reg.FAB_RECK_RESULT 2 with fab := { s.fab with reckFrom := [] } } : State).raise pFAB 3)

/-- Bit m of FAB_MIRROR. -/
def State.markMirror (s : State) (m : Nat) : State :=
  if m < 32 then s.wr Reg.FAB_MIRROR_LO_VALID (setBit (s.rd Reg.FAB_MIRROR_LO_VALID) m)
  else s.wr Reg.FAB_MIRROR_HI_VALID (setBit (s.rd Reg.FAB_MIRROR_HI_VALID) (m - 32))

/-- A summary arrives from a peer (R407): its mirror slot changes as a whole. -/
def State.reckData (s : State) (src : Nat) (p : List Byte) : State :=
  if p.length ≠ 4096 ∨ 64 ≤ src then s.fabDrop
  else
    let t : State := { s with fab := { s.fab with
      mirror := s.fab.mirror.filter (fun e => e.1 != src) ++ [(src, p)], reckFrom := s.fab.reckFrom.filter fun a => a != src } }
    (t.markMirror src).raise pFAB 2

/-! ### Sharing a layout (R408) -/

/-- A write of FAB_SHARE.GO (R408). -/
def State.fabShareGo (s : State) (peer : Nat) : State :=
  let t : State := { (s.wr Reg.FAB_SHARE_PEER peer).wr Reg.FAB_SHARE_RESULT 0 with fab := { s.fab with shareWait := true } }
  t.fabricSend 0x20 peer 16 (leBytes 4 (s.rd Reg.FAB_SHARE_ID_LO_ID) ++ leBytes 4 (s.rd Reg.FAB_SHARE_ID_HI_ID) ++
    leBytes 1 (if s.ing.repair.isSome then 1 else 0) ++ List.replicate 7 0)

/-- FAB_SHARE_GO (R408). -/
def execFabShareGo (agent : Agent) (peer : BitVec 8) (s : State) : Host.Outcome State Fault Refusal :=
  done (s.newWork agent pFAB fun s => s.fabShareGo peer.toNat)

/-- A SHARE_RSP payload. -/
def State.shareAnswer (s : State) (dst code : Nat) : State := s.fabricSend 0x21 dst 16 (leBytes 1 code ++ [0, 0, 0])

/-- A SHARE_REQ arrives (R408): it is answered, and on success the transport REQ follows. -/
def State.shareReq (s : State) (src : Nat) (p : List Byte) : State :=
  let id := leAt p 0 8
  if !s.bit Reg.FAB_CFG_SERVE then s.shareAnswer src 1
  else match (List.range 16).find? fun h => (s.lay h).state == .accepted && (s.lay h).index.id == id with
    | none => s.shareAnswer src 2
    | some h =>
      if 4 ≤ (s.fab.shares.filter fun e => e.peer != src).length then s.shareAnswer src 3
      else
        let t : State := { s.shareAnswer src 0 with
          fab := { (s.shareAnswer src 0).fab with
            shares := s.fab.shares.filter (fun e => e.peer != src) ++ [{ peer := src, handle := h }] } }
        let r := [0x01030000, 0, 0, 0, 0, 0, 0, 0].flatMap (leBytes 4)
        t.fabricSend 0x22 src 16 (r ++ leBytes 4 (crc32c.of r))

/-- A share ends (R408). -/
def State.endShare (s : State) (peer : Nat) : State :=
  ({ s with fab := { s.fab with shares := s.fab.shares.filter fun e => e.peer != peer } } : State).raise pFAB 4

/-- Change a share. -/
def State.modShare (s : State) (peer : Nat) (f : Share → Share) : State :=
  { s with fab := { s.fab with shares := s.fab.shares.map fun e => if e.peer = peer then f e else e } }

/-- Serve a share's bytes from an offset up to END, at most 8,156 in a frame so that it fits an LXPORT payload; `n`
bounds the frames. Poison ends the share with SHARE_RSP 0x05 (R408). -/
def State.serve (s : State) (peer : Nat) (l : Layout) (handle end_ : Nat) : Nat → Nat → State
  | 0, o => s.modShare peer fun e => { e with sent := o }
  | n + 1, o =>
    let top := min end_ l.bytes
    if top ≤ o then s.modShare peer fun e => { e with sent := o }
    else
      let k := min (min 8156 (mib - o % mib)) (top - o)
      if s.poisoned (l.addr o) k then (s.endShare peer).shareAnswer peer 5
      else
        let h := [0x01010000 + handle, o % 2 ^ 32, o / 2 ^ 32, k, 0, 0, 0, 0].flatMap (leBytes 4) ++ Memory.readBytes s.hbm (l.addr o) k
        (s.fabricSend 0x22 peer 16 (h ++ leBytes 4 (crc32c.of h))).serve peer l handle end_ n (o + k)

/-- A CREDIT frame reaches the server of a share (R397, R408). The stream is sent on, or again from OFS where OFS has
moved back or has not moved since the last CREDIT frame (DESIGN CHOICE, log entry 36). -/
def State.shareCredit (s : State) (peer : Nat) (f : List Byte) : State :=
  match s.fab.shares.find? fun e => e.peer == peer with
  | none => s
  | some e =>
    let cseq := xWord f 4
    let newer := match e.cseq with | some c => decide ((cseq + 2 ^ 32 - c) % 2 ^ 32 < 2 ^ 31) && cseq != c | none => true
    if !newer then s
    else if !(xWord f 7).testBit 8 then s.endShare peer
    else
      let o := xOfs f
      let from_ := if e.cseq.isNone ∨ o ≤ e.ofs then o else max e.sent o
      (s.modShare peer fun e => { e with ofs := o, cseq := some cseq }).serve peer (s.lay e.handle) (xHandle f) (xEnd f) 64 from_

/-- An LXPORT payload (R408): credit for a share served, or a transport frame from the peer on the port of arrival. -/
def State.lxportIn (s : State) (link src : Nat) (p : List Byte) : State :=
  if xGood p && xKind p == 2 then s.shareCredit src p else s.xportFrame (link / 4) ⟨true, src, link % 4⟩ p

/-- A SHARE_RSP arrives (R408). -/
def State.shareRsp (s : State) (src : Nat) (p : List Byte) : State :=
  let code := leAt p 0 1
  if src ≠ s.rd Reg.FAB_SHARE_PEER then s
  else if code = 5 ∧ s.fab.shareOn then
    ({ s.wr Reg.FAB_SHARE_RESULT 5 with fab := { s.fab with shareOn := false } } : State).raise pFAB 4
  else if s.fab.shareWait then
    { s.wr Reg.FAB_SHARE_RESULT code with fab := { s.fab with shareWait := false, shareOn := code == 0 } }
  else s

/-- SHARE_ANSWER_TIMEOUT (R408): 1 ms without SHARE_RSP. -/
def execShareAnswerTimeout (s : State) : Host.Outcome State Fault Refusal :=
  done (if s.fab.shareWait then { s.wr Reg.FAB_SHARE_RESULT 4 with fab := { s.fab with shareWait := false } } else s)

/-- SHARE_CREDIT_TIMEOUT (R408): a share served has had no credit for 10 ms. -/
def execShareCreditTimeout (peer : BitVec 6) (s : State) : Host.Outcome State Fault Refusal :=
  done (if s.fab.shares.any fun e => e.peer == peer.toNat then s.endShare peer.toNat else s)

/-! ### Shared surveys (R410 to R412) -/

/-- The cell column and first row of a DENS payload. -/
def densPlace (p : List Byte) : Int × Int := (sx 32 (leAt p 8 4), sx 32 (leAt p 12 4))

/-- Insert a chunk by cell column and row; a chunk of a place already held is the same chunk again. -/
def insertChunk (p : List Byte) : List (List Byte) → List (List Byte)
  | [] => [p]
  | q :: t =>
    let a := densPlace p
    let b := densPlace q
    if a = b then q :: t
    else if a.1 < b.1 ∨ (a.1 = b.1 ∧ a.2 < b.2) then p :: q :: t else q :: insertChunk p t

/-- The partial sums of a chunk, by cell. -/
def chunkSums (g : MapGeo) (p : List Byte) : List (Nat × Nat) :=
  let c := densPlace p
  (List.range (leAt p 16 2)).filterMap fun i =>
    let n := leAt p (20 + 4 * i) 4
    if n = 0 ∨ !g.has c.1 (c.2 + i) then none else some (g.key c.1 (c.2 + i), n)

/-- What is held of a stripe from a walker. -/
def State.sumOf (s : State) (stripe src : Nat) : StripeSum :=
  (s.fab.sums.find? fun e => e.stripe == stripe && e.src == src).getD { stripe := stripe, src := src }

/-- Hold a stripe's chunks; once CHUNKS of them give the CRC of DENS_END, the stripe is added. -/
def State.putSum (s : State) (e : StripeSum) : State :=
  let rest := s.fab.sums.filter fun x => !(x.stripe == e.stripe && x.src == e.src)
  let h := s.rd Reg.SRV_STAT_HANDLE
  let g := s.geo h
  let whole := match e.total with
    | some (n, crc) => e.chunks.length == n && crc32c.of e.chunks.flatten == crc
    | none => false
  if whole then
    ({ s with fab := { s.fab with sums := rest } } : State).addStripe h g e.stripe (e.chunks.flatMap (chunkSums g))
  else { s with fab := { s.fab with sums := rest ++ [e] } }

/-- A shared survey walks, and a payload carries its SID. -/
def State.sidMatches (s : State) (p : List Byte) : Bool :=
  s.srv.shared && s.rd Reg.SRV_STAT_PHASE == 1 && leAt p 0 4 == s.srv.sid

/-- A DENS chunk arrives (R411). -/
def State.densIn (s : State) (src : Nat) (p : List Byte) : State :=
  let n := leAt p 16 2
  let stripe := leAt p 4 4
  if !s.sidMatches p ∨ n = 0 ∨ 2040 < n ∨ p.length ≠ 20 + 4 * n ∨ leAt p 18 2 ≠ 0 then s.fabDrop
  else if s.srv.whole.contains stripe then s
  else
    let e := s.sumOf stripe src
    s.putSum { e with chunks := insertChunk p e.chunks }

/-- A DENS_END arrives (R411). -/
def State.densEndIn (s : State) (src : Nat) (p : List Byte) : State :=
  let stripe := leAt p 4 4
  if !s.sidMatches p ∨ p.length ≠ 16 then s.fabDrop
  else if s.srv.whole.contains stripe then s
  else s.putSum { s.sumOf stripe src with total := some (leAt p 8 4, leAt p 12 4) }

/-- DENS_NAK_TIMER (R411): a stripe that is not complete is asked of its walker again. -/
def execDensNakTimer (stripe : BitVec 16) (s : State) : Host.Outcome State Fault Refusal :=
  match s.fab.sums.find? fun e => e.stripe == stripe.toNat with
  | some e => done (if s.srv.shared && !s.srv.whole.contains e.stripe then
      s.fabricSend 0x32 e.src 16 (leBytes 4 s.srv.sid ++ leBytes 4 e.stripe) else s)
  | none => done s

/-- A DENS_NAK arrives (R411): the stripe is sent again from the partial sums kept. -/
def State.densNakIn (s : State) (p : List Byte) : State :=
  let g := s.geo (s.rd Reg.SRV_STAT_HANDLE)
  if !s.srv.shared ∨ leAt p 0 4 ≠ s.srv.sid then s.fabDrop
  else match s.srv.parts.find? fun e => e.stripe == leAt p 4 4 && e.walked == g.sq with
    | some e => s.sendStripe g e.stripe e.acc
    | none => s

/-- A MAPCRC arrives (R412): compared at once, or kept until the module's own is known. -/
def State.mapCrcIn (s : State) (p : List Byte) : State :=
  let sid := leAt p 0 4
  if sid ≠ s.srv.sid ∨ (!s.srv.shared ∧ s.fab.ownCrc.isNone) then s.fabDrop
  else
    let t : State := { s with fab := { s.fab with mapCrcs := (sid, leAt p 4 8) :: s.fab.mapCrcs } }
    match s.fab.ownCrc with
    | some c => t.mapCrcCheck sid c
    | none => t

/-! ### Time (R413) -/

/-- The time parent: the next hop towards address 0. -/
def State.timeParent (s : State) : Option Nat :=
  if s.bit (Reg.FAB_ROUTE_VALID 0) && s.rd Reg.FAB_STAT_ADDR != 0 then some (s.rd (Reg.FAB_ROUTE_NEXT 0)) else none

/-- TREQ_SEND (R413): t1 is the send stamp the MAC writes. -/
def execTreqSend (t1 : BitVec 64) (s : State) : Host.Outcome State Fault Refusal :=
  match s.timeParent with
  | some a => done (if s.fabOn then
      ({ s with fab := { s.fab with treqT1 := some t1.toNat } } : State).fabricSend 0x40 a 1 (leBytes 8 t1.toNat) else s)
  | none => done s

/-- A TREQ with its receive stamp is answered; t3 is the send stamp of the answer. -/
def State.treqIn (s : State) (src t2 t3 : Nat) (p : List Byte) : State :=
  s.fabricSend 0x41 src 1 (slice p 0 8 ++ leBytes 8 t2 ++ leBytes 8 t3)

/-- A TRSP with its receive stamp t4 gives FAB_TOFS. -/
def State.trspIn (s : State) (t4 : Nat) (p : List Byte) : State :=
  let t1 := leAt p 0 8
  if s.fab.treqT1 ≠ some t1 then s
  else
    let d := rhe (sx 64 (leAt p 8 8 + 2 ^ 64 - t1) - sx 64 (t4 + 2 ^ 64 - leAt p 16 8)) 2
    s.wr Reg.FAB_TOFS_TOFS (enc 32 (max (-(2 ^ 31 - 1)) (min (2 ^ 31 - 1) d)))

end Sys2Proof.Machine
end

