-- ==== Sys2Proof/Machine/Group.lean ====
section
/-!
DEFINITION. Motion groups (R414 to R418): what the lead and the followers send each other, and the group's stops.
-/
namespace Sys2Proof.Machine

open Sys2Proof (Agent)

/-! ### The lead's view -/

/-- FAB_MOT_STAT.READY and LOST. -/
def State.groupShow (s : State) : State :=
  let fs := s.followersNow
  s.wrs [(Reg.FAB_MOT_STAT_READY, (fs.filter fun f => f.heard && f.flag 1).length),
    (Reg.FAB_MOT_STAT_LOST, match fs.find? Follower.lost with | some f => f.addr | none => 0xFF)]

/-- The lead's fabric requests a group stop (R417). -/
def State.groupStop (s : State) : State := ((s.stopRequest rHOST).wr Reg.FAB_MOT_STAT_HELD 1).raise pFAB 8

/-- Every member is READY: HELD clears, and the fabric acts as a write of MOT_HALT_CTRL.RESUME (R417). -/
def State.groupRelease (s : State) : State :=
  let t := s.groupShow
  if t.isLead && t.bit Reg.FAB_MOT_STAT_HELD && !t.fab.held && t.groupAll (fun f => f.flag 1) then
    (t.wr Reg.FAB_MOT_STAT_HELD 0).resume
  else t

/-- Replace what the lead keeps of a follower. -/
def State.putFollower (s : State) (f : Follower) : State :=
  { s with fab := { s.fab with followers := s.fab.followers.filter (fun x => x.addr != f.addr) ++ [f] } }

/-- The lead accepts group frames only from listed followers (R416). -/
def State.fromFollower (s : State) (src : Nat) : Bool := s.isLead && decide (src < 64) && s.listed src

/-- The lead goes on to its turnaround once the last member has launched its last tick (R417). -/
def State.groupTurn (s : State) : State :=
  if s.hstate = hRUN ∨ s.hstate = hRUNUP ∨ s.hstate = hSTOPPING then s.turnStep else s

/-- An FSTAT arrives (R416, R417): a HOLD that it shows requests a stop. -/
def State.fstatIn (s : State) (src : Nat) (p : List Byte) : State :=
  if !s.fromFollower src ∨ p.length ≠ 20 then s.fabDrop
  else
    let old := s.follower src
    let f : Follower := { old with heard := true, lost := false, tick := leAt p 0 4, h := leAt p 4 4, cap := leAt p 8 4,
                                   gstripe := leAt p 12 4, flags := leAt p 16 1 }
    let t := s.putFollower f
    (if f.flag 3 && !old.flag 3 then t.groupStop else t).groupRelease.groupTurn

/-- An HREQ arrives (R416, R417): the follower is not READY until an FSTAT says so again. -/
def State.hreqIn (s : State) (src : Nat) (p : List Byte) : State :=
  if !s.fromFollower src ∨ p.length ≠ 12 then s.fabDrop
  else
    let old := s.follower src
    (s.putFollower { old with h := leAt p 0 4, flags := clrBit old.flags 1 }).groupStop.groupShow

/-- A PLAN frame arrives (R416): the lead keeps the plans of the current and the next group stripe. -/
def State.planIn (s : State) (src : Nat) (p : List Byte) : State :=
  let n := leAt p 8 2
  if !s.fromFollower src ∨ n = 0 ∨ 2040 < n ∨ p.length ≠ 32 + 4 * n then s.fabDrop
  else
    let g := leAt p 0 4
    let j0 := leAt p 4 4
    let fl := leAt p 10 1
    let old := s.follower src
    let cur := s.curGstripe
    let e := (old.plans.find? fun x => x.gstripe == g).getD { gstripe := g, align := none, tq := [] }
    let tq := (List.range n).map fun i => (j0 + i, leAt p (32 + 4 * i) 4)
    let al : Align := { dir := bits fl 1 1, a := leAt p 11 1, g := leAt p 12 2, nt := leAt p 16 4, y0 := sx 64 (leAt p 20 8) }
    let e' : GroupPlan := { e with align := if fl.testBit 0 then some al else e.align
                                   tq := (e.tq.filter fun x => !tq.any fun y => y.1 == x.1) ++ tq }
    let keep := ((old.plans.filter fun x => x.gstripe != g) ++ [e']).filter fun x => x.gstripe == cur || x.gstripe == (cur + 1) % 2 ^ 32
    (s.putFollower { old with plans := keep }).alignCheck

/-- The MSTAT frame of this microsecond (R416). -/
def State.mstatBytes (s : State) : List Byte :=
  let rest := s.mot.ax.ended && s.mot.ay.ended
  leBytes 1 (s.hstate + if rest then 8 else 0) ++ [0, 0, 0] ++ leBytes 4 s.tickNext ++ leBytes 4 s.curGstripe ++ leBytes 4 0

/-- MSTAT_SEND (R415): every 1 µs the lead sends MSTAT. -/
def execMstatSend (s : State) : Host.Outcome State Fault Refusal :=
  done (if s.fabOn && s.isLead then s.fabricSend 0x50 0xFF 16 s.mstatBytes else s)

/-- A follower is lost to the lead (R418). -/
def State.memberLost (s : State) (a : Nat) : State :=
  (((s.putFollower { s.follower a with lost := true, heard := false }).setFault pFAB 2).raise pFAB 9).groupStop.groupShow

/-- MEMBER_LOST (R418): the lead has had no FSTAT from a follower for 100 µs. -/
def execMemberLost (addr : BitVec 6) (s : State) : Host.Outcome State Fault Refusal :=
  done (if s.live pFAB && s.fromFollower addr.toNat && !(s.follower addr.toNat).lost then s.memberLost addr.toNat else s)

/-! ### A follower's part -/

/-- The tick that a member's READY looks at: its h. -/
def State.memberH (s : State) : Nat := if s.mot.hFixed ∨ s.hstate = hTURN then s.mot.hTick else s.tickNext

/-- READY (R415). -/
def State.memberReady (s : State) : Bool :=
  s.reasons == 0 && s.posState == psVALID && s.allocHolds s.memberH && !s.fab.held

/-- DONE: tick N_t − 1 of the current stripe has been launched. -/
def State.memberDone (s : State) : Bool :=
  match s.cur with | some (w, p) => decide (nTicks w.length p.k p.a ≤ p.launched) | none => false

/-- A follower's cap, min(v_therm, v_late) in 1/4,096 count per µs; all ones where neither limits (R415). -/
def State.memberCap (s : State) : Nat :=
  let late := match s.cur, s.mot.samples with
    | some (w, p), k :: _ => if s.bit Reg.MOT_HALT_STAT_SLOW_LATE then some (s.vEnv w p k.y * s.rd Reg.MOT_PLAN_CFG_LATE_FRAC / 256) else none
    | _, _ => none
  match s.mot.vTherm, late with
  | some a, some b => (min a b / 256).toNat
  | some a, none => (a / 256).toNat
  | none, some b => (b / 256).toNat
  | none, none => 0xFFFFFFFF

/-- The FSTAT frame of this moment (R416). -/
def State.fstatBytes (s : State) : List Byte :=
  leBytes 4 s.tickNext ++ leBytes 4 (s.rd Reg.MOT_HALT_TICK_TICK) ++ leBytes 4 s.memberCap ++ leBytes 4 s.curGstripe ++
    leBytes 1 ((if s.suppressed then 1 else 0) + (if s.memberReady then 2 else 0) + (if s.memberDone then 4 else 0) +
      (if s.fab.held then 8 else 0)) ++ [0, 0, 0]

/-- Send FSTAT to the lead. -/
def State.sendFstat (s : State) : State := s.fabricSend 0x51 (s.rd Reg.FAB_MOT_LEAD) 16 s.fstatBytes

/-- FSTAT_SEND (R415). -/
def execFstatSend (s : State) : Host.Outcome State Fault Refusal :=
  done (if s.fabOn && s.isFollower then s.autoClear.sendFstat else s)

/-- The lead is at rest in STOPPING (R414): a follower fixes its own h and suppresses ticks. -/
def State.followerRest (s : State) : State :=
  let t := s.wr Reg.MOT_POS_STAT_SUPPRESS 1
  match s.cur with
  | none => t
  | some (w, p) =>
    if s.mot.hFixed then t
    else
      let h := s.tickNext
      ((t.wr Reg.MOT_HALT_TICK_TICK h).modSeg w.seq (segOfTick w p h) fun c => { c with halts := c.halts + 1 }).modMot fun m =>
        { m with hTick := h, hFixed := true, writing := false, afterHalt := true, predicted := none, due := false, high := none }

/-- An MSTAT arrives (R414, R416): the follower adopts HSTATE and sets or clears SUPPRESS; an abandonment asked for
completes in WAITING (R274). -/
def State.mstatIn (s : State) (src : Nat) (p : List Byte) : State :=
  if !s.isFollower ∨ src ≠ s.rd Reg.FAB_MOT_LEAD ∨ p.length ≠ 16 then s.fabDrop
  else
    let st := leAt p 0 1
    let h := st % 8
    let t : State := { s.wr Reg.MOT_HALT_STAT_HSTATE h with fab := { s.fab with leadStripe := leAt p 8 4, leadLost := false } }
    if h = hSTOPPING ∧ st.testBit 3 then t.followerRest
    else if h = hRUNUP then
      let u := t.wr Reg.MOT_POS_STAT_SUPPRESS 0
      if s.hstate = hRUNUP then u
      else (if u.reasons = 0 then u.wr Reg.MOT_HALT_TICK_TICK 0xFFFFFFFF else u).modMot fun m => { m with high := none }
    else if h = hWAITING ∧ t.reasons.testBit rABANDON then t.abandon t.mot.hTick
    else t

/-- LEAD_LOST (R418): a follower has had no MSTAT for 100 µs. -/
def execLeadLost (s : State) : Host.Outcome State Fault Refusal :=
  if s.live pFAB && s.isFollower && !s.fab.leadLost then
    let t := ((({ s with fab := { s.fab with leadLost := true } } : State).setFault pFAB 1).raise pFAB 9).stopRequest rHOST
    done (t.wr Reg.MOT_POS_STAT_SUPPRESS 1)
  else done s

/-! ### FAB_MOT_CTRL (R417) -/

/-- What a write of FAB_MOT_CTRL.STOP does: HOLD is held, and the lead requests a stop. -/
def State.groupHold (s : State) : State :=
  let t : State := { s with fab := { s.fab with held := true } }
  if s.isLead then t.groupStop.groupShow else if s.isFollower then t.sendFstat else s

/-- What a write of FAB_MOT_CTRL.GO does: HOLD is released, and on a follower the reasons whose conditions have ended
clear as RESUME clears them, since software may not write RESUME there (DEDUCED, log entry 37). -/
def State.groupGo (s : State) : State :=
  let t : State := { s with fab := { s.fab with held := false } }
  if s.isLead then t.groupRelease else if s.isFollower then t.resume.sendFstat else s

/-- FAB_MOT_STOP (R417). -/
def execFabMotStop (agent : Agent) (s : State) : Host.Outcome State Fault Refusal := done (s.newWork agent pFAB State.groupHold)

/-- FAB_MOT_GO (R417). -/
def execFabMotGo (agent : Agent) (s : State) : Host.Outcome State Fault Refusal := done (s.newWork agent pFAB State.groupGo)

/-- MEMBERSHIP_SETTLED (R404, R405, R418): a listed follower whose address is no longer a member's is lost to the lead. -/
def execMembershipSettled (s : State) : Host.Outcome State Fault Refusal :=
  if s.fabOn && s.maySettle then
    let t := s.settleMembers
    let gone := (List.range 64).filter fun a => t.fromFollower a && !(t.follower a).lost && (t.follower a).heard &&
      !(t.fab.members.any fun e => e.2 == a)
    done (gone.foldl State.memberLost t)
  else done s

end Sys2Proof.Machine
end

