-- ==== Sys2Proof/Machine/Led.lean ====
section
/-!
DEFINITION. The write ledger's ring, its enable and its flush (R465, R472 to R478), with the meanings of its commands.
-/
namespace Sys2Proof.Machine

open Sys2Proof (Agent)

/-- The ring lies in the last region above the survey workspace (R465). -/
def State.ringFits (s : State) : Bool :=
  decide (s.wsEnd ≤ s.rd Reg.LED_CFG_BASE * mib) && decide (s.rd Reg.LED_CFG_BASE * mib + 256 * s.ringCap ≤ hbmSize)

/-- LEDGER_RECORD_WRITE (R465, R472): the oldest staged record lands in the ring, if the ring has space and its stack
answers. EVT_RAW[2] marks a ring that has become 75% full. -/
def execLedgerRecordWrite (s : State) : Host.Outcome State Fault Refusal :=
  match s.led.staging with
  | [] => done s
  | r :: rest =>
    let n := s.rd Reg.LED_WR_LSEQ
    let a := s.ringAddr n
    if s.live pLED = false ∨ s.ringCap ≤ s.ringUsed ∨ ((wordsOf a 256).all fun c => s.stackReady (stackOf c)) = false then done s
    else
      let t : State := { s.hbmStore a r with led := { s.led with staging := rest } }
      let u := (t.wr Reg.LED_WR_LSEQ (n + 1)).ledShow
      done (u.raiseIf (decide (4 * s.ringUsed < 3 * s.ringCap) && decide (3 * s.ringCap ≤ 4 * u.ringUsed)) pLED 2)

/-- What a write of LED_RD does (R476): records up to the one it names are freed; a value that is not from LED_RD to
LED_WR is discarded. -/
def State.ledRdWrite (s : State) (v : Nat) : State :=
  if s.ringUsed < (v + 2 ^ 32 - s.rd Reg.LED_RD_LSEQ) % 2 ^ 32 then s.raise pLED 31 else s.wr Reg.LED_RD_LSEQ v

/-- LED_RD_WRITE (R476). -/
def execLedRdWrite (agent : Agent) (value : Word) (s : State) : Host.Outcome State Fault Refusal :=
  done (s.access agent pLED fun s => s.ledRdWrite value.toNat)

/-! ### Enable and flush (R474, R475) -/

/-- n bytes of the cellar. -/
def State.cellarBytes (s : State) (a n : Nat) : List Byte :=
  (List.range (n / 4)).flatMap fun i => leBytes 4 (s.rd (Reg.cellar (a + 4 * i)))

/-- Some word of the flush header is uncorrectable. -/
def State.headerBad (s : State) : Bool := s.pwr.cellarBad.any fun a => decide (a < 0x100)

/-- CHAIN of the latest CLOSE record that the cellar holds, or 48 zero bytes. -/
def State.cellarClose (s : State) (next : Nat) : List Byte :=
  match (List.range 63).find? fun i => i < next && (let r := s.cellarBytes (0x100 + 256 * ((next - 1 - i) % 63)) 8
      leAt r 0 1 == 3 && leAt r 4 4 == next - 1 - i) with
  | some i => s.cellarBytes (0x100 + 256 * ((next - 1 - i) % 63) + 0xD0) 48
  | none => List.replicate 48 0

/-- The LED page is enabled (R475): the ledger continues from a header of this generation, closing a stripe that a reset
has interrupted, or starts at 0 with a zero chain. The header holds neither the number of SEG records nor the time stamps
that a CLOSE record carries: they are free values. LED_WR and LED_RD of a page that comes from reset start at NEXT
(DEDUCED, log entry 38). -/
def State.ledStart (s : State) : State :=
  let h := s.cellarBytes 0 0x50
  if s.headerBad ∨ leAt h 0 4 ≠ 0x4644454C ∨ leAt h 4 4 ≠ s.rd Reg.RCK_CELLAR_STAT_GEN then
    ({ s with led := { s.led with staging := [], next := 0, chain := List.replicate 48 0, lastClose := List.replicate 48 0,
                                  openSeq := [], pendMaps := [] } }.wrs [(Reg.LED_WR_LSEQ, 0), (Reg.LED_RD_LSEQ, 0)]).ledShow
  else
    let next := leAt h 8 4
    let fresh := s.led.next != next
    let s0 := if fresh then s.wrs [(Reg.LED_WR_LSEQ, next), (Reg.LED_RD_LSEQ, next)] else s
    let s1 : State := { s0 with led := { s0.led with next := next, chain := slice h 0x18 48, openSeq := [],
                                                     lastClose := if fresh then s0.cellarClose next else s0.led.lastClose } }
    let s2 := (List.range 12).foldl (fun u i => u.wr (Reg.LED_CHAIN_CHAIN i) (leAt h (0x18 + 4 * i) 4)) s1
    if (leAt h 0xC 4).testBit 0 then
      let d0 := s2.draw
      let d1 := d0.2.draw
      let d2 := d1.2.draw
      let t := d2.2.record 3 0 (leAt h 0x48 2) (leAt h 0x4A 2)
        (leBytes 4 (leAt h 0x4C 4) ++ leBytes 4 d0.1 ++ leBytes 1 2 ++ leBytes 3 0 ++ leBytes 4 0 ++ leBytes 8 d1.1 ++ leBytes 8 d2.1) false
      (({ t with led := { t.led with lastClose := t.led.chain } }.raise pLED 1).raise pLED 5).ledShow
    else s2.ledShow

/-- The flush at the assertion of a module reset (R474): TIME and TICK, or STALE while the integrity island does not run. -/
def State.ledFlush (s : State) : State :=
  if s.inReset pLED then s.wr (Reg.cellar 0xC) (setBit (s.rd (Reg.cellar 0xC)) 1)
  else (s.cellarPut 0x10 (leBytes 8 s.now)).cellarPut 0x4C (leBytes 4 s.lastLaunched)

/-- What a block reset of the LED page does to what its registers do not hold: the staging, the chain and the open stripes
are lost. The counts that the stripes in hand have gathered belong to their travellers and stay. -/
def State.ledReset (s : State) : State :=
  { s with led := { segs := s.led.segs, memLoss := s.led.memLoss.map fun _ => (0, 0), owed := s.led.owed } }

end Sys2Proof.Machine
end

