-- ==== Sys2Proof/Machine/Reset.lean ====
section
/-!
DEFINITION. Islands, and what resets do: the block reset of a page, the island reset, the wide reset of a module reset, and
the release of pages (R17, R62 to R64, R423, R428 to R430, R523 to R526). With the meanings of the page-state commands.
-/
namespace Sys2Proof.Machine

open Sys2Proof (Agent)

/-! ### Islands (R17, R447) -/

/-- The island of a page (R17), by the numbers of R447. -/
def Page.island (p : Page) : Nat :=
  match p.block with
  | .ing | .exp => 0
  | .ras | .cmp => 1
  | .srv | .cor => 2
  | .alc | .pak => 3
  | .mem => 4 + p.inst
  | .mot => 8
  | .tim => 9
  | .hst | .dma => 10
  | .net | .fab => 11
  | .ary => 12
  | .chk | .led => 13
  | .ink | .lcy => 14
  | .rck | .glb => 15
  | .qlk => 16 + p.inst / 4

/-- The pages of an island. -/
def islandPages (i : Nat) : List Page := allPages.filter fun p => p.island == i

/-- The island's reference clock is present; two islands run from the on-die oscillator (R17, R429). -/
def State.refPresent (s : State) (i : Nat) : Bool :=
  if i = 14 ∨ i = 15 then true else if i = 10 then s.pwr.ref100 else s.pwr.ref156

/-- A bit of the pair RCK_ISL_LOCK, or of RCK_ISL_TMO. -/
def State.islandBit (s : State) (lo hi : Fld) (i : Nat) (v : Bool) : State :=
  let f := if i < 32 then lo else hi
  s.wr f (if v then setBit (s.rd f) (i % 32) else clrBit (s.rd f) (i % 32))

/-- RCK_ISL_LOCK of an island. -/
def State.setLock (s : State) (i : Nat) (v : Bool) : State := s.islandBit Reg.RCK_ISL_LOCK_LO_LOCK Reg.RCK_ISL_LOCK_HI_LOCK i v

/-- RCK_ISL_TMO of an island (R430). -/
def State.setTmo (s : State) (i : Nat) (v : Bool) : State := s.islandBit Reg.RCK_ISL_TMO_LO_TMO Reg.RCK_ISL_TMO_HI_TMO i v

/-- An island has timed out and has not been released since (R430). -/
def State.timedOut (s : State) (i : Nat) : Bool :=
  if i < 32 then (s.rd Reg.RCK_ISL_TMO_LO_TMO).testBit i else (s.rd Reg.RCK_ISL_TMO_HI_TMO).testBit (i - 32)

/-! ### What a block reset loses (R423, R428) -/

/-- An address lies in a page. -/
def Page.holds (p : Page) (a : Nat) : Bool := decide (p.base ≤ a) && decide (a < p.base + p.block.pageSize)

/-- Every header and block register of a page to its reset value: STATE is RESET, ENABLE and QUIESCE are at their reset
values, PEND_EN is 0 (R62, R63). -/
def State.clearPage (s : State) (p : Page) : State := { s with regs := s.regs.clear p.holds }

/-- Clear a page but for some fields. -/
def State.clearKeeping (s : State) (p : Page) (keep : List Fld) : State :=
  (s.clearPage p).wrs (keep.map fun f => (f, s.rd f))

/-- The status fields of ING that show the state R523 keeps. -/
def ingKept : List Fld :=
  [Reg.ING_WB_QSTAT_NEXT_SEQ, Reg.ING_WB_QSTAT_HOLD, Reg.ING_WB_QSTAT_STOPPED, Reg.ING_WB_QSTAT_ARMED, Reg.ING_WB_QSTAT_DEPTH,
   Reg.ING_WB_CUR_SEQ, Reg.ING_WB_CUR_STRIPE, Reg.ING_WB_SEG_SEG, Reg.ING_IFS_STAT_STREAM]

/-- A block reset of ING (R523): an open repair and an open delivery end; what has been accepted stays. -/
def State.resetIng (s : State) : State :=
  let s1 := match s.ing.repair with | some r => s.endRepair r | none => s
  let s2 := match s1.ing.delivery with | some d => s1.endDelivery d | none => s1
  s2.clearKeeping pING ingKept

/-- A block reset of EXP_n: the band in hand is dispatched again. -/
def State.resetExp (s : State) (n : Nat) : State :=
  ({ s with ing := { s.ing with expanders := setAt s.ing.expanders n {} } } : State).clearPage ⟨.exp, n⟩

/-- An SRV operation in progress ends as ABORT ends it, without a further word (R194); a repair in progress starts again. -/
def State.srvDropped (s : State) : State := (if s.surveyBusy then s.srvAborted else s).modSrv fun v => { v with repair := none }

/-- A block reset of COR: the descriptors, the dose-class table, the short-range kernel and the count of slices return to
their reset values (R186, R198, R202, R205). -/
def State.resetCor (s : State) : State :=
  let t := s.srvDropped.modSrv fun v =>
    { v with damaged := [], repaired := [], redo := [], coarse := [], retired := [], failed := [] }
  { t with regs := t.regs.clear fun a => (Page.holds pCOR a) || (decide (0x1300000 ≤ a) && decide (a < 0x1301000)) ||
      (decide (0x1312000 ≤ a) && decide (a < 0x1312064)) }

/-- A block reset of SRV: the proximity and fogging kernels return to their reset values (R186, R205). -/
def State.resetSrv (s : State) : State :=
  let t := s.srvDropped
  { t with regs := t.regs.clear fun a => (Page.holds pSRV a) || (decide (0x1310000 ≤ a) && decide (a < 0x1312000)) }

/-- A block reset of an engine: it leaves its pair or its vote at once (R175). -/
def State.resetRas (s : State) (e : Nat) : State :=
  let p := s.rd (Reg.RAS_ROLE_PAIR e)
  let t := if (s.role e = roleA ∨ s.role e = roleB) ∧ s.inServ p then (s.setRole e roleNONE 0x1F).reform p [e] else s.dropVoter e
  ((t.modRas fun r => { r with leaving := r.leaving.filter (· != e), decay := r.decay.filter (· != e) }).clearPage (pRAS e)).cmpShow

/-- A block reset of CMP: every tile not yet agreed is taken back, and the engines leave the pool. -/
def State.resetCmp (s : State) : State :=
  (List.range 52).foldl (fun t e => if t.role e = roleRETIRED then t else t.setRole e roleNONE 0x1F) (s.cmpReset.clearPage pCMP)

/-- A block reset of ALC (R524, R525): plans, carries, window sums and codes are lost; the banks, the itineraries, ACTIVE
and SWAP_PEND stay, and a bank copy in progress starts again. -/
def State.resetAlc (s : State) : State :=
  let t := if s.anyArmed then s.stopRequest rALLOC else s
  ({ t.clearKeeping pALC [Reg.ALC_BT_STAT_ACTIVE, Reg.ALC_BT_STAT_SWAP_PEND, Reg.ALC_BT_STAT_COPYING] with
      alc := { fired := t.alc.fired, abandonRel := s.anyArmed } } : State).bankShow

/-- A block reset of PAK: the link goes down, streams and an alignment run are lost. -/
def State.resetPak (s : State) : State :=
  let t := s.linkDown.modPak fun p => { lanes := p.lanes.map fun q => { scan := q.scan }, rx := List.replicate 4 {} ++ p.rx.drop 4 }
  (t.clearPage pPAK).calShow

/-- A block reset of QLK_n: a lane that carries a role fails first. -/
def State.resetQlk (s : State) (n : Nat) : State :=
  let t := if s.laneRole n = roDATA ∨ s.laneRole n = roSTANDBY then s.failLane n 3 else s
  ((t.modLane n fun _ => {}).clearPage (pQLK n)).countShow

/-- A block reset of ARY: transactions, the session and its gap request end. -/
def State.resetAry (s : State) : State := ({ s with ary := {} } : State).gapRelease.clearPage pARY

/-- The motion block's own state after a reset of its page: the quads count their frames on (R432). -/
def Mot.afterReset (m : Mot) : Mot := { mtxSeq := m.mtxSeq, dtxSeq := m.dtxSeq, lastWord := m.lastWord }

/-- A block reset of MOT that is not part of a module reset (R526). -/
def State.resetMot (s : State) : State :=
  (s.modMot fun m => { m.afterReset with abandonRel := s.anyArmed }).modPak (fun p => { p with rx := p.rx.take 4 ++ List.replicate 2 {} })
    |>.clearPage pMOT

/-- The fields of MEM that a reset restores from the persistent store (R428). -/
def memMaps : List Fld :=
  (List.range 4).flatMap fun n => (List.range 32).flatMap fun i => [Reg.MEM_PC_STATE n i, Reg.MEM_PC_LOGICAL n i, Reg.MEM_PC_REMAPS n i]

/-- A pseudo-channel's STATE once a copy in progress has been lost. -/
def State.mapSettled (s : State) : State :=
  (List.range 4).foldl (fun t n => (List.range 32).foldl (fun u i =>
    let st := u.pcState n i
    if st = 2 then u.wr (Reg.MEM_PC_STATE n i) 0 else if st = 3 then u.wr (Reg.MEM_PC_STATE n i) 1 else u) t) s

/-- HBM and the controller's work are lost; the remap tables and channel maps are those of the store (R341, R428). -/
def State.memForget (s : State) : State := { s with hbm := [], mem := { remaps := s.mem.remaps } }

/-- A block reset of the four MEM pages (R329, R424). -/
def State.resetMem (s : State) : State :=
  let t := (List.range 4).foldl (fun u n => u.clearPage (pMEM n)) s
  let u := (t.wrs (memMaps.map fun f => (f, s.rd f))).mapSettled.memForget
  ((List.range 4).foldl State.spareShow u).modMem fun m => { m with lossDue := true }

/-- A block reset of DMA_n (R362). -/
def State.resetDma (s : State) (n : Nat) : State :=
  ((s.dmaPageStops n).modChan n fun c => { stale := c.stale }).clearPage (pDMA n)

/-- The MSI-X table and the pending-bit array stand with the HST page (R55). -/
def State.resetHst (s : State) : State :=
  { s with regs := s.regs.clear fun a => decide (0x70000 ≤ a) && decide (a < 0x79010) }

/-- The block reset of one page: its registers and what else the block holds. A MEM page resets all four; RCK is reset only
by a power-up reset (R447). -/
def State.resetBlock (s : State) (p : Page) : State :=
  match p.block with
  | .glb => { s.clearPage p with reck := { slot0 := s.reck.slot0, slot1 := s.reck.slot1 } }
  | .rck => s
  | .lcy => s.clearPage p
  | .ink => s.clearKeeping p [Reg.INK_STATUS_BUSY]
  | .tim => { s.clearPage p with tim := {} }
  | .net => ((s.modNet p.inst fun _ => {}).clearPage p).fabShow
  | .fab => { s.clearPage p with fab := { mirror := s.fab.mirror } }
  | .hst => s.resetHst
  | .ing => s.resetIng
  | .exp => s.resetExp p.inst
  | .srv => s.resetSrv
  | .cor => s.resetCor
  | .ras => s.resetRas p.inst
  | .cmp => s.resetCmp
  | .alc => s.resetAlc
  | .pak => s.resetPak
  | .qlk => s.resetQlk p.inst
  | .ary => s.resetAry
  | .mot => s.resetMot
  | .mem => s.resetMem
  | .dma => s.resetDma p.inst
  | .chk => (s.setChk p.inst {}).clearPage p
  | .led => s.ledReset.clearPage p

/-- The reset of this page opens the permit switch (R427). -/
def Block.opensSwitch : Block → Bool
  | .glb | .mot | .alc | .pak => true
  | _ => false

/-- A block reset asserted on a page: the switch opens first where R427 says so. -/
def State.resetPage (s : State) (p : Page) : State :=
  (if p.block.opensSwitch && s.bit Reg.GLB_PERMIT_REQ then s.openSwitch.raise pGLB 4 else s).resetBlock p

/-- An island reset: every page of the island, or of all four memory controllers (R423). -/
def State.resetIsland (s : State) (i : Nat) : State :=
  if 4 ≤ i ∧ i ≤ 7 then ([4, 5, 6, 7].foldl (fun t j => t.setLock j false) s).resetPage (pMEM 0)
  else (islandPages i).foldl State.resetPage (s.setLock i false)

/-! ### The wide reset (R423, R428) -/

/-- The registers and tables a module reset clears: all but those of RCK, LCY, INK, HST and the cellar. -/
def wideAddr (a : Nat) : Bool :=
  decide (a < 0x10000) || (decide (0x40000 ≤ a) && decide (a < 0x70000)) || (decide (0x100000 ≤ a) && decide (a < 0x6000000))

/-- The receiver fields of the motion quads, which keep running (R432). -/
def motionRx : List Fld :=
  (List.range 2).flatMap fun i => [Reg.MOT_MRX_EQ_FREEZE i, Reg.MOT_MRX_EQ_CTLE i, Reg.MOT_MRX_EQ_PHASE i,
    Reg.MOT_MRX_EQ_EYE_W i, Reg.MOT_MRX_EQ_EYE_H i]

/-- Block reset on every page but RCK, LCY, INK and HST, as a module reset asserts it: every layout, map, stripe and table
is gone, and so is all of HBM. Remap tables, channel maps, the reckoning buffer, the fabric mirror and the endpoint's
configuration stay (R428, R432, R524). -/
def State.resetWide (s : State) : State :=
  let t : State := { s with regs := s.regs.clear wideAddr }
  let u : State := { t.wrs ((memMaps ++ motionRx).map fun f => (f, s.rd f)) with
    reck := { slot0 := s.reck.slot0, slot1 := s.reck.slot1 }
    mot := s.mot.afterReset, ing := {}, alc := {}, ary := {}, led := {}, tim := {}, net := [{}, {}]
    pak := { rx := List.replicate 4 {} ++ s.pak.rx.drop 4 }
    fab := { mirror := s.fab.mirror }
    dma := { s.dma with chans := s.dma.chans.map fun c => { stale := c.stale + c.reqs.length } }
    chk := List.replicate 8 {} }
  (List.range 4).foldl State.spareShow u.mapSettled.memForget

/-- The pages a module reset puts into RESET (R423). -/
def Block.inModuleReset : Block → Bool
  | .rck | .lcy | .ink | .hst => false
  | _ => true

/-! ### Running conditions and work in hand (R63) -/

/-- The page has work in hand, which QUIESCING and STOPPING wait for. -/
def State.workInHand (s : State) (p : Page) : Bool :=
  match p.block with
  | .ing => s.ing.delivery.isSome || s.ing.repair.isSome || s.anyArmed || s.surveyBusy ||
      s.ing.travellers.any fun t => t.state != .free && t.survey
  | .exp => match s.ing.expanders[p.inst]? with | some x => x.work.isSome | none => false
  | .srv => s.rd Reg.SRV_STAT_PHASE != 0
  | .cor => s.anyArmed || s.surveyBusy
  | .ras => s.engineBusy p.inst
  | .cmp => s.ras.tiles.any fun t => t.place != .agreed && t.place != .taken
  | .alc | .pak => s.anyArmed
  | .qlk => s.laneRole p.inst == roDATA
  | .ary => s.bit Reg.ARY_PASS_CTRL_BUSY || s.ary.session.isSome || s.bit Reg.ARY_HK_RES_BUSY
  | .mot => s.anyArmed || s.mot.trajectory
  | .dma => s.dstate p.inst != dIDLE
  | .chk => !(s.chkUnit p.inst).queue.isEmpty
  | .led => !s.led.staging.isEmpty
  | .ink => s.bit Reg.INK_STATUS_BUSY
  | .glb | .rck | .lcy | .tim | .net | .fab | .hst | .mem => false

/-- The start condition of a page that has just come into IDLE (R63). -/
def State.startPage (s : State) (p : Page) : State :=
  match p.block with
  | .glb | .lcy | .hst | .exp | .dma => s
  | .rck | .tim => s.setRunning p true
  | .ink => s.setRunning p (s.bit Reg.INK_STATUS_BUSY)
  | .net => (s.setRunning p (s.rd (Reg.NET_CFG_MODE p.inst) != 0)).fabShow
  | .fab => s.fabShow
  | .ing => s.ingShow
  | .srv => s.nextRepair.armShow
  | .cor => s.srvShow.armShow
  | .ras => s.joinPool p.inst
  | .cmp => s.formPairs
  | .alc | .mot => s.armShow
  | .pak => s.armShow.linkFollow
  | .qlk => s.setRunning p (s.laneRole p.inst == roDATA)
  | .ary => s.aryShow
  | .mem => s.memStart p.inst
  | .chk => s.chkShow p.inst
  | .led => (s.setRunning p true).ledStart

/-- QUIESCE = 1 acts on a page in IDLE or RUNNING (R63). -/
def State.applyQuiesce (s : State) (p : Page) : State :=
  if s.bit (Hdr.quiesce p) = false then s
  else if s.pstate p = stIDLE then s.wr (Hdr.state p) stQUIESCED
  else if s.pstate p = stRUNNING then s.wr (Hdr.state p) stQUIESCING
  else s

/-- A page comes into IDLE. -/
def State.enterIdle (s : State) (p : Page) : State := ((s.wr (Hdr.state p) stIDLE).startPage p).applyQuiesce p

/-- A page leaves RELEASING or STOPPING: for IDLE where an enable is pending or ENABLE is 1, else for OFF (R63, R64). -/
def State.comeUp (s : State) (p : Page) : State :=
  let t := s.wrs [(Hdr.pendRel p, 0), (Hdr.pendEn p, 0)]
  if s.bit (Hdr.pendEn p) ∨ s.bit (Hdr.enable p) then t.enterIdle p else t.wr (Hdr.state p) stOFF

/-- A page's block reset is released (R63). -/
def State.releasePage (s : State) (p : Page) : State :=
  if s.pstate p = stRESET then s.wrs [(Hdr.resetReq p, 0), (Hdr.state p, stRELEASING), (Hdr.pendRel p, 1)] else s

/-- An island's pages are released. -/
def State.releaseIsland (s : State) (i : Nat) : State := (islandPages i).foldl State.releasePage (s.setTmo i false)

/-- A page may leave RESET at present: the boot has ended, no module reset holds it, PERST_N does not hold it, and no
requested reset of it is running. -/
def State.mayRelease (s : State) (p : Page) : Bool :=
  (s.pwr.booted || p.island == 14 || p.island == 10) && !(s.modReset && p.block.inModuleReset) &&
    !(p.island == 10 && s.pwr.perstRst) && !s.bit (Hdr.resetReq p)

/-- Release those pages of an island that nothing else holds. -/
def State.releaseFree (s : State) (i : Nat) : State :=
  (islandPages i).foldl (fun t p => if s.mayRelease p then t.releasePage p else t) (s.setTmo i false)

/-- The release of a power-up or module reset is complete once no page is RELEASING (R431, R432). -/
def State.releaseShow (s : State) : State :=
  if s.pwr.phaseLow ∧ s.pwr.booted ∧ s.modReset = false ∧ (allPages.any fun p => s.pstate p == stRELEASING) = false then
    ({ s with pwr := { s.pwr with phaseLow := false } } : State).raise pRCK 0
  else s

/-! ### The page-state commands (R63, R64) -/

/-- A page exists. -/
def Page.ok (p : Page) : Bool := decide (p.inst < p.block.instances)

/-- The pages whose shut-down does something of its own. -/
def State.beginShutdown (s : State) (p : Page) : State :=
  match p.block with
  | .dma => s.dmaPageStops p.inst
  | .ras => s.leaveEngine p.inst
  | .pak => s.linkFollow
  | .net => s.fabShow
  | _ => s

/-- ENABLE = 0 for MEM is refused while ALC, ING or SRV runs (R345). -/
def State.memHeld (s : State) : Bool := [pALC, pING, pSRV].any fun p => s.running p

/-- A write of PAGE_CTRL.ENABLE (R63, R64). -/
def State.enableWrite (s : State) (p : Page) (v : Bool) : State :=
  if v then
    if p.block = .led ∧ s.bit (Hdr.enable p) = false ∧ s.ringFits = false then s.raise p 31
    else
      let t := s.wr (Hdr.enable p) 1
      let st := s.pstate p
      if st = stOFF then t.enterIdle p
      else if st = stSTOPPING ∨ st = stRESET ∨ st = stRELEASING then t.wr (Hdr.pendEn p) 1
      else t
  else if p.block = .mem ∧ 3 ≤ s.pstate p ∧ s.memHeld then s.raise p 31
  else
    let t := s.wrs [(Hdr.enable p, 0), (Hdr.pendEn p, 0)]
    let st := s.pstate p
    if st = stIDLE ∨ st = stRUNNING ∨ st = stQUIESCING ∨ st = stQUIESCED then (t.wr (Hdr.state p) stSTOPPING).beginShutdown p else t

/-- A write of PAGE_CTRL.QUIESCE (R63). -/
def State.quiesceWrite (s : State) (p : Page) (v : Bool) : State :=
  let t := s.wr (Hdr.quiesce p) (if v then 1 else 0)
  if v then t.applyQuiesce p else if s.pstate p = stQUIESCED then t.enterIdle p else t

/-- The greatest GEN of a valid bank. -/
def Ink.gen0 (k : Ink) : Nat := match k.bank0 with | some b => b.gen | none => 0
def Ink.gen1 (k : Ink) : Nat := match k.bank1 with | some b => b.gen | none => 0

/-- A commit writes the bank that holds the smaller GEN (R438); a bank that is not valid counts as holding none, and of two
such banks bank 0 is taken. -/
def Ink.writesFirst (k : Ink) : Bool := decide (k.gen0 ≤ k.gen1)

/-- A commit in progress is cut short: the bank it was writing is not valid (R438). -/
def Ink.bankLost (k : Ink) : Ink :=
  { k with commit := none, bank0 := if k.writesFirst then none else k.bank0, bank1 := if k.writesFirst then k.bank1 else none }

/-- The innkeeper goes down: it restarts, or stays halted, with its page in RESET (R84, R423, R425). A commit in progress
leaves its bank invalid (R438); a passport load in hand is lost. -/
def State.inkDown (s : State) : State :=
  let t : State := { (s.resetBlock pINK).wr Reg.INK_STATUS_INK_DOWN 1 with
    ink := { s.ink with lcCmd := false }
    ary := { s.ary with inkLost := s.bit Reg.ARY_PASS_CTRL_BUSY } }
  match s.ink.commit with
  | none => t
  | some k =>
    { t with ink := { t.ink.bankLost with queue := if k = .host then t.ink.queue else k :: t.ink.queue } }

/-- The innkeeper restarts, from the slot that a firmware commit has chosen or from the one that runs (R423, R463). -/
def State.inkRestart (s : State) : State :=
  let t := s.inkDown
  let run := s.ink.next.getD s.ink.running
  ({ t with ink := { t.ink with running := run, next := none, fresh := s.ink.fresh || s.ink.next.isSome } } : State).releasePage pINK

/-- A write of PAGE_CTRL.RESET_REQ (R63, R425, R430, R446). -/
def State.resetReqWrite (s : State) (p : Page) : State :=
  if p.block = .rck then s
  else if p.block = .ink then
    ({ s with pwr := { s.pwr with wds := [], inkHalted := false } } : State).inkRestart
  else if s.pstate p = stRESET then
    if s.timedOut p.island = false ∨ (s.modReset ∧ p.block.inModuleReset) then s
    else (islandPages p.island).foldl (fun t q =>
      if t.pstate q = stRESET then (t.resetPage q).wr (Hdr.resetReq q) 1 else t) (s.setTmo p.island false)
  else
    let t := s.resetPage p
    if p.block = .mem then (List.range 4).foldl (fun u n => u.wr (Hdr.resetReq (pMEM n)) 1) t else t.wr (Hdr.resetReq p) 1

/-- PAGE_ENABLE (R64). -/
def execPageEnable (agent : Agent) (page : Page) (value : Bool) (s : State) : Host.Outcome State Fault Refusal :=
  done (if page.ok && s.hears agent then s.enableWrite page value else s)

/-- PAGE_QUIESCE (R63). -/
def execPageQuiesce (agent : Agent) (page : Page) (value : Bool) (s : State) : Host.Outcome State Fault Refusal :=
  done (if page.ok && s.hears agent then s.quiesceWrite page value else s)

/-- RESET_REQ (R63). -/
def execResetReq (agent : Agent) (page : Page) (s : State) : Host.Outcome State Fault Refusal :=
  done (if page.ok && s.hears agent then s.resetReqWrite page else s)

/-- BLOCK_RESET_RELEASE (R63): a requested block reset has been held for 1 µs. -/
def execBlockResetRelease (page : Page) (s : State) : Host.Outcome State Fault Refusal :=
  if page.ok && s.bit (Hdr.resetReq page) && s.refPresent page.island && (s.wr (Hdr.resetReq page) 0).mayRelease page then
    done (if page.block = .mem then (List.range 4).foldl (fun t n => (t.releasePage (pMEM n)).setTmo (4 + n) false) s
      else (s.releasePage page).setTmo page.island false)
  else done s

/-- ISLAND_LOCK_HELD (R63, R431): the island's PLL has held lock for 20 µs. The reset controller's island starts RCK, and
the innkeeper's island starts INK and LCY, before the boot. -/
def execIslandLockHeld (island : Nat) (s : State) : Host.Outcome State Fault Refusal :=
  if 41 ≤ island ∨ s.pwr.powered = false ∨ s.refPresent island = false ∨ (island = 10 ∧ s.pwr.perstRst) then done s
  else
    let t := s.setLock island true
    let u := if s.pwr.booted then t
      else if island = 15 then (if s.pstate pRCK = stRESET then t.comeUp pRCK else t)
      else if island = 14 then (t.releasePage pINK).releasePage pLCY
      else t
    done ((islandPages island).foldl (fun v p => if v.pstate p = stRELEASING then v.comeUp p else v) u).releaseShow

/-- LOCK_TIMEOUT (R63, R64): a page is still RELEASING 1 ms after its release. -/
def execLockTimeout (page : Page) (s : State) : Host.Outcome State Fault Refusal :=
  if page.ok && s.pstate page == stRELEASING then
    done ((((s.wrs [(Hdr.state page, stRESET), (Hdr.pendRel page, 0)]).raise page 30).setTmo page.island true).releaseShow)
  else done s

/-- QUIESCE_COMPLETE (R63): a page with no work in hand is QUIESCED, and IDLE again if QUIESCE has returned to 0. -/
def execQuiesceComplete (page : Page) (s : State) : Host.Outcome State Fault Refusal :=
  if page.ok = false ∨ s.workInHand page then done s
  else
    let t := if s.pstate page = stQUIESCING then s.wr (Hdr.state page) stQUIESCED else s
    done (if t.pstate page = stQUIESCED ∧ t.bit (Hdr.quiesce page) = false then t.enterIdle page else t)

/-- SHUTDOWN_COMPLETE (R63): a STOPPING page with no work in hand. -/
def execShutdownComplete (page : Page) (s : State) : Host.Outcome State Fault Refusal :=
  if page.ok && s.pstate page == stSTOPPING && !s.workInHand page then
    done ((if s.bit (Hdr.pendEn page) then s else s.wr (Hdr.enable page) 0).comeUp page)
  else done s

/-- REJOIN (R176, R180): a block reset of a retired engine, whose strike level then stands one below RETIRE; its total of
strikes is kept. -/
def State.rejoin (s : State) (n : Nat) : State :=
  if s.role n ≠ roleRETIRED then s.raise (pRAS n) 31
  else
    let t := (s.resetPage (pRAS n)).wr (Hdr.resetReq (pRAS n)) 1
    t.wrs [(Reg.RAS_STRIKES_LEVEL n, s.rd Reg.CMP_CFG_RETIRE - 1), (Reg.RAS_STRIKES_TOTAL n, s.rd (Reg.RAS_STRIKES_TOTAL n))]

/-- REJOIN (R176). -/
def execRejoin (agent : Agent) (n : Nat) (s : State) : Host.Outcome State Fault Refusal :=
  done (if 52 ≤ n then s else s.access agent (pRAS n) fun s => s.rejoin n)

end Sys2Proof.Machine
end

