-- ==== Sys2Proof/Machine/Power.lean ====
section
/-!
DEFINITION. The reset controller (chapter 19) and the thermal trip (chapter 22): supply, phases, module and PCI Express
resets, clocks, the permit line and its writes, custody, the cellar and the temperatures, with the meanings of their
commands.
-/
namespace Sys2Proof.Machine

open Sys2Proof (Agent)

/-- Change the reset controller's own state. -/
def State.modPwr (s : State) (f : Pwr → Pwr) : State := { s with pwr := f s.pwr }

/-! ### Supply (R421, R515) -/

/-- What a power-up reset leaves (R423, R428): everything at its reset value but the persistent store, the firmware slots,
the fuses, the pins, and what has been sent. A commit in progress leaves its bank invalid (R438). RCK_CELLAR_STAT.GEN counts
on over power-ups (R436). -/
def State.powerReset (s : State) (powered : Bool) : State :=
  let k := match s.ink.commit with | some _ => s.ink.bankLost | none => s.ink
  let t : State :=
    { pins := { s.pins with custody := s.pins.custodyRaw, permitLvl := false }
      out := s.out, free := s.free, pending := s.pending
      ink := { bank0 := k.bank0, bank1 := k.bank1, retired := k.retired, slots := k.slots, running := k.running, next := k.next }
      pwr := { powered := powered, vinOut := s.pwr.vinOut, rstLow := s.pwr.rstLow, overV := s.pwr.overV,
               tripped := s.pwr.tripped, tripWarn := s.pwr.tripWarn } }
  t.wr Reg.RCK_CELLAR_STAT_GEN (s.rd Reg.RCK_CELLAR_STAT_GEN + (if powered then 1 else 0))

/-- VIN_START (R421): the power stage starts, unless overvoltage or a trip keeps it off. -/
def execVinStart (s : State) : Host.Outcome State Fault Refusal :=
  done (if s.pwr.powered ∨ s.pwr.overV ∨ s.pwr.tripped then s else s.powerReset true)

/-- The switch opens, FAULT_N goes low and a stop is requested, as the power-fail warning has it (R421). -/
def State.powerWarning (s : State) : State :=
  (((s.modPwr fun p => { p with warn := true }).raise pRCK 5).settle).stopRequest rPERMIT

/-- POWER_FAIL_WARNING (R421). -/
def execPowerFailWarning (s : State) : Host.Outcome State Fault Refusal := done (if s.pwr.powered then s.powerWarning else s)

/-- WARNING_END (R421); a trip's warning ends with the power (R516). -/
def execWarningEnd (s : State) : Host.Outcome State Fault Refusal :=
  done (if s.pwr.tripped then s else s.modPwr fun p => { p with warn := false })

/-- POWER_DOWN (R421). -/
def execPowerDown (s : State) : Host.Outcome State Fault Refusal := done (if s.pwr.powered then s.powerReset false else s)

/-- OVERVOLTAGE (R421). -/
def execOvervoltage (s : State) : Host.Outcome State Fault Refusal :=
  done ((if s.pwr.powered then s.powerReset false else s).modPwr fun p => { p with overV := true })

/-- OVERVOLTAGE_END (R421): as Start. -/
def execOvervoltageEnd (s : State) : Host.Outcome State Fault Refusal :=
  if s.pwr.overV = false then done s
  else
    let t := s.modPwr fun p => { p with overV := false }
    done (if t.pwr.powered ∨ t.pwr.tripped then t else t.powerReset true)

/-- VIN_RANGE_CHANGE (R447): VIN leaves or re-enters 6 to 40 V; RCK_PWR_IN shows what is measured. -/
def execVinRangeChange (outside : Bool) (vin iin : BitVec 16) (s : State) : Host.Outcome State Fault Refusal :=
  let t := s.modPwr fun p => { p with vinOut := outside }
  if s.pwr.powered then
    let u := t.wrs [(Reg.RCK_PWR_IN_VIN, vin.toNat), (Reg.RCK_PWR_IN_IIN, iin.toNat)]
    done (if outside then u.setFault pRCK 4 else u)
  else done t

/-! ### Phases (R422) -/

/-- The number of active phases. -/
def State.phasesActive (s : State) : Nat := ((List.range 16).filter fun p => (s.rd Reg.RCK_PWR_PH_ACTIVE).testBit p).length

/-- PHASE_LOW and PHASE_CRIT. -/
def State.phaseShow (s : State) : State :=
  let t := if s.phasesActive < 14 then s.setFault pRCK 2 else s
  if s.phasesActive < 12 then t.setFault pRCK 3 else t

/-- PHASE_SWITCH_OFF (R422). -/
def execPhaseSwitchOff (p : BitVec 4) (s : State) : Host.Outcome State Fault Refusal :=
  if s.pwr.powered = false ∨ (s.rd Reg.RCK_PWR_PH_ACTIVE).testBit p.toNat = false then done s
  else done (((s.wrs [(Reg.RCK_PWR_PH_ACTIVE, clrBit (s.rd Reg.RCK_PWR_PH_ACTIVE) p.toNat),
    (Reg.RCK_PWR_PH_FAILED, setBit (s.rd Reg.RCK_PWR_PH_FAILED) p.toNat)]).raise pRCK 4).phaseShow)

/-- SPARE_PHASE_ACTIVATE (R422): the lowest spare phase, while the innkeeper runs. -/
def execSparePhaseActivate (s : State) : Host.Outcome State Fault Refusal :=
  if s.pwr.powered = false ∨ s.inkUp = false ∨ 14 ≤ s.phasesActive then done s
  else match (List.range 16).find? fun p => !(s.rd Reg.RCK_PWR_PH_ACTIVE).testBit p && !(s.rd Reg.RCK_PWR_PH_FAILED).testBit p with
    | some p => done ((s.wr Reg.RCK_PWR_PH_ACTIVE (setBit (s.rd Reg.RCK_PWR_PH_ACTIVE) p)).raise pRCK 4)
    | none => done s

/-! ### Module reset (R425, R426, R432) -/

/-- A module reset is asserted with a cause. A source that comes while one is under way makes no second reset, and LAST takes
the lower code (R446). -/
def State.modResetGo (s : State) (cause : Nat) : State :=
  if s.pwr.powered = false then s
  else if s.modReset then s.wr Reg.RCK_CAUSE_LAST (min cause (s.rd Reg.RCK_CAUSE_LAST))
  else
    let t := ((s.wr Reg.RCK_CAUSE_LAST cause).satInc Reg.RCK_CAUSE_COUNT 1).modPwr fun p => { p with modPhase := .asserted, phaseLow := true }
    (t.settle.reckon 3 0xFF).ledFlush

/-- RESET_N_FALL (R426): the switch opens and REQ clears at every falling edge; `glitch`: the pulse ends too early to reset. -/
def execResetNFall (glitch : Bool) (s : State) : Host.Outcome State Fault Refusal :=
  let t := if s.pwr.powered && s.bit Reg.GLB_PERMIT_REQ then s.openSwitch else s
  done (if glitch then (if s.pwr.powered then t.satInc Reg.RCK_CAUSE_GLITCH 1 else t)
    else { t.modPwr fun p => { p with rstLow := true } with pins := { t.pins with resetN := false } })

/-- MODULE_RESET_ASSERT (R426, R432): RESET_N has been low for 500 clocks. -/
def execModuleResetAssert (s : State) : Host.Outcome State Fault Refusal :=
  done (if s.pwr.powered && s.pwr.rstLow then (s.modPwr fun p => { p with rstLow := false }).modResetGo 2 else s)

/-- MODULE_RESET_BLOCK_ASSERT (R432): 20 µs after the assertion. -/
def execModuleResetBlockAssert (s : State) : Host.Outcome State Fault Refusal :=
  done (if s.pwr.modPhase = .asserted then s.resetWide.modPwr fun p => { p with modPhase := .blocksReset } else s)

/-- What a wipe zeroes (R428, R445): the cellar, the backup registers, the reckoning buffer and the on-die memories; GEN
counts the wipe (R436). -/
def State.wipeZero (s : State) : State :=
  let t : State := { s with
    regs := s.regs.clear fun a => decide (0x6000000 ≤ a) || (decide (0x10080 ≤ a) && decide (a < 0x100C0))
    reck := { s.reck with slot0 := [], slot1 := [] }
    fab := { s.fab with mirror := [] }
    pwr := { s.pwr with cellarBad := [] } }
  t.wr Reg.RCK_CELLAR_STAT_GEN (s.rd Reg.RCK_CELLAR_STAT_GEN + 1)

/-- Release every page that nothing else holds. -/
def State.releaseAll (s : State) : State := (List.range 41).foldl (fun t i => t.releaseFree i) s

/-- MODULE_RESET_RELEASE (R432): the source has gone and 100 µs have passed. In WIPING the wipe's steps follow: the stores
are zeroed, and the MEM pages are enabled and fill (R445). -/
def execModuleResetRelease (s : State) : Host.Outcome State Fault Refusal :=
  if s.pwr.modPhase ≠ .blocksReset then done s
  else
    let t : State := { s.modPwr fun p => { p with modPhase := .none } with pins := { s.pins with resetN := true } }
    if t.rd Reg.LCY_STATE_STATE = 0x40 then
      let u := (List.range 4).foldl (fun v n => v.enableWrite (pMEM n) true) t.wipeZero.releaseAll
      done ({ u with ink := { u.ink with wiped := true } } : State).releaseShow
    else done t.releaseAll.releaseShow

/-- A write of RCK_CTRL.MOD_RST (R425); the console speaks through the innkeeper. -/
def State.modRstWrite (s : State) (ag : Agent) (key : Nat) : State :=
  if key = 0x5253 then s.modResetGo (if ag = .host then 4 else 5) else s.raise pRCK 31

/-- MOD_RST (R425). -/
def execModRst (agent : Agent) (key : BitVec 16) (s : State) : Host.Outcome State Fault Refusal :=
  done (s.access agent pRCK fun s => s.modRstWrite agent key.toNat)

/-- A write of RCK_CTRL.INK_RST (R425): it also ends the cause of INK_HALTED. -/
def State.inkRstWrite (s : State) (key : Nat) : State :=
  if key = 0x5253 then (s.modPwr fun p => { p with wds := [], inkHalted := false, haltCause := false }).inkRestart else s

/-- INK_RST (R425). -/
def execInkRst (agent : Agent) (key : BitVec 16) (s : State) : Host.Outcome State Fault Refusal :=
  done (s.access agent pRCK fun s => s.inkRstWrite key.toNat)

/-- A write of RCK_CTRL.RETRY (R430). -/
def State.retryWrite (s : State) : State :=
  (List.range 41).foldl (fun t i => if s.timedOut i then t.releaseFree i else t) s

/-- RETRY (R430). -/
def execRetry (agent : Agent) (s : State) : Host.Outcome State Fault Refusal := done (s.access agent pRCK State.retryWrite)

/-! ### PCI Express reset (R425, R431) -/

/-- The endpoint leaves its link: HST and DMA are reset, and its configuration returns to its defaults. -/
def State.pcieReset (s : State) : State :=
  let t := s.resetIsland 10
  { t with dma := {} }

/-- PERST_N_ASSERT (R425): PERST_N has been low for 1 µs. -/
def execPerstNAssert (s : State) : Host.Outcome State Fault Refusal :=
  let t : State := { s with pins := { s.pins with perstN := false } }
  if s.pwr.powered = false ∨ s.pwr.perstRst then done t
  else
    let u := (t.raise pRCK 6).pcieReset.modPwr fun p => { p with perstRst := true }
    done (if s.bit Reg.RCK_CFG_PERST_MOD then u.modResetGo 3 else u)

/-- PERST_N_RELEASE (R431): the island is released once REFCLK100 is present. -/
def execPerstNRelease (s : State) : Host.Outcome State Fault Refusal :=
  let t : State := { s with pins := { s.pins with perstN := true } }
  if s.pwr.powered = false ∨ s.pwr.perstRst = false then done t
  else
    let u := t.modPwr fun p => { p with perstRst := false }
    done (if u.pwr.ref100 then u.releaseFree 10 else u)

/-! ### Clocks and lock (R429) -/

/-- The islands that a reference clock feeds. -/
def refIslands (pcie : Bool) : List Nat := if pcie then [10] else (List.range 41).filter fun i => i != 10 && i != 14 && i != 15

/-- REFERENCE_CLOCK_LOSS (R429); REFCLK100 is judged only while PERST_N is released. -/
def execReferenceClockLoss (pcie : Bool) (s : State) : Host.Outcome State Fault Refusal :=
  if s.pwr.powered = false ∨ (if pcie then s.pwr.lost100 || s.pwr.perstRst else s.pwr.lost156) then done s
  else if pcie then
    done (((s.modPwr fun p => { p with ref100 := false, lost100 := true }).pcieReset.wr Reg.RCK_CLK_REF100_OK 0
      |>.setFault pRCK 1).raise pRCK 1)
  else
    let t := s.modPwr fun p => { p with ref156 := false, lost156 := true }
    let u := (refIslands false).foldl (fun v i => if 5 ≤ i ∧ i ≤ 7 then v else v.resetIsland i) t
    done (((u.wr Reg.RCK_CLK_REF156_OK 0).setFault pRCK 0).raise pRCK 1)

/-- REFERENCE_CLOCK_RETURN (R429): also the first presence of a clock after power-up, which is no return. -/
def execReferenceClockReturn (pcie : Bool) (s : State) : Host.Outcome State Fault Refusal :=
  if s.pwr.powered = false ∨ (if pcie then s.pwr.ref100 else s.pwr.ref156) then done s
  else
    let t := s.modPwr fun p => if pcie then { p with ref100 := true, lost100 := false } else { p with ref156 := true, lost156 := false }
    let u := (t.wr (if pcie then Reg.RCK_CLK_REF100_OK else Reg.RCK_CLK_REF156_OK) 1).raiseIf
      (if pcie then s.pwr.lost100 else s.pwr.lost156) pRCK 2
    done ((refIslands pcie).foldl State.releaseFree u)

/-- ISLAND_LOCK_LOSS (R429): the island is reset within 100 ns, and its release begins at once. -/
def execIslandLockLoss (island : Nat) (s : State) : Host.Outcome State Fault Refusal :=
  if 41 ≤ island ∨ s.pwr.powered = false ∨ s.islandLocked island = false ∨ s.refPresent island = false ∨
      island = 14 ∨ island = 15 then done s
  else
    let t := (s.raise pRCK 3).resetIsland island
    done (if 4 ≤ island ∧ island ≤ 7 then [4, 5, 6, 7].foldl State.releaseFree t else t.releaseFree island)

/-! ### The permit switch and its line (R48, R434, R435) -/

/-- A write of GLB_PERMIT.REQ (R435). -/
def State.permitWrite (s : State) (req : Bool) : State :=
  if req then
    if s.gated then s.raise pGLB 31
    else if s.bit Reg.GLB_PERMIT_REQ then s
    else { (s.wr Reg.GLB_PERMIT_REQ 1).raise pGLB 5 with pins := { s.pins with permitLvl := true } }
  else if s.bit Reg.GLB_PERMIT_REQ then s.openSwitch else s

/-- GLB_PERMIT_WRITE (R435). -/
def execGlbPermitWrite (agent : Agent) (req : Bool) (s : State) : Host.Outcome State Fault Refusal :=
  done (s.access agent pGLB fun s => s.permitWrite req)

/-- PERMIT_CONTRADICTION (R48, R454): the line is sensed high for 2 µs with the switch open, or low again. -/
def execPermitContradiction (high : Bool) (s : State) : Host.Outcome State Fault Refusal :=
  if s.pwr.powered = false ∨ s.switchClosed then done s
  else
    let t : State := { s with pins := { s.pins with permitLvl := high } }
    done (if high then t.setFault pGLB 0 else t)

/-- PERMIT_WITHDRAWN (R48): the line is sensed low for 2 µs with the switch closed, or high again. A check run and an
alignment run in hand are spoiled (R319, R488). -/
def execPermitWithdrawn (low : Bool) (s : State) : Host.Outcome State Fault Refusal :=
  if s.pwr.powered = false ∨ s.switchClosed = false then done s
  else
    let t : State := { s with pins := { s.pins with permitLvl := !low } }
    if low = false then done t
    else
      let u : State := { t with
        ary := { t.ary with spoiled := true }
        pak := { t.pak with aln := t.pak.aln.map fun r => { r with bad := if r.bad = 0 then 2 else r.bad } } }
      done ((u.raise pGLB 1).stopRequest rPERMIT)

/-- PSUP_OK_CHANGE (R50, R434). -/
def execPsupOkChange (ok : Bool) (s : State) : Host.Outcome State Fault Refusal :=
  done { s with pins := { s.pins with psupOk := ok } }

/-! ### The cellar (R436) -/

/-- An access of the word at RCK_CELLAR_ADDR, after which ADDR advances. The innkeeper's own range is closed to the others,
and nobody writes the ledger's through this register. -/
def State.cellarAccess (s : State) (ag : Agent) (write : Option Nat) : State :=
  let a := s.rd Reg.RCK_CELLAR_ADDR_ADDR / 4 * 4
  let t := s.wr Reg.RCK_CELLAR_ADDR_ADDR (a + 4)
  let ink := decide (0x4000 ≤ a) && decide (a < 0x8000)
  match write with
  | some v =>
    if (ink && ag == .innkeeper) || (decide (0x8000 ≤ a) && ag != .innkeeper) then
      { t.wr (Reg.cellar a) v with pwr := { t.pwr with cellarBad := t.pwr.cellarBad.filter (· != a) } }
    else t.raise pRCK 31
  | none =>
    if ink && ag != .innkeeper then t.emit (.regRead 0)
    else if s.pwr.cellarBad.contains a then (t.raise pRCK 7).emit (.regRead 0xFFFFFFFF)
    else t.emit (.regRead (s.rd (Reg.cellar a)))

/-- CELLAR_DATA_ACCESS (R436): a read, or a write of a value; `upset`: the word at ADDR is found uncorrectable. -/
def execCellarDataAccess (agent : Agent) (write : Option Word) (upset : Bool) (s : State) : Host.Outcome State Fault Refusal :=
  if s.hears agent && s.inReset pRCK && write.isNone then done (s.emit (.regRead 0))
  else done (s.access agent pRCK fun s =>
    let a := s.rd Reg.RCK_CELLAR_ADDR_ADDR / 4 * 4
    (if upset ∧ s.pwr.cellarBad.contains a = false then s.modPwr fun p => { p with cellarBad := a :: p.cellarBad } else s).cellarAccess
      agent (write.map BitVec.toNat))

/-! ### Temperatures (R514 to R517) -/

/-- A temperature flag with its 2 °C of hysteresis. -/
def hotFlag (t : Int) (lim : Nat) (old : Bool) : Bool := decide (16 * (lim : Int) ≤ t) || (old && decide (16 * (lim : Int) - 32 < t))

/-- A trip (R515). -/
def State.trip (s : State) : State :=
  if s.pwr.tripped then s
  else (s.modPwr fun p => { p with tripped := true, tripWarn := s.rd Reg.RCK_THERM_LIM_LID_WARN }).powerWarning

/-- THERMAL_CHECK (R514, R515): the readings in 1/16 °C. -/
def execThermalCheck (lid die : BitVec 16) (s : State) : Host.Outcome State Fault Refusal :=
  if s.pwr.powered = false then done s
  else
    let l := lid.toInt
    let d := die.toInt
    let t := s.wrs [(Reg.RCK_THERM_LID, lid.toNat), (Reg.RCK_THERM_DIE, die.toNat),
      (Reg.RCK_THERM_LIM_LID_HOT, if hotFlag l (s.rd Reg.RCK_THERM_LIM_LID_WARN) (s.bit Reg.RCK_THERM_LIM_LID_HOT) then 1 else 0),
      (Reg.RCK_THERM_LIM_DIE_HOT, if hotFlag d 100 (s.bit Reg.RCK_THERM_LIM_DIE_HOT) then 1 else 0)]
    let nl := if 16 * (s.rd Reg.RCK_THERM_LIM_LID_TRIP : Int) ≤ l then s.pwr.tripLid + 1 else 0
    let nd := if 16 * (s.rd Reg.RCK_THERM_LIM_DIE_TRIP : Int) ≤ d then s.pwr.tripDie + 1 else 0
    let u := t.modPwr fun p => { p with tripLid := min 100 nl, tripDie := min 10 nd }
    done (if 100 ≤ nl ∨ 10 ≤ nd then u.trip else u)

/-- TRIP_POWER_STOP (R515): 10 ms after a trip. -/
def execTripPowerStop (s : State) : Host.Outcome State Fault Refusal :=
  done (if s.pwr.tripped && s.pwr.powered then s.powerReset false else s)

/-- TRIP_RESTART (R515): the power stage's lid sensor has read below the limit for 10 s; `lid` is its latest reading. -/
def execTripRestart (lid : BitVec 16) (s : State) : Host.Outcome State Fault Refusal :=
  if s.pwr.tripped = false ∨ s.pwr.powered ∨ 16 * (s.pwr.tripWarn : Int) ≤ lid.toInt then done s
  else
    let t := s.modPwr fun p => { p with tripped := false }
    done (if t.pwr.overV then t else t.powerReset true)

end Sys2Proof.Machine
end

