-- ==== Sys2Proof/Machine/Ink.lean ====
section
/-!
DEFINITION. The innkeeper: boot, restart and watchdog, the persistent store, firmware, the life cycle, the mailbox and
the calibration image (R53, R54, R82 to R85, R422, R425, R431, R437 to R445, R462 to R464, R493 to R496).
-/
namespace Sys2Proof.Machine

open Sys2Proof (Agent)

/-- Change the innkeeper's own state. -/
def State.modInk (s : State) (f : Ink → Ink) : State := { s with ink := f s.ink }

/-! ### The life cycle and custody (R440 to R445) -/

abbrev lcUNKNOWN : Nat := 0x00
abbrev lcMANUFACTURE : Nat := 0x01
abbrev lcOPEN : Nat := 0x10
abbrev lcSERVICE : Nat := 0x30
abbrev lcWIPING : Nat := 0x40
abbrev lcRETIRED : Nat := 0x50

/-- LCY_STATE.STATE. -/
def State.lcState (s : State) : Nat := s.rd Reg.LCY_STATE_STATE

/-! ### Commits (R438) -/

/-- What the 128 pseudo-channels' STATE and LOGICAL read after reset. -/
def mapsAtReset : List (Nat × Nat) :=
  (List.range 128).map fun i => if i % 32 < 30 then (0, 30 * (i / 32) + i % 32) else (1, 0x7F)

/-- The channel maps as they are now, a copy in progress not counted; none listed where they are as after reset. -/
def State.mapsNow (s : State) : List (Nat × Nat) :=
  let l := (List.range 128).map fun i =>
    let st := s.pcState (i / 32) (i % 32)
    (if st = 2 then 0 else if st = 3 then 1 else st, s.rd (Reg.MEM_PC_LOGICAL (i / 32) (i % 32)))
  if l = mapsAtReset then [] else l

/-- The image with the records the innkeeper keeps up to date: remaps, channel maps and the phase map. -/
def State.imageNow (s : State) : StoreImage :=
  { s.ink.image with remaps := s.mem.remaps, maps := s.mapsNow, active := s.rd Reg.RCK_PWR_PH_ACTIVE, failed := s.rd Reg.RCK_PWR_PH_FAILED }

/-- The valid bank with the greater GEN. -/
def Ink.newest (k : Ink) : Option StoreImage := if k.gen0 < k.gen1 then k.bank1 else if k.bank0.isSome then k.bank0 else k.bank1

/-- A record differs from the newest bank's. -/
def State.recordDue (s : State) : Bool :=
  let b := s.ink.newest.getD {}
  let i := s.imageNow
  b.remaps != i.remaps || b.maps != i.maps || b.active != i.active || b.failed != i.failed || b.slot != i.slot || b.security != i.security

/-- A commit needs no token: the first 1,000 of transitions. -/
def Ink.tokenFree (k : Ink) (c : Commit) : Bool := (c == .enter || c == .leave) && decide (k.image.moves < 1000)

/-- Take a token. -/
def Ink.takeToken (k : Ink) : Ink := { k with image := { k.image with tokens := k.image.tokens - 1 } }

/-- A commit starts, or waits for a token or for the one being made. -/
def State.commitGo (s : State) (c : Commit) : State :=
  let k := s.ink
  if k.commit.isSome then { s with ink := { k with queue := k.queue ++ [c] } }
  else if k.tokenFree c then { s with ink := { k with commit := some c } }
  else if k.image.tokens = 0 then { s with ink := { k with queue := k.queue ++ [c] } }
  else { s with ink := { k.takeToken with commit := some c } }

/-- The first waiting commit that can start does. -/
def State.commitNext (s : State) : State :=
  if s.ink.commit.isSome then s
  else match s.ink.queue.findIdx? fun c => s.ink.tokenFree c || decide (0 < s.ink.image.tokens) with
    | some i => (s.modInk fun k => { k with queue := k.queue.eraseIdx i }).commitGo (s.ink.queue.getD i .record)
    | none => s

/-! ### Transitions (R443, R445) -/

/-- A transition is accepted: WIPING is entered and committed, after which the module reset follows (R443). -/
def State.transit (s : State) (target : Nat) : State :=
  let t := s.wrs [(Reg.LCY_STATE_PREV, s.lcState), (Reg.LCY_STATE_STATE, lcWIPING), (Reg.LCY_STATE_TARGET, target), (Reg.LCY_STATE_TRANS, 1)]
  ((t.modInk fun k => { k with image := { k.image with state := lcWIPING, target := target }, wiped := false }).dmaLifeCycle).commitGo .enter

/-- The level of GLB_PINS.CUSTODY is applied to the life cycle, but not during a transition (R442); engaged custody ends
SERVICE (R443). -/
def State.custodyApply (s : State) : State :=
  let v := if s.pins.custody then 0 else 1
  if s.inReset pLCY ∨ s.bit Reg.LCY_STATE_TRANS ∨ s.rd Reg.LCY_STATE_CUSTODY = v then s
  else
    let t := (s.wr Reg.LCY_STATE_CUSTODY v).raise pLCY 1
    if v = 1 ∧ s.lcState = lcSERVICE then t.transit lcOPEN else t

/-- CUSTODY_N_CHANGE (R49): the pin changes, and its filter restarts. -/
def execCustodyNChange (level : Bool) (s : State) : Host.Outcome State Fault Refusal :=
  done { s with pins := { s.pins with custodyRaw := level } }

/-- CUSTODY_FILTER_ACCEPT (R49, R442): the pin has held its level for 10 ms. -/
def execCustodyFilterAccept (s : State) : Host.Outcome State Fault Refusal :=
  done (if s.pwr.powered then ({ s with pins := { s.pins with custody := s.pins.custodyRaw } } : State).custodyApply else s)

/-! ### The mailbox (R82 to R85) -/

/-- RING submits a command (R84). -/
def State.ring (s : State) : State :=
  if s.bit Reg.INK_STATUS_BUSY ∨ s.bit Reg.INK_STATUS_DONE ∨ s.bit Reg.INK_STATUS_INK_DOWN then s.raise pINK 1
  else (s.wr Reg.INK_STATUS_BUSY 1).setRunning pINK true

/-- RING (R83, R84). -/
def execRingDoorbell (agent : Agent) (s : State) : Host.Outcome State Fault Refusal := done (s.newWork agent pINK State.ring)

/-- A command with this operation code executes (R441: none is served in UNKNOWN). -/
def State.serving (s : State) (op : Nat → Bool) : Bool :=
  s.bit Reg.INK_STATUS_BUSY && s.inkUp && s.lcState != lcUNKNOWN && op (s.rd Reg.INK_CMD_OP)

/-- A command completes: responses, RESULT and TAG, DONE, BUSY and EVT_RAW[0], in that order (R84). -/
def State.mbDone (s : State) (result : Nat) (rsp : List Nat) : State :=
  let t := s.wrs ((List.range 16).map fun i => (Reg.INK_RSP_RSP i, rsp.getD i 0))
  ((t.wrs [(Reg.INK_STATUS_RESULT, result), (Reg.INK_STATUS_TAG, s.rd Reg.INK_CMD_TAG), (Reg.INK_STATUS_DONE, 1),
    (Reg.INK_STATUS_BUSY, 0)]).raise pINK 0).setRunning pINK false

/-- WIPING and RETIRED serve operations 0x0001 and 0x0002 only (R441). -/
def State.lcCloses (s : State) : Bool := s.lcState == lcWIPING || s.lcState == lcRETIRED

/-- Argument i. -/
def State.arg (s : State) (i : Nat) : Nat := s.rd (Reg.INK_ARG_ARG i)

/-- An operation that R441 may refuse with RESULT 0x03. -/
def State.operate (s : State) (op : Nat) (k : State → State) : State :=
  if s.serving (· == op) then (if s.lcCloses then s.mbDone 3 [] else k s) else s

/-- The listed operation codes (R85). -/
def mailboxOps : List Nat := [0x0001, 0x0002, 0x0010, 0x0011, 0x0020, 0x0030, 0x0031, 0x0040, 0x0041]

/-- UNKNOWN_OPERATION (R85). -/
def execUnknownOperation (s : State) : Host.Outcome State Fault Refusal :=
  done (if s.serving fun o => !mailboxOps.contains o then s.mbDone 1 [] else s)

/-- IDENTITY (R85, R53, R54): of an EEPROM that was not accepted SERIAL reads 0, and bytes that could not be read are free
values. -/
def execIdentity (s : State) : Host.Outcome State Fault Refusal :=
  if s.serving (· == 1) then
    let ok := !s.ink.eeprom.isEmpty
    let last := (if ok then 1 else 0) + 2 * s.ink.attempts
    let words := (List.range 12).map fun i => if !ok && decide (4 ≤ i) && decide (i < 8) then 0 else leAt s.ink.raw (4 * i) 4
    if s.ink.raw.isEmpty then
      let d := (List.range 12).map fun i => if 4 ≤ i ∧ i < 8 then 0 else Config.freeValue (s.free + i)
      done (({ s with free := s.free + 12 } : State).mbDone 0 (d ++ [last]))
    else done (s.mbDone 0 (words ++ [last]))
  else done s

/-- A firmware slot. -/
def State.slot (s : State) (i : Nat) : FwSlot := s.ink.slots.getD i {}

/-- FIRMWARE_VERSION (R85). -/
def execFirmwareVersion (s : State) : Host.Outcome State Fault Refusal :=
  done (if s.serving (· == 2) then s.mbDone 0 [(s.slot s.ink.running).version.getD Config.factoryVersion, s.ink.running] else s)

/-! ### The persistent store (R437 to R439) -/

/-- PERSISTENT_STORE_READ (R439). -/
def execPersistentStoreRead (s : State) : Host.Outcome State Fault Refusal :=
  done (s.operate 0x10 fun s =>
    let o := s.arg 0
    let n := s.arg 1
    if o % 4 ≠ 0 ∨ n % 4 ≠ 0 ∨ n < 4 ∨ 64 < n ∨ 262144 < o + n then s.mbDone 2 []
    else s.mbDone 0 ((List.range (n / 4)).map fun i => leVal (Memory.readBytes s.ink.image.user (o + 4 * i) 4)))

/-- PERSISTENT_STORE_WRITE (R439): a commit that starts holds the command until it ends; one that waits for a token is
deferred. -/
def execPersistentStoreWrite (s : State) : Host.Outcome State Fault Refusal :=
  done (s.operate 0x11 fun s =>
    let o := s.arg 0
    let n := bits (s.arg 1) 7 0
    if s.ink.commit = some .host ∨ s.ink.queue.contains .host then s
    else if o % 4 ≠ 0 ∨ 262140 < o ∨ n % 4 ≠ 0 ∨ 56 < n ∨ 262144 < o + n ∨ bits (s.arg 1) 30 8 ≠ 0 then s.mbDone 2 []
    else
      let data := (List.range (n / 4)).flatMap fun i => leBytes 4 (s.arg (2 + i))
      let t := s.modInk fun k => { k with image := { k.image with user := Memory.writeBytes k.image.user o data } }
      if (s.arg 1).testBit 31 = false then t.mbDone 0 []
      else if t.ink.image.tokens = 0 then (t.commitGo .record).mbDone 0 [0, 1]
      else t.commitGo .host)

/-- The bank being written takes the image (R438). -/
def State.bankWrite (s : State) (c : Commit) : State :=
  let g := max s.ink.gen0 s.ink.gen1 + 1
  let i : StoreImage := { s.imageNow with gen := g, moves := s.ink.image.moves + (if c = .enter ∨ c = .leave then 1 else 0) }
  s.modInk fun k => { k with image := i, commit := none, bad := false, one := false,
                             bank0 := if k.writesFirst then some i else k.bank0, bank1 := if k.writesFirst then k.bank1 else some i }

/-- What follows a commit that has been verified. -/
def State.committed (s : State) (c : Commit) : State :=
  match c with
  | .host => s.mbDone 0 [s.ink.image.gen, 0]
  | .record => s
  | .enter => s.modResetGo 7
  | .leave =>
    let t := (s.wr Reg.LCY_STATE_TRANS 0).custodyApply
    if t.ink.lcCmd then ((t.modInk fun k => { k with lcCmd := false }).wrs [(Reg.LCY_LAST_RESULT, 0), (Reg.LCY_LAST_DETAIL, 0)]).mbDone 0 [0, s.lcState] else t

/-- STORE_COMMIT_COMPLETE (R438, R439): the commit being made ends, or else the innkeeper's records are committed where a
token is there. A commit that fails its verification leaves the other bank valid and, if it is not a host's, is made again. -/
def execStoreCommitComplete (verified : Bool) (s : State) : Host.Outcome State Fault Refusal :=
  if s.inkUp = false ∨ s.pwr.booted = false then done s
  else match s.ink.commit with
  | some c =>
    if verified then done ((s.bankWrite c).committed c).commitNext
    else
      let t := s.modInk Ink.bankLost
      done (if c = .host then (t.mbDone 4 []).commitNext else { t with ink := { t.ink with commit := some c } })
  | none =>
    if s.recordDue = false ∨ s.ink.image.tokens = 0 then done s
    else
      let t := s.modInk Ink.takeToken
      done (if verified then t.bankWrite .record else t.modInk Ink.bankLost)

/-- COMMIT_TOKEN_GAIN (R438): a token for every 30 min, up to 64; a deferred commit may start. -/
def execCommitTokenGain (s : State) : Host.Outcome State Fault Refusal :=
  if s.pwr.powered = false ∨ s.pwr.booted = false then done s
  else done ((s.modInk fun k => { k with image := { k.image with tokens := min 64 (k.image.tokens + 1) } }).commitNext)

/-! ### Life-cycle requests and the wipe (R443 to R445) -/

/-- The targets R443 lists for a request in a state. -/
def lcTargets (st : Nat) : List Nat := if st = lcOPEN then [lcOPEN, lcSERVICE, lcRETIRED] else if st = lcSERVICE then [lcOPEN] else []

/-- The first condition of R444 that fails: RESULT and detail. -/
def State.lcRefusal (s : State) : Option (Nat × Nat) :=
  let target := bits (s.arg 0) 7 0
  if s.bit Reg.LCY_STATE_TRANS then some (3, 5)
  else if s.lcState = lcRETIRED then some (3, 0)
  else if (lcTargets s.lcState).contains target = false ∨ bits (s.arg 0) 31 8 ≠ 0 then some (2, 3)
  else if s.arg 1 ≠ (if target = lcRETIRED then 0x52455449 else 0) then some (2, 4)
  else if s.rd Reg.LCY_STATE_CUSTODY = 1 then some (3, 1)
  else if s.anyArmed ∨ s.hstate ≠ hIDLE then some (3, 2)
  else none

/-- LIFE_CYCLE_REQUEST (R444): a refused request completes; an accepted one enters WIPING and completes with it. -/
def execLifeCycleRequest (s : State) : Host.Outcome State Fault Refusal :=
  if s.serving (· == 0x20) = false then done s
  else
    let target := bits (s.arg 0) 7 0
    if s.ink.lcCmd then done s
    else match s.lcRefusal with
    | some (r, d) =>
      done ((((s.wrs [(Reg.LCY_LAST_RESULT, r), (Reg.LCY_LAST_DETAIL, d), (Reg.LCY_LAST_TARGET, target)]).raise pLCY 2).mbDone r [d]))
    | none => done (((s.wr Reg.LCY_LAST_TARGET target).modInk fun k => { k with lcCmd := true }).transit target)

/-- WIPE_COMPLETE (R443, R445): the MEM pages have filled; the wipe is counted and the target state entered and committed.
For RETIRED the user area is erased in both banks and the fuse is blown. -/
def execWipeComplete (s : State) : Host.Outcome State Fault Refusal :=
  let filled := (List.range 4).all fun n => s.running (pMEM n) && s.bit (Reg.MEM_STAT_INIT_DONE n)
  let entering := s.ink.commit = some .enter ∨ s.ink.queue.contains .enter = true
  if s.lcState ≠ lcWIPING ∨ s.ink.wiped = false ∨ s.modReset ∨ filled = false ∨ s.inkUp = false ∨ entering then done s
  else
    let target := s.rd Reg.LCY_STATE_TARGET
    let n := s.rd Reg.LCY_WIPES_WIPES + 1
    let k : Ink :=
      if target = lcRETIRED then
        { s.ink with image := { s.ink.image with user := [] }, bank0 := s.ink.bank0.map fun b => { b with user := [] },
                     bank1 := s.ink.bank1.map fun b => { b with user := [] }, retired := true }
      else s.ink
    let t : State := { s with ink := { k with image := { k.image with state := target, target := 0, wipes := n % 2 ^ 32 }, wiped := false } }
    done ((((t.wrs [(Reg.LCY_WIPES_WIPES, n), (Reg.LCY_STATE_STATE, target)]).raise pLCY 3).raise pLCY 0).commitGo .leave)

/-! ### Firmware (R462 to R464) -/

/-- The HBM address that ARG_0 and ARG_1[4:0] give. -/
def State.argAddr (s : State) : Nat := s.arg 0 + 2 ^ 32 * bits (s.arg 1) 4 0

/-- It is a multiple of 4 KiB in the last region above the survey workspace, and n bytes fit there. -/
def State.argPlace (s : State) (n : Nat) : Bool :=
  s.argAddr % 4096 == 0 && s.arg 1 / 32 == 0 && decide (s.wsEnd ≤ s.argAddr) && decide (s.argAddr + n ≤ hbmSize)

/-- FIRMWARE_STAGE (R463). What the image says of itself, which the spec leaves to Odlek, comes from outside: its signature,
its version and its security version; `verified`: the slot reads back as written. -/
def execFirmwareStage (signed : Bool) (version security : Word) (verified : Bool) (s : State) : Host.Outcome State Fault Refusal :=
  done (s.operate 0x30 fun s =>
    let n := s.arg 2
    let other := 1 - s.ink.running
    if n < 4096 ∨ 25165824 < n ∨ s.argPlace n = false then s.mbDone 2 []
    else if signed = false ∨ security.toNat < s.ink.image.security ∨ s.poisoned s.argAddr n ∨ verified = false then
      (s.modInk fun k => { k with slots := setAt k.slots other { valid := false }, staged := none, next := none }).mbDone 4 []
    else
      (s.modInk fun k => { k with slots := setAt k.slots other { version := some version.toNat, security := security.toNat }, staged := some other }).mbDone 0
        [version.toNat, other, security.toNat])

/-- FIRMWARE_COMMIT (R463): the staged slot is used at the next restart, or at once. -/
def execFirmwareCommit (s : State) : Host.Outcome State Fault Refusal :=
  done (s.operate 0x31 fun s =>
    match s.ink.staged with
    | none => s.mbDone 2 []
    | some i =>
      if 1 < s.arg 0 then s.mbDone 2 []
      else
        let t := (s.mbDone 0 [i]).modInk fun k => { k with next := some i }
        if s.arg 0 = 1 then t.inkRestart else t)

/-- FIRMWARE_CONFIRMED (R464): new firmware has run for 60 s and passed its self-test. -/
def execFirmwareConfirmed (s : State) : Host.Outcome State Fault Refusal :=
  if s.ink.fresh = false ∨ s.inkUp = false then done s
  else done ((s.modInk fun k => { k with fresh := false, image := { k.image with slot := k.running, security := max k.image.security (s.slot k.running).security } }).commitGo
    .record)

/-- A watchdog restart at a time (R425): the third within 60 s halts the innkeeper; firmware that is not yet permanent gives
way to the previous slot (R464). -/
def State.watchdog (s : State) (now : Int) : State :=
  let l := now :: s.pwr.wds.filter fun t => decide (now - 960000000000 ≤ t)
  let t := s.modPwr fun p => { p with wds := l }
  let u := if t.ink.fresh then t.modInk fun k => { k with running := 1 - k.running, fresh := false, next := none, staged := none } else t
  if 3 ≤ l.length then ((u.inkDown.modPwr fun p => { p with inkHalted := true, haltCause := true }).setFault pRCK 5) else u.inkRestart

/-- INNKEEPER_WATCHDOG (R425): 100 ms without a watchdog service. -/
def execInnkeeperWatchdog (now : Int) (s : State) : Host.Outcome State Fault Refusal :=
  done (if s.pwr.powered && s.pwr.booted && s.inkUp then s.watchdog now else s)

/-- FIRMWARE_FALLBACK (R464): new firmware fails its self-test. -/
def execFirmwareFallback (now : Int) (s : State) : Host.Outcome State Fault Refusal :=
  done (if s.pwr.powered && s.ink.fresh then s.watchdog now else s)

/-- INNKEEPER_RESTART_COMPLETE (R84): BUSY of a lost command and INK_DOWN clear. A wipe in hand starts again (R443). -/
def execInnkeeperRestartComplete (s : State) : Host.Outcome State Fault Refusal :=
  if s.pwr.powered = false ∨ s.pwr.booted = false ∨ s.pwr.inkHalted ∨ s.inkUp ∨ s.inReset pINK then done s
  else
    let t := ((s.wrs [(Reg.INK_STATUS_BUSY, 0), (Reg.INK_STATUS_INK_DOWN, 0)]).setRunning pINK false).commitNext
    done (if t.lcState = lcWIPING ∧ t.ink.commit ≠ some .enter then (t.modInk fun k => { k with wiped := false }).modResetGo 7 else t)

/-! ### Boot (R53, R54, R431, R437) -/

/-- The EEPROM is accepted (R54). -/
def eepromOk (l : List Byte) : Bool :=
  decide (256 ≤ l.length) && leAt l 0 4 == 0x524F554D && leAt l 4 2 == 1 && leAt l 6 2 == 0x2620 && leAt l 0xFC 4 == crc32c.of (l.take 0xFC)

/-- EEPROM_READ_RETRY (R54): a read has failed and is repeated, three times at most. -/
def execEepromReadRetry (s : State) : Host.Outcome State Fault Refusal :=
  done (if s.pwr.powered ∧ s.pwr.booted = false ∧ s.ink.attempts < 3 then s.modInk fun k => { k with attempts := k.attempts + 1 } else s)

/-- The newest valid bank is loaded (R437); with none the image is empty, and the state is OPEN unless the retirement fuse is
blown. -/
def State.loadStore (s : State) : State :=
  let k := s.ink
  let img : StoreImage := match k.newest with | some b => b | none => { state := if k.retired then lcRETIRED else lcOPEN }
  let one := k.bank0.isSome != k.bank1.isSome
  let none_ := k.bank0.isNone && k.bank1.isNone
  let t := s.modInk fun k => { k with image := { img with powerUps := img.powerUps + 1 }, one := one, bad := none_ }
  let u := if none_ then t.setFault pLCY 0 else if one then t.setFault pLCY 1 else t
  u.wrs [(Reg.LCY_STATE_STATE, img.state), (Reg.LCY_STATE_TARGET, img.target), (Reg.LCY_WIPES_WIPES, img.wipes),
    (Reg.LCY_STATE_TRANS, if img.state = lcWIPING then 1 else 0), (Reg.RCK_PWR_PH_ACTIVE, img.active &&& (0xFFFF ^^^ s.rd Reg.RCK_PWR_PH_FAILED)),
    (Reg.RCK_PWR_PH_FAILED, img.failed ||| s.rd Reg.RCK_PWR_PH_FAILED)]

/-- Remap tables and channel maps are restored from the image (R428). -/
def State.restoreMaps (s : State) : State :=
  let img := s.ink.image
  let t := (List.range 128).foldl (fun u i =>
    let e := img.maps.getD i (mapsAtReset.getD i (0, 0))
    u.wrs [(Reg.MEM_PC_STATE (i / 32) (i % 32), e.1), (Reg.MEM_PC_LOGICAL (i / 32) (i % 32), e.2),
      (Reg.MEM_PC_REMAPS (i / 32) (i % 32), (img.remaps.filter fun k => k / (64 * 16384) == i).length)]) s
  (List.range 4).foldl State.spareShow (t.modMem fun m => { m with remaps := img.remaps })

/-- INNKEEPER_BOOT_COMPLETE (R431): `eeprom`: what the last read attempt gave; `slotOk`: the active slot's signature holds. The
life cycle and the repair state are loaded, and every page leaves RESET. -/
def execInnkeeperBootComplete (eeprom : Option (List Byte)) (slotOk : Bool) (s : State) : Host.Outcome State Fault Refusal :=
  if s.pwr.powered = false ∨ s.pwr.booted ∨ s.inReset pINK then done s
  else
    let raw := eeprom.getD []
    let ok := eepromOk raw
    let s1 := (s.modInk fun k => { k with raw := raw, eeprom := if ok then raw.take 256 else [], attempts := k.attempts + 1 }).loadStore.restoreMaps.phaseShow
    let slot := s.ink.next.getD s1.ink.image.slot
    let s2 := s1.modInk fun k =>
      { k with running := if slotOk then slot else 1 - slot, next := none, fresh := slotOk && s.ink.next.isSome }
    let s3 := if ok then s2 else s2.raise pGLB 0
    let s4 := if ok ∧ leAt raw 0xD 1 % 16 = 0 then s3.wrs [(Reg.RCK_THERM_LIM_LID_TRIP, 0x3C), (Reg.RCK_THERM_LIM_LID_WARN, 0x32)] else s3
    let s5 := (s4.wr Reg.INK_STATUS_INK_DOWN 0).custodyApply.modPwr fun p => { p with booted := true }
    let s6 := s5.releaseAll.releaseShow
    done (if s6.lcState = lcWIPING then s6.modResetGo 7 else s6)

/-- INNKEEPER_BOOT_TIMEOUT (R431): 2 s without the end of the boot. -/
def execInnkeeperBootTimeout (s : State) : Host.Outcome State Fault Refusal :=
  if s.pwr.powered = false ∨ s.pwr.booted then done s
  else
    let t := ((s.wrs [(Reg.LCY_STATE_STATE, lcUNKNOWN), (Reg.INK_STATUS_INK_DOWN, 1)]).raise pGLB 0).modPwr fun p => { p with booted := true }
    done t.releaseAll.releaseShow

/-! ### The calibration image (R493 to R496) -/

/-- Its length. -/
def calLen : Nat := 2101248

/-- A receiver's EQ register (R480). -/
def State.eqWord (s : State) (m : Nat) : Nat :=
  s.rd (eqFreeze m) * 2 ^ 31 + s.rd (eqCtle m) * 2 ^ 24 + s.rd (eqPhase m) * 2 ^ 18 + s.rd (eqEyeW m) * 2 ^ 8 + s.rd (eqEyeH m)

/-- The receiver section: six EQ registers, ARY_DET_PHASE and three words of tap state, 8 bytes each; the tap words hold
eighteen taps of 8 bits in turn (DESIGN CHOICE, log entry 40). -/
def State.calReceivers (s : State) : List Byte :=
  let det := s.rd Reg.ARY_DET_PHASE_FREEZE * 2 ^ 31 + ((List.range 4).map fun i => s.rd (detPhase i) * 16 ^ i).sum
  ((List.range 6).flatMap fun m => leBytes 8 (s.eqWord m)) ++ leBytes 8 det ++
    slice ((s.pak.rx.flatMap Rx.taps).map fun t => BitVec.ofInt 8 t) 0 24

/-- The lane section. -/
def State.calLanes (s : State) : List Byte :=
  (List.range 80).flatMap fun n => leBytes 4 (s.rd (Reg.QLK_SKEW_SKEW n)) ++
    leBytes 4 (s.rd (Reg.QLK_TXEQ_PRESET n) * 2 ^ 16 + s.rd (Reg.QLK_TXEQ_AUTO n) * 2 ^ 15 + s.rd (Reg.QLK_TXEQ_SCANS n))

/-- The beam section: the ACTIVE bank's entries. -/
def State.calBeams (s : State) : List Byte :=
  (List.range 262144).flatMap fun b => leBytes 4 (s.rd (Reg.btWord (s.rd Reg.ALC_BT_STAT_ACTIVE) b 0)) ++
    leBytes 4 (s.rd (Reg.btWord (s.rd Reg.ALC_BT_STAT_ACTIVE) b 1))

/-- ARY_PASS_SER_0 to _3. -/
def State.passSerial (s : State) : List Byte := (List.range 4).flatMap fun i => leBytes 4 (s.rd (Reg.ARY_PASS_SER_SER i))

/-- The image without its CHECK: the header's first 0x38 bytes, and what follows CHECK (R495). -/
def State.calImage (s : State) (sections : Nat) : List Byte × List Byte :=
  let pick (b : Nat) (n : Nat) (l : List Byte) : List Byte := if sections.testBit b then l else List.replicate n 0
  (leBytes 4 0x424C4143 ++ leBytes 2 1 ++ leBytes 2 sections ++ leBytes 8 s.now ++ leBytes 8 ownUid ++ s.passSerial ++
      leBytes 1 (s.rd Reg.ARY_BC_STAT_SESSION) ++ leBytes 7 0 ++ leBytes 4 calLen ++ leBytes 4 0,
    pick 0 640 s.calLanes ++ pick 1 80 s.calReceivers ++ List.replicate 3312 0 ++ pick 2 2097152 s.calBeams)

/-- CALIBRATION_SAVE (R494, R495): it waits for an alignment run or a check run in hand. -/
def execCalibrationSave (s : State) : Host.Outcome State Fault Refusal :=
  done (s.operate 0x40 fun s =>
    if s.pak.aln.isSome ∨ s.ary.run.isSome then s
    else if 8 ≤ s.arg 2 ∨ s.argPlace calLen = false then s.mbDone 2 []
    else
      let im := s.calImage (s.arg 2)
      let c := crc64.of (im.1 ++ im.2)
      (s.hbmStore s.argAddr (im.1 ++ leBytes 8 c ++ im.2)).mbDone 0 [calLen, c % 2 ^ 32, c / 2 ^ 32])

/-- The first condition of R496 that fails. -/
def State.calRefusal (s : State) (img : List Byte) (sections : Nat) (force : Bool) : Option Nat :=
  if s.poisoned s.argAddr calLen then some 5
  else if leAt img 0 4 ≠ 0x424C4143 ∨ leAt img 4 2 ≠ 1 ∨ leAt img 0x30 4 ≠ calLen ∨
      leAt img 0x38 8 ≠ crc64.of (slice img 0 0x38 ++ img.drop 0x40) ∨ leAt img 6 2 &&& sections ≠ sections then some 1
  else if force = false ∧ slice img 0x18 16 ≠ s.passSerial then some 2
  else if (sections.testBit 0 ∨ sections.testBit 1) ∧ s.anyArmed then some 3
  else if sections.testBit 2 ∧ s.bit Reg.ALC_BT_STAT_WRITABLE = false then some 4
  else none

/-- The lane section is applied (R496). -/
def State.applyLanes (s : State) (img : List Byte) : State :=
  (List.range 80).foldl (fun t n =>
    let u := t.wr (Reg.QLK_SKEW_SKEW n) (leAt img (0x40 + 8 * n) 4)
    let p := bits (leAt img (0x44 + 8 * n) 4) 19 16
    if t.laneRole n = roDATA then u.modLane n fun q => { q with scan := { q.scan with want := some p } }
    else (u.wr (Reg.QLK_TXEQ_PRESET n) p).eyeShow n) s

/-- The receiver section is applied (R496). -/
def State.applyReceivers (s : State) (img : List Byte) : State :=
  let t := (List.range 6).foldl (fun t m =>
    let w := leAt img (0x2C0 + 8 * m) 4
    t.wrs [(eqCtle m, bits w 27 24), (eqPhase m, bits w 23 18)]) s
  let u := (List.range 4).foldl (fun t i => t.wr (detPhase i) (bits (leAt img 0x2F0 2) (4 * i + 3) (4 * i))) t
  u.modPak fun p => { p with rx := (List.range 6).map fun m =>
    { taps := (List.range 3).map fun i => sx 8 (leAt img (0x2F8 + 3 * m + i) 1), since := 256 } }

/-- The beam section is applied to the staging bank (R496). -/
def State.applyBeams (s : State) (img : List Byte) : State :=
  let bank := 1 - s.rd Reg.ALC_BT_STAT_ACTIVE
  (List.range 262144).foldl (fun t b => t.wrs [(Reg.btWord bank b 0, leAt img (0x1000 + 8 * b) 4 &&& btMask 0),
    (Reg.btWord bank b 1, leAt img (0x1004 + 8 * b) 4 &&& btMask 1)]) s

/-- CALIBRATION_RESTORE (R494, R496). -/
def execCalibrationRestore (s : State) : Host.Outcome State Fault Refusal :=
  done (s.operate 0x41 fun s =>
    let sec := s.arg 2 % 8
    if s.arg 2 / 8 % 32 ≠ 0 ∨ 512 ≤ s.arg 2 ∨ s.argPlace calLen = false then s.mbDone 2 []
    else
      let img := Memory.readBytes s.hbm s.argAddr calLen
      match s.calRefusal img sec ((s.arg 2).testBit 8) with
      | some d => s.mbDone 4 [d]
      | none =>
        let t := if sec.testBit 2 then s.applyBeams img else s
        let u := if sec.testBit 0 then t.applyLanes img else t
        (if sec.testBit 1 then u.applyReceivers img else u).mbDone 0 [0])

end Sys2Proof.Machine
end

