-- ==== Sys2Proof/Machine/Net.lean ====
section
/-!
DEFINITION. The Ethernet ports (R386 to R394): frames received and sorted, pause, the host's rings, the transparent
clock; and the reception of fabric frames (R402 to R425).
-/
namespace Sys2Proof.Machine

open Sys2Proof (Agent)

/-! ### Sub-ports and pause (R386, R388, R389) -/

/-- A sub-port exists in the port's MODE. -/
def State.subUsed (s : State) (n sub : Nat) : Bool :=
  (s.rd (Reg.NET_CFG_MODE n) == 1 && sub == 0) || (s.rd (Reg.NET_CFG_MODE n) == 2 && decide (sub < 4))

/-- The MAC control address 01-80-C2-00-00-01. -/
def macControl : Nat := 0x0180C2000001

/-- The pause frame of a port for a quanta value: PFC for the priorities of NET_n_PRIO.PFC, or PAUSE with none. -/
def State.pauseFrame (s : State) (n sub quanta : Nat) : List Byte :=
  let pfc := s.rd (Reg.NET_PRIO_PFC n)
  etherFrame macControl (s.macOf n sub) none 0x8808
    (if pfc = 0 then beBytes 2 1 ++ beBytes 2 quanta
     else beBytes 2 0x0101 ++ beBytes 2 pfc ++ (List.range 8).flatMap fun p => beBytes 2 (if pfc.testBit p then quanta else 0))

/-- Pause frames leave on every sub-port of a port. -/
def State.sendPause (s : State) (n quanta : Nat) : State :=
  (List.range 4).foldl (fun t sub => if t.subUsed n sub && t.linkUp n sub then t.emit (.ether n sub (t.pauseFrame n sub quanta)) else t) s

/-- The frames that pause no longer holds leave, in the order of R389. -/
def State.sendHeld (s : State) (n : Nat) : State :=
  let q := (s.port n).queue
  let goes (f : TxFrame) : Bool := !s.classHeld n f.sub f.cls
  let t := s.modNet n fun p => { p with queue := q.filter fun f => !goes f }
  (List.range 5).foldl (fun t c => (q.filter fun f => goes f && f.cls == c).foldl (fun u f => u.etherOut n f.sub f.cls f.bytes) t) t

/-- The mask of a hold of all transmission, and the bit that tells it from a PFC hold. -/
def holdAll : Nat := 0x1FF

/-- A PAUSE frame's quanta (R388). -/
def State.pauseIn (s : State) (n sub quanta : Nat) : State :=
  (s.modNet n fun p =>
    let rest := p.held.filter fun e => !(e.1 == sub && e.2 == holdAll)
    { p with held := if quanta = 0 then rest else (sub, holdAll) :: rest }).sendHeld n

/-- The priorities that PFC holds on a sub-port. -/
def NetPort.pfcHeld (p : NetPort) (sub : Nat) : Nat :=
  ((p.held.find? fun e => e.1 == sub && e.2 != holdAll).map Prod.snd).getD 0

/-- Give a sub-port the priorities that PFC holds. -/
def State.setPfc (s : State) (n sub mask : Nat) : State :=
  (s.modNet n fun p =>
    let rest := p.held.filter fun e => !(e.1 == sub && e.2 != holdAll)
    { p with held := if mask = 0 then rest else (sub, mask) :: rest }).sendHeld n

/-- A PFC frame: the priorities it names, and their quanta. -/
def State.pfcIn (s : State) (n sub : Nat) (p : List Byte) : State :=
  s.setPfc n sub ((List.range 8).foldl (fun m i =>
    if !(beAt p 2 2).testBit i then m else if beAt p (4 + 2 * i) 2 = 0 then clrBit m i else setBit m i) ((s.port n).pfcHeld sub))

/-- MAC control (R387, R388): every other opcode is dropped. -/
def State.macControlIn (s : State) (n sub : Nat) (p : List Byte) : State :=
  let op := beAt p 0 2
  let noted (t : State) : State := (t.satInc (Reg.NET_CNT_3_PAUSE_RX n) 1).raise (pNET n) 5
  if op = 1 then noted (s.pauseIn n sub (beAt p 2 2)) else if op = 0x0101 then noted (s.pfcIn n sub p) else s

/-- PAUSE_QUANTA_EXPIRY (R388): the hold of a priority, or of all transmission, ends. -/
def execPauseQuantaExpiry (n : BitVec 1) (sub : BitVec 2) (priority : Option (BitVec 3)) (s : State) :
    Host.Outcome State Fault Refusal :=
  done (match priority with
    | none => s.pauseIn n.toNat sub.toNat 0
    | some p => s.setPfc n.toNat sub.toNat (clrBit ((s.port n.toNat).pfcHeld sub.toNat) p.toNat))

/-- RECEIVE_BUFFER_DRAIN (R388): the buffer falls below 50%. -/
def execReceiveBufferDrain (n : BitVec 1) (s : State) : Host.Outcome State Fault Refusal :=
  done (if (s.port n.toNat).full75 && s.running (pNET n.toNat) then
    (s.modNet n.toNat fun p => { p with full75 := false }).sendPause n.toNat 0 else s)

/-! ### The rings (R390 to R392) -/

/-- The first byte of a port's RX ring, and of its TX ring. -/
def State.rxRing (s : State) (n : Nat) : Nat := s.rd (Reg.NET_RING_BASE n) * mib
def State.txRing (s : State) (n : Nat) : Nat := s.rxRing n + 131072

/-- The rings may be used: the life-cycle state does not close them, and they lie where R390 lets them lie. -/
def State.ringsOpen (s : State) (n : Nat) : Bool :=
  !s.bar2Closed && decide (s.wsEnd ≤ s.rxRing n) && decide (s.txRing n + 131072 ≤ hbmSize)

/-- The header of an RX entry (R391). -/
def rxHeader (sub : Nat) (ptp tagged : Bool) (len stamp : Nat) : List Byte :=
  leBytes 4 (2 ^ 28 * sub + (if ptp then 2 ^ 27 else 0) + (if tagged then 2 ^ 26 else 0) + len) ++ leBytes 8 stamp ++ leBytes 4 0

/-- A frame without its FCS goes to the RX ring (R391). -/
def State.rxPut (s : State) (n sub : Nat) (ptp tagged : Bool) (frame : List Byte) (stamp : Nat) : State :=
  let w := s.rd (Reg.NET_RXR_IDX_WR n)
  if 2032 < frame.length then s.satInc (Reg.NET_CNT_1_OVERSIZE n) 1
  else if !s.ringsOpen n then s.satInc (Reg.NET_CNT_1_RXR_FULL n) 1
  else if (w + 1) % 64 = s.rd (Reg.NET_RXR_IDX_RD n) then (s.satInc (Reg.NET_CNT_1_RXR_FULL n) 1).raise (pNET n) 2
  else
    ((s.memWrite (s.rxRing n + 2048 * w) (rxHeader sub ptp tagged frame.length stamp ++ frame) false false).wr
      (Reg.NET_RXR_IDX_WR n) ((w + 1) % 64)).raise (pNET n) 1

/-- RXR_IDX_WRITE (R390). -/
def execRxrIdxWrite (agent : Agent) (n : BitVec 1) (rd : BitVec 6) (s : State) : Host.Outcome State Fault Refusal :=
  done (s.access agent (pNET n.toNat) fun s => s.wr (Reg.NET_RXR_IDX_RD n.toNat) rd.toNat)

/-- TXR_IDX_WRITE (R390). -/
def execTxrIdxWrite (agent : Agent) (n : BitVec 1) (wr : BitVec 6) (s : State) : Host.Outcome State Fault Refusal :=
  done (s.access agent (pNET n.toNat) fun s => s.wr (Reg.NET_TXR_IDX_WR n.toNat) wr.toNat)

/-- A TX entry is completed: words 3 to 5 are written, the index advances, and the events are set (R392). -/
def State.txDone (s : State) (n : Nat) (flags stamp : Nat) (late : Bool) : State :=
  let r := s.rd (Reg.NET_TXR_IDX_RD n)
  (((s.memWrite (s.txRing n + 2048 * r + 12) (leBytes 4 (2 ^ 31 + flags) ++ leBytes 8 stamp) false false).wr
    (Reg.NET_TXR_IDX_RD n) ((r + 1) % 64)).raise (pNET n) 3).raiseIf late (pNET n) 4

/-- The frame of a TX entry as a sub-port sends it (R386, R389, R392). -/
def State.hostFrame (s : State) (n sub : Nat) (f : List Byte) : List Byte :=
  etherFrame (beAt f 0 6) (s.macOf n sub) (if s.bit (Reg.NET_PRIO_TAG n) then some (s.pcpOf n clHost) else none) (beAt f 12 2) (f.drop 14)

/-- TX_RING_ENTRY_SEND (R392): the entry at the head of a TX ring is taken. `head` is when it reached the head, `held`
tells that pause held its class at LAUNCH, and `sent` is the send stamp. An entry that pause holds, or whose link is
down, waits. An unsent entry's stamp is a free value. -/
def execTxRingEntrySend (n : BitVec 1) (head sent : BitVec 64) (held : Bool) (s : State) : Host.Outcome State Fault Refusal :=
  let n := n.toNat
  let r := s.rd (Reg.NET_TXR_IDX_RD n)
  let a := s.txRing n + 2048 * r
  if !s.running (pNET n) || !s.ringsOpen n || r == s.rd (Reg.NET_TXR_IDX_WR n) then done s
  else
    let h := s.hbmGet a 32
    let w := leAt h.1.data 0 4
    let len := bits w 11 0
    let sub := bits w 29 28
    let tt := w.testBit 27
    let f := h.2.hbmGet (a + 32) len
    let late := tt && (held || decide (leAt h.1.data 4 8 < head.toNat + 32000))
    let unsent (t : State) (flags : Nat) (l : Bool) : State := let d := t.draw; d.2.txDone n flags d.1 l
    if !h.1.poison.isEmpty || decide (len < 14) || decide (2016 < len) || !s.subUsed n sub then done (unsent h.2 (2 ^ 28) false)
    else if !f.1.poison.isEmpty then done (unsent f.2 (2 ^ 28) false)
    else if late && w.testBit 26 then done (unsent f.2 (2 ^ 29) true)
    else if !s.linkUp n sub || s.classHeld n sub (if tt then clLaunch else clHost) then done s
    else
      let t := f.2.etherOut n sub (if tt then clLaunch else clHost) (s.hostFrame n sub f.1.data)
      done (t.txDone n (if late then 2 ^ 30 else 0) sent.toNat late)

/-! ### The transparent clock (R394) -/

/-- A PTP frame with its correctionField, at an offset, and its FCS made anew. -/
def ptpCorrected (f : List Byte) (o : Nat) (c : Int) : List Byte :=
  let b := f.take (o + 8) ++ beBytes 8 (enc 64 c) ++ (f.take (f.length - 4)).drop (o + 16)
  b ++ leBytes 4 (crc32.of b)

/-- Forward a PTP frame received on sub-port 0 of port n to sub-port 0 of the other; `o` is where the PTP header begins. -/
def State.ptpForward (s : State) (n : Nat) (f : List Byte) (o recv sent : Nat) : State :=
  let m := 1 - n
  if !s.running (pNET m) || !s.linkUp m 0 then s
  else
    let t := s.wrapInc Reg.TIM_TC_CNT_FWD 1
    if 1 < beAt f o 1 % 16 then t.etherOut m 0 clPtp f
    else
      let c := sx 64 (beAt f (o + 8) 8) + sx 64 (sent + 2 ^ 64 - recv) * 4096
      if (2 ^ 63 : Int) ≤ c then
        ((t.satInc Reg.TIM_TC_CNT_TC_OVF 1).raise (pNET m) 7).etherOut m 0 clPtp (ptpCorrected f o (2 ^ 63 - 1))
      else t.etherOut m 0 clPtp (ptpCorrected f o c)

/-! ### Fabric frames received (R401, R402, R406) -/

/-- What comes with a received fabric frame: its link, its sender's Ethernet address, its receive stamp, and the send
stamp of the answer that it may cause. -/
structure FabArrival where
  link : Nat
  mac  : Nat
  recv : Nat
  sent : Nat
  deriving DecidableEq, Repr

/-- A fabric RESET frame (R402, R425). -/
def State.fabResetIn (s : State) (p : List Byte) : State :=
  if !s.bit Reg.FAB_CFG_RST_EN then s
  else if p.length = 4 ∧ leAt p 0 4 = 0x52530001 then s.modResetGo 6
  else if p.length = 4 ∧ leAt p 0 4 = 0x52530002 then s.inkRestart
  else s.fabDrop

/-- A frame for this module takes its effect (R402). -/
def State.fabricConsume (s : State) (v : FabArrival) (f : List Byte) : State :=
  let p := fPayload f
  let src := fSrc f
  match fKind f with
  | 0x01 => s.helloIn v.link v.mac p
  | 0x02 => s.lsaIn (lsaOf (fWord f 3) p)
  | 0x10 => s.reckon 2 src
  | 0x11 => s.reckData src p
  | 0x20 => s.shareReq src p
  | 0x21 => s.shareRsp src p
  | 0x22 => s.lxportIn v.link src p
  | 0x30 => s.densIn src p
  | 0x31 => s.densEndIn src p
  | 0x32 => s.densNakIn p
  | 0x33 => s.mapCrcIn p
  | 0x40 => s.treqIn src v.recv v.sent p
  | 0x41 => s.trspIn v.recv p
  | 0x50 => s.mstatIn src p
  | 0x51 => s.fstatIn src p
  | 0x52 => s.hreqIn src p
  | 0x53 => s.planIn src p
  | 0x60 => s.fabResetIn p
  | _ => s

/-- A fabric frame is received on a link (R401, R406). -/
def State.fabricTake (s : State) (v : FabArrival) (f : List Byte) : State :=
  if !s.live pFAB || !s.fabLinks.contains v.link then s
  else if !fGood f then s.fabDrop
  else
    let t := s.fabricForward v.link f
    if fDst f = 0xFF ∨ (fDst f = s.rd Reg.FAB_STAT_ADDR ∧ fDst f < 64) then t.fabricConsume v f else t

/-- A frame of one kind is received. -/
def State.fabricKind (s : State) (kind : Nat) (v : FabArrival) (f : List Byte) : State :=
  if fKind f = kind then s.fabricTake v f else s

/-- FABRIC_FRAME_FORWARD (R406): the forwarding of a received frame, by itself. -/
def execFabricFrameForward (link : BitVec 3) (frame : List Byte) (s : State) : Host.Outcome State Fault Refusal :=
  done (if !s.live pFAB || !s.fabLinks.contains link.toNat then s
    else if !fGood frame then s.fabDrop else s.fabricForward link.toNat frame)

/-- HELLO (R403). -/
def execHelloFrame (link : BitVec 3) (mac : BitVec 48) (frame : List Byte) (s : State) : Host.Outcome State Fault Refusal :=
  done (s.fabricKind 0x01 ⟨link.toNat, mac.toNat, 0, 0⟩ frame)
/-- LSA (R403). -/
def execLsaFrame (link : BitVec 3) (frame : List Byte) (s : State) : Host.Outcome State Fault Refusal :=
  done (s.fabricKind 0x02 ⟨link.toNat, 0, 0, 0⟩ frame)
/-- RECK_REQ (R407): the request is filed with SOURCE 2 and the sender as REQUESTER. -/
def execReckReq (link : BitVec 3) (frame : List Byte) (s : State) : Host.Outcome State Fault Refusal :=
  done (s.fabricKind 0x10 ⟨link.toNat, 0, 0, 0⟩ frame)
/-- RECK_DATA (R407). -/
def execReckData (link : BitVec 3) (frame : List Byte) (s : State) : Host.Outcome State Fault Refusal :=
  done (s.fabricKind 0x11 ⟨link.toNat, 0, 0, 0⟩ frame)
/-- SHARE_REQ (R408). -/
def execShareReq (link : BitVec 3) (frame : List Byte) (s : State) : Host.Outcome State Fault Refusal :=
  done (s.fabricKind 0x20 ⟨link.toNat, 0, 0, 0⟩ frame)
/-- SHARE_RSP (R408). -/
def execShareRsp (link : BitVec 3) (frame : List Byte) (s : State) : Host.Outcome State Fault Refusal :=
  done (s.fabricKind 0x21 ⟨link.toNat, 0, 0, 0⟩ frame)
/-- LXPORT (R408). -/
def execLxport (link : BitVec 3) (frame : List Byte) (s : State) : Host.Outcome State Fault Refusal :=
  done (s.fabricKind 0x22 ⟨link.toNat, 0, 0, 0⟩ frame)
/-- DENS (R411). -/
def execDensFrame (link : BitVec 3) (frame : List Byte) (s : State) : Host.Outcome State Fault Refusal :=
  done (s.fabricKind 0x30 ⟨link.toNat, 0, 0, 0⟩ frame)
/-- DENS_END (R411). -/
def execDensEnd (link : BitVec 3) (frame : List Byte) (s : State) : Host.Outcome State Fault Refusal :=
  done (s.fabricKind 0x31 ⟨link.toNat, 0, 0, 0⟩ frame)
/-- DENS_NAK (R411). -/
def execDensNak (link : BitVec 3) (frame : List Byte) (s : State) : Host.Outcome State Fault Refusal :=
  done (s.fabricKind 0x32 ⟨link.toNat, 0, 0, 0⟩ frame)
/-- MAPCRC (R412). -/
def execMapcrc (link : BitVec 3) (frame : List Byte) (s : State) : Host.Outcome State Fault Refusal :=
  done (s.fabricKind 0x33 ⟨link.toNat, 0, 0, 0⟩ frame)
/-- TREQ (R413): `recv` is its receive stamp and `sent` the send stamp of the TRSP. -/
def execTreq (link : BitVec 3) (recv sent : BitVec 64) (frame : List Byte) (s : State) : Host.Outcome State Fault Refusal :=
  done (s.fabricKind 0x40 ⟨link.toNat, 0, recv.toNat, sent.toNat⟩ frame)
/-- TRSP (R413): `recv` is its receive stamp. -/
def execTrsp (link : BitVec 3) (recv : BitVec 64) (frame : List Byte) (s : State) : Host.Outcome State Fault Refusal :=
  done (s.fabricKind 0x41 ⟨link.toNat, 0, recv.toNat, 0⟩ frame)
/-- MSTAT (R414, R416). -/
def execMstat (link : BitVec 3) (frame : List Byte) (s : State) : Host.Outcome State Fault Refusal :=
  done (s.fabricKind 0x50 ⟨link.toNat, 0, 0, 0⟩ frame)
/-- FSTAT (R416, R417). -/
def execFstat (link : BitVec 3) (frame : List Byte) (s : State) : Host.Outcome State Fault Refusal :=
  done (s.fabricKind 0x51 ⟨link.toNat, 0, 0, 0⟩ frame)
/-- HREQ (R417). -/
def execHreq (link : BitVec 3) (frame : List Byte) (s : State) : Host.Outcome State Fault Refusal :=
  done (s.fabricKind 0x52 ⟨link.toNat, 0, 0, 0⟩ frame)
/-- PLAN_FRAME (R416). -/
def execPlanFrame (link : BitVec 3) (frame : List Byte) (s : State) : Host.Outcome State Fault Refusal :=
  done (s.fabricKind 0x53 ⟨link.toNat, 0, 0, 0⟩ frame)
/-- FABRIC_RESET (R402, R425). -/
def execFabricReset (link : BitVec 3) (frame : List Byte) (s : State) : Host.Outcome State Fault Refusal :=
  done (s.fabricKind 0x60 ⟨link.toNat, 0, 0, 0⟩ frame)

/-! ### Frames received (R386 to R388) -/

/-- A received Ethernet frame, from its destination address to its FCS, and what comes with it: its sub-port, its receive
stamp, the send stamp of a frame that it makes the module send at once, the bytes in the receive buffer before it, and
whether a buffer word of it is uncorrectable. -/
structure EtherArrival where
  port  : Nat
  sub   : Nat
  recv  : Nat
  sent  : Nat
  fill  : Nat
  upset : Bool
  deriving DecidableEq, Repr

/-- The bytes of the receive buffer (R388). -/
def rxBuffer : Nat := 524288

/-- The FCS and the length are right (R387). -/
def etherGood (f : List Byte) : Bool :=
  decide (64 ≤ f.length) && decide (f.length ≤ 9216) && leAt f (f.length - 4) 4 == crc32.of (f.take (f.length - 4))

/-- A destination that a sub-port passes (R387). -/
def State.etherFor (s : State) (n sub dst : Nat) : Bool :=
  [s.macOf n sub, 0xFFFFFFFFFFFF, 0x011B19000000, 0x0180C200000E, macControl, fabGroup].contains dst

/-- A frame that has passed the destination and tag steps is sorted by its EtherType (R387); `o` is where its payload
begins. -/
def State.etherSort (s : State) (v : EtherArrival) (f : List Byte) (tagged : Bool) : State :=
  let o := if tagged then 18 else 14
  let et := beAt f (o - 2) 2
  let bare := f.take (f.length - 4)
  let p := bare.drop o
  let src := beAt f 6 6
  let n := v.port
  if et = 0x8808 then s.macControlIn n v.sub p
  else if et = 0x88F7 then
    let t := if s.bit Reg.TIM_PTP_EN then s.rxPut n v.sub true tagged bare v.recv else s
    if s.bit Reg.TIM_PTP_TC && v.sub == 0 then t.ptpForward n f o v.recv v.sent else t
  else if et = s.rd (Reg.NET_ETYPE_XPORT n) then s.xportFrame n ⟨false, src, v.sub⟩ p
  else if et = s.rd (Reg.NET_ETYPE_FAB n) then s.fabricTake ⟨4 * n + v.sub, src, v.recv, v.sent⟩ p
  else if s.rd (Reg.NET_HOSTET_ET n) ≠ 0 ∧ et = s.rd (Reg.NET_HOSTET_ET n) then s.rxPut n v.sub false tagged bare 0
  else s.satInc (Reg.NET_CNT_0_DROP_FILTER n) 1

/-- A frame enters the receive buffer (R388): passing 75% sends pause frames. -/
def State.bufferIn (s : State) (n fill : Nat) : State :=
  if rxBuffer * 3 / 4 < fill ∧ !(s.port n).full75 then (s.modNet n fun p => { p with full75 := true }).sendPause n 0xFFFF else s

/-- A frame is received on a sub-port (R387, R388). -/
def State.etherIn (s : State) (v : EtherArrival) (f : List Byte) : State :=
  let n := v.port
  if !etherGood f then s.satInc (Reg.NET_CNT_0_FCS_ERR n) 1
  else if rxBuffer < v.fill + f.length then s.satInc (Reg.NET_CNT_3_RXBUF n) 1
  else
    let t := s.bufferIn n (v.fill + f.length)
    let tagged := beAt f 12 2 == 0x8100
    if v.upset then t.setFault (pNET n) 0
    else if !t.etherFor n v.sub (beAt f 0 6) then t
    else if tagged && beAt f 16 2 == 0x8100 then t
    else t.etherSort v f tagged

/-- ETHERNET_FRAME_RECEIVE (R387). -/
def execEthernetFrameReceive (n : BitVec 1) (sub : BitVec 2) (frame : List Byte) (recv sent : BitVec 64) (fill : Nat) (upset : Bool)
    (s : State) : Host.Outcome State Fault Refusal :=
  done (if s.running (pNET n.toNat) && s.subUsed n.toNat sub.toNat && s.linkUp n.toNat sub.toNat then
    s.etherIn ⟨n.toNat, sub.toNat, recv.toNat, sent.toNat, fill, upset⟩ frame else s)

/-- ETHERNET_LINK_CHANGE (R400): a sub-port's link goes up with the FEC that set-up has chosen, or goes down. -/
def execEthernetLinkChange (n : BitVec 1) (sub : BitVec 2) (up : Bool) (fec : BitVec 2) (s : State) : Host.Outcome State Fault Refusal :=
  let n := n.toNat
  let b := sub.toNat
  if !s.running (pNET n) || !s.subUsed n b || s.linkUp n b == up then done s
  else
    let l := s.rd (Reg.NET_STAT_LINK n)
    let a := s.rd (Reg.NET_STAT_FECACT n)
    let f := if up ∧ s.rd (Reg.NET_CFG_MODE n) = 2 then fec.toNat else 0
    let t := (s.wrs [(Reg.NET_STAT_LINK n, if up then setBit l b else clrBit l b),
      (Reg.NET_STAT_FECACT n, a - 4 ^ b * (a / 4 ^ b % 4) + 4 ^ b * f)]).raise (pNET n) 0
    done (if up then t.fabShow else (t.neighbourLost (4 * n + b)).fabShow)

end Sys2Proof.Machine
end

