-- ==== Sys2Proof/Machine/Flags.lean ====
section
/-!
DEFINITION. The status that registers show without holding it: FAULT_N and the fault summary (R453), the J2 pins (R50), the
gates (R434), the device events (R73), the identity word (R5), and the causes that keep a fault bit set (R68).
-/
namespace Sys2Proof.Machine

/-- A flag as a bit. -/
def b2n (b : Bool) : Nat := if b then 1 else 0

/-- Some class A bit is set in some page, by the table of R452. -/
def State.anyA (s : State) : Bool := s.anyFault Block.classA

/-- FAULT_N is held low by the module (R433, R453, R421). -/
def State.faultLow (s : State) : Bool :=
  s.pwr.phaseLow || s.pwr.warn || s.anyA || s.anyFault Block.classS || (s.anyFault Block.classD && s.bit Reg.GLB_FN_CFG_DEG)

/-- The page record index of the lowest-numbered page with an A or S bit set (R453). -/
def State.faultFirst (s : State) : Nat :=
  (allPages.findIdx? fun p => s.rd (Hdr.faultStat p) &&& (p.block.classA ||| p.block.classS) != 0).getD 0xFF

/-- GLB_FAULT_SUM. -/
def State.faultSum (s : State) : Nat :=
  2 ^ 31 * b2n s.anyA + 2 ^ 30 * b2n (s.anyFault Block.classS) + 2 ^ 29 * b2n (s.anyFault Block.classD) +
    2 ^ 28 * b2n (s.anyFault Block.classI) + s.faultFirst

/-- GLB_ID (R5): COOLING comes from the identity EEPROM, 0xF while none is accepted. -/
def State.glbId (s : State) : Nat :=
  0x26201001 + 0x100 * (if s.ink.eeprom.isEmpty then 0xF else leAt s.ink.eeprom 0x0D 1 % 16)

/-- GLB_PINS (R50). -/
def State.glbPins (s : State) : Nat :=
  ((List.range 4).map fun p => 2 ^ (8 + p) * b2n (!(s.irqLow p || s.pins.irqExtLow.testBit p))).sum +
    2 ^ 7 * b2n (!(s.faultLow || s.pins.faultExt)) + 2 ^ 6 * b2n s.switchClosed + 2 ^ 5 * b2n s.pins.permitLvl +
    2 ^ 4 * b2n s.pins.psupOk + 2 ^ 3 * b2n s.pins.custody + 2 ^ 2 * b2n s.pins.custodyRaw + 2 * b2n s.pins.perstN +
    b2n s.pins.alertN

/-- GLB_PERMIT (R434). -/
def State.glbPermit (s : State) : Nat :=
  2 ^ 31 * s.rd Reg.GLB_PERMIT_REQ + 2 ^ 5 * b2n s.faultA + 2 ^ 4 * b2n s.gateWarn + 2 ^ 3 * b2n s.gateRst +
    2 ^ 2 * b2n s.gatePsup + 2 * b2n s.gateCust + b2n s.gateLcy

/-- Word i of GLB_EVT_STATUS (R73), which the EVENTS field of a reckoning shows as well. -/
def State.evtStatus (s : State) (i : Nat) : Nat := ((List.range 32).map fun b => 2 ^ b * b2n (s.deviceEvent (32 * i + b))).sum

/-- PAGE_STATE (R62). -/
def State.pageState (s : State) (p : Page) : Nat :=
  s.pstate p + 8 * s.rd (Hdr.pendEn p) + 16 * s.rd (Hdr.pendRel p) + 32 * b2n (s.locked p)

/-! ### The causes of faults (R68) -/

/-- The causes of MOT's fault bits (R237, R240, R250, R256, R267). -/
def State.motCause (s : State) (b : Nat) : Bool :=
  let k := s.mot.samples.head?
  (b == 0 && s.posState != psVALID) || (b == 1 && decide (s.mot.equalRun < 64)) || (b == 2 && s.mot.scFault) ||
    (b == 3 && s.mot.reversal) || (b == 4 && (match k with | some k => !s.inLimits k.x k.y | none => false)) ||
    (b == 5 && decide (sx 16 (s.rd Reg.MOT_THERM_LIM_HARD) ≤ sx 16 (s.rd Reg.MOT_TEMP_TEMP))) ||
    (b == 6 && !s.bit Reg.MOT_TEMP_FRESH)

/-- The causes of PAK's fault bits (R303). -/
def State.pakCause (s : State) (b : Nat) : Bool :=
  (b == 0 && s.noSpare) || (b == 1 && s.pak.miss) || (b == 2 && s.pak.dead) || (b == 3 && s.returnLost)

/-- The causes of CMP's fault bits (R173, R179). -/
def State.cmpCause (s : State) (b : Nat) : Bool :=
  (b == 0 && s.rd Reg.CMP_STAT_SPARES == 0) || (b == 1 && decide (s.rd Reg.CMP_STAT_PAIRS < s.rd Reg.CMP_CFG_MIN_PAIRS))

/-- The causes of MEM_m's fault bits (R337, R341). -/
def State.memCause (s : State) (m b : Nat) : Bool :=
  (b == 0 && (s.stack m).want.any fun i => s.pcState m i == 0) || (b == 1 && s.mem.lost.any fun l => l.dead && stackOf (8 * l.chan) == m) ||
    (b == 2 && (s.stack m).hot)

/-- The causes of RCK's fault bits (R422, R425, R429, R447). -/
def State.rckCause (s : State) (b : Nat) : Bool :=
  (b == 0 && s.pwr.lost156) || (b == 1 && s.pwr.lost100) || (b == 2 && decide (s.phasesActive < 14)) ||
    (b == 3 && decide (s.phasesActive < 12)) || (b == 4 && s.pwr.vinOut) || (b == 5 && s.pwr.haltCause)

/-- The causes of FAB's fault bits (R404, R412, R418, R420). -/
def State.fabCause (s : State) (b : Nat) : Bool :=
  (b == 0 && s.fab.crcDiff) || (b == 1 && s.fab.leadLost) || (b == 2 && s.followersNow.any Follower.lost) ||
    (b == 3 && s.rd Reg.FAB_STAT_STATE == 3) || (b == 4 && s.misaligned)

/-- The cause of a block's FAULT_STAT bit is still present, so that a write of 1 leaves the bit set. The causes are those
that the owning chapters name, and CFG_CHECK lasts until a block reset of the page (R451). A bit for which the spec names no
lasting cause reports an event, and clears (DEDUCED, log entry 41). -/
def State.faultCausePresent (s : State) (p : Page) (b : Nat) : Bool :=
  if b = 31 then true
  else match p.block with
    | .glb => b == 0 && s.pins.permitLvl && !s.switchClosed
    | .rck => s.rckCause b
    | .lcy => (b == 0 && s.ink.bad) || (b == 1 && s.ink.one)
    | .tim => b == 0 && s.tim.bad
    | .fab => s.fabCause b
    | .cor => b == 0 && !s.srv.retired.isEmpty
    | .srv => b == 0 && !s.srv.coarse.isEmpty
    | .ras => b == 0 && s.role p.inst == roleRETIRED
    | .cmp => s.cmpCause b
    | .alc => decide (b < 2)
    | .pak => s.pakCause b
    | .qlk => b == 0 && s.laneRole p.inst == roFAILED
    | .ary => (b == 0 && s.ary.dark) || (b == 1 && s.detLost)
    | .mot => s.motCause b
    | .mem => s.memCause p.inst b
    | .exp => b == 0 && (match (s.ing.expanders.getD p.inst {}).mism with
      | some e => (s.findTrv e.1 e.2).isSome
      | none => false)
    | .chk => b == 0 && s.bit (Reg.CHK_STAT_BAD p.inst)
    | .led => b == 1
    | .ink | .net | .hst | .ing | .dma => false

end Sys2Proof.Machine
end

