-- ==== Sys2Proof/Machine/Views.lean ====
section
/-!
DEFINITION. What a read of BAR0 returns: the page header, the block registers, the table windows, the MSI-X structures, the
reckoning slots and the fabric mirror (R55, R56, R61, R62, R79, R382).
-/
namespace Sys2Proof.Machine

open Sys2Proof (Agent)

/-- The page an address of BAR0 lies in (R55). -/
def pageAt (a : Nat) : Option Page := allPages.find? fun p => decide (p.base ≤ a) && decide (a < p.base + p.block.pageSize)

/-- The register at an offset of a page, with its index where it repeats. -/
def regAt (p : Page) (off : Nat) : Option (RegDef × Nat) :=
  ((blockRegs p.block).find? fun r => (!r.only0 || p.inst == 0) && decide (r.off ≤ off) &&
    (if r.stride = 0 then off == r.off else (off - r.off) % r.stride == 0 && decide ((off - r.off) / r.stride < r.count))).map
      fun r => (r, if r.stride = 0 then 0 else (off - r.off) / r.stride)

/-- The fields of the register at an offset, in their places. -/
def regFields (p : Page) (off : Nat) : List (FieldDef × Fld) :=
  match regAt p off with
  | some (r, i) => r.fields.map fun d => (d, d.at (p.base + off) p.inst i)
  | none => []

/-- What a page's header shows (R61 to R68). -/
def State.headerWord (s : State) (p : Page) (off : Nat) : Nat :=
  if off = 0x00 then p.block.code * 2 ^ 16 + p.inst * 2 ^ 8 + 1
  else if off = 0x04 then p.block.instances * 2 ^ 16 + p.block.faultBits * 2 ^ 8 + p.block.evtBits
  else if off = 0x08 then s.rd (Hdr.enable p) + 2 * s.rd (Hdr.quiesce p) + 4 * s.rd (Hdr.resetReq p)
  else if off = 0x0C then s.pageState p
  else if off = 0x10 then s.rd (Hdr.evtRaw p)
  else if off = 0x14 then s.rd (Hdr.evtMask p)
  else if off = 0x18 then s.rd (Hdr.evtNum p) + 2 ^ 8 * s.rd (Hdr.evtOff p)
  else if off = 0x1C then s.rd (Hdr.discards p) + 2 ^ 16 * s.rd (Hdr.raises p)
  else if off = 0x20 then s.rd (Hdr.faultStat p)
  else if off = 0x24 then s.rd (Hdr.injFlip p) + 2 ^ 16 * s.rd (Hdr.injTarget p) + 2 ^ 31 * s.rd (Hdr.injArm p)
  else if off = 0x28 then s.rd (Hdr.scratch p)
  else if off = 0x2C then s.rd (Hdr.lock p) + 2 * s.rd (Hdr.hold p)
  else 0

/-! ### Registers that show state held elsewhere -/

/-- GLB registers (R5, R50, R73, R434, R477). -/
def State.viewGlb (s : State) (off : Nat) : Option Nat :=
  if off = 0x40 then some s.glbId
  else if off = 0x60 then some s.glbPins
  else if off = 0x70 then some s.glbPermit
  else if off = 0xA4 then some s.faultSum
  else if 0xC0 ≤ off ∧ off < 0xD0 then some (s.evtStatus ((off - 0xC0) / 4))
  else none

/-- STATE of ING_TRV_STAT (R148). -/
def TrvState.code : TrvState → Nat
  | .free => 0 | .expanding => 1 | .listed => 2 | .raster => 3 | .buffered => 4 | .draining => 5 | .waitRepair => 6

/-- ING_TRV_STAT of a traveller (R148). -/
def Traveller.stat (t : Traveller) : Nat :=
  t.state.code * 2 ^ 29 + b2n t.rcmp * 2 ^ 28 + b2n t.survey * 2 ^ 27 + t.handle % 16 * 2 ^ 22 + t.band % 32 * 2 ^ 17 +
    (t.nbands - 1) % 32 * 2 ^ 12 + t.slot.getD 0x3F

/-- STATE of ING_LAYOUT_n (R148). -/
def LayoutState.code : LayoutState → Nat
  | .empty => 0 | .receiving => 1 | .accepted => 2 | .freed => 3

/-- ING_LAYOUT_n. -/
def Layout.show (l : Layout) : Nat :=
  l.state.code * 2 ^ 30 + b2n (l.indexDamaged || l.blocks.any BlockEntry.damaged) * 2 ^ 29 + l.pages.length % 2 ^ 16

/-- ING_LAYOUT_REACH_n: the greatest REACH_X and REACH_Y of any bin (R123). -/
def Layout.reach (l : Layout) : Nat :=
  if l.state = .accepted then
    (l.index.bins.foldl (fun m b => max m b.ry) 0) * 2 ^ 16 + l.index.bins.foldl (fun m b => max m b.rx) 0
  else 0

/-- ING registers (R118, R122, R148). -/
def State.viewIng (s : State) (off : Nat) : Option Nat :=
  let t := s.trv (s.rd Reg.ING_TRV_SEL_INDEX)
  let d := s.ing.damagedQ.head?.getD (0, 0)
  if off = 0x4C then some s.lsFree4k
  else if off = 0x54 then
    some (match s.ing.repair, s.ing.delivery with
      | some r, _ => 2 ^ 31 + 2 ^ 30 + r.source * 2 ^ 8 + r.handle
      | none, some d => 2 ^ 31 + d.source * 2 ^ 8 + d.handle
      | none, none => 0)
  else if off = 0xA4 then some t.stat
  else if off = 0xA8 then some (t.stripe * 2 ^ 16)
  else if off = 0xAC then some t.seg
  else if off = 0xB0 then
    some ((s.ing.travellers.countP fun t => t.state != .free && t.survey) * 2 ^ 16 +
      s.ing.travellers.countP fun t => t.state != .free)
  else if off = 0xD0 then some (d.2 % 2 ^ 32)
  else if off = 0xD4 then
    some (b2n (!s.ing.damagedQ.isEmpty) * 2 ^ 31 + s.ing.damagedQ.length * 2 ^ 12 + d.1 * 2 ^ 8 + d.2 / 2 ^ 32)
  else if 0x140 ≤ off ∧ off < 0x180 then some (s.lay ((off - 0x140) / 4)).show
  else if 0x180 ≤ off ∧ off < 0x1C0 then some (s.lay ((off - 0x180) / 4)).reach
  else none

/-- EXP_n_STAT (R149). -/
def State.viewExp (s : State) (n off : Nat) : Option Nat :=
  if off = 0x40 then
    some (match (s.ing.expanders.getD n {}).work with
      | some (t, b) => 2 ^ 31 + b % 32 * 2 ^ 9 + t
      | none => 0)
  else none

/-- The bank of the beam table that the window shows (R214). -/
def State.viewedBank (s : State) : Nat :=
  if s.bit Reg.ALC_BT_CTRL_VIEW then s.rd Reg.ALC_BT_STAT_ACTIVE else 1 - s.rd Reg.ALC_BT_STAT_ACTIVE

/-- The words 0 that a bank's entries hold where they differ from their reset value. -/
def State.bankWords (s : State) (bank : Nat) : List Nat :=
  let lo := (Reg.btWord bank 0 0).key
  let hi := (Reg.btWord (bank + 1) 0 0).key
  (s.regs.filter fun e => decide (lo ≤ e.1) && decide (e.1 < hi) && e.1 / 32 % 8 == 0).map Prod.snd

/-- ALC_BT_ABS and ALC_BT_STUCK count the entries of the viewed bank that are absent and that are stuck (R230); an entry
at its reset value is absent. -/
def State.viewAlc (s : State) (off : Nat) : Option Nat :=
  let ws := s.bankWords s.viewedBank
  if off = 0x68 then
    some (262144 - ws.length + ws.countP fun w => bits w 17 16 == 2 || (bits w 17 16 == 1 && s.bit Reg.ALC_CFG_WEAK_ABSENT))
  else if off = 0x6C then some (ws.countP fun w => bits w 17 16 == 3)
  else none

/-- TIM_NOW_LO and TIM_RAW_LO (R382). -/
def State.viewTim (s : State) (off : Nat) : Option Nat :=
  if off = 0x40 then some (s.now % 2 ^ 32)
  else if off = 0x44 then some (s.now / 2 ^ 32)
  else if off = 0x48 then some (s.tim.c % 2 ^ 32)
  else if off = 0x4C then some (s.tim.c / 2 ^ 32)
  else none

/-- A register that shows state held elsewhere. -/
def State.view (s : State) (p : Page) (off : Nat) : Option Nat :=
  match p.block with
  | .glb => s.viewGlb off
  | .ing => s.viewIng off
  | .exp => s.viewExp p.inst off
  | .alc => s.viewAlc off
  | .tim => s.viewTim off
  | .fab => if off = 0x50 then some (ownUid % 2 ^ 32) else if off = 0x54 then some (ownUid / 2 ^ 32) else none
  | _ => none

/-- The value of the block register at an offset: 0 while the page is in RESET or RELEASING (R62), where no register
stands and in WO fields (R9, R10). -/
def State.blockWord (s : State) (p : Page) (off : Nat) : Nat :=
  if s.inReset p then 0
  else match s.view p off with
    | some v => v % 2 ^ 32
    | none => ((regFields p off).map fun e => if e.1.acc = .wo then 0 else s.rd e.2 * 2 ^ e.2.lo).sum % 2 ^ 32

/-! ### Capturing pairs (R250, R365, R369, R382) -/

/-- The offsets that a read of the register at an offset captures. -/
def captures (b : Block) (off : Nat) : List Nat :=
  match b with
  | .tim => if off ∈ [0x40, 0x48, 0x74] then [off + 4] else []
  | .mot => if off = 0x64 then [0x68, 0x6C, 0x70] else []
  | .dma => if off ∈ [0x100, 0x108, 0x110, 0x118] then [off + 4] else []
  | .chk => if off ∈ [0x50, 0x58, 0x60, 0x68, 0x70, 0x78] then [off + 4] else []
  | _ => []

/-- The register is one that another's read captures. -/
def captured (b : Block) (off : Nat) : Bool :=
  [off - 4, off - 8, off - 12].any fun o => (captures b o).contains off

/-- The place that holds a captured value: twice the value and 1, or 0 where nothing is captured. -/
def shadow (p : Page) (off : Nat) : Fld := ⟨p.base + off + 1, 0, 33, 0⟩

/-- What a captured register returns: the value captured; before any capture its reset value 0, in CHK the live value (R369
says nothing of a _HI read alone; DEDUCED, log entry 43). -/
def State.capturedWord (s : State) (p : Page) (off : Nat) : Nat :=
  if s.inReset p then 0
  else
    let v := s.rd (shadow p off)
    if v % 2 = 1 then v / 2 else if p.block = .chk then s.blockWord p off else 0

/-- A read of a block register, with its captures. In CHK a capture serves one read of the _HI register, so that a pair
written meanwhile is not hidden (DEDUCED, log entry 43). -/
def State.blockRead (s : State) (p : Page) (off : Nat) : Nat × State :=
  if captured p.block off then
    (s.capturedWord p off, if p.block = .chk then s.wr (shadow p off) 0 else s)
  else
    (s.blockWord p off,
      if s.inReset p then s
      else (captures p.block off).foldl (fun t o => t.wr (shadow p o) (2 * s.blockWord p o + 1)) s)

/-- A check unit answers a read once the writes before it have been taken from its queue (R368). -/
def State.chkDrain (s : State) (n : Nat) : Nat → State
  | 0 => s
  | k + 1 => (s.chkTake n).chkDrain n k

/-- A read of a page at an offset. -/
def State.pageRead (s : State) (p : Page) (off : Nat) : Nat × State :=
  if off < 0x40 then (s.headerWord p off, s)
  else
    let t := if p.block = .chk then s.chkDrain p.inst (s.chkUnit p.inst).queue.length else s
    if t.inReset p then (0, t)
    else
      let c := t.cfgAccess p
      if c.1 then c.2.draw else c.2.blockRead p off

/-- The word at an offset of a 4 KiB area that a byte list fills; an empty list stands for zeros. -/
def wordIn (l : List Byte) (o : Nat) : Nat := leAt l o 4

/-- A read of BAR0 (R55, R56): the value, and the state after it. Reading RCK_CELLAR_DATA is CELLAR_DATA_ACCESS. -/
def State.busRead (s : State) (a : Nat) : Nat × State :=
  match pageAt a with
  | some p => s.pageRead p (a - p.base)
  | none =>
    if 0x78000 ≤ a ∧ a < 0x78800 then (s.rd (Reg.msixWord ((a - 0x78000) / 16) ((a - 0x78000) % 16 / 4)), s)
    else if 0x79000 ≤ a ∧ a < 0x79010 then (s.rd (Reg.msixPend ((a - 0x79000) / 4)), s)
    else if tableMapped a then (s.tableRead a, if a < 0x1200000 then s.btInject else s)
    else if 0x2000000 ≤ a ∧ a < 0x2001000 then (wordIn s.reck.slot0 (a - 0x2000000), s)
    else if 0x2001000 ≤ a ∧ a < 0x2002000 then (wordIn s.reck.slot1 (a - 0x2001000), s)
    else if 0x3000000 ≤ a ∧ a < 0x3040000 then
      (match s.fab.mirror.find? fun e => e.1 == (a - 0x3000000) / 0x1000 with
        | some e => wordIn e.2 ((a - 0x3000000) % 0x1000)
        | none => 0, s)
    else (0, s.raise pHST 0)

/-- LO_REGISTER_READ_CAPTURE (R382, R56): a read of a register of BAR0 returns its value; a read of a _LO register of a
capturing pair captures the matching _HI register. -/
def execLoRegisterReadCapture (agent : Agent) (addr : BitVec 26) (s : State) : Host.Outcome State Fault Refusal :=
  let a := addr.toNat / 4 * 4
  done (if !s.hears agent then s
    else if a = 0x10064 ∧ s.inReset pRCK = false then (s.cfgInject pRCK).2.cellarAccess agent none
    else
      let r := s.busRead a
      r.2.emit (.regRead r.1))

end Sys2Proof.Machine
end

