-- ==== Sys2Proof/Machine/Reckoning.lean ====
section
/-!
DEFINITION. Reckoning: a request, the capture of every page at one point, and the completion of a summary (R75 to R81,
R407).
-/
namespace Sys2Proof.Machine

open Sys2Proof (Agent)

/-- A write of GLB_RECKON.REQ (R75, R76): REQ reads 1 while the request waits behind the one being assembled. The console's
requests count as the host's (DEDUCED, log entry 44). -/
def State.reckonWrite (s : State) (ag : Agent) : State :=
  let t := if s.bit Reg.GLB_RECKON_BUSY then s.wr Reg.GLB_RECKON_REQ 1 else s
  t.reckon (if ag = .innkeeper then 1 else 0) 0xFF

/-- RECKON_REQ (R76). -/
def execReckonReq (agent : Agent) (s : State) : Host.Outcome State Fault Refusal :=
  done (s.access agent pGLB fun s => s.reckonWrite agent)

/-- The page's island runs, so that its record can be captured (R81, R459). -/
def State.capturable (s : State) (p : Page) : Bool := s.islandLocked p.island

/-- The page record of R81; zeros where the page is not captured. -/
def State.pageRecord (s : State) (p : Page) : List Byte :=
  if s.capturable p then
    leBytes 4 (s.pageState p) ++ leBytes 4 (s.rd (Hdr.evtRaw p)) ++ leBytes 4 (s.rd (Hdr.faultStat p)) ++
      leBytes 4 (s.headerWord p 0x1C)
  else List.replicate 16 0

/-- NOTCAP (R80): bit i set where page record i is not captured. -/
def State.notCaptured (s : State) : Nat :=
  ((List.range 202).zip allPages).foldl (fun n e => if s.capturable e.2 then n else n + 2 ^ e.1) 0

/-- FLAGS (R80). -/
def State.reckFlags (s : State) (tick : Bool) : Nat :=
  b2n tick + 2 * b2n s.cur.isSome + 4 * b2n (s.notCaptured != 0) + 8 * b2n (s.bit Reg.INK_STATUS_INK_DOWN)

/-- A position register pair as 8 sign-extended bytes (R80). -/
def posBytes (lo hi : Nat) : List Byte := leBytes 8 (enc 64 (sx 48 (lo + 2 ^ 32 * hi)))

/-- The summary's fields before the page records, offsets 0x000 to 0x0FF (R80). -/
def State.reckHead (s : State) (tick : Bool) : List Byte :=
  ([0x52, 0x45, 0x43, 0x4B] : List Byte) ++ leBytes 2 1 ++ leBytes 2 202 ++ leBytes 4 s.reck.seq ++ leBytes 1 s.reck.source ++
    leBytes 1 s.reck.reqr ++ leBytes 2 (s.reckFlags tick) ++
    leBytes 4 (match s.cur with | some (w, _) => w.stripe | none => 0xFFFFFFFF) ++
    leBytes 4 (match s.cur with | some (_, p) => if p.launched = 0 then 0xFFFFFFFF else p.launched - 1 | none => 0xFFFFFFFF) ++
    leBytes 8 s.now ++ leBytes 32 s.notCaptured ++ List.replicate 192 0

/-- The summary's fields after the page records, offsets 0xDA0 to 0xFF7 (R80). -/
def State.reckTail (s : State) : List Byte :=
  posBytes (s.rd Reg.MOT_POS_X_LO_POS) (s.rd Reg.MOT_POS_X_HI_POS) ++
    posBytes (s.rd Reg.MOT_POS_Y_LO_POS) (s.rd Reg.MOT_POS_Y_HI_POS) ++ leBytes 4 (s.rd Reg.MOT_PLAN_TC_TC) ++
    leBytes 2 (s.ing.travellers.countP fun t => t.state != .free) ++
    leBytes 1 (s.ing.travellers.countP fun t => t.slot.isSome && t.valid) ++ leBytes 1 (s.rd Reg.CMP_STAT_PAIRS) ++
    leBytes 1 (s.rd Reg.PAK_STAT_K) ++ leBytes 1 (s.rd Reg.LCY_STATE_STATE) ++ leBytes 2 0 ++ leBytes 4 s.glbPins ++
    leBytes 4 s.glbId ++ List.replicate 12 0 ++ (List.range 4).flatMap (fun i => leBytes 4 (s.evtStatus i)) ++
    List.replicate 536 0

/-- The summary's bytes 0x000 to 0xFF7 at the capture point (R78, R80, R81). -/
def State.summary (s : State) (tick : Bool) : List Byte :=
  s.reckHead tick ++ allPages.flatMap s.pageRecord ++ s.reckTail

/-- RECKONING_CAPTURE (R78): the capture point of the summary being assembled is reached, at a tick boundary where `tick`
says so and ticks are being launched, else at the end of 2 µs. -/
def execReckoningCapture (tick : Bool) (s : State) : Host.Outcome State Fault Refusal :=
  done (if s.bit Reg.GLB_RECKON_BUSY && s.reck.captured.isNone then
      { s with reck := { s.reck with captured := some (s.summary (tick && s.mot.writing)) } }
    else s)

/-- The queued request begins as soon as the assembly before it has ended (R76). -/
def State.reckNext (s : State) : State :=
  if s.bit Reg.GLB_RECKON_PEND then
    { s.wrs [(Reg.GLB_RECKON_PEND, 0), (Reg.GLB_RECKON_REQ, 0)] with
      reck := { s.reck with source := s.reck.qSource, reqr := s.reck.qReqr, peers := s.reck.qPeers, captured := none } }
  else { s.wrs [(Reg.GLB_RECKON_BUSY, 0), (Reg.GLB_RECKON_REQ, 0)] with reck := { s.reck with captured := none, peers := [] } }

/-- The slot a summary is written into: the one that does not hold the latest, at first slot 0 (R79). -/
def State.reckSlot (s : State) : Nat := if s.bit Reg.GLB_RECKON_VALID then 1 - s.rd Reg.GLB_RECKON_SLOT else 0

/-- A captured summary completes (R79): it is written with its CHECK, GLB_RECKON shows it, the peers it serves get a copy
(R407), and the queued request begins. -/
def State.reckComplete (s : State) (body : List Byte) : State :=
  let full := body ++ leBytes 8 (crc64.of body)
  let slot := s.reckSlot
  let t : State := { s with reck := { s.reck with
    seq := (s.reck.seq + 1) % 2 ^ 32
    slot0 := if slot = 0 then full else s.reck.slot0
    slot1 := if slot = 0 then s.reck.slot1 else full } }
  let u := (t.wrs [(Reg.GLB_RECKON_SLOT, slot), (Reg.GLB_RECKON_LAST_SEQ, s.reck.seq), (Reg.GLB_RECKON_VALID, 1)]).raise pGLB 2
  (s.reck.peers.foldl (fun v a => v.fabricSend 0x11 a 16 full) u).reckNext

/-- RECKONING_COMPLETE (R79). -/
def execReckoningComplete (s : State) : Host.Outcome State Fault Refusal :=
  done (match s.reck.captured with | some body => s.reckComplete body | none => s)

end Sys2Proof.Machine
end

