-- ==== Sys2Proof/Machine/Timebase.lean ====
section
/-!
DEFINITION. The time base (chapter 17): the clock that counts, the increment, the step and the alarm.
-/
namespace Sys2Proof.Machine

open Sys2Proof (Agent)

/-- One time-base clock passes (R379): the raw counter and the clocks since C0 count while the TIM page is out of
reset. -/
def State.clock (s : State) : State :=
  if s.pwr.powered && !s.inReset pTIM then
    { s with tim := { s.tim with c := (s.tim.c + 1) % 2 ^ 64, since := s.tim.since + 1 } }
  else s

/-- The increments that may be applied (R380). -/
def incMin : Nat := 13730151452
def incMax : Nat := 13757639242

/-- B as the present clock has made it; after a failed check it is rebuilt from T (R383). -/
def State.rebase (s : State) : State :=
  let b := if s.tim.bad then s.now * 2 ^ 28 else s.tim.base + s.tim.since * s.timeInc
  { s with tim := { s.tim with base := b % 2 ^ 96, since := 0, bad := false } }

/-- The alarm, if it is armed and its time has come (R385). -/
def State.alarmCheck (s : State) : State :=
  if s.bit Reg.TIM_CTRL_ALARM_EN ∧ s.rd64 Reg.TIM_ALARM_LO_ALARM Reg.TIM_ALARM_HI_ALARM ≤ s.now then
    (s.wr Reg.TIM_CTRL_ALARM_EN 0).raise pTIM 0
  else s

/-- A write of TIM_INC_HI (R380): the pair with the _LO value held is applied, with T continuous. -/
def State.incHi (s : State) (v : Nat) : State :=
  let inc := (s.tim.heldInc.getD (s.rd Reg.TIM_INC_LO_INC)) + 2 ^ 32 * (v % 256)
  if inc < incMin ∨ incMax < inc then s.raise pTIM 31
  else (s.rebase.wr64 Reg.TIM_INC_LO_INC Reg.TIM_INC_HI_INC inc).raise pTIM 1

/-- A check of B, C0 or INC fails (R383). -/
def State.timeCheck (s : State) : State := ({ s with tim := { s.tim with bad := true } } : State).setFault pTIM 0

/-- What a write of INC or of a step does, and after it a failed check if there is one (R383; DEDUCED, log entry 77). -/
def State.timeWrite (s : State) (upset : Bool) (k : State → State) : State := if upset then (k s).timeCheck else k s

/-- INC_APPLY (R380). `upset`: a check fails (R383). -/
def execIncApply (agent : Agent) (high : Word) (upset : Bool) (s : State) : Host.Outcome State Fault Refusal :=
  done (s.access agent pTIM fun s => s.timeWrite upset fun s => s.incHi high.toNat)

/-- A write of TIM_ADJ_HI (R381): T steps by the signed D, or the step is discarded while MOT runs. -/
def State.adjHi (s : State) (v : Nat) : State :=
  if s.running pMOT then s.raise pTIM 31
  else
    let d := sx 64 (s.tim.heldAdj.getD 0 + 2 ^ 32 * v)
    let t := s.rebase
    ((({ t with tim := { t.tim with base := enc 96 ((t.tim.base : Int) + d * 2 ^ 28) } } : State).raise pTIM 2)).alarmCheck

/-- TIME_STEP (R381). `upset`: a check fails (R383). -/
def execTimeStep (agent : Agent) (high : Word) (upset : Bool) (s : State) : Host.Outcome State Fault Refusal :=
  done (s.access agent pTIM fun s => s.timeWrite upset fun s => s.adjHi high.toNat)

/-- ALARM (R385): the first clock in which T has reached TIM_ALARM. -/
def execAlarmDue (s : State) : Host.Outcome State Fault Refusal := done (if s.live pTIM then s.alarmCheck else s)

end Sys2Proof.Machine
end

