-- ==== Sys2Proof/Machine/Access.lean ====
section
/-!
DEFINITION. What a write of BAR0 does: the page header (R61 to R68, R72), the block registers field by field (R9, R10, R65,
R66) and what each of their action bits starts; the MSI-X table; and the accesses through BAR2 (R58).
-/
namespace Sys2Proof.Machine

open Sys2Proof (Agent)

/-! ### The page header -/

/-- A write of EVT_RAW: the written bits clear (R67). -/
def State.evtRawWrite (s : State) (p : Page) (v : Nat) : State :=
  s.wr (Hdr.evtRaw p) ((List.range 32).foldl (fun r b => if v.testBit b then clrBit r b else r) (s.rd (Hdr.evtRaw p)))

/-- The bits of EVT_RAW and EVT_MASK that exist (R67). -/
def Block.evtMaskBits (b : Block) : Nat := 7 * 2 ^ 29 + (2 ^ b.evtBits - 1)

/-- A write of EVT_MASK: each bit set over a raised bit makes a message (R72). -/
def State.evtMaskWrite (s : State) (p : Page) (v : Nat) : State :=
  let m := v &&& p.block.evtMaskBits
  let old := s.rd (Hdr.evtMask p)
  let fresh := (List.range 32).countP fun b => m.testBit b && !old.testBit b && s.evt p b
  let t := s.wr (Hdr.evtMask p) m
  if s.bit (Hdr.evtOff p) then t else (List.range fresh).foldl (fun u _ => u.message (s.rd (Hdr.evtNum p))) t

/-- A write of EVT_ROUTE: an asserted page event moves, and counts as a 0-to-1 transition at its new device event (R72). -/
def State.evtRouteWrite (s : State) (p : Page) (v : Nat) : State :=
  let num := bits v 6 0
  let off := bits v 8 8
  let t := s.wrs [(Hdr.evtNum p, num), (Hdr.evtOff p, off)]
  if s.pageEvent p && off == 0 && (num != s.rd (Hdr.evtNum p) || s.bit (Hdr.evtOff p)) then t.message num else t

/-- A write of FAULT_STAT: a written bit clears if its cause is gone (R68). -/
def State.faultStatWrite (s : State) (p : Page) (v : Nat) : State :=
  s.wr (Hdr.faultStat p) ((List.range 32).foldl (fun r b => if v.testBit b && !s.faultCausePresent p b then clrBit r b else r)
    (s.rd (Hdr.faultStat p)))

/-- A write of FAULT_INJ (R68). -/
def State.faultInjWrite (s : State) (p : Page) (v : Nat) : State :=
  let t := s.wrs [(Hdr.injFlip p, bits v 15 0), (Hdr.injTarget p, bits v 23 16)]
  if v.testBit 31 then t.wr (Hdr.injArm p) 1 else t

/-- A write of PAGE_LOCK (R65): a write of LOCK = 0 while HOLD = 1 is discarded. -/
def State.pageLockWrite (s : State) (p : Page) (v : Nat) : State :=
  let t := if s.bit (Hdr.hold p) && !v.testBit 0 then s else s.wr (Hdr.lock p) (bits v 0 0)
  if v.testBit 1 then t.wr (Hdr.hold p) 1 else t

/-- A write of PAGE_CTRL (R62 to R64). -/
def State.pageCtrlWrite (s : State) (p : Page) (v : Nat) : State :=
  let t := if s.bit (Hdr.enable p) == v.testBit 0 && (!v.testBit 0 || s.pstate p != stOFF) then
      (if v.testBit 0 then s else s.wr (Hdr.pendEn p) 0)
    else s.enableWrite p (v.testBit 0)
  let u := if t.bit (Hdr.quiesce p) == v.testBit 1 then t else t.quiesceWrite p (v.testBit 1)
  if v.testBit 2 then u.resetReqWrite p else u

/-- A write of a header register; the read-only ones and the reserved offsets ignore it. -/
def State.headerWrite (s : State) (p : Page) (off v : Nat) : State :=
  if off = 0x08 then s.pageCtrlWrite p v
  else if off = 0x10 then s.evtRawWrite p v
  else if off = 0x14 then s.evtMaskWrite p v
  else if off = 0x18 then s.evtRouteWrite p v
  else if off = 0x20 then s.faultStatWrite p v
  else if off = 0x24 then s.faultInjWrite p v
  else if off = 0x28 then s.wr (Hdr.scratch p) v
  else if off = 0x2C then s.pageLockWrite p v
  else s

/-- A header write of an agent: the header of every page is writable while its island is in reset (R62). -/
def State.headerAccess (s : State) (ag : Agent) (p : Page) (k : State → State) : State :=
  if p.ok && s.hears ag then k s else s

/-- EVT_RAW_CLEAR (R67). -/
def execEvtRawClear (agent : Agent) (page : Page) (value : Word) (s : State) : Host.Outcome State Fault Refusal :=
  done (s.headerAccess agent page fun s => s.evtRawWrite page value.toNat)

/-- EVT_MASK_WRITE (R72). -/
def execEvtMaskWrite (agent : Agent) (page : Page) (value : Word) (s : State) : Host.Outcome State Fault Refusal :=
  done (s.headerAccess agent page fun s => s.evtMaskWrite page value.toNat)

/-- EVT_ROUTE_WRITE (R72). -/
def execEvtRouteWrite (agent : Agent) (page : Page) (value : Word) (s : State) : Host.Outcome State Fault Refusal :=
  done (s.headerAccess agent page fun s => s.evtRouteWrite page value.toNat)

/-- FAULT_STAT_CLEAR (R68). -/
def execFaultStatClear (agent : Agent) (page : Page) (value : Word) (s : State) : Host.Outcome State Fault Refusal :=
  done (s.headerAccess agent page fun s => s.faultStatWrite page value.toNat)

/-- FAULT_INJ_ARM (R68). -/
def execFaultInjArm (agent : Agent) (page : Page) (value : Word) (s : State) : Host.Outcome State Fault Refusal :=
  done (s.headerAccess agent page fun s => s.faultInjWrite page value.toNat)

/-- PAGE_LOCK_WRITE (R65). -/
def execPageLockWrite (agent : Agent) (page : Page) (value : Word) (s : State) : Host.Outcome State Fault Refusal :=
  done (s.headerAccess agent page fun s => s.pageLockWrite page value.toNat)

/-! ### The MSI-X table (R55, R72) -/

/-- A write of a word of the MSI-X table: unmasking a vector sends its pending message. -/
def State.msixWrite (s : State) (n w v : Nat) : State :=
  let t := s.wr (Reg.msixWord n w) v
  if w = 3 ∧ s.vectorMasked n ∧ t.vectorMasked n = false ∧ (s.rd (Reg.msixPend (n / 32))).testBit (n % 32) then
    (t.wr (Reg.msixPend (n / 32)) (clrBit (s.rd (Reg.msixPend (n / 32))) (n % 32))).emit (.msix n)
  else t

/-- MSIX_VECTOR_UNMASK (R72): the mask bit of a vector's table entry is cleared. -/
def execMsixVectorUnmask (agent : Agent) (vector : BitVec 7) (s : State) : Host.Outcome State Fault Refusal :=
  let n := vector.toNat
  done (if s.hears agent && !s.inReset pHST then s.msixWrite n 3 (clrBit (s.rd (Reg.msixWord n 3)) 0) else s)

/-! ### Fields of a block register -/

/-- The value a write places in a field, without its reserved bits. -/
def FieldDef.part (d : FieldDef) (v : Nat) : Nat :=
  let x := v / 2 ^ d.lo % 2 ^ d.width
  match d.mask with | some m => x &&& m | none => x

/-- The field keeps its value at a write (R9, R65). -/
def State.kept (s : State) (p : Page) (d : FieldDef) : Bool := (d.acc == .rwl && s.running p) || (d.lock && s.locked p)

/-- A write places a reserved value in some field of a register (R66). -/
def reservedIn (fs : List (FieldDef × Fld)) (v : Nat) : Bool := fs.any fun e => e.1.acc != .ro && !e.1.allows (e.1.part v)

/-- A write of one field (R9, R65). -/
def State.fieldWrite (s : State) (p : Page) (v : Nat) (e : FieldDef × Fld) : State :=
  match e.1.acc with
  | .rw | .rwl =>
    if s.kept p e.1 then s.raiseIf (e.1.part v != s.rd e.2) p 31 else s.wr e.2 (e.1.part v)
  | .w1c => if e.1.part v = 0 then s else s.wr e.2 0
  | .ro | .wo | .w1s => s

/-- A write of fields, one by one. -/
def State.fieldsWrite (s : State) (p : Page) (v : Nat) (fs : List (FieldDef × Fld)) : State :=
  fs.foldl (fun t e => t.fieldWrite p v e) s

/-- Reserved values that the relation of two fields makes: HARD ≤ SOFT (R266), a _LO limit above its _HI (R256), ON above
SLOT − 1 (R320), and an ADDR that is not a multiple of 4 (R447). -/
def State.reservedPair (s : State) (p : Page) (off v : Nat) : Bool :=
  match p.block with
  | .mot =>
    (off == 0xF0 && decide (sx 16 (bits v 31 16) ≤ sx 16 (bits v 15 0))) ||
      (off == 0xE0 && decide (sx 32 (s.rd Reg.MOT_VLIM_X_HI_LIM) < sx 32 v)) ||
      (off == 0xE4 && decide (sx 32 v < sx 32 (s.rd Reg.MOT_VLIM_X_LO_LIM))) ||
      (off == 0xE8 && decide (sx 32 (s.rd Reg.MOT_VLIM_Y_HI_LIM) < sx 32 v)) ||
      (off == 0xEC && decide (sx 32 v < sx 32 (s.rd Reg.MOT_VLIM_Y_LO_LIM)))
  | .ary => off == 0x90 && decide (bits v 23 16 ≤ bits v 15 8)
  | .rck => off == 0x60 && v % 4 != 0
  | _ => false

/-- Registers whose writes are discarded for the time being: COR_TARGET, COR_KERN_k and COR_FOG while the SRV page runs
(R205), and QLK_n_TXEQ while the lane is DATA (R484). -/
def State.writeHeld (s : State) (p : Page) (off : Nat) : Bool :=
  match p.block with
  | .cor => decide (0x44 ≤ off) && decide (off ≤ 0x58) && s.running pSRV
  | .qlk => off == 0x5C && s.laneRole p.inst == roDATA
  | _ => false

/-! ### Registers with a write of their own -/

/-- COR_CFG: ITER keeps its value while the SRV page runs (R205). -/
def State.corCfgWrite (s : State) (v : Nat) : State :=
  let t := s.wr Reg.COR_CFG_CONV_LIM (bits v 15 0)
  if s.running pSRV then t.raiseIf (bits v 18 16 != s.rd Reg.COR_CFG_ITER) pCOR 31 else t.wr Reg.COR_CFG_ITER (bits v 18 16)

/-- RCK_CTRL (R425, R430). -/
def State.rckCtrlWrite (s : State) (ag : Agent) (v : Nat) : State :=
  let t := if v.testBit 2 then s.retryWrite else s
  let u := if v.testBit 1 then t.inkRstWrite (bits v 31 16) else t
  if v.testBit 0 then u.modRstWrite ag (bits v 31 16) else u

/-- FAB_MOT_MEMBERS (R414, R420): writable only while HSTATE is IDLE or WAITING; a module no longer listed is no follower,
and a group that is now complete is released. -/
def State.membersWrite (s : State) (f : Fld) (v : Nat) : State :=
  if s.hstate = hIDLE ∨ s.hstate = hWAITING then
    let t := s.wr f v
    let u : State := { t with fab := { t.fab with followers := t.fab.followers.filter fun f => t.listed f.addr } }
    if u.isLead then u.groupRelease else u
  else s.raise pFAB 31

/-- PAK_CFG: MODE acts as R297 states, the other fields field by field. -/
def State.pakCfgWrite (s : State) (v : Nat) : State :=
  (s.fieldsWrite pPAK v ((regFields pPAK 0x40).filter fun e => e.1.lo != 16)).modeWrite (bits v 17 16)

/-- Both axes' distance to a virtual limit, against the distance to rest at a deceleration (R255). -/
def Axis.overruns (a : Axis) (lo hi d : Int) : Bool :=
  let room := if a.dirn = 1 then hi * 2 ^ 21 - a.p else a.p - lo * 2 ^ 21
  decide (a.v ≠ 0) && decide (room < a.v * a.v / d)

/-- A write of MOT_PROF_ACC, _DEC or _STOP (R255), `old` being the state before it: the ramp in progress keeps the larger
value where the new one would carry an axis past a limit, or where a stripe's run-up, back-up or run-out is in hand. -/
def State.profWritten (s old : State) : State :=
  let d := if s.mot.stopRamp then s.stopNow else s.decNow
  let past := s.mot.ax.overruns s.limXLo s.limXHi d || s.mot.ay.overruns s.limYLo s.limYHi d
  let keep (t : State) (a b c : Int) : State :=
    (t.modMot fun m => { m with keepAcc := some (match m.keepAcc with
      | some (x, y, z) => (max x a, max y b, max z c)
      | none => (a, b, c)) }).raise pMOT 13
  let held (a b c : Int) : Bool := decide (s.accNow < a) || decide (s.decNow < b) || decide (s.stopNow < c)
  if s.mot.ax.ended && s.mot.ay.ended then s
  else match s.cur with
    | some (_, p) =>
      if (s.hstate == hRUNUP || s.hstate == hBACKING || s.hstate == hSTOPPING || s.hstate == hTURN) && held p.acc p.dec p.stop then
        keep s p.acc p.dec p.stop
      else if past && held old.accNow old.decNow old.stopNow then keep s old.accNow old.decNow old.stopNow else s
    | none => if past && held old.accNow old.decNow old.stopNow then keep s old.accNow old.decNow old.stopNow else s

/-- The registers whose write is one operation of their block, not a write of fields. -/
def State.regOp (s : State) (ag : Agent) (p : Page) (off v : Nat) : Option State :=
  match p.block with
  | .glb => if off = 0x70 then some (s.permitWrite (v.testBit 31))
    else if off = 0x80 then some (if v.testBit 0 then s.reckonWrite ag else s) else none
  | .rck => if off = 0x40 then some (s.rckCtrlWrite ag v)
    else if off = 0x64 then some (s.cellarAccess ag (some v)) else none
  | .tim => if off = 0x50 then some { s with tim := { s.tim with heldInc := some v } }
    else if off = 0x54 then some (s.incHi v)
    else if off = 0x58 then some { s with tim := { s.tim with heldAdj := some v } }
    else if off = 0x5C then some (s.adjHi v) else none
  | .fab => if off = 0xAC then some (s.membersWrite Reg.FAB_MOT_MEMBERS_LO_MEMBERS v)
    else if off = 0xB0 then some (s.membersWrite Reg.FAB_MOT_MEMBERS_HI_MEMBERS v) else none
  | .cor => if off = 0x40 then some (s.corCfgWrite v) else none
  | .alc => if off = 0x40 then some (s.geomWrite v) else none
  | .pak => if off = 0x40 then some (s.pakCfgWrite v) else none
  | .mem => if off = 0x204 then some (s.regionWrite v) else none
  | .led => if off = 0x4C then some (s.ledRdWrite v) else none
  | .ary => if off = 0x70 ∧ v.testBit 31 ∧ s.bit Reg.ARY_HK_RES_BUSY then some (s.raise pARY 31) else none
  | _ => none

/-! ### What action bits and settings do once their fields are written -/

/-- Do something if a bit of the written value is 1. -/
def State.on (s : State) (v b : Nat) (k : State → State) : State := if v.testBit b then k s else s

/-- Do something that asks for new work if a bit is 1 and the page takes it (R63). -/
def State.start (s : State) (p : Page) (v b : Nat) (k : State → State) : State := if v.testBit b && s.accepts p then k s else s

/-- ING (R118, R124, R126, R144, R146): two bits of one write act in the order given here (DEDUCED, log entry 45). -/
def State.actIng (s : State) (off v : Nat) : State :=
  if off = 0x44 then
    (s.on v 30 State.deliveryAbort).on v 31 fun s =>
      if v.testBit 29 then s.repairStart (bits v 3 0) (bits v 9 8) else s.deliveryStart (bits v 3 0) (bits v 9 8)
  else if off = 0x48 then s.on v 31 fun s => s.freeLayout (bits v 3 0)
  else if off = 0x80 then ((s.on v 2 State.flush).on v 1 State.waybillResume).on v 0 State.post
  else if off = 0xC0 then s.on v 31 fun s => s.rcmpReq (v.testBit 24) (bits v 23 0)
  else s

/-- MOT (R237, R255, R257, R270). -/
def State.actMot (s old : State) (off v : Nat) : State :=
  if off = 0x108 then s.on v 31 State.goMove
  else if off = 0x110 then ((s.on v 1 State.resume).on v 0 State.stop).on v 2 State.abandonWrite
  else if off = 0xC0 ∨ off = 0xC4 ∨ off = 0xC8 then s.profWritten old
  else if off = 0x4C then s.lanesChecked
  else s

/-- ARY (R309, R310, R317, R320). -/
def State.actAry (s : State) (off v : Nat) : State :=
  if off = 0x48 then s.start pARY v 31 State.passStart
  else if off = 0x70 then s.start pARY v 31 State.hkStart
  else if off = 0x90 ∨ off = 0x80 then s.detShow
  else if off = 0xAC then (s.on v 30 State.bcAbort).start pARY v 31 State.bcStart
  else s

/-- MEM (R334, R340, R339, R343). -/
def State.actMem (s : State) (n off v : Nat) : State :=
  if off = 0x54 then s.start (pMEM n) v 31 fun s => s.spareGo n
  else if off = 0x58 then s.start (pMEM n) v 31 fun s => s.pprGo n
  else if off = 0x68 then s.on v 0 fun s => s.popUe n
  else if off = 0x220 then (s.on v 31 State.testWrite).on v 30 State.testRead
  else s

/-- DMA_n_CTRL (R350, R361, R362): STOP with any other bit acts as STOP alone. -/
def State.actDma (s : State) (n off v : Nat) : State :=
  if off = 0x44 then
    if v.testBit 3 then s.dmaStop n
    else (((s.on v 4 fun s => s.dmaClear n).on v 1 fun s => s.dmaPause n).on v 2 fun s => s.dmaResume n).on v 0 fun s => s.dmaGo n
  else s

/-- FAB (R407, R408, R411, R416, R417, R420). -/
def State.actFab (s : State) (off v : Nat) : State :=
  if off = 0x40 then s.fabShow
  else if off = 0x60 then s.start pFAB v 31 fun s => s.fabReckGo (bits v 7 0)
  else if off = 0x70 then s.start pFAB v 31 fun s => s.fabShareGo (bits v 7 0)
  else if off = 0x84 then s.start pFAB v 30 State.takeStripes
  else if off = 0xA0 then
    if s.running pFAB then s else { s with fab := { s.fab with armCount := 0, followers := [] } }
  else if off = 0xB4 then (s.start pFAB v 1 State.groupGo).start pFAB v 0 State.groupHold
  else s

/-- PAK (R297, R489). -/
def State.actPak (s : State) (off v : Nat) : State :=
  if off = 0x44 then s.on v 0 State.retrain
  else if off = 0x68 then s.on v 31 fun s => s.modPak fun p => { p with alnNow := true }
  else s

/-- What a landed write makes its block do; `old` is the state before the fields were written. -/
def State.regAct (s old : State) (p : Page) (off v : Nat) : State :=
  match p.block with
  | .ink => if off = 0x44 then s.start pINK v 0 State.ring else s
  | .tim => if 0x60 ≤ off ∧ off ≤ 0x68 then s.alarmCheck else s
  | .net => if off = 0x40 then
      (if s.accepts p then s.setRunning p (s.rd (Reg.NET_CFG_MODE p.inst) != 0) else s).fabShow else s
  | .fab => s.actFab off v
  | .ing => s.actIng off v
  | .srv => if off = 0x40 then (s.on v 30 State.srvAbort).start pSRV v 31 fun s =>
      s.srvStart (bits v 3 0) (bits v 9 8) (v.testBit 4) else s
  | .ras => if off = 0x4C then s.on v 0 fun s => s.rejoin p.inst else s
  | .cmp => if off = 0x40 then s.cmpShow else s
  | .alc => if off = 0x60 then (s.on v 1 State.swap).on v 2 fun s => (s.wr Reg.ALC_BT_STAT_SWAP_PEND 0).bankShow else s
  | .pak => s.actPak off v
  | .qlk => if off = 0x44 then s.on v 0 fun s => s.laneRetrain p.inst else if off = 0x5C then s.eyeShow p.inst else s
  | .ary => s.actAry off v
  | .mot => s.actMot old off v
  | .mem => s.actMem p.inst off v
  | .dma => s.actDma p.inst off v
  | .glb | .rck | .lcy | .hst | .exp | .cor | .chk | .led => s

/-- A write of the block register at an offset (R9, R10, R62, R65, R66). -/
def State.blockWrite (s : State) (ag : Agent) (p : Page) (off v : Nat) : State :=
  let fs := regFields p off
  if fs.isEmpty then s
  else if s.inReset p then s.raise p 31
  else if p.block = .chk then (s.cfgInject p).2.chkWrite p.inst ag off v
  else
    let t := (s.cfgAccess p).2
    if reservedIn fs v || t.reservedPair p off v || t.writeHeld p off then t.raise p 31
    else match t.regOp ag p off v with
      | some u => u
      | none => (t.fieldsWrite p v fs).regAct t p off v

/-- A write of BAR0 by an agent that is heard (R55, R56). -/
def State.busWrite (s : State) (ag : Agent) (a v : Nat) (whole : Bool) : State :=
  match pageAt a with
  | some p =>
    if !whole then s
    else if a - p.base < 0x40 then s.headerWrite p (a - p.base) v
    else s.blockWrite ag p (a - p.base) v
  | none =>
    if 0x78000 ≤ a ∧ a < 0x78800 then
      if !whole || s.inReset pHST then s else s.msixWrite ((a - 0x78000) / 16) ((a - 0x78000) % 16 / 4) v
    else if 0x79000 ≤ a ∧ a < 0x79010 then s
    else if tableMapped a then (if whole then (s.tableWrite a v none).2 else s)
    else if (0x2000000 ≤ a ∧ a < 0x2002000) ∨ (0x3000000 ≤ a ∧ a < 0x3040000) then s
    else s.raise pHST 0

/-- REGISTER_WRITE (R9, R56): a write of one word of BAR0; with partial byte enables, or not aligned, it is discarded. -/
def execRegisterWrite (agent : Agent) (addr : BitVec 26) (value : Word) (enables : BitVec 4) (s : State) :
    Host.Outcome State Fault Refusal :=
  done (if s.hears agent then
      s.busWrite agent addr.toNat value.toNat (enables == 0xF && addr.toNat % 4 == 0)
    else s)

/-! ### BAR2 (R58, R59) -/

/-- The HBM address of an offset in BAR2. -/
def State.bar2Addr (s : State) (x : Nat) : Nat := s.rd Reg.GLB_BAR2_BASE_BASE * gib + x

/-- Read the bytes of a range that lie in one code word, after the bytes and flags gathered so far. -/
def State.bar2Word (s : State) (a n c : Nat) : (List Byte × Bool) × State :=
  let r := s.memRead c
  let lo := max a (32 * c)
  let hi := min (a + n) (32 * c + 32)
  match r.1 with
  | some d => ((slice d (lo - 32 * c) (hi - lo), false), r.2)
  | none => ((List.replicate (hi - lo) 0xFF, true), r.2)

/-- Read the code words of a range one after another. -/
def State.bar2Words (s : State) (a n : Nat) : List Nat → (List Byte × Bool) × State
  | [] => (([], false), s)
  | c :: t =>
    let r := s.bar2Word a n c
    let q := r.2.bar2Words a n t
    ((r.1.1 ++ q.1.1, r.1.2 || q.1.2), q.2)

/-- BAR2_READ (R58): `len` bytes from an offset. A read beyond the window's end is cut there. -/
def execBar2Read (offset : BitVec 34) (len : BitVec 12) (s : State) : Host.Outcome State Fault Refusal :=
  let n := min len.toNat (2 ^ 34 - offset.toNat)
  let a := s.bar2Addr offset.toNat
  done (if !s.hears .host then s
    else if s.bar2Closed then (s.raise pHST 1).emit (.completion (List.replicate n 0xFF) false)
    else
      let r := s.bar2Words a n (wordsOf a n)
      (r.2.raiseIf r.1.2 pHST 2).emit (.completion r.1.1 r.1.2))

/-- BAR2_WRITE (R58): a write beyond the window's end is cut there; `ep` tells a poisoned write. -/
def execBar2Write (offset : BitVec 34) (data : List Byte) (ep : Bool) (s : State) : Host.Outcome State Fault Refusal :=
  done (if !s.hears .host then s
    else if s.bar2Closed then s.raise pHST 1
    else s.memWrite (s.bar2Addr offset.toNat) (data.take (2 ^ 34 - offset.toNat)) true ep)

/-! ### Crossings (R18, R450) -/

/-- The committed edge is withdrawn, and a halt falls at its boundary (R244, R450). -/
def State.edgeSpoiled (s : State) : State :=
  match s.mot.committed with
  | none => s
  | some (t, _) => (s.modMot fun m => { m with committed := none, predicted := none, due := false }).halt rPOISON t

/-- A stripe-buffer read reaches the allocator spoiled (R226, R450). -/
def State.readSpoiled (s : State) (j : Nat) : State :=
  match s.cur with
  | none => s
  | some (w, p) =>
    if s.canCompute w p s.alc.next && (s.tickSegs w p s.alc.next).contains j then
      ((s.raise pALC 3).halt rPOISON s.alc.next).markRecompute w.seq j
    else s

/-- What a crossing does with a word that fails its check, and with words that are emptied out of it (R18, R450). -/
def State.crossed (s : State) : Sys2Proof.Crossing → State
  | .lists p => if s.live pCMP then s.recordCompare p (.poison 0) else s
  | .tile =>
    match s.ras.tiles.find? fun t => t.place == .agreed with
    | some t => if t.void then s.dropTile t else ((s.discardTile t).satInc Reg.COR_RES_FAILS 1).raise pCOR 0
    | none => s
  | .corrected c => if 32 * c < hbmSize then (s.putPoison c 0x03 (s.wordPc c) s.now).tellOwner c else s
  | .allocRead j => s.readSpoiled j
  | .lane n => if n < 80 then s.modLane n fun q => { q with corrupt := true } else s
  | .edge => s.edgeSpoiled
  | .sample => if s.live pMOT then s.smpDiscard Reg.MOT_CNT_0_CRC else s
  | .echo => s
  | .emptied p n => if p.ok && decide (0 < n) then (s.satInc (Hdr.discards p) n).raise p 29 else s

/-- CROSSING_WORD_DELIVER (R18, R450): a word that passes its check changes nothing of its own; what it carries is the
receiving block's command. -/
def execCrossingWordDeliver (kind : Sys2Proof.Crossing) (good : Bool) (s : State) : Host.Outcome State Fault Refusal :=
  done (match kind with
    | .emptied p n => s.crossed (.emptied p n)
    | k => if good then s else s.crossed k)

end Sys2Proof.Machine
end

