-- ==== Sys2Proof/Machine/Arm.lean ====
section
/-!
DEFINITION. Arming (R127): its checks in order, the band plan (R139), the planner (R262 to R265), and planning again
(R264).
-/
namespace Sys2Proof.Machine

/-! ### The planner (R262) -/

/-- T_lane(n) in ns (R27). -/
def tLane (n : Nat) : Nat := if n = 6 then 1000 else if n = 5 then 834 else 667

/-- T_min in 0.25 ns: the limits of R27 and PERIOD_MIN. -/
def tMinOf (w : Waybill) (n k : Nat) : Nat :=
  max (max (ceilDiv (4 * tLane n * 64) k) (ceilDiv ((2 ^ n - 1) * w.td) 64 + 32)) w.periodMin

/-- Cut rows into bands, each the longest run within a cap (R139): `cur` is (first row, rows, bytes) of the open band. -/
def cutBands (cap : Nat) : List Nat → Nat → Nat × Nat × Nat → List (Nat × Nat)
  | [], _, cur => [(cur.1, cur.2.1)]
  | b :: t, i, cur =>
    if cur.2.1 = 0 then cutBands cap t (i + 1) (i, 1, b)
    else if cur.2.2 + b ≤ cap then cutBands cap t (i + 1) (cur.1, cur.2.1 + 1, cur.2.2 + b)
    else (cur.1, cur.2.1) :: cutBands cap t (i + 1) (i, 1, b)

/-- LIST_CAP in bytes. -/
def State.listCap (s : State) : Nat := s.rd Reg.ING_CFG_LIST_CAP * mib

/-- ROW_BYTES of a segment in meeting order. -/
def State.segRows (s : State) (w : Waybill) (k q : Nat) : List Nat :=
  (List.range (k / 2)).map fun m => s.rowBytes w.handle w.stripe q w.dir k m

/-- Expanders in service: able to take new work (R137, R149). -/
def State.expandersOn (s : State) : Nat :=
  ((List.range 8).filter fun n => s.accepts ⟨.exp, n⟩ && !s.fault ⟨.exp, n⟩ 0).length

/-- The period, in 0.25 ns, of x / d clocks over N_s ticks with the margin (R262), rounded up; no unit in service gives
the longest period there is. -/
def State.periodOf (s : State) (x d ns : Nat) : Nat :=
  if d = 0 then 0xFFFFFFFF else ceilDiv (4 * x * (256 + s.rd Reg.MOT_PLAN_CFG_MARGIN)) (256 * ns * d)

/-- T_q(j) in 0.25 ns (R262). -/
def State.planTq (s : State) (w : Waybill) (k a tMin : Nat) (bands : List (List (Nat × Nat))) (j : Nat) : Nat :=
  let q := w.segIndex j
  let f (ofs n : Nat) : Nat := s.costField w.handle w.stripe q ofs n
  let sr := s.srOf w.handle
  let ns := 512 * k / a
  let rows := s.segRows w k q
  let bytes := ((bands.getD j []).map fun b =>
    ((rows.drop b.1).take b.2).sum * max 1 (ceilDiv (((List.range b.2).map fun i =>
      s.refKib w.handle w.stripe q w.dir k (b.1 + i)).sum * 1024) (32 * mib))).sum
  let pairs := s.rd Reg.CMP_STAT_PAIRS
  let sumTile := f 0xA0 8
  let tiles := (8 * k) * (8 * k)
  let npl := sumTile / 256
  let corr := tiles * 4096 * (if sr then 30 else 5) + npl * (if sr then 4624 else 4096)
  let nw := min (j + 1) (s.rd Reg.ING_CFG_AHEAD + s.rd Reg.ALC_GEOM_SLOTS_SET)
  let walk := ((List.range nw).map fun i => s.costField w.handle w.stripe (w.segIndex (j - i)) 0x18 4).sum * 1024
  max (max tMin (max (s.periodOf (bytes + 256 * 64) 64 ns)
      (if pairs = 0 then 0xFFFFFFFF else s.periodOf (ceilDiv sumTile pairs + f 0xA8 4 + 256) 1 ns)))
    (max (s.periodOf corr (64 * s.rd Reg.COR_RES_SLICES) ns) (s.periodOf walk (s.expandersOn * nw) ns))

/-! ### Outcomes of the checks (R127) -/

/-- What the checks make of the head waybill. -/
inductive ArmResult where
  | hold (reason : Nat)
  | refuse (code detail : Nat) (shows : List (Fld × Nat)) (alcEvent : Bool)
  | arm (p : Plan)
  deriving DecidableEq, Repr

/-- Segments of a waybill at a K. -/
def Waybill.segs (w : Waybill) (k : Nat) : List Nat := (List.range (nSegs w.length k)).map w.segIndex

/-- Check 5 (R183). -/
def State.inArea (s : State) (w : Waybill) : Bool :=
  let h := w.handle
  let k := s.kBeam
  let n := nSegs w.length k
  s.rd (Reg.COR_MAP_DESC_STATE h) == 0 ||
    (s.rd (Reg.COR_MAP_PARAM_K h) == k && decide (w.stripe < s.rd (Reg.COR_MAP_AREA_SX h)) &&
      (if w.dir = 0 then decide (w.startSeg + n ≤ s.rd (Reg.COR_MAP_AREA_SQ h))
       else decide (n ≤ w.startSeg + 1) && decide (w.startSeg < s.rd (Reg.COR_MAP_AREA_SQ h))))

/-- Check 6 (R127, R185). -/
def State.costed (s : State) (w : Waybill) : Bool :=
  s.rd (Reg.COR_MAP_DESC_STATE w.handle) != 0 &&
    (w.segs s.kBeam).all fun q => (s.costField w.handle w.stripe q 0xAC 4).testBit 1

/-- Check 7 (R13, R183). -/
def State.mapReady (s : State) (w : Waybill) : Bool :=
  let g := s.geo w.handle
  decide (((w.stripe + 1) * g.w - 1) / g.d + 1 + 1 < s.rd (Reg.COR_MAP_DONE_COLS w.handle))

/-- The fields that name a class in ALC_CHK_INFO (R230). -/
def chkClass (index ox res : Nat) : List (Fld × Nat) :=
  [(Reg.ALC_CHK_INFO_XS, ox), (Reg.ALC_CHK_INFO_RES, res), (Reg.ALC_CHK_INFO_INDEX, index)]

/-- Check 9: the visit check (R211). -/
def State.visitCheck (s : State) (w : Waybill) (p : Plan) : Option ArmResult :=
  match (List.range 512).find? fun r => decide (p.k ≤ s.itinOX w.itin r) || decide (p.a ≤ s.itinOY w.itin r) with
  | some r => some (.refuse 0x06 1 (chkClass r 0 0 ++ [(Reg.ALC_CHK_COUNT_COUNT, 0)]) true)
  | none =>
    let held (c : Nat) : Nat := ((List.range 512).filter fun r => s.rowClass w p r == (c / p.a, c % p.a)).length
    match (List.range (p.k * p.a)).find? fun c => held c != p.passes with
    | some c => some (.refuse 0x06 2 (chkClass 0 (c / p.a) (c % p.a) ++ [(Reg.ALC_CHK_COUNT_COUNT, held c)]) true)
    | none => none

/-- The first column and class, in the order of R224, that fails a test of its present rows: the column, the class and
the number of present rows. -/
def State.classFind (s : State) (w : Waybill) (p : Plan) (bad : Nat → List Nat → Bool) : Option (Nat × Nat × Nat) :=
  let rowsOf (c cl : Nat) : List Nat := (List.range 512).filter fun r =>
    s.rowClass w p r == (cl / p.a, cl % p.a) && !s.btAbsent p.bank p.weakAbs (512 * r + c)
  (((List.range 512).flatMap fun c => (List.range (p.k * p.a)).map fun cl => (c, cl)).find? fun e => bad e.1 (rowsOf e.1 e.2)).map
    fun e => (e.1, e.2, (rowsOf e.1 e.2).length)

/-- Check 10: the allocation checks (R224). `lost` is the first beam whose entry is uncorrectable in both copies. -/
def State.allocCheck (s : State) (w : Waybill) (p : Plan) (lost : Option Nat) : Option ArmResult :=
  let no (d : Nat) (l : List (Fld × Nat)) : Option ArmResult := some (.refuse 0x07 d l true)
  let stuck := (List.range 262144).filter fun b => s.btState p.bank b == 3
  if !s.accepts pALC then no 1 []
  else if p.full = 0 then no 2 []
  else match stuck with
    | b :: _ => no 3 (chkClass b 0 0 ++ [(Reg.ALC_CHK_COUNT_COUNT, stuck.length)])
    | [] =>
      let absent := s.absentCount p.bank p.weakAbs
      if s.rd Reg.ALC_CFG_ABS_MAX < absent then no 4 [(Reg.ALC_CHK_COUNT_COUNT, absent)]
      else match s.classFind w p fun _ rows => rows.isEmpty with
        | some (c, cl, _) => no 5 (chkClass c (cl / p.a) (cl % p.a) ++ [(Reg.ALC_CHK_COUNT_COUNT, 0)])
        | none =>
          match s.classFind w p fun c rows =>
              let g := (rows.map fun r => s.btGain p.bank (512 * r + c)).foldl max 0
              decide ((2 ^ p.n - 1) * 2 ^ 36 < ceilDiv (p.full * p.emax) rows.length * g) with
          | some (c, cl, m) => no 6 (chkClass c (cl / p.a) (cl % p.a) ++ [(Reg.ALC_CHK_COUNT_COUNT, m)])
          | none =>
            if p.dutyBeam * p.passes < 4 * p.full then no 7 []
            else if p.dutyGrp * p.passes < 1024 * p.full then no 8 []
            else match lost with
              | some b => no 9 (chkClass b 0 0 ++ [(Reg.ALC_CHK_COUNT_COUNT, 0)])
              | none => none

/-- Check 11: the motion checks (R265). -/
def State.motionCheck (s : State) (w : Waybill) (p : Plan) : Option ArmResult :=
  let no (d info : Nat) : Option ArmResult := some (.refuse 0x09 d [(Reg.MOT_PLAN_INFO_INFO, info)] false)
  let x := xRef w p.k p.g s.orgX
  let v := p.vTop p.vmax
  let y0 := s.curThr w p 0 - w.sign * dRun v p.acc p.settle
  let y1 := s.curThr w p (nTicks w.length p.k p.a - 1) + w.sign * ceilDivI (v * v) (2 * p.dec * 2 ^ 20)
  if !s.accepts pMOT then no 1 0
  else if x < s.limXLo ∨ s.limXHi < x then no 2 0
  else if y0 < s.limYLo ∨ s.limYHi < y0 ∨ y1 < s.limYLo ∨ s.limYHi < y1 then no 3 0
  else match (List.range p.tq.length).find? fun j => decide ((p.a * p.g * 4000 * 2 ^ 20 : Int) < s.vMin * p.tq.getD j 0) with
    | some j => no 4 j
    | none => if (p.a * p.g * 4000 * 2 ^ 20 : Int) < s.vMin * p.tMin ∨ p.vmax < s.vMin then no 4 0xFFFFFFFF else none

/-- The plan that arming would capture (R127, R139, R214, R223, R262 to R265). -/
def State.planOf (s : State) (w : Waybill) : Plan :=
  let k := s.kBeam
  let a := 2 ^ w.adv
  let lanes := s.rd Reg.PAK_STAT_K
  let tMin := tMinOf w w.depth lanes
  let bands := (w.segs k).map fun q => cutBands s.listCap (s.segRows w k q) 0 (0, 0, 0)
  { k := k, g := s.rd Reg.MOT_GRID_PITCH, a := a, n := w.depth,
    bank := if s.bit Reg.ALC_BT_STAT_SWAP_PEND then 1 - s.rd Reg.ALC_BT_STAT_ACTIVE else s.rd Reg.ALC_BT_STAT_ACTIVE,
    lanes := lanes, full := s.rd Reg.ALC_DOSE_FULL, emax := s.rd Reg.ALC_EMAX_EMAX, dutyBeam := s.rd Reg.ALC_DUTY_BEAM_LIM,
    dutyGrp := s.rd Reg.ALC_DUTY_GRP_LIM, dseed := s.rd Reg.ALC_DSEED_SEED, damp := s.rd Reg.ALC_CFG_DAMP,
    weakAbs := s.rd Reg.ALC_CFG_WEAK_ABSENT, acc := s.rd Reg.MOT_PROF_ACC_ACC, dec := s.rd Reg.MOT_PROF_DEC_DEC,
    stop := s.rd Reg.MOT_PROF_STOP_STOP, vmax := s.vMax, settle := s.rd Reg.MOT_PLAN_CFG_SETTLE, tMin := tMin,
    tq := (List.range (nSegs w.length k)).map fun j => s.planTq w k a tMin bands j, bands := bands,
    gstripe := s.fab.armCount, order := s.rd Reg.PAK_CFG_ORDER }

/-- The checks of R127 in order. -/
def State.armCheck (s : State) (w : Waybill) (lost : Option Nat) : ArmResult :=
  let l := s.lay w.handle
  let no (c : Nat) : ArmResult := .refuse c 0 [] false
  let k := s.kBeam
  if !w.fieldsOk then no 0x02
  else if l.state ≠ .receiving ∧ l.state ≠ .accepted then no 0x03
  else if l.state ≠ .accepted then .hold 1
  else if l.index.grid ≠ s.rd Reg.MOT_GRID_PITCH then no 0x04
  else if !s.inArea w then no 0x05
  else if !s.costed w then .hold 3
  else if !s.mapReady w then .hold 2
  else if (w.segs k).any fun q => (s.segRows w k q).any fun b => decide (s.listCap < b) then no 0x08
  else if s.rd Reg.PAK_STAT_K = 0 then .hold 4
  else
    let p := s.planOf w
    match s.visitCheck w p with
    | some r => r
    | none => match s.allocCheck w p lost with
      | some r => r
      | none => match s.motionCheck w p with
        | some r => r
        | none => .arm p

/-- The PLAN frames of a follower's stripe, at most 2,040 segments a frame (R416); `fuel` bounds their number. -/
def State.planFrames (s : State) (w : Waybill) (p : Plan) (align : Bool) : Nat → Nat → State
  | 0, _ => s
  | fuel + 1, j0 =>
    if p.tq.length ≤ j0 then s
    else
      let n := min 2040 (p.tq.length - j0)
      let al := align && j0 == 0
      let body := leBytes 4 p.gstripe ++ leBytes 4 j0 ++ leBytes 2 n ++ leBytes 1 ((if al then 1 else 0) + 2 * w.dir) ++
        leBytes 1 (if al then p.a else 0) ++ leBytes 2 (if al then p.g else 0) ++ leBytes 2 0 ++
        leBytes 4 (if al then nTicks w.length p.k p.a else 0) ++ leBytes 8 (if al then enc 64 (s.groupY0 w p) else 0) ++ leBytes 4 0 ++
        ((p.tq.drop j0).take n).flatMap (leBytes 4)
      (s.fabricSend 0x53 (s.rd Reg.FAB_MOT_LEAD) 16 body).planFrames w p align fuel (j0 + n)

/-- A follower sends the plan of a stripe (R415, R416). -/
def State.sendPlan (s : State) (w : Waybill) (p : Plan) (align : Bool) : State :=
  if s.isFollower then s.planFrames w p align p.tq.length 0 else s

/-- The head unarmed waybill is armed with a plan (R127, R214, R467). -/
def State.armWaybill (s : State) (w : Waybill) (p : Plan) : State :=
  let first := !s.anyArmed
  let v : Waybill := { w with plan := some p }
  let s1 : State := { s with ing := { s.ing with waybills := s.ing.waybills.map (fun x => if x.seq = w.seq then v else x),
                                                 curSeg := if first then 0 else s.ing.curSeg },
                             fab := { s.fab with armCount := (s.fab.armCount + 1) % 2 ^ 32 } }
  let s2 := if s.bit Reg.ALC_BT_STAT_SWAP_PEND then
      let t := (s1.wr Reg.ALC_BT_STAT_ACTIVE p.bank).wr Reg.ALC_BT_STAT_SWAP_PEND 0
      ({ t with alc := { t.alc with fired := true } } : State)
    else s1
  let s3 := (s2.wrs [(Reg.ING_WB_QSTAT_HOLD, 0), (Reg.ING_WB_RESULT_SEQ, w.seq), (Reg.ING_WB_RESULT_CODE, 0),
    (Reg.ING_WB_RESULT_DETAIL, 0)]).raise pING 5
  let s4 := (s3.openRecord v p).sendPlan v p true
  (if first then s4.alcClear.becomeCurrent.armShow else s4.armShow).ingShow.alignCheck

/-- The head unarmed waybill is refused (R127, R128). -/
def State.refuseWaybill (s : State) (w : Waybill) (code detail : Nat) (shows : List (Fld × Nat)) (alcEvent : Bool) : State :=
  let t : State := { s with ing := { s.ing with waybills := s.ing.waybills.filter fun x => x.seq != w.seq } }
  let u := (t.wrs [(Reg.ING_WB_QSTAT_HOLD, 0), (Reg.ING_WB_RESULT_SEQ, w.seq), (Reg.ING_WB_RESULT_CODE, code),
    (Reg.ING_WB_RESULT_DETAIL, detail), (Reg.ING_WB_QSTAT_STOPPED, 1)]).wrs shows
  ((u.raise pING 4).raiseIf alcEvent pALC 1).showQueue

/-- The head unarmed waybill is held; a new reason is a new entry (R127). -/
def State.holdWaybill (s : State) (reason : Nat) : State :=
  if s.rd Reg.ING_WB_QSTAT_HOLD = reason then s
  else (s.wr Reg.ING_WB_QSTAT_HOLD reason).raise pING 3

/-- WAYBILL_ARM (R127): the head unarmed waybill is checked while fewer than two are armed; after a failure of the
allocator none is armed before its block reset (R225). From the third allocation check on the beam table has been read. -/
def execWaybillArm (lostBeam : Option Nat) (s : State) : Host.Outcome State Fault Refusal :=
  if 2 ≤ s.armed.length ∨ s.bit Reg.ING_WB_QSTAT_STOPPED ∨ s.alc.stopped ∨ s.alc.abandonRel ∨ s.inReset pING then done s
  else match s.ing.waybills.find? fun w => w.plan.isNone with
    | none => done s
    | some w => match s.armCheck w lostBeam with
      | .hold r => done (s.holdWaybill r)
      | .refuse c d l e => done ((if c = 9 ∨ (c = 7 ∧ 3 ≤ d) then s.btInject else s).refuseWaybill w c d l e)
      | .arm p => done (s.btInject.armWaybill w p)

/-- A plan computed again with the units now in service; a segment whose cost record is being rebuilt keeps its T_q
(R264). -/
def State.replan (s : State) (w : Waybill) (p : Plan) : Plan :=
  { p with tq := (List.range p.tq.length).map fun j =>
      if (s.costField w.handle w.stripe (w.segIndex j) 0xAC 4).testBit 1 then s.planTq w p.k p.a p.tMin p.bands j else p.tq.getD j 0 }

/-- PLAN_RECOMPUTE (R264, R415): every armed stripe is planned again; a follower sends its plans again. -/
def execPlanRecompute (s : State) : Host.Outcome State Fault Refusal :=
  let ws := s.ing.waybills.map fun w => { w with plan := w.plan.map (s.replan w) }
  let t : State := { s with ing := { s.ing with waybills := ws } }
  done (t.armed.foldl (fun u w => match w.plan with | some p => u.sendPlan w p false | none => u) t)

end Sys2Proof.Machine
end

