-- ==== Sys2Proof/Machine/Dispatch.lean ====
section
/-!
DEFINITION. The effect of each command: one arm per constructor, each one call of its meaning.
-/
namespace Sys2Proof.Machine

open Sys2Proof (Instr)

def exec (i : Instr) (s : State) : Host.Outcome State Fault Refusal :=
  match i with
  | .registerWrite agent addr value enables => Sys2Proof.Machine.execRegisterWrite agent addr value enables s
  | .loRegisterReadCapture agent addr => Sys2Proof.Machine.execLoRegisterReadCapture agent addr s
  | .bar2Read offset len => Sys2Proof.Machine.execBar2Read offset len s
  | .bar2Write offset data ep => Sys2Proof.Machine.execBar2Write offset data ep s
  | .configurationRequest write => Sys2Proof.Machine.execConfigurationRequest write s
  | .msixVectorUnmask agent vector => Sys2Proof.Machine.execMsixVectorUnmask agent vector s
  | .evtRawClear agent page value => Sys2Proof.Machine.execEvtRawClear agent page value s
  | .evtMaskWrite agent page value => Sys2Proof.Machine.execEvtMaskWrite agent page value s
  | .evtRouteWrite agent page value => Sys2Proof.Machine.execEvtRouteWrite agent page value s
  | .faultStatClear agent page value => Sys2Proof.Machine.execFaultStatClear agent page value s
  | .faultInjArm agent page value => Sys2Proof.Machine.execFaultInjArm agent page value s
  | .pageLockWrite agent page value => Sys2Proof.Machine.execPageLockWrite agent page value s
  | .resetReq agent page => Sys2Proof.Machine.execResetReq agent page s
  | .blockResetRelease page => Sys2Proof.Machine.execBlockResetRelease page s
  | .pageEnable agent page value => Sys2Proof.Machine.execPageEnable agent page value s
  | .pageQuiesce agent page value => Sys2Proof.Machine.execPageQuiesce agent page value s
  | .islandLockHeld island => Sys2Proof.Machine.execIslandLockHeld island s
  | .lockTimeout page => Sys2Proof.Machine.execLockTimeout page s
  | .quiesceComplete page => Sys2Proof.Machine.execQuiesceComplete page s
  | .shutdownComplete page => Sys2Proof.Machine.execShutdownComplete page s
  | .crossingWordDeliver kind good => Sys2Proof.Machine.execCrossingWordDeliver kind good s
  | .reckonReq agent => Sys2Proof.Machine.execReckonReq agent s
  | .reckoningCapture tick => Sys2Proof.Machine.execReckoningCapture tick s
  | .reckoningComplete => Sys2Proof.Machine.execReckoningComplete s
  | .ringDoorbell agent => Sys2Proof.Machine.execRingDoorbell agent s
  | .unknownOperation => Sys2Proof.Machine.execUnknownOperation s
  | .identity => Sys2Proof.Machine.execIdentity s
  | .firmwareVersion => Sys2Proof.Machine.execFirmwareVersion s
  | .persistentStoreRead => Sys2Proof.Machine.execPersistentStoreRead s
  | .persistentStoreWrite => Sys2Proof.Machine.execPersistentStoreWrite s
  | .lifeCycleRequest => Sys2Proof.Machine.execLifeCycleRequest s
  | .firmwareStage signed version security verified => Sys2Proof.Machine.execFirmwareStage signed version security verified s
  | .firmwareCommit => Sys2Proof.Machine.execFirmwareCommit s
  | .calibrationSave => Sys2Proof.Machine.execCalibrationSave s
  | .calibrationRestore => Sys2Proof.Machine.execCalibrationRestore s
  | .deliveryStart agent handle source => Sys2Proof.Machine.execDeliveryStart agent handle source s
  | .repairStart agent handle source => Sys2Proof.Machine.execRepairStart agent handle source s
  | .deliveryAbort agent => Sys2Proof.Machine.execDeliveryAbort agent s
  | .ingestTransfer source handle ofs bytes => Sys2Proof.Machine.execIngestTransfer source handle ofs bytes s
  | .blockReceived => Sys2Proof.Machine.execBlockReceived s
  | .blockInterpreted => Sys2Proof.Machine.execBlockInterpreted s
  | .stagingBufferFree => Sys2Proof.Machine.execStagingBufferFree s
  | .freeLayout agent handle => Sys2Proof.Machine.execFreeLayout agent handle s
  | .layoutSpaceReleased => Sys2Proof.Machine.execLayoutSpaceReleased s
  | .post agent => Sys2Proof.Machine.execPost agent s
  | .waybillResume agent => Sys2Proof.Machine.execWaybillResume agent s
  | .flush agent => Sys2Proof.Machine.execFlush agent s
  | .waybillArm lostBeam => Sys2Proof.Machine.execWaybillArm lostBeam s
  | .stripeComplete => Sys2Proof.Machine.execStripeComplete s
  | .expanderDispatch n upset => Sys2Proof.Machine.execExpanderDispatch n upset s
  | .listPoolWaitEnd n => Sys2Proof.Machine.execListPoolWaitEnd n s
  | .bandListComplete n clocks mismatch => Sys2Proof.Machine.execBandListComplete n clocks mismatch s
  | .slotAssign => Sys2Proof.Machine.execSlotAssign s
  | .indexRebuildComplete handle => Sys2Proof.Machine.execIndexRebuildComplete handle s
  | .bandCorrected trav => Sys2Proof.Machine.execBandCorrected trav s
  | .travellerRelease trav => Sys2Proof.Machine.execTravellerRelease trav s
  | .rcmpReq agent next seg => Sys2Proof.Machine.execRcmpReq agent next seg s
  | .binnerRun mismatch => Sys2Proof.Machine.execBinnerRun mismatch s
  | .referenceStoreFree => Sys2Proof.Machine.execReferenceStoreFree s
  | .tileDispatch => Sys2Proof.Machine.execTileDispatch s
  | .tileRecordCompare p upset => Sys2Proof.Machine.execTileRecordCompare p upset s
  | .tileStall p => Sys2Proof.Machine.execTileStall p s
  | .stagingPoolFree p => Sys2Proof.Machine.execStagingPoolFree p s
  | .voteResolved vote upset => Sys2Proof.Machine.execVoteResolved vote upset s
  | .strikeDecay n => Sys2Proof.Machine.execStrikeDecay n s
  | .pairReform p => Sys2Proof.Machine.execPairReform p s
  | .rejoin agent n => Sys2Proof.Machine.execRejoin agent n s
  | .tileCorrect fail clock => Sys2Proof.Machine.execTileCorrect fail clock s
  | .kernelWindowWrite agent ofs value => Sys2Proof.Machine.execKernelWindowWrite agent ofs value s
  | .doseClassTableWrite agent c value => Sys2Proof.Machine.execDoseClassTableWrite agent c value s
  | .surveyStart agent handle sr => Sys2Proof.Machine.execSurveyStart agent handle sr s
  | .costWalkStart agent handle sr => Sys2Proof.Machine.execCostWalkStart agent handle sr s
  | .hostMapCommit agent handle sr => Sys2Proof.Machine.execHostMapCommit agent handle sr s
  | .hostMapRecheck agent handle sr => Sys2Proof.Machine.execHostMapRecheck agent handle sr s
  | .srvAbort agent => Sys2Proof.Machine.execSrvAbort agent s
  | .surveySegmentWalked n clocks mismatch => Sys2Proof.Machine.execSurveySegmentWalked n clocks mismatch s
  | .walkComplete => Sys2Proof.Machine.execWalkComplete s
  | .costWalkComplete => Sys2Proof.Machine.execCostWalkComplete s
  | .fogComplete fail clock => Sys2Proof.Machine.execFogComplete fail clock s
  | .sweepColumn fail clock => Sys2Proof.Machine.execSweepColumn fail clock s
  | .mapComplete => Sys2Proof.Machine.execMapComplete s
  | .hostMapCheckComplete => Sys2Proof.Machine.execHostMapCheckComplete s
  | .mapRepairComplete => Sys2Proof.Machine.execMapRepairComplete s
  | .itineraryWrite agent itin row value => Sys2Proof.Machine.execItineraryWrite agent itin row value s
  | .beamTableWrite agent beam word0 word1 => Sys2Proof.Machine.execBeamTableWrite agent beam word0 word1 s
  | .swap agent => Sys2Proof.Machine.execSwap agent s
  | .cancel agent => Sys2Proof.Machine.execCancel agent s
  | .bankCopyComplete => Sys2Proof.Machine.execBankCopyComplete s
  | .alcGeomWrite agent value => Sys2Proof.Machine.execAlcGeomWrite agent value s
  | .tickCompute upset => Sys2Proof.Machine.execTickCompute upset s
  | .planRebuild => Sys2Proof.Machine.execPlanRebuild s
  | .allocatorResetAbandon => Sys2Proof.Machine.execAllocatorResetAbandon s
  | .positionSample lane arrival dtxAt frame => Sys2Proof.Machine.execPositionSample lane arrival dtxAt frame s
  | .deflectionWordTimeout now => Sys2Proof.Machine.execDeflectionWordTimeout now s
  | .motionLaneLockChange lane locked => Sys2Proof.Machine.execMotionLaneLockChange lane locked s
  | .holdover now => Sys2Proof.Machine.execHoldover now s
  | .edgeCommit now => Sys2Proof.Machine.execEdgeCommit now s
  | .tickEdgeLaunch => Sys2Proof.Machine.execTickEdgeLaunch s
  | .phaseEdge => Sys2Proof.Machine.execPhaseEdge s
  | .setpointFrame => Sys2Proof.Machine.execSetpointFrame s
  | .goMove agent => Sys2Proof.Machine.execGoMove agent s
  | .runupStart => Sys2Proof.Machine.execRunupStart s
  | .gapMaxExpiry => Sys2Proof.Machine.execGapMaxExpiry s
  | .stop agent => Sys2Proof.Machine.execStop agent s
  | .resume agent => Sys2Proof.Machine.execResume agent s
  | .abandon agent => Sys2Proof.Machine.execAbandon agent s
  | .haltResume => Sys2Proof.Machine.execHaltResume s
  | .arrayTempReport src temp => Sys2Proof.Machine.execArrayTempReport src temp s
  | .temperatureReportStale => Sys2Proof.Machine.execTemperatureReportStale s
  | .planRecompute => Sys2Proof.Machine.execPlanRecompute s
  | .motResetAbandon => Sys2Proof.Machine.execMotResetAbandon s
  | .qlinkFrameSend n upset => Sys2Proof.Machine.execQlinkFrameSend n upset s
  | .tickMarker stamp => Sys2Proof.Machine.execTickMarker stamp s
  | .laneMapSet n => Sys2Proof.Machine.execLaneMapSet n s
  | .echoFrame m frame => Sys2Proof.Machine.execEchoFrame m frame s
  | .statusFrame m frame => Sys2Proof.Machine.execStatusFrame m frame s
  | .echoTimeout n alive => Sys2Proof.Machine.execEchoTimeout n alive s
  | .arrayDead => Sys2Proof.Machine.execArrayDead s
  | .returnLaneLockChange m locked => Sys2Proof.Machine.execReturnLaneLockChange m locked s
  | .returnLanePolarityFlip m => Sys2Proof.Machine.execReturnLanePolarityFlip m s
  | .pakRetrain agent => Sys2Proof.Machine.execPakRetrain agent s
  | .pakModeChange agent mode => Sys2Proof.Machine.execPakModeChange agent mode s
  | .trainPhaseComplete => Sys2Proof.Machine.execTrainPhaseComplete s
  | .bringupTimeout => Sys2Proof.Machine.execBringupTimeout s
  | .qlkRetrain agent n => Sys2Proof.Machine.execQlkRetrain agent n s
  | .laneRetrainComplete n => Sys2Proof.Machine.execLaneRetrainComplete n s
  | .loadPassport agent => Sys2Proof.Machine.execLoadPassport agent s
  | .passportLoadComplete image written => Sys2Proof.Machine.execPassportLoadComplete image written s
  | .hkGo agent write addr data => Sys2Proof.Machine.execHkGo agent write addr data s
  | .hkTransactionComplete value => Sys2Proof.Machine.execHkTransactionComplete value s
  | .temperaturePoll value => Sys2Proof.Machine.execTemperaturePoll value s
  | .arrayAlert => Sys2Proof.Machine.execArrayAlert s
  | .detectorLockChange ch locked rate => Sys2Proof.Machine.execDetectorLockChange ch locked rate s
  | .detectorPhaseStep ch mid => Sys2Proof.Machine.execDetectorPhaseStep ch mid s
  | .checkRunStart left => Sys2Proof.Machine.execCheckRunStart left s
  | .checkRunComplete dark darkN slots stuck hostHit => Sys2Proof.Machine.execCheckRunComplete dark darkN slots stuck hostHit s
  | .aryBcStart agent all part => Sys2Proof.Machine.execAryBcStart agent all part s
  | .aryBcAbort agent => Sys2Proof.Machine.execAryBcAbort agent s
  | .writeBackApply => Sys2Proof.Machine.execWriteBackApply s
  | .hbmRead addr flips opens => Sys2Proof.Machine.execHbmRead addr flips opens s
  | .hbmWrite addr data host opens => Sys2Proof.Machine.execHbmWrite addr data host opens s
  | .memFillComplete n => Sys2Proof.Machine.execMemFillComplete n s
  | .scrubRead n flips => Sys2Proof.Machine.execScrubRead n flips s
  | .scrubberBehind n => Sys2Proof.Machine.execScrubberBehind n s
  | .refreshDue n pc bank busy => Sys2Proof.Machine.execRefreshDue n pc bank busy s
  | .refreshCycleEnd n pc bank => Sys2Proof.Machine.execRefreshCycleEnd n pc bank s
  | .stackTemperatureRead n temp => Sys2Proof.Machine.execStackTemperatureRead n temp s
  | .pop agent n => Sys2Proof.Machine.execPop agent n s
  | .pprGo agent n => Sys2Proof.Machine.execPprGo agent n s
  | .pprComplete n left => Sys2Proof.Machine.execPprComplete n left s
  | .spareGo agent n pc => Sys2Proof.Machine.execSpareGo agent n pc s
  | .sparingComplete n => Sys2Proof.Machine.execSparingComplete n s
  | .pseudoChannelDead n pc => Sys2Proof.Machine.execPseudoChannelDead n pc s
  | .testWrite agent => Sys2Proof.Machine.execTestWrite agent s
  | .testRead agent => Sys2Proof.Machine.execTestRead agent s
  | .mem0RegionWrite agent value => Sys2Proof.Machine.execMem0RegionWrite agent value s
  | .memResetLoss => Sys2Proof.Machine.execMemResetLoss s
  | .dmaGo agent n => Sys2Proof.Machine.execDmaGo agent n s
  | .dmaResponse n resp upset => Sys2Proof.Machine.execDmaResponse n resp upset s
  | .dmaCompletionTimeout n => Sys2Proof.Machine.execDmaCompletionTimeout n s
  | .dmaDescriptorComplete n => Sys2Proof.Machine.execDmaDescriptorComplete n s
  | .dmaDescriptorFetch n resp => Sys2Proof.Machine.execDmaDescriptorFetch n resp s
  | .pause agent n => Sys2Proof.Machine.execPause agent n s
  | .dmaPaused n => Sys2Proof.Machine.execDmaPaused n s
  | .dmaResume agent n => Sys2Proof.Machine.execDmaResume agent n s
  | .dmaStop agent n => Sys2Proof.Machine.execDmaStop agent n s
  | .clearErr agent n => Sys2Proof.Machine.execClearErr agent n s
  | .busMasterEnableCleared => Sys2Proof.Machine.execBusMasterEnableCleared s
  | .feedB n agent value => Sys2Proof.Machine.execFeedB n agent value s
  | .feedH n agent value => Sys2Proof.Machine.execFeedH n agent value s
  | .feedW n agent value => Sys2Proof.Machine.execFeedW n agent value s
  | .chkQueueEntryTaken n => Sys2Proof.Machine.execChkQueueEntryTaken n s
  | .chkStart n agent set => Sys2Proof.Machine.execChkStart n agent set s
  | .preset n agent set => Sys2Proof.Machine.execPreset n agent set s
  | .cmpGo n agent set => Sys2Proof.Machine.execCmpGo n agent set s
  | .runWrite n agent high value => Sys2Proof.Machine.execRunWrite n agent high value s
  | .alive n agent value => Sys2Proof.Machine.execAlive n agent value s
  | .incApply agent high upset => Sys2Proof.Machine.execIncApply agent high upset s
  | .timeStep agent high upset => Sys2Proof.Machine.execTimeStep agent high upset s
  | .alarmDue => Sys2Proof.Machine.execAlarmDue s
  | .ethernetFrameReceive n sub frame recv sent fill upset => Sys2Proof.Machine.execEthernetFrameReceive n sub frame recv sent fill upset s
  | .receiveBufferDrain n => Sys2Proof.Machine.execReceiveBufferDrain n s
  | .pauseQuantaExpiry n sub priority => Sys2Proof.Machine.execPauseQuantaExpiry n sub priority s
  | .ethernetLinkChange n sub up fec => Sys2Proof.Machine.execEthernetLinkChange n sub up fec s
  | .txRingEntrySend n head sent held => Sys2Proof.Machine.execTxRingEntrySend n head sent held s
  | .txrIdxWrite agent n wr => Sys2Proof.Machine.execTxrIdxWrite agent n wr s
  | .rxrIdxWrite agent n rd => Sys2Proof.Machine.execRxrIdxWrite agent n rd s
  | .reqFrame n sub source frame => Sys2Proof.Machine.execReqFrame n sub source frame s
  | .dataFrame n sub source frame => Sys2Proof.Machine.execDataFrame n sub source frame s
  | .credit n => Sys2Proof.Machine.execCredit n s
  | .helloFrame link mac frame => Sys2Proof.Machine.execHelloFrame link mac frame s
  | .helloSend => Sys2Proof.Machine.execHelloSend s
  | .neighbourLost link => Sys2Proof.Machine.execNeighbourLost link s
  | .lsaFrame link frame => Sys2Proof.Machine.execLsaFrame link frame s
  | .lsaFlood => Sys2Proof.Machine.execLsaFlood s
  | .lsaExpiry uid => Sys2Proof.Machine.execLsaExpiry uid s
  | .membershipSettled => Sys2Proof.Machine.execMembershipSettled s
  | .fabricFrameForward link frame => Sys2Proof.Machine.execFabricFrameForward link frame s
  | .fabReckGo agent dst => Sys2Proof.Machine.execFabReckGo agent dst s
  | .reckReq link frame => Sys2Proof.Machine.execReckReq link frame s
  | .reckData link frame => Sys2Proof.Machine.execReckData link frame s
  | .reckonRequestTimeout => Sys2Proof.Machine.execReckonRequestTimeout s
  | .fabShareGo agent peer => Sys2Proof.Machine.execFabShareGo agent peer s
  | .shareReq link frame => Sys2Proof.Machine.execShareReq link frame s
  | .shareRsp link frame => Sys2Proof.Machine.execShareRsp link frame s
  | .shareAnswerTimeout => Sys2Proof.Machine.execShareAnswerTimeout s
  | .shareCreditTimeout peer => Sys2Proof.Machine.execShareCreditTimeout peer s
  | .lxport link frame => Sys2Proof.Machine.execLxport link frame s
  | .densFrame link frame => Sys2Proof.Machine.execDensFrame link frame s
  | .densEnd link frame => Sys2Proof.Machine.execDensEnd link frame s
  | .densNakTimer stripe => Sys2Proof.Machine.execDensNakTimer stripe s
  | .densNak link frame => Sys2Proof.Machine.execDensNak link frame s
  | .takeGo agent => Sys2Proof.Machine.execTakeGo agent s
  | .mapcrc link frame => Sys2Proof.Machine.execMapcrc link frame s
  | .treqSend t1 => Sys2Proof.Machine.execTreqSend t1 s
  | .treq link recv sent frame => Sys2Proof.Machine.execTreq link recv sent frame s
  | .trsp link recv frame => Sys2Proof.Machine.execTrsp link recv frame s
  | .mstatSend => Sys2Proof.Machine.execMstatSend s
  | .mstat link frame => Sys2Proof.Machine.execMstat link frame s
  | .fstatSend => Sys2Proof.Machine.execFstatSend s
  | .fstat link frame => Sys2Proof.Machine.execFstat link frame s
  | .hreq link frame => Sys2Proof.Machine.execHreq link frame s
  | .planFrame link frame => Sys2Proof.Machine.execPlanFrame link frame s
  | .leadLost => Sys2Proof.Machine.execLeadLost s
  | .memberLost addr => Sys2Proof.Machine.execMemberLost addr s
  | .fabMotStop agent => Sys2Proof.Machine.execFabMotStop agent s
  | .fabMotGo agent => Sys2Proof.Machine.execFabMotGo agent s
  | .fabricReset link frame => Sys2Proof.Machine.execFabricReset link frame s
  | .vinStart => Sys2Proof.Machine.execVinStart s
  | .powerFailWarning => Sys2Proof.Machine.execPowerFailWarning s
  | .warningEnd => Sys2Proof.Machine.execWarningEnd s
  | .powerDown => Sys2Proof.Machine.execPowerDown s
  | .overvoltage => Sys2Proof.Machine.execOvervoltage s
  | .overvoltageEnd => Sys2Proof.Machine.execOvervoltageEnd s
  | .phaseSwitchOff p => Sys2Proof.Machine.execPhaseSwitchOff p s
  | .sparePhaseActivate => Sys2Proof.Machine.execSparePhaseActivate s
  | .resetNFall glitch => Sys2Proof.Machine.execResetNFall glitch s
  | .moduleResetAssert => Sys2Proof.Machine.execModuleResetAssert s
  | .moduleResetBlockAssert => Sys2Proof.Machine.execModuleResetBlockAssert s
  | .moduleResetRelease => Sys2Proof.Machine.execModuleResetRelease s
  | .perstNAssert => Sys2Proof.Machine.execPerstNAssert s
  | .perstNRelease => Sys2Proof.Machine.execPerstNRelease s
  | .modRst agent key => Sys2Proof.Machine.execModRst agent key s
  | .inkRst agent key => Sys2Proof.Machine.execInkRst agent key s
  | .retry agent => Sys2Proof.Machine.execRetry agent s
  | .innkeeperWatchdog now => Sys2Proof.Machine.execInnkeeperWatchdog now s
  | .innkeeperRestartComplete => Sys2Proof.Machine.execInnkeeperRestartComplete s
  | .referenceClockLoss pcie => Sys2Proof.Machine.execReferenceClockLoss pcie s
  | .referenceClockReturn pcie => Sys2Proof.Machine.execReferenceClockReturn pcie s
  | .islandLockLoss island => Sys2Proof.Machine.execIslandLockLoss island s
  | .innkeeperBootComplete eeprom slotOk => Sys2Proof.Machine.execInnkeeperBootComplete eeprom slotOk s
  | .eepromReadRetry => Sys2Proof.Machine.execEepromReadRetry s
  | .innkeeperBootTimeout => Sys2Proof.Machine.execInnkeeperBootTimeout s
  | .custodyNChange level => Sys2Proof.Machine.execCustodyNChange level s
  | .custodyFilterAccept => Sys2Proof.Machine.execCustodyFilterAccept s
  | .permitContradiction high => Sys2Proof.Machine.execPermitContradiction high s
  | .permitWithdrawn low => Sys2Proof.Machine.execPermitWithdrawn low s
  | .glbPermitWrite agent req => Sys2Proof.Machine.execGlbPermitWrite agent req s
  | .cellarDataAccess agent write upset => Sys2Proof.Machine.execCellarDataAccess agent write upset s
  | .storeCommitComplete verified => Sys2Proof.Machine.execStoreCommitComplete verified s
  | .commitTokenGain => Sys2Proof.Machine.execCommitTokenGain s
  | .wipeComplete => Sys2Proof.Machine.execWipeComplete s
  | .firmwareConfirmed => Sys2Proof.Machine.execFirmwareConfirmed s
  | .firmwareFallback now => Sys2Proof.Machine.execFirmwareFallback now s
  | .segRecord trav hashFail => Sys2Proof.Machine.execSegRecord trav hashFail s
  | .ledgerRecordWrite => Sys2Proof.Machine.execLedgerRecordWrite s
  | .ledRdWrite agent value => Sys2Proof.Machine.execLedRdWrite agent value s
  | .marginScanStep n passed => Sys2Proof.Machine.execMarginScanStep n passed s
  | .laneRotation => Sys2Proof.Machine.execLaneRotation s
  | .rotationAdoptionTimeout => Sys2Proof.Machine.execRotationAdoptionTimeout s
  | .alignmentRunStart now => Sys2Proof.Machine.execAlignmentRunStart now s
  | .alignmentRunComplete pulses => Sys2Proof.Machine.execAlignmentRunComplete pulses s
  | .thermalCheck lid die => Sys2Proof.Machine.execThermalCheck lid die s
  | .tripPowerStop => Sys2Proof.Machine.execTripPowerStop s
  | .tripRestart lid => Sys2Proof.Machine.execTripRestart lid s
  | .holdoverMissLimit now => Sys2Proof.Machine.execHoldoverMissLimit now s
  | .psupOkChange ok => Sys2Proof.Machine.execPsupOkChange ok s
  | .vinRangeChange outside vin iin => Sys2Proof.Machine.execVinRangeChange outside vin iin s
  | .receiverAdaptationStep rx ctle phase taps eyeW eyeH => Sys2Proof.Machine.execReceiverAdaptationStep rx ctle phase taps eyeW eyeH s
  | .alignmentTickEdge => Sys2Proof.Machine.execAlignmentTickEdge s

end Sys2Proof.Machine
end

