-- ==== Sys2Proof/Safety.lean ====
section
/-!
DEFINITION. What a safe run of the module is, in the terms that claims use.
-/
namespace Sys2Proof.Machine

/-- The permit is safe: GLB_PERMIT.REQ is 1 only while every gate is 0 (R434, R435). -/
def State.permitSafe (s : State) : Bool := !(s.bit Reg.GLB_PERMIT_REQ && s.gated)

/-- What an open permit switch needs, spelled out (R434): the life-cycle state OPEN, custody applied, the supply good, no
power-fail warning, no module reset and none of the four pages in reset, no class A fault. -/
def State.permitGrounds (s : State) : Prop :=
  s.rd Reg.LCY_STATE_STATE = 0x10 ∧ s.rd Reg.LCY_STATE_CUSTODY ≠ 0 ∧ s.pins.psupOk = true ∧ s.pwr.warn = false ∧
    s.pwr.modPhase = .none ∧ (∀ p ∈ [pGLB, pMOT, pALC, pPAK], s.inReset p = false) ∧
    ∀ b ∈ classABlocks, ∀ p ∈ b.pages, s.rd (Hdr.faultStat p) &&& b.classA = 0

/-- The stores of the state are in their canonical forms. -/
def State.canonical (s : State) : Bool := s.regs.wf && s.hbm.wf

/-- The queue of commands has been used in order: the step has taken the front command and left the rest. -/
def tookFront (s t : State) : Prop := ∃ c, s.pending = c :: t.pending

/-- The parts of the state beside the register fields and the queue: HBM, the count of free values drawn, what has been
sent, the pins, and each block's own state. -/
inductive Part where
  | hbm | free | out | pins | reck | mot | ing | alc | pak | ary | fab | mem | led | dma | tim | net | ink | chk | pwr
  deriving DecidableEq, Repr

/-- A part of a state is as it was. -/
def State.same (s t : State) : Part → Prop
  | .hbm => t.hbm = s.hbm | .free => t.free = s.free | .out => t.out = s.out | .pins => t.pins = s.pins
  | .reck => t.reck = s.reck | .mot => t.mot = s.mot | .ing => t.ing = s.ing | .alc => t.alc = s.alc
  | .pak => t.pak = s.pak | .ary => t.ary = s.ary | .fab => t.fab = s.fab | .mem => t.mem = s.mem
  | .led => t.led = s.led | .dma => t.dma = s.dma | .tim => t.tim = s.tim | .net => t.net = s.net
  | .ink => t.ink = s.ink | .chk => t.chk = s.chk | .pwr => t.pwr = s.pwr

/-- The numbers of things the spec gives the module: 16 layout handles (R118), 512 travellers (R130) and 8 expanders. -/
def Ing.shaped (x : Ing) : Prop := x.layouts.length = 16 ∧ x.travellers.length = 512 ∧ x.expanders.length = 8
/-- 80 lanes and 80 places in each page of the lane map (R277, R299), 6 receivers. -/
def Pak.shaped (x : Pak) : Prop := x.lanes.length = 80 ∧ x.page0.length = 80 ∧ x.page1.length = 80 ∧ x.rx.length = 6
/-- 4 HBM stacks (R321). -/
def MemCtl.shaped (x : MemCtl) : Prop := x.stackSt.length = 4
/-- 32 DMA channels. -/
def Dma.shaped (x : Dma) : Prop := x.chans.length = 32
/-- 2 Ethernet ports. -/
def netShaped (x : List NetPort) : Prop := x.length = 2
/-- 2 firmware slots (R463). -/
def Ink.shaped (x : Ink) : Prop := x.slots.length = 2
/-- 8 check units. -/
def chkShaped (x : List Chk) : Prop := x.length = 8
/-- The module has as many of everything as the spec gives it. -/
def State.shaped (s : State) : Prop :=
  s.ing.shaped ∧ s.pak.shaped ∧ s.mem.shaped ∧ s.dma.shaped ∧ netShaped s.net ∧ s.ink.shaped ∧ chkShaped s.chk

/-- The fields that an event of a page may change: EVT_RAW, RAISES and the pending words of the MSI-X vectors (R67, R72). -/
def Page.eventFields (p : Page) : List Fld := [Hdr.evtRaw p, Hdr.raises p] ++ (List.range 4).map Reg.msixPend

/-- Every register field holds in u what it holds in s, but for the fields of a list. -/
def State.regsKept (s u : State) (fs : List Fld) : Prop := ∀ f : Fld, (∀ g ∈ fs, f.key ≠ g.key) → u.rd f = s.rd f

/-- Nothing but register fields changes from s to u, and of those only the listed ones. -/
def State.onlyFields (s u : State) (fs : List Fld) : Prop := u = { s with regs := u.regs } ∧ s.regsKept u fs

/-- A register access of an agent reaches a page: it is heard, the page is neither in RESET nor RELEASING, and no injection
is armed there (R62, R69, R451). -/
def State.reaches (s : State) (ag : Sys2Proof.Agent) (p : Page) : Prop :=
  s.hears ag = true ∧ s.inReset p = false ∧ s.bit (Hdr.injArm p) = false

/-- An access that asks for new work reaches a page that takes it (R63). -/
def State.takesWork (s : State) (ag : Sys2Proof.Agent) (p : Page) : Prop := s.reaches ag p ∧ s.accepts p = true

/-- The command names an HBM address at or above 96 GiB (R31, R322). -/
def beyondHbm : Sys2Proof.Instr → Bool
  | .hbmRead addr _ _ => decide (hbmSize ≤ addr)
  | .hbmWrite addr data _ _ => decide (hbmSize < addr + data.length)
  | _ => false

/-- The parts a command may change before the permit switch follows its gates (R435). -/
def commandParts : Sys2Proof.Instr → List Part
  | .evtRawClear .. | .faultStatClear .. | .faultInjArm .. | .pageLockWrite .. | .blockResetRelease .. |
    .returnLanePolarityFlip .. | .detectorPhaseStep .. => []
  | .planRebuild => [.alc]
  | .lsaExpiry .. | .shareAnswerTimeout => [.fab]
  | .layoutSpaceReleased | .listPoolWaitEnd .. | .slotAssign | .travellerRelease .. | .binnerRun .. |
    .referenceStoreFree | .stagingPoolFree .. | .strikeDecay .. => [.ing]
  | .eepromReadRetry | .commitTokenGain | .firmwareConfirmed => [.ink]
  | .refreshCycleEnd .. => [.mem]
  | .holdover .. | .haltResume => [.mot]
  | .msixVectorUnmask .. | .evtMaskWrite .. | .evtRouteWrite .. | .unknownOperation | .firmwareVersion |
    .persistentStoreRead | .walkComplete | .bringupTimeout | .passportLoadComplete .. | .arrayAlert |
    .scrubberBehind .. | .dmaPaused .. | .alarmDue | .sparePhaseActivate => [.out]
  | .marginScanStep .. | .receiverAdaptationStep .. => [.pak]
  | .custodyNChange .. | .psupOkChange .. => [.pins]
  | .warningEnd => [.pwr]
  | .reckoningCapture .. => [.reck]
  | .identity => [.free, .out]
  | .indexRebuildComplete .. => [.ing, .mem]
  | .gapMaxExpiry | .alignmentRunStart .. | .alignmentRunComplete .. => [.mot, .pak]
  | .bankCopyComplete => [.out, .alc]
  | .hkTransactionComplete .. => [.out, .ary]
  | .feedB .. | .feedH .. | .feedW .. | .chkStart .. | .preset .. | .cmpGo .. | .runWrite .. | .alive .. =>
      [.out, .chk]
  | .reckonRequestTimeout | .shareCreditTimeout .. => [.out, .fab]
  | .costWalkComplete | .hostMapCheckComplete => [.out, .ing]
  | .persistentStoreWrite | .firmwareStage .. | .wipeComplete => [.out, .ink]
  | .refreshDue .. | .pprComplete .. => [.out, .mem]
  | .phaseEdge => [.out, .mot]
  | .receiveBufferDrain .. | .pauseQuantaExpiry .. | .fabricFrameForward .. => [.out, .net]
  | .calibrationRestore | .tickMarker .. | .laneMapSet .. => [.out, .pak]
  | .lockTimeout .. | .referenceClockReturn .. | .innkeeperBootTimeout => [.out, .pwr]
  | .reckonReq .. | .ringDoorbell .. | .kernelWindowWrite .. | .doseClassTableWrite .. | .itineraryWrite .. |
    .beamTableWrite .. | .alcGeomWrite .. | .returnLaneLockChange .. | .testRead .. | .mem0RegionWrite .. |
    .pause .. | .txrIdxWrite .. | .rxrIdxWrite .. | .phaseSwitchOff .. | .retry .. | .ledRdWrite .. => [.out, .reck]
  | .perstNRelease => [.pins, .pwr]
  | .writeBackApply => [.free, .out, .ary]
  | .calibrationSave => [.hbm, .out, .mem]
  | .bandCorrected .. => [.ing, .mem, .led]
  | .ethernetLinkChange .. | .credit .. | .helloSend | .neighbourLost .. | .lsaFlood | .densNakTimer .. |
    .treqSend .. | .mstatSend | .fstatSend => [.out, .fab, .net]
  | .ingestTransfer .. | .stagingBufferFree => [.out, .ing, .fab]
  | .checkRunStart .. => [.out, .mot, .ary]
  | .laneRotation | .rotationAdoptionTimeout | .alignmentTickEdge => [.out, .mot, .pak]
  | .permitContradiction .. => [.out, .pins, .reck]
  | .swap .. | .cancel .. => [.out, .reck, .alc]
  | .loadPassport .. | .hkGo .. | .aryBcStart .. | .aryBcAbort .. => [.out, .reck, .ary]
  | .chkQueueEntryTaken .. => [.out, .reck, .chk]
  | .dmaStop .. => [.out, .reck, .dma]
  | .post .. | .bandListComplete .. | .rcmpReq .. | .takeGo .. => [.out, .reck, .ing]
  | .stackTemperatureRead .. | .pprGo .. | .spareGo .. | .sparingComplete .. => [.out, .reck, .mem]
  | .waybillResume .. | .goMove .. | .resume .. => [.out, .reck, .mot]
  | .echoTimeout .. | .arrayDead | .pakRetrain .. | .pakModeChange .. | .trainPhaseComplete | .qlkRetrain .. |
    .laneRetrainComplete .. => [.out, .reck, .pak]
  | .cellarDataAccess .. | .vinRangeChange .. => [.out, .reck, .pwr]
  | .incApply .. | .timeStep .. => [.out, .reck, .tim]
  | .pop .. => [.free, .out, .reck, .mem]
  | .echoFrame .. => [.free, .out, .reck, .pak]
  | .mapRepairComplete => [.hbm, .out, .ing, .mem]
  | .ledgerRecordWrite => [.hbm, .out, .mem, .led]
  | .testWrite .. => [.hbm, .out, .reck, .mem]
  | .planRecompute | .reqFrame .. | .dataFrame .. => [.out, .ing, .fab, .net]
  | .reckoningComplete | .fabReckGo .. | .fabShareGo .. => [.out, .reck, .fab, .net]
  | .deliveryStart .. | .repairStart .. | .deliveryAbort .. => [.out, .reck, .ing, .fab]
  | .tileDispatch | .tileRecordCompare .. | .tileStall .. | .pairReform .. => [.out, .reck, .ing, .led]
  | .flush .. => [.out, .reck, .mot, .ing]
  | .voteResolved .. | .segRecord .. => [.free, .out, .reck, .ing, .led]
  | .bar2Read .. | .bar2Write .. | .hbmRead .. | .hbmWrite .. => [.hbm, .free, .out, .reck, .mem]
  | .blockInterpreted => [.hbm, .out, .ing, .fab, .mem]
  | .freeLayout .. | .tileCorrect .. | .srvAbort .. => [.hbm, .out, .reck, .ing, .led]
  | .fogComplete .. | .sweepColumn .. => [.hbm, .out, .reck, .ing, .mem]
  | .positionSample .. | .deflectionWordTimeout .. | .motionLaneLockChange .. | .edgeCommit .. | .runupStart |
    .stop .. | .arrayTempReport .. | .temperatureReportStale | .temperaturePoll .. | .membershipSettled |
    .leadLost | .memberLost .. | .fabMotStop .. | .fabMotGo .. | .holdoverMissLimit .. =>
      [.out, .reck, .mot, .fab, .net]
  | .detectorLockChange .. => [.out, .reck, .mot, .pak, .ary]
  | .memFillComplete .. => [.hbm, .free, .out, .ing, .mem, .led]
  | .configurationRequest .. | .dmaGo .. | .dmaCompletionTimeout .. | .dmaDescriptorFetch .. | .dmaResume .. |
    .clearErr .. | .busMasterEnableCleared => [.hbm, .free, .out, .reck, .mem, .dma]
  | .txRingEntrySend .. => [.hbm, .free, .out, .reck, .mem, .net]
  | .blockReceived => [.hbm, .out, .ing, .fab, .mem, .led]
  | .pseudoChannelDead .. => [.hbm, .out, .reck, .ing, .mem, .led]
  | .stripeComplete | .tickEdgeLaunch => [.out, .mot, .ing, .alc, .pak, .led]
  | .mapComplete => [.out, .reck, .ing, .fab, .led, .net]
  | .expanderDispatch .. => [.out, .reck, .mot, .ing, .fab, .net]
  | .statusFrame .. => [.out, .reck, .mot, .pak, .fab, .net]
  | .loRegisterReadCapture .. => [.free, .out, .reck, .ing, .led, .chk, .pwr]
  | .surveyStart .. | .costWalkStart .. | .hostMapCommit .. | .hostMapRecheck .. =>
      [.hbm, .free, .out, .reck, .ing, .fab, .mem]
  | .scrubRead .. => [.hbm, .free, .out, .reck, .ing, .mem, .led]
  | .lifeCycleRequest => [.hbm, .free, .out, .reck, .mem, .dma, .ink]
  | .surveySegmentWalked .. => [.hbm, .out, .ing, .fab, .mem, .led, .net]
  | .pageQuiesce .. | .quiesceComplete .. | .shutdownComplete .. => [.free, .out, .reck, .ing, .alc, .pak, .mem, .led]
  | .allocatorResetAbandon | .motResetAbandon => [.free, .out, .reck, .mot, .ing, .alc, .pak, .led]
  | .custodyFilterAccept => [.hbm, .free, .out, .pins, .reck, .mem, .dma, .ink]
  | .dmaResponse .. | .dmaDescriptorComplete .. => [.hbm, .free, .out, .reck, .ing, .fab, .mem, .dma]
  | .checkRunComplete .. => [.hbm, .free, .out, .reck, .mot, .alc, .ary, .mem]
  | .permitWithdrawn .. | .glbPermitWrite .. => [.out, .pins, .reck, .mot, .pak, .ary, .fab, .net]
  | .waybillArm .. | .tickCompute .. => [.out, .reck, .mot, .ing, .alc, .fab, .led, .net]
  | .pageEnable .. => [.free, .out, .reck, .ing, .alc, .pak, .mem, .led, .dma]
  | .islandLockHeld .. => [.free, .out, .reck, .ing, .alc, .pak, .mem, .led, .pwr]
  | .qlinkFrameSend .. => [.free, .out, .reck, .mot, .alc, .pak, .fab, .led, .net]
  | .powerFailWarning | .resetNFall .. | .moduleResetAssert | .modRst .. | .thermalCheck .. =>
      [.out, .pins, .reck, .mot, .pak, .ary, .fab, .net, .pwr]
  | .setpointFrame | .abandon .. => [.free, .out, .reck, .mot, .ing, .alc, .pak, .fab, .led, .net]
  | .crossingWordDeliver .. => [.hbm, .out, .reck, .mot, .ing, .pak, .fab, .mem, .led, .net]
  | .innkeeperRestartComplete => [.out, .pins, .reck, .mot, .pak, .ary, .fab, .net, .ink, .pwr]
  | .memResetLoss => [.hbm, .free, .out, .reck, .mot, .ing, .alc, .pak, .fab, .mem, .led, .net]
  | .moduleResetRelease => [.free, .out, .pins, .reck, .ing, .alc, .pak, .fab, .mem, .led, .dma, .ink, .pwr]
  | .innkeeperBootComplete .. | .storeCommitComplete .. =>
      [.hbm, .free, .out, .pins, .reck, .mot, .pak, .ary, .fab, .mem, .dma, .net, .ink, .pwr]
  | .moduleResetBlockAssert =>
      [.hbm, .reck, .mot, .ing, .alc, .pak, .ary, .fab, .mem, .led, .dma, .tim, .net, .chk, .pwr]
  | .rejoin .. | .islandLockLoss .. =>
      [.hbm, .out, .pins, .reck, .mot, .ing, .alc, .pak, .ary, .fab, .mem, .led, .dma, .tim, .net, .chk]
  | .firmwareCommit =>
      [.hbm, .out, .reck, .mot, .ing, .alc, .pak, .ary, .fab, .mem, .led, .dma, .tim, .net, .ink, .chk]
  | .perstNAssert | .referenceClockLoss .. =>
      [.hbm, .out, .pins, .reck, .mot, .ing, .alc, .pak, .ary, .fab, .mem, .led, .dma, .tim, .net, .chk, .pwr]
  | .inkRst .. | .innkeeperWatchdog .. | .firmwareFallback .. =>
      [.hbm, .out, .reck, .mot, .ing, .alc, .pak, .ary, .fab, .mem, .led, .dma, .tim, .net, .ink, .chk, .pwr]
  | .vinStart | .powerDown | .overvoltage | .overvoltageEnd | .tripPowerStop | .tripRestart .. =>
      [.hbm, .pins, .reck, .mot, .ing, .alc, .pak, .ary, .fab, .mem, .led, .dma, .tim, .net, .ink, .chk, .pwr]
  | .resetReq .. =>
      [.hbm, .out, .pins, .reck, .mot, .ing, .alc, .pak, .ary, .fab, .mem, .led, .dma, .tim, .net, .ink, .chk, .pwr]
  | .registerWrite .. | .ethernetFrameReceive .. | .helloFrame .. | .lsaFrame .. | .reckReq .. | .reckData .. |
    .shareReq .. | .shareRsp .. | .lxport .. | .densFrame .. | .densEnd .. | .densNak .. | .mapcrc .. |
    .treq .. | .trsp .. | .mstat .. | .fstat .. | .hreq .. | .planFrame .. | .fabricReset .. =>
      [.hbm, .free, .out, .pins, .reck, .mot, .ing, .alc, .pak, .ary, .fab, .mem, .led, .dma, .tim, .net, .ink, .chk, .pwr]

end Sys2Proof.Machine
end

