-- ==== Sys2Proof/Certificates/Slice0/Obligations.lean ====
section
/-!
DEFINITION. The statements for the provers.
-/
open Sys2Proof (Instr Agent Word Byte Crossing DmaResp)
open Sys2Proof.Machine

/-- For every command c, queue rest and state s, a step of s with c at the front of its queue answers what c does to s
with the rest as its queue. (02_common_register_model.md, 22_behaviour_summary.md) -/
def Obligations.StepRunsFrontCommand : Prop :=
  ∀ (c : Instr) (rest : List Instr) (s : State),
    step { s with pending := c :: rest } = exec c { s with pending := rest }

/-- With an empty queue, and the module powered and TIM out of reset, a step answers the state in which the raw
counter has counted one clock modulo 2^64 and the clocks since C0 are one more; with the power off or TIM in reset
nothing changes. That an idle step is one clock is the model's choice (log entry 1). (R378, R379) -/
def Obligations.EmptyQueueCountsOneClock : Prop :=
  ∀ s : State, s.pending = [] →
    (s.pwr.powered = true ∧ s.inReset pTIM = false →
      step s = .next { s with tim := { s.tim with c := (s.tim.c + 1) % 2 ^ 64, since := s.tim.since + 1 } }) ∧
    (s.pwr.powered = false ∨ s.inReset pTIM = true → step s = .next s)

/-- In every state, every command other than an HBM_READ or HBM_WRITE beyond 96 GiB answers a next state whose queue
is the queue it was given, in which everything already sent is still sent, earlier free values stay drawn, and the
permit switch has followed its gates; so a step with that command in front never stops the machine. (02_common_register_model.md, 22_behaviour_summary.md) -/
def Obligations.EveryOtherCommandCompletes : Prop :=
  ∀ (c : Instr) (rest : List Instr) (s : State), beyondHbm c = false →
    ∃ t, step { s with pending := c :: rest } = .next t ∧ t.pending = rest ∧ s.out <:+ t.out ∧ s.free ≤ t.free ∧
      t.permitSafe = true

/-- If a step from a state in which GLB_PERMIT.REQ is 1 only while every GATE bit is 0 answers a next state, then in
that state too REQ is 1 only while every GATE bit is 0. (R434, R435) -/
def Obligations.StepKeepsPermitSafe : Prop :=
  ∀ s t : State, s.permitSafe = true → step s = .next t → t.permitSafe = true

/-- In a state whose permit is safe, GLB_PERMIT.REQ = 1 implies: the life-cycle state is OPEN, custody is applied, the
permit supply is good, no power-fail warning is in force, no module reset is asserted, none of the pages GLB, MOT, ALC
and PAK is in RESET or RELEASING, and no page has a class A fault bit set. (R434, R452, R453) -/
def Obligations.PermitNeedsEveryGround : Prop :=
  ∀ s : State, s.permitSafe = true → s.rd Reg.GLB_PERMIT_REQ = 1 → s.permitGrounds

/-- If a step from a state whose register store lists strictly rising keys, and whose HBM lists strictly rising
addresses and no zero byte, answers a next state, the same holds of that state. The canonical forms are the model's
(log entry 2); the contents they stand for are the spec's. (R9, R322, R329) -/
def Obligations.StepKeepsStoresCanonical : Prop :=
  ∀ s t : State, s.canonical = true → step s = .next t → t.canonical = true

/-- If a step from a state with 16 layout handles, 512 travellers, 8 expanders, 80 lanes, 80 entries in each lane-map
page, 6 receivers, 4 HBM stacks, 32 DMA channels, 2 Ethernet ports, 2 firmware slots and 8 check units answers a next
state, that state has as many of each. (R118, R130, R137, R277, R299, R321, R463, R366) -/
def Obligations.StepKeepsNumbersOfThings : Prop :=
  ∀ s t : State, s.shaped → step s = .next t → t.shaped

/-- Right after a power-up reset the permit is safe, the stores are canonical, everything is there in the number the
spec gives, no command waits, nothing has been sent and HBM lists no byte; and for each of the 202 pages
PAGE_STATE.STATE is RESET (1), EVT_RAW, EVT_MASK, EVT_COUNT, FAULT_STAT, SCRATCH and PAGE_LOCK read 0, and ENABLE is 1
exactly in GLB, RCK, LCY, INK, TIM and HST. (R62, R67, R68, R428, R434) -/
def Obligations.ResetMeetsTheInvariants : Prop :=
  (State.reset.permitSafe = true ∧ State.reset.canonical = true ∧ State.reset.shaped ∧ State.reset.pending = [] ∧
    State.reset.out = [] ∧ State.reset.hbm = []) ∧
  ∀ p ∈ allPages, State.reset.pstate p = 1 ∧ State.reset.rd (Hdr.evtRaw p) = 0 ∧ State.reset.rd (Hdr.evtMask p) = 0 ∧
    State.reset.rd (Hdr.discards p) = 0 ∧ State.reset.rd (Hdr.raises p) = 0 ∧ State.reset.rd (Hdr.faultStat p) = 0 ∧
    State.reset.rd (Hdr.scratch p) = 0 ∧ State.reset.rd (Hdr.lock p) = 0 ∧
    State.reset.rd (Hdr.enable p) = if p.block ∈ [Block.glb, .rck, .lcy, .ink, .tim, .hst] then 1 else 0

/-- Every command leads from a state s to a state u in which every part outside the list its kind gives (HBM, free
values, output, pins, reckoning, motion, ingest, allocation, packer, array service, fabric, memory controller, ledger,
DMA, time base, Ethernet, innkeeper, check units, power) is as it was in s, and what it answers is u once the permit
switch has followed its gates. (02_common_register_model.md, 22_behaviour_summary.md, R435) -/
def Obligations.CommandsKeepOtherParts : Prop :=
  ∀ (c : Instr) (s : State), beyondHbm c = false →
    ∃ u : State, exec c s = .next u.settle ∧ ∀ k, k ∉ commandParts c → s.same u k

/-- When the permit switch follows its gates (R435), HBM, the free values, ingest, allocation, the memory controller,
the ledger, DMA, the time base, the innkeeper, the check units, the power state and the queue stay as they were; with
the request at 0, or every gate at 0, nothing changes at all; with the request at 1 and a gate at 1, REQ becomes 0 and
GLB EVT_RAW[4] is set. (R435, R319, R488, R269) -/
def Obligations.PermitSwitchChangesOnlyItsOwn : Prop :=
  ∀ s : State,
    (∀ k ∈ [Part.hbm, .free, .ing, .alc, .mem, .led, .dma, .tim, .ink, .chk, .pwr], s.same s.settle k) ∧
    s.settle.pending = s.pending ∧
    (s.rd Reg.GLB_PERMIT_REQ ≠ 1 ∨ s.gated = false → s.settle = s) ∧
    (s.rd Reg.GLB_PERMIT_REQ = 1 → s.gated = true → s.settle.rd Reg.GLB_PERMIT_REQ = 0 ∧ s.settle.evt pGLB 4 = true)

/-- In every state, EVT_RAW_CLEAR of any page by an agent that is heard completes, whatever the page's STATE: each of
the 32 bits afterwards is as it was where 0 was written and 0 where 1 was written, and nothing but this field changes
before the permit switch follows its gates. (R62, R67) -/
def Obligations.EventBitsClearWhereWritten : Prop :=
  ∀ (s : State) (ag : Agent) (p : Page) (v : Word), p.ok = true → s.hears ag = true →
    ∃ u : State, exec (.evtRawClear ag p v) s = .next u.settle ∧ s.onlyFields u [Hdr.evtRaw p] ∧
      ∀ b < 32, u.evt p b = (s.evt p b && !v.toNat.testBit b)

/-- In every state FAULT_STAT_CLEAR of any page by an agent that is heard completes: each of the 32 bits stays set
unless 1 was written to it and its cause is no longer present, CFG_CHECK (bit 31) always stays, and nothing but this
field changes. FAULT_INJ_ARM completes: FLIP and TARGET take the written values, ARM becomes 1 where 1 was written and
is unchanged where 0 was written (W1S), and nothing else changes. Which bits have a lasting cause is the model's
reading of the block chapters (log entry 41). (R68, R451) -/
def Obligations.FaultBitsClearOnlyWithoutCause : Prop :=
  ∀ (s : State) (ag : Agent) (p : Page) (v : Word), p.ok = true → s.hears ag = true →
    (∃ u : State, exec (.faultStatClear ag p v) s = .next u.settle ∧ s.onlyFields u [Hdr.faultStat p] ∧ u.fault p 31 = s.fault p 31 ∧
      ∀ b < 32, u.fault p b = (s.fault p b && !(v.toNat.testBit b && !s.faultCausePresent p b))) ∧
    (∃ u : State, exec (.faultInjArm ag p v) s = .next u.settle ∧
      s.onlyFields u [Hdr.injFlip p, Hdr.injTarget p, Hdr.injArm p] ∧ u.rd (Hdr.injFlip p) = v.toNat % 2 ^ 16 ∧
      u.rd (Hdr.injTarget p) = v.toNat / 2 ^ 16 % 2 ^ 8 ∧
      u.rd (Hdr.injArm p) = if v.toNat.testBit 31 then 1 else s.rd (Hdr.injArm p))

/-- In every state PAGE_LOCK_WRITE of any page by an agent that is heard completes: a write of LOCK = 0 while HOLD = 1
leaves LOCK as it was, every other write gives LOCK the written bit; HOLD becomes 1 where 1 was written and otherwise
stays; nothing else changes. (R65, R62) -/
def Obligations.PageLockHoldsUntilReset : Prop :=
  ∀ (s : State) (ag : Agent) (p : Page) (v : Word), p.ok = true → s.hears ag = true →
    ∃ u : State, exec (.pageLockWrite ag p v) s = .next u.settle ∧ s.onlyFields u [Hdr.lock p, Hdr.hold p] ∧
      u.rd (Hdr.lock p) = (if s.rd (Hdr.hold p) = 1 ∧ v.toNat % 2 = 0 then s.rd (Hdr.lock p) else v.toNat % 2) ∧
      u.rd (Hdr.hold p) = if v.toNat / 2 % 2 = 1 then 1 else s.rd (Hdr.hold p)

/-- In every state with HST out of reset, for an agent that is heard. EVT_MASK_WRITE gives EVT_MASK the written bits
that exist and, with OFF = 0 and the vector of NUM unmasked, sends one message for each mask bit that becomes 1 over
an EVT_RAW bit of 1; with the vector masked and at least one such bit it sets the vector's pending bit and sends
nothing; with OFF = 1 it sends nothing. EVT_ROUTE_WRITE gives NUM and OFF the written values and, if the page event is
asserted, OFF is written 0 and either NUM changes or OFF was 1, sends a message for the new vector if unmasked; it
sends nothing where neither NUM nor OFF changes. MSIX_VECTOR_UNMASK leaves the vector unmasked; if it was masked with
its pending bit set, one message is sent and that bit alone becomes 0, otherwise nothing is sent. Nothing but the
named fields and the pending words changes beside what is sent. (R55, R67, R71, R72) -/
def Obligations.MasksAndRoutesMakeMessages : Prop :=
  (∀ (s : State) (ag : Agent) (p : Page) (v : Word), p.ok = true → s.hears ag = true → s.inReset pHST = false →
    s.rd (Hdr.evtNum p) < 128 →
    (∃ u : State, exec (.evtMaskWrite ag p v) s = .next u.settle ∧ u = { s with regs := u.regs, out := u.out } ∧
      s.regsKept u (Hdr.evtMask p :: (List.range 4).map Reg.msixPend) ∧
      u.rd (Hdr.evtMask p) = v.toNat &&& p.block.evtMaskBits ∧
      (s.bit (Hdr.evtOff p) = true → u.out = s.out) ∧
      (s.bit (Hdr.evtOff p) = false → s.vectorMasked (s.rd (Hdr.evtNum p)) = false →
        u.out = List.replicate ((List.range 32).countP fun b =>
          (u.rd (Hdr.evtMask p)).testBit b && !(s.rd (Hdr.evtMask p)).testBit b && s.evt p b) (Output.msix (s.rd (Hdr.evtNum p))) ++ s.out) ∧
      (s.bit (Hdr.evtOff p) = false → s.vectorMasked (s.rd (Hdr.evtNum p)) = true → u.out = s.out ∧
        ((∃ b < 32, (u.rd (Hdr.evtMask p)).testBit b = true ∧ (s.rd (Hdr.evtMask p)).testBit b = false ∧ s.evt p b = true) →
          (u.rd (Reg.msixPend (s.rd (Hdr.evtNum p) / 32))).testBit (s.rd (Hdr.evtNum p) % 32) = true))) ∧
    (∃ u : State, exec (.evtRouteWrite ag p v) s = .next u.settle ∧ u = { s with regs := u.regs, out := u.out } ∧
      s.regsKept u ([Hdr.evtNum p, Hdr.evtOff p] ++ (List.range 4).map Reg.msixPend) ∧
      u.rd (Hdr.evtNum p) = v.toNat % 128 ∧ u.rd (Hdr.evtOff p) = v.toNat / 256 % 2 ∧
      (s.pageEvent p = true → v.toNat / 256 % 2 = 0 → v.toNat % 128 ≠ s.rd (Hdr.evtNum p) ∨ s.bit (Hdr.evtOff p) = true →
        s.vectorMasked (v.toNat % 128) = false → u.out = .msix (v.toNat % 128) :: s.out) ∧
      (v.toNat % 128 = s.rd (Hdr.evtNum p) → s.bit (Hdr.evtOff p) = false → u.out = s.out))) ∧
  (∀ (s : State) (ag : Agent) (vec : BitVec 7), s.hears ag = true → s.inReset pHST = false →
    ∃ u : State, exec (.msixVectorUnmask ag vec) s = .next u.settle ∧ u = { s with regs := u.regs, out := u.out } ∧
      s.regsKept u [Reg.msixWord vec.toNat 3, Reg.msixPend (vec.toNat / 32)] ∧ u.vectorMasked vec.toNat = false ∧
      (s.vectorMasked vec.toNat = true ∧ (s.rd (Reg.msixPend (vec.toNat / 32))).testBit (vec.toNat % 32) = true →
        u.out = .msix vec.toNat :: s.out ∧ ∀ b < 32, (u.rd (Reg.msixPend (vec.toNat / 32))).testBit b =
          (decide (b ≠ vec.toNat % 32) && (s.rd (Reg.msixPend (vec.toNat / 32))).testBit b)) ∧
      (s.vectorMasked vec.toNat = false ∨ (s.rd (Reg.msixPend (vec.toNat / 32))).testBit (vec.toNat % 32) = false → u.out = s.out))

/-- In every state and for each page and each event bit: an event whose bit is already set changes nothing. Otherwise
the bit becomes set and the others stay, RAISES counts one up and saturates at 0xFFFF, and no field but EVT_RAW,
RAISES and the pending words changes; nothing is sent if the mask bit is 0 or OFF is 1 or HST is in reset; and if the
mask bit is 1, OFF is 0, HST is out of reset and the vector is unmasked, one message for vector NUM is sent and the
pending words stay. (R67, R72) -/
def Obligations.RaisingAnEvent : Prop :=
  ∀ (s : State) (p : Page) (b : Nat), p.ok = true → b < 32 → s.rd (Hdr.evtNum p) < 128 →
    (s.evt p b = true → s.raise p b = s) ∧
    (s.evt p b = false →
      s.raise p b = { s with regs := (s.raise p b).regs, out := (s.raise p b).out } ∧ s.regsKept (s.raise p b) p.eventFields ∧
      (∀ c < 32, (s.raise p b).evt p c = (decide (c = b) || s.evt p c)) ∧
      (s.rd (Hdr.raises p) ≤ 0xFFFF → (s.raise p b).rd (Hdr.raises p) = min 0xFFFF (s.rd (Hdr.raises p) + 1)) ∧
      ((s.rd (Hdr.evtMask p)).testBit b = false ∨ s.bit (Hdr.evtOff p) = true ∨ s.inReset pHST = true →
        (s.raise p b).out = s.out) ∧
      ((s.rd (Hdr.evtMask p)).testBit b = true → s.bit (Hdr.evtOff p) = false → s.inReset pHST = false →
        s.vectorMasked (s.rd (Hdr.evtNum p)) = false →
        (s.raise p b).out = .msix (s.rd (Hdr.evtNum p)) :: s.out ∧
        ∀ i < 4, (s.raise p b).rd (Reg.msixPend i) = s.rd (Reg.msixPend i)))

/-- In every state and for each of the four pins: the module holds IRQ_N[p] low exactly if there is a device event n,
0 to 127, asserted, whose EN bit (bit 4j + 3 of GLB_IRQ_SEL_m, n = 8m + j) is 1 and whose PIN field (bits 4j + 1 to
4j) is p; and writing any word of the MSI-X table or of the pending-bit array changes no pin. The reset values of the
fields are 0 and their places are those of R74. (R74) -/
def Obligations.InterruptPinsFollowDeviceEvents : Prop :=
  (∀ n < 128, irqSel n = ⟨0x100 + 4 * (n / 8), 4 * (n % 8), 4, 0⟩) ∧
  ∀ (s : State) (p : Nat), p < 4 →
    (s.irqLow p = true ↔ ∃ n < 128, (s.rd (irqSel n)).testBit 3 = true ∧ s.rd (irqSel n) % 4 = p ∧ s.deviceEvent n = true) ∧
    ∀ (n w v : Nat), n < 128 → w < 4 → (s.wr (Reg.msixWord n w) v).irqLow p = s.irqLow p ∧
      (s.wr (Reg.msixPend w) v).irqLow p = s.irqLow p

/-- For each page and each agent that is heard. ENABLE = 1 (where the ledger ring fits, for LED): from OFF the page
comes into IDLE with ENABLE 1; in STOPPING, RESET or RELEASING ENABLE and PEND_EN become 1 and nothing else changes;
in the other states only ENABLE changes. ENABLE = 0 (for MEM: while none of ALC, ING and SRV runs, or the page is not
up): in IDLE, RUNNING, QUIESCING and QUIESCED ENABLE and PEND_EN become 0, STATE becomes STOPPING and the shut-down
begins; in the other states only ENABLE and PEND_EN become 0. (R63, R64, R345, R465) -/
def Obligations.PageEnableFollowsTheTable : Prop :=
  ∀ (s : State) (ag : Agent) (p : Page), p.ok = true → s.hears ag = true →
    (p.block ≠ .led ∨ s.ringFits = true →
      (s.pstate p = stOFF → exec (.pageEnable ag p true) s = .next ((s.wr (Hdr.enable p) 1).enterIdle p).settle) ∧
      (s.pstate p = stSTOPPING ∨ s.pstate p = stRESET ∨ s.pstate p = stRELEASING →
        exec (.pageEnable ag p true) s = .next ((s.wr (Hdr.enable p) 1).wr (Hdr.pendEn p) 1).settle) ∧
      (s.pstate p = stIDLE ∨ s.pstate p = stRUNNING ∨ s.pstate p = stQUIESCING ∨ s.pstate p = stQUIESCED →
        exec (.pageEnable ag p true) s = .next (s.wr (Hdr.enable p) 1).settle)) ∧
    (p.block ≠ .mem ∨ s.pstate p < 3 ∨ s.memHeld = false →
      (s.pstate p = stIDLE ∨ s.pstate p = stRUNNING ∨ s.pstate p = stQUIESCING ∨ s.pstate p = stQUIESCED →
        exec (.pageEnable ag p false) s =
          .next (((s.wrs [(Hdr.enable p, 0), (Hdr.pendEn p, 0)]).wr (Hdr.state p) stSTOPPING).beginShutdown p).settle) ∧
      (s.pstate p = stOFF ∨ s.pstate p = stSTOPPING ∨ s.pstate p = stRESET ∨ s.pstate p = stRELEASING →
        exec (.pageEnable ag p false) s = .next (s.wrs [(Hdr.enable p, 0), (Hdr.pendEn p, 0)]).settle))

/-- For each page and each agent that is heard: QUIESCE = 1 takes IDLE to QUIESCED and RUNNING to QUIESCING and else
changes only its field; QUIESCE = 0 takes QUIESCED to IDLE through the page's start condition and else changes only
its field. With no work in hand QUIESCE_COMPLETE takes a QUIESCING page whose QUIESCE is 1 to QUIESCED and, where
QUIESCE is 0, on to IDLE (the model's reading), and SHUTDOWN_COMPLETE takes a STOPPING page with PEND_EN = 1 to IDLE
and one with PEND_EN = 0 and ENABLE = 0 to OFF; PEND_EN becomes 0. (R63) -/
def Obligations.PageQuiesceAndShutdownFollowTheTable : Prop :=
  ∀ (s : State) (ag : Agent) (p : Page), p.ok = true →
    (s.hears ag = true →
      (s.pstate p = stIDLE → exec (.pageQuiesce ag p true) s = .next ((s.wr (Hdr.quiesce p) 1).wr (Hdr.state p) stQUIESCED).settle) ∧
      (s.pstate p = stRUNNING → exec (.pageQuiesce ag p true) s = .next ((s.wr (Hdr.quiesce p) 1).wr (Hdr.state p) stQUIESCING).settle) ∧
      (s.pstate p ≠ stIDLE → s.pstate p ≠ stRUNNING → exec (.pageQuiesce ag p true) s = .next (s.wr (Hdr.quiesce p) 1).settle) ∧
      (s.pstate p = stQUIESCED → exec (.pageQuiesce ag p false) s = .next ((s.wr (Hdr.quiesce p) 0).enterIdle p).settle) ∧
      (s.pstate p ≠ stQUIESCED → exec (.pageQuiesce ag p false) s = .next (s.wr (Hdr.quiesce p) 0).settle)) ∧
    (s.workInHand p = false →
      (s.pstate p = stQUIESCING → s.bit (Hdr.quiesce p) = true →
        exec (.quiesceComplete p) s = .next (s.wr (Hdr.state p) stQUIESCED).settle) ∧
      (s.pstate p = stQUIESCING → s.rd (Hdr.quiesce p) = 0 →
        exec (.quiesceComplete p) s = .next ((s.wr (Hdr.state p) stQUIESCED).enterIdle p).settle) ∧
      (s.pstate p = stSTOPPING → s.rd (Hdr.pendEn p) = 1 →
        exec (.shutdownComplete p) s = .next ((s.wrs [(Hdr.pendRel p, 0), (Hdr.pendEn p, 0)]).enterIdle p).settle) ∧
      (s.pstate p = stSTOPPING → s.rd (Hdr.pendEn p) = 0 →
        exec (.shutdownComplete p) s =
          .next (((s.wr (Hdr.enable p) 0).wrs [(Hdr.pendRel p, 0), (Hdr.pendEn p, 0)]).wr (Hdr.state p) stOFF).settle))

/-- For each page. RESET_REQ by an agent that is heard, on a page out of RESET that is neither RCK, INK nor MEM: the
page is reset (with the permit switch opened first for GLB, MOT, ALC and PAK) and RESET_REQ reads 1.
BLOCK_RESET_RELEASE of a requested reset that nothing else holds, with the clock present: RESET becomes RELEASING with
PEND_REL 1 (for MEM all four pages) and the island's timeout bit clears. LOCK_TIMEOUT in RELEASING: STATE is RESET,
PEND_REL 0, EVT_RAW[30] set, the island's timeout bit set. ISLAND_LOCK_HELD once booted, with the clock present: the
lock bit is set and each RELEASING page of the island goes to OFF, or to IDLE if PEND_EN or ENABLE is 1. REJOIN of a
retired engine: its page is reset, RESET_REQ reads 1, its strike level is RETIRE - 1 and its strike total is as
before. (R63, R64, R176, R180, R423, R430, R431, R446) -/
def Obligations.BlockResetAndReleaseFollowTheTable : Prop :=
  ∀ (s : State) (ag : Agent) (p : Page), p.ok = true →
    (s.hears ag = true → p.block ≠ .rck → p.block ≠ .ink → p.block ≠ .mem → s.pstate p ≠ stRESET →
      exec (.resetReq ag p) s = .next ((s.resetPage p).wr (Hdr.resetReq p) 1).settle) ∧
    (s.rd (Hdr.resetReq p) = 1 → s.refPresent p.island = true → (s.wr (Hdr.resetReq p) 0).mayRelease p = true →
      (p.block ≠ .mem → s.pstate p = stRESET → exec (.blockResetRelease p) s =
        .next ((s.wrs [(Hdr.resetReq p, 0), (Hdr.state p, stRELEASING), (Hdr.pendRel p, 1)]).setTmo p.island false).settle) ∧
      (p.block = .mem → exec (.blockResetRelease p) s =
        .next ((List.range 4).foldl (fun t n => (t.releasePage (pMEM n)).setTmo (4 + n) false) s).settle)) ∧
    (s.pstate p = stRELEASING → exec (.lockTimeout p) s =
      .next ((((s.wrs [(Hdr.state p, stRESET), (Hdr.pendRel p, 0)]).raise p 30).setTmo p.island true).releaseShow).settle) ∧
    (∀ i < 41, s.pwr.powered = true → s.refPresent i = true → (i = 10 → s.pwr.perstRst = false) → s.pwr.booted = true →
      exec (.islandLockHeld i) s = .next ((islandPages i).foldl (fun v q =>
        if v.pstate q = stRELEASING then v.comeUp q else v) (s.setLock i true)).releaseShow.settle) ∧
    (∀ n < 52, s.reaches ag (pRAS n) → s.role n = roleRETIRED → exec (.rejoin ag n) s =
      .next (((s.resetPage (pRAS n)).wr (Hdr.resetReq (pRAS n)) 1).wrs [(Reg.RAS_STRIKES_LEVEL n, s.rd Reg.CMP_CFG_RETIRE - 1),
        (Reg.RAS_STRIKES_TOTAL n, s.rd (Reg.RAS_STRIKES_TOTAL n))]).settle)

/-- For each page of LCY, TIM, FAB, EXP, COR, DMA, CHK and LED, with no SRV operation in progress: after its block
reset every field whose address lies in the page, header and block registers alike, holds its reset value; so STATE is
RESET, ENABLE and QUIESCE are at their reset values and PEND_EN is 0. For LCY, TIM, FAB, EXP and CHK no field at
another address changes. (R63, R423, R428) -/
def Obligations.BlockResetRestoresTheRegisters : Prop :=
  ∀ (s : State) (p : Page) (f : Fld), p.ok = true → s.rd Reg.SRV_STAT_PHASE = 0 →
    (p.block ∈ [Block.lcy, .tim, .fab, .exp, .cor, .dma, .chk, .led] → p.holds f.addr = true → f.lo < 32 →
      (s.resetBlock p).rd f = f.reset) ∧
    (p.block ∈ [Block.lcy, .tim, .fab, .exp, .chk] → p.holds f.addr = false → f.lo < 32 →
      (s.resetBlock p).rd f = s.rd f) ∧
    (p.block ∈ [Block.lcy, .tim, .fab, .exp, .cor, .dma, .chk, .led] →
      (s.resetBlock p).pstate p = stRESET ∧ (s.resetBlock p).rd (Hdr.pendEn p) = 0 ∧ (s.resetBlock p).rd (Hdr.quiesce p) = 0 ∧
      (s.resetBlock p).rd (Hdr.enable p) = if p.block.enabledAtReset then 1 else 0)

/-- For each unit n and an agent that is heard and whose writes the unit accepts: FEED_B, FEED_H and FEED_W append a
feed of the 1, 2 or 4 low bytes, least significant first; CHK_START, PRESET and CMP append a CTRL write with START,
PRESET or CMP and the SET field; ALIVE appends its write; RUN_WRITE of the low half is held, and of the high half
appends the pair with the half held, which is then no longer held. The shown RESULT, QUEUE and page STATE follow and
nothing else changes. CHK_QUEUE_ENTRY_TAKEN removes the oldest entry and applies it. A write that the unit does not
accept from the agent only sets EVT_RAW[31]. (R368, R369, R374, R375) -/
def Obligations.CheckUnitWritesEnterTheQueue : Prop :=
  ∀ (s : State) (n : Nat) (ag : Agent) (v : Word) (set : BitVec 3), n < 8 →
    (s.hears ag = true → s.chkAccepts n ag = true →
      let app (e : ChkEntry) : State := (s.setChk n { s.chkUnit n with queue := (s.chkUnit n).queue ++ [e] }).chkShow n
      let lo := ((s.chkUnit n).heldLo.find? fun e => e.1 == 0x68).map Prod.snd
      let other := (s.chkUnit n).heldLo.filter fun e => e.1 != 0x68
      exec (.feedB n ag v) s = .next (app (.feed [v.setWidth 8])).settle ∧
      exec (.feedH n ag v) s = .next (app (.feed [v.setWidth 8, (v >>> 8).setWidth 8])).settle ∧
      exec (.feedW n ag v) s = .next (app (.feed [v.setWidth 8, (v >>> 8).setWidth 8, (v >>> 16).setWidth 8,
        (v >>> 24).setWidth 8])).settle ∧
      exec (.chkStart n ag set) s = .next (app (.ctrl (2 ^ 31 + set.toNat))).settle ∧
      exec (.preset n ag set) s = .next (app (.ctrl (2 ^ 30 + set.toNat))).settle ∧
      exec (.cmpGo n ag set) s = .next (app (.ctrl (2 ^ 29 + set.toNat))).settle ∧
      exec (.alive n ag v) s = .next (app (.reg 0x94 v.toNat)).settle ∧
      exec (.runWrite n ag false v) s =
        .next (s.setChk n { s.chkUnit n with heldLo := (0x68, v.toNat) :: other }).settle ∧
      (n < s.chk.length → exec (.runWrite n ag true v) s = .next ((s.setChk n { s.chkUnit n with
        heldLo := other, queue := (s.chkUnit n).queue ++ [.pair 0x68 lo v.toNat] }).chkShow n).settle)) ∧
    (∀ (e : ChkEntry) (q : List ChkEntry), (s.chkUnit n).queue = e :: q →
      exec (.chkQueueEntryTaken n) s = .next (((s.setChk n { s.chkUnit n with queue := q }).chkApply n e).chkShow n).settle) ∧
    (s.hears ag = true → s.chkAccepts n ag = false → ∀ high : Bool,
      exec (.feedB n ag v) s = .next (s.raise (pCHK n) 31).settle ∧ exec (.feedH n ag v) s = .next (s.raise (pCHK n) 31).settle ∧
      exec (.feedW n ag v) s = .next (s.raise (pCHK n) 31).settle ∧ exec (.alive n ag v) s = .next (s.raise (pCHK n) 31).settle ∧
      exec (.chkStart n ag set) s = .next (s.raise (pCHK n) 31).settle ∧ exec (.preset n ag set) s = .next (s.raise (pCHK n) 31).settle ∧
      exec (.cmpGo n ag set) s = .next (s.raise (pCHK n) 31).settle ∧
      exec (.runWrite n ag high v) s = .next (s.raise (pCHK n) 31).settle)

/-- For every width W from 8 to 64, polynomial and running value within W bits and byte string: reversing the W bits
of the running value that a feed with REFIN = 1 leaves gives the running value that the feed of the bit-reversed bytes
with REFIN = 0 leaves from the reversed start; and the running value of either feed and its final value stay within W
bits (for XOROUT within W bits). (R366) -/
def Obligations.ReflectedFeedIsTheMirrorOfTheNormalFeed : Prop :=
  ∀ (c : CrcSet) (run : Nat) (l : List Byte), 8 ≤ c.w → c.w ≤ 64 → c.poly < 2 ^ c.w → run < 2 ^ c.w → c.xorOut < 2 ^ c.w →
    revBits c.w (CrcSet.feed { c with refIn := true } run l) =
      CrcSet.feed { c with refIn := false } (revBits c.w run) (l.map fun b => BitVec.ofNat 8 (revBits 8 b.toNat)) ∧
    CrcSet.feed c run l < 2 ^ c.w ∧ c.final (CrcSet.feed c run l) < 2 ^ c.w

/-- For each unit n whose values lie within their registers. START: RUN is INIT, CMPV, MATCH and BAD are 0, SYNC is 1.
PRESET with SET 0 to 4 and the page not locked: W, POLY, INIT, XOROUT, REFIN and REFOUT are those of the set, RUN its
INIT, CMPV and MATCH 0. CMP: CMPV is 1 and MATCH is 1 exactly if the final value and EXP agree over the low W bits; on
a match no event is raised, on a mismatch EVT_RAW[0] is set. A feed of bytes with no injection armed: RUN becomes what
R366 computes from them. A RUN pair below 2^W sets RUN and ends BAD. Only the unit's own named fields and, for the
mismatch, the page's event fields change. (R366, R370, R371, R372, R376, R377) -/
def Obligations.CheckUnitControlActsAsWritten : Prop :=
  ∀ (s : State) (n : Nat) (set : Nat) (l : List Byte), n < 8 → s.rd (Reg.CHK_INIT_LO_INIT n) < 2 ^ 32 →
    s.rd (Reg.CHK_INIT_HI_INIT n) < 2 ^ 32 → (s.chkSet n).feed (s.chkRun n) l < 2 ^ 64 →
    let cfg := [Reg.CHK_POLY_LO_POLY n, Reg.CHK_POLY_HI_POLY n, Reg.CHK_INIT_LO_INIT n, Reg.CHK_INIT_HI_INIT n,
      Reg.CHK_XOR_LO_XOROUT n, Reg.CHK_XOR_HI_XOROUT n, Reg.CHK_CFG_WIDTH n, Reg.CHK_CFG_REFIN n, Reg.CHK_CFG_REFOUT n]
    let run := [Reg.CHK_RUN_LO_RUN n, Reg.CHK_RUN_HI_RUN n]
    let stat := [Reg.CHK_STAT_CMPV n, Reg.CHK_STAT_MATCH n, Reg.CHK_STAT_BAD n]
    (let t : State := s.chkStart n;
      t.chkRun n = (s.chkSet n).init ∧ t.rd (Reg.CHK_STAT_CMPV n) = 0 ∧ t.rd (Reg.CHK_STAT_MATCH n) = 0 ∧
      t.rd (Reg.CHK_STAT_BAD n) = 0 ∧ t.rd (Reg.CHK_ALIVE_CFG_SYNC n) = 1 ∧
      s.onlyFields t (run ++ stat ++ [Reg.CHK_ALIVE_CFG_SYNC n])) ∧
    (set ≤ 4 → let t : State := s.chkPreset n set;
      t.chkSet n = presetSet set ∧ t.chkRun n = (presetSet set).init ∧ t.rd (Reg.CHK_STAT_CMPV n) = 0 ∧
      t.rd (Reg.CHK_STAT_MATCH n) = 0 ∧ s.onlyFields t (cfg ++ run ++ stat ++ [Reg.CHK_ALIVE_CFG_SYNC n])) ∧
    (let t : State := s.chkCompare n;
      let same : Prop := (s.chkSet n).final (s.chkRun n) % 2 ^ (s.chkSet n).w =
        s.rd64 (Reg.CHK_EXP_LO_EXP n) (Reg.CHK_EXP_HI_EXP n) % 2 ^ (s.chkSet n).w;
      t.rd (Reg.CHK_STAT_CMPV n) = 1 ∧ (t.rd (Reg.CHK_STAT_MATCH n) = 1 ↔ same) ∧ t.chkRun n = s.chkRun n ∧
      (same → s.onlyFields t (stat.take 2)) ∧
      (¬ same → t.evt (pCHK n) 0 = true ∧ s.regsKept t (stat.take 2 ++ (pCHK n).eventFields))) ∧
    (s.bit (Hdr.injArm (pCHK n)) = false →
      (s.chkFeed n l).chkRun n = (s.chkSet n).feed (s.chkRun n) l ∧ s.onlyFields (s.chkFeed n l) run) ∧
    (∀ lo < 2 ^ 32, ∀ hi < 2 ^ 32, lo + 2 ^ 32 * hi < 2 ^ s.rd (Reg.CHK_CFG_WIDTH n) →
      let t : State := s.chkPairApply n 0x68 (some lo) hi;
      t.chkRun n = lo + 2 ^ 32 * hi ∧ t.rd (Reg.CHK_STAT_BAD n) = 0 ∧ s.onlyFields t (run ++ [Reg.CHK_STAT_BAD n]))

/-- For each unit n and value a modulo 2^A, A being 4, 8, 16 or 32 by AW, with no injection armed on the page. EN = 0:
the write is discarded and sets EVT_RAW[31]. EN = 1: with SYNC = 1 E becomes a + 1 and SYNC 0; with a = E E becomes a
+ 1; with a = E - 1 EVT_RAW[1] is set, REPEAT counts one up to 0xFFFF and E stays; with any other a EVT_RAW[2] is set,
SKIP counts one up to 0xFFFF, GAP becomes a - E and E becomes a + 1. With FOLD = 1 every value but a repeat is then
fed as ceil(A / 8) bytes, least significant first; a repeat and FOLD = 0 leave RUN as it was. A write of ALIVE_CFG,
START and PRESET set SYNC. (R373) -/
def Obligations.AliveCountersFollowTheTable : Prop :=
  ∀ (s : State) (n v : Nat), n < 8 → s.bit (Hdr.injArm (pCHK n)) = false →
    s.rd (Reg.CHK_ALIVE_CFG_AW n) < 4 → s.chkRun n < 2 ^ 64 →
    let A := [4, 8, 16, 32].getD (s.rd (Reg.CHK_ALIVE_CFG_AW n)) 0
    let a := v % 2 ^ A
    let e := s.rd (Reg.CHK_ALIVE_EXP_E n) % 2 ^ A
    let t := s.chkAlive n v
    let fed := (s.chkSet n).feed (s.chkRun n) (leBytes ((A + 7) / 8) a)
    (s.bit (Reg.CHK_ALIVE_CFG_EN n) = false → t = s.raise (pCHK n) 31) ∧
    (s.bit (Reg.CHK_ALIVE_CFG_EN n) = true → fed < 2 ^ 64 →
      let repeated := s.bit (Reg.CHK_ALIVE_CFG_SYNC n) = false ∧ a ≠ e ∧ (a + 1) % 2 ^ A = e
      let skipped := s.bit (Reg.CHK_ALIVE_CFG_SYNC n) = false ∧ a ≠ e ∧ (a + 1) % 2 ^ A ≠ e
      t.rd (Reg.CHK_ALIVE_CFG_SYNC n) = (if s.bit (Reg.CHK_ALIVE_CFG_SYNC n) then 0 else s.rd (Reg.CHK_ALIVE_CFG_SYNC n)) ∧
      (¬ repeated → t.rd (Reg.CHK_ALIVE_EXP_E n) = (a + 1) % 2 ^ A ∧
        t.chkRun n = if s.bit (Reg.CHK_ALIVE_CFG_FOLD n) then fed else s.chkRun n) ∧
      (repeated → t.rd (Reg.CHK_ALIVE_EXP_E n) = s.rd (Reg.CHK_ALIVE_EXP_E n) ∧ t.chkRun n = s.chkRun n ∧
        t.evt (pCHK n) 1 = true ∧ (s.rd (Reg.CHK_ALIVE_CNT_REPEAT n) ≤ 0xFFFF →
          t.rd (Reg.CHK_ALIVE_CNT_REPEAT n) = min 0xFFFF (s.rd (Reg.CHK_ALIVE_CNT_REPEAT n) + 1))) ∧
      (skipped → t.rd (Reg.CHK_ALIVE_GAP_GAP n) = (a + 2 ^ A - e) % 2 ^ A ∧ t.evt (pCHK n) 2 = true ∧
        (s.rd (Reg.CHK_ALIVE_CNT_SKIP n) ≤ 0xFFFF →
          t.rd (Reg.CHK_ALIVE_CNT_SKIP n) = min 0xFFFF (s.rd (Reg.CHK_ALIVE_CNT_SKIP n) + 1))) ∧
      (¬ repeated → ¬ skipped → s.onlyFields t [Reg.CHK_ALIVE_CFG_SYNC n, Reg.CHK_ALIVE_EXP_E n, Reg.CHK_RUN_LO_RUN n,
        Reg.CHK_RUN_HI_RUN n])) ∧
    (∀ w set : Nat, (s.chkReg n 0x90 w).rd (Reg.CHK_ALIVE_CFG_SYNC n) = 1 ∧ (s.chkStart n).rd (Reg.CHK_ALIVE_CFG_SYNC n) = 1 ∧
      (s.chkPreset n set).rd (Reg.CHK_ALIVE_CFG_SYNC n) = 1)

/-- For an agent that is heard and a whole aligned word. At a header offset the header register is written. At a block
register of a page that is out of reset with no injection armed, that is no check unit, has no write of its own, is
not held at present and gets no reserved value: its fields are written one by one and then the register's action
follows. At an address no row of R55 maps nothing lands and HST EVT_RAW[0] is set. A write with partial byte enables
inside a page changes nothing. A write while the page is in RESET or RELEASING only sets its EVT_RAW[31]. (R9, R10, R55, R56, R62, R65, R66) -/
def Obligations.RegisterWritesCompleteByAddress : Prop :=
  ∀ (s : State) (ag : Agent) (a : BitVec 26) (v : Word) (p : Page), s.hears ag = true → a.toNat % 4 = 0 →
    let off := a.toNat - p.base
    (pageAt a.toNat = some p → off < 0x40 → exec (.registerWrite ag a v 0xF) s = .next (s.headerWrite p off v.toNat).settle) ∧
    (pageAt a.toNat = some p → 0x40 ≤ off → regFields p off ≠ [] → s.reaches ag p → p.block ≠ .chk →
      reservedIn (regFields p off) v.toNat = false → s.reservedPair p off v.toNat = false → s.writeHeld p off = false →
      s.regOp ag p off v.toNat = none →
      exec (.registerWrite ag a v 0xF) s = .next ((s.fieldsWrite p v.toNat (regFields p off)).regAct s p off v.toNat).settle) ∧
    (pageAt a.toNat = some p → 0x40 ≤ off → regFields p off ≠ [] → s.inReset p = true →
      exec (.registerWrite ag a v 0xF) s = .next (s.raise p 31).settle) ∧
    (∀ en : BitVec 4, en ≠ 0xF → pageAt a.toNat = some p → exec (.registerWrite ag a v en) s = .next s.settle) ∧
    (pageAt a.toNat = none → 0x79010 ≤ a.toNat → tableMapped a.toNat = false →
      ¬ (0x2000000 ≤ a.toNat ∧ a.toNat < 0x2002000) → ¬ (0x3000000 ≤ a.toNat ∧ a.toNat < 0x3040000) →
      exec (.registerWrite ag a v 0xF) s = .next (s.raise pHST 0).settle)

/-- For an agent that is heard and a whole aligned word at a block register of a page out of reset with no injection
armed: if any field that a write reaches gets a value its table calls reserved, or two related fields do, the
command's whole effect is that the page's EVT_RAW[31] is raised. A check unit does the same when it takes the entry: a
reserved SET, a WIDTH outside 8 to 64, or a value with a bit at or above W set discards the entry and raises
EVT_RAW[31]. (What else raising an event changes: statement RaisingAnEvent.) (R66) -/
def Obligations.ReservedValuesDiscardTheWholeWrite : Prop :=
  (∀ (s : State) (ag : Agent) (a : BitVec 26) (v : Word) (p : Page), s.reaches ag p → a.toNat % 4 = 0 →
    pageAt a.toNat = some p → 0x40 ≤ a.toNat - p.base → p.block ≠ .chk → regFields p (a.toNat - p.base) ≠ [] →
    (∃ e ∈ regFields p (a.toNat - p.base), e.1.acc ≠ .ro ∧ e.1.legal ≠ [] ∧ ∀ r ∈ e.1.legal, e.1.part v.toNat < r.1 ∨ r.2 < e.1.part v.toNat) ∨
      s.reservedPair p (a.toNat - p.base) v.toNat = true →
    exec (.registerWrite ag a v 0xF) s = .next (s.raise p 31).settle) ∧
  ∀ (s : State) (n v lo hi off : Nat), n < 8 →
    (4 < v % 8 → s.chkCtrl n v = s.raise (pCHK n) 31) ∧
    (v % 128 < 8 ∨ 64 < v % 128 → s.chkCfg n v = s.raise (pCHK n) 31) ∧
    (off ∈ [0x50, 0x58, 0x60, 0x68, 0x78] → 2 ^ s.rd (Reg.CHK_CFG_WIDTH n) ≤ lo + 2 ^ 32 * hi →
      s.chkPairApply n off (some lo) hi = s.raise (pCHK n) 31)

/-- For every page and offset, with t the state after the fields of its register have been written with v: a field
that is RWL, RW lockable or both, while the page is running (RWL) or LOCKED reads 1 (lockable), keeps its value; every
other RW or RWL field holds the value written to it; a W1C field keeps its value where 0 was written and is 0
elsewhere; RO, WO and W1S fields are as before. EVT_RAW[31] is set exactly if it was set before or some kept field was
written with another value. No field outside the register and the page's event fields changes. (R9, R65) -/
def Obligations.FieldsLandOneByOne : Prop :=
  ∀ (s : State) (p : Page) (off v : Nat), p.ok = true → 0x40 ≤ off →
    let fs := regFields p off
    let t := s.fieldsWrite p v fs
    let kept (d : FieldDef) : Prop := (d.acc = .rwl ∧ s.running p = true) ∨ (d.lock = true ∧ s.locked p = true)
    let valued (d : FieldDef) : Prop := d.acc = .rw ∨ d.acc = .rwl
    (∀ e ∈ fs, (valued e.1 → kept e.1 → t.rd e.2 = s.rd e.2) ∧ (valued e.1 → ¬ kept e.1 → t.rd e.2 = e.1.part v) ∧
      (e.1.acc = .w1c → t.rd e.2 = if e.1.part v = 0 then s.rd e.2 else 0) ∧
      (e.1.acc = .ro ∨ e.1.acc = .wo ∨ e.1.acc = .w1s → t.rd e.2 = s.rd e.2)) ∧
    (t.evt p 31 = true ↔ s.evt p 31 = true ∨ ∃ e ∈ fs, valued e.1 ∧ kept e.1 ∧ e.1.part v ≠ s.rd e.2) ∧
    s.regsKept t (fs.map Prod.snd ++ p.eventFields)

/-- For an agent that is heard. A read at a header offset sends the header word and changes nothing else. A read of a
block register (no check unit's, not RCK's cellar window) of a page in RESET or RELEASING sends 0. Out of reset with
no injection armed: a register that no other captures sends its value, and the registers it captures are captured at
the same moment; a captured register sends what was last captured. A check unit first takes every queued entry. A read
where no row of R55 maps sends 0 and sets HST EVT_RAW[0]. (R9, R10, R56, R61, R62, R368, R382) -/
def Obligations.RegisterReadsReturnWhatRegistersHold : Prop :=
  ∀ (s : State) (ag : Agent) (a : BitVec 26) (p : Page), s.hears ag = true → a.toNat % 4 = 0 →
    let off := a.toNat - p.base
    (pageAt a.toNat = some p → off < 0x40 → exec (.loRegisterReadCapture ag a) s = .next (s.emit (.regRead (s.headerWord p off))).settle) ∧
    (pageAt a.toNat = some p → 0x40 ≤ off → p.block ≠ .chk → s.inReset p = true →
      exec (.loRegisterReadCapture ag a) s = .next (s.emit (.regRead 0)).settle) ∧
    (pageAt a.toNat = some p → 0x40 ≤ off → p.block ≠ .chk → a.toNat ≠ 0x10064 → s.inReset p = false →
      s.bit (Hdr.injArm p) = false →
      (captured p.block off = false → exec (.loRegisterReadCapture ag a) s =
        .next (((captures p.block off).foldl (fun t o => t.wr (shadow p o) (2 * s.blockWord p o + 1)) s).emit
          (.regRead (s.blockWord p off))).settle) ∧
      (captured p.block off = true → exec (.loRegisterReadCapture ag a) s =
        .next (s.emit (.regRead (s.capturedWord p off))).settle)) ∧
    (pageAt a.toNat = some p → 0x40 ≤ off → p.block = .chk → (s.chkUnit p.inst).queue = [] → s.inReset p = false →
      s.bit (Hdr.injArm p) = false → captured p.block off = false → captures p.block off = [] →
      exec (.loRegisterReadCapture ag a) s = .next (s.emit (.regRead (s.blockWord p off))).settle) ∧
    (pageAt a.toNat = none → 0x79010 ≤ a.toNat → tableMapped a.toNat = false →
      ¬ (0x2000000 ≤ a.toNat ∧ a.toNat < 0x2002000) → ¬ (0x3000000 ≤ a.toNat ∧ a.toNat < 0x3040000) →
      exec (.loRegisterReadCapture ag a) s = .next ((s.raise pHST 0).emit (.regRead 0)).settle)

/-- With TIM out of reset: the value a read of TIM_NOW_LO returns is T modulo 2^32, and in every later state in which
TIM is out of reset and the captured place has not been written again, whatever the time base does meanwhile,
TIM_NOW_HI returns T div 2^32 of the clock of that read. TIM_RAW_LO and TIM_RAW_HI pair in the same way for the raw
counter C. A clock of the time base and a write of any other field leave the captured values as they are. (R382) -/
def Obligations.TimeReadsPairTheirHalves : Prop :=
  ∀ s : State, s.inReset pTIM = false → s.tim.c < 2 ^ 64 →
    (s.blockRead pTIM 0x40).1 = s.now % 2 ^ 32 ∧ (s.blockRead pTIM 0x48).1 = s.tim.c % 2 ^ 32 ∧
    (∀ t : State, t.inReset pTIM = false → t.rd (shadow pTIM 0x44) = (s.blockRead pTIM 0x40).2.rd (shadow pTIM 0x44) →
      (t.blockRead pTIM 0x44).1 = s.now / 2 ^ 32) ∧
    (∀ t : State, t.inReset pTIM = false → t.rd (shadow pTIM 0x4C) = (s.blockRead pTIM 0x48).2.rd (shadow pTIM 0x4C) →
      (t.blockRead pTIM 0x4C).1 = s.tim.c / 2 ^ 32) ∧
    (∀ off ∈ [0x44, 0x4C], s.clock.rd (shadow pTIM off) = s.rd (shadow pTIM off) ∧
      ∀ (f : Fld) (v : Nat), f.key ≠ (shadow pTIM off).key → (s.wr f v).rd (shadow pTIM off) = s.rd (shadow pTIM off))

/-- For the host or the innkeeper reaching GLB with no module reset asserted. A request with BUSY = 0 makes BUSY 1 and
is the one assembled; with BUSY = 1 and PEND = 0 it makes PEND 1 and waits (REQ reads 1); with both 1 it is merged and
GLB EVT_RAW[3] is set. RECKONING_CAPTURE of a summary being assembled and not yet captured takes the summary's bytes,
with FLAGS.TICK only where it falls on a tick boundary while ticks are launched. RECKONING_COMPLETE of a captured
summary with no peer to serve and none queued writes its 4,096 bytes, CHECK included, into the slot that does not hold
the latest one, counts SEQ, and then shows SLOT, LAST_SEQ and VALID, sets GLB EVT_RAW[2] and ends BUSY. (R76, R78, R79, R80) -/
def Obligations.ReckoningRequestsQueueAndMerge : Prop :=
  ∀ (s : State) (ag : Agent) (tick : Bool),
    (s.reaches ag pGLB →
      (s.rd Reg.GLB_RECKON_BUSY = 0 → exec (.reckonReq ag) s = .next ({ s.wr Reg.GLB_RECKON_BUSY 1 with
        reck := { s.reck with source := if ag = .innkeeper then 1 else 0, reqr := 0xFF, captured := none, peers := [] } } : State).settle) ∧
      (s.rd Reg.GLB_RECKON_BUSY = 1 → s.rd Reg.GLB_RECKON_PEND = 0 → s.pwr.modPhase = .none →
        exec (.reckonReq ag) s = .next ({ (s.wr Reg.GLB_RECKON_REQ 1).wr Reg.GLB_RECKON_PEND 1 with
          reck := { s.reck with qSource := if ag = .innkeeper then 1 else 0, qReqr := 0xFF, qPeers := [] } } : State).settle) ∧
      (s.rd Reg.GLB_RECKON_BUSY = 1 → s.rd Reg.GLB_RECKON_PEND = 1 →
        exec (.reckonReq ag) s = .next ((s.wr Reg.GLB_RECKON_REQ 1).raise pGLB 3).settle)) ∧
    (s.rd Reg.GLB_RECKON_BUSY = 1 → s.reck.captured = none →
      exec (.reckoningCapture tick) s =
        .next ({ s with reck := { s.reck with captured := some (s.summary (tick && s.mot.writing)) } } : State).settle) ∧
    (∀ body : List Byte, s.reck.captured = some body → s.reck.peers = [] → s.rd Reg.GLB_RECKON_PEND = 0 →
      let full := body ++ leBytes 8 (crc64.of body)
      let slot := if s.rd Reg.GLB_RECKON_VALID = 1 then 1 - s.rd Reg.GLB_RECKON_SLOT else 0
      ∃ u : State, exec .reckoningComplete s = .next u.settle ∧ (if slot = 0 then u.reck.slot0 = full ∧ u.reck.slot1 = s.reck.slot1
          else u.reck.slot1 = full ∧ u.reck.slot0 = s.reck.slot0) ∧
        u.reck.seq = (s.reck.seq + 1) % 2 ^ 32 ∧ u.rd Reg.GLB_RECKON_SLOT = slot % 2 ∧
        u.rd Reg.GLB_RECKON_LAST_SEQ = s.reck.seq % 2 ^ 16 ∧ u.rd Reg.GLB_RECKON_VALID = 1 ∧ u.evt pGLB 2 = true ∧
        u.rd Reg.GLB_RECKON_BUSY = 0 ∧ u.reck.captured = none)

/-- In every state the captured bytes of a summary, tick-bound or not, number 4,088, so that with CHECK the summary
has 4,096; bytes 0 to 7 are "RECK", LAYOUT 1 and PAGES 202; bytes 8 to 11 are SEQ; byte 12 is SOURCE and 13 REQUESTER;
for each i below 202 the 16 bytes from 0x100 + 16 i are the record of page i, zeros where its island is not locked;
byte 0xDB8 is K of PAK_STAT and 0xDB9 the life-cycle state. (R80, R81) -/
def Obligations.SummariesHaveTheirLayout : Prop :=
  ∀ (s : State) (tick : Bool), (s.summary tick).length = 0xFF8 ∧
    (s.summary tick).take 8 = [0x52, 0x45, 0x43, 0x4B, 0x01, 0x00, 202, 0x00] ∧
    leAt (s.summary tick) 8 4 = s.reck.seq % 2 ^ 32 ∧ leAt (s.summary tick) 12 1 = s.reck.source % 256 ∧
    leAt (s.summary tick) 13 1 = s.reck.reqr % 256 ∧ allPages.length = 202 ∧
    (∀ (i : Nat) (p : Page), allPages[i]? = some p → slice (s.summary tick) (0x100 + 16 * i) 16 =
      if s.islandLocked p.island then leBytes 4 (s.pageState p) ++ leBytes 4 (s.rd (Hdr.evtRaw p)) ++
        leBytes 4 (s.rd (Hdr.faultStat p)) ++ leBytes 4 (s.rd (Hdr.discards p) + 2 ^ 16 * s.rd (Hdr.raises p))
      else List.replicate 16 0) ∧
    leAt (s.summary tick) 0xDB8 1 = s.rd Reg.PAK_STAT_K % 256 ∧ leAt (s.summary tick) 0xDB9 1 = s.rd Reg.LCY_STATE_STATE % 256

/-- For an agent reaching TIM, with L the held low half (else the INC_LO in force) and INC = L + 2^32 times the low 8
bits of the _HI write, L below 2^32, and no check of B, C0 and INC failing. In range (13,730,151,452 to
13,757,639,242) the command completes: T at that clock is what it was, B has advanced by (C - C0) times the old INC,
modulo 2^96 (after a failed check it is rebuilt from T, R383), C0 is the present clock, INC is the new value and TIM
EVT_RAW[1] is set. Outside the range the write is discarded as a reserved value and EVT_RAW[31] is set. (R380) -/
def Obligations.IncrementChangesKeepTimeContinuous : Prop :=
  ∀ (s : State) (ag : Agent) (high : Word), s.reaches ag pTIM →
    let lo := s.tim.heldInc.getD (s.rd Reg.TIM_INC_LO_INC)
    let inc := lo + 2 ^ 32 * (high.toNat % 256)
    lo < 2 ^ 32 →
    (13730151452 ≤ inc → inc ≤ 13757639242 → ∃ u : State, exec (.incApply ag high false) s = .next u.settle ∧ u.now = s.now ∧
      (s.tim.bad = false → u.tim.base = (s.tim.base + s.tim.since * s.timeInc) % 2 ^ 96) ∧
      (s.tim.bad = true → u.tim.base = s.now * 2 ^ 28 % 2 ^ 96) ∧ u.tim.since = 0 ∧ u.tim.c = s.tim.c ∧
      u.timeInc = inc ∧ u.evt pTIM 1 = true ∧
      s.regsKept u ([Reg.TIM_INC_LO_INC, Reg.TIM_INC_HI_INC] ++ pTIM.eventFields)) ∧
    (inc < 13730151452 ∨ 13757639242 < inc → exec (.incApply ag high false) s = .next (s.raise pTIM 31).settle)

/-- For an agent reaching TIM, with D the signed 64-bit value of the held low half (0 where none is held, the model's
choice) and the _HI write, the low half below 2^32, and no check failing. With MOT not running and the alarm off, the
command completes: T is the old T plus D modulo 2^64 in the same clock, INC and the raw counter stay, and TIM
EVT_RAW[2] is set. With the MOT page running (RUNNING, and QUIESCING by the model's reading) it only sets TIM
EVT_RAW[31]. (R381) -/
def Obligations.TimeStepsByExactlyD : Prop :=
  ∀ (s : State) (ag : Agent) (high : Word), s.reaches ag pTIM →
    let lo := s.tim.heldAdj.getD 0
    lo < 2 ^ 32 →
    (s.running pMOT = false → s.rd Reg.TIM_CTRL_ALARM_EN = 0 → ∃ u : State, exec (.timeStep ag high false) s = .next u.settle ∧
      ((u.now : Int) = ((s.now : Int) + (BitVec.ofNat 64 (lo + 2 ^ 32 * high.toNat)).toInt) % 2 ^ 64) ∧
      u.timeInc = s.timeInc ∧ u.tim.c = s.tim.c ∧ u.evt pTIM 2 = true ∧ s.regsKept u pTIM.eventFields) ∧
    (s.running pMOT = true → exec (.timeStep ag high false) s = .next (s.raise pTIM 31).settle)

/-- In a powered module with TIM out of reset and no failed check, k clocks after C0 with INC unchanged T is floor((B
+ (since + k) x INC) / 2^28) modulo 2^64 and C has advanced by k modulo 2^64. ALARM completes: with ALARM_EN = 1 and T
at or past TIM_ALARM, ALARM_EN becomes 0 and TIM EVT_RAW[0] is set; with ALARM_EN = 0, or T below TIM_ALARM, nothing
changes. A write of INC or of a step at which the check fails sets TIM FAULT_STAT[0], and T is then a free function of
the raw counter. That a clock passes where no command waits (log entry 1), and at which moment a check fails (log
entry 77), are the model's choices. (R379, R383, R385) -/
def Obligations.ClocksAndTheAlarm : Prop :=
  ∀ s : State, s.inReset pTIM = false →
    (s.pwr.powered = true → s.tim.bad = false → ∀ k : Nat,
      (Nat.rec s (fun _ t => State.clock t) k : State).now = (s.tim.base + (s.tim.since + k) * s.timeInc) / 2 ^ 28 % 2 ^ 64 ∧
      (s.tim.c < 2 ^ 64 → (Nat.rec s (fun _ t => State.clock t) k : State).tim.c = (s.tim.c + k) % 2 ^ 64)) ∧
    (s.pstate pTIM ≠ 0 →
      (s.rd Reg.TIM_CTRL_ALARM_EN = 1 → s.rd64 Reg.TIM_ALARM_LO_ALARM Reg.TIM_ALARM_HI_ALARM ≤ s.now →
        exec .alarmDue s = .next ((s.wr Reg.TIM_CTRL_ALARM_EN 0).raise pTIM 0).settle) ∧
      (s.rd Reg.TIM_CTRL_ALARM_EN = 0 ∨ s.now < s.rd64 Reg.TIM_ALARM_LO_ALARM Reg.TIM_ALARM_HI_ALARM →
        exec .alarmDue s = .next s.settle)) ∧
    ∀ (ag : Agent) (high : Word), s.reaches ag pTIM →
      (∃ u : State, exec (.incApply ag high true) s = .next u.settle ∧ u.fault pTIM 0 = true ∧ u.tim.bad = true ∧
        u.now = Sys2Proof.Config.unreliableTime u.tim.c % 2 ^ 64) ∧
      (∃ u : State, exec (.timeStep ag high true) s = .next u.settle ∧ u.fault pTIM 0 = true ∧ u.tim.bad = true ∧
        u.now = Sys2Proof.Config.unreliableTime u.tim.c % 2 ^ 64)

/-- With MOT up. A sample on a used lane that is not good is discarded (CRC, or MISS where only a VALID bit is 0). A
good first copy in NO_LOCK or LOST, no copy of its SEQ seen, is accepted at the time arrival - SLAT and starts
ACQUIRING. A deflection word is formed once 60 ns have passed since the last (50 ns in safe mode). A lane whose lock
changes while another used lane is locked sets LOCK and MOT EVT_RAW[7]. An overdue sample takes VALID to HOLDOVER;
each further overdue interval counts, and past MISS_LIM the state becomes LOST. SETPOINT_FRAME sends a hold frame with
the next SEQ in safe mode, and otherwise steps the axes, follows their ends and sends the frame. (R231, R233, R235, R236, R237, R245, R247, R432) -/
def Obligations.PositionPortCommandsComplete : Prop :=
  ∀ (s : State) (lane : Nat) (arr dtx now : Int) (fr : List Byte),
    (s.live pMOT = true → s.laneUsed lane = true →
      ((posFrame fr).formOk = false → exec (.positionSample lane arr dtx fr) s = .next (s.smpDiscard Reg.MOT_CNT_0_CRC).settle) ∧
      ((posFrame fr).formOk = true → (posFrame fr).valid = false →
        exec (.positionSample lane arr dtx fr) s = .next (s.smpDiscard Reg.MOT_CNT_0_MISS).settle) ∧
      ((posFrame fr).formOk = true → (posFrame fr).valid = true → s.posState = psNOLOCK ∨ s.posState = psLOST → s.mot.copy = none →
        exec (.positionSample lane arr dtx fr) s =
          .next ((s.modMot fun m => { m with copy := some ⟨(posFrame fr).seq, lane, fr, arr, false⟩, equalRun := 0 }).smpAccept
            ⟨(posFrame fr).seq, (posFrame fr).x, (posFrame fr).y, (posFrame fr).status, arr, arr - s.slat, lane⟩ 1 true dtx).settle)) ∧
    (s.mot.lastWord + (if s.safeMode then 800 else 960) ≤ now →
      exec (.deflectionWordTimeout now) s = .next (s.deflect now).settle) ∧
    (∀ locked : Bool, lane < 2 → s.inReset pMOT = false → s.rd Reg.MOT_POS_STAT_LOCK < 4 →
      (s.rd Reg.MOT_POS_STAT_LOCK).testBit lane = !locked → s.rd Reg.MOT_PORT_RXMODE = 0 →
      (s.rd Reg.MOT_POS_STAT_LOCK).testBit (1 - lane) = true →
      exec (.motionLaneLockChange lane locked) s = .next ((s.wr Reg.MOT_POS_STAT_LOCK
        (if locked then setBit (s.rd Reg.MOT_POS_STAT_LOCK) lane else clrBit (s.rd Reg.MOT_POS_STAT_LOCK) lane)).raise pMOT 7).settle) ∧
    (s.posState = psVALID → s.overdue now 0 = true → exec (.holdover now) s =
      .next ((s.wr Reg.MOT_POS_STAT_PSTATE psHOLDOVER).modMot fun m => { m with gap := 1 }).settle) ∧
    (s.posState = psHOLDOVER → s.overdue now s.mot.gap = true →
      (s.mot.gap + 1 ≤ s.rd Reg.MOT_TRIG_MISS_LIM → exec (.holdoverMissLimit now) s =
        .next (s.modMot fun m => { m with gap := m.gap + 1 }).settle) ∧
      (s.rd Reg.MOT_TRIG_MISS_LIM < s.mot.gap + 1 → exec (.holdoverMissLimit now) s =
        .next (s.modMot fun m => { m with gap := m.gap + 1 }).posLost.settle)) ∧
    (s.safeMode = true → exec .setpointFrame s = .next ((s.setpointOut (setpointFrame 0x62 s.mot.mtxSeq 0 0 0 0 0)).modMot fun m =>
      { m with mtxSeq := (m.mtxSeq + 1) % 65536 }).settle) ∧
    (s.safeMode = false → s.isFollower = false → s.mot.trajectory = true → s.axesStep.isFollower = false → exec .setpointFrame s =
      .next (s.axesStep.moveEnds.sendSetpoint.lateCheck.lateHalt.thermShow.autoClear.motShow).settle)

/-- EDGE_COMMIT, where the current stripe's next tick may be committed, is due or its prediction is within 16 ns, its
codes are held and its frames acknowledged: the edge of that tick is committed at least 16 ns after the present.
TICK_EDGE_LAUNCH of a committed edge in VALID or HOLDOVER launches it; for a tick that is not the stripe's last, with
HSTATE other than RUNUP in a module that is no follower, phase 0 is sent at the committed time, NEXT_TICK counts on
and the 15 further phases are due. PHASE_EDGE sends phase f at edge + f x S. RUNUP_START with the dwell over begins
the run-up, with no halt held in MOT_HALT_TICK, and sets MOT EVT_RAW[16]; GAP_MAX_EXPIRY at the run-up point releases
every gap request; HALT_RESUME with R272's conditions begins the run-up from WAITING. (R241, R243, R259, R260, R268, R271, R272, R289) -/
def Obligations.TickEdgesAndRunupsComplete : Prop :=
  (∀ (s : State) (now : Int) (w : Waybill) (p : Plan), s.cur = some (w, p) → s.live pMOT = true → s.posLive = true →
    s.suppressed = false → s.mot.committed = none → s.tickNext < nTicks w.length p.k p.a →
    (∀ c, s.ceiling = some c → s.tickNext < c) → s.mot.due = true ∨ (∃ e, s.mot.predicted = some e ∧ e - 256 ≤ now) →
    s.allocHolds s.tickNext = true → s.tickAcked w.seq p.lanes s.tickNext = true →
    exec (.edgeCommit now) s = .next (s.commit p s.tickNext now).settle ∧
    ∃ e : Int, (s.commit p s.tickNext now).mot.committed = some (s.tickNext, e) ∧ now + 256 ≤ e) ∧
  (∀ (s : State) (w : Waybill) (p : Plan) (t : Nat) (at_ : Int), s.cur = some (w, p) → s.mot.committed = some (t, at_) →
    s.live pMOT = true → s.posLive = true → exec .tickEdgeLaunch s = .next (s.launch w p t at_).settle ∧
    (t + 1 < nTicks w.length p.k p.a → t + 1 < 2 ^ 32 → s.hstate ≠ hRUNUP → s.isFollower = false →
      (s.launch w p t at_).out = .edge t 0 at_ :: s.out ∧ (s.launch w p t at_).tickNext = t + 1 ∧
      (s.launch w p t at_).mot.committed = none ∧ (s.launch w p t at_).mot.nextPhase = 1 ∧
      (s.launch w p t at_).mot.lastEdge = some (t, at_, s.spacing p, s.curThr w p t))) ∧
  (∀ (s : State) (t sp : Nat) (at_ thr : Int), s.mot.lastEdge = some (t, at_, sp, thr) → s.mot.nextPhase < 16 →
    exec .phaseEdge s = .next ((s.emit (.edge t s.mot.nextPhase (at_ + 4 * (s.mot.nextPhase * sp)))).modMot fun m =>
      { m with nextPhase := m.nextPhase + 1 }).settle) ∧
  (∀ s : State, (s.autoClear.alignCheck).dwellOver = true →
    exec .runupStart s = .next ((s.autoClear.alignCheck).startRunup.raise pMOT 16).settle ∧
    (s.autoClear.alignCheck).startRunup.hstate = hRUNUP ∧ (s.autoClear.alignCheck).startRunup.suppressed = false ∧
    (s.autoClear.alignCheck).startRunup.rd Reg.MOT_HALT_TICK_TICK = 0xFFFFFFFF) ∧
  (∀ s : State, s.hstate = hTURN → s.mot.atRunup = true → ∃ u : State, exec .gapMaxExpiry s = .next u.settle ∧
    u.mot.gapBeam = false ∧ u.mot.gapCal = false ∧ u.rd Reg.MOT_HALT_STAT_GAP = 0 ∧ s.regsKept u [Reg.MOT_HALT_STAT_GAP] ∧
    u = { s with regs := u.regs, mot := { s.mot with gapBeam := false, gapCal := false }, pak := u.pak }) ∧
  (∀ s : State, s.autoClear.hstate = hWAITING → s.autoClear.reasons = 0 → s.autoClear.posState = psVALID →
    s.autoClear.allocHolds s.autoClear.mot.hTick = true → s.autoClear.groupAll (fun f => f.flag 1) = true →
    exec .haltResume s = .next s.autoClear.startRunup.settle)

/-- GO by an agent reaching MOT with no waybill armed, HSTATE IDLE or MOVE, the target within the limits, MOT IDLE or
RUNNING and the position VALID: a trajectory starts if none runs, both axes take the target, HSTATE is MOVE and RESULT
0. STOP outside IDLE requests a halt with reason HOST. RESUME clears exactly the software reasons whose conditions
have ended. ABANDON completes at once in WAITING and otherwise halts with reasons HOST and ABANDON. ARRAY_TEMP_REPORT
with ARY up and MOT out of reset shows the report and applies v_therm. TEMPERATURE_REPORT_STALE ends FRESH and, with a
stripe current, sets TEMP_STALE and requests a halt with THERM. MOT_RESET_ABANDON after a MOT reset abandons the armed
stripes and leaves HSTATE IDLE. (R256, R257, R266, R267, R270, R274, R311, R526) -/
def Obligations.StageCommandsComplete : Prop :=
  (∀ (s : State) (ag : Agent), s.reaches ag pMOT →
    (let x : Int := 64 * sx 32 (s.rd Reg.MOT_MOVE_X_X)
     let y : Int := 64 * sx 32 (s.rd Reg.MOT_MOVE_Y_Y)
     s.anyArmed = false → s.hstate = hIDLE ∨ s.hstate = hMOVE → s.inLimits x y = true → s.accepts pMOT = true →
     s.posState = psVALID → ∀ t : State, t = (if s.mot.trajectory then s else s.startTrajectory) →
     exec (.goMove ag) s = .next ((t.modMot fun m => { m with
       stopRamp := false
       ax := m.ax.retarget t.decNow (x * 2 ^ 21) t.vMax 0, ay := m.ay.retarget t.decNow (y * 2 ^ 21) t.vMax 0 }).wrs
         [(Reg.MOT_HALT_STAT_HSTATE, hMOVE), (Reg.MOT_MOVE_CTRL_RESULT, 0)]).settle) ∧
    (s.hstate ≠ hIDLE → exec (.stop ag) s = .next (s.stopRequest rHOST).settle) ∧
    (∃ u : State, exec (.resume ag) s = .next u.settle ∧ s.regsKept u [Reg.MOT_HALT_STAT_REASON, Reg.MOT_HALT_TICK_TICK] ∧
      (s.reasons < 4096 → ∀ r < 12, u.reasons.testBit r = (s.reasons.testBit r &&
        !([rHOST, rPERMIT, rPOS, rSCHOLD, rDCLAMP, rVLIM].contains r && s.reasonEnded r)))) ∧
    (s.hstate = hWAITING → exec (.abandon ag) s = .next (s.abandon s.mot.hTick).settle) ∧
    (s.hstate = hRUN ∨ s.hstate = hRUNUP ∨ s.hstate = hSTOPPING ∨ s.hstate = hBACKING → exec (.abandon ag) s =
      .next ((s.stopRequest rHOST).wr Reg.MOT_HALT_STAT_REASON (setBit (s.stopRequest rHOST).reasons rABANDON)).settle)) ∧
  (∀ (s : State) (src : Nat) (temp : BitVec 16), s.live pARY = true → s.inReset pMOT = false →
    exec (.arrayTempReport src temp) s = .next ((s.wrs [(Reg.ARY_TEMP_SRC, src), (Reg.ARY_TEMP_TEMP, temp.toNat),
      (Reg.MOT_TEMP_TEMP, temp.toNat), (Reg.MOT_TEMP_FRESH, 1)]).thermReport.thermShow).settle) ∧
  (∀ s : State, s.inReset pMOT = false →
    (s.cur = none → exec .temperatureReportStale s = .next (s.wr Reg.MOT_TEMP_FRESH 0).settle) ∧
    (s.cur.isSome = true → exec .temperatureReportStale s =
      .next ((((s.wr Reg.MOT_TEMP_FRESH 0).setFault pMOT 6).raise pMOT 17).stopRequest rTHERM).settle)) ∧
  (∀ (s : State) (w : Waybill) (p : Plan), s.mot.abandonRel = true → s.inReset pMOT = false →
    (s.modMot fun m => { m with abandonRel := false }).dropSecond.cur = some (w, p) → exec .motResetAbandon s =
      .next ((((s.modMot fun m => { m with abandonRel := false }).dropSecond).abandon p.launched).wr
        Reg.MOT_HALT_STAT_HSTATE hIDLE).settle)

/-- In a module that follows no lead, for each reason r below 12 and ceiling c. In RUN with no automatic reckoning:
HSTATE becomes STOPPING, bit r of REASON is set and the others stay, the halt tick is the lower of c and the ceiling
held, HALTS counts one up to 0xFFFF, MOT EVT_RAW[8] is set and both axes take the stop ramp. In STOPPING before h is
fixed only REASON and the halt tick change, likewise; after it only REASON. In TURN REASON is set and the halt tick is
0. In BACKING and RUNUP HSTATE returns to STOPPING and the halt tick stays h. In WAITING only REASON changes. With no
stripe in hand (IDLE) nothing changes (the model's reading, log entry 20). (R269, R270, R271, R273) -/
def Obligations.HaltRequestsActByHstate : Prop :=
  ∀ (s : State) (r c : Nat), s.isFollower = false → r < 12 → c < 2 ^ 32 → s.mot.hTick < 2 ^ 32 → s.reasons < 4096 →
    let t := s.halt r c
    let reasonSet : Prop := ∀ b < 12, t.reasons.testBit b = (decide (b = r) || s.reasons.testBit b)
    let lower : Nat := match s.ceiling with | some d => min c d | none => c
    (s.hstate = hIDLE → t = s) ∧
    (s.hstate = hRUN → s.rd Reg.GLB_RECK_AUTO_HALT = 0 → t.hstate = hSTOPPING ∧ reasonSet ∧
      t.rd Reg.MOT_HALT_TICK_TICK = lower % 2 ^ 32 ∧ t.evt pMOT 8 = true ∧
      (s.rd Reg.MOT_HALT_CNT_HALTS ≤ 0xFFFF → t.rd Reg.MOT_HALT_CNT_HALTS = min 0xFFFF (s.rd Reg.MOT_HALT_CNT_HALTS + 1)) ∧
      t.mot = { s.mot with stopRamp := true, ax := s.mot.ax.stopRamp, ay := s.mot.ay.stopRamp } ∧
      s.regsKept t ([Reg.MOT_HALT_STAT_REASON, Reg.MOT_HALT_STAT_HSTATE, Reg.MOT_HALT_TICK_TICK, Reg.MOT_HALT_CNT_HALTS] ++
        pMOT.eventFields)) ∧
    (s.hstate = hSTOPPING → reasonSet ∧
      (s.mot.hFixed = false → t.rd Reg.MOT_HALT_TICK_TICK = lower % 2 ^ 32 ∧
        s.onlyFields t [Reg.MOT_HALT_STAT_REASON, Reg.MOT_HALT_TICK_TICK]) ∧
      (s.mot.hFixed = true → s.onlyFields t [Reg.MOT_HALT_STAT_REASON])) ∧
    (s.hstate = hTURN → reasonSet ∧ t.rd Reg.MOT_HALT_TICK_TICK = 0 ∧
      s.onlyFields t [Reg.MOT_HALT_STAT_REASON, Reg.MOT_HALT_TICK_TICK]) ∧
    (s.hstate = hBACKING ∨ s.hstate = hRUNUP → reasonSet ∧ t.hstate = hSTOPPING ∧ t.rd Reg.MOT_HALT_TICK_TICK = s.mot.hTick ∧
      t.mot = { s.mot with stopRamp := true, ax := s.mot.ax.stopRamp, ay := s.mot.ay.stopRamp }) ∧
    (s.hstate = hWAITING → reasonSet ∧ s.onlyFields t [Reg.MOT_HALT_STAT_REASON])

/-- For an axis moving along dirn (+1 or -1) towards a target ahead of it, with speed at least VS, VC at least VS, VS
not negative and ACC and DEC positive: after one step of R253 the axis lies on or before the target and no further
from it than before; its speed is at least VS and at most the greater of VC and the speed before; it is on the target
exactly if the move has ended, and then its speed is VS; and unless the move has ended, the speed has changed by at
most DEC downwards and ACC upwards and the axis has moved by the sum of the two speeds. (R252, R253) -/
def Obligations.MovesNeverPassTheirTarget : Prop :=
  ∀ (a : Axis) (acc dec tgt : Int), a.dirn = 1 ∨ a.dirn = -1 → 0 ≤ a.vs → a.vs ≤ a.vc → a.vs ≤ a.v → 0 < acc → 0 < dec →
    0 < a.dirn * (tgt - a.p) → a.tgt = some tgt →
    let b := a.moveStep acc dec tgt
    0 ≤ a.dirn * (tgt - b.p) ∧ a.dirn * (tgt - b.p) ≤ a.dirn * (tgt - a.p) ∧ a.vs ≤ b.v ∧ b.v ≤ max a.vc a.v ∧
    (b.tgt = none ↔ b.p = tgt) ∧ (b.tgt = none → b.v = a.vs) ∧
    (b.tgt ≠ none → b.tgt = some tgt ∧ a.v - dec ≤ b.v ∧ b.v ≤ a.v + acc ∧ a.dirn * (b.p - a.p) = a.v + b.v) ∧
    b.dirn = a.dirn ∧ b.vc = a.vc ∧ b.vs = a.vs ∧ b.toRest = a.toRest ∧ b.next = a.next

/-- For an agent reaching the page. ITINERARY_WRITE of an itinerary no armed waybill names: the word holds the written
OY and OX bits. BEAM_TABLE_WRITE while WRITABLE, with no reserved GAIN or SRC: the given words of the staging bank's
entry hold the written bits that exist and nothing else changes. SWAP while WRITABLE and none is pending: SWAP_PEND
becomes 1 and WRITABLE 0. CANCEL: SWAP_PEND becomes 0. BANK_COPY_COMPLETE while COPYING, with no injection armed: the
staging bank becomes a copy of ACTIVE, COPYING 0 and ALC EVT_RAW[8] is set. ALC_GEOM_WRITE of allowed values while ALC
is not running: SLOTS and KLOG take them and SLOTS_SET follows. KERNEL_WINDOW_WRITE and DOSE_CLASS_TABLE_WRITE while
their page is not running: the tap (at most 65,536 for a Gaussian or fogging tap) or factor holds the value. (R23, R186, R198, R208, R209, R213, R214, R230) -/
def Obligations.TableWritesAndBankChangesComplete : Prop :=
  (∀ (s : State) (ag : Agent), s.reaches ag pALC →
    (∀ (i r : Nat) (v : Word), i < 16 → r < 512 → s.itinNamed i = false →
      ∃ u : State, exec (.itineraryWrite ag i r v) s = .next u.settle ∧ s.onlyFields u [Reg.itin i r] ∧
        u.itinOX i r = v.toNat % 64 ∧ u.itinOY i r = v.toNat / 256 % 8) ∧
    (∀ (b : Nat) (w0 w1 : Option Word), b < 262144 → s.rd Reg.ALC_BT_STAT_WRITABLE = 1 → s.rd Reg.ALC_BT_STAT_ACTIVE < 2 →
      (∀ v, w0 = some v → 0x1000 ≤ v.toNat % 65536) → (∀ v, w1 = some v → v.toNat / 2 ^ 30 ≠ 3) →
      ∃ u : State, exec (.beamTableWrite ag b w0 w1) s = .next u.settle ∧
        s.onlyFields u [Reg.btWord (1 - s.rd Reg.ALC_BT_STAT_ACTIVE) b 0, Reg.btWord (1 - s.rd Reg.ALC_BT_STAT_ACTIVE) b 1] ∧
        (∀ v, w0 = some v → u.btGain (1 - s.rd Reg.ALC_BT_STAT_ACTIVE) b = v.toNat % 65536 ∧
          u.btState (1 - s.rd Reg.ALC_BT_STAT_ACTIVE) b = v.toNat / 65536 % 4) ∧
        (∀ v, w1 = some v → u.rd (Reg.btWord (1 - s.rd Reg.ALC_BT_STAT_ACTIVE) b 1) = v.toNat &&& 0xC0FFFFFF)) ∧
    (s.rd Reg.ALC_BT_STAT_WRITABLE = 1 → s.rd Reg.ALC_BT_STAT_SWAP_PEND = 0 →
      exec (.swap ag) s = .next ((s.wr Reg.ALC_BT_STAT_SWAP_PEND 1).bankShow).settle) ∧
    exec (.cancel ag) s = .next ((s.wr Reg.ALC_BT_STAT_SWAP_PEND 0).bankShow).settle ∧
    (∀ v : Word, s.running pALC = false → 2 ≤ v.toNat / 256 % 64 → v.toNat / 256 % 64 ≤ 48 → 2 ≤ v.toNat % 8 → v.toNat % 8 ≤ 6 →
      exec (.alcGeomWrite ag v) s =
        .next ((s.wr Reg.ALC_GEOM_SLOTS (v.toNat / 256 % 64)).wr Reg.ALC_GEOM_KLOG (v.toNat % 8)).slotsShow.settle)) ∧
  (∀ s : State, s.rd Reg.ALC_BT_STAT_COPYING = 1 → s.inReset pALC = false → s.rd (Hdr.injArm pALC) = 0 → exec .bankCopyComplete s =
    .next ((((s.copyBank (s.rd Reg.ALC_BT_STAT_ACTIVE) (1 - s.rd Reg.ALC_BT_STAT_ACTIVE)).wr Reg.ALC_BT_STAT_COPYING 0).raise
      pALC 8).bankShow).settle) ∧
  (∀ (s : State) (ag : Agent) (o : BitVec 16) (v : Word), o.toNat % 4 = 0 →
    (o.toNat < 0x2000 → s.reaches ag pSRV → s.running pSRV = false → v.toNat % 2 ^ 17 ≤ 65536 →
      exec (.kernelWindowWrite ag o v) s = .next (s.wr (kernelFld o.toNat) v.toNat).settle) ∧
    (0x2000 ≤ o.toNat → o.toNat < 0x2064 → s.reaches ag pCOR → s.running pCOR = false →
      exec (.kernelWindowWrite ag o v) s = .next (s.wr (Reg.srTap ((o.toNat - 0x2000) / 4)) v.toNat).settle)) ∧
  (∀ (s : State) (ag : Agent) (c : BitVec 8) (v : Word), s.reaches ag pCOR → s.running pCOR = false →
    exec (.doseClassTableWrite ag c v) s = .next (s.wr (Reg.doseClass c.toNat) v.toNat).settle)

/-- For a current stripe whose next tick t may be computed. With sound data and two copies that agree, TICK_COMPUTE
computes tick t: the allocator's next tick is t + 1, ALC_TICK shows t and the codes held gain exactly tick t's. A
mismatch sets ALC EVT_RAW[2], counts a retry and computes the same; a second one sets COMPARE_FAIL and ends the
stripe's computation with a halt at t; a word restored sets EVT_RAW[9]. Poison in the data of tick t sets EVT_RAW[3],
requests a halt with POISON and ceiling t and marks the segment for recomputation, and no tick is computed.
PLAN_REBUILD ends a lost plan. ALLOCATOR_RESET_ABANDON, once the page is released and the stripe waits or has launched
nothing, abandons it. (R225, R226, R228, R229, R525) -/
def Obligations.TicksAreComputedInOrder : Prop :=
  (∀ (s : State) (w : Waybill) (p : Plan), s.cur = some (w, p) → s.canCompute w p s.alc.next = true →
    s.rd (Hdr.injArm pALC) = 0 → let t := s.alc.next
    (s.tickPoison w p t = none →
      exec (.tickCompute .none) s = .next (s.computeTick w p t).settle ∧ (s.computeTick w p t).alc.next = t + 1 ∧
      (s.computeTick w p t).rd Reg.ALC_TICK_TICK = t % 2 ^ 32 ∧
      (s.computeTick w p t).alc.codes = s.alc.codes ++ [(t, ((s.tickResults w p t).filter fun r => r.code != 0).map fun r => (r.b, r.code))] ∧
      exec (.tickCompute .mismatch) s =
        .next (((s.raise pALC 2).satInc Reg.ALC_CNT_RETRY_RETRIES 1).computeTick w p t).settle ∧
      exec (.tickCompute .mismatchTwice) s =
        .next (((s.raise pALC 2).satInc Reg.ALC_CNT_RETRY_RETRIES 1).allocFails 0 t).settle ∧
      exec (.tickCompute .restored) s = .next ((s.raise pALC 9).computeTick w p t).settle) ∧
    (∀ j, s.tickPoison w p t = some j → ∀ up, exec (.tickCompute up) s =
      .next (((s.raise pALC 3).halt rPOISON t).markRecompute w.seq j).settle)) ∧
  (∀ s : State, s.alc.planLost = true → s.live pALC = true →
    exec .planRebuild s = .next ({ s with alc := { s.alc with planLost := false } } : State).settle) ∧
  (∀ (s : State) (w : Waybill) (p : Plan), s.cur = some (w, p) → s.alc.abandonRel = true → s.inReset pALC = false →
    s.hstate = hWAITING ∨ p.launched = 0 → ∃ t : State, t = ({ s with alc := { s.alc with abandonRel := false } } : State).dropSecond ∧
      exec .allocatorResetAbandon s = .next (t.abandon (if p.launched = 0 then 0 else t.mot.hTick)).settle)

/-- For a target tau and m present visits (m at least 1) the m shares sum to tau exactly and any two differ by at most
1. For any requests of a group, its limit and window sum: the codes sum to no more than the budget LIM - gsum, each
code is at most its request's c1, each carry lies from -1 code to 2^n - 1 codes, each result stands for the same beam
as its request, and unless a bound acted the code and the new carry together are exactly the request x. The dither of
any hash of R218 lies within plus or minus DAMP/512 code, and an absent beam or one over no pixel of the stripe
requests c1 = 0 and keeps its carry. (R216, R217, R218, R220) -/
def Obligations.QuantiserKeepsDoseAndLimits : Prop :=
  (∀ tau m : Nat, 1 ≤ m → ((List.range m).map fun j => shareOf tau j m).sum = tau ∧
    ∀ i < m, ∀ j < m, shareOf tau i m ≤ shareOf tau j m + 1) ∧
  (∀ (n lim gsum : Nat) (rs : List Request),
    ((groupStage n lim gsum rs).map Result.code).sum ≤ lim - gsum ∧
    ∀ i : Nat, ∀ r, rs[i]? = some r → ∃ q, (groupStage n lim gsum rs)[i]? = some q ∧ q.b = r.b ∧ q.code ≤ r.c1 ∧
      -(2 ^ 36 : Int) ≤ q.carry ∧ q.carry ≤ (2 ^ n - 1 : Int) * 2 ^ 36 ∧
      (-(2 ^ 36 : Int) ≤ r.x - q.code * 2 ^ 36 → r.x - q.code * 2 ^ 36 ≤ (2 ^ n - 1 : Int) * 2 ^ 36 → q.code * 2 ^ 36 + q.carry = r.x)) ∧
  (∀ seed i j r damp : Nat, -(damp * 2 ^ 27 : Int) ≤ ditherOf damp (ditherHash seed i j r) ∧
    ditherOf damp (ditherHash seed i j r) ≤ damp * 2 ^ 27) ∧
  (∀ (s : State) (w : Waybill) (p : Plan) (t b : Nat) (ws : List (Nat × Nat)),
    s.rowPixel w p t (b / 512) = none ∨ s.btAbsent p.bank p.weakAbs b = true →
    (s.request w p t ws b).c1 = 0 ∧ (s.request w p t ws b).x = lookI s.alc.carry b)

/-- DELIVERY_START on an EMPTY handle with nothing in hand opens the delivery (RESULT 0, RECEIVING, RESUME 0);
REPAIR_START of a handle with a damaged block, with no repair in hand, opens a repair at that block; DELIVERY_ABORT
ends the repair, or else the delivery, in hand and sets EVT_RAW[10]. Bytes of the source and handle in hand at the
resume offset are taken while a staging buffer is free. A found block with a good CRC64 and the expected BLOCK_SEQ
(not 0) is staged; a bad CRC64 is a block failure 1; an equal block is interpreted, then filed or rejected at the
malformed record. STAGING_BUFFER_FREE frees one. FREE of a handle in use by nothing empties it with its map; the
released pages return; an index rebuild frees the travellers that waited for it. (R112, R113, R114, R115, R118, R119, R120, R121, R124, R145, R146) -/
def Obligations.DeliveriesAndBlocksComplete : Prop :=
  (∀ (s : State) (ag : Agent) (h : BitVec 4) (src : BitVec 2), s.reaches ag pING → src.toNat ≠ 3 → s.ing.repair = none →
    (s.ing.delivery = none → (s.lay h.toNat).state = .empty → exec (.deliveryStart ag h src) s =
      .next ((((((s.loadFields h.toNat src.toNat false).wr Reg.ING_LOAD_RESULT 0).wr Reg.ING_IFS_STAT_STREAM 1).showResume 0).modLay
        h.toNat fun l => { l with state := .receiving }).setDelivery (some { handle := h.toNat, source := src.toNat })).ingShow.settle) ∧
    (∀ o, s.damagedOf h.toNat = some o → exec (.repairStart ag h src) s =
      .next ((((((s.loadFields h.toNat src.toNat true).wr Reg.ING_LOAD_RESULT 0).wr Reg.ING_IFS_STAT_STREAM 1).wr
        Reg.ING_IFS_ERR_TRIES 0).showResume o).setRepair (some {
          handle := h.toNat, source := src.toNat, offset := o, stream := s.rd Reg.ING_IFS_STAT_STREAM })).ingShow.settle)) ∧
  (∀ (s : State) (ag : Agent), s.reaches ag pING →
    (∀ r, s.ing.repair = some r → exec (.deliveryAbort ag) s = .next ((s.endRepair r).raise pING 10).settle) ∧
    (∀ d, s.ing.repair = none → s.ing.delivery = some d →
      exec (.deliveryAbort ag) s = .next ((s.endDelivery d).raise pING 10).settle) ∧
    (∀ h : BitVec 4, (s.lay h.toNat).state ≠ .empty → s.handleBusy h.toNat = false → exec (.freeLayout ag h) s =
      .next (((if s.surveyBusy && s.rd Reg.SRV_STAT_HANDLE == h.toNat then (s.freeGo h.toNat).srvAborted else s.freeGo h.toNat).clearDesc
        h.toNat).dmgShow.nextRepair).settle)) ∧
  (∀ (s : State) (d : Delivery), s.inReset pING = false → s.ing.delivery = some d →
    (∀ (handle : Nat) (bytes : List Byte), s.ing.repair = none → d.source = 0 ∨ d.handle = handle → d.room = true →
      exec (.ingestTransfer d.source handle d.resume bytes) s = .next ((s.setDelivery (some { d with
        buf := d.buf ++ bytes, resume := d.resume + bytes.length })).showResume (d.resume + bytes.length)).settle) ∧
    (∀ n : Nat, s.ing.repair = none → locate 16384 0 d.buf = .found n →
      (crc64.of ((d.buf.take n).take (n - 8)) = leAt (d.buf.take n) (n - 8) 8 → leAt (d.buf.take n) (n - 12) 4 = d.expSeq →
        d.expSeq ≠ 0 → exec .blockReceived s = .next ((s.wr Reg.ING_IFS_ERR_TRIES 0).setDelivery (some { d with
          buf := d.buf.drop n, bufOfs := d.bufOfs + n, staged := d.staged ++ [(d.bufOfs, d.buf.take n)],
          expSeq := d.expSeq + 1, tries := 0 })).settle) ∧
      (crc64.of ((d.buf.take n).take (n - 8)) ≠ leAt (d.buf.take n) (n - 8) 8 →
        exec .blockReceived s = .next (s.blockFails d 1).settle)) ∧
    (∀ ofs blk rest, d.staged = (ofs, blk) :: rest →
      (∀ x, Interp.run (s.lsFree4k * 4096) d.interp (blockRecs 16384 ofs blk) = (x, none) →
        exec .blockInterpreted s = .next (s.blockFiled d ofs blk x).settle) ∧
      (∀ x r c, Interp.run (s.lsFree4k * 4096) d.interp (blockRecs 16384 ofs blk) = (x, some (r, c)) →
        exec .blockInterpreted s =
          .next (s.reject { d with expSeq := leAt blk (blk.length - 12) 4 } c r.type r.ofs).settle)) ∧
    exec .stagingBufferFree s = .next (s.setDelivery (some { d with freeing := d.freeing - 1 })).settle) ∧
  (∀ s : State, ∃ u : State, exec .layoutSpaceReleased s = .next u.settle ∧ u = { s with ing := u.ing } ∧ u.ing.releasing = []) ∧
  (∀ (s : State) (h : BitVec 4), s.inReset pING = false → (s.lay h.toNat).indexDamaged = true → h.toNat < s.ing.layouts.length →
    ∃ u : State, exec (.indexRebuildComplete h) s = .next u.settle ∧ (u.lay h.toNat).indexDamaged = false ∧
      ∀ v ∈ u.ing.travellers, v.handle = h.toNat → v.damage ≠ some indexMark)

/-- For an agent reaching ING. POST with fewer than eight waybills and STOPPED = 0 files the eight words with
NEXT_SEQ, which counts on past 0xFFFF to 1. WAYBILL_RESUME clears STOPPED and ABANDON's hold; FLUSH also removes every
unarmed waybill and HOLD. RCMP_REQ of a segment in the window marks it for recomputation. WAYBILL_ARM, with fewer than
two armed, nothing stopping arming and no injection armed in ALC: the head unarmed waybill is armed with the plan,
held with the reason, or refused with the code and detail that the checks of R127 give. PLAN_RECOMPUTE plans every
armed stripe again. STRIPE_COMPLETE, once every tick of the current stripe is computed and launched, every SEG record
made and the turnaround begun: its CLOSE record is made, ING EVT_RAW[6] set and the next stripe becomes current. (R126, R127, R128, R129, R144, R264, R469) -/
def Obligations.WaybillsComplete : Prop :=
  (∀ (s : State) (ag : Agent), s.reaches ag pING →
    (s.ing.waybills.length < 8 → s.bit Reg.ING_WB_QSTAT_STOPPED = false → exec (.post ag) s =
      .next ((({ s with ing := { s.ing with waybills := s.ing.waybills ++
        [{ seq := s.rd Reg.ING_WB_QSTAT_NEXT_SEQ, words := (List.range 8).map fun i => s.rd (Reg.ING_WB_WORD i) }] } } : State).wr
          Reg.ING_WB_QSTAT_NEXT_SEQ (if s.rd Reg.ING_WB_QSTAT_NEXT_SEQ = 0xFFFF then 1 else s.rd Reg.ING_WB_QSTAT_NEXT_SEQ + 1)).showQueue).settle) ∧
    exec (.waybillResume ag) s = .next ((s.wr Reg.ING_WB_QSTAT_STOPPED 0).modMot fun m => { m with abandonHold := false }).settle ∧
    (∃ u : State, exec (.flush ag) s = .next u.settle ∧ u.ing.waybills = s.ing.waybills.filter (fun w => w.plan.isSome) ∧
      u.mot.abandonHold = false ∧ u.rd Reg.ING_WB_QSTAT_STOPPED = 0 ∧ u.rd Reg.ING_WB_QSTAT_HOLD = 0) ∧
    (∀ (next : Bool) (seg : BitVec 24) (w : Waybill) (x : Waybill) (p : Plan) (j : Nat),
      s.armed[if next then 1 else 0]? = some w →
      (s.window.find? fun e => e.1.seq == w.seq && w.segIndex e.2.2 == seg.toNat) = some (x, p, j) →
      exec (.rcmpReq ag next seg) s = .next (((s.wrs [(Reg.ING_RCMP_REQ_NEXT, if next then 1 else 0),
        (Reg.ING_RCMP_REQ_SEG, seg.toNat)]).wr Reg.ING_RCMP_REQ_MISS 0).markRecompute w.seq j).settle)) ∧
  (∀ (s : State) (w : Waybill) (lost : Option Nat), s.armed.length < 2 → s.bit Reg.ING_WB_QSTAT_STOPPED = false →
    s.alc.stopped = false → s.alc.abandonRel = false → s.inReset pING = false → s.bit (Hdr.injArm pALC) = false →
    (s.ing.waybills.find? fun w => w.plan.isNone) = some w →
    (∀ p, s.armCheck w lost = .arm p → exec (.waybillArm lost) s = .next (s.armWaybill w p).settle) ∧
    (∀ r, s.armCheck w lost = .hold r → exec (.waybillArm lost) s = .next (s.holdWaybill r).settle) ∧
    (∀ c d l e, s.armCheck w lost = .refuse c d l e → exec (.waybillArm lost) s = .next (s.refuseWaybill w c d l e).settle)) ∧
  (∀ s : State, ∃ u : State, exec .planRecompute s = .next u.settle ∧
    u.ing.waybills = s.ing.waybills.map fun w => { w with plan := w.plan.map (s.replan w) }) ∧
  (∀ (s : State) (w : Waybill) (p : Plan), s.cur = some (w, p) → nTicks w.length p.k p.a ≤ s.alc.next →
    nTicks w.length p.k p.a ≤ p.launched → (s.ledFor w.seq = true → ∀ j < nSegs w.length p.k, (s.segOf w.seq j).made = true) →
    s.hstate ≠ hRUN ∨ s.isFollower = true →
    exec .stripeComplete s = .next ((((s.closeRecord w p 0 0).freeStripe w.seq).raise pING 6).dropHead.ingShow).settle)

/-- EXPANDER_DISPATCH of an idle expander: it works on the band the dispatch order names, or the lowest free traveller
begins the first segment of the window that has none; a read of the traveller table that is uncorrectable first marks
every traveller of the armed stripes and sets ING's fault 0. BAND_LIST_COMPLETE of a band whose data is sound, whose
copies agree and whose list fits the pool: the list takes its pages and the expander is free. LIST_POOL_WAIT_END ends
the wait while pages are free. SLOT_ASSIGN gives the lowest free slot to the listed traveller first in stage order.
BAND_CORRECTED once all its tiles are done: the list leaves the pool, the band counts, and the last one ends the
segment. TRAVELLER_RELEASE, its segment over and recorded where a record is due, frees the traveller. SEG_RECORD makes
the due record; two disagreeing hash units set LED HASH_FAIL instead. (R130, R131, R132, R137, R138, R143, R149, R161, R468) -/
def Obligations.BandsAndTravellersComplete : Prop :=
  (∀ (s : State) (n : Nat), s.expanderIdle n = true →
    (∀ i b, s.nextWork = some (.band i b) → ∃ u : State, exec (.expanderDispatch n false) s = .next u.settle ∧
      (u.ing.expanders[n]?).bind Expander.work = some (i, b)) ∧
    (∀ w p j, s.nextWork = some (.first w p j) → ∃ i, s.freeTraveller = some i ∧ ∃ u : State,
      exec (.expanderDispatch n false) s = .next u.settle ∧ (u.ing.expanders[n]?).bind Expander.work = some (i, 0) ∧
      u.trv i = { state := .expanding, handle := w.handle, stripe := w.stripe, wseq := w.seq, seg := w.segIndex j, j := j,
                  nbands := (p.bands.getD j []).length }) ∧
    (s.trvUpset.fault pING 0 = true ∧ exec (.expanderDispatch n true) s = .next (s.trvUpset.dispatch n).settle)) ∧
  (∀ (s : State) (n clocks i b : Nat) (w : Waybill) (p : Plan), (s.ing.expanders[n]?).bind Expander.work = some (i, b) →
    s.waybillOf (s.trv i).wseq = some (w, p) → (s.trv i).survey = false → (s.ing.expanders.getD n {}).waiting = false →
    let k := s.walkBand w p (s.trv i).j b;
    let pages := pagesFor (listBytes k.1.1.figs (s.srOf w.handle) (p.k / 2) k.2.1 k.2.2);
    let s1 : State := s.expBusy n (min clocks (k.1.1.cost (s.srOf w.handle) k.1.2 (p.k / 2) k.2.1 k.2.2));
    s.walkDamage w.handle k.1.1.reads = none → pages ≤ s.poolFree →
    exec (.bandListComplete n clocks false) s = .next (s1.listDone n i b k.1.1.figs pages).settle) ∧
  (∀ (s : State) (n : Nat), 0 < s.poolFree → n < s.ing.expanders.length → ∃ u : State, exec (.listPoolWaitEnd n) s = .next u.settle ∧
    u = { s with ing := u.ing } ∧ (u.ing.expanders.getD n {}).waiting = false) ∧
  (∀ (s : State) (k : Nat), s.freeSlot = some k → (∃ i, (s.trv i).state = .listed) →
    ∃ i, (s.trv i).state = .listed ∧ (∀ i', (s.trv i').state = .listed → s.stageRank (s.trv i) ≤ s.stageRank (s.trv i')) ∧
      exec .slotAssign s = .next (s.modTrv i fun v => { v with state := .raster, slot := some k, valid := false }).settle) ∧
  (∀ (s : State) (i : Nat) (e : BandList) (w : Waybill) (p : Plan), (s.ing.lists.find? fun e => e.trv == i) = some e →
    s.waybillOf (s.trv i).wseq = some (w, p) → p.bandTiles (s.trv i).j e.band ≤ e.done →
    let s1 : State := ({ s with ing := { s.ing with lists := s.ing.lists.filter fun f => !(f.trv == i && f.band == e.band) } } : State).modTrv i
      fun v => { v with corrected := v.corrected + 1 };
    exec (.bandCorrected i) s = .next (if (s.trv i).corrected + 1 < (s.trv i).nbands then s1 else s1.segmentDone i).settle) ∧
  (∀ (s : State) (i : Nat), s.segOver (s.trv i) = true →
    (s.live pLED = false ∨ (s.segOf (s.trv i).wseq (s.trv i).j).made = true → exec (.travellerRelease i) s = .next (s.freeTrv i).ingShow.settle) ∧
    (∀ w p, s.waybillOf (s.trv i).wseq = some (w, p) → s.ledFor (s.trv i).wseq = true → (s.segOf (s.trv i).wseq (s.trv i).j).made = false →
      s.led.staging.length < 64 →
      exec (.segRecord i false) s = .next (s.segRecord w p (s.trv i).j (segLast w p (s.trv i).j) (s.trv i).slot false).settle ∧
      exec (.segRecord i true) s = .next (s.setFault pLED 1).settle))

/-- BINNER_RUN bins the next run of the first band that is not wholly binned while the reference store has room;
REFERENCE_STORE_FREE ends its wait. TILE_DISPATCH: the first open vote goes to the lowest free spare; with none open
the lowest idle pair takes a tile. TILE_RECORD_COMPARE compares pair p's records, once the staging pool has room, or,
with no injection armed, a voter pair's. TILE_STALL counts a STALL mismatch: no majority and a strike to both, or a
voter's mismatch. STAGING_POOL_FREE lets a stalled pair go on. VOTE_RESOLVED resolves a vote by a spare's record, or a
voter pair's. STRIKE_DECAY takes 1 from a due level. PAIR_REFORM refills a pair that waits. TILE_CORRECT corrects the
oldest agreed tile into its slot; one that reads a poisoned map word is discarded. (R161, R165, R166, R167, R168, R169, R170, R171, R172, R173, R200, R203) -/
def Obligations.TilesComplete : Prop :=
  (∀ (s : State) (e : BandList) (w : Waybill) (p : Plan), s.ras.binWait = false → s.accepts pCMP = true →
    (s.bandsInOrder fun e => match s.waybillOf (s.trv e.trv).wseq with
      | some (_, p) => decide (e.rows < p.bandRowsOf (s.trv e.trv).j e.band)
      | none => false) = some e → s.waybillOf (s.trv e.trv).wseq = some (w, p) →
    let run := runLength (s.rowRefs e w p (s.trv e.trv).j) (32 * mib) (p.bandRowsOf (s.trv e.trv).j e.band - e.rows) e.rows 0 0;
    (s.refsHeld = 0 ∨ s.refsHeld + run.2 ≤ 32 * mib → exec (.binnerRun false) s = .next ({ s with ing := { s.ing with
      lists := s.ing.lists.map fun f => if f.trv = e.trv ∧ f.band = e.band then { f with rows := f.rows + run.1, refs := f.refs + run.2 } else f } } :
        State).settle) ∧
    (0 < s.refsHeld → 32 * mib < s.refsHeld + run.2 → exec (.binnerRun false) s = .next (s.modRas fun r => { r with binWait := true }).settle)) ∧
  (∀ s : State, exec .referenceStoreFree s = .next (s.modRas fun r => { r with binWait := false }).settle) ∧
  (∀ s : State, s.accepts pCMP = true →
    (∀ t e, (s.ras.tiles.find? fun t => t.place == .vote) = some t → s.freeSpare = some e →
      exec .tileDispatch s = .next ((s.setTile t { t with place := .spare e }).setRole e roleVOTING 0x1F).cmpShow.settle) ∧
    (∀ p, (s.ras.tiles.find? fun t => t.place == .vote) = none → ((List.range 24).find? s.pairIdle) = some p →
      exec .tileDispatch s = .next (s.feedPair p).cmpShow.settle)) ∧
  (∀ (s : State) (p : Nat) (t : Tile), (s.ras.tiles.find? fun t => t.place == .pair p || t.place == .pairVote p) = some t →
    (∀ u, t.place = .pair p → s.stagingRoom (s.recordOf t).length = true →
      exec (.tileRecordCompare p u) s = .next (s.compareFirst t p u).leaveIdle.cmpShow.settle) ∧
    (t.place = .pairVote p →
      (s.bit (Hdr.injArm pCMP) = false → s.injects (s.engA p) (s.recordOf t) = none → s.injects (s.engB p) (s.recordOf t) = none →
        exec (.tileRecordCompare p .none) s =
          .next ((s.pairDone p).setTile t { t with place := .voted p, recV := s.recordOf t }).leaveIdle.cmpShow.settle) ∧
      exec (.tileStall p) s = .next ((s.showMismatch t p 2 0 false).voterMismatch t p).leaveIdle.cmpShow.settle) ∧
    (t.place = .pair p → exec (.tileStall p) s =
      .next ((((s.showMismatch t p 2 0 false).freeRefs t).noMajority t 0x3F 0x1F).strike [s.engA p, s.engB p]).leaveIdle.cmpShow.settle)) ∧
  (∀ (s : State) (p : Nat) (t : Tile), (s.ras.tiles.find? fun t => t.place == .emit p) = some t → s.stagingRoom (s.recordOf t).length = true →
    exec (.stagingPoolFree p) s = .next (s.setTile t { t with place := .pair p }).settle) ∧
  (∀ (s : State) (v : Nat) (t : Tile), (s.ras.tiles.filter fun t => match t.place with | .spare _ | .voted _ => true | _ => false)[v]? = some t →
    (∀ e, t.place = .spare e → s.injects e (s.recordOf t) = none → exec (.voteResolved v .none) s =
      .next (((s.engineDone e).setRole e roleSPARE 0x1F).resolve t (s.recordOf t) e 0x1F false).leaveIdle.cmpShow.settle) ∧
    (∀ p, t.place = .voted p → exec (.voteResolved v .none) s = .next (s.resolve t t.recV 0x3F p false).leaveIdle.cmpShow.settle)) ∧
  (∀ (s : State) (n : Nat), n ∈ s.ras.decay → exec (.strikeDecay n) s =
    .next ((s.wr (Reg.RAS_STRIKES_LEVEL n) (s.rd (Reg.RAS_STRIKES_LEVEL n) - 1)).modRas fun r => { r with decay := r.decay.erase n }).settle) ∧
  (∀ (s : State) (p : Nat), p ∈ s.ras.waiting → exec (.pairReform p) s = .next (s.refill p).cmpShow.settle) ∧
  (∀ (s : State) (t : Tile) (w : Waybill) (p : Plan) (slot clock : Nat), s.live pCOR = true →
    (s.ras.tiles.find? fun t => t.place == .agreed) = some t → s.waybillOf t.wseq = some (w, p) → (s.trv t.trv).slot = some slot →
    t.void = false → let g := s.geo w.handle;
    let i0 : Int := ((w.stripe * p.w + 64 * (tileOf w.dir p.k t.tseq).1 : Nat) : Int);
    let j0 : Int := ((w.segIndex t.j * p.w + 64 * (tileOf w.dir p.k t.tseq).2 : Nat) : Int);
    (s.tileDamage w.handle g i0 j0 = none →
      exec (.tileCorrect none clock) s = .next ((s.noteRepaired w.handle g i0 j0 t).correct w p t slot).settle) ∧
    (∀ o, s.tileDamage w.handle g i0 j0 = some o → exec (.tileCorrect none clock) s =
      .next ((((s.discardTile t).raise pCOR 3).mapDamaged w.handle o).modTrv t.trv fun v => { v with damage := some mapMark }).settle))

/-- Where no ground of R191 refuses it, each START takes RESULT 0, its handle and its phase, with a fresh map for
modes 0 and 2. ABORT of a walk with no survey traveller ends it at once. A walked survey segment with sound data is
entered: its cost record is written. WALK_COMPLETE goes to fogging and COST_WALK_COMPLETE ends, both with the handle
COSTED; FOG_COMPLETE goes to the sweeps; with no repair of the map in progress SWEEP_COLUMN writes the factors of the
next column and counts it in DONE_COLS, going to the check after the last; MAP_COMPLETE shows the map's CRC-64 and
READY, also only then; a host map whose CRC equals SRV_HCRC is committed, otherwise rejected; a re-check that agrees
ends its damage; a repair ends with no damage of its handle left. TAKE adds its stripes to the walk of a shared
survey. (R184, R185, R188, R189, R190, R191, R192, R193, R194, R197, R203, R411) -/
def Obligations.SurveysComplete : Prop :=
  (∀ (s : State) (ag : Agent) (h : BitVec 4) (sr : Bool), s.takesWork ag pSRV →
    let ok (mode : Nat) (u : State) : Prop := u = ((((if mode = 0 ∨ mode = 2 then
        ((((s.srvFields h.toNat mode sr).wr Reg.SRV_NEED_WS_MIB (s.needWs mode)).wr Reg.SRV_NEED_MAP_MIB s.needMap).wrs
          [(Reg.SRV_CTRL_RESULT, 0), (Reg.SRV_CTRL_DETAIL, 0), (Reg.SRV_STAT_OUTCOME, 0), (Reg.SRV_STAT_HANDLE, h.toNat),
            (Reg.SRV_PROG_SEGS, 0), (Reg.SRV_STAT_PHASE, if mode = 0 ∨ mode = 1 then 1 else 4)]).newMap h.toNat mode sr
      else ((((s.srvFields h.toNat mode sr).wr Reg.SRV_NEED_WS_MIB (s.needWs mode)).wr Reg.SRV_NEED_MAP_MIB s.needMap).wrs
          [(Reg.SRV_CTRL_RESULT, 0), (Reg.SRV_CTRL_DETAIL, 0), (Reg.SRV_STAT_OUTCOME, 0), (Reg.SRV_STAT_HANDLE, h.toNat),
            (Reg.SRV_PROG_SEGS, 0), (Reg.SRV_STAT_PHASE, if mode = 0 ∨ mode = 1 then 1 else 4)])).modSrv fun x =>
        { x with mode := mode, acc := [], col := 0, deltaMax := 0, sat := 0, aborting := false }).walkPlan h.toNat mode).srvShow);
    (s.srvRefusal h.toNat 0 = none → ∃ u : State, exec (.surveyStart ag h sr) s = .next u.settle ∧ ok 0 u) ∧
    (s.srvRefusal h.toNat 1 = none → ∃ u : State, exec (.costWalkStart ag h sr) s = .next u.settle ∧ ok 1 u) ∧
    (s.srvRefusal h.toNat 2 = none → ∃ u : State, exec (.hostMapCommit ag h sr) s = .next u.settle ∧ ok 2 u) ∧
    (s.srvRefusal h.toNat 3 = none → ∃ u : State, exec (.hostMapRecheck ag h sr) s = .next u.settle ∧ ok 3 u)) ∧
  (∀ (s : State) (ag : Agent), s.reaches ag pSRV → s.surveyBusy = true → s.rd Reg.SRV_STAT_PHASE = 1 →
    (∀ t ∈ s.ing.travellers, t.state = .free ∨ t.survey = false) → exec (.srvAbort ag) s = .next s.srvAborted.settle) ∧
  (∀ (s : State) (n clocks i b : Nat), (s.ing.expanders[n]?).bind Expander.work = some (i, b) → (s.trv i).survey = true →
    let t : Traveller := s.trv i;
    let k := s.walkSegment t.handle t.stripe t.seg;
    let s1 : State := s.expBusy n (min clocks (k.1.cost (s.srOf t.handle) k.2 ((s.geo t.handle).w / 1024) 0 ((s.geo t.handle).w / 1024)));
    s.walkDamage t.handle k.1.reads = none → s.srv.aborting = false →
    exec (.surveySegmentWalked n clocks false) s = .next ((((s1.freeExpander n).wrapInc (Reg.EXP_FIGS_FIGS n) k.1.figs.length).freeTrv i).segWalked
      t.handle t.stripe t.seg k.1 k.2 (s.srv.redo.contains (t.handle, s.segNumber t.handle t.stripe t.seg))).srvShow.settle) ∧
  (∀ s : State, s.walkOver = true → let h := s.rd Reg.SRV_STAT_HANDLE;
    (s.srv.mode = 0 → exec .walkComplete s = .next ((((s.wr (Reg.COR_MAP_DESC_COSTED h) 1).wr Reg.SRV_STAT_PHASE 2).raise pSRV 1).raiseIf
      s.srv.shared pFAB 6).settle) ∧
    (s.srv.mode = 1 → exec .costWalkComplete s = .next (((s.wr (Reg.COR_MAP_DESC_COSTED h) 1).srvEnd 1).raise pSRV 3).settle)) ∧
  (∀ (s : State) (clock : Nat), let h := s.rd Reg.SRV_STAT_HANDLE;
    (s.rd Reg.SRV_STAT_PHASE = 2 → ∃ u : State, exec (.fogComplete none clock) s = .next u.settle ∧ u.rd Reg.SRV_STAT_PHASE = 3 ∧ u.srv.col = 0) ∧
    (s.rd Reg.SRV_STAT_PHASE = 3 → s.srv.repair ≠ some h → s.srv.col + 1 < (s.geo h).cols → ∃ u : State, exec (.sweepColumn none clock) s = .next u.settle ∧
      u.hbm = (s.hbmStore (s.mapAddr h + 2 * s.srv.col * (s.geo h).rows)
        ((s.columnOf h (s.geo h) (rhoFrom (s.geo h) s.srv.acc) ((s.srv.col : Int) - 1)).flatMap fun e => leBytes 2 e.1)).hbm ∧
      u.rd (Reg.COR_MAP_DONE_COLS h) = (s.srv.col + 1) % 2 ^ 32 ∧ u.srv.col = s.srv.col + 1) ∧
    (s.rd Reg.SRV_STAT_PHASE = 4 → s.srv.mode = 0 → s.srv.repair ≠ some h → exec .mapComplete s =
      .next (((((s.shareCrc (s.mapBytesCrc h)).wr64 (Reg.COR_MAP_CRC_LO_CRC h) (Reg.COR_MAP_CRC_HI_CRC h) (s.mapBytesCrc h)).wr
        (Reg.COR_MAP_DESC_STATE h) 2).srvEnd 1).raise pSRV 2 |>.mapRecord h (s.mapBytesCrc h) false).settle) ∧
    (s.rd Reg.SRV_STAT_PHASE = 4 → s.srv.mode = 2 →
      (s.mapBytesCrc h = s.rd64 Reg.SRV_HCRC_LO_HCRC Reg.SRV_HCRC_HI_HCRC → exec .hostMapCheckComplete s =
        .next ((((s.wr64 (Reg.COR_MAP_CRC_LO_CRC h) (Reg.COR_MAP_CRC_HI_CRC h) (s.mapBytesCrc h)).wrs [(Reg.COR_MAP_DESC_STATE h, 3),
          (Reg.COR_MAP_DONE_COLS h, (s.geo h).cols)]).srvEnd 1).raise pSRV 2).settle) ∧
      (s.mapBytesCrc h ≠ s.rd64 Reg.SRV_HCRC_LO_HCRC Reg.SRV_HCRC_HI_HCRC → exec .hostMapCheckComplete s =
        .next (((s.wr (Reg.COR_MAP_DESC_STATE h) 0).srvEnd 3).raise pSRV 5).settle)) ∧
    (s.rd Reg.SRV_STAT_PHASE = 4 → s.srv.mode = 3 → s.mapBytesCrc h = s.rd64 (Reg.COR_MAP_CRC_LO_CRC h) (Reg.COR_MAP_CRC_HI_CRC h) →
      exec .hostMapCheckComplete s = .next ((((s.wr (Reg.COR_MAP_DESC_DAMAGED h) 0).modSrv fun v => { v with
        damaged := v.damaged.filter fun e => e.1 != h, repaired := v.repaired ++ v.damaged.filter fun e => e.1 == h }).mapWhole h).srvEnd 1).dmgShow.settle)) ∧
  (∀ (s : State) (h : Nat), s.srv.repair = some h → s.inReset pSRV = false → h < 16 →
    ∃ u : State, exec .mapRepairComplete s = .next u.settle ∧ u.rd (Reg.COR_MAP_DESC_DAMAGED h) = 0 ∧ u.srv.repair ≠ some h ∧
      ∀ e ∈ u.srv.damaged, e.1 ≠ h) ∧
  (∀ (s : State) (ag : Agent), s.takesWork ag pFAB → exec (.takeGo ag) s = .next s.takeStripes.settle)

/-- A lane whose link is up sends: TRAIN in training, BLANK on standby, and in READY what its stream holds on a data
lane. TICK_MARKER puts the marker of the latest edge on every data lane. LANE_MAP_SET sends a set from READY. A good
echo frame on a locked return lane feeds its 16 records, a good status frame its payload, in blind mode only the alive
counter and the temperature. ECHO_TIMEOUT of a frame not yet due asks for its resend and counts while both echo lanes
are locked. ARRAY_DEAD, return-lane locks and polarity act as R294 and R295 state. RETRAIN with no armed waybill, and
a change of MODE, go to BLANK. TRAIN_PHASE_COMPLETE selects the lanes; BRINGUP_TIMEOUT fails; QLK_RETRAIN trains one
lane and LANE_RETRAIN_COMPLETE makes it STANDBY or FAILED. (R281, R286, R288, R290, R293, R294, R295, R297, R298, R299, R301, R304) -/
def Obligations.QlinkCommandsComplete : Prop :=
  (∀ (s : State) (n : Nat) (up : Sys2Proof.FrameUpset), n < 80 → s.txOff = false → s.inReset (pQLK n) = false →
    (s.lstate = lsTRAIN → s.rd (Reg.QLK_CFG_USE n) ≠ 0 → exec (.qlinkFrameSend n up) s =
      .next ((s.emit (.qframe n (qFrame 0x80 (s.laneAt n).alive n (trainPayload n) (s.laneAt n).corrupt))).modLane n fun q =>
        { q with alive := (q.alive + 1) % 256, corrupt := false, sent := q.sent + 1, clean := q.clean + 1 }).settle) ∧
    (s.lstate = lsREADY → s.laneRole n = roSTANDBY → exec (.qlinkFrameSend n up) s =
      .next ((s.emit (.qframe n (qFrame 0 (s.laneAt n).alive 0xFF (List.replicate 1016 0) (s.laneAt n).corrupt))).modLane n fun q =>
        { q with alive := (q.alive + 1) % 256, corrupt := false }).settle) ∧
    (s.lstate = lsREADY → s.laneRole n = roDATA → exec (.qlinkFrameSend n up) s = .next (s.sendOnData n up).settle) ∧
    (s.lstate = lsREADY → s.laneRole n = roDATA ∨ s.laneRole n = roSTANDBY → exec (.laneMapSet n) s =
      .next ((s.emit (.laneMap n (s.mapChars n))).modLane n fun q => { q with sets := q.sets + 1, setsDue := q.setsDue - 1 }).settle)) ∧
  (∀ (s : State) (stamp : BitVec 64) (t sp : Nat) (e c : Int), s.mot.lastEdge = some (t, e, sp, c) → s.lstate ≠ lsDOWN → s.txOff = false →
    s.pak.marked ≠ some e → exec (.tickMarker stamp) s = .next ((List.range 80).foldl (fun v n =>
      if s.laneRole n = roDATA then v.markOn n t sp e stamp.toNat else v) (s.modPak fun p => { p with marked := some e })).settle) ∧
  (∀ (s : State) (m : Nat) (fr : List Byte), m < 4 → s.inReset pPAK = false → (s.rd Reg.PAK_STAT_QRX_LOCK).testBit m = true →
    returnOk fr = true → (∀ q < 4, q ≠ m → s.bit (qrxValid q) = false ∨ s.rd (qrxSrc q) ≠ leAt fr 2 1 ∨
      (s.rd Reg.PAK_STAT_QRX_LOCK).testBit q = false) →
    (leAt fr 0 1 = 0xE0 → s.rd Reg.PAK_CFG_MODE = 2 → exec (.echoFrame m fr) s =
      .next ((List.range 16).foldl (fun u i => u.echoRecord (slice fr (3 + 8 * i) 8)) (s.wrs [(qrxValid m, 1), (qrxSrc m, leAt fr 2 1)])).settle) ∧
    (leAt fr 0 1 = 0xE4 → s.lstate ≠ lsDOWN → (s.rd Reg.PAK_CFG_MODE = 2 → exec (.statusFrame m fr) s =
      .next ((s.wrs [(qrxValid m, 1), (qrxSrc m, leAt fr 2 1)]).status (slice fr 3 128)).settle) ∧
      (s.rd Reg.PAK_CFG_MODE ≠ 2 → exec (.statusFrame m fr) s = .next (s.wrs [(qrxValid m, 1), (qrxSrc m, leAt fr 2 1),
        (Reg.PAK_ARY_ALIVE_ALIVE, leAt fr 3 4), (Reg.PAK_ARY_TEMP_TEMP, leAt fr 7 2)]).settle))) ∧
  (∀ (s : State) (n al : Nat) (f : QFrame), n < 80 → s.laneRole n = roDATA → s.inReset pPAK = false →
    ((s.pak.streams.find? fun st => st.logical == s.rd (Reg.QLK_STAT_LOGICAL n)).bind fun st => st.frames.find? fun f => f.alive == al) = some f →
    f.due = false →
    (s.echoLanes (s.rd (Reg.QLK_STAT_RXN n)) = true → exec (.echoTimeout n al) s =
      .next ((((s.satInc Reg.PAK_CNT_ECHO_TO 1).satInc (Reg.QLK_CNT_ECHO_TO n) 1).raise (pQLK n) 2).wantResend n
        (s.rd (Reg.QLK_STAT_LOGICAL n)) f true).settle) ∧
    (s.echoLanes (s.rd (Reg.QLK_STAT_RXN n)) = false → exec (.echoTimeout n al) s =
      .next (s.wantResend n (s.rd (Reg.QLK_STAT_LOGICAL n)) f false).settle)) ∧
  (∀ s : State, s.inReset pPAK = false →
    (s.lstate ≠ lsDOWN → s.rd Reg.PAK_CFG_MODE = 2 → exec .arrayDead s = .next (((s.modPak fun p => { p with dead := true }).setFault pPAK 2).raise pPAK 8).settle) ∧
    (∀ m < 4, (s.rd Reg.PAK_STAT_QRX_LOCK).testBit m = false →
      exec (.returnLaneLockChange m true) s =
        .next ((s.wr Reg.PAK_STAT_QRX_LOCK (setBit (s.rd Reg.PAK_STAT_QRX_LOCK) m)).raise pPAK 9).settle ∧
      exec (.returnLanePolarityFlip m) s = .next (s.wr (qrxInv m) (1 - s.rd (qrxInv m))).settle) ∧
    (s.lstate = lsTRAIN → (∀ n ∈ s.usedLanes, 4096 ≤ (s.laneAt n).sent) → exec .trainPhaseComplete s = .next s.selectLanes.settle) ∧
    (s.lstate = lsBLANK ∨ s.lstate = lsTRAIN ∨ s.lstate = lsMAP →
      exec .bringupTimeout s = .next ((s.wr Reg.PAK_STAT_LSTATE lsFAILED).raise pPAK 1).settle) ∧
    (∀ n < 80, s.lstate = lsREADY → s.laneRole n = roTRAINING → 4096 ≤ (s.laneAt n).sent →
      (∀ r, s.trainedOn n = some r → exec (.laneRetrainComplete n) s = .next ((s.placeLane n roSTANDBY 0x7F r).countShow).spare.settle) ∧
      (s.trainedOn n = none → exec (.laneRetrainComplete n) s = .next (s.placeLane n roFAILED 0x7F 0x7F).settle))) ∧
  (∀ (s : State) (ag : Agent), s.reaches ag pPAK →
    (s.anyArmed = false → s.lstate ≠ lsDOWN → exec (.pakRetrain ag) s = .next s.toBlank.settle) ∧
    (∀ m : BitVec 2, m.toNat ≠ 3 → m.toNat ≠ 0 → m.toNat ≠ s.rd Reg.PAK_CFG_MODE → s.running pPAK = false → s.lstate ≠ lsDOWN →
      exec (.pakModeChange ag m) s = .next (s.wr Reg.PAK_CFG_MODE m.toNat).toBlank.settle)) ∧
  (∀ (s : State) (ag : Agent) (n : Nat), n < 80 → s.reaches ag (pQLK n) → s.lstate = lsREADY → s.laneRole n = roFAILED ∨ s.laneRole n = roOFF →
    exec (.qlkRetrain ag n) s = .next (((s.setLaneRole n roTRAINING).wr (Reg.QLK_STAT_RXN n) 0x7F).modLane n fun q =>
      { alive := q.alive, scan := q.scan }).settle)

/-- LOAD with no load or session in hand, the innkeeper up and the staging bank writable sets BUSY; its completion
with a good image writes all 262,144 entries of that bank and shows RANK, NDEF, the serial number and RESULT 0. HK_GO
sends a housekeeping command; its completion writes, or reads with DATA and ARY EVT_RAW[2]. A temperature poll
reports; an alert sets EVT_RAW[3]; a detector lock with no enabled channel missing is shown with its rate. START opens
a manual session; ABORT with no run in hand ends it; CHECK_RUN_START sends CHECK for the next beams. A complete, sound
run writes each slot's ratio and class, writes back and goes on; one without dark samples is discarded, which ends the
session. WRITE_BACK_APPLY applies what was held. A detector phase steps towards the midpoint. (R306, R307, R309, R310, R311, R312, R313, R315, R317, R318, R319, R482) -/
def Obligations.ArrayCommandsComplete : Prop :=
  (∀ (s : State) (ag : Agent), s.takesWork ag pARY →
    (s.bit Reg.ARY_PASS_CTRL_BUSY = false → s.ary.session = none → s.inkUp = true → s.rd Reg.ALC_BT_STAT_WRITABLE ≠ 0 →
      exec (.loadPassport ag) s = .next ((s.wr Reg.ARY_PASS_CTRL_BUSY 1).modAry fun a =>
        { a with bank := 1 - s.rd Reg.ALC_BT_STAT_ACTIVE, inkLost := false }).aryShow.settle) ∧
    (∀ (w : Bool) (a : BitVec 8) (d : BitVec 16), s.bit Reg.ARY_HK_RES_BUSY = false → exec (.hkGo ag w a d) s =
      .next ((s.wrs [(Reg.ARY_HK_CMD_WRITE, if w then 1 else 0), (Reg.ARY_HK_CMD_ADDR, a.toNat),
        (Reg.ARY_HK_CMD_DATA, d.toNat)]).hkStart).settle) ∧
    (∀ (all : Bool) (part : BitVec 4), s.ary.session = none → s.bit Reg.ARY_PASS_CTRL_BUSY = false → s.manualOk = true →
      exec (.aryBcStart ag all part) s =
        .next (((s.wrs [(Reg.ARY_BC_CTRL_ALL, if all then 1 else 0), (Reg.ARY_BC_CTRL_PART, part.toNat), (Reg.ARY_BC_CTRL_RESULT, 0)]).modAry
          fun a => { a with session := some { manual := true, parts := if all then List.range 16 else [part.toNat] } }).aryShow).settle)) ∧
  (∀ (s : State) (ag : Agent), s.reaches ag pARY → s.ary.run = none →
    exec (.aryBcAbort ag) s = .next (s.modAry fun a => { a with session := none }).aryShow.settle) ∧
  (∀ (s : State) (img : List Byte) (n : Nat), s.bit Reg.ARY_PASS_CTRL_BUSY = true → s.inReset pARY = false → s.ary.inkLost = false → s.inkUp = true →
    passHeaderOk img = true → passTablesOk img = true → s.bit Reg.ALC_BT_STAT_WRITABLE = true → s.ary.bank ≠ s.rd Reg.ALC_BT_STAT_ACTIVE →
    exec (.passportLoadComplete img n) s = .next (((((s.emit (.spi (spiHead 0x03 0))).passWrite img s.ary.bank 262144).wrs
      ([(Reg.ARY_PASS_INFO_RANK, leAt img 10 1), (Reg.ARY_PASS_INFO_NDEF, leAt img 12 4), (Reg.ARY_PASS_CTRL_RESULT, 0),
        (Reg.ARY_PASS_CTRL_BUSY, 0)] ++ (List.range 4).map fun i => (Reg.ARY_PASS_SER_SER i, leAt img (0x20 + 4 * i) 4))).raise pARY 0).aryShow).settle) ∧
  (∀ (s : State) (v : BitVec 16) (addr data : Nat),
    (s.ary.hk = some (true, addr, data) → exec (.hkTransactionComplete v) s =
      .next ((((s.modAry fun a => { a with hk := none }).wr Reg.ARY_HK_RES_BUSY 0).emit (.spi (spiHead 0x02 addr ++ beBytes 2 data))).aryShow).settle) ∧
    (s.ary.hk = some (false, addr, data) → exec (.hkTransactionComplete v) s =
      .next (((((s.modAry fun a => { a with hk := none }).wr Reg.ARY_HK_RES_BUSY 0).emit (.spi (spiHead 0x0B addr))).wr Reg.ARY_HK_RES_DATA
        v.toNat).raise pARY 2).aryShow.settle) ∧
    (s.live pARY = true → s.bit Reg.ARY_CFG_HKTEMP = true →
      exec (.temperaturePoll v) s = .next ((s.emit (.spi (spiHead 0x0B 0x10))).tempReport 2 v.toNat).settle) ∧
    (s.inReset pARY = false → exec .arrayAlert s = .next (s.raise pARY 3).settle)) ∧
  (∀ (s : State) (ch rate : Nat), ch < 4 → s.inReset pARY = false →
    ((s.rd Reg.ARY_DET_STAT_LOCK).testBit ch = false → s.rd Reg.ARY_DET_CFG_LANES &&& setBit (s.rd Reg.ARY_DET_STAT_LOCK) ch = s.rd Reg.ARY_DET_CFG_LANES →
      exec (.detectorLockChange ch true rate) s = .next ((s.wrs [(Reg.ARY_DET_STAT_LOCK, setBit (s.rd Reg.ARY_DET_STAT_LOCK) ch),
        (Reg.ARY_DET_STAT_RATE, rate)]).raise pARY 4).settle) ∧
    (∀ mid, s.bit Reg.ARY_DET_PHASE_FREEZE = false → (s.rd Reg.ARY_DET_STAT_LOCK).testBit ch = true →
      exec (.detectorPhaseStep ch mid) s = .next (s.wr (detPhase ch) (phaseTowards (s.rd (detPhase ch)) (mid % 8))).settle)) ∧
  (∀ (s : State) (left : Nat) (ss : Session), s.live pARY = true → s.ary.run = none →
    s.ary.session = some ss → ss.manual = true → s.manualOk = true → exec (.checkRunStart left) s = .next (s.startRun ss).settle) ∧
  (∀ (s : State) (dark : Int) (darkN start count : Nat) (slots : List (Int × Nat)) (stuck hit : List Nat) (ss : Session),
    s.ary.run = some (start, count) → s.ary.session = some ss → 0 < darkN → slots.length = count → (∀ e ∈ slots, e.2 ≠ 0) →
    dark - sx 16 (s.rd Reg.ARY_BC_DARK_BASE) * darkN ≤ (s.rd Reg.ARY_BC_DARK_LIM : Int) * darkN → s.ary.spoiled = false → s.runOk = true →
    let s1 : State := ((s.modAry fun a => { a with run := none }).wr Reg.ARY_BC_STAT_RUNNING 0).modAry fun a => { a with dark := false };
    exec (.checkRunComplete dark darkN slots stuck hit) s = .next ((((slots.zipIdx.foldl (fun (t : State) e =>
      t.putResult (start + e.2) (s.rd Reg.ARY_BC_STAT_SESSION) (s.classOf (ratio e.1.1 e.1.2 dark darkN (s.rd Reg.ARY_BC_NOM_NOM)))
        (ratio e.1.1 e.1.2 dark darkN (s.rd Reg.ARY_BC_NOM_NOM))) s1).writeBackRun ((List.range count).map fun i => start + i) hit).runAfter
          ss count stuck)).settle) ∧
  (∀ (s : State) (dark : Int) (start count : Nat) (slots : List (Int × Nat)) (stuck hit : List Nat) (ss : Session),
    s.ary.run = some (start, count) → s.ary.session = some ss → ∃ u : State, exec (.checkRunComplete dark 0 slots stuck hit) s = .next u.settle ∧
      u.ary.run = none ∧ u.ary.session = none ∧ u.evt pARY 6 = true ∧ (ss.manual = false → u.mot.gapBeam = false)) ∧
  (∀ s : State, s.bit Reg.ARY_BC_STAT_PEND_WB = true → s.stagingOpen = true → s.inReset pARY = false →
    ∃ u : State, ∃ session : Nat, exec .writeBackApply s = .next u.settle ∧
      u = ((((s.modAry fun a => { a with held := [], stuck := [] }).wr Reg.ARY_BC_STAT_PEND_WB 0).writeBack s.ary.held session []).writeStuck
        s.ary.stuck session) ∧
      (session = s.rd Reg.ARY_BC_STAT_SESSION ∨ session = (s.rd Reg.ARY_BC_STAT_SESSION + 255) % 256))

/-- RECEIVER_ADAPTATION_STEP of a receiver that is not frozen moves PHASE by at most 1 modulo 64, CTLE by at most 1
within 0 to 15 and not before 256 steps, and shows the monitor. MARGIN_SCAN_STEP on a STANDBY lane: a pass takes the
next step, a failure ends the height series at 10 mV a step, then the width series, and the eighth preset's ends the
scan. LANE_ROTATION in an open dwell with all acknowledged exchanges the oldest data lane and a freshly scanned spare;
its timeout undoes it. ALIGNMENT_RUN_START under R487's conditions opens the run's streams; each tick edge is launched
at its place; a complete run of sound pulses writes SKEW, SPREAD and RUNS. (R480, R481, R483, R484, R485, R486, R487, R488, R489) -/
def Obligations.CalibrationStepsComplete : Prop :=
  (∀ (s : State) (rx : Nat) (ctle ph : Int) (taps : List Int) (w h : BitVec 8), rx < 6 → s.inReset (if rx < 4 then pPAK else pMOT) = false →
    s.bit (eqFreeze rx) = false → s.rd (eqPhase rx) < 64 → s.rd (eqCtle rx) ≤ 15 → ∃ u : State,
      exec (.receiverAdaptationStep rx ctle ph taps w h) s = .next u.settle ∧ u.rd (eqEyeW rx) = w.toNat ∧ u.rd (eqEyeH rx) = h.toNat ∧
      (u.rd (eqPhase rx) : Int) = ((s.rd (eqPhase rx) : Int) + unitStep ph) % 64 ∧ u.rd (eqCtle rx) ≤ 15 ∧
      ((u.rd (eqCtle rx) : Int) = s.rd (eqCtle rx) ∨
        (256 ≤ (s.pak.rx.getD rx {}).since ∧ (u.rd (eqCtle rx) : Int) = s.rd (eqCtle rx) + unitStep ctle))) ∧
  (∀ (s : State) (n : Nat), n < 80 → s.laneRole n = roSTANDBY → s.inReset pPAK = false → s.inReset (pQLK n) = false →
    let c : Scan := (s.laneAt n).scan;
    exec (.marginScanStep n true) s = .next (s.modLane n fun q => { q with scan := { c with step := c.step + 1 } }).settle ∧
    (c.width = false → exec (.marginScanStep n false) s =
      .next (s.modLane n fun q => { q with scan := { c with width := true, step := 0, height := 10 * c.step } }).settle) ∧
    (c.width = true → c.preset < 7 → exec (.marginScanStep n false) s = .next (s.modLane n fun q => { q with
      scan := { c with preset := c.preset + 1, width := false, step := 0, height := 0, now := c.now ++ [(2 * c.step, c.height)] } }).settle) ∧
    (c.width = true → 7 ≤ c.preset → exec (.marginScanStep n false) s =
      .next (s.scanEnds n (c.now ++ [(2 * c.step, c.height)])).settle)) ∧
  (∀ (s : State) (old new : Nat), s.calDwell = true → s.pak.rotDue = true → s.lstate = lsREADY → s.pak.takeover = none → s.allAcked = true →
    s.oldestData = some old → s.freshSpare = some new → let l := s.rd (Reg.QLK_STAT_LOGICAL old);
    let t : State := ((s.setLaneRole old roSTANDBY).wr (Reg.QLK_STAT_LOGICAL old) 0x7F).modLane old fun q => { q with setsDue := 2 };
    let u : State := ((t.setLaneRole new roDATA).wr (Reg.QLK_STAT_LOGICAL new) l).modLane new fun q => { q with setsDue := 2, unlocked := 0 };
    exec .laneRotation s = .next (u.modPak fun p => { p with rot := some (old, new), takeover := some (l, new) }).countShow.settle) ∧
  (∀ (s : State) (r : Nat × Nat), s.pak.rot = some r → exec .rotationAdoptionTimeout s = .next s.unrotate.calShow.settle) ∧
  (∀ (s : State) (w : Waybill) (p : Plan) (now : Int), s.cur = some (w, p) → s.calDwell = true → s.pak.alnDue = true → s.pak.rotDue = false →
    s.pak.aln = none → s.alnOk w = true → ∃ u : State, ∃ r : AlnRun, exec (.alignmentRunStart now) s = .next u.settle ∧ u.pak.aln = some r ∧
      r.code = min (s.rd Reg.PAK_ALN_CFG_CODE) (2 ^ p.n - 1) ∧ r.dur = r.code * w.td ∧ r.k = p.lanes ∧ r.repeats = s.rd Reg.PAK_ALN_CFG_REPEAT ∧
      r.period = max (128000 * s.rd Reg.PAK_ALN_CFG_PERIOD) (r.code * w.td + 256000) ∧ r.launched = 0 ∧ r.opened = now ∧
      u.pak.streams = alnStreams r.k r.n r.order r.repeats ∧ u.rd Reg.PAK_ALN_STAT_RUNNING = 1) ∧
  (∀ (s : State) (r : AlnRun), s.pak.aln = some r → r.bad = 0 →
    (r.launched < r.ticks → s.tickAcked alnSeq r.k r.launched = true → s.live pMOT = true → exec .alignmentTickEdge s =
      .next (((s.emit (.edge r.launched 0 (r.edge r.launched))).modMot fun m =>
        { m with lastEdge := some (r.launched, r.edge r.launched, r.spacing, 0), nextPhase := 1, resDone := true }).modPak fun p =>
          { p with aln := some { r with launched := r.launched + 1 } }).settle) ∧
    (∀ ps : List Sys2Proof.AlnPulse, r.ticks ≤ r.launched → ps.length = r.ticks → (∀ e ∈ ps, s.alnDark e = false) →
      (∀ l < r.k, 0 < (s.alnSums r ps l).1.1) → exec (.alignmentRunComplete ps) s = .next (s.alnApply r ps).settle))

/-- A read of a stack that answers returns the code word as R327 classifies it. MEM_FILL_COMPLETE of an IDLE page
leaves every byte of its stack 0 and sets INIT_DONE. SCRUB_READ reads the next code word and counts on;
SCRUBBER_BEHIND sets EVT_RAW[12]. REFRESH_DUE of an idle bank is done at once, of a busy one below DEBT_MAX owed; the
cycle's end clears the bank's activate counts. STACK_TEMPERATURE_READ below 95 shows TEMP and REF2X with 2 degrees of
hysteresis. POP removes the oldest finding. PPR_GO with ALC, ING and SRV not RUNNING begins; its end leaves no row
where none is left over. SPARE_GO with a spare begins a copy; its end moves the logical channel. A dead used channel
with a spare is replaced. The test commands write and read the check bytes of an allowed word. MEM_RESET_LOSS empties
the damage lists. (R327, R329, R333, R334, R335, R336, R337, R339, R340, R341, R342, R424) -/
def Obligations.MemoryCommandsComplete : Prop :=
  (∀ (s : State) (addr : Nat) (flips : List (Nat × BitVec 8)) (o : Bool), addr < hbmSize → s.stackReady (stackOf (addr / 32)) = true →
    let r := (s.opens (addr / 32) o).readWord (addr / 32) flips false;
    exec (.hbmRead addr flips o) s = .next (r.2.emit (.completion r.1.data r.1.poisoned)).settle) ∧
  (∀ (s : State) (n : Nat), n < 4 →
    (s.pstate (pMEM n) = stIDLE → s.rd (Reg.MEM_STAT_INIT_DONE n) = 0 → ∃ u : State, exec (.memFillComplete n) s = .next u.settle ∧
      u.rd (Reg.MEM_STAT_INIT_DONE n) = 1 ∧ (∀ a, stackOf (a / 32) = n → Memory.read a u.hbm = 0) ∧
      ∀ a, stackOf (a / 32) ≠ n → Memory.read a u.hbm = Memory.read a s.hbm) ∧
    (∀ flips, s.stackReady n = true → s.pstate (pMEM n) = stRUNNING → s.bit Reg.MEM_SCRUB_EN = true → (s.stack n).sub < 240 →
      let c := (s.rd (Reg.MEM_SCRUB_POS_N n) * 120 + 30 * n + (s.stack n).sub / 8) * 8 + (s.stack n).sub % 8;
      32 * c < hbmSize → exec (.scrubRead n flips) s = .next ((if (s.readWord c flips true).1.found then
        (s.readWord c flips true).2.tellOwner c else (s.readWord c flips true).2).scrubNext n).settle) ∧
    (s.stackReady n = true → s.bit Reg.MEM_SCRUB_EN = true →
      66 * 16 * 10 ^ 9 * s.rd Reg.MEM_SCRUB_PERIOD < s.now - (s.stack n).passStart →
      exec (.scrubberBehind n) s = .next (s.raise (pMEM n) 12).settle) ∧
    (∀ pc bank, pc < 32 → bank < 64 → let b := 64 * (32 * n + pc) + bank;
      (s.live (pMEM n) = true → s.bit Reg.MEM_REF_MODE = false → ∀ busy : Bool, busy = false ∨ s.debt b + 1 < s.rd Reg.MEM_REF_DEBT_MAX →
        ∃ u : State, exec (.refreshDue n pc bank busy) s = .next u.settle ∧ u.debt b = s.debt b + if busy then 1 else 0) ∧
      exec (.refreshCycleEnd n pc bank) s = .next (s.modMem fun c => { c with acts := c.acts.filter fun t => t.bank != b }).settle) ∧
    (∀ v : BitVec 8, s.inReset (pMEM n) = false → v.toNat < 95 →
      let new := if 85 ≤ v.toNat then 1 else if v.toNat < 83 then 0 else s.rd (Reg.MEM_STAT_REF2X n);
      exec (.stackTemperatureRead n v) s = .next (((s.wrs [(Reg.MEM_STAT_TEMP n, v.toNat), (Reg.MEM_STAT_REF2X n, new)]).raiseIf
        (new != s.rd (Reg.MEM_STAT_REF2X n)) (pMEM n) 13).modStack n fun k => { k with hot := k.hot && decide (90 ≤ v.toNat) }).settle) ∧
    ((s.stack n).ppr = true → ∃ u : State, exec (.pprComplete n []) s = .next u.settle ∧ u.rd (Reg.MEM_PPR_CTRL_RESULT n) = 0 ∧
      u.rd (Reg.MEM_PPR_CTRL_LEFT n) = 0 ∧ ∀ k ∈ u.mem.remaps, k / 16384 / 64 / 32 ≠ n) ∧
    (∀ i d, (s.stack n).copy = some (i, d) → s.running (pMEM n) = true → s.pstate (pMEM n) ≠ stQUIESCED →
      exec (.sparingComplete n) s = .next (((((s.wrs [(Reg.MEM_PC_STATE n d, 0), (Reg.MEM_PC_LOGICAL n d, s.rd (Reg.MEM_PC_LOGICAL n i)),
        (Reg.MEM_PC_STATE n i, 4), (Reg.MEM_PC_LOGICAL n i, 0x7F), (Reg.MEM_STAT_COPYING n, 0)]).modStack n fun k => { k with copy := none }).raise
          (pMEM n) 7).spareShow n).nextCopy n).settle) ∧
    (∀ pc d, pc < 32 → s.inReset (pMEM n) = false → s.pcState n pc = 0 → (s.stack n).copy = none →
      (s.wr (Reg.MEM_PC_STATE n pc) 5).spareOf n = some d → exec (.pseudoChannelDead n pc) s =
        .next ((((s.wr (Reg.MEM_PC_STATE n pc) 5).wrs [(Reg.MEM_PC_LOGICAL n pc, 0x7F), (Reg.MEM_PC_STATE n d, 0),
          (Reg.MEM_PC_LOGICAL n d, s.rd (Reg.MEM_PC_LOGICAL n pc))]).spareShow n).loseChannel (s.rd (Reg.MEM_PC_LOGICAL n pc)) (32 * n + pc) false).settle)) ∧
  (∀ (s : State) (ag : Agent) (n : Nat), n < 4 →
    (s.reaches ag (pMEM n) → exec (.pop ag n) s = .next ((s.modStack n fun k => { k with log := k.log.tail }).headShow n).settle) ∧
    (s.takesWork ag (pMEM n) → s.pstate pALC ≠ stRUNNING → s.pstate pING ≠ stRUNNING → s.pstate pSRV ≠ stRUNNING →
      exec (.pprGo ag n) s = .next ((s.wr (Reg.MEM_PPR_CTRL_RESULT n) 0).modStack n fun k => { k with ppr := true }).settle) ∧
    (∀ (pc : BitVec 5) (d : Nat), s.takesWork ag (pMEM n) → n < s.mem.stackSt.length → (s.stack n).copy = none → s.spareOf n = some d →
      s.pcState n pc.toNat = 0 → ∃ u : State, exec (.spareGo ag n pc) s = .next u.settle ∧ u.rd (Reg.MEM_SPARE_CTRL_RESULT n) = 0 ∧
        u.pcState n pc.toNat = 2 ∧ u.pcState n d = 3 ∧ (u.stack n).copy = some (pc.toNat, d))) ∧
  (∀ (s : State) (ag : Agent), s.reaches ag (pMEM 0) → let c := s.testAddr / 32;
    s.testOk = true → s.stackReady (stackOf c) = true →
    exec (.testWrite ag) s = .next ((s.putWord c ((s.wordData c).map BitVec.toNat ++ (leBytes 4 (s.rd Reg.MEM_TEST_CHK_CHK)).map BitVec.toNat)).wr
      Reg.MEM_TEST_CTRL_RESULT 0).settle ∧
    exec (.testRead ag) s = .next (s.wrs [(Reg.MEM_TEST_CHK_CHK, leVal (((s.word36 c).drop 32).map (BitVec.ofNat 8))),
      (Reg.MEM_TEST_SYN_SYN, leVal ((List.range 4).map fun i => BitVec.ofNat 8 (syndrome (s.word36 c) i))), (Reg.MEM_TEST_CTRL_RESULT, 0)]).settle) ∧
  (∀ s : State, s.mem.lossDue = true → ∃ u : State, exec .memResetLoss s = .next u.settle ∧ u.ing.damagedQ = [] ∧ u.ing.damagedW = [] ∧
    u.srv.damaged = [] ∧ u.srv.repaired = [] ∧ u.srv.coarse = [] ∧ u.srv.repair = none ∧ u.srv.redo = [])

/-- MEM_0_REGION_WRITE of sizes within R324's bounds that keep every live allocation, with ALC not RUNNING, sets the
regions with RESULT 0. BAR2_READ with the host heard and BAR2 open answers the bytes its code words give; BAR2_WRITE
writes them to HBM as a protected write. CROSSING_WORD_DELIVER of a good word changes nothing; a word that fails its
check acts as R450 states; words emptied out of a crossing count n discards of the page and set EVT_RAW[29].
LED_RD_WRITE of a value from LED_RD to LED_WR frees the records up to it. LEDGER_RECORD_WRITE with the ring not full
and its stacks ready stores the oldest staged record, which leaves the staging, and counts LED_WR. (R18, R58, R324, R450, R465, R472, R476) -/
def Obligations.RegionsWindowsCrossingsAndLedgerComplete : Prop :=
  (∀ (s : State) (ag : Agent) (v : Word), s.reaches ag (pMEM 0) → s.pstate pALC ≠ stRUNNING →
    regionBounds (bits v.toNat 15 8) (bits v.toNat 23 16) (bits v.toNat 31 24) (bits v.toNat 7 0) = true →
    s.regionKeeps (bits v.toNat 15 8) (bits v.toNat 23 16) (bits v.toNat 31 24) (bits v.toNat 7 0) = true →
    exec (.mem0RegionWrite ag v) s = .next (s.wrs [(Reg.MEM_REGION_SB_GIB, bits v.toNat 31 24), (Reg.MEM_REGION_MAP_GIB, bits v.toNat 23 16),
      (Reg.MEM_REGION_LS_GIB, bits v.toNat 15 8), (Reg.MEM_REGION_WS_GIB, bits v.toNat 7 0), (Reg.MEM_REGION_RES_RESULT, 0)]).slotsShow.settle) ∧
  (∀ (s : State) (x : BitVec 34), s.hears .host = true → s.bar2Closed = false →
    (∀ len : BitVec 12, x.toNat + len.toNat ≤ 2 ^ 34 →
      let r := s.bar2Words (s.bar2Addr x.toNat) len.toNat (wordsOf (s.bar2Addr x.toNat) len.toNat);
      exec (.bar2Read x len) s = .next ((r.2.raiseIf r.1.2 pHST 2).emit (.completion r.1.1 r.1.2)).settle) ∧
    (∀ (data : List Byte) (ep : Bool), x.toNat + data.length ≤ 2 ^ 34 →
      exec (.bar2Write x data ep) s = .next (s.memWrite (s.bar2Addr x.toNat) data true ep).settle)) ∧
  (∀ (s : State) (k : Crossing),
    ((∀ p n, k ≠ .emptied p n) → exec (.crossingWordDeliver k true) s = .next s.settle ∧
      exec (.crossingWordDeliver k false) s = .next (s.crossed k).settle) ∧
    (∀ p n good, k = .emptied p n → p.ok = true → 0 < n →
      exec (.crossingWordDeliver k good) s = .next ((s.satInc (Hdr.discards p) n).raise p 29).settle)) ∧
  (∀ (s : State) (ag : Agent) (v : Word), s.reaches ag pLED → (v.toNat + 2 ^ 32 - s.rd Reg.LED_RD_LSEQ) % 2 ^ 32 ≤ s.ringUsed →
    exec (.ledRdWrite ag v) s = .next (s.wr Reg.LED_RD_LSEQ v.toNat).settle) ∧
  (∀ (s : State) (r : List Byte) (rest : List (List Byte)), s.led.staging = r :: rest → s.live pLED = true → s.ringUsed < s.ringCap →
    (∀ c ∈ wordsOf (s.ringAddr (s.rd Reg.LED_WR_LSEQ)) 256, s.stackReady (stackOf c) = true) →
    ∃ u : State, exec .ledgerRecordWrite s = .next u.settle ∧ u.led.staging = rest ∧ u.rd Reg.LED_WR_LSEQ = (s.rd Reg.LED_WR_LSEQ + 1) % 2 ^ 32 ∧
      u.hbm = (s.hbmStore (s.ringAddr (s.rd Reg.LED_WR_LSEQ)) r).hbm)

/-- HBM_WRITE of the 32 bytes of a code word below 96 GiB whose stack answers, whose channel is not lost and, for a
BAR2 or DMA write, which is not protected, with no injection armed there: it completes, those 32 bytes hold the data
and every other byte of HBM reads as before. HBM_READ without upsets of a word that is neither poisoned nor lost and
whose 36 bytes have all syndromes 0 answers its data, not poisoned. Two code words below 96 GiB with the same logical
channel, bank, row and column and offset within it are one. HBM_READ at or above 96 GiB and HBM_WRITE that ends above
it answer the fault noSuchAddress, the model's form of there being no such address. (R31, R322, R325, R327) -/
def Obligations.HbmHoldsWhatIsWritten : Prop :=
  (∀ (s : State) (c : Nat) (data : List Byte) (host : Bool), 32 * c < hbmSize → data.length = 32 → s.stackReady (stackOf c) = true →
    (∀ l ∈ s.mem.lost, l.chan ≠ chanOf c) → s.bit (Hdr.injArm (pMEM (stackOf c))) = false → (host = true → s.wordProtected c = false) →
    ∃ u : State, exec (.hbmWrite (32 * c) data host false) s = .next u.settle ∧ Memory.readBytes u.hbm (32 * c) 32 = data ∧
      ∀ a, a < 32 * c ∨ 32 * c + 32 ≤ a → Memory.read a u.hbm = Memory.read a s.hbm) ∧
  (∀ (s : State) (c : Nat), 32 * c < hbmSize → s.stackReady (stackOf c) = true → c ∉ s.mem.poison → (∀ l ∈ s.mem.lost, l.chan ≠ chanOf c) →
    classify (s.word36 c) = .good →
    exec (.hbmRead (32 * c) [] false) s = .next (s.emit (.completion (Memory.readBytes s.hbm (32 * c) 32) false)).settle) ∧
  (∀ (hsel : List Nat) (c d : Nat), 32 * c < hbmSize → 32 * d < hbmSize → (homeOf hsel c).chan = (homeOf hsel d).chan →
    (homeOf hsel c).bank = (homeOf hsel d).bank → (homeOf hsel c).row = (homeOf hsel d).row → (homeOf hsel c).col = (homeOf hsel d).col →
    c % 8 = d % 8 → c = d) ∧
  (∀ (s : State) (addr : Nat) (flips : List (Nat × BitVec 8)) (data : List Byte) (host opens : Bool),
    (96 * 2 ^ 30 ≤ addr → exec (.hbmRead addr flips opens) s = .fault .noSuchAddress) ∧
    (96 * 2 ^ 30 < addr + data.length → exec (.hbmWrite addr data host opens) s = .fault .noSuchAddress))

/-- For any 32 data bytes with the check bytes that R326 computes: the 36 bytes classify as good; with any one of the
36 bytes XORed with any value from 1 to 255 they classify as correctable, naming that byte and that value; and with
the check bytes XORed with the pattern of R331 they classify as poison. (R326, R327, R331) -/
def Obligations.OneWrongByteIsCorrected : Prop :=
  ∀ data : List Nat, data.length = 32 → (∀ d ∈ data, d < 256) →
    classify (data ++ rsCheck data) = .good ∧
    (∀ k v : Nat, k < 36 → 1 ≤ v → v < 256 → classify ((data ++ rsCheck data).modify k fun b => b ^^^ v) = .correctable k v) ∧
    classify (data ++ xorList (rsCheck data) poisonMark) = .poison

/-- GO with an IDLE channel whose page takes work makes the staging set active with RESULT 0; with one active and none
pending it is kept as pending. An answer for the oldest outstanding request, of its length, is taken; a failed one is
error 0x11, a completion time-out 0x12, and an answer to a request that a stop left behind frees its tag. A descriptor
all of whose bytes have moved ends: its check value is stored or compared, then the tag, the events and what runs
next, or error 0x18. A fetched descriptor becomes active. PAUSE makes a RUNNING channel PAUSING; with nothing
outstanding it is PAUSED with EVT_RAW[3]; RESUME with its spaces open goes on. STOP discards the active and the
pending set; CLEAR takes the pending set; losing Bus Master Enable stops what uses HOST. A configuration request is
answered, with retry status while GLB is in reset. (R350, R351, R354, R356, R358, R359, R361, R362, R364, R431, R522) -/
def Obligations.DmaCommandsComplete : Prop :=
  (∀ (s : State) (ag : Agent) (n : BitVec 5), s.reaches ag (pDMA n.toNat) → let i := n.toNat;
    let w : List Nat := (List.range 16).map fun k => s.rd (Reg.DMA_D_D i k);
    (s.bit (Hdr.quiesce (pDMA i)) = false → s.accepts (pDMA i) = true →
      (s.bit (Reg.DMA_STAT_ACT i) = false → exec (.dmaGo ag n) s = .next ((s.wr (Reg.DMA_CTRL_RESULT i) 0).takeStaging i w).settle) ∧
      (s.bit (Reg.DMA_STAT_ACT i) = true → (s.chan i).pend = [] → exec (.dmaGo ag n) s =
        .next (((s.wr (Reg.DMA_CTRL_RESULT i) 1).wr (Reg.DMA_STAT_PEND i) 1).modChan i fun c => { c with pend := w }).settle)) ∧
    (s.dstate i = dRUNNING → exec (.pause ag n) s = .next (s.wr (Reg.DMA_STAT_STATE i) dPAUSING).settle) ∧
    (s.dstate i = dPAUSED → s.spacesClosed (s.desc i).usesHbm (s.desc i).usesHost = none →
      exec (.dmaResume ag n) s = .next ((s.wr (Reg.DMA_STAT_STATE i) dRUNNING).pump i).settle) ∧
    (s.dstate i ≠ dIDLE → exec (.dmaStop ag n) s = .next (((((s.lastShow i 0x1A).modChan i fun c =>
      { c with pend := [], fetch := none, held := [], stale := c.stale + c.reqs.length, reqs := [] }).wr (Reg.DMA_STAT_PEND i) 0).raise
        (pDMA i) 4).dmaIdle i).settle) ∧
    (s.dstate i = dERROR → exec (.clearErr ag n) s = .next (s.takePending i).settle)) ∧
  (∀ (s : State) (n : BitVec 5) (up : Bool), let i := n.toNat;
    (0 < (s.chan i).stale → ∀ r, r ≠ .memory → exec (.dmaResponse n r up) s =
      .next ((s.modChan i fun c => { c with stale := c.stale - 1 }).pump i).settle) ∧
    ((s.chan i).stale = 0 → s.inReset (pDMA i) = false → s.bit (Reg.DMA_STAT_ACT i) = true → s.dstate i = dRUNNING ∨ s.dstate i = dPAUSING →
      exec (.dmaResponse n .memory up) s = .next (s.dmaLocal i up).settle ∧
      ∀ a len rest, (s.chan i).reqs = (a, len) :: rest → (s.chan i).fetch = none → (s.chan i).held = [] →
        exec (.dmaResponse n .failed up) s = .next (s.dmaError i 0x11).settle ∧
        ∀ (data : List Byte) (ep : Bool), data.length = len → exec (.dmaResponse n (.completion data ep) up) s =
          .next ((s.modChan i fun c => { c with reqs := rest }).dmaTake i ⟨1, a, len, (s.chan i).indexing (s.desc i)⟩
            ⟨data, if ep then [(0, data.length, 0x05)] else []⟩ up).settle) ∧
    (∀ r rest, (s.chan i).stale = 0 → (s.chan i).reqs = r :: rest → exec (.dmaCompletionTimeout n) s =
      .next ((s.modChan i fun c => { c with reqs := rest }).dmaError i 0x12).settle) ∧
    (s.inReset (pDMA i) = false → s.bit (Reg.DMA_STAT_ACT i) = true → s.dstate i = dRUNNING ∨ s.dstate i = dPAUSING →
      (s.chan i).indexing (s.desc i) = false → (s.desc i).total ≤ (s.chan i).moved → (s.chan i).fetch = none → (s.chan i).held = [] →
      exec (.dmaDescriptorComplete n) s =
        .next (if (s.finishCheck i).1 then (s.finishCheck i).2.dmaError i 0x18 else (s.finishCheck i).2.descEnds i).settle) ∧
    (s.inReset (pDMA i) = false → s.dstate i = dRUNNING →
      (∀ a, (s.chan i).fetch = some (false, a) → s.bar2Closed = false →
        exec (.dmaDescriptorFetch n .memory) s = .next ((s.hbmGet a 64).2.descFetched i false a (s.hbmGet a 64).1).settle) ∧
      (∀ a (data : List Byte), (s.chan i).fetch = some (true, a) → (s.chan i).stale = 0 → (s.chan i).reqs ≠ [] → data.length = 64 →
        exec (.dmaDescriptorFetch n (.completion data false)) s =
          .next ((s.modChan i fun c => { c with reqs := [] }).descFetched i true a ⟨data, []⟩).settle)) ∧
    (s.dstate i = dPAUSING → (s.chan i).reqs = [] → (s.desc i).mode = 0 → s.inReset (pDMA i) = false →
      exec (.dmaPaused n) s = .next ((s.wr (Reg.DMA_STAT_STATE i) dPAUSED).raise (pDMA i) 3).settle)) ∧
  (∀ s : State, exec .busMasterEnableCleared s =
    .next (({ s with dma := { s.dma with busMaster := false } } : State).closeSpace 0x19 Desc.usesHost id).settle) ∧
  (∀ (s : State) (w : Option Sys2Proof.ConfigWrite), s.pwr.powered = true → s.pwr.perstRst = false → s.inReset pHST = false →
    (s.inReset pGLB = true → exec (.configurationRequest w) s = .next (s.emit (.config true)).settle) ∧
    (s.inReset pGLB = false → exec (.configurationRequest w) s =
      .next ((match w with | some w => s.configWrite w | none => s).emit (.config false)).settle))

/-- A frame with a good FCS and length that fits the receive buffer, on a sub-port that is up, is sorted by its
EtherType; one with a bad FCS or length is counted. A buffer that drains below 50% after it passed 75% ends the pause.
A pause's expiry releases what it held. A link change is shown with its FEC and sets EVT_RAW[0]; a link that goes down
loses its neighbour. A TX entry with a good header and frame, whose link is up and class not held, is sent and
completed. The ring indices take what is written. A good REQ names the peer and is owed a CREDIT; good DATA of the
open delivery at its offset within the credit is offered to ingest; CREDIT sends the grant to a peer. (R386, R387, R388, R389, R390, R391, R392, R395, R396, R397, R400) -/
def Obligations.EthernetAndTransportComplete : Prop :=
  (∀ (s : State) (n : BitVec 1) (sub : BitVec 2) (fr : List Byte) (rv sn : BitVec 64) (fill : Nat),
    s.running (pNET n.toNat) = true → s.subUsed n.toNat sub.toNat = true → s.linkUp n.toNat sub.toNat = true →
    (etherGood fr = false → exec (.ethernetFrameReceive n sub fr rv sn fill false) s =
      .next (s.satInc (Reg.NET_CNT_0_FCS_ERR n.toNat) 1).settle) ∧
    (etherGood fr = true → fill + fr.length ≤ rxBuffer → (s.bufferIn n.toNat (fill + fr.length)).etherFor n.toNat sub.toNat (beAt fr 0 6) = true →
      (beAt fr 12 2 = 0x8100 → beAt fr 16 2 ≠ 0x8100) → exec (.ethernetFrameReceive n sub fr rv sn fill false) s =
        .next ((s.bufferIn n.toNat (fill + fr.length)).etherSort ⟨n.toNat, sub.toNat, rv.toNat, sn.toNat, fill, false⟩ fr
          (beAt fr 12 2 == 0x8100)).settle)) ∧
  (∀ (s : State) (n : BitVec 1), (s.port n.toNat).full75 = true → s.running (pNET n.toNat) = true →
    exec (.receiveBufferDrain n) s = .next ((s.modNet n.toNat fun p => { p with full75 := false }).sendPause n.toNat 0).settle) ∧
  (∀ (s : State) (n : BitVec 1) (sub : BitVec 2),
    exec (.pauseQuantaExpiry n sub none) s = .next (s.pauseIn n.toNat sub.toNat 0).settle ∧
    ∀ p : BitVec 3, exec (.pauseQuantaExpiry n sub (some p)) s =
      .next (s.setPfc n.toNat sub.toNat (clrBit ((s.port n.toNat).pfcHeld sub.toNat) p.toNat)).settle) ∧
  (∀ (s : State) (n : BitVec 1) (sub fec : BitVec 2) (up : Bool), s.running (pNET n.toNat) = true → s.subUsed n.toNat sub.toNat = true →
    s.linkUp n.toNat sub.toNat = !up →
    let l := s.rd (Reg.NET_STAT_LINK n.toNat); let a := s.rd (Reg.NET_STAT_FECACT n.toNat);
    let f := if up ∧ s.rd (Reg.NET_CFG_MODE n.toNat) = 2 then fec.toNat else 0;
    let t : State := (s.wrs [(Reg.NET_STAT_LINK n.toNat, if up then setBit l sub.toNat else clrBit l sub.toNat),
      (Reg.NET_STAT_FECACT n.toNat, a - 4 ^ sub.toNat * (a / 4 ^ sub.toNat % 4) + 4 ^ sub.toNat * f)]).raise (pNET n.toNat) 0;
    exec (.ethernetLinkChange n sub up fec) s = .next (if up then t.fabShow else (t.neighbourLost (4 * n.toNat + sub.toNat)).fabShow).settle) ∧
  (∀ (s : State) (n : BitVec 1) (hd sn : BitVec 64), s.running (pNET n.toNat) = true → s.ringsOpen n.toNat = true →
    s.rd (Reg.NET_TXR_IDX_RD n.toNat) ≠ s.rd (Reg.NET_TXR_IDX_WR n.toNat) →
    let a := s.txRing n.toNat + 2048 * s.rd (Reg.NET_TXR_IDX_RD n.toNat);
    let h := s.hbmGet a 32; let w := leAt h.1.data 0 4; let f := h.2.hbmGet (a + 32) (bits w 11 0);
    h.1.poison = [] → f.1.poison = [] → 14 ≤ bits w 11 0 → bits w 11 0 ≤ 2016 → s.subUsed n.toNat (bits w 29 28) = true → w.testBit 27 = false →
    s.linkUp n.toNat (bits w 29 28) = true → s.classHeld n.toNat (bits w 29 28) clHost = false → exec (.txRingEntrySend n hd sn false) s =
      .next ((f.2.etherOut n.toNat (bits w 29 28) clHost (s.hostFrame n.toNat (bits w 29 28) f.1.data)).txDone n.toNat 0 sn.toNat false).settle) ∧
  (∀ (s : State) (ag : Agent) (n : BitVec 1) (i : BitVec 6), s.reaches ag (pNET n.toNat) →
    exec (.txrIdxWrite ag n i) s = .next (s.wr (Reg.NET_TXR_IDX_WR n.toNat) i.toNat).settle ∧
    exec (.rxrIdxWrite ag n i) s = .next (s.wr (Reg.NET_RXR_IDX_RD n.toNat) i.toNat).settle) ∧
  (∀ (s : State) (n : BitVec 1) (sub : BitVec 2) (mac : BitVec 48) (fr : List Byte), s.live (pNET n.toNat) = true → xGood fr = true →
    (xKind fr = 3 → exec (.reqFrame n sub mac fr) s =
      .next (s.modNet n.toNat fun p => { p with peer := some ⟨false, mac.toNat, sub.toNat⟩, owed := true }).settle) ∧
    (xKind fr = 1 → s.openStreamOf = some (n.toNat + 1, xHandle fr, xOfs fr) → xOfs fr + xLen fr ≤ (s.port n.toNat).lastEnd →
      exec (.dataFrame n sub mac fr) s = .next ((s.ingestOffer (n.toNat + 1) (xHandle fr) (xOfs fr) ((fr.drop 32).take (xLen fr))).modNet n.toNat
        fun p => { p with peer := some ⟨false, mac.toNat, sub.toNat⟩ }).settle)) ∧
  (∀ (s : State) (n : BitVec 1), s.live (pNET n.toNat) = true → (s.port n.toNat).owed = true →
    exec (.credit n) s = .next (s.sendCredit n.toNat).settle)

/-- With FAB live, a good frame of a kind of R402 on a fabric link whose DST is 0xFF or the module's address below 64:
it is forwarded as R406 asks (a frame for the module alone is not), and then takes its kind's effect: HELLO and LSA
enter the topology, RECK_REQ asks for a reckoning with SOURCE 2, RECK_DATA fills a mirror slot, SHARE_REQ is answered,
SHARE_RSP and LXPORT serve a share, DENS, DENS_END, DENS_NAK and MAPCRC serve a shared survey, TREQ is answered and
TRSP gives the offset, MSTAT, FSTAT, HREQ and PLAN serve the motion group, and RESET with RST_EN = 1 and its magic
word resets the module or restarts the innkeeper. (R401, R402, R403, R406, R407, R408, R411, R412, R413, R416, R417, R425) -/
def Obligations.FabricFramesTakeEffect : Prop :=
  ∀ (s : State) (l : BitVec 3) (fr : List Byte), s.live pFAB = true → l.toNat ∈ s.fabLinks → fGood fr = true →
    fDst fr = 0xFF ∨ (fDst fr = s.rd Reg.FAB_STAT_ADDR ∧ fDst fr < 64) →
    let t : State := s.fabricForward l.toNat fr; let p := fPayload fr; let src := fSrc fr;
    (fDst fr = s.rd Reg.FAB_STAT_ADDR → t = s) ∧
    exec (.fabricFrameForward l fr) s = .next t.settle ∧
    (∀ mac : BitVec 48, fKind fr = 0x01 → exec (.helloFrame l mac fr) s = .next (t.helloIn l.toNat mac.toNat p).settle) ∧
    (fKind fr = 0x02 → exec (.lsaFrame l fr) s = .next (t.lsaIn (lsaOf (fWord fr 3) p)).settle) ∧
    (fKind fr = 0x10 → exec (.reckReq l fr) s = .next (t.reckon 2 src).settle) ∧
    (fKind fr = 0x11 → exec (.reckData l fr) s = .next (t.reckData src p).settle) ∧
    (fKind fr = 0x20 → exec (.shareReq l fr) s = .next (t.shareReq src p).settle) ∧
    (fKind fr = 0x21 → exec (.shareRsp l fr) s = .next (t.shareRsp src p).settle) ∧
    (fKind fr = 0x22 → exec (.lxport l fr) s = .next (t.lxportIn l.toNat src p).settle) ∧
    (fKind fr = 0x30 → exec (.densFrame l fr) s = .next (t.densIn src p).settle) ∧
    (fKind fr = 0x31 → exec (.densEnd l fr) s = .next (t.densEndIn src p).settle) ∧
    (fKind fr = 0x32 → exec (.densNak l fr) s = .next (t.densNakIn p).settle) ∧
    (fKind fr = 0x33 → exec (.mapcrc l fr) s = .next (t.mapCrcIn p).settle) ∧
    (∀ rv sn : BitVec 64, fKind fr = 0x40 → exec (.treq l rv sn fr) s = .next (t.treqIn src rv.toNat sn.toNat p).settle) ∧
    (∀ rv : BitVec 64, fKind fr = 0x41 → exec (.trsp l rv fr) s = .next (t.trspIn rv.toNat p).settle) ∧
    (fKind fr = 0x50 → exec (.mstat l fr) s = .next (t.mstatIn src p).settle) ∧
    (fKind fr = 0x51 → exec (.fstat l fr) s = .next (t.fstatIn src p).settle) ∧
    (fKind fr = 0x52 → exec (.hreq l fr) s = .next (t.hreqIn src p).settle) ∧
    (fKind fr = 0x53 → exec (.planFrame l fr) s = .next (t.planIn src p).settle) ∧
    (fKind fr = 0x60 → t.bit Reg.FAB_CFG_RST_EN = true → p.length = 4 →
      (leAt p 0 4 = 0x52530001 → exec (.fabricReset l fr) s = .next (t.modResetGo 6).settle) ∧
      (leAt p 0 4 = 0x52530002 → exec (.fabricReset l fr) s = .next t.inkRestart.settle))

/-- With the fabric running: HELLO goes out on every fabric link and the LSA is flooded; the membership settles where
every LSA led to is held; the lead sends MSTAT, a follower FSTAT, and TREQ goes to the time parent. A silent neighbour
is removed and an LSA not refreshed forgotten. FAB_RECK.GO to a routed peer asks it, RESULT 0; with no answer RESULT
becomes 2 and EVT_RAW[3] is set. FAB_SHARE.GO asks a peer; with no answer RESULT is 4; a served share without credit
ends. An incomplete stripe of a shared survey is asked for again. A lost lead or member sets its fault and EVT_RAW[9]
and requests a stop. FAB_MOT_CTRL.STOP holds the group and GO releases it. (R403, R404, R407, R408, R411, R413, R414, R415, R416, R417, R418) -/
def Obligations.FabricSendersAndTimersComplete : Prop :=
  (∀ s : State, s.fabOn = true →
    exec .helloSend s = .next (s.fabLinks.foldl (fun t l => t.fabricOn [l] 0x01 0xFF 1 (leBytes 8 ownUid ++ leBytes 1 (t.rd Reg.FAB_STAT_ADDR) ++
      leBytes 1 (t.rd Reg.FAB_CFG_PREF) ++ leBytes 1 l ++ [0] ++ leBytes 4 (t.rd Reg.FAB_EPOCH_EPOCH))) s).settle ∧
    exec .lsaFlood s = .next s.sendLsa.settle ∧
    (s.isLead = true → exec .mstatSend s = .next (s.fabricSend 0x50 0xFF 16 s.mstatBytes).settle) ∧
    (s.isFollower = true → exec .fstatSend s = .next s.autoClear.sendFstat.settle) ∧
    (∀ (t1 : BitVec 64) (a : Nat), s.timeParent = some a → exec (.treqSend t1) s =
      .next (({ s with fab := { s.fab with treqT1 := some t1.toNat } } : State).fabricSend 0x40 a 1 (leBytes 8 t1.toNat)).settle) ∧
    (s.maySettle = true → s.isLead = false → exec .membershipSettled s = .next s.settleMembers.settle)) ∧
  (∀ (s : State) (l : BitVec 3), s.live pFAB = true → (s.fab.neighbours.any fun x => x.link == l.toNat) = true →
    exec (.neighbourLost l) s = .next (({ s with fab := { s.fab with neighbours := s.fab.neighbours.filter fun x => x.link != l.toNat } } :
      State).neighboursChanged).settle) ∧
  (∀ (s : State) (u : BitVec 64), (s.fab.lsas.any fun x => x.uid == u.toNat) = true → exec (.lsaExpiry u) s =
    .next (({ s with fab := { s.fab with lsas := s.fab.lsas.filter fun x => x.uid != u.toNat } } : State).unsettle).settle) ∧
  (∀ (s : State) (ag : Agent), s.takesWork ag pFAB →
    (∀ d : BitVec 8, d.toNat ≠ 0xFF → s.routeLink d.toNat ≠ none → exec (.fabReckGo ag d) s =
      .next ((({ (s.wr Reg.FAB_RECK_DST d.toNat).wr Reg.FAB_RECK_RESULT 0 with fab := { s.fab with reckFrom := [d.toNat] } } : State).fabricSend
        0x10 d.toNat 16 [])).settle) ∧
    (∀ d : BitVec 8, exec (.fabShareGo ag d) s = .next (s.fabShareGo d.toNat).settle) ∧
    (s.isLead = true → exec (.fabMotStop ag) s = .next (({ s with fab := { s.fab with held := true } } : State).groupStop.groupShow).settle ∧
      exec (.fabMotGo ag) s = .next (({ s with fab := { s.fab with held := false } } : State).groupRelease).settle)) ∧
  (∀ s : State, (s.fab.reckFrom ≠ [] → exec .reckonRequestTimeout s =
      .next (({ s.wr Reg.FAB_RECK_RESULT 2 with fab := { s.fab with reckFrom := [] } } : State).raise pFAB 3).settle) ∧
    (s.fab.shareWait = true → exec .shareAnswerTimeout s =
      .next ({ s.wr Reg.FAB_SHARE_RESULT 4 with fab := { s.fab with shareWait := false } } : State).settle) ∧
    (∀ p : BitVec 6, (s.fab.shares.any fun e => e.peer == p.toNat) = true → exec (.shareCreditTimeout p) s = .next (s.endShare p.toNat).settle) ∧
    (∀ (st : BitVec 16) (e : StripeSum), (s.fab.sums.find? fun e => e.stripe == st.toNat) = some e → s.srv.shared = true →
      e.stripe ∉ s.srv.whole → exec (.densNakTimer st) s =
        .next (s.fabricSend 0x32 e.src 16 (leBytes 4 s.srv.sid ++ leBytes 4 e.stripe)).settle) ∧
    (s.live pFAB = true → s.isFollower = true → s.fab.leadLost = false → exec .leadLost s =
      .next (((((({ s with fab := { s.fab with leadLost := true } } : State).setFault pFAB 1).raise pFAB 9).stopRequest rHOST).wr
        Reg.MOT_POS_STAT_SUPPRESS 1)).settle) ∧
    (∀ a : BitVec 6, s.live pFAB = true → s.fromFollower a.toNat = true → (s.follower a.toNat).lost = false → exec (.memberLost a) s =
      .next ((((s.putFollower { s.follower a.toNat with lost := true, heard := false }).setFault pFAB 2).raise pFAB 9).groupStop.groupShow).settle))

/-- VIN_START, the end of an overvoltage and a restart after a trip reset everything that power-up resets, HBM with
it, and power-down, overvoltage and a trip's power stop do so without power. A warning sets RCK EVT_RAW[5], opens the
switch and requests a stop. A phase that switches off is shown and the lowest spare takes its place. Falling RESET_N
opens the switch; held low it asserts the module reset with cause 2, as MOD_RST does with 4 or 5; the blocks are reset
20 microseconds later and released in the end. PERST_N resets and releases the PCI Express island. Losing a clock or a
lock resets what it feeds. Contradiction and withdrawal of the permit line, its switch, PSUP_OK, the cellar word at
ADDR, the temperatures, the watchdog, INK_RST and RETRY act as their rules state. (R48, R421, R422, R425, R426, R429, R431, R432, R435, R436, R514, R515) -/
def Obligations.SupplyResetsAndPermitComplete : Prop :=
  (∀ s : State, (∀ b, (s.powerReset b).hbm = [] ∧ (s.powerReset b).pwr.booted = false ∧ (s.powerReset b).pwr.powered = b ∧
      (s.powerReset b).pins.permitLvl = false) ∧
    (s.pwr.powered = false → s.pwr.overV = false → s.pwr.tripped = false → exec .vinStart s = .next (s.powerReset true).settle) ∧
    (s.pwr.powered = true →
      exec .powerDown s = .next (s.powerReset false).settle ∧ exec .powerFailWarning s = .next s.powerWarning.settle ∧
      exec .overvoltage s = .next ((s.powerReset false).modPwr fun p => { p with overV := true }).settle ∧
      (s.pwr.tripped = true → exec .tripPowerStop s = .next (s.powerReset false).settle) ∧
      (∀ (out : Bool) (v i : BitVec 16),
        let t : State := (s.modPwr fun p => { p with vinOut := out }).wrs
          [(Reg.RCK_PWR_IN_VIN, v.toNat), (Reg.RCK_PWR_IN_IIN, i.toNat)];
        exec (.vinRangeChange out v i) s = .next (if out then t.setFault pRCK 4 else t).settle) ∧
      (∀ p : BitVec 4, (s.rd Reg.RCK_PWR_PH_ACTIVE).testBit p.toNat = true → exec (.phaseSwitchOff p) s =
        .next (((s.wrs [(Reg.RCK_PWR_PH_ACTIVE, clrBit (s.rd Reg.RCK_PWR_PH_ACTIVE) p.toNat),
          (Reg.RCK_PWR_PH_FAILED, setBit (s.rd Reg.RCK_PWR_PH_FAILED) p.toNat)]).raise pRCK 4).phaseShow).settle) ∧
      (∀ p, s.inkUp = true → s.phasesActive < 14 → ((List.range 16).find? fun p => !(s.rd Reg.RCK_PWR_PH_ACTIVE).testBit p &&
          !(s.rd Reg.RCK_PWR_PH_FAILED).testBit p) = some p → exec .sparePhaseActivate s =
        .next ((s.wr Reg.RCK_PWR_PH_ACTIVE (setBit (s.rd Reg.RCK_PWR_PH_ACTIVE) p)).raise pRCK 4).settle)) ∧
    (s.pwr.tripped = false → exec .warningEnd s = .next (s.modPwr fun p => { p with warn := false }).settle) ∧
    (s.pwr.powered = false → s.pwr.overV = true → s.pwr.tripped = false → exec .overvoltageEnd s =
      .next ((s.modPwr fun p => { p with overV := false }).powerReset true).settle) ∧
    (∀ lid : BitVec 16, s.pwr.powered = false → s.pwr.overV = false → s.pwr.tripped = true → lid.toInt < 16 * (s.pwr.tripWarn : Int) →
      exec (.tripRestart lid) s = .next ((s.modPwr fun p => { p with tripped := false }).powerReset true).settle)) ∧
  (∀ s : State, s.pwr.powered = true →
    (∀ g : Bool, s.bit Reg.GLB_PERMIT_REQ = true → exec (.resetNFall g) s = .next (if g then s.openSwitch.satInc Reg.RCK_CAUSE_GLITCH 1
      else { s.openSwitch.modPwr fun p => { p with rstLow := true } with pins := { s.openSwitch.pins with resetN := false } } : State).settle) ∧
    (s.pwr.rstLow = true → exec .moduleResetAssert s = .next ((s.modPwr fun p => { p with rstLow := false }).modResetGo 2).settle) ∧
    (s.pwr.modPhase = .asserted → exec .moduleResetBlockAssert s = .next (s.resetWide.modPwr fun p => { p with modPhase := .blocksReset }).settle) ∧
    (s.pwr.modPhase = .blocksReset → s.rd Reg.LCY_STATE_STATE ≠ 0x40 → exec .moduleResetRelease s =
      .next (({ s.modPwr fun p => { p with modPhase := .none } with pins := { s.pins with resetN := true } } : State).releaseAll.releaseShow).settle) ∧
    (s.pwr.perstRst = false → s.bit Reg.RCK_CFG_PERST_MOD = false → exec .perstNAssert s =
      .next (((({ s with pins := { s.pins with perstN := false } } : State).raise pRCK 6).pcieReset.modPwr fun p => { p with perstRst := true })).settle) ∧
    (s.pwr.perstRst = true → s.pwr.ref100 = true → exec .perstNRelease s =
      .next ((({ s with pins := { s.pins with perstN := true } } : State).modPwr fun p => { p with perstRst := false }).releaseFree 10).settle) ∧
    (s.pwr.lost156 = false → exec (.referenceClockLoss false) s = .next ((((((refIslands false).foldl (fun v i =>
      if 5 ≤ i ∧ i ≤ 7 then v else v.resetIsland i) (s.modPwr fun p => { p with ref156 := false, lost156 := true })).wr
        Reg.RCK_CLK_REF156_OK 0).setFault pRCK 0).raise pRCK 1)).settle) ∧
    (s.pwr.ref156 = false → exec (.referenceClockReturn false) s = .next ((refIslands false).foldl State.releaseFree
      ((((s.modPwr fun p => { p with ref156 := true, lost156 := false }).wr Reg.RCK_CLK_REF156_OK 1).raiseIf s.pwr.lost156 pRCK 2))).settle) ∧
    (∀ i < 41, s.islandLocked i = true → s.refPresent i = true → i ≠ 14 → i ≠ 15 → ¬(4 ≤ i ∧ i ≤ 7) →
      exec (.islandLockLoss i) s = .next (((s.raise pRCK 3).resetIsland i).releaseFree i).settle) ∧
    (s.switchClosed = false →
      exec (.permitContradiction true) s = .next (({ s with pins := { s.pins with permitLvl := true } } : State).setFault pGLB 0).settle) ∧
    (s.switchClosed = true → exec (.permitWithdrawn false) s = .next ({ s with pins := { s.pins with permitLvl := true } } : State).settle ∧
      ∃ u : State, exec (.permitWithdrawn true) s = .next (((u.raise pGLB 1).stopRequest rPERMIT)).settle ∧ u.pins.permitLvl = false ∧
        u.ary.spoiled = true ∧ u.regs = s.regs) ∧
    (∀ lid die : BitVec 16, lid.toInt < 16 * (s.rd Reg.RCK_THERM_LIM_LID_TRIP : Int) → die.toInt < 16 * (s.rd Reg.RCK_THERM_LIM_DIE_TRIP : Int) →
      ∃ u : State, exec (.thermalCheck lid die) s = .next u.settle ∧ u.rd Reg.RCK_THERM_LID = lid.toNat ∧ u.rd Reg.RCK_THERM_DIE = die.toNat ∧
        u.pwr.tripLid = 0 ∧ u.pwr.tripDie = 0) ∧
    (∀ now, s.pwr.booted = true → s.inkUp = true → exec (.innkeeperWatchdog now) s = .next (s.watchdog now).settle) ∧
    (s.pwr.booted = true → s.pwr.inkHalted = false → s.inkUp = false → s.inReset pINK = false → s.lcState ≠ lcWIPING →
      exec .innkeeperRestartComplete s = .next ((((s.wrs [(Reg.INK_STATUS_BUSY, 0), (Reg.INK_STATUS_INK_DOWN, 0)]).setRunning pINK
        false).commitNext)).settle)) ∧
  (∀ (s : State) (ok : Bool), exec (.psupOkChange ok) s = .next ({ s with pins := { s.pins with psupOk := ok } } : State).settle) ∧
  (∀ (s : State) (ag : Agent),
    (s.reaches ag pRCK →
      exec (.modRst ag 0x5253) s = .next (s.modResetGo (if ag = .host then 4 else 5)).settle ∧
      exec (.inkRst ag 0x5253) s = .next ((s.modPwr fun p => { p with wds := [], inkHalted := false, haltCause := false }).inkRestart).settle ∧
      exec (.retry ag) s = .next ((List.range 41).foldl (fun t i => if s.timedOut i then t.releaseFree i else t) s).settle ∧
      (∀ w : Option Word, exec (.cellarDataAccess ag w false) s = .next (s.cellarAccess ag (w.map BitVec.toNat)).settle)) ∧
    (s.reaches ag pGLB →
      (s.gated = false → s.bit Reg.GLB_PERMIT_REQ = false → exec (.glbPermitWrite ag true) s =
        .next ({ (s.wr Reg.GLB_PERMIT_REQ 1).raise pGLB 5 with pins := { s.pins with permitLvl := true } } : State).settle) ∧
      (s.bit Reg.GLB_PERMIT_REQ = true → exec (.glbPermitWrite ag false) s = .next s.openSwitch.settle)))

/-- RING submits a command. Outside WIPING and RETIRED each operation of R85 served completes with BUSY 0, DONE 1, its
TAG, RESULT and responses: the identity, the firmware version, words of the user area, a write of it (committed where
asked), staged and committed firmware, and calibration images saved and restored; an unlisted one gives RESULT 1. A
life-cycle request R444 accepts enters WIPING. A verified commit writes its bank. A token is gained up to 64.
CUSTODY_N restarts its filter, whose level is then applied. A wipe whose MEM pages have filled enters the target. New
firmware is confirmed or falls back. Boot loads the store, or after 2 s ends in UNKNOWN; a failed EEPROM read is
repeated. (R49, R54, R84, R85, R431, R437, R438, R439, R443, R444, R463, R495) -/
def Obligations.InnkeeperCommandsComplete : Prop :=
  (∀ (s : State) (ag : Agent), s.takesWork ag pINK → s.bit Reg.INK_STATUS_BUSY = false → s.bit Reg.INK_STATUS_DONE = false →
    s.bit Reg.INK_STATUS_INK_DOWN = false → exec (.ringDoorbell ag) s = .next ((s.wr Reg.INK_STATUS_BUSY 1).setRunning pINK true).settle) ∧
  (∀ (s : State) (res : Nat) (rsp : List Nat), (s.mbDone res rsp).rd Reg.INK_STATUS_BUSY = 0 ∧ (s.mbDone res rsp).rd Reg.INK_STATUS_DONE = 1 ∧
    (s.mbDone res rsp).rd Reg.INK_STATUS_RESULT = res % 2 ^ 8 ∧ (s.mbDone res rsp).rd Reg.INK_STATUS_TAG = s.rd Reg.INK_CMD_TAG ∧
    ∀ i < 16, (s.mbDone res rsp).rd (Reg.INK_RSP_RSP i) = rsp.getD i 0 % 2 ^ 32) ∧
  (∀ (s : State) (op : Nat), op = s.rd Reg.INK_CMD_OP → s.bit Reg.INK_STATUS_BUSY = true → s.inkUp = true → s.lcState ≠ lcUNKNOWN →
    (op ∉ mailboxOps → exec .unknownOperation s = .next (s.mbDone 1 []).settle) ∧
    (op = 1 → s.ink.raw ≠ [] → s.ink.eeprom ≠ [] → exec .identity s =
      .next (s.mbDone 0 ((List.range 12).map (fun i => leAt s.ink.raw (4 * i) 4) ++ [1 + 2 * s.ink.attempts])).settle) ∧
    (op = 2 → exec .firmwareVersion s =
      .next (s.mbDone 0 [(s.slot s.ink.running).version.getD Sys2Proof.Config.factoryVersion, s.ink.running]).settle) ∧
    (s.lcCloses = false →
      (op = 0x10 → s.arg 0 % 4 = 0 → s.arg 1 % 4 = 0 → 4 ≤ s.arg 1 → s.arg 1 ≤ 64 → s.arg 0 + s.arg 1 ≤ 262144 → exec .persistentStoreRead s =
        .next (s.mbDone 0 ((List.range (s.arg 1 / 4)).map fun i => leVal (Memory.readBytes s.ink.image.user (s.arg 0 + 4 * i) 4))).settle) ∧
      (op = 0x11 → s.ink.commit ≠ some .host → s.ink.queue.contains .host = false → s.arg 0 % 4 = 0 → s.arg 1 % 4 = 0 → s.arg 1 ≤ 56 →
        s.arg 0 ≤ 262140 → s.arg 0 + s.arg 1 ≤ 262144 → exec .persistentStoreWrite s = .next ((s.modInk fun k => { k with image := { k.image with
          user := Memory.writeBytes k.image.user (s.arg 0) ((List.range (s.arg 1 / 4)).flatMap fun i => leBytes 4 (s.arg (2 + i))) } }).mbDone 0 []).settle) ∧
      (∀ v sec : Word, op = 0x30 → 4096 ≤ s.arg 2 → s.arg 2 ≤ 25165824 → s.argPlace (s.arg 2) = true → s.ink.image.security ≤ sec.toNat →
        s.poisoned s.argAddr (s.arg 2) = false → exec (.firmwareStage true v sec true) s = .next ((s.modInk fun k => { k with
          slots := setAt k.slots (1 - s.ink.running) { version := some v.toNat, security := sec.toNat }, staged := some (1 - s.ink.running) }).mbDone 0
            [v.toNat, 1 - s.ink.running, sec.toNat]).settle) ∧
      (∀ i, op = 0x31 → s.ink.staged = some i → s.arg 0 = 0 → exec .firmwareCommit s =
        .next ((s.mbDone 0 [i]).modInk fun k => { k with next := some i }).settle) ∧
      (op = 0x40 → s.pak.aln = none → s.ary.run = none → s.arg 2 < 8 → s.argPlace calLen = true →
        let im := s.calImage (s.arg 2); let c := crc64.of (im.1 ++ im.2);
        exec .calibrationSave s = .next ((s.hbmStore s.argAddr (im.1 ++ leBytes 8 c ++ im.2)).mbDone 0 [calLen, c % 2 ^ 32, c / 2 ^ 32]).settle) ∧
      (op = 0x41 → s.arg 2 = 3 → s.argPlace calLen = true → let img := Memory.readBytes s.hbm s.argAddr calLen;
        s.calRefusal img 3 false = none → exec .calibrationRestore s = .next (((s.applyLanes img).applyReceivers img).mbDone 0 [0]).settle)) ∧
    (op = 0x20 → s.ink.lcCmd = false → s.lcRefusal = none → exec .lifeCycleRequest s =
      .next (((s.wr Reg.LCY_LAST_TARGET (bits (s.arg 0) 7 0)).modInk fun k => { k with lcCmd := true }).transit (bits (s.arg 0) 7 0)).settle)) ∧
  (∀ s : State,
    (∀ c, s.inkUp = true → s.pwr.booted = true → s.ink.commit = some c →
      exec (.storeCommitComplete true) s = .next ((s.bankWrite c).committed c).commitNext.settle) ∧
    (s.pwr.powered = true → s.pwr.booted = true → exec .commitTokenGain s = .next ((s.modInk fun k => { k with
      image := { k.image with tokens := min 64 (k.image.tokens + 1) } }).commitNext).settle) ∧
    (∀ l : Bool, exec (.custodyNChange l) s = .next ({ s with pins := { s.pins with custodyRaw := l } } : State).settle) ∧
    (s.pwr.powered = true → exec .custodyFilterAccept s =
      .next (({ s with pins := { s.pins with custody := s.pins.custodyRaw } } : State).custodyApply).settle) ∧
    (s.lcState = lcWIPING → s.ink.wiped = true → s.modReset = false → s.inkUp = true → s.ink.commit = none → s.ink.queue = [] →
      (∀ n < 4, s.running (pMEM n) = true ∧ s.rd (Reg.MEM_STAT_INIT_DONE n) = 1) → s.rd Reg.LCY_STATE_TARGET ≠ lcRETIRED → ∃ u : State,
        exec .wipeComplete s = .next u.settle ∧ u.lcState = s.rd Reg.LCY_STATE_TARGET ∧ u.rd Reg.LCY_WIPES_WIPES = (s.rd Reg.LCY_WIPES_WIPES + 1) % 2 ^ 32 ∧
        u.ink.image.state = s.rd Reg.LCY_STATE_TARGET) ∧
    (s.ink.fresh = true → s.inkUp = true → exec .firmwareConfirmed s = .next (({ s with ink := { s.ink with fresh := false, image := { s.ink.image with
      slot := s.ink.running, security := max s.ink.image.security (s.slot s.ink.running).security } } } : State).commitGo .record).settle) ∧
    (∀ now, s.pwr.powered = true → s.ink.fresh = true → exec (.firmwareFallback now) s = .next (s.watchdog now).settle) ∧
    (s.pwr.powered = true → s.pwr.booted = false →
      (s.ink.attempts < 3 → exec .eepromReadRetry s = .next (s.modInk fun k => { k with attempts := k.attempts + 1 }).settle) ∧
      exec .innkeeperBootTimeout s = .next (((((s.wrs [(Reg.LCY_STATE_STATE, lcUNKNOWN), (Reg.INK_STATUS_INK_DOWN, 1)]).raise pGLB 0).modPwr
        fun p => { p with booted := true })).releaseAll.releaseShow).settle ∧
      (∀ img : List Byte, s.inReset pINK = false → eepromOk img = true → ∃ u v : State, exec (.innkeeperBootComplete (some img) true) s = .next v.settle ∧
        u = ((s.modInk fun k => { k with raw := img, eeprom := img.take 256, attempts := k.attempts + 1 }).loadStore.restoreMaps.phaseShow) ∧
        v.pwr.booted = true ∧ v.ink.eeprom = u.ink.eeprom ∧ v.ink.image.powerUps = u.ink.image.powerUps)))
end

