-- ==== Sys2Proof/Laws/Fields.lean ====
section
/-!
SUPPORT. Laws of the store of register fields: what a field reads after a write, and that every operation keeps the keys
rising.
-/
namespace Sys2Proof.Machine

namespace FieldStore

theorem find_put_self (k v : Nat) (r : FieldStore) : find k (put k v r) = some v := by
  induction r with
  | nil => simp [put, find]
  | cons e t ih => rcases e with ⟨a, w⟩; simp only [put]; split_ifs <;> simp_all [find]

theorem find_put_ne {j k : Nat} (h : j ≠ k) (v : Nat) (r : FieldStore) : find j (put k v r) = find j r := by
  induction r with
  | nil => simp [put, find, h.symm]
  | cons e t ih =>
    rcases e with ⟨a, w⟩
    simp only [put]
    split_ifs with h1 h2
    · simp [find, h.symm]
    · subst h2; simp [find, h.symm]
    · simp [find, ih]

theorem find_drop_self (k : Nat) (r : FieldStore) : find k (drop k r) = none := by
  induction r with
  | nil => rfl
  | cons e t ih => rcases e with ⟨a, w⟩; simp only [drop]; split_ifs with h <;> simp [find, h, ih]

theorem find_drop_ne {j k : Nat} (h : j ≠ k) (r : FieldStore) : find j (drop k r) = find j r := by
  induction r with
  | nil => rfl
  | cons e t ih =>
    rcases e with ⟨a, w⟩
    simp only [drop]
    split_ifs with h1
    · subst h1; simp [find, h.symm, ih]
    · simp [find, ih]

/-- A field reads what was written, cut to its width. -/
@[simp] theorem get_set_self (r : FieldStore) (f : Fld) (v : Nat) : (r.set f v).get f = v % 2 ^ f.width := by
  unfold set get
  split_ifs with h
  · simp [find_drop_self, h]
  · simp [find_put_self]

/-- A write leaves every other field alone. -/
theorem get_set_ne (r : FieldStore) {f g : Fld} (h : g.key ≠ f.key) (v : Nat) : (r.set f v).get g = r.get g := by
  unfold set get
  split_ifs
  · rw [find_drop_ne h]
  · rw [find_put_ne h]

/-- Clearing the registers at some addresses leaves the fields of the others alone. -/
theorem get_clear_of (r : FieldStore) (p : Nat → Bool) {f : Fld} (h : p (f.key / 32) = false) : (r.clear p).get f = r.get f := by
  have e : find f.key (r.clear p) = find f.key r := by
    induction r with
    | nil => rfl
    | cons e t ih =>
      rcases e with ⟨a, w⟩
      by_cases ha : a = f.key
      · subst ha; simp [clear, find, h]
      · by_cases hp : p (a / 32) = true
        · simpa [clear, find, ha, hp] using ih
        · simp only [clear, List.filter_cons, hp, Bool.not_false] at ih ⊢
          simpa [find, ha] using ih
  unfold get
  rw [e]

/-- A field is never wider than its width. -/
theorem get_lt (r : FieldStore) {f : Fld} (h : f.reset < 2 ^ f.width) : r.get f < 2 ^ f.width := by
  unfold get
  split
  · exact Nat.mod_lt _ (Nat.two_pow_pos _)
  · exact h

/-- A field at a cleared address reads its reset value. -/
theorem get_clear_self (r : FieldStore) (p : Nat → Bool) {f : Fld} (h : p (f.key / 32) = true) : (r.clear p).get f = f.reset := by
  have : find f.key (r.clear p) = none := by
    induction r with
    | nil => rfl
    | cons e t ih =>
      rcases e with ⟨a, w⟩
      by_cases ha : a = f.key
      · subst ha; simpa [clear, h] using ih
      · by_cases hp : p (a / 32) = true
        · simpa [clear, hp] using ih
        · simp only [clear, List.filter_cons, hp, Bool.not_false] at ih ⊢
          simpa [find, ha] using ih
  simp [get, this]

/-! ### The keys keep rising -/

/-- The keys rise, as a proposition. -/
theorem wf_iff (r : FieldStore) : r.wf = true ↔ (r.map Prod.fst).Pairwise (· < ·) := by simp [wf]

theorem mem_put {k v : Nat} {r : FieldStore} {x : Nat} (h : x ∈ (put k v r).map Prod.fst) : x = k ∨ x ∈ r.map Prod.fst := by
  induction r with
  | nil => simpa [put] using h
  | cons e t ih =>
    rcases e with ⟨a, w⟩
    simp only [put] at h
    split_ifs at h with h1 h2
    · simpa using h
    · subst h2; simp at h ⊢; tauto
    · simp only [List.map_cons, List.mem_cons] at h ⊢; rcases h with h | h
      · exact .inr (.inl h)
      · rcases ih h with h | h
        · exact .inl h
        · exact .inr (.inr h)

theorem drop_sublist (k : Nat) (r : FieldStore) : (drop k r).Sublist r := by
  induction r with
  | nil => exact .slnil
  | cons e t ih =>
    rcases e with ⟨a, w⟩
    simp only [drop]
    split_ifs
    · exact ih.cons _
    · exact ih.cons_cons _

theorem wf_sublist {q r : FieldStore} (h : q.Sublist r) (hr : r.wf = true) : q.wf = true := by
  rw [wf_iff] at *; exact hr.sublist (h.map _)

theorem wf_put (k v : Nat) {r : FieldStore} (h : r.wf = true) : (put k v r).wf = true := by
  rw [wf_iff] at *
  induction r with
  | nil => simp [put]
  | cons e t ih =>
    rcases e with ⟨a, w⟩
    simp only [List.map_cons, List.pairwise_cons] at h
    simp only [put]
    split_ifs with h1 h2
    · simp only [List.map_cons, List.pairwise_cons, List.mem_cons]
      refine ⟨fun x hx => ?_, h.1, h.2⟩
      rcases hx with rfl | hx
      · exact h1
      · exact h1.trans (h.1 x hx)
    · subst h2; simpa using h
    · simp only [List.map_cons, List.pairwise_cons]
      refine ⟨fun x hx => ?_, ih h.2⟩
      rcases mem_put hx with rfl | hx
      · omega
      · exact h.1 x hx

/-- A write keeps the keys rising. -/
theorem wf_set {r : FieldStore} (f : Fld) (v : Nat) (h : r.wf = true) : (r.set f v).wf = true := by
  unfold set; split_ifs
  · exact wf_sublist (drop_sublist _ _) h
  · exact wf_put _ _ h

/-- Clearing keeps the keys rising. -/
theorem wf_clear {r : FieldStore} (p : Nat → Bool) (h : r.wf = true) : (r.clear p).wf = true :=
  wf_sublist List.filter_sublist h

end FieldStore

end Sys2Proof.Machine
end

