-- ==== Sys2Proof/Laws/State.lean ====
section
/-!
SUPPORT. What each update of the state record leaves as it was: one lemma per field per update, and reading a register
field after a write.
-/
namespace Sys2Proof.Machine

@[simp] theorem State.wr_hbm (s : State) (f : Fld) (v : Nat) : (s.wr f v).hbm = s.hbm := rfl
@[simp] theorem State.wr_free (s : State) (f : Fld) (v : Nat) : (s.wr f v).free = s.free := rfl
@[simp] theorem State.wr_out (s : State) (f : Fld) (v : Nat) : (s.wr f v).out = s.out := rfl
@[simp] theorem State.wr_pins (s : State) (f : Fld) (v : Nat) : (s.wr f v).pins = s.pins := rfl
@[simp] theorem State.wr_reck (s : State) (f : Fld) (v : Nat) : (s.wr f v).reck = s.reck := rfl
@[simp] theorem State.wr_mot (s : State) (f : Fld) (v : Nat) : (s.wr f v).mot = s.mot := rfl
@[simp] theorem State.wr_ing (s : State) (f : Fld) (v : Nat) : (s.wr f v).ing = s.ing := rfl
@[simp] theorem State.wr_alc (s : State) (f : Fld) (v : Nat) : (s.wr f v).alc = s.alc := rfl
@[simp] theorem State.wr_pak (s : State) (f : Fld) (v : Nat) : (s.wr f v).pak = s.pak := rfl
@[simp] theorem State.wr_ary (s : State) (f : Fld) (v : Nat) : (s.wr f v).ary = s.ary := rfl
@[simp] theorem State.wr_fab (s : State) (f : Fld) (v : Nat) : (s.wr f v).fab = s.fab := rfl
@[simp] theorem State.wr_mem (s : State) (f : Fld) (v : Nat) : (s.wr f v).mem = s.mem := rfl
@[simp] theorem State.wr_led (s : State) (f : Fld) (v : Nat) : (s.wr f v).led = s.led := rfl
@[simp] theorem State.wr_dma (s : State) (f : Fld) (v : Nat) : (s.wr f v).dma = s.dma := rfl
@[simp] theorem State.wr_tim (s : State) (f : Fld) (v : Nat) : (s.wr f v).tim = s.tim := rfl
@[simp] theorem State.wr_net (s : State) (f : Fld) (v : Nat) : (s.wr f v).net = s.net := rfl
@[simp] theorem State.wr_ink (s : State) (f : Fld) (v : Nat) : (s.wr f v).ink = s.ink := rfl
@[simp] theorem State.wr_chk (s : State) (f : Fld) (v : Nat) : (s.wr f v).chk = s.chk := rfl
@[simp] theorem State.wr_pwr (s : State) (f : Fld) (v : Nat) : (s.wr f v).pwr = s.pwr := rfl
@[simp] theorem State.wr_pending (s : State) (f : Fld) (v : Nat) : (s.wr f v).pending = s.pending := rfl
@[simp] theorem State.satInc_hbm (s : State) (f : Fld) (d : Nat) : (s.satInc f d).hbm = s.hbm := rfl
@[simp] theorem State.satInc_free (s : State) (f : Fld) (d : Nat) : (s.satInc f d).free = s.free := rfl
@[simp] theorem State.satInc_out (s : State) (f : Fld) (d : Nat) : (s.satInc f d).out = s.out := rfl
@[simp] theorem State.satInc_pins (s : State) (f : Fld) (d : Nat) : (s.satInc f d).pins = s.pins := rfl
@[simp] theorem State.satInc_reck (s : State) (f : Fld) (d : Nat) : (s.satInc f d).reck = s.reck := rfl
@[simp] theorem State.satInc_mot (s : State) (f : Fld) (d : Nat) : (s.satInc f d).mot = s.mot := rfl
@[simp] theorem State.satInc_ing (s : State) (f : Fld) (d : Nat) : (s.satInc f d).ing = s.ing := rfl
@[simp] theorem State.satInc_alc (s : State) (f : Fld) (d : Nat) : (s.satInc f d).alc = s.alc := rfl
@[simp] theorem State.satInc_pak (s : State) (f : Fld) (d : Nat) : (s.satInc f d).pak = s.pak := rfl
@[simp] theorem State.satInc_ary (s : State) (f : Fld) (d : Nat) : (s.satInc f d).ary = s.ary := rfl
@[simp] theorem State.satInc_fab (s : State) (f : Fld) (d : Nat) : (s.satInc f d).fab = s.fab := rfl
@[simp] theorem State.satInc_mem (s : State) (f : Fld) (d : Nat) : (s.satInc f d).mem = s.mem := rfl
@[simp] theorem State.satInc_led (s : State) (f : Fld) (d : Nat) : (s.satInc f d).led = s.led := rfl
@[simp] theorem State.satInc_dma (s : State) (f : Fld) (d : Nat) : (s.satInc f d).dma = s.dma := rfl
@[simp] theorem State.satInc_tim (s : State) (f : Fld) (d : Nat) : (s.satInc f d).tim = s.tim := rfl
@[simp] theorem State.satInc_net (s : State) (f : Fld) (d : Nat) : (s.satInc f d).net = s.net := rfl
@[simp] theorem State.satInc_ink (s : State) (f : Fld) (d : Nat) : (s.satInc f d).ink = s.ink := rfl
@[simp] theorem State.satInc_chk (s : State) (f : Fld) (d : Nat) : (s.satInc f d).chk = s.chk := rfl
@[simp] theorem State.satInc_pwr (s : State) (f : Fld) (d : Nat) : (s.satInc f d).pwr = s.pwr := rfl
@[simp] theorem State.satInc_pending (s : State) (f : Fld) (d : Nat) : (s.satInc f d).pending = s.pending := rfl
@[simp] theorem State.wrapInc_hbm (s : State) (f : Fld) (d : Nat) : (s.wrapInc f d).hbm = s.hbm := rfl
@[simp] theorem State.wrapInc_free (s : State) (f : Fld) (d : Nat) : (s.wrapInc f d).free = s.free := rfl
@[simp] theorem State.wrapInc_out (s : State) (f : Fld) (d : Nat) : (s.wrapInc f d).out = s.out := rfl
@[simp] theorem State.wrapInc_pins (s : State) (f : Fld) (d : Nat) : (s.wrapInc f d).pins = s.pins := rfl
@[simp] theorem State.wrapInc_reck (s : State) (f : Fld) (d : Nat) : (s.wrapInc f d).reck = s.reck := rfl
@[simp] theorem State.wrapInc_mot (s : State) (f : Fld) (d : Nat) : (s.wrapInc f d).mot = s.mot := rfl
@[simp] theorem State.wrapInc_ing (s : State) (f : Fld) (d : Nat) : (s.wrapInc f d).ing = s.ing := rfl
@[simp] theorem State.wrapInc_alc (s : State) (f : Fld) (d : Nat) : (s.wrapInc f d).alc = s.alc := rfl
@[simp] theorem State.wrapInc_pak (s : State) (f : Fld) (d : Nat) : (s.wrapInc f d).pak = s.pak := rfl
@[simp] theorem State.wrapInc_ary (s : State) (f : Fld) (d : Nat) : (s.wrapInc f d).ary = s.ary := rfl
@[simp] theorem State.wrapInc_fab (s : State) (f : Fld) (d : Nat) : (s.wrapInc f d).fab = s.fab := rfl
@[simp] theorem State.wrapInc_mem (s : State) (f : Fld) (d : Nat) : (s.wrapInc f d).mem = s.mem := rfl
@[simp] theorem State.wrapInc_led (s : State) (f : Fld) (d : Nat) : (s.wrapInc f d).led = s.led := rfl
@[simp] theorem State.wrapInc_dma (s : State) (f : Fld) (d : Nat) : (s.wrapInc f d).dma = s.dma := rfl
@[simp] theorem State.wrapInc_tim (s : State) (f : Fld) (d : Nat) : (s.wrapInc f d).tim = s.tim := rfl
@[simp] theorem State.wrapInc_net (s : State) (f : Fld) (d : Nat) : (s.wrapInc f d).net = s.net := rfl
@[simp] theorem State.wrapInc_ink (s : State) (f : Fld) (d : Nat) : (s.wrapInc f d).ink = s.ink := rfl
@[simp] theorem State.wrapInc_chk (s : State) (f : Fld) (d : Nat) : (s.wrapInc f d).chk = s.chk := rfl
@[simp] theorem State.wrapInc_pwr (s : State) (f : Fld) (d : Nat) : (s.wrapInc f d).pwr = s.pwr := rfl
@[simp] theorem State.wrapInc_pending (s : State) (f : Fld) (d : Nat) : (s.wrapInc f d).pending = s.pending := rfl
@[simp] theorem State.wr64_hbm (s : State) (lo hi : Fld) (v : Nat) : (s.wr64 lo hi v).hbm = s.hbm := rfl
@[simp] theorem State.wr64_free (s : State) (lo hi : Fld) (v : Nat) : (s.wr64 lo hi v).free = s.free := rfl
@[simp] theorem State.wr64_out (s : State) (lo hi : Fld) (v : Nat) : (s.wr64 lo hi v).out = s.out := rfl
@[simp] theorem State.wr64_pins (s : State) (lo hi : Fld) (v : Nat) : (s.wr64 lo hi v).pins = s.pins := rfl
@[simp] theorem State.wr64_reck (s : State) (lo hi : Fld) (v : Nat) : (s.wr64 lo hi v).reck = s.reck := rfl
@[simp] theorem State.wr64_mot (s : State) (lo hi : Fld) (v : Nat) : (s.wr64 lo hi v).mot = s.mot := rfl
@[simp] theorem State.wr64_ing (s : State) (lo hi : Fld) (v : Nat) : (s.wr64 lo hi v).ing = s.ing := rfl
@[simp] theorem State.wr64_alc (s : State) (lo hi : Fld) (v : Nat) : (s.wr64 lo hi v).alc = s.alc := rfl
@[simp] theorem State.wr64_pak (s : State) (lo hi : Fld) (v : Nat) : (s.wr64 lo hi v).pak = s.pak := rfl
@[simp] theorem State.wr64_ary (s : State) (lo hi : Fld) (v : Nat) : (s.wr64 lo hi v).ary = s.ary := rfl
@[simp] theorem State.wr64_fab (s : State) (lo hi : Fld) (v : Nat) : (s.wr64 lo hi v).fab = s.fab := rfl
@[simp] theorem State.wr64_mem (s : State) (lo hi : Fld) (v : Nat) : (s.wr64 lo hi v).mem = s.mem := rfl
@[simp] theorem State.wr64_led (s : State) (lo hi : Fld) (v : Nat) : (s.wr64 lo hi v).led = s.led := rfl
@[simp] theorem State.wr64_dma (s : State) (lo hi : Fld) (v : Nat) : (s.wr64 lo hi v).dma = s.dma := rfl
@[simp] theorem State.wr64_tim (s : State) (lo hi : Fld) (v : Nat) : (s.wr64 lo hi v).tim = s.tim := rfl
@[simp] theorem State.wr64_net (s : State) (lo hi : Fld) (v : Nat) : (s.wr64 lo hi v).net = s.net := rfl
@[simp] theorem State.wr64_ink (s : State) (lo hi : Fld) (v : Nat) : (s.wr64 lo hi v).ink = s.ink := rfl
@[simp] theorem State.wr64_chk (s : State) (lo hi : Fld) (v : Nat) : (s.wr64 lo hi v).chk = s.chk := rfl
@[simp] theorem State.wr64_pwr (s : State) (lo hi : Fld) (v : Nat) : (s.wr64 lo hi v).pwr = s.pwr := rfl
@[simp] theorem State.wr64_pending (s : State) (lo hi : Fld) (v : Nat) : (s.wr64 lo hi v).pending = s.pending := rfl
@[simp] theorem State.wrs_hbm (s : State) (l : List (Fld × Nat)) : (s.wrs l).hbm = s.hbm := by
  induction l generalizing s with
  | nil => rfl
  | cons e l ih => exact ih _
@[simp] theorem State.wrs_free (s : State) (l : List (Fld × Nat)) : (s.wrs l).free = s.free := by
  induction l generalizing s with
  | nil => rfl
  | cons e l ih => exact ih _
@[simp] theorem State.wrs_out (s : State) (l : List (Fld × Nat)) : (s.wrs l).out = s.out := by
  induction l generalizing s with
  | nil => rfl
  | cons e l ih => exact ih _
@[simp] theorem State.wrs_pins (s : State) (l : List (Fld × Nat)) : (s.wrs l).pins = s.pins := by
  induction l generalizing s with
  | nil => rfl
  | cons e l ih => exact ih _
@[simp] theorem State.wrs_reck (s : State) (l : List (Fld × Nat)) : (s.wrs l).reck = s.reck := by
  induction l generalizing s with
  | nil => rfl
  | cons e l ih => exact ih _
@[simp] theorem State.wrs_mot (s : State) (l : List (Fld × Nat)) : (s.wrs l).mot = s.mot := by
  induction l generalizing s with
  | nil => rfl
  | cons e l ih => exact ih _
@[simp] theorem State.wrs_ing (s : State) (l : List (Fld × Nat)) : (s.wrs l).ing = s.ing := by
  induction l generalizing s with
  | nil => rfl
  | cons e l ih => exact ih _
@[simp] theorem State.wrs_alc (s : State) (l : List (Fld × Nat)) : (s.wrs l).alc = s.alc := by
  induction l generalizing s with
  | nil => rfl
  | cons e l ih => exact ih _
@[simp] theorem State.wrs_pak (s : State) (l : List (Fld × Nat)) : (s.wrs l).pak = s.pak := by
  induction l generalizing s with
  | nil => rfl
  | cons e l ih => exact ih _
@[simp] theorem State.wrs_ary (s : State) (l : List (Fld × Nat)) : (s.wrs l).ary = s.ary := by
  induction l generalizing s with
  | nil => rfl
  | cons e l ih => exact ih _
@[simp] theorem State.wrs_fab (s : State) (l : List (Fld × Nat)) : (s.wrs l).fab = s.fab := by
  induction l generalizing s with
  | nil => rfl
  | cons e l ih => exact ih _
@[simp] theorem State.wrs_mem (s : State) (l : List (Fld × Nat)) : (s.wrs l).mem = s.mem := by
  induction l generalizing s with
  | nil => rfl
  | cons e l ih => exact ih _
@[simp] theorem State.wrs_led (s : State) (l : List (Fld × Nat)) : (s.wrs l).led = s.led := by
  induction l generalizing s with
  | nil => rfl
  | cons e l ih => exact ih _
@[simp] theorem State.wrs_dma (s : State) (l : List (Fld × Nat)) : (s.wrs l).dma = s.dma := by
  induction l generalizing s with
  | nil => rfl
  | cons e l ih => exact ih _
@[simp] theorem State.wrs_tim (s : State) (l : List (Fld × Nat)) : (s.wrs l).tim = s.tim := by
  induction l generalizing s with
  | nil => rfl
  | cons e l ih => exact ih _
@[simp] theorem State.wrs_net (s : State) (l : List (Fld × Nat)) : (s.wrs l).net = s.net := by
  induction l generalizing s with
  | nil => rfl
  | cons e l ih => exact ih _
@[simp] theorem State.wrs_ink (s : State) (l : List (Fld × Nat)) : (s.wrs l).ink = s.ink := by
  induction l generalizing s with
  | nil => rfl
  | cons e l ih => exact ih _
@[simp] theorem State.wrs_chk (s : State) (l : List (Fld × Nat)) : (s.wrs l).chk = s.chk := by
  induction l generalizing s with
  | nil => rfl
  | cons e l ih => exact ih _
@[simp] theorem State.wrs_pwr (s : State) (l : List (Fld × Nat)) : (s.wrs l).pwr = s.pwr := by
  induction l generalizing s with
  | nil => rfl
  | cons e l ih => exact ih _
@[simp] theorem State.wrs_pending (s : State) (l : List (Fld × Nat)) : (s.wrs l).pending = s.pending := by
  induction l generalizing s with
  | nil => rfl
  | cons e l ih => exact ih _

end Sys2Proof.Machine
end

