-- ==== Sys2Proof/Laws/Events.lean ====
section
/-!
SUPPORT. Reading a register field after a write or an event, what a halt and the permit switch leave as they were, and that
the permit is safe once the switch has followed its gates.
-/
namespace Sys2Proof.Machine

@[simp] theorem State.rd_wr_self (s : State) (f : Fld) (v : Nat) : (s.wr f v).rd f = v % 2 ^ f.width := by
  simp [State.rd, State.wr]

theorem State.rd_wr_ne (s : State) {f g : Fld} (h : g.key ≠ f.key) (v : Nat) : (s.wr f v).rd g = s.rd g :=
  FieldStore.get_set_ne s.regs h v

theorem State.rd_wrs_ne (s : State) {g : Fld} (l : List (Fld × Nat)) (h : ∀ e ∈ l, g.key ≠ e.1.key) : (s.wrs l).rd g = s.rd g := by
  induction l generalizing s with
  | nil => rfl
  | cons e l ih =>
    refine (ih (s.wr e.1 e.2) fun x hx => h x (List.mem_cons_of_mem _ hx)).trans ?_
    exact State.rd_wr_ne s (h e List.mem_cons_self) e.2

theorem State.rd_satInc_ne (s : State) {f g : Fld} (h : g.key ≠ f.key) (d : Nat) : (s.satInc f d).rd g = s.rd g := State.rd_wr_ne s h _

theorem State.rd_congr {s t : State} (h : t.regs = s.regs) (f : Fld) : t.rd f = s.rd f := by simp [State.rd, h]

/-- A page's base is a multiple of 1 KiB. -/
theorem Page.base_dvd (p : Page) : 0x400 ∣ p.base := by
  rcases p with ⟨b, n⟩
  cases b <;> simp [Page.base, Block.base, Block.pageSize] <;> omega

/-- An event leaves every field but EVT_RAW, RAISES and the pending words as it was. -/
theorem State.rd_raise_ne (s : State) (p : Page) (b : Nat) {g : Fld} (h : ∀ f ∈ p.eventFields, g.key ≠ f.key) :
    (s.raise p b).rd g = s.rd g := by
  have h1 := h (Hdr.evtRaw p) (by simp [Page.eventFields])
  have h2 := h (Hdr.raises p) (by simp [Page.eventFields])
  have h3 : ∀ i < 4, g.key ≠ (Reg.msixPend i).key := fun i hi => h _ (by simp [Page.eventFields]; right; right; exact ⟨i, hi, rfl⟩)
  unfold State.raise
  split
  · rfl
  · lift_lets
    intro t
    have ht : t.rd g = s.rd g := by
      rw [show t = _ from rfl, State.rd_satInc_ne _ h2, State.rd_wr_ne _ h1]
    split
    · unfold State.message
      split
      · exact ht
      · split
        · rw [State.rd_wr_ne _ (h3 _ (by omega))]; exact ht
        · exact ht
    · exact ht

theorem setBit_testBit_self (v b : Nat) : (setBit v b).testBit b = true := by simp [setBit, Nat.testBit_or]

/-- EVT_RAW of a page is neither its RAISES field nor a pending word. -/
theorem evtRaw_key_ne (p : Page) : (Hdr.evtRaw p).key ≠ (Hdr.raises p).key ∧ ∀ i < 4, (Hdr.evtRaw p).key ≠ (Reg.msixPend i).key := by
  obtain ⟨k, hk⟩ := p.base_dvd
  constructor
  · simp [Fld.key, Hdr.evtRaw, Hdr.raises]; omega
  · intro i hi
    simp [Fld.key, Hdr.evtRaw, Reg.msixPend]; omega

/-- EVT_RAW after an event: its bit is set, the others are as before. -/
theorem State.rd_evtRaw_raise (s : State) (p : Page) (b : Nat) (h : s.evt p b = false) :
    (s.raise p b).rd (Hdr.evtRaw p) = setBit (s.rd (Hdr.evtRaw p)) b % 2 ^ 32 := by
  obtain ⟨h1, h2⟩ := evtRaw_key_ne p
  unfold State.raise
  rw [if_neg (by simp [h])]
  lift_lets
  intro t
  have ht : t.rd (Hdr.evtRaw p) = setBit (s.rd (Hdr.evtRaw p)) b % 2 ^ 32 := by
    rw [show t = _ from rfl, State.rd_satInc_ne _ h1, State.rd_wr_self]; rfl
  split
  · unfold State.message
    split
    · exact ht
    · split
      · rw [State.rd_wr_ne _ (h2 _ (by omega))]; exact ht
      · exact ht
  · exact ht

/-- An event's bit is set after it. -/
theorem State.evt_raise (s : State) (p : Page) {b : Nat} (hb : b < 32) : (s.raise p b).evt p b = true := by
  by_cases h : s.evt p b = true
  · simp [State.raise, h]
  · rw [State.evt, State.rd_evtRaw_raise s p b (by simpa using h), Nat.testBit_mod_two_pow, setBit_testBit_self]
    simp [hb]

/-- The permit request's field is no event field of any page. -/
theorem req_not_event (p : Page) : ∀ f ∈ p.eventFields, Reg.GLB_PERMIT_REQ.key ≠ f.key := by
  obtain ⟨k, hk⟩ := p.base_dvd
  intro f hf
  simp only [Page.eventFields, List.mem_append, List.mem_cons, List.not_mem_nil, or_false, List.mem_map, List.mem_range] at hf
  rcases hf with (rfl | rfl) | ⟨i, hi, rfl⟩ <;> simp [Fld.key, Hdr.evtRaw, Hdr.raises, Reg.msixPend, Reg.GLB_PERMIT_REQ] <;> omega

@[simp] theorem State.req_raise (s : State) (p : Page) (b : Nat) : (s.raise p b).rd Reg.GLB_PERMIT_REQ = s.rd Reg.GLB_PERMIT_REQ :=
  State.rd_raise_ne s p b (req_not_event p)

@[simp] theorem State.req_emit (s : State) (o : Output) (f : Fld) : (s.emit o).rd f = s.rd f := rfl
@[simp] theorem State.modNet_regs (s : State) (n : Nat) (f : NetPort → NetPort) : (s.modNet n f).regs = s.regs := rfl

@[simp] theorem State.etherOut_regs (s : State) (a b c : Nat) (l : List Byte) : (s.etherOut a b c l).regs = s.regs := by
  unfold State.etherOut; split
  · rfl
  · split <;> rfl

@[simp] theorem State.fabricOn_regs (s : State) (l : List Nat) (a b c : Nat) (p : List Byte) : (s.fabricOn l a b c p).regs = s.regs := by
  unfold State.fabricOn
  dsimp only
  have key : ∀ (fr : List Byte) (t : State), t.regs = s.regs → (l.foldl (fun u x => u.fabricPut x b c fr) t).regs = s.regs := by
    intro fr
    induction l with
    | nil => exact fun t h => h
    | cons x l ih => exact fun t h => ih _ (by simpa [State.fabricPut, State.etherSend] using h)
  exact key _ _ rfl

@[simp] theorem State.fabricSend_regs (s : State) (a b c : Nat) (p : List Byte) : (s.fabricSend a b c p).regs = s.regs := by
  unfold State.fabricSend
  split
  · rfl
  · split
    · simp
    · split <;> simp

theorem rd_ite {c : Prop} [Decidable c] {a b : State} {f : Fld} {v : Nat} (ha : a.rd f = v) (hb : b.rd f = v) :
    (if c then a else b).rd f = v := by
  split <;> assumption

/-- A write of another field leaves the permit request as it was. -/
theorem State.req_of_key (s : State) {f : Fld} (h : f.key ≠ Reg.GLB_PERMIT_REQ.key) (v : Nat) : (s.wr f v).rd Reg.GLB_PERMIT_REQ = s.rd Reg.GLB_PERMIT_REQ :=
  State.rd_wr_ne s h.symm v

theorem State.req_reckon (s : State) (a b : Nat) : (s.reckon a b).rd Reg.GLB_PERMIT_REQ = s.rd Reg.GLB_PERMIT_REQ := by
  unfold State.reckon
  split
  · exact (State.rd_congr rfl _).trans (State.req_of_key s (f := Reg.GLB_RECKON_BUSY) (by decide) 1)
  · split
    · split
      · exact State.req_raise _ _ _
      · exact (State.rd_congr rfl _).trans (State.req_of_key s (f := Reg.GLB_RECKON_PEND) (by decide) 1)
    · exact State.req_raise _ _ _

theorem State.req_autoReckon (s : State) (f : Fld) : (s.autoReckon f).rd Reg.GLB_PERMIT_REQ = s.rd Reg.GLB_PERMIT_REQ := by
  unfold State.autoReckon; split
  · exact State.req_reckon s _ _
  · rfl

theorem State.req_satInc (s : State) {f : Fld} (h : f.key ≠ Reg.GLB_PERMIT_REQ.key) (d : Nat) : (s.satInc f d).rd Reg.GLB_PERMIT_REQ = s.rd Reg.GLB_PERMIT_REQ :=
  State.req_of_key s h _

/-- A halt leaves the permit request as it was. -/
theorem State.req_halt (s : State) (r c : Nat) : (s.halt r c).rd Reg.GLB_PERMIT_REQ = s.rd Reg.GLB_PERMIT_REQ := by
  have k1 : Reg.MOT_HALT_STAT_REASON.key ≠ Reg.GLB_PERMIT_REQ.key := by decide
  have k2 : Reg.MOT_HALT_STAT_HSTATE.key ≠ Reg.GLB_PERMIT_REQ.key := by decide
  have k3 : Reg.MOT_HALT_TICK_TICK.key ≠ Reg.GLB_PERMIT_REQ.key := by decide
  have k4 : Reg.MOT_HALT_CNT_HALTS.key ≠ Reg.GLB_PERMIT_REQ.key := by decide
  have counted : ∀ t : State, t.rd Reg.GLB_PERMIT_REQ = s.rd Reg.GLB_PERMIT_REQ →
      (((t.raise pMOT 8).satInc Reg.MOT_HALT_CNT_HALTS 1).autoReckon Reg.GLB_RECK_AUTO_HALT).rd Reg.GLB_PERMIT_REQ = s.rd Reg.GLB_PERMIT_REQ := by
    intro t h; rw [State.req_autoReckon, State.req_satInc _ k4, State.req_raise, h]
  have ramp : ∀ t : State, t.rd Reg.GLB_PERMIT_REQ = s.rd Reg.GLB_PERMIT_REQ → ∀ m : Mot,
      ({ t.wr Reg.MOT_HALT_STAT_HSTATE hSTOPPING with mot := m } : State).rd Reg.GLB_PERMIT_REQ = s.rd Reg.GLB_PERMIT_REQ := by
    intro t h m; exact (State.rd_congr rfl _).trans ((State.req_of_key t k2 hSTOPPING).trans h)
  have hw : (s.wr Reg.MOT_HALT_STAT_REASON (setBit s.reasons r)).rd Reg.GLB_PERMIT_REQ = s.rd Reg.GLB_PERMIT_REQ :=
    State.req_of_key s k1 _
  unfold State.halt
  dsimp only
  refine rd_ite rfl (rd_ite ?_ (rd_ite rfl (rd_ite ((State.req_of_key _ k3 _).trans hw) (rd_ite
    (counted _ ((State.req_of_key _ k3 _).trans (ramp _ hw _))) (rd_ite (rd_ite hw ((State.req_of_key _ k3 _).trans hw))
    (rd_ite (ramp _ ((State.req_of_key _ k3 _).trans hw) _) hw))))))
  rw [State.rd_congr (State.fabricSend_regs _ _ _ _ _)]
  exact rd_ite (counted _ ((State.req_of_key _ k3 _).trans hw)) ((State.req_of_key _ k3 _).trans hw)

/-- An open switch asks for nothing. -/
theorem State.req_openSwitch (s : State) : s.openSwitch.rd Reg.GLB_PERMIT_REQ = 0 := by
  have h : ∀ (t : State), t.rd Reg.GLB_PERMIT_REQ = 0 → (t.stopRequest rPERMIT).rd Reg.GLB_PERMIT_REQ = 0 := by
    intro t ht; rw [State.stopRequest, State.req_halt, ht]
  have ht : (s.wr Reg.GLB_PERMIT_REQ 0).rd Reg.GLB_PERMIT_REQ = 0 := by simp
  unfold State.openSwitch
  dsimp only
  exact rd_ite (h _ ht) ht

/-- Once the switch has followed its gates the permit is safe (R435). -/
theorem State.permitSafe_settle (s : State) : s.settle.permitSafe = true := by
  unfold State.settle
  split
  · have : (s.openSwitch.raise pGLB 4).rd Reg.GLB_PERMIT_REQ = 0 := by rw [State.req_raise, State.req_openSwitch]
    simp [State.permitSafe, State.bit, this]
  · rename_i h
    simp only [State.permitSafe]
    revert h
    cases s.bit Reg.GLB_PERMIT_REQ && s.gated <;> simp

end Sys2Proof.Machine
end

