-- ==== Sys2Proof/Laws/Access.lean ====
section
/-!
SUPPORT. What an access of an agent does where it reaches its page, and what only register fields change.
-/
namespace Sys2Proof.Machine

/-- With no injection armed an access meets the page's configuration storage unspoiled. -/
theorem State.cfgInject_of_unarmed {s : State} {p : Page} (h : s.bit (Hdr.injArm p) = false) : s.cfgInject p = (false, s) := by
  simp [State.cfgInject, h]

/-- A write that reaches its page does what the block does with it. -/
theorem State.access_of_reaches {s : State} {ag : Sys2Proof.Agent} {p : Page} (h : s.reaches ag p) (k : State → State) :
    s.access ag p k = k s := by
  obtain ⟨h1, h2, h3⟩ := h
  simp [State.access, h1, h2, State.cfgInject_of_unarmed h3]

/-- A request for new work that reaches a page which takes it is carried out. -/
theorem State.newWork_of_takesWork {s : State} {ag : Sys2Proof.Agent} {p : Page} (h : s.takesWork ag p) (k : State → State) :
    s.newWork ag p k = k s := by
  simp [State.newWork, State.access_of_reaches h.1, h.2]

/-- A header access of a page that exists, by an agent that is heard. -/
theorem State.headerAccess_of_hears {s : State} {ag : Sys2Proof.Agent} {p : Page} (h : p.ok = true) (g : s.hears ag = true)
    (k : State → State) : s.headerAccess ag p k = k s := by
  simp [State.headerAccess, h, g]

@[simp] theorem State.onlyFields_refl (s : State) (fs : List Fld) : s.onlyFields s fs := ⟨rfl, fun _ _ => rfl⟩

/-- Writes of fields change only those fields. -/
theorem State.onlyFields_wr {s u : State} {fs : List Fld} {f : Fld} (h : s.onlyFields u fs) (hf : f ∈ fs) (v : Nat) :
    s.onlyFields (u.wr f v) fs := by
  refine ⟨?_, fun g hg => (State.rd_wr_ne u (hg f hf) v).trans (h.2 g hg)⟩
  have := h.1
  rw [State.wr, this]

end Sys2Proof.Machine
end

