-- ==== Sys2Proof/Laws/Memory.lean ====
section
/-!
SUPPORT. Laws of HBM as a list of cells: what an address reads after a write, and that every operation keeps the canonical
form.
-/
namespace Sys2Proof.Machine

namespace Memory

theorem read_put_self (a : Nat) (v : Byte) (m : Memory) : read a (put a v m) = v := by
  induction m with
  | nil => simp [put, read]
  | cons e t ih => rcases e with ⟨b, w⟩; simp only [put]; split_ifs <;> simp_all [read]

theorem read_put_ne {a b : Nat} (h : a ≠ b) (v : Byte) (m : Memory) : read a (put b v m) = read a m := by
  induction m with
  | nil => simp [put, read, h.symm]
  | cons e t ih =>
    rcases e with ⟨c, w⟩
    simp only [put]
    split_ifs with h1 h2
    · simp [read, h.symm]
    · subst h2; simp [read, h.symm]
    · simp [read, ih]

theorem read_erase_self (a : Nat) (m : Memory) : read a (erase a m) = 0 := by
  induction m with
  | nil => rfl
  | cons e t ih => rcases e with ⟨b, w⟩; simp only [erase]; split_ifs with h <;> simp [read, h, ih]

theorem read_erase_ne {a b : Nat} (h : a ≠ b) (m : Memory) : read a (erase b m) = read a m := by
  induction m with
  | nil => rfl
  | cons e t ih =>
    rcases e with ⟨c, w⟩
    simp only [erase]
    split_ifs with h1
    · subst h1; simp [read, h.symm, ih]
    · simp [read, ih]

/-- An address reads the byte written to it. -/
@[simp] theorem read_write_self (m : Memory) (a : Nat) (v : Byte) : read a (m.write a v) = v := by
  unfold write; split_ifs with h
  · rw [read_erase_self, h]
  · exact read_put_self ..

/-- A write leaves every other address alone. -/
theorem read_write_ne (m : Memory) {a b : Nat} (h : a ≠ b) (v : Byte) : read a (m.write b v) = read a m := by
  unfold write; split_ifs
  · exact read_erase_ne h m
  · exact read_put_ne h v m

/-- A byte string lands at its addresses and nowhere else. -/
theorem read_writeBytes (l : List Byte) : ∀ (m : Memory) (a x : Nat),
    read x (m.writeBytes a l) = if a ≤ x ∧ x < a + l.length then l.getD (x - a) 0 else read x m := by
  induction l with
  | nil => intro m a x; simp [writeBytes]
  | cons b t ih =>
    intro m a x
    rw [writeBytes, ih]
    by_cases hx : x = a
    · subst hx; simp
    · have hb : x ≠ a := hx
      rw [read_write_ne m hb]
      by_cases h1 : a + 1 ≤ x ∧ x < a + 1 + t.length
      · have h2 : a ≤ x ∧ x < a + (b :: t).length := by simp only [List.length_cons]; omega
        obtain ⟨k, rfl⟩ : ∃ k, x = a + 1 + k := ⟨x - (a + 1), by omega⟩
        rw [if_pos h1, if_pos h2, show a + 1 + k - (a + 1) = k by omega, show a + 1 + k - a = k + 1 by omega]
        simp
      · have h2 : ¬(a ≤ x ∧ x < a + (b :: t).length) := by simp only [List.length_cons]; omega
        rw [if_neg h1, if_neg h2]

/-- Reading back a byte string. -/
theorem readBytes_writeBytes (m : Memory) (a : Nat) (l : List Byte) : (m.writeBytes a l).readBytes a l.length = l := by
  apply List.ext_getElem
  · simp [readBytes]
  · intro i h1 h2
    simp only [readBytes, List.getElem_map, List.getElem_range]
    rw [read_writeBytes, if_pos ⟨by omega, by omega⟩, Nat.add_sub_cancel_left]
    exact List.getD_eq_getElem _ _ h2

/-! ### The canonical form -/

/-- The canonical form as propositions. -/
theorem wf_iff (m : Memory) : m.wf = true ↔ (m.map Prod.fst).Pairwise (· < ·) ∧ ∀ c ∈ m, c.2 ≠ 0 := by
  simp [wf]

theorem mem_put {a : Nat} {v : Byte} {m : Memory} {x : Nat × Byte} (h : x ∈ put a v m) : x = (a, v) ∨ x ∈ m := by
  induction m with
  | nil => simpa [put] using h
  | cons e t ih =>
    rcases e with ⟨b, w⟩
    simp only [put] at h
    split_ifs at h with h1 h2
    · simpa using h
    · simp at h ⊢; tauto
    · simp only [List.mem_cons] at h ⊢; rcases h with h | h
      · exact .inr (.inl h)
      · rcases ih h with h | h
        · exact .inl h
        · exact .inr (.inr h)

theorem erase_sublist (a : Nat) (m : Memory) : (erase a m).Sublist m := by
  induction m with
  | nil => exact .slnil
  | cons e t ih =>
    rcases e with ⟨b, w⟩
    simp only [erase]
    split_ifs
    · exact ih.cons _
    · exact ih.cons_cons _

theorem wf_sublist {q m : Memory} (h : q.Sublist m) (hm : m.wf = true) : q.wf = true := by
  rw [wf_iff] at *
  exact ⟨hm.1.sublist (h.map _), fun c hc => hm.2 c (h.subset hc)⟩

theorem wf_put (a : Nat) {v : Byte} (hv : v ≠ 0) {m : Memory} (h : m.wf = true) : (put a v m).wf = true := by
  rw [wf_iff] at *
  refine ⟨?_, fun c hc => ?_⟩
  · have h := h.1
    induction m with
    | nil => simp [put]
    | cons e t ih =>
      rcases e with ⟨b, w⟩
      simp only [List.map_cons, List.pairwise_cons] at h
      simp only [put]
      split_ifs with h1 h2
      · simp only [List.map_cons, List.pairwise_cons, List.mem_cons]
        refine ⟨fun x hx => ?_, h.1, h.2⟩
        rcases hx with rfl | hx
        · exact h1
        · exact h1.trans (h.1 x hx)
      · subst h2; simpa using h
      · simp only [List.map_cons, List.pairwise_cons]
        refine ⟨fun x hx => ?_, ih (by rename_i hh; exact ⟨h.2, fun c hc => hh.2 c (List.mem_cons_of_mem _ hc)⟩) h.2⟩
        obtain ⟨y, hy, rfl⟩ := List.mem_map.1 hx
        rcases mem_put hy with rfl | hy
        · show b < a; omega
        · exact h.1 _ (List.mem_map_of_mem hy)
  · rcases mem_put hc with rfl | hc
    · exact hv
    · exact h.2 c hc

/-- A write of one byte keeps the canonical form. -/
theorem wf_write {m : Memory} (a : Nat) (v : Byte) (h : m.wf = true) : (m.write a v).wf = true := by
  unfold write; split_ifs with hv
  · exact wf_sublist (erase_sublist _ _) h
  · exact wf_put a hv h

/-- So does a write of a byte string. -/
theorem wf_writeBytes (l : List Byte) : ∀ {m : Memory} (a : Nat), m.wf = true → (m.writeBytes a l).wf = true := by
  induction l with
  | nil => intro m a h; exact h
  | cons b t ih => intro m a h; exact ih _ (wf_write a b h)

/-- So does clearing a range. -/
theorem wf_clearRange {m : Memory} (a n : Nat) (h : m.wf = true) : (m.clearRange a n).wf = true :=
  wf_sublist List.filter_sublist h

end Memory

/-- The memory and the field store after reset are in canonical form. -/
theorem reset_wf : State.reset.hbm.wf = true ∧ State.reset.regs.wf = true := by decide

end Sys2Proof.Machine
end

