-- ==== Sys2Proof/Laws/StepsBase.lean ====
section
/-!
SUPPORT. What one transition of the machine can do to the queue, the stores and the parts of the state, and how an update
of the state record keeps it.
-/
set_option linter.all false
open Sys2Proof (Agent)

namespace Sys2Proof.Machine

theorem Memory.wf_foldl {α : Type} {f : Memory → α → Memory} {c : Memory} {l : List α} (hf : ∀ c x, c.wf = true → (f c x).wf = true)
    (h : c.wf = true) : (l.foldl f c).wf = true := by
  induction l generalizing c with
  | nil => exact h
  | cons x l ih => exact ih (hf _ _ h)

theorem Memory.wf_writePart {c : Memory} (a : Nat) (l : List Byte) (k : Nat) (h : c.wf = true) : (c.writePart a l k).wf = true :=
  Memory.wf_writeBytes _ _ h

theorem FieldStore.wf_foldl {α : Type} {f : FieldStore → α → FieldStore} {r : FieldStore} {l : List α}
    (hf : ∀ r x, r.wf = true → (f r x).wf = true) (h : r.wf = true) : (l.foldl f r).wf = true := by
  induction l generalizing r with
  | nil => exact h
  | cons x l ih => exact ih (hf _ _ h)

/-- From s to t the queue stays, the stores keep their canonical forms, free values are only drawn, what has been sent stays
sent, the numbers of things stay, and no part outside m changes. -/
structure Steps (m : Part → Prop) (s t : State) : Prop where
  pending : t.pending = s.pending
  regs : s.regs.wf = true → t.regs.wf = true
  hbm : s.hbm.wf = true → t.hbm.wf = true
  free : s.free ≤ t.free
  out : s.out <:+ t.out
  shape : s.shaped → t.shaped
  kept : ∀ k, m k ∨ s.same t k

/-- What a meaning answers: the state it leads to, and then the permit switch. -/
def Next (m : Part → Prop) (s : State) (o : Host.Outcome State Fault Refusal) : Prop :=
  ∃ t, o = done t ∧ Steps m s t

variable {mu : Part → Prop} {s t : State}

theorem State.same.refl (s : State) (k : Part) : s.same s k := by cases k <;> rfl

theorem Steps.refl (mu : Part → Prop) (s : State) : Steps mu s s :=
  ⟨rfl, id, id, le_refl _, List.suffix_rfl, id, fun k => .inr (.refl s k)⟩

theorem Steps.regsOf (h : Steps mu s t) {r : FieldStore} (hr : t.regs.wf = true → r.wf = true) : Steps mu s { t with regs := r } :=
  ⟨h.pending, fun x => hr (h.regs x), h.hbm, h.free, h.out, h.shape, fun k => (h.kept k).imp id fun q => by cases k <;> exact q⟩

theorem State.same.trans {s t u : State} {k : Part} (a : s.same t k) (b : t.same u k) : s.same u k := by
  cases k <;> exact Eq.trans b a

/-- Any update of the parts, with HBM and the registers kept in their canonical forms. -/
theorem Steps.updAll (h : Steps mu s t) {r : FieldStore} {c : Memory} (hr : t.regs.wf = true → r.wf = true) (hc : t.hbm.wf = true → c.wf = true)
    {pins : Pins} {reck : Reck} {mot : Mot} {ing : Ing} {alc : Alc} {pak : Pak} {ary : Ary}
    {fab : Fab} {mem : MemCtl} {led : Led} {dma : Dma} {tim : Tim} {net : List NetPort} {ink : Ink} {chk : List Chk} {pwr : Pwr}
    (h0 : mu .hbm ∨ c = t.hbm) (h1 : mu .pins ∨ pins = t.pins) (h2 : mu .reck ∨ reck = t.reck) (h3 : mu .mot ∨ mot = t.mot)
    (h4 : mu .ing ∨ ing = t.ing) (h5 : mu .alc ∨ alc = t.alc) (h6 : mu .pak ∨ pak = t.pak) (h7 : mu .ary ∨ ary = t.ary)
    (h8 : mu .fab ∨ fab = t.fab) (h9 : mu .mem ∨ mem = t.mem) (h10 : mu .led ∨ led = t.led) (h11 : mu .dma ∨ dma = t.dma)
    (h12 : mu .tim ∨ tim = t.tim) (h13 : mu .net ∨ net = t.net) (h14 : mu .ink ∨ ink = t.ink) (h15 : mu .chk ∨ chk = t.chk)
    (h16 : mu .pwr ∨ pwr = t.pwr) (s1 : t.ing.shaped → ing.shaped) (s2 : t.pak.shaped → pak.shaped) (s3 : t.mem.shaped → mem.shaped)
    (s4 : t.dma.shaped → dma.shaped) (s5 : netShaped t.net → netShaped net) (s6 : t.ink.shaped → ink.shaped)
    (s7 : chkShaped t.chk → chkShaped chk) :
    Steps mu s ⟨r, c, t.free, t.out, pins, reck, mot, ing, alc, pak, ary, fab, mem, led, dma, tim, net, ink, chk, pwr, t.pending⟩ := by
  refine ⟨h.pending, fun x => hr (h.regs x), fun x => hc (h.hbm x), h.free, h.out, fun x => ?_, fun k => ?_⟩
  · obtain ⟨a, b, c, d, e, f, g⟩ := h.shape x
    exact ⟨s1 a, s2 b, s3 c, s4 d, s5 e, s6 f, s7 g⟩
  · have hk := h.kept k
    have two : ∀ {α : Type} {P : Prop} {a b c : α}, (P ∨ a = b) → (P ∨ b = c) → P ∨ a = c := by
      intro α P a b c x y; rcases x with x | rfl; exacts [.inl x, y]
    cases k
    · exact two h0 hk
    · exact hk
    · exact hk
    · exact two h1 hk
    · exact two h2 hk
    · exact two h3 hk
    · exact two h4 hk
    · exact two h5 hk
    · exact two h6 hk
    · exact two h7 hk
    · exact two h8 hk
    · exact two h9 hk
    · exact two h10 hk
    · exact two h11 hk
    · exact two h12 hk
    · exact two h13 hk
    · exact two h14 hk
    · exact two h15 hk
    · exact two h16 hk

/-! An update of one part. -/

theorem Steps.pins (h : Steps mu s t) {pins : Pins} (hm : mu .pins) :
    Steps mu s ⟨t.regs, t.hbm, t.free, t.out, pins, t.reck, t.mot, t.ing, t.alc, t.pak, t.ary, t.fab, t.mem, t.led, t.dma, t.tim, t.net, t.ink, t.chk, t.pwr, t.pending⟩ :=
  Steps.updAll h id id (.inr rfl) (.inl hm) (.inr rfl) (.inr rfl) (.inr rfl) (.inr rfl) (.inr rfl) (.inr rfl) (.inr rfl) (.inr rfl) (.inr rfl) (.inr rfl) (.inr rfl) (.inr rfl) (.inr rfl) (.inr rfl) (.inr rfl) id id id id id id id

theorem Steps.reck (h : Steps mu s t) {reck : Reck} (hm : mu .reck) :
    Steps mu s ⟨t.regs, t.hbm, t.free, t.out, t.pins, reck, t.mot, t.ing, t.alc, t.pak, t.ary, t.fab, t.mem, t.led, t.dma, t.tim, t.net, t.ink, t.chk, t.pwr, t.pending⟩ :=
  Steps.updAll h id id (.inr rfl) (.inr rfl) (.inl hm) (.inr rfl) (.inr rfl) (.inr rfl) (.inr rfl) (.inr rfl) (.inr rfl) (.inr rfl) (.inr rfl) (.inr rfl) (.inr rfl) (.inr rfl) (.inr rfl) (.inr rfl) (.inr rfl) id id id id id id id

theorem Steps.mot (h : Steps mu s t) {mot : Mot} (hm : mu .mot) :
    Steps mu s ⟨t.regs, t.hbm, t.free, t.out, t.pins, t.reck, mot, t.ing, t.alc, t.pak, t.ary, t.fab, t.mem, t.led, t.dma, t.tim, t.net, t.ink, t.chk, t.pwr, t.pending⟩ :=
  Steps.updAll h id id (.inr rfl) (.inr rfl) (.inr rfl) (.inl hm) (.inr rfl) (.inr rfl) (.inr rfl) (.inr rfl) (.inr rfl) (.inr rfl) (.inr rfl) (.inr rfl) (.inr rfl) (.inr rfl) (.inr rfl) (.inr rfl) (.inr rfl) id id id id id id id

theorem Steps.ing (h : Steps mu s t) {ing : Ing} (hm : mu .ing) (hs : t.ing.shaped → ing.shaped) :
    Steps mu s ⟨t.regs, t.hbm, t.free, t.out, t.pins, t.reck, t.mot, ing, t.alc, t.pak, t.ary, t.fab, t.mem, t.led, t.dma, t.tim, t.net, t.ink, t.chk, t.pwr, t.pending⟩ :=
  Steps.updAll h id id (.inr rfl) (.inr rfl) (.inr rfl) (.inr rfl) (.inl hm) (.inr rfl) (.inr rfl) (.inr rfl) (.inr rfl) (.inr rfl) (.inr rfl) (.inr rfl) (.inr rfl) (.inr rfl) (.inr rfl) (.inr rfl) (.inr rfl) hs id id id id id id

theorem Steps.alc (h : Steps mu s t) {alc : Alc} (hm : mu .alc) :
    Steps mu s ⟨t.regs, t.hbm, t.free, t.out, t.pins, t.reck, t.mot, t.ing, alc, t.pak, t.ary, t.fab, t.mem, t.led, t.dma, t.tim, t.net, t.ink, t.chk, t.pwr, t.pending⟩ :=
  Steps.updAll h id id (.inr rfl) (.inr rfl) (.inr rfl) (.inr rfl) (.inr rfl) (.inl hm) (.inr rfl) (.inr rfl) (.inr rfl) (.inr rfl) (.inr rfl) (.inr rfl) (.inr rfl) (.inr rfl) (.inr rfl) (.inr rfl) (.inr rfl) id id id id id id id

theorem Steps.pak (h : Steps mu s t) {pak : Pak} (hm : mu .pak) (hs : t.pak.shaped → pak.shaped) :
    Steps mu s ⟨t.regs, t.hbm, t.free, t.out, t.pins, t.reck, t.mot, t.ing, t.alc, pak, t.ary, t.fab, t.mem, t.led, t.dma, t.tim, t.net, t.ink, t.chk, t.pwr, t.pending⟩ :=
  Steps.updAll h id id (.inr rfl) (.inr rfl) (.inr rfl) (.inr rfl) (.inr rfl) (.inr rfl) (.inl hm) (.inr rfl) (.inr rfl) (.inr rfl) (.inr rfl) (.inr rfl) (.inr rfl) (.inr rfl) (.inr rfl) (.inr rfl) (.inr rfl) id hs id id id id id

theorem Steps.ary (h : Steps mu s t) {ary : Ary} (hm : mu .ary) :
    Steps mu s ⟨t.regs, t.hbm, t.free, t.out, t.pins, t.reck, t.mot, t.ing, t.alc, t.pak, ary, t.fab, t.mem, t.led, t.dma, t.tim, t.net, t.ink, t.chk, t.pwr, t.pending⟩ :=
  Steps.updAll h id id (.inr rfl) (.inr rfl) (.inr rfl) (.inr rfl) (.inr rfl) (.inr rfl) (.inr rfl) (.inl hm) (.inr rfl) (.inr rfl) (.inr rfl) (.inr rfl) (.inr rfl) (.inr rfl) (.inr rfl) (.inr rfl) (.inr rfl) id id id id id id id

theorem Steps.fab (h : Steps mu s t) {fab : Fab} (hm : mu .fab) :
    Steps mu s ⟨t.regs, t.hbm, t.free, t.out, t.pins, t.reck, t.mot, t.ing, t.alc, t.pak, t.ary, fab, t.mem, t.led, t.dma, t.tim, t.net, t.ink, t.chk, t.pwr, t.pending⟩ :=
  Steps.updAll h id id (.inr rfl) (.inr rfl) (.inr rfl) (.inr rfl) (.inr rfl) (.inr rfl) (.inr rfl) (.inr rfl) (.inl hm) (.inr rfl) (.inr rfl) (.inr rfl) (.inr rfl) (.inr rfl) (.inr rfl) (.inr rfl) (.inr rfl) id id id id id id id

theorem Steps.mem (h : Steps mu s t) {mem : MemCtl} (hm : mu .mem) (hs : t.mem.shaped → mem.shaped) :
    Steps mu s ⟨t.regs, t.hbm, t.free, t.out, t.pins, t.reck, t.mot, t.ing, t.alc, t.pak, t.ary, t.fab, mem, t.led, t.dma, t.tim, t.net, t.ink, t.chk, t.pwr, t.pending⟩ :=
  Steps.updAll h id id (.inr rfl) (.inr rfl) (.inr rfl) (.inr rfl) (.inr rfl) (.inr rfl) (.inr rfl) (.inr rfl) (.inr rfl) (.inl hm) (.inr rfl) (.inr rfl) (.inr rfl) (.inr rfl) (.inr rfl) (.inr rfl) (.inr rfl) id id hs id id id id

theorem Steps.led (h : Steps mu s t) {led : Led} (hm : mu .led) :
    Steps mu s ⟨t.regs, t.hbm, t.free, t.out, t.pins, t.reck, t.mot, t.ing, t.alc, t.pak, t.ary, t.fab, t.mem, led, t.dma, t.tim, t.net, t.ink, t.chk, t.pwr, t.pending⟩ :=
  Steps.updAll h id id (.inr rfl) (.inr rfl) (.inr rfl) (.inr rfl) (.inr rfl) (.inr rfl) (.inr rfl) (.inr rfl) (.inr rfl) (.inr rfl) (.inl hm) (.inr rfl) (.inr rfl) (.inr rfl) (.inr rfl) (.inr rfl) (.inr rfl) id id id id id id id

theorem Steps.dma (h : Steps mu s t) {dma : Dma} (hm : mu .dma) (hs : t.dma.shaped → dma.shaped) :
    Steps mu s ⟨t.regs, t.hbm, t.free, t.out, t.pins, t.reck, t.mot, t.ing, t.alc, t.pak, t.ary, t.fab, t.mem, t.led, dma, t.tim, t.net, t.ink, t.chk, t.pwr, t.pending⟩ :=
  Steps.updAll h id id (.inr rfl) (.inr rfl) (.inr rfl) (.inr rfl) (.inr rfl) (.inr rfl) (.inr rfl) (.inr rfl) (.inr rfl) (.inr rfl) (.inr rfl) (.inl hm) (.inr rfl) (.inr rfl) (.inr rfl) (.inr rfl) (.inr rfl) id id id hs id id id

theorem Steps.tim (h : Steps mu s t) {tim : Tim} (hm : mu .tim) :
    Steps mu s ⟨t.regs, t.hbm, t.free, t.out, t.pins, t.reck, t.mot, t.ing, t.alc, t.pak, t.ary, t.fab, t.mem, t.led, t.dma, tim, t.net, t.ink, t.chk, t.pwr, t.pending⟩ :=
  Steps.updAll h id id (.inr rfl) (.inr rfl) (.inr rfl) (.inr rfl) (.inr rfl) (.inr rfl) (.inr rfl) (.inr rfl) (.inr rfl) (.inr rfl) (.inr rfl) (.inr rfl) (.inl hm) (.inr rfl) (.inr rfl) (.inr rfl) (.inr rfl) id id id id id id id

theorem Steps.net (h : Steps mu s t) {net : List NetPort} (hm : mu .net) (hs : netShaped t.net → netShaped net) :
    Steps mu s ⟨t.regs, t.hbm, t.free, t.out, t.pins, t.reck, t.mot, t.ing, t.alc, t.pak, t.ary, t.fab, t.mem, t.led, t.dma, t.tim, net, t.ink, t.chk, t.pwr, t.pending⟩ :=
  Steps.updAll h id id (.inr rfl) (.inr rfl) (.inr rfl) (.inr rfl) (.inr rfl) (.inr rfl) (.inr rfl) (.inr rfl) (.inr rfl) (.inr rfl) (.inr rfl) (.inr rfl) (.inr rfl) (.inl hm) (.inr rfl) (.inr rfl) (.inr rfl) id id id id hs id id

theorem Steps.ink (h : Steps mu s t) {ink : Ink} (hm : mu .ink) (hs : t.ink.shaped → ink.shaped) :
    Steps mu s ⟨t.regs, t.hbm, t.free, t.out, t.pins, t.reck, t.mot, t.ing, t.alc, t.pak, t.ary, t.fab, t.mem, t.led, t.dma, t.tim, t.net, ink, t.chk, t.pwr, t.pending⟩ :=
  Steps.updAll h id id (.inr rfl) (.inr rfl) (.inr rfl) (.inr rfl) (.inr rfl) (.inr rfl) (.inr rfl) (.inr rfl) (.inr rfl) (.inr rfl) (.inr rfl) (.inr rfl) (.inr rfl) (.inr rfl) (.inl hm) (.inr rfl) (.inr rfl) id id id id id hs id

theorem Steps.chk (h : Steps mu s t) {chk : List Chk} (hm : mu .chk) (hs : chkShaped t.chk → chkShaped chk) :
    Steps mu s ⟨t.regs, t.hbm, t.free, t.out, t.pins, t.reck, t.mot, t.ing, t.alc, t.pak, t.ary, t.fab, t.mem, t.led, t.dma, t.tim, t.net, t.ink, chk, t.pwr, t.pending⟩ :=
  Steps.updAll h id id (.inr rfl) (.inr rfl) (.inr rfl) (.inr rfl) (.inr rfl) (.inr rfl) (.inr rfl) (.inr rfl) (.inr rfl) (.inr rfl) (.inr rfl) (.inr rfl) (.inr rfl) (.inr rfl) (.inr rfl) (.inl hm) (.inr rfl) id id id id id id hs

theorem Steps.pwr (h : Steps mu s t) {pwr : Pwr} (hm : mu .pwr) :
    Steps mu s ⟨t.regs, t.hbm, t.free, t.out, t.pins, t.reck, t.mot, t.ing, t.alc, t.pak, t.ary, t.fab, t.mem, t.led, t.dma, t.tim, t.net, t.ink, t.chk, pwr, t.pending⟩ :=
  Steps.updAll h id id (.inr rfl) (.inr rfl) (.inr rfl) (.inr rfl) (.inr rfl) (.inr rfl) (.inr rfl) (.inr rfl) (.inr rfl) (.inr rfl) (.inr rfl) (.inr rfl) (.inr rfl) (.inr rfl) (.inr rfl) (.inr rfl) (.inl hm) id id id id id id id

theorem Steps.upd (h : Steps mu s t)
    {pins : Pins} {reck : Reck} {mot : Mot} {ing : Ing} {alc : Alc} {pak : Pak} {ary : Ary}
    {fab : Fab} {mem : MemCtl} {led : Led} {dma : Dma} {tim : Tim} {net : List NetPort} {ink : Ink} {chk : List Chk} {pwr : Pwr}
    (h1 : mu .pins ∨ pins = t.pins) (h2 : mu .reck ∨ reck = t.reck) (h3 : mu .mot ∨ mot = t.mot)
    (h4 : mu .ing ∨ ing = t.ing) (h5 : mu .alc ∨ alc = t.alc) (h6 : mu .pak ∨ pak = t.pak) (h7 : mu .ary ∨ ary = t.ary)
    (h8 : mu .fab ∨ fab = t.fab) (h9 : mu .mem ∨ mem = t.mem) (h10 : mu .led ∨ led = t.led) (h11 : mu .dma ∨ dma = t.dma)
    (h12 : mu .tim ∨ tim = t.tim) (h13 : mu .net ∨ net = t.net) (h14 : mu .ink ∨ ink = t.ink) (h15 : mu .chk ∨ chk = t.chk)
    (h16 : mu .pwr ∨ pwr = t.pwr) (s1 : t.ing.shaped → ing.shaped) (s2 : t.pak.shaped → pak.shaped) (s3 : t.mem.shaped → mem.shaped)
    (s4 : t.dma.shaped → dma.shaped) (s5 : netShaped t.net → netShaped net) (s6 : t.ink.shaped → ink.shaped)
    (s7 : chkShaped t.chk → chkShaped chk) :
    Steps mu s ⟨t.regs, t.hbm, t.free, t.out, pins, reck, mot, ing, alc, pak, ary, fab, mem, led, dma, tim, net, ink, chk, pwr, t.pending⟩ :=
  Steps.updAll h id id (.inr rfl) h1 h2 h3 h4 h5 h6 h7 h8 h9 h10 h11 h12 h13 h14 h15 h16 s1 s2 s3 s4 s5 s6 s7

theorem Steps.foldl {α : Type} {f : State → α → State} {l : List α} (hf : ∀ r t x, Steps mu r t → Steps mu r (f t x)) (h : Steps mu s t) :
    Steps mu s (l.foldl f t) := by
  induction l generalizing t with
  | nil => exact h
  | cons x l ih => exact ih (hf _ _ _ h)

theorem Steps.ite {c : Prop} [Decidable c] {a b : State} (ha : Steps mu s a) (hb : Steps mu s b) : Steps mu s (if c then a else b) := by
  split <;> assumption

theorem Next.ite {c : Prop} [Decidable c] {a b : Host.Outcome State Fault Refusal} (ha : Next mu s a) (hb : Next mu s b) :
    Next mu s (if c then a else b) := by
  split <;> assumption

theorem Next.done (h : Steps mu s t) : Next mu s (done t) := ⟨t, rfl, h⟩

theorem State.wr_steps (h : Steps mu s t) (f : Fld) (v : Nat) : Steps mu s (t.wr f v) := Steps.regsOf h (FieldStore.wf_set f v)

theorem State.wrs_steps (h : Steps mu s t) (l : List (Fld × Nat)) : Steps mu s (t.wrs l) := by
  induction l generalizing t with
  | nil => exact h
  | cons e l ih => exact ih (State.wr_steps h e.1 e.2)

theorem State.emit_steps (ho : mu .out) (h : Steps mu s t) (o : Output) : Steps mu s (t.emit o) :=
  ⟨h.pending, h.regs, h.hbm, h.free, h.out.trans (List.suffix_cons _ _), h.shape,
    fun k => by have := h.kept k; cases k <;> first | exact .inl ho | exact this⟩

theorem State.draw_steps (hf : mu .free) (h : Steps mu s t) : Steps mu s t.draw.2 :=
  ⟨h.pending, h.regs, h.hbm, h.free.trans (Nat.le_succ _), h.out, h.shape,
    fun k => by have := h.kept k; cases k <;> first | exact .inl hf | exact this⟩

end Sys2Proof.Machine
end

