-- ==== Sys2Proof/Laws/StepsCore.lean ====
section
/-!
SUPPORT. What each operation and each meaning of the operations, the ledger and the motion machinery can change.
-/
set_option linter.all false
open Sys2Proof (Agent)

namespace Sys2Proof.Machine

theorem State.satInc_steps {mu : Part → Prop} {org s : State} (ho : Steps mu org s) (f : Fld) (d : ℕ) : Steps mu org (State.satInc s f d) := by
  unfold State.satInc
  repeat' with_reducible first | assumption | apply State.wr_steps

theorem State.wrapInc_steps {mu : Part → Prop} {org s : State} (ho : Steps mu org s) (f : Fld) (d : ℕ) : Steps mu org (State.wrapInc s f d) := by
  unfold State.wrapInc
  repeat' with_reducible first | assumption | apply State.wr_steps

theorem State.wr64_steps {mu : Part → Prop} {org s : State} (ho : Steps mu org s) (lo : Fld) (hi : Fld) (v : ℕ) : Steps mu org (State.wr64 s lo hi v) := by
  unfold State.wr64
  repeat' with_reducible first | assumption | apply State.wr_steps

theorem State.setRunning_steps {mu : Part → Prop} {org s : State} (ho : Steps mu org s) (p : Page) (busy : Bool) : Steps mu org (State.setRunning s p busy) := by
  unfold State.setRunning
  repeat' with_reducible first | assumption | apply Steps.ite | apply State.wr_steps

theorem State.message_steps {mu : Part → Prop} (mout : mu .out) {org s : State} (ho : Steps mu org s) (n : ℕ) : Steps mu org (State.message s n) := by
  unfold State.message
  repeat' with_reducible first | assumption | apply Steps.ite | apply State.wr_steps | apply State.emit_steps

theorem State.raise_steps {mu : Part → Prop} (mout : mu .out) {org s : State} (ho : Steps mu org s) (p : Page) (b : ℕ) : Steps mu org (State.raise s p b) := by
  unfold State.raise
  lift_lets
  intro z0
  have hz0 : Steps mu org z0 := by
    dsimp only [z0]
    repeat' with_reducible first | assumption | apply State.satInc_steps | apply State.wr_steps
  try clear_value z0
  repeat' with_reducible first | assumption | apply Steps.ite | apply State.message_steps

theorem State.raiseIf_steps {mu : Part → Prop} (mout : mu .out) {org s : State} (ho : Steps mu org s) (c : Bool) (p : Page) (b : ℕ) : Steps mu org (State.raiseIf s c p b) := by
  unfold State.raiseIf
  repeat' with_reducible first | assumption | apply Steps.ite | apply State.raise_steps

theorem State.reckon_steps {mu : Part → Prop} (mout : mu .out) (mreck : mu .reck) {org s : State} (ho : Steps mu org s) (source : ℕ) (reqr : ℕ) : Steps mu org (State.reckon s source reqr) := by
  unfold State.reckon
  lift_lets
  intro z0
  have hz0 : Steps mu org z0 := by
    dsimp only [z0]
    repeat' with_reducible first | assumption | apply State.wr_steps
  try clear_value z0
  intro z1
  try dsimp -zeta -zetaHave only [z1]
  intro z2
  have hz2 : Steps mu org z2 := by
    dsimp only [z2]
    repeat' with_reducible first | assumption | apply State.wr_steps
  try clear_value z2
  repeat' with_reducible first | assumption | apply Steps.ite | apply State.raise_steps | apply Steps.reck

theorem State.autoReckon_steps {mu : Part → Prop} (mout : mu .out) (mreck : mu .reck) {org s : State} (ho : Steps mu org s) (enable : Fld) : Steps mu org (State.autoReckon s enable) := by
  unfold State.autoReckon
  repeat' with_reducible first | assumption | apply Steps.ite | apply State.reckon_steps

theorem State.setFault_steps {mu : Part → Prop} (mout : mu .out) (mreck : mu .reck) {org s : State} (ho : Steps mu org s) (p : Page) (b : ℕ) : Steps mu org (State.setFault s p b) := by
  unfold State.setFault
  lift_lets
  intro z0
  have hz0 : Steps mu org z0 := by
    dsimp only [z0]
    repeat' with_reducible first | assumption | apply State.wr_steps
  try clear_value z0
  repeat' with_reducible first | assumption | apply Steps.ite | apply State.autoReckon_steps

theorem State.cfgInject_steps {mu : Part → Prop} (mout : mu .out) (mreck : mu .reck) {org s : State} (ho : Steps mu org s) (p : Page) : Steps mu org (State.cfgInject s p).2 := by
  unfold State.cfgInject
  lift_lets
  intro z0; try clear_value z0
  intro z1
  have hz1 : Steps mu org z1 := by
    dsimp only [z1]
    repeat' with_reducible first | assumption | apply State.wr_steps
  try clear_value z1
  repeat' with_reducible first | assumption | apply State.satInc_steps | apply State.setFault_steps | split

theorem State.btInject_steps {mu : Part → Prop} (mout : mu .out) {org s : State} (ho : Steps mu org s)  : Steps mu org (State.btInject s) := by
  unfold State.btInject
  lift_lets
  intro z0
  have hz0 : Steps mu org z0 := by
    dsimp only [z0]
    repeat' with_reducible first | assumption | apply State.wr_steps
  try clear_value z0
  repeat' with_reducible first | assumption | apply Steps.ite | apply State.raise_steps

theorem State.access_steps {mu : Part → Prop} (mout : mu .out) (mreck : mu .reck) {r s : State} (h : Steps mu r s) (ag : Agent) (p : Page) (k : State → State) (hk : ∀ r t, Steps mu r t → Steps mu r (k t)) : Steps mu r (s.access ag p k) := by
  unfold State.access; repeat' split
  · exact h
  · exact State.raise_steps (by assumption) h _ _
  · exact hk _ _ (State.cfgInject_steps (by assumption) (by assumption) h p)

theorem State.newWork_steps {mu : Part → Prop} (mout : mu .out) (mreck : mu .reck) {r s : State} (h : Steps mu r s) (ag : Agent) (p : Page) (k : State → State) (hk : ∀ r t, Steps mu r t → Steps mu r (k t)) : Steps mu r (s.newWork ag p k) := by
  unfold State.newWork; refine State.access_steps (by assumption) (by assumption) h _ _ _ fun r t ht => ?_; split
  · exact hk _ t ht
  · exact ht

theorem State.modNet_steps {mu : Part → Prop} (mnet : mu .net) {org s : State} (ho : Steps mu org s) (n : ℕ) (f : NetPort → NetPort) : Steps mu org (State.modNet s n f) := by
  unfold State.modNet
  repeat' with_reducible first | assumption | (intro (hh : netShaped _); first | (simpa [netShaped, setAt, modAt] using hh; done) | (simp [netShaped, setAt, modAt] at hh ⊢; omega)) | apply Steps.net

theorem State.etherOut_steps {mu : Part → Prop} (mout : mu .out) (mnet : mu .net) {org s : State} (ho : Steps mu org s) (port : ℕ) (sub : ℕ) (cls : ℕ) (frame : List Sys2Proof.Byte) : Steps mu org (State.etherOut s port sub cls frame) := by
  unfold State.etherOut
  repeat' with_reducible first | assumption | apply Steps.ite | apply State.modNet_steps | apply State.emit_steps

theorem State.etherSend_steps {mu : Part → Prop} (mout : mu .out) (mnet : mu .net) {org s : State} (ho : Steps mu org s) (port : ℕ) (sub : ℕ) (cls : ℕ) (dst : ℕ) (etype : ℕ) (payload : List Sys2Proof.Byte) : Steps mu org (State.etherSend s port sub cls dst etype payload) := by
  unfold State.etherSend
  lift_lets
  intro z0; try clear_value z0
  repeat' with_reducible first | assumption | apply State.etherOut_steps

theorem State.fabricPut_steps {mu : Part → Prop} (mout : mu .out) (mnet : mu .net) {org s : State} (ho : Steps mu org s) (link : ℕ) (dst : ℕ) (ttl : ℕ) (frame : List Sys2Proof.Byte) : Steps mu org (State.fabricPut s link dst ttl frame) := by
  unfold State.fabricPut
  repeat' with_reducible first | assumption | apply State.etherSend_steps

theorem State.fabricOn_steps {mu : Part → Prop} (mout : mu .out) (mfab : mu .fab) (mnet : mu .net) {org s : State} (ho : Steps mu org s) (links : List ℕ) (kind : ℕ) (dst : ℕ) (ttl : ℕ) (payload : List Sys2Proof.Byte) : Steps mu org (State.fabricOn s links kind dst ttl payload) := by
  unfold State.fabricOn
  lift_lets
  intro z0; try clear_value z0
  intro z1; try clear_value z1
  intro z2
  try dsimp -zeta -zetaHave only [z2]
  intro z3
  have hz3 : Steps mu org z3 := by
    dsimp only [z3]
    repeat' with_reducible first | assumption | apply Steps.fab
  try clear_value z3
  repeat' with_reducible first | assumption | intro _ | apply Steps.foldl | apply State.fabricPut_steps

theorem State.fabricSend_steps {mu : Part → Prop} (mout : mu .out) (mfab : mu .fab) (mnet : mu .net) {org s : State} (ho : Steps mu org s) (kind : ℕ) (dst : ℕ) (ttl : ℕ) (payload : List Sys2Proof.Byte) : Steps mu org (State.fabricSend s kind dst ttl payload) := by
  unfold State.fabricSend
  repeat' with_reducible first | assumption | apply Steps.ite | apply State.fabricOn_steps | split

theorem State.halt_steps {mu : Part → Prop} (mout : mu .out) (mreck : mu .reck) (mmot : mu .mot) (mfab : mu .fab) (mnet : mu .net) {org s : State} (ho : Steps mu org s) (reason : ℕ) (ceiling : ℕ) : Steps mu org (State.halt s reason ceiling) := by
  unfold State.halt
  lift_lets
  intro z0
  have hz0 : Steps mu org z0 := by
    dsimp only [z0]
    repeat' with_reducible first | assumption | apply State.wr_steps
  try clear_value z0
  intro z1
  have hz1 : ∀ r t, Steps mu r t → Steps mu r (z1 t) := by
    dsimp only [z1]
    repeat' with_reducible first | assumption | intro _ | apply State.wr_steps | apply Steps.mot
  try clear_value z1
  intro z2
  have hz2 : ∀ r t x1, Steps mu r t → Steps mu r (z2 t x1) := by
    dsimp only [z2]
    repeat' with_reducible first | assumption | intro _ | apply State.wr_steps
  try clear_value z2
  intro z3; try clear_value z3
  intro z4
  have hz4 : Steps mu org z4 := by
    dsimp only [z4]
    repeat' with_reducible first | assumption | apply hz2
  try clear_value z4
  intro z5
  have hz5 : Steps mu org z5 := by
    dsimp only [z5]
    repeat' with_reducible first | assumption | apply Steps.ite | apply State.autoReckon_steps | apply State.satInc_steps | apply State.raise_steps
  try clear_value z5
  intro z6
  try dsimp -zeta -zetaHave only [z6]
  repeat' with_reducible first | assumption | apply Steps.ite | apply State.wr_steps | apply State.autoReckon_steps | apply State.satInc_steps | apply State.raise_steps | apply State.fabricSend_steps | apply hz1 | apply hz2 | apply Steps.mot

theorem State.stopRequest_steps {mu : Part → Prop} (mout : mu .out) (mreck : mu .reck) (mmot : mu .mot) (mfab : mu .fab) (mnet : mu .net) {org s : State} (ho : Steps mu org s) (reason : ℕ) : Steps mu org (State.stopRequest s reason) := by
  unfold State.stopRequest
  repeat' with_reducible first | assumption | apply State.halt_steps

theorem State.openSwitch_steps {mu : Part → Prop} (mout : mu .out) (mpins : mu .pins) (mreck : mu .reck) (mmot : mu .mot) (mpak : mu .pak) (mary : mu .ary) (mfab : mu .fab) (mnet : mu .net) {org s : State} (ho : Steps mu org s) : Steps mu org s.openSwitch := by
  have h := Steps.upd (pins := { s.pins with permitLvl := false }) (ary := { s.ary with spoiled := true })
    (pak := { s.pak with aln := s.pak.aln.map fun r => { r with bad := if r.bad = 0 then 2 else r.bad } })
    (State.wr_steps ho Reg.GLB_PERMIT_REQ 0) (.inl mpins) (.inr rfl) (.inr rfl) (.inr rfl) (.inr rfl) (.inl mpak) (.inl mary) (.inr rfl)
    (.inr rfl) (.inr rfl) (.inr rfl) (.inr rfl) (.inr rfl) (.inr rfl) (.inr rfl) (.inr rfl) id (fun h => by simpa [Pak.shaped] using h) id id id id id
  exact Steps.ite (State.stopRequest_steps (by assumption) (by assumption) (by assumption) (by assumption) (by assumption) h _) h

theorem State.settle_steps {mu : Part → Prop} (mout : mu .out) (mpins : mu .pins) (mreck : mu .reck) (mmot : mu .mot) (mpak : mu .pak) (mary : mu .ary) (mfab : mu .fab) (mnet : mu .net) {r s : State} (h : Steps mu r s) : Steps mu r s.settle := by
  unfold settle; split
  · exact State.raise_steps (by assumption) (State.openSwitch_steps (by assumption) (by assumption) (by assumption) (by assumption) (by assumption) (by assumption) (by assumption) (by assumption) h) _ _
  · exact h

theorem State.wordsGood_steps {mu : Part → Prop} (mmem : mu .mem) {org s : State} (ho : Steps mu org s) (cs : List ℕ) : Steps mu org (State.wordsGood s cs) := by
  unfold State.wordsGood
  lift_lets
  intro z0
  try dsimp -zeta -zetaHave only [z0]
  repeat' with_reducible first | assumption | (intro (hh : MemCtl.shaped _); first | (simpa [MemCtl.shaped, setAt, modAt] using hh; done) | (simp [MemCtl.shaped, setAt, modAt] at hh ⊢; omega)) | apply Steps.mem

theorem State.missed_steps {mu : Part → Prop} (mout : mu .out) {org s : State} (ho : Steps mu org s) (whole : List ℕ) (c : ℕ) : Steps mu org (State.missed s whole c) := by
  unfold State.missed
  lift_lets
  intro z0; try clear_value z0
  repeat' with_reducible first | assumption | apply Steps.ite | apply State.raise_steps | apply State.satInc_steps

theorem State.hbmStore_steps {mu : Part → Prop} (mhbm : mu .hbm) (mout : mu .out) (mmem : mu .mem) {q s : State} (hq : Steps mu q s) (a : Nat) (l : List Byte) : Steps mu q (s.hbmStore a l) := by
  unfold State.hbmStore
  refine Steps.foldl (fun _ _ c h => State.missed_steps (by assumption) h _ c) (State.wordsGood_steps (by assumption) (Steps.updAll hq id (fun h => Memory.wf_foldl (fun _ _ h => Memory.wf_writePart _ _ _ h) h) (.inl mhbm)
    (.inr rfl) (.inr rfl) (.inr rfl) (.inr rfl) (.inr rfl) (.inr rfl) (.inr rfl) (.inr rfl) (.inr rfl) (.inr rfl) (.inr rfl) (.inr rfl) (.inr rfl) (.inr rfl) (.inr rfl) (.inr rfl) id id id id id id id) _)

theorem State.modPlan_steps {mu : Part → Prop} (ming : mu .ing) {org s : State} (ho : Steps mu org s) (f : Plan → Plan) : Steps mu org (State.modPlan s f) := by
  unfold State.modPlan
  lift_lets
  intro z0
  try dsimp -zeta -zetaHave only [z0]
  repeat' with_reducible first | assumption | (intro (hh : Ing.shaped _); first | (simpa [Ing.shaped, setAt, modAt] using hh; done) | (simp [Ing.shaped, setAt, modAt] at hh ⊢; omega)) | split | apply Steps.ing

theorem State.showQueue_steps {mu : Part → Prop} {org s : State} (ho : Steps mu org s)  : Steps mu org (State.showQueue s) := by
  unfold State.showQueue
  repeat' with_reducible first | assumption | apply State.wrs_steps

theorem State.cellarPut_steps {mu : Part → Prop} {org s : State} (ho : Steps mu org s) (a : ℕ) (l : List Sys2Proof.Byte) : Steps mu org (State.cellarPut s a l) := by
  unfold State.cellarPut
  repeat' with_reducible first | assumption | intro _ | apply Steps.foldl | apply State.wr_steps

theorem State.ledShow_steps {mu : Part → Prop} (mout : mu .out) {org s : State} (ho : Steps mu org s)  : Steps mu org (State.ledShow s) := by
  unfold State.ledShow
  lift_lets
  intro z0; try clear_value z0
  intro z1
  have hz1 : Steps mu org z1 := by
    dsimp only [z1]
    repeat' with_reducible first | assumption | apply State.wrs_steps
  try clear_value z1
  repeat' with_reducible first | assumption | apply Steps.ite | apply State.raise_steps | apply State.satInc_steps

theorem State.record_steps {mu : Part → Prop} (mout : mu .out) (mled : mu .led) {org s : State} (ho : Steps mu org s) (kind : ℕ) (flags : ℕ) (wseq : ℕ) (stripe : ℕ) (body : List Sys2Proof.Byte) (fresh : Bool) : Steps mu org (State.record s kind flags wseq stripe body fresh) := by
  unfold State.record
  lift_lets
  intro z0; try clear_value z0
  intro z1; try clear_value z1
  intro z2; try clear_value z2
  intro z3
  try dsimp -zeta -zetaHave only [z3]
  intro z4
  have hz4 : Steps mu org z4 := by
    dsimp only [z4]
    repeat' with_reducible first | assumption | apply Steps.led
  try clear_value z4
  intro z5
  have hz5 : Steps mu org z5 := by
    dsimp only [z5]
    repeat' with_reducible first | assumption | apply State.cellarPut_steps
  try clear_value z5
  intro z6
  have hz6 : Steps mu org z6 := by
    dsimp only [z6]
    repeat' with_reducible first | assumption | intro _ | apply Steps.foldl | apply State.wr_steps
  try clear_value z6
  repeat' with_reducible first | assumption | apply Steps.ite | apply State.ledShow_steps | apply State.raise_steps

theorem State.modSeg_steps {mu : Part → Prop} (mled : mu .led) {org s : State} (ho : Steps mu org s) (wseq : ℕ) (j : ℕ) (f : SegCounts → SegCounts) : Steps mu org (State.modSeg s wseq j f) := by
  unfold State.modSeg
  lift_lets
  intro z0
  try dsimp -zeta -zetaHave only [z0]
  repeat' with_reducible first | assumption | apply Steps.led

theorem State.segRecord_steps {mu : Part → Prop} (mfree : mu .free) (mout : mu .out) (ming : mu .ing) (mled : mu .led) {org s : State} (ho : Steps mu org s) (w : Waybill) (p : Plan) (j : ℕ) (last : ℕ) (slot : Option ℕ) (part : Bool) : Steps mu org (State.segRecord s w p j last slot part) := by
  unfold State.segRecord
  lift_lets
  intro z0; try clear_value z0
  intro z1
  have hz1 : Steps mu org z1.2 := by
    dsimp only [z1]
    repeat' with_reducible first | assumption | apply State.draw_steps | split
  try clear_value z1
  intro z2
  have hz2 : Steps mu org z2 := by
    dsimp only [z2]
    repeat' with_reducible assumption
  try clear_value z2
  intro z3; try clear_value z3
  intro z4
  have hz4 : Steps mu org z4 := by
    dsimp only [z4]
    repeat' with_reducible first | assumption | apply State.modSeg_steps | apply State.record_steps
  try clear_value z4
  intro z5
  try dsimp -zeta -zetaHave only [z5]
  repeat' with_reducible first | assumption | (intro (hh : Ing.shaped _); first | (simpa [Ing.shaped, setAt, modAt] using hh; done) | (simp [Ing.shaped, setAt, modAt] at hh ⊢; omega)) | apply Steps.ing

theorem State.openRecord_steps {mu : Part → Prop} (mout : mu .out) (mled : mu .led) {org s : State} (ho : Steps mu org s) (w : Waybill) (p : Plan) : Steps mu org (State.openRecord s w p) := by
  unfold State.openRecord
  lift_lets
  intro z0; try clear_value z0
  intro z1; try clear_value z1
  intro z2; try clear_value z2
  intro z3; try clear_value z3
  intro z4
  try dsimp -zeta -zetaHave only [z4]
  intro z5
  have hz5 : Steps mu org z5 := by
    dsimp only [z5]
    repeat' with_reducible first | assumption | split | apply Steps.led
  try clear_value z5
  repeat' with_reducible first | assumption | apply Steps.ite | apply State.record_steps

theorem State.closeRecord_steps {mu : Part → Prop} (mout : mu .out) (mled : mu .led) {org s : State} (ho : Steps mu org s) (w : Waybill) (p : Plan) (ending : ℕ) (h : ℕ) : Steps mu org (State.closeRecord s w p ending h) := by
  unfold State.closeRecord
  lift_lets
  intro z0; try clear_value z0
  intro z1; try clear_value z1
  intro z2
  try dsimp -zeta -zetaHave only [z2]
  intro z3
  have hz3 : Steps mu org z3 := by
    dsimp only [z3]
    repeat' with_reducible first | assumption | apply Steps.led
  try clear_value z3
  intro z4
  have hz4 : Steps mu org z4 := by
    dsimp only [z4]
    repeat' with_reducible first | assumption | apply State.record_steps
  try clear_value z4
  intro z5
  try dsimp -zeta -zetaHave only [z5]
  repeat' with_reducible first | assumption | apply Steps.ite | apply State.ledShow_steps | apply State.raise_steps | apply Steps.led

theorem State.closeNow_steps {mu : Part → Prop} (mfree : mu .free) (mout : mu .out) (ming : mu .ing) (mled : mu .led) {org s : State} (ho : Steps mu org s) (w : Waybill) (p : Plan) (h : ℕ) : Steps mu org (State.closeNow s w p h) := by
  unfold State.closeNow
  lift_lets
  intro z0
  try dsimp -zeta -zetaHave only [z0]
  intro z1; try clear_value z1
  intro z2
  have hz2 : Steps mu org z2 := by
    dsimp only [z2]
    repeat' with_reducible first | assumption | intro _ | apply Steps.foldl | apply Steps.ite | apply State.segRecord_steps
  try clear_value z2
  repeat' with_reducible first | assumption | apply State.closeRecord_steps

theorem State.closeAbandoned_steps {mu : Part → Prop} (mfree : mu .free) (mout : mu .out) (ming : mu .ing) (mled : mu .led) {org s : State} (ho : Steps mu org s) (w : Waybill) (p : Plan) (h : ℕ) : Steps mu org (State.closeAbandoned s w p h) := by
  unfold State.closeAbandoned
  lift_lets
  intro z0
  try dsimp -zeta -zetaHave only [z0]
  repeat' with_reducible first | assumption | apply Steps.ite | apply State.closeNow_steps | apply Steps.led

theorem State.mapRecord_steps {mu : Part → Prop} (mout : mu .out) (mled : mu .led) {org s : State} (ho : Steps mu org s) (h : ℕ) (crc : ℕ) (aborted : Bool) : Steps mu org (State.mapRecord s h crc aborted) := by
  unfold State.mapRecord
  lift_lets
  intro z0
  try dsimp -zeta -zetaHave only [z0]
  intro z1
  have hz1 : Steps mu org z1 := by
    dsimp only [z1]
    repeat' with_reducible first | assumption | apply Steps.led
  try clear_value z1
  repeat' with_reducible first | assumption | apply State.record_steps | split

theorem State.gapRecord_steps {mu : Part → Prop} (mout : mu .out) (mled : mu .led) {org s : State} (ho : Steps mu org s) (lseq : ℕ) (count : ℕ) : Steps mu org (State.gapRecord s lseq count) := by
  unfold State.gapRecord
  repeat' with_reducible first | assumption | apply State.record_steps

theorem State.lossRecords_steps {mu : Part → Prop} (mfree : mu .free) (mout : mu .out) (ming : mu .ing) (mled : mu .led) {org s : State} (ho : Steps mu org s)  : Steps mu org (State.lossRecords s) := by
  unfold State.lossRecords
  lift_lets
  intro z0
  try dsimp -zeta -zetaHave only [z0]
  intro z1
  have hz1 : Steps mu org z1 := by
    dsimp only [z1]
    repeat' with_reducible first | assumption | apply Steps.led
  try clear_value z1
  repeat' with_reducible first | assumption | intro _ | apply Steps.foldl | apply Steps.ite | apply State.gapRecord_steps | apply State.closeNow_steps | split

theorem execLedgerRecordWrite_steps (s : State) : Next (fun k => k ∈ [Part.hbm, Part.out, Part.mem, Part.led]) s (execLedgerRecordWrite s) := by
  unfold execLedgerRecordWrite
  lift_lets
  intro z0; try clear_value z0
  intro z1; try clear_value z1
  intro z2
  try dsimp -zeta -zetaHave only [z2]
  repeat' with_reducible first | exact Steps.refl _ _ | apply Next.done | apply State.hbmStore_steps | apply State.ledShow_steps | apply State.wr_steps | apply State.raiseIf_steps | split | dsimp only | apply Steps.led | decide

theorem State.ledRdWrite_steps {mu : Part → Prop} (mout : mu .out) {org s : State} (ho : Steps mu org s) (v : ℕ) : Steps mu org (State.ledRdWrite s v) := by
  unfold State.ledRdWrite
  repeat' with_reducible first | assumption | apply Steps.ite | apply State.raise_steps | apply State.wr_steps

theorem execLedRdWrite_steps (agent : Sys2Proof.Agent) (value : Sys2Proof.Word) (s : State) : Next (fun k => k ∈ [Part.out, Part.reck]) s (execLedRdWrite agent value s) := by
  unfold execLedRdWrite
  repeat' with_reducible first | assumption | intro _ | exact Steps.refl _ _ | apply Next.done | apply State.access_steps | apply State.ledRdWrite_steps | decide

theorem State.ledStart_steps {mu : Part → Prop} (mfree : mu .free) (mout : mu .out) (mled : mu .led) {org s : State} (ho : Steps mu org s)  : Steps mu org (State.ledStart s) := by
  unfold State.ledStart
  lift_lets
  intro z0; try clear_value z0
  intro z1
  try dsimp -zeta -zetaHave only [z1]
  intro z2; try clear_value z2
  intro z3; try clear_value z3
  intro z4
  have hz4 : Steps mu org z4 := by
    dsimp only [z4]
    repeat' with_reducible first | assumption | apply Steps.ite | apply State.wrs_steps
  try clear_value z4
  intro z5
  try dsimp -zeta -zetaHave only [z5]
  intro z6
  have hz6 : Steps mu org z6 := by
    dsimp only [z6]
    repeat' with_reducible first | assumption | split | apply Steps.led
  try clear_value z6
  intro z7
  have hz7 : Steps mu org z7 := by
    dsimp only [z7]
    repeat' with_reducible first | assumption | intro _ | apply Steps.foldl | apply State.wr_steps
  try clear_value z7
  intro z8
  have hz8 : Steps mu org z8.2 := by
    dsimp only [z8]
    repeat' with_reducible first | assumption | apply State.draw_steps
  try clear_value z8
  intro z9
  have hz9 : Steps mu org z9.2 := by
    dsimp only [z9]
    repeat' with_reducible first | assumption | apply State.draw_steps
  try clear_value z9
  intro z10
  have hz10 : Steps mu org z10.2 := by
    dsimp only [z10]
    repeat' with_reducible first | assumption | apply State.draw_steps
  try clear_value z10
  intro z11
  have hz11 : Steps mu org z11 := by
    dsimp only [z11]
    repeat' with_reducible first | assumption | apply State.record_steps
  try clear_value z11
  intro z12
  try dsimp -zeta -zetaHave only [z12]
  repeat' with_reducible first | assumption | apply Steps.ite | apply State.ledShow_steps | apply State.wrs_steps | apply State.raise_steps | apply Steps.led

theorem State.ledFlush_steps {mu : Part → Prop} {org s : State} (ho : Steps mu org s)  : Steps mu org (State.ledFlush s) := by
  unfold State.ledFlush
  repeat' with_reducible first | assumption | apply Steps.ite | apply State.wr_steps | apply State.cellarPut_steps

theorem State.ledReset_steps {mu : Part → Prop} (mled : mu .led) {org s : State} (ho : Steps mu org s)  : Steps mu org (State.ledReset s) := by
  unfold State.ledReset
  repeat' with_reducible first | assumption | apply Steps.led

theorem State.modMot_steps {mu : Part → Prop} (mmot : mu .mot) {org s : State} (ho : Steps mu org s) (f : Mot → Mot) : Steps mu org (State.modMot s f) := by
  unfold State.modMot
  repeat' with_reducible first | assumption | apply Steps.mot

theorem State.motShow_steps {mu : Part → Prop} {org s : State} (ho : Steps mu org s)  : Steps mu org (State.motShow s) := by
  unfold State.motShow
  repeat' with_reducible first | assumption | apply State.setRunning_steps

theorem State.alignCheck_steps {mu : Part → Prop} (mout : mu .out) (mreck : mu .reck) {org s : State} (ho : Steps mu org s)  : Steps mu org (State.alignCheck s) := by
  unfold State.alignCheck
  repeat' with_reducible first | assumption | apply Steps.ite | apply State.setFault_steps

theorem State.lateCheck_steps {mu : Part → Prop} (mout : mu .out) (mmot : mu .mot) {org s : State} (ho : Steps mu org s)  : Steps mu org (State.lateCheck s) := by
  unfold State.lateCheck
  repeat' with_reducible first | assumption | apply Steps.ite | apply State.wr_steps | apply State.modMot_steps | apply State.satInc_steps | apply State.raise_steps | split

theorem State.startTrajectory_steps {mu : Part → Prop} (mmot : mu .mot) {org s : State} (ho : Steps mu org s)  : Steps mu org (State.startTrajectory s) := by
  unfold State.startTrajectory
  repeat' with_reducible first | assumption | apply Steps.ite | apply State.motShow_steps | apply State.modMot_steps | split

theorem State.endTrajectory_steps {mu : Part → Prop} (mmot : mu .mot) {org s : State} (ho : Steps mu org s)  : Steps mu org (State.endTrajectory s) := by
  unfold State.endTrajectory
  repeat' with_reducible first | assumption | apply State.motShow_steps | apply State.modMot_steps

theorem State.moveToRunup_steps {mu : Part → Prop} (mmot : mu .mot) {org s : State} (ho : Steps mu org s)  : Steps mu org (State.moveToRunup s) := by
  unfold State.moveToRunup
  repeat' with_reducible first | assumption | apply State.modMot_steps | split

theorem State.becomeCurrent_steps {mu : Part → Prop} (mmot : mu .mot) {org s : State} (ho : Steps mu org s)  : Steps mu org (State.becomeCurrent s) := by
  unfold State.becomeCurrent
  lift_lets
  intro z0
  have hz0 : Steps mu org z0 := by
    dsimp only [z0]
    repeat' with_reducible first | assumption | apply State.modMot_steps | apply State.wr_steps
  try clear_value z0
  intro z1
  have hz1 : Steps mu org z1 := by
    dsimp only [z1]
    repeat' with_reducible first | assumption | apply State.wr_steps
  try clear_value z1
  repeat' with_reducible first | assumption | apply Steps.ite | apply State.modMot_steps | apply State.moveToRunup_steps | apply State.startTrajectory_steps

theorem State.endMove_steps {mu : Part → Prop} (mout : mu .out) (mmot : mu .mot) {org s : State} (ho : Steps mu org s)  : Steps mu org (State.endMove s) := by
  unfold State.endMove
  lift_lets
  intro z0
  have hz0 : Steps mu org z0 := by
    dsimp only [z0]
    repeat' with_reducible first | assumption | apply State.raise_steps | apply State.endTrajectory_steps | apply State.wr_steps
  try clear_value z0
  repeat' with_reducible first | assumption | apply Steps.ite | apply State.becomeCurrent_steps

theorem State.atRest_steps {mu : Part → Prop} (mmot : mu .mot) (mled : mu .led) {org s : State} (ho : Steps mu org s)  : Steps mu org (State.atRest s) := by
  unfold State.atRest
  lift_lets
  intro z0; try clear_value z0
  intro z1
  have hz1 : Steps mu org z1 := by
    dsimp only [z1]
    repeat' with_reducible first | assumption | apply State.wr_steps
  try clear_value z1
  intro z2; try clear_value z2
  repeat' with_reducible first | assumption | apply Steps.ite | apply State.wr_steps | apply State.modSeg_steps | apply State.modMot_steps | split

theorem State.startRunup_steps {mu : Part → Prop} (mmot : mu .mot) {org s : State} (ho : Steps mu org s)  : Steps mu org (State.startRunup s) := by
  unfold State.startRunup
  lift_lets
  intro z0; try clear_value z0
  repeat' with_reducible first | assumption | apply State.modMot_steps | apply State.wr_steps | split

theorem State.dropPass_steps {mu : Part → Prop} (ming : mu .ing) {org s : State} (ho : Steps mu org s) (i : ℕ) : Steps mu org (State.dropPass s i) := by
  unfold State.dropPass
  lift_lets
  intro z0
  try dsimp -zeta -zetaHave only [z0]
  intro z1
  try dsimp -zeta -zetaHave only [z1]
  repeat' with_reducible first | assumption | (intro (hh : Ing.shaped _); first | (simpa [Ing.shaped, setAt, modAt] using hh; done) | (simp [Ing.shaped, setAt, modAt] at hh ⊢; omega)) | apply Steps.ing

theorem State.freeTrv_steps {mu : Part → Prop} (ming : mu .ing) {org s : State} (ho : Steps mu org s) (i : ℕ) : Steps mu org (State.freeTrv s i) := by
  unfold State.freeTrv
  lift_lets
  intro z0
  have hz0 : Steps mu org z0 := by
    dsimp only [z0]
    repeat' with_reducible first | assumption | apply State.dropPass_steps
  try clear_value z0
  intro z1
  try dsimp -zeta -zetaHave only [z1]
  repeat' with_reducible first | assumption | (intro (hh : Ing.shaped _); first | (simpa [Ing.shaped, setAt, modAt] using hh; done) | (simp [Ing.shaped, setAt, modAt] at hh ⊢; omega)) | apply Steps.ing

theorem State.freeStripe_steps {mu : Part → Prop} (ming : mu .ing) {org s : State} (ho : Steps mu org s) (wseq : ℕ) : Steps mu org (State.freeStripe s wseq) := by
  unfold State.freeStripe
  repeat' with_reducible first | assumption | intro _ | apply Steps.foldl | apply Steps.ite | apply State.freeTrv_steps | split

theorem State.bankShow_steps {mu : Part → Prop} (malc : mu .alc) {org s : State} (ho : Steps mu org s)  : Steps mu org (State.bankShow s) := by
  unfold State.bankShow
  lift_lets
  intro z0; try clear_value z0
  intro z1; try clear_value z1
  intro z2
  have hz2 : Steps mu org z2 := by
    dsimp only [z2]
    repeat' with_reducible first | assumption | apply State.wr_steps
  try clear_value z2
  intro z3
  have hz3 : Steps mu org z3 := by
    dsimp only [z3]
    repeat' with_reducible first | assumption | apply State.wr_steps
  try clear_value z3
  intro z4
  try dsimp -zeta -zetaHave only [z4]
  intro z5
  have hz5 : Steps mu org z5 := by
    dsimp only [z5]
    repeat' with_reducible first | assumption | apply Steps.ite | apply Steps.alc
  try clear_value z5
  repeat' with_reducible first | assumption | apply State.wr_steps

theorem State.armShow_steps {mu : Part → Prop} (malc : mu .alc) {org s : State} (ho : Steps mu org s)  : Steps mu org (State.armShow s) := by
  unfold State.armShow
  repeat' with_reducible first | assumption | apply State.setRunning_steps | apply State.motShow_steps | apply State.bankShow_steps | apply State.showQueue_steps

theorem State.alcClear_steps {mu : Part → Prop} (malc : mu .alc) {org s : State} (ho : Steps mu org s)  : Steps mu org (State.alcClear s) := by
  unfold State.alcClear
  lift_lets
  intro z0
  have hz0 : Steps mu org z0 := by
    dsimp only [z0]
    repeat' with_reducible first | assumption | apply State.wr_steps
  try clear_value z0
  intro z1
  try dsimp -zeta -zetaHave only [z1]
  repeat' with_reducible first | assumption | apply Steps.alc

theorem State.closeStreams_steps {mu : Part → Prop} (mpak : mu .pak) {org s : State} (ho : Steps mu org s) : Steps mu org s.closeStreams :=
  Steps.pak (State.wr_steps ho _ _) mpak fun h => by simpa [Pak.shaped] using h

theorem State.dropHead_steps {mu : Part → Prop} (mmot : mu .mot) (ming : mu .ing) (malc : mu .alc) (mpak : mu .pak) {org s : State} (ho : Steps mu org s)  : Steps mu org (State.dropHead s) := by
  unfold State.dropHead
  lift_lets
  intro z0
  try dsimp -zeta -zetaHave only [z0]
  intro z1
  have hz1 : Steps mu org z1 := by
    dsimp only [z1]
    repeat' with_reducible first | assumption | (intro (hh : Ing.shaped _); first | (simpa [Ing.shaped, setAt, modAt] using hh; done) | (simp [Ing.shaped, setAt, modAt] at hh ⊢; omega)) | apply State.closeStreams_steps | apply State.alcClear_steps | apply Steps.ing
  try clear_value z1
  repeat' with_reducible first | assumption | apply Steps.ite | apply State.armShow_steps | apply State.becomeCurrent_steps | apply State.modMot_steps | apply State.wr_steps

theorem State.abandon_steps {mu : Part → Prop} (mfree : mu .free) (mout : mu .out) (mreck : mu .reck) (mmot : mu .mot) (ming : mu .ing) (malc : mu .alc) (mpak : mu .pak) (mled : mu .led) {org s : State} (ho : Steps mu org s) (h : ℕ) : Steps mu org (State.abandon s h) := by
  unfold State.abandon
  repeat' with_reducible first | assumption | apply Steps.ite | apply State.freeStripe_steps | apply State.closeAbandoned_steps | apply State.raise_steps | apply State.wr_steps | apply State.modMot_steps | apply State.dropHead_steps | apply State.autoReckon_steps | split

theorem State.dropSecond_steps {mu : Part → Prop} (mfree : mu .free) (mout : mu .out) (ming : mu .ing) (malc : mu .alc) (mled : mu .led) {org s : State} (ho : Steps mu org s)  : Steps mu org (State.dropSecond s) := by
  unfold State.dropSecond
  repeat' with_reducible first | assumption | (intro (hh : Ing.shaped _); first | (simpa [Ing.shaped, setAt, modAt] using hh; done) | (simp [Ing.shaped, setAt, modAt] at hh ⊢; omega)) | apply State.freeStripe_steps | apply State.closeAbandoned_steps | apply State.armShow_steps | apply State.wr_steps | split | dsimp only | apply Steps.ing

theorem State.gapRequests_steps {mu : Part → Prop} (mmot : mu .mot) (mpak : mu .pak) {org s : State} (ho : Steps mu org s)  : Steps mu org (State.gapRequests s) := by
  unfold State.gapRequests
  lift_lets
  intro z0; try clear_value z0
  intro z1; try clear_value z1
  intro z2; try clear_value z2
  intro z3; try clear_value z3
  intro z4; try clear_value z4
  intro z5
  try dsimp -zeta -zetaHave only [z5]
  intro z6
  try dsimp -zeta -zetaHave only [z6]
  repeat' with_reducible first | assumption | (apply Or.inl; first | assumption | decide) | exact Or.inr rfl | exact id | (intro (hh : Pak.shaped _); first | (simpa [Pak.shaped, setAt, modAt] using hh; done) | (simp [Pak.shaped, setAt, modAt] at hh ⊢; omega)) | fail_if_no_progress apply Steps.upd

theorem State.haltShow_steps {mu : Part → Prop} {org s : State} (ho : Steps mu org s)  : Steps mu org (State.haltShow s) := by
  unfold State.haltShow
  repeat' with_reducible first | assumption | apply State.wr_steps

theorem State.haltCleared_steps {mu : Part → Prop} {org s : State} (ho : Steps mu org s)  : Steps mu org (State.haltCleared s) := by
  unfold State.haltCleared
  repeat' with_reducible first | assumption | apply Steps.ite | apply State.haltShow_steps

theorem State.turnStep_steps {mu : Part → Prop} (mmot : mu .mot) (mpak : mu .pak) {org s : State} (ho : Steps mu org s)  : Steps mu org (State.turnStep s) := by
  unfold State.turnStep
  lift_lets
  intro z0
  have hz0 : Steps mu org z0 := by
    dsimp only [z0]
    repeat' with_reducible first | assumption | apply State.haltShow_steps | apply State.modMot_steps | apply State.wr_steps
  try clear_value z0
  repeat' with_reducible first | assumption | apply Steps.ite | apply State.modMot_steps | apply State.wr_steps | apply State.gapRequests_steps | split

theorem State.posLost_steps {mu : Part → Prop} (mout : mu .out) (mreck : mu .reck) (mmot : mu .mot) (mfab : mu .fab) (mnet : mu .net) {org s : State} (ho : Steps mu org s)  : Steps mu org (State.posLost s) := by
  unfold State.posLost
  lift_lets
  intro z0
  have hz0 : Steps mu org z0 := by
    dsimp only [z0]
    repeat' with_reducible first | assumption | apply State.modMot_steps | apply State.raise_steps | apply State.setFault_steps
  try clear_value z0
  repeat' with_reducible first | assumption | apply State.wr_steps | apply State.stopRequest_steps

theorem State.posValid_steps {mu : Part → Prop} (mout : mu .out) (mmot : mu .mot) {org s : State} (ho : Steps mu org s)  : Steps mu org (State.posValid s) := by
  unfold State.posValid
  lift_lets
  intro z0
  have hz0 : Steps mu org z0 := by
    dsimp only [z0]
    repeat' with_reducible first | assumption | apply State.raise_steps | apply State.wr_steps
  try clear_value z0
  repeat' with_reducible first | assumption | apply Steps.ite | apply State.moveToRunup_steps | apply State.startTrajectory_steps

theorem State.autoClear_steps {mu : Part → Prop} {org s : State} (ho : Steps mu org s)  : Steps mu org (State.autoClear s) := by
  unfold State.autoClear
  lift_lets
  intro z0; try clear_value z0
  intro z1
  have hz1 : Steps mu org z1 := by
    dsimp only [z1]
    repeat' with_reducible first | assumption | apply Steps.ite | apply State.wr_steps
  try clear_value z1
  intro z2
  have hz2 : Steps mu org z2 := by
    dsimp only [z2]
    repeat' with_reducible first | assumption | apply Steps.ite | apply State.wr_steps | split
  try clear_value z2
  repeat' with_reducible first | assumption | apply State.haltCleared_steps

theorem State.modTrv_steps {mu : Part → Prop} (ming : mu .ing) {org s : State} (ho : Steps mu org s) (i : ℕ) (f : Traveller → Traveller) : Steps mu org (State.modTrv s i f) := by
  unfold State.modTrv
  lift_lets
  intro z0
  try dsimp -zeta -zetaHave only [z0]
  repeat' with_reducible first | assumption | (intro (hh : Ing.shaped _); first | (simpa [Ing.shaped, setAt, modAt] using hh; done) | (simp [Ing.shaped, setAt, modAt] at hh ⊢; omega)) | apply Steps.ing

theorem State.markTrv_steps {mu : Part → Prop} (mout : mu .out) (ming : mu .ing) {org s : State} (ho : Steps mu org s) (i : ℕ) : Steps mu org (State.markTrv s i) := by
  unfold State.markTrv
  lift_lets
  intro z0; try clear_value z0
  intro z1
  have hz1 : ∀ r t, Steps mu r t → Steps mu r (z1 t) := by
    dsimp only [z1]
    repeat' with_reducible first | assumption | intro _ | apply State.raise_steps | apply State.satInc_steps
  try clear_value z1
  repeat' with_reducible first | assumption | apply Steps.ite | apply State.modTrv_steps | apply hz1 | split

theorem State.markRecompute_steps {mu : Part → Prop} (mout : mu .out) (ming : mu .ing) {org s : State} (ho : Steps mu org s) (wseq : ℕ) (j : ℕ) : Steps mu org (State.markRecompute s wseq j) := by
  unfold State.markRecompute
  repeat' with_reducible first | assumption | apply State.markTrv_steps | split

theorem State.ingShow_steps {mu : Part → Prop} {org s : State} (ho : Steps mu org s)  : Steps mu org (State.ingShow s) := by
  unfold State.ingShow
  repeat' with_reducible first | assumption | apply State.setRunning_steps

theorem State.modLay_steps {mu : Part → Prop} (ming : mu .ing) {org s : State} (ho : Steps mu org s) (h : ℕ) (f : Layout → Layout) : Steps mu org (State.modLay s h f) := by
  unfold State.modLay
  lift_lets
  intro z0
  try dsimp -zeta -zetaHave only [z0]
  repeat' with_reducible first | assumption | (intro (hh : Ing.shaped _); first | (simpa [Ing.shaped, setAt, modAt] using hh; done) | (simp [Ing.shaped, setAt, modAt] at hh ⊢; omega)) | apply Steps.ing

end Sys2Proof.Machine
end

