-- ==== Sys2Proof/Laws/StepsMotion.lean ====
section
/-!
SUPPORT. What each operation and each meaning of allocation and motion can change.
-/
set_option linter.all false
open Sys2Proof (Agent)

namespace Sys2Proof.Machine

theorem State.itinStore_steps {mu : Part → Prop} (mout : mu .out) {org s : State} (ho : Steps mu org s) (i : ℕ) (r : ℕ) (v : ℕ) : Steps mu org (State.itinStore s i r v).2 := by
  unfold State.itinStore
  repeat' with_reducible first | assumption | apply State.raise_steps | apply State.wr_steps | split

theorem execItineraryWrite_steps (agent : Sys2Proof.Agent) (i : ℕ) (r : ℕ) (value : Sys2Proof.Word) (s : State) : Next (fun k => k ∈ [Part.out, Part.reck]) s (execItineraryWrite agent i r value s) := by
  unfold execItineraryWrite
  repeat' with_reducible first | assumption | intro _ | exact Steps.refl _ _ | apply Next.done | apply Next.ite | apply State.access_steps | apply State.itinStore_steps | decide

theorem State.btStore_steps {mu : Part → Prop} (mout : mu .out) {org s : State} (ho : Steps mu org s) (beam : ℕ) (word0 : Option ℕ) (word1 : Option ℕ) : Steps mu org (State.btStore s beam word0 word1).2 := by
  unfold State.btStore
  lift_lets
  intro z0; try clear_value z0
  intro z1; try clear_value z1
  intro z2
  have hz2 : Steps mu org z2 := by
    dsimp only [z2]
    repeat' with_reducible first | assumption | apply Steps.ite | apply State.btInject_steps
  try clear_value z2
  intro z3
  have hz3 : Steps mu org z3 := by
    dsimp only [z3]
    repeat' with_reducible first | assumption | apply State.wr_steps | split
  try clear_value z3
  repeat' with_reducible first | assumption | apply State.raise_steps | apply State.wr_steps | split

theorem execBeamTableWrite_steps (agent : Sys2Proof.Agent) (beam : ℕ) (word0 : Option Sys2Proof.Word) (word1 : Option Sys2Proof.Word) (s : State) : Next (fun k => k ∈ [Part.out, Part.reck]) s (execBeamTableWrite agent beam word0 word1 s) := by
  unfold execBeamTableWrite
  repeat' with_reducible first | assumption | intro _ | exact Steps.refl _ _ | apply Next.done | apply Next.ite | apply State.access_steps | apply State.btStore_steps | decide

theorem State.swap_steps {mu : Part → Prop} (mout : mu .out) (malc : mu .alc) {org s : State} (ho : Steps mu org s)  : Steps mu org (State.swap s) := by
  unfold State.swap
  repeat' with_reducible first | assumption | apply Steps.ite | apply State.bankShow_steps | apply State.wr_steps | apply State.raise_steps

theorem execSwap_steps (agent : Sys2Proof.Agent) (s : State) : Next (fun k => k ∈ [Part.out, Part.reck, Part.alc]) s (execSwap agent s) := by
  unfold execSwap
  repeat' with_reducible first | assumption | intro _ | exact Steps.refl _ _ | apply Next.done | apply State.access_steps | apply State.swap_steps | decide

theorem execCancel_steps (agent : Sys2Proof.Agent) (s : State) : Next (fun k => k ∈ [Part.out, Part.reck, Part.alc]) s (execCancel agent s) := by
  unfold execCancel
  repeat' with_reducible first | assumption | intro _ | exact Steps.refl _ _ | apply Next.done | apply State.access_steps | apply State.bankShow_steps | apply State.wr_steps | decide

theorem State.copyBank_steps {mu : Part → Prop} {org s : State} (ho : Steps mu org s) (src dst : Nat) : Steps mu org (s.copyBank src dst) := by
  refine Steps.regsOf ho fun h => ?_
  refine FieldStore.wf_foldl (fun r e hr => FieldStore.wf_put _ _ hr) ?_
  exact FieldStore.wf_sublist List.filter_sublist h

theorem execBankCopyComplete_steps (s : State) : Next (fun k => k ∈ [Part.out, Part.alc]) s (execBankCopyComplete s) := by
  unfold execBankCopyComplete
  lift_lets
  intro z0; try clear_value z0
  repeat' with_reducible first | exact Steps.refl _ _ | apply Next.done | apply Next.ite | apply State.bankShow_steps | apply State.raise_steps | apply State.wr_steps | apply State.copyBank_steps | apply State.btInject_steps | decide

theorem State.slotsShow_steps {mu : Part → Prop} (mout : mu .out) {org s : State} (ho : Steps mu org s)  : Steps mu org (State.slotsShow s) := by
  unfold State.slotsShow
  lift_lets
  intro z0
  have hz0 : Steps mu org z0 := by
    dsimp only [z0]
    repeat' with_reducible first | assumption | apply State.wr_steps
  try clear_value z0
  repeat' with_reducible first | assumption | apply Steps.ite | apply State.raise_steps

theorem State.geomWrite_steps {mu : Part → Prop} (mout : mu .out) {org s : State} (ho : Steps mu org s) (v : ℕ) : Steps mu org (State.geomWrite s v) := by
  unfold State.geomWrite
  lift_lets
  intro z0; try clear_value z0
  intro z1; try clear_value z1
  repeat' with_reducible first | assumption | apply Steps.ite | apply State.raise_steps | apply State.raiseIf_steps | apply State.slotsShow_steps | apply State.wr_steps

theorem execAlcGeomWrite_steps (agent : Sys2Proof.Agent) (value : Sys2Proof.Word) (s : State) : Next (fun k => k ∈ [Part.out, Part.reck]) s (execAlcGeomWrite agent value s) := by
  unfold execAlcGeomWrite
  repeat' with_reducible first | assumption | intro _ | exact Steps.refl _ _ | apply Next.done | apply State.access_steps | apply State.geomWrite_steps | decide

theorem State.countEvent_steps {mu : Part → Prop} (mout : mu .out) (mled : mu .led) {org s : State} (ho : Steps mu org s) (wseq : ℕ) (rs : List Result) (f : Result → Bool) (cnt : Fld) (bit : ℕ) (upd : SegCounts → ℕ → SegCounts) : Steps mu org (State.countEvent s wseq rs f cnt bit upd) := by
  unfold State.countEvent
  lift_lets
  intro z0; try clear_value z0
  intro z1
  have hz1 : Steps mu org z1 := by
    dsimp only [z1]
    repeat' with_reducible first | assumption | apply State.raise_steps | apply State.wrapInc_steps
  try clear_value z1
  intro z2
  try dsimp -zeta -zetaHave only [z2]
  repeat' with_reducible first | assumption | intro _ | apply Steps.foldl | apply Steps.ite | apply State.modSeg_steps

theorem State.takeTick_steps {mu : Part → Prop} (mout : mu .out) (malc : mu .alc) (mled : mu .led) {org s : State} (ho : Steps mu org s) (w : Waybill) (p : Plan) (t : ℕ) : Steps mu org (State.takeTick s w p t) := by
  unfold State.takeTick
  lift_lets
  intro z0; try clear_value z0
  intro z1; try clear_value z1
  intro z2; try clear_value z2
  intro z3
  have hz3 : Steps mu org z3 := by
    dsimp only [z3]
    repeat' with_reducible first | assumption | apply State.countEvent_steps
  try clear_value z3
  intro z4
  have hz4 : Steps mu org z4 := by
    dsimp only [z4]
    repeat' with_reducible first | assumption | apply State.countEvent_steps
  try clear_value z4
  intro z5
  have hz5 : Steps mu org z5 := by
    dsimp only [z5]
    repeat' with_reducible first | assumption | apply State.countEvent_steps
  try clear_value z5
  intro z6
  have hz6 : Steps mu org z6 := by
    dsimp only [z6]
    repeat' with_reducible first | assumption | apply State.countEvent_steps
  try clear_value z6
  intro z7
  have hz7 : Steps mu org z7 := by
    dsimp only [z7]
    repeat' with_reducible first | assumption | apply State.wr_steps
  try clear_value z7
  intro z8
  try dsimp -zeta -zetaHave only [z8]
  repeat' with_reducible first | assumption | apply Steps.alc

theorem State.readMarks_steps {mu : Part → Prop} (ming : mu .ing) {org s : State} (ho : Steps mu org s) (w : Waybill) (p : Plan) (t : ℕ) : Steps mu org (State.readMarks s w p t) := by
  unfold State.readMarks
  lift_lets
  intro z0
  try dsimp -zeta -zetaHave only [z0]
  intro z1
  try dsimp -zeta -zetaHave only [z1]
  repeat' with_reducible first | assumption | (intro (hh : Ing.shaped _); first | (simpa [Ing.shaped, setAt, modAt] using hh; done) | (simp [Ing.shaped, setAt, modAt] at hh ⊢; omega)) | dsimp only | apply Steps.ing

theorem State.showSeg_steps {mu : Part → Prop} (ming : mu .ing) {org s : State} (ho : Steps mu org s) (w : Waybill) (p : Plan) (t : Nat) : Steps mu org (s.showSeg w p t) :=
  Steps.ing (State.wr_steps ho _ _) ming fun h => by simpa [Ing.shaped] using h

theorem State.allocFails_steps {mu : Part → Prop} (mout : mu .out) (mreck : mu .reck) (mmot : mu .mot) (malc : mu .alc) (mfab : mu .fab) (mnet : mu .net) {org s : State} (ho : Steps mu org s) (bit : ℕ) (t : ℕ) : Steps mu org (State.allocFails s bit t) := by
  unfold State.allocFails
  lift_lets
  intro z0
  have hz0 : Steps mu org z0 := by
    dsimp only [z0]
    repeat' with_reducible first | assumption | apply State.setFault_steps
  try clear_value z0
  intro z1
  try dsimp -zeta -zetaHave only [z1]
  repeat' with_reducible first | assumption | apply State.halt_steps | apply Steps.alc

theorem State.computeTick_steps {mu : Part → Prop} (mout : mu .out) (ming : mu .ing) (malc : mu .alc) (mled : mu .led) {org s : State} (ho : Steps mu org s) (w : Waybill) (p : Plan) (t : ℕ) : Steps mu org (State.computeTick s w p t) := by
  unfold State.computeTick
  repeat' with_reducible first | assumption | apply State.showSeg_steps | apply State.readMarks_steps | apply State.takeTick_steps

theorem State.alcUpset_steps {mu : Part → Prop} {org s : State} (ho : Steps mu org s) (u : Sys2Proof.AlcUpset) : Steps mu org (State.alcUpset s u).2 := by
  unfold State.alcUpset
  repeat' with_reducible first | assumption | apply State.wr_steps | split

theorem execTickCompute_steps (upset : Sys2Proof.AlcUpset) (s : State) : Next (fun k => k ∈ [Part.out, Part.reck, Part.mot, Part.ing, Part.alc, Part.fab, Part.led, Part.net]) s (execTickCompute upset s) := by
  unfold execTickCompute
  lift_lets
  intro z0; try clear_value z0
  intro z1
  have hz1 : Steps (fun k => k ∈ [Part.out, Part.reck, Part.mot, Part.ing, Part.alc, Part.fab, Part.led, Part.net]) s z1 := by
    dsimp only [z1]
    repeat' with_reducible first | exact Steps.refl _ _ | apply State.alcUpset_steps | apply State.btInject_steps | decide
  try clear_value z1
  intro z2
  try dsimp -zeta -zetaHave only [z2]
  repeat' with_reducible first | assumption | exact Steps.refl _ _ | apply Next.done | apply Next.ite | apply State.markRecompute_steps | apply State.halt_steps | apply State.raise_steps | apply State.computeTick_steps | apply State.satInc_steps | apply State.allocFails_steps | split | apply Steps.alc | decide

theorem execPlanRebuild_steps (s : State) : Next (fun k => k ∈ [Part.alc]) s (execPlanRebuild s) := by
  unfold execPlanRebuild
  lift_lets
  intro z0
  try dsimp -zeta -zetaHave only [z0]
  repeat' with_reducible first | exact Steps.refl _ _ | apply Next.done | split | apply Steps.alc | decide

theorem execAllocatorResetAbandon_steps (s : State) : Next (fun k => k ∈ [Part.free, Part.out, Part.reck, Part.mot, Part.ing, Part.alc, Part.pak, Part.led]) s (execAllocatorResetAbandon s) := by
  unfold execAllocatorResetAbandon
  lift_lets
  intro z0
  try dsimp -zeta -zetaHave only [z0]
  intro z1
  have hz1 : Steps (fun k => k ∈ [Part.free, Part.out, Part.reck, Part.mot, Part.ing, Part.alc, Part.pak, Part.led]) s z1 := by
    dsimp only [z1]
    repeat' with_reducible first | exact Steps.refl _ _ | apply State.dropSecond_steps | apply Steps.alc | decide
  try clear_value z1
  repeat' with_reducible first | assumption | exact Steps.refl _ _ | apply Next.done | apply Next.ite | apply State.abandon_steps | split | apply Steps.alc | decide

theorem State.sendWord_steps {mu : Part → Prop} (mout : mu .out) (mmot : mu .mot) {org s : State} (ho : Steps mu org s) (τ : ℤ) (dx : ℤ) (dy : ℤ) (flags : ℕ) : Steps mu org (State.sendWord s τ dx dy flags) := by
  unfold State.sendWord
  repeat' with_reducible first | assumption | apply Steps.ite | apply State.modMot_steps | apply State.emit_steps

theorem State.deflect_steps {mu : Part → Prop} (mout : mu .out) (mreck : mu .reck) (mmot : mu .mot) (mfab : mu .fab) (mnet : mu .net) {org s : State} (ho : Steps mu org s) (τ : ℤ) : Steps mu org (State.deflect s τ) := by
  unfold State.deflect
  lift_lets
  intro z0; try clear_value z0
  intro z1; try clear_value z1
  repeat' with_reducible first | assumption | apply Steps.ite | apply State.sendWord_steps | apply State.stopRequest_steps | apply State.raise_steps | apply State.satInc_steps | split

theorem State.smpDiscard_steps {mu : Part → Prop} (mout : mu .out) (mmot : mu .mot) {org s : State} (ho : Steps mu org s) (counter : Fld) : Steps mu org (State.smpDiscard s counter) := by
  unfold State.smpDiscard
  repeat' with_reducible first | assumption | apply State.modMot_steps | apply State.raise_steps | apply State.satInc_steps

theorem State.disagree_steps {mu : Part → Prop} (mout : mu .out) (mreck : mu .reck) (mmot : mu .mot) (mfab : mu .fab) (mnet : mu .net) {org s : State} (ho : Steps mu org s)  : Steps mu org (State.disagree s) := by
  unfold State.disagree
  repeat' with_reducible first | assumption | apply State.posLost_steps | apply State.modMot_steps | apply State.raise_steps | apply State.setFault_steps

theorem State.showSample_steps {mu : Part → Prop} {org s : State} (ho : Steps mu org s) (k : Sample) : Steps mu org (State.showSample s k) := by
  unfold State.showSample
  lift_lets
  intro z0; try clear_value z0
  repeat' with_reducible first | assumption | apply State.wrs_steps

theorem State.hysteresis_steps {mu : Part → Prop} (mout : mu .out) (mreck : mu .reck) (mmot : mu .mot) (mfab : mu .fab) (mnet : mu .net) {org s : State} (ho : Steps mu org s) (w : Waybill) (y : ℤ) : Steps mu org (State.hysteresis s w y) := by
  unfold State.hysteresis
  repeat' with_reducible first | assumption | apply Steps.ite | apply State.modMot_steps | apply State.satInc_steps | apply State.posLost_steps | apply State.raise_steps | apply State.setFault_steps | split

theorem State.trigger_steps {mu : Part → Prop} (mmot : mu .mot) {org s : State} (ho : Steps mu org s) (w : Waybill) (p : Plan) : Steps mu org (State.trigger s w p) := by
  unfold State.trigger
  lift_lets
  intro z0; try clear_value z0
  intro z1; try clear_value z1
  repeat' with_reducible first | assumption | apply Steps.ite | apply State.modMot_steps

theorem State.residualNow_steps {mu : Part → Prop} (mmot : mu .mot) {org s : State} (ho : Steps mu org s)  : Steps mu org (State.residualNow s) := by
  unfold State.residualNow
  repeat' with_reducible first | assumption | apply Steps.ite | apply State.wr_steps | apply State.modMot_steps | split

theorem State.posNext_steps {mu : Part → Prop} (mout : mu .out) (mreck : mu .reck) (mmot : mu .mot) (mfab : mu .fab) (mnet : mu .net) {org s : State} (ho : Steps mu org s) (d : ℕ) : Steps mu org (State.posNext s d) := by
  unfold State.posNext
  lift_lets
  intro z0; try clear_value z0
  intro z1; try clear_value z1
  intro z2
  have hz2 : Steps mu org z2 := by
    dsimp only [z2]
    repeat' with_reducible first | assumption | apply State.modMot_steps
  try clear_value z2
  repeat' with_reducible first | assumption | apply Steps.ite | apply State.posValid_steps | apply State.posLost_steps

theorem State.smpChecks_steps {mu : Part → Prop} (mout : mu .out) (mreck : mu .reck) (mmot : mu .mot) (mfab : mu .fab) (mnet : mu .net) {org s : State} (ho : Steps mu org s) (k : Sample) : Steps mu org (State.smpChecks s k) := by
  unfold State.smpChecks
  lift_lets
  intro z0
  have hz0 : Steps mu org z0 := by
    dsimp only [z0]
    repeat' with_reducible first | assumption | apply State.modMot_steps
  try clear_value z0
  intro z1
  have hz1 : Steps mu org z1 := by
    dsimp only [z1]
    repeat' with_reducible first | assumption | apply Steps.ite | apply State.posLost_steps | apply State.setFault_steps
  try clear_value z1
  intro z2
  have hz2 : Steps mu org z2 := by
    dsimp only [z2]
    repeat' with_reducible first | assumption | apply Steps.ite | apply State.setFault_steps | apply State.stopRequest_steps
  try clear_value z2
  repeat' with_reducible first | assumption | apply Steps.ite | apply State.stopRequest_steps

theorem State.smpAccept_steps {mu : Part → Prop} (mout : mu .out) (mreck : mu .reck) (mmot : mu .mot) (mfab : mu .fab) (mnet : mu .net) {org s : State} (ho : Steps mu org s) (k : Sample) (d : ℕ) (fresh : Bool) (dtxAt : ℤ) : Steps mu org (State.smpAccept s k d fresh dtxAt) := by
  unfold State.smpAccept
  lift_lets
  intro z0
  have hz0 : Steps mu org z0 := by
    dsimp only [z0]
    repeat' with_reducible first | assumption | apply State.modMot_steps
  try clear_value z0
  intro z1
  have hz1 : Steps mu org z1 := by
    dsimp only [z1]
    repeat' with_reducible first | assumption | apply Steps.ite | apply State.wr_steps | apply State.posNext_steps
  try clear_value z1
  intro z2
  have hz2 : Steps mu org z2 := by
    dsimp only [z2]
    repeat' with_reducible first | assumption | apply State.smpChecks_steps | apply State.showSample_steps
  try clear_value z2
  intro z3
  have hz3 : Steps mu org z3 := by
    dsimp only [z3]
    repeat' with_reducible first | assumption | apply Steps.ite | apply State.residualNow_steps | apply State.trigger_steps | apply State.hysteresis_steps | split
  try clear_value z3
  repeat' with_reducible first | assumption | apply State.motShow_steps | apply State.deflect_steps

theorem State.smpJudge_steps {mu : Part → Prop} (mout : mu .out) (mreck : mu .reck) (mmot : mu .mot) (mfab : mu .fab) (mnet : mu .net) {org s : State} (ho : Steps mu org s) (lane : ℕ) (f : PosFrame) (arrival : ℤ) (dtxAt : ℤ) : Steps mu org (State.smpJudge s lane f arrival dtxAt) := by
  unfold State.smpJudge
  lift_lets
  intro z0; try clear_value z0
  intro z1; try clear_value z1
  repeat' with_reducible first | assumption | apply Steps.ite | apply State.smpAccept_steps | apply State.smpDiscard_steps | apply State.disagree_steps | apply State.satInc_steps | apply State.modMot_steps | apply State.posLost_steps | split | dsimp only

theorem State.smpSecond_steps {mu : Part → Prop} (mout : mu .out) (mreck : mu .reck) (mmot : mu .mot) (mfab : mu .fab) (mnet : mu .net) {org s : State} (ho : Steps mu org s) (c : Copy) (f : PosFrame) (arrival : ℤ) : Steps mu org (State.smpSecond s c f arrival) := by
  unfold State.smpSecond
  lift_lets
  intro z0
  have hz0 : Steps mu org z0 := by
    dsimp only [z0]
    repeat' with_reducible first | assumption | apply State.modMot_steps
  try clear_value z0
  repeat' with_reducible first | assumption | apply Steps.ite | apply State.modMot_steps | apply State.smpDiscard_steps | apply State.disagree_steps

theorem State.sample_steps {mu : Part → Prop} (mout : mu .out) (mreck : mu .reck) (mmot : mu .mot) (mfab : mu .fab) (mnet : mu .net) {org s : State} (ho : Steps mu org s) (lane : ℕ) (arrival : ℤ) (dtxAt : ℤ) (f : PosFrame) : Steps mu org (State.sample s lane arrival dtxAt f) := by
  unfold State.sample
  lift_lets
  intro z0
  have hz0 : ∀ r t, Steps mu r t → Steps mu r (z0 t) := by
    dsimp only [z0]
    repeat' with_reducible first | assumption | intro _ | apply State.smpJudge_steps | apply State.modMot_steps
  try clear_value z0
  repeat' with_reducible first | assumption | apply Steps.ite | apply State.smpDiscard_steps | apply State.smpJudge_steps | apply State.smpSecond_steps | apply hz0 | split

theorem execPositionSample_steps (lane : ℕ) (arrival : ℤ) (dtxAt : ℤ) (frame : List Sys2Proof.Byte) (s : State) : Next (fun k => k ∈ [Part.out, Part.reck, Part.mot, Part.fab, Part.net]) s (execPositionSample lane arrival dtxAt frame s) := by
  unfold execPositionSample
  repeat' with_reducible first | exact Steps.refl _ _ | apply Next.done | apply State.sample_steps | split | decide

theorem execDeflectionWordTimeout_steps (now : ℤ) (s : State) : Next (fun k => k ∈ [Part.out, Part.reck, Part.mot, Part.fab, Part.net]) s (execDeflectionWordTimeout now s) := by
  unfold execDeflectionWordTimeout
  repeat' with_reducible first | exact Steps.refl _ _ | apply Next.done | apply State.deflect_steps | split | decide

theorem State.lanesChecked_steps {mu : Part → Prop} (mout : mu .out) (mreck : mu .reck) (mmot : mu .mot) (mfab : mu .fab) (mnet : mu .net) {org s : State} (ho : Steps mu org s)  : Steps mu org (State.lanesChecked s) := by
  unfold State.lanesChecked
  repeat' with_reducible first | assumption | apply Steps.ite | apply State.wr_steps | apply State.posLost_steps

theorem execMotionLaneLockChange_steps (lane : ℕ) (locked : Bool) (s : State) : Next (fun k => k ∈ [Part.out, Part.reck, Part.mot, Part.fab, Part.net]) s (execMotionLaneLockChange lane locked s) := by
  unfold execMotionLaneLockChange
  lift_lets
  intro z0; try clear_value z0
  intro z1; try clear_value z1
  repeat' with_reducible first | exact Steps.refl _ _ | apply Next.done | apply Next.ite | apply State.lanesChecked_steps | apply State.raise_steps | apply State.wr_steps | decide

theorem execHoldover_steps (now : ℤ) (s : State) : Next (fun k => k ∈ [Part.mot]) s (execHoldover now s) := by
  unfold execHoldover
  repeat' with_reducible first | exact Steps.refl _ _ | apply Next.done | apply State.modMot_steps | apply State.wr_steps | split | decide

theorem execHoldoverMissLimit_steps (now : ℤ) (s : State) : Next (fun k => k ∈ [Part.out, Part.reck, Part.mot, Part.fab, Part.net]) s (execHoldoverMissLimit now s) := by
  unfold execHoldoverMissLimit
  lift_lets
  intro z0
  have hz0 : Steps (fun k => k ∈ [Part.out, Part.reck, Part.mot, Part.fab, Part.net]) s z0 := by
    dsimp only [z0]
    repeat' with_reducible first | exact Steps.refl _ _ | apply State.modMot_steps | decide
  try clear_value z0
  repeat' with_reducible first | assumption | exact Steps.refl _ _ | apply Next.done | apply Next.ite | apply State.posLost_steps | split | decide

theorem State.commit_steps {mu : Part → Prop} (mout : mu .out) (mmot : mu .mot) {org s : State} (ho : Steps mu org s) (p : Plan) (t : ℕ) (now : ℤ) : Steps mu org (State.commit s p t now) := by
  unfold State.commit
  lift_lets
  intro z0; try clear_value z0
  intro z1
  have hz1 : Steps mu org z1 := by
    dsimp only [z1]
    repeat' with_reducible first | assumption | apply Steps.ite | apply State.satInc_steps
  try clear_value z1
  intro z2; try clear_value z2
  intro z3
  have hz3 : Steps mu org z3 := by
    dsimp only [z3]
    repeat' with_reducible first | assumption | apply State.satInc_steps | apply State.raise_steps | split
  try clear_value z3
  repeat' with_reducible first | assumption | apply State.modMot_steps

theorem execEdgeCommit_steps (now : ℤ) (s : State) : Next (fun k => k ∈ [Part.out, Part.reck, Part.mot, Part.fab, Part.net]) s (execEdgeCommit now s) := by
  unfold execEdgeCommit
  lift_lets
  intro z0; try clear_value z0
  intro z1; try clear_value z1
  intro z2; try clear_value z2
  repeat' with_reducible first | exact Steps.refl _ _ | apply Next.done | apply Next.ite | apply State.halt_steps | apply State.modMot_steps | apply State.raise_steps | apply State.commit_steps | split | decide

theorem State.runBegins_steps {mu : Part → Prop} (mout : mu .out) (mmot : mu .mot) {org s : State} (ho : Steps mu org s)  : Steps mu org (State.runBegins s) := by
  unfold State.runBegins
  lift_lets
  intro z0
  have hz0 : Steps mu org z0 := by
    dsimp only [z0]
    repeat' with_reducible first | assumption | apply Steps.ite | apply State.modMot_steps | apply State.raise_steps
  try clear_value z0
  intro z1
  have hz1 : Steps mu org z1 := by
    dsimp only [z1]
    repeat' with_reducible first | assumption | apply Steps.ite | apply State.wr_steps
  try clear_value z1
  repeat' with_reducible first | assumption | apply Steps.ite | apply State.wr_steps

theorem State.launch_steps {mu : Part → Prop} (mout : mu .out) (mmot : mu .mot) (ming : mu .ing) (malc : mu .alc) (mpak : mu .pak) (mled : mu .led) {org s : State} (ho : Steps mu org s) (w : Waybill) (p : Plan) (t : ℕ) (at_ : ℤ) : Steps mu org (State.launch s w p t at_) := by
  unfold State.launch
  lift_lets
  intro z0; try clear_value z0
  intro z1
  have hz1 : Steps mu org z1 := by
    dsimp only [z1]
    repeat' with_reducible first | assumption | apply State.emit_steps
  try clear_value z1
  intro z2
  have hz2 : Steps mu org z2 := by
    dsimp only [z2]
    repeat' with_reducible first | assumption | apply State.wrs_steps
  try clear_value z2
  intro z3
  have hz3 : Steps mu org z3 := by
    dsimp only [z3]
    repeat' with_reducible first | assumption | apply Steps.ite | apply State.satInc_steps
  try clear_value z3
  intro z4
  have hz4 : Steps mu org z4 := by
    dsimp only [z4]
    repeat' with_reducible first | assumption | apply State.modSeg_steps
  try clear_value z4
  intro z5
  try dsimp -zeta -zetaHave only [z5]
  intro z6
  have hz6 : Steps mu org z6 := by
    dsimp only [z6]
    repeat' with_reducible first | assumption | apply Steps.alc
  try clear_value z6
  intro z7
  have hz7 : Steps mu org z7 := by
    dsimp only [z7]
    repeat' with_reducible first | assumption | apply State.modMot_steps | apply State.modPlan_steps
  try clear_value z7
  intro z8
  have hz8 : Steps mu org z8 := by
    dsimp only [z8]
    repeat' with_reducible first | assumption | apply Steps.ite | apply State.runBegins_steps
  try clear_value z8
  intro z9; try clear_value z9
  repeat' with_reducible first | assumption | apply Steps.ite | apply State.modMot_steps | apply State.turnStep_steps

theorem execTickEdgeLaunch_steps (s : State) : Next (fun k => k ∈ [Part.out, Part.mot, Part.ing, Part.alc, Part.pak, Part.led]) s (execTickEdgeLaunch s) := by
  unfold execTickEdgeLaunch
  repeat' with_reducible first | exact Steps.refl _ _ | apply Next.done | apply State.launch_steps | split | decide

theorem execPhaseEdge_steps (s : State) : Next (fun k => k ∈ [Part.out, Part.mot]) s (execPhaseEdge s) := by
  unfold execPhaseEdge
  repeat' with_reducible first | exact Steps.refl _ _ | apply Next.done | apply Next.ite | apply State.modMot_steps | apply State.emit_steps | split | decide

theorem State.axesStep_steps {mu : Part → Prop} (mmot : mu .mot) {org s : State} (ho : Steps mu org s)  : Steps mu org (State.axesStep s) := by
  unfold State.axesStep
  lift_lets
  intro z0; try clear_value z0
  intro z1; try clear_value z1
  intro z2; try clear_value z2
  repeat' with_reducible first | assumption | apply State.modMot_steps

theorem State.setpointOut_steps {mu : Part → Prop} (mout : mu .out) {org s : State} (ho : Steps mu org s) (fr : List Sys2Proof.Byte) : Steps mu org (State.setpointOut s fr) := by
  unfold State.setpointOut
  repeat' with_reducible first | assumption | apply Steps.ite | apply State.emit_steps

theorem State.sendSetpoint_steps {mu : Part → Prop} (mout : mu .out) (mmot : mu .mot) {org s : State} (ho : Steps mu org s)  : Steps mu org (State.sendSetpoint s) := by
  unfold State.sendSetpoint
  lift_lets
  intro z0
  try dsimp -zeta -zetaHave only [z0]
  intro z1; try clear_value z1
  intro z2; try clear_value z2
  intro z3; try clear_value z3
  intro z4; try clear_value z4
  intro z5
  have hz5 : Steps mu org z5 := by
    dsimp only [z5]
    repeat' with_reducible first | assumption | apply Steps.ite | apply State.modMot_steps | apply State.setpointOut_steps
  try clear_value z5
  repeat' with_reducible first | assumption | apply State.wrs_steps | split

theorem State.lateHalt_steps {mu : Part → Prop} (mout : mu .out) (mreck : mu .reck) (mmot : mu .mot) (mfab : mu .fab) (mnet : mu .net) {org s : State} (ho : Steps mu org s)  : Steps mu org (State.lateHalt s) := by
  unfold State.lateHalt
  lift_lets
  intro z0; try clear_value z0
  intro z1; try clear_value z1
  repeat' with_reducible first | assumption | apply Steps.ite | apply State.halt_steps | split | dsimp only

theorem State.thermShow_steps {mu : Part → Prop} (mout : mu .out) {org s : State} (ho : Steps mu org s)  : Steps mu org (State.thermShow s) := by
  unfold State.thermShow
  repeat' with_reducible first | assumption | apply Steps.ite | apply State.raise_steps | apply State.wr_steps | split

theorem State.moveEnds_steps {mu : Part → Prop} (mfree : mu .free) (mout : mu .out) (mreck : mu .reck) (mmot : mu .mot) (ming : mu .ing) (malc : mu .alc) (mpak : mu .pak) (mled : mu .led) {org s : State} (ho : Steps mu org s)  : Steps mu org (State.moveEnds s) := by
  unfold State.moveEnds
  lift_lets
  intro z0; try clear_value z0
  intro z1; try clear_value z1
  intro z2; try clear_value z2
  intro z3
  have hz3 : Steps mu org z3 := by
    dsimp only [z3]
    repeat' with_reducible first | assumption | apply State.raise_steps | apply State.wr_steps
  try clear_value z3
  intro z4
  have hz4 : Steps mu org z4 := by
    dsimp only [z4]
    repeat' with_reducible first | assumption | apply State.modMot_steps
  try clear_value z4
  repeat' with_reducible first | assumption | apply Steps.ite | apply State.endMove_steps | apply State.atRest_steps | apply State.wr_steps | apply State.abandon_steps | apply State.endTrajectory_steps | split

theorem execSetpointFrame_steps (s : State) : Next (fun k => k ∈ [Part.free, Part.out, Part.reck, Part.mot, Part.ing, Part.alc, Part.pak, Part.fab, Part.led, Part.net]) s (execSetpointFrame s) := by
  unfold execSetpointFrame
  lift_lets
  intro z0
  have hz0 : Steps (fun k => k ∈ [Part.free, Part.out, Part.reck, Part.mot, Part.ing, Part.alc, Part.pak, Part.fab, Part.led, Part.net]) s z0 := by
    dsimp only [z0]
    repeat' with_reducible first | exact Steps.refl _ _ | apply Steps.ite | apply State.axesStep_steps | decide
  try clear_value z0
  repeat' with_reducible first | assumption | exact Steps.refl _ _ | apply Next.done | apply Next.ite | apply State.modMot_steps | apply State.setpointOut_steps | apply State.motShow_steps | apply State.autoClear_steps | apply State.thermShow_steps | apply State.lateHalt_steps | apply State.lateCheck_steps | apply State.sendSetpoint_steps | apply State.moveEnds_steps | split | decide

theorem State.goMove_steps {mu : Part → Prop} (mmot : mu .mot) {org s : State} (ho : Steps mu org s)  : Steps mu org (State.goMove s) := by
  unfold State.goMove
  lift_lets
  intro z0; try clear_value z0
  intro z1; try clear_value z1
  intro z2
  have hz2 : Steps mu org z2 := by
    dsimp only [z2]
    repeat' with_reducible first | assumption | apply Steps.ite | apply State.startTrajectory_steps
  try clear_value z2
  repeat' with_reducible first | assumption | apply Steps.ite | apply State.wr_steps | apply State.wrs_steps | apply State.modMot_steps

theorem execGoMove_steps (agent : Sys2Proof.Agent) (s : State) : Next (fun k => k ∈ [Part.out, Part.reck, Part.mot]) s (execGoMove agent s) := by
  unfold execGoMove
  repeat' with_reducible first | assumption | intro _ | exact Steps.refl _ _ | apply Next.done | apply State.access_steps | apply State.goMove_steps | decide

theorem execRunupStart_steps (s : State) : Next (fun k => k ∈ [Part.out, Part.reck, Part.mot, Part.fab, Part.net]) s (execRunupStart s) := by
  unfold execRunupStart
  lift_lets
  intro z0
  have hz0 : Steps (fun k => k ∈ [Part.out, Part.reck, Part.mot, Part.fab, Part.net]) s z0 := by
    dsimp only [z0]
    repeat' with_reducible first | exact Steps.refl _ _ | apply State.alignCheck_steps | apply State.autoClear_steps | decide
  try clear_value z0
  repeat' with_reducible first | assumption | apply Next.done | apply Next.ite | apply State.raise_steps | apply State.startRunup_steps | apply State.halt_steps | decide

theorem execGapMaxExpiry_steps (s : State) : Next (fun k => k ∈ [Part.mot, Part.pak]) s (execGapMaxExpiry s) := by
  unfold execGapMaxExpiry
  lift_lets
  intro z0
  have hz0 : Steps (fun k => k ∈ [Part.mot, Part.pak]) s z0 := by
    dsimp only [z0]
    repeat' with_reducible first | exact Steps.refl _ _ | apply State.wr_steps | apply State.modMot_steps | decide
  try clear_value z0
  intro z1
  try dsimp -zeta -zetaHave only [z1]
  repeat' with_reducible first | assumption | (intro (hh : Pak.shaped _); first | (simpa [Pak.shaped, setAt, modAt] using hh; done) | (simp [Pak.shaped, setAt, modAt] at hh ⊢; omega)) | exact Steps.refl _ _ | apply Next.done | apply Next.ite | apply Steps.pak | decide

theorem State.resume_steps {mu : Part → Prop} (mmot : mu .mot) {org s : State} (ho : Steps mu org s)  : Steps mu org (State.resume s) := by
  unfold State.resume
  lift_lets
  intro z0
  try dsimp -zeta -zetaHave only [z0]
  intro z1
  have hz1 : Steps mu org z1 := by
    dsimp only [z1]
    repeat' with_reducible first | assumption | apply State.wr_steps
  try clear_value z1
  repeat' with_reducible first | assumption | apply Steps.ite | apply State.haltCleared_steps | apply State.modMot_steps

theorem State.stop_steps {mu : Part → Prop} (mout : mu .out) (mreck : mu .reck) (mmot : mu .mot) (mfab : mu .fab) (mnet : mu .net) {org s : State} (ho : Steps mu org s)  : Steps mu org (State.stop s) := by
  unfold State.stop
  repeat' with_reducible first | assumption | apply Steps.ite | apply State.raise_steps | apply State.stopRequest_steps

theorem State.abandonFor_steps {mu : Part → Prop} (mfree : mu .free) (mout : mu .out) (mreck : mu .reck) (mmot : mu .mot) (ming : mu .ing) (malc : mu .alc) (mpak : mu .pak) (mfab : mu .fab) (mled : mu .led) (mnet : mu .net) {org s : State} (ho : Steps mu org s) (reason : ℕ) : Steps mu org (State.abandonFor s reason) := by
  unfold State.abandonFor
  lift_lets
  intro z0; try clear_value z0
  repeat' with_reducible first | assumption | apply Steps.ite | apply State.abandon_steps | apply State.wr_steps | apply State.stopRequest_steps | apply State.raise_steps

theorem State.abandonWrite_steps {mu : Part → Prop} (mfree : mu .free) (mout : mu .out) (mreck : mu .reck) (mmot : mu .mot) (ming : mu .ing) (malc : mu .alc) (mpak : mu .pak) (mfab : mu .fab) (mled : mu .led) (mnet : mu .net) {org s : State} (ho : Steps mu org s)  : Steps mu org (State.abandonWrite s) := by
  unfold State.abandonWrite
  repeat' with_reducible first | assumption | apply State.abandonFor_steps

theorem execStop_steps (agent : Sys2Proof.Agent) (s : State) : Next (fun k => k ∈ [Part.out, Part.reck, Part.mot, Part.fab, Part.net]) s (execStop agent s) := by
  unfold execStop
  repeat' with_reducible first | assumption | intro _ | exact Steps.refl _ _ | apply Next.done | apply State.access_steps | apply State.stop_steps | decide

theorem execResume_steps (agent : Sys2Proof.Agent) (s : State) : Next (fun k => k ∈ [Part.out, Part.reck, Part.mot]) s (execResume agent s) := by
  unfold execResume
  repeat' with_reducible first | assumption | intro _ | exact Steps.refl _ _ | apply Next.done | apply State.access_steps | apply State.resume_steps | decide

theorem execAbandon_steps (agent : Sys2Proof.Agent) (s : State) : Next (fun k => k ∈ [Part.free, Part.out, Part.reck, Part.mot, Part.ing, Part.alc, Part.pak, Part.fab, Part.led, Part.net]) s (execAbandon agent s) := by
  unfold execAbandon
  repeat' with_reducible first | assumption | intro _ | exact Steps.refl _ _ | apply Next.done | apply State.access_steps | apply State.abandonWrite_steps | decide

theorem execHaltResume_steps (s : State) : Next (fun k => k ∈ [Part.mot]) s (execHaltResume s) := by
  unfold execHaltResume
  lift_lets
  intro z0
  have hz0 : Steps (fun k => k ∈ [Part.mot]) s z0 := by
    dsimp only [z0]
    repeat' with_reducible first | exact Steps.refl _ _ | apply State.autoClear_steps
  try clear_value z0
  repeat' with_reducible first | assumption | apply Next.done | apply Next.ite | apply State.startRunup_steps | decide

theorem State.thermReport_steps {mu : Part → Prop} (mout : mu .out) (mreck : mu .reck) (mmot : mu .mot) (mfab : mu .fab) (mnet : mu .net) {org s : State} (ho : Steps mu org s)  : Steps mu org (State.thermReport s) := by
  unfold State.thermReport
  lift_lets
  intro z0; try clear_value z0
  intro z1; try clear_value z1
  intro z2; try clear_value z2
  intro z3
  have hz3 : Steps mu org z3 := by
    dsimp only [z3]
    repeat' with_reducible first | assumption | apply Steps.ite | apply State.setFault_steps
  try clear_value z3
  repeat' with_reducible first | assumption | apply Steps.ite | apply State.modMot_steps | apply State.stopRequest_steps | apply State.haltCleared_steps | apply State.wr_steps | split

theorem State.tempReport_steps {mu : Part → Prop} (mout : mu .out) (mreck : mu .reck) (mmot : mu .mot) (mfab : mu .fab) (mnet : mu .net) {org s : State} (ho : Steps mu org s) (src : ℕ) (temp : ℕ) : Steps mu org (State.tempReport s src temp) := by
  unfold State.tempReport
  lift_lets
  intro z0
  have hz0 : Steps mu org z0 := by
    dsimp only [z0]
    repeat' with_reducible first | assumption | apply State.wrs_steps
  try clear_value z0
  repeat' with_reducible first | assumption | apply Steps.ite | apply State.wrs_steps | apply State.thermShow_steps | apply State.thermReport_steps

theorem execArrayTempReport_steps (src : ℕ) (temp : BitVec 16) (s : State) : Next (fun k => k ∈ [Part.out, Part.reck, Part.mot, Part.fab, Part.net]) s (execArrayTempReport src temp s) := by
  unfold execArrayTempReport
  repeat' with_reducible first | exact Steps.refl _ _ | apply Next.done | apply State.tempReport_steps | decide

theorem execTemperatureReportStale_steps (s : State) : Next (fun k => k ∈ [Part.out, Part.reck, Part.mot, Part.fab, Part.net]) s (execTemperatureReportStale s) := by
  unfold execTemperatureReportStale
  lift_lets
  intro z0
  have hz0 : Steps (fun k => k ∈ [Part.out, Part.reck, Part.mot, Part.fab, Part.net]) s z0 := by
    dsimp only [z0]
    repeat' with_reducible first | exact Steps.refl _ _ | apply State.wr_steps
  try clear_value z0
  repeat' with_reducible first | assumption | exact Steps.refl _ _ | apply Next.done | apply Next.ite | apply State.stopRequest_steps | apply State.raise_steps | apply State.setFault_steps | split | decide

theorem execMotResetAbandon_steps (s : State) : Next (fun k => k ∈ [Part.free, Part.out, Part.reck, Part.mot, Part.ing, Part.alc, Part.pak, Part.led]) s (execMotResetAbandon s) := by
  unfold execMotResetAbandon
  lift_lets
  intro z0
  have hz0 : Steps (fun k => k ∈ [Part.free, Part.out, Part.reck, Part.mot, Part.ing, Part.alc, Part.pak, Part.led]) s z0 := by
    dsimp only [z0]
    repeat' with_reducible first | exact Steps.refl _ _ | apply State.modMot_steps | decide
  try clear_value z0
  intro z1
  have hz1 : Steps (fun k => k ∈ [Part.free, Part.out, Part.reck, Part.mot, Part.ing, Part.alc, Part.pak, Part.led]) s z1 := by
    dsimp only [z1]
    repeat' with_reducible first | assumption | apply State.dropSecond_steps | decide
  try clear_value z1
  repeat' with_reducible first | assumption | exact Steps.refl _ _ | apply Next.done | apply Next.ite | apply State.wr_steps | apply State.abandon_steps | split | decide

end Sys2Proof.Machine
end

