-- ==== Sys2Proof/Laws/StepsLink.lean ====
section
/-!
SUPPORT. What each operation and each meaning of the Q-link, array service and calibration can change.
-/
set_option linter.all false
open Sys2Proof (Agent)

namespace Sys2Proof.Machine

theorem State.modPak_steps {mu : Part → Prop} (mpak : mu .pak) {org s : State} (ho : Steps mu org s) (f : Pak → Pak) (hf : ∀ x, Pak.shaped x → Pak.shaped (f x)) : Steps mu org (State.modPak s f) := by
  unfold State.modPak
  repeat' with_reducible first | assumption | intro _ | apply hf | apply Steps.pak

theorem State.modLane_steps {mu : Part → Prop} (mpak : mu .pak) {org s : State} (ho : Steps mu org s) (n : ℕ) (f : Lane → Lane) : Steps mu org (State.modLane s n f) := by
  unfold State.modLane
  repeat' with_reducible first | assumption | (intro (hh : Pak.shaped _); first | (simpa [Pak.shaped, setAt, modAt] using hh; done) | (simp [Pak.shaped, setAt, modAt] at hh ⊢; omega)) | intro _ | apply State.modPak_steps

theorem State.modStream_steps {mu : Part → Prop} (mpak : mu .pak) {org s : State} (ho : Steps mu org s) (l : ℕ) (f : Stream → Stream) : Steps mu org (State.modStream s l f) := by
  unfold State.modStream
  repeat' with_reducible first | assumption | (intro (hh : Pak.shaped _); first | (simpa [Pak.shaped, setAt, modAt] using hh; done) | (simp [Pak.shaped, setAt, modAt] at hh ⊢; omega)) | intro _ | apply State.modPak_steps

theorem State.ackShow_steps {mu : Part → Prop} {org s : State} (ho : Steps mu org s)  : Steps mu org (State.ackShow s) := by
  unfold State.ackShow
  repeat' with_reducible first | assumption | apply State.wr_steps | split

theorem State.countShow_steps {mu : Part → Prop} {org s : State} (ho : Steps mu org s)  : Steps mu org (State.countShow s) := by
  unfold State.countShow
  repeat' with_reducible first | assumption | apply State.wr_steps

theorem State.setLaneRole_steps {mu : Part → Prop} (mout : mu .out) (mpak : mu .pak) {org s : State} (ho : Steps mu org s) (n : ℕ) (ro : ℕ) : Steps mu org (State.setLaneRole s n ro) := by
  unfold State.setLaneRole
  lift_lets
  intro z0
  have hz0 : Steps mu org z0 := by
    dsimp only [z0]
    repeat' with_reducible first | assumption | apply State.setRunning_steps | apply State.raise_steps | apply State.wr_steps
  try clear_value z0
  intro z1
  have hz1 : Steps mu org z1 := by
    dsimp only [z1]
    repeat' with_reducible first | assumption | apply State.modLane_steps
  try clear_value z1
  repeat' with_reducible first | assumption | apply Steps.ite | apply State.wr_steps | apply State.modLane_steps | split

theorem State.openStream_steps {mu : Part → Prop} (mpak : mu .pak) {org s : State} (ho : Steps mu org s) (l : ℕ) : Steps mu org (State.openStream s l) := by
  unfold State.openStream
  lift_lets
  intro z0; try clear_value z0
  repeat' with_reducible first | assumption | (intro (hh : Pak.shaped _); first | (simpa [Pak.shaped, setAt, modAt] using hh; done) | (simp [Pak.shaped, setAt, modAt] at hh ⊢; omega)) | intro _ | apply Steps.ite | apply State.modPak_steps | split | dsimp only

theorem State.countResent_steps {mu : Part → Prop} (mled : mu .led) {org s : State} (ho : Steps mu org s) (st : Stream) (f : QFrame) : Steps mu org (State.countResent s st f) := by
  unfold State.countResent
  repeat' with_reducible first | assumption | apply Steps.ite | apply State.modSeg_steps | split

theorem State.aliveShow_steps {mu : Part → Prop} (mfree : mu .free) {org s : State} (ho : Steps mu org s) (n : ℕ) (l : ℕ) : Steps mu org (State.aliveShow s n l) := by
  unfold State.aliveShow
  repeat' with_reducible first | assumption | apply State.draw_steps | apply State.wrs_steps | split

theorem State.resend_steps {mu : Part → Prop} (mout : mu .out) (mpak : mu .pak) (mled : mu .led) {org s : State} (ho : Steps mu org s) (n : ℕ) (st : Stream) (f : QFrame) : Steps mu org (State.resend s n st f) := by
  unfold State.resend
  lift_lets
  intro z0
  have hz0 : Steps mu org z0 := by
    dsimp only [z0]
    repeat' with_reducible first | assumption | apply State.modStream_steps | apply State.emit_steps
  try clear_value z0
  repeat' with_reducible first | assumption | apply State.countResent_steps | apply State.raise_steps | apply State.satInc_steps

theorem State.sendData_steps {mu : Part → Prop} (mfree : mu .free) (mout : mu .out) (mpak : mu .pak) {org s : State} (ho : Steps mu org s) (n : ℕ) (st : Stream) (bad : Bool) : Steps mu org (State.sendData s n st bad) := by
  unfold State.sendData
  lift_lets
  intro z0; try clear_value z0
  intro z1; try clear_value z1
  intro z2
  have hz2 : Steps mu org z2.2 := by
    dsimp only [z2]
    repeat' with_reducible first | assumption | apply State.draw_steps | split
  try clear_value z2
  intro z3; try clear_value z3
  intro z4; try clear_value z4
  intro z5; try clear_value z5
  repeat' with_reducible first | assumption | apply State.aliveShow_steps | apply State.modStream_steps | apply State.emit_steps

theorem State.sendOnData_steps {mu : Part → Prop} (mfree : mu .free) (mout : mu .out) (mreck : mu .reck) (mmot : mu .mot) (malc : mu .alc) (mpak : mu .pak) (mfab : mu .fab) (mled : mu .led) (mnet : mu .net) {org s : State} (ho : Steps mu org s) (n : ℕ) (upset : Sys2Proof.FrameUpset) : Steps mu org (State.sendOnData s n upset) := by
  unfold State.sendOnData
  lift_lets
  intro z0; try clear_value z0
  intro z1
  have hz1 : Steps mu org z1 := by
    dsimp only [z1]
    repeat' with_reducible first | assumption | apply State.openStream_steps
  try clear_value z1
  intro z2; try clear_value z2
  intro z3
  have hz3 : Steps mu org z3 := by
    dsimp only [z3]
    repeat' with_reducible first | assumption | apply State.modLane_steps
  try clear_value z3
  intro z4
  have hz4 : ∀ r t, Steps mu r t → Steps mu r (z4 t) := by
    dsimp only [z4]
    repeat' with_reducible first | assumption | intro _ | apply State.modLane_steps | apply State.emit_steps
  try clear_value z4
  intro z5
  have hz5 : Steps mu org z5 := by
    dsimp only [z5]
    repeat' with_reducible first | assumption | apply State.modStream_steps
  try clear_value z5
  repeat' with_reducible first | assumption | (intro (hh : Pak.shaped _); first | (simpa [Pak.shaped, setAt, modAt] using hh; done) | (simp [Pak.shaped, setAt, modAt] at hh ⊢; omega)) | intro _ | apply Steps.ite | apply State.resend_steps | apply State.sendData_steps | apply State.modPak_steps | apply State.allocFails_steps | apply hz4 | split

theorem execQlinkFrameSend_steps (n : ℕ) (upset : Sys2Proof.FrameUpset) (s : State) : Next (fun k => k ∈ [Part.free, Part.out, Part.reck, Part.mot, Part.alc, Part.pak, Part.fab, Part.led, Part.net]) s (execQlinkFrameSend n upset s) := by
  unfold execQlinkFrameSend
  lift_lets
  intro z0; try clear_value z0
  intro z1
  have hz1 : Steps (fun k => k ∈ [Part.free, Part.out, Part.reck, Part.mot, Part.alc, Part.pak, Part.fab, Part.led, Part.net]) s z1 := by
    dsimp only [z1]
    repeat' with_reducible first | exact Steps.refl _ _ | apply State.modLane_steps | apply State.emit_steps | decide
  try clear_value z1
  intro z2
  have hz2 : Steps (fun k => k ∈ [Part.free, Part.out, Part.reck, Part.mot, Part.alc, Part.pak, Part.fab, Part.led, Part.net]) s z2 := by
    dsimp only [z2]
    repeat' with_reducible first | exact Steps.refl _ _ | apply State.modLane_steps | apply State.emit_steps | decide
  try clear_value z2
  repeat' with_reducible first | assumption | exact Steps.refl _ _ | apply Next.done | apply Next.ite | apply State.sendOnData_steps | split | decide

theorem State.markOn_steps {mu : Part → Prop} (mout : mu .out) {org s : State} (ho : Steps mu org s) (n : ℕ) (tick : ℕ) (spacing : ℕ) (at_ : ℤ) (stamp : ℕ) : Steps mu org (State.markOn s n tick spacing at_ stamp) := by
  unfold State.markOn
  lift_lets
  intro z0; try clear_value z0
  intro z1; try clear_value z1
  intro z2
  have hz2 : Steps mu org z2 := by
    dsimp only [z2]
    repeat' with_reducible first | assumption | apply State.emit_steps
  try clear_value z2
  repeat' with_reducible first | assumption | apply Steps.ite | apply State.wr64_steps

theorem execTickMarker_steps (stamp : BitVec 64) (s : State) : Next (fun k => k ∈ [Part.out, Part.pak]) s (execTickMarker stamp s) := by
  unfold execTickMarker
  repeat' with_reducible first | assumption | (intro (hh : Pak.shaped _); first | (simpa [Pak.shaped, setAt, modAt] using hh; done) | (simp [Pak.shaped, setAt, modAt] at hh ⊢; omega)) | intro _ | exact Steps.refl _ _ | apply Steps.foldl | apply Next.done | apply Next.ite | apply State.modPak_steps | apply State.markOn_steps | split | decide

theorem execLaneMapSet_steps (n : ℕ) (s : State) : Next (fun k => k ∈ [Part.out, Part.pak]) s (execLaneMapSet n s) := by
  unfold execLaneMapSet
  lift_lets
  intro z0
  have hz0 : Steps (fun k => k ∈ [Part.out, Part.pak]) s z0 := by
    dsimp only [z0]
    repeat' with_reducible first | exact Steps.refl _ _ | apply State.modLane_steps | apply State.emit_steps | decide
  try clear_value z0
  repeat' with_reducible first | assumption | exact Steps.refl _ _ | apply Next.done | apply Next.ite | apply State.raise_steps | apply State.wr_steps | decide

theorem State.spare_steps {mu : Part → Prop} (mout : mu .out) (mreck : mu .reck) (mpak : mu .pak) {org s : State} (ho : Steps mu org s)  : Steps mu org (State.spare s) := by
  unfold State.spare
  repeat' with_reducible first | assumption | (intro (hh : Pak.shaped _); first | (simpa [Pak.shaped, setAt, modAt] using hh; done) | (simp [Pak.shaped, setAt, modAt] at hh ⊢; omega)) | intro _ | apply State.modLane_steps | apply State.wr_steps | apply State.setLaneRole_steps | apply State.countShow_steps | apply State.modPak_steps | apply State.raise_steps | apply State.setFault_steps | split

theorem State.unrotate_steps {mu : Part → Prop} (mout : mu .out) (mpak : mu .pak) {org s : State} (ho : Steps mu org s)  : Steps mu org (State.unrotate s) := by
  unfold State.unrotate
  repeat' with_reducible first | assumption | (intro (hh : Pak.shaped _); first | (simpa [Pak.shaped, setAt, modAt] using hh; done) | (simp [Pak.shaped, setAt, modAt] at hh ⊢; omega)) | intro _ | apply State.modLane_steps | apply State.wr_steps | apply State.setLaneRole_steps | apply State.countShow_steps | apply State.modPak_steps | split

theorem State.failLane_steps {mu : Part → Prop} (mout : mu .out) (mreck : mu .reck) (mpak : mu .pak) {org s0 : State} (ho : Steps mu org s0) (n : ℕ) (cause : ℕ) : Steps mu org (State.failLane s0 n cause) := by
  unfold State.failLane
  lift_lets
  intro z0
  have hz0 : Steps mu org z0 := by
    dsimp only [z0]
    repeat' with_reducible first | assumption | apply Steps.ite | apply State.unrotate_steps
  try clear_value z0
  intro z1; try clear_value z1
  intro z2; try clear_value z2
  intro z3
  have hz3 : Steps mu org z3 := by
    dsimp only [z3]
    repeat' with_reducible first | assumption | apply State.setFault_steps | apply State.wrs_steps | apply State.setLaneRole_steps
  try clear_value z3
  intro z4
  have hz4 : Steps mu org z4 := by
    dsimp only [z4]
    repeat' with_reducible first | assumption | apply State.countShow_steps | apply State.raise_steps
  try clear_value z4
  intro z5
  have hz5 : Steps mu org z5 := by
    dsimp only [z5]
    repeat' with_reducible first | assumption | (intro (hh : Pak.shaped _); first | (simpa [Pak.shaped, setAt, modAt] using hh; done) | (simp [Pak.shaped, setAt, modAt] at hh ⊢; omega)) | intro _ | apply State.modPak_steps
  try clear_value z5
  repeat' with_reducible first | assumption | apply Steps.ite | apply State.spare_steps

theorem State.adopted_steps {mu : Part → Prop} (mout : mu .out) (mreck : mu .reck) (mpak : mu .pak) {org s : State} (ho : Steps mu org s)  : Steps mu org (State.adopted s) := by
  unfold State.adopted
  repeat' with_reducible first | assumption | (intro (hh : Pak.shaped _); first | (simpa [Pak.shaped, setAt, modAt] using hh; done) | (simp [Pak.shaped, setAt, modAt] at hh ⊢; omega)) | intro _ | apply Steps.ite | apply State.modStream_steps | apply State.modPak_steps | apply State.spare_steps | apply State.raise_steps | split

theorem State.wantResend_steps {mu : Part → Prop} (mout : mu .out) (mreck : mu .reck) (mpak : mu .pak) {org s : State} (ho : Steps mu org s) (n : ℕ) (l : ℕ) (f : QFrame) (counts : Bool) : Steps mu org (State.wantResend s n l f counts) := by
  unfold State.wantResend
  repeat' with_reducible first | assumption | apply Steps.ite | apply State.failLane_steps | apply State.modStream_steps

theorem State.echoRecord_steps {mu : Part → Prop} (mfree : mu .free) (mout : mu .out) (mreck : mu .reck) (mpak : mu .pak) {org s : State} (ho : Steps mu org s) (r : List Sys2Proof.Byte) : Steps mu org (State.echoRecord s r) := by
  unfold State.echoRecord
  lift_lets
  intro z0; try clear_value z0
  intro z1; try clear_value z1
  repeat' with_reducible first | assumption | apply Steps.ite | apply State.ackShow_steps | apply State.aliveShow_steps | apply State.modStream_steps | apply State.wantResend_steps | split

theorem State.returnFrame_steps {mu : Part → Prop} {org s : State} (ho : Steps mu org s) (m : ℕ) (f : List Sys2Proof.Byte) (k : State → State) (hk : ∀ r t, Steps mu r t → Steps mu r (k t)) : Steps mu org (State.returnFrame s m f k) := by
  unfold State.returnFrame
  lift_lets
  intro z0; try clear_value z0
  intro z1; try clear_value z1
  repeat' with_reducible first | assumption | apply Steps.ite | apply State.wrs_steps | apply hk

theorem execEchoFrame_steps (m : ℕ) (frame : List Sys2Proof.Byte) (s : State) : Next (fun k => k ∈ [Part.free, Part.out, Part.reck, Part.pak]) s (execEchoFrame m frame s) := by
  unfold execEchoFrame
  repeat' with_reducible first | assumption | intro _ | exact Steps.refl _ _ | apply Steps.foldl | apply Next.done | apply State.returnFrame_steps | apply State.echoRecord_steps | split | decide

theorem execEchoTimeout_steps (n : ℕ) (alive : ℕ) (s : State) : Next (fun k => k ∈ [Part.out, Part.reck, Part.pak]) s (execEchoTimeout n alive s) := by
  unfold execEchoTimeout
  lift_lets
  intro z0; try clear_value z0
  intro z1; try clear_value z1
  intro z2
  have hz2 : Steps (fun k => k ∈ [Part.out, Part.reck, Part.pak]) s z2 := by
    dsimp only [z2]
    repeat' with_reducible first | exact Steps.refl _ _ | apply Steps.ite | apply State.raise_steps | apply State.satInc_steps | decide
  try clear_value z2
  repeat' with_reducible first | assumption | exact Steps.refl _ _ | apply Next.done | apply Next.ite | apply State.wantResend_steps | split | decide

theorem State.bringupStatus_steps {mu : Part → Prop} (mout : mu .out) (mpak : mu .pak) {org s : State} (ho : Steps mu org s)  : Steps mu org (State.bringupStatus s) := by
  unfold State.bringupStatus
  repeat' with_reducible first | assumption | (intro (hh : Pak.shaped _); first | (simpa [Pak.shaped, setAt, modAt] using hh; done) | (simp [Pak.shaped, setAt, modAt] at hh ⊢; omega)) | intro _ | apply Steps.foldl | apply Steps.ite | apply State.modPak_steps | apply State.wr_steps | apply State.modLane_steps | apply State.raise_steps

theorem State.checkLocks_steps {mu : Part → Prop} (mout : mu .out) (mreck : mu .reck) (mpak : mu .pak) {org s : State} (ho : Steps mu org s)  : Steps mu org (State.checkLocks s) := by
  unfold State.checkLocks
  repeat' with_reducible first | assumption | intro _ | apply Steps.foldl | apply Steps.ite | apply State.modLane_steps | apply State.failLane_steps

theorem State.status_steps {mu : Part → Prop} (mout : mu .out) (mreck : mu .reck) (mmot : mu .mot) (mpak : mu .pak) (mfab : mu .fab) (mnet : mu .net) {org s : State} (ho : Steps mu org s) (pl : List Sys2Proof.Byte) : Steps mu org (State.status s pl) := by
  unfold State.status
  lift_lets
  intro z0; try clear_value z0
  intro z1; try clear_value z1
  intro z2
  try dsimp -zeta -zetaHave only [z2]
  intro z3; try clear_value z3
  intro z4; try clear_value z4
  intro z5; try clear_value z5
  intro z6
  have hz6 : Steps mu org z6 := by
    dsimp only [z6]
    repeat' with_reducible first | assumption | intro _ | apply State.modPak_steps | apply State.wrs_steps | split | (have hh := ‹Pak.shaped _›; simp [Pak.shaped, setAt, modAt] at hh ⊢; omega)
  try clear_value z6
  intro z7
  have hz7 : Steps mu org z7 := by
    dsimp only [z7]
    repeat' with_reducible first | assumption | intro _ | apply Steps.foldl | apply Steps.ite | apply State.modLane_steps
  try clear_value z7
  intro z8
  have hz8 : Steps mu org z8 := by
    dsimp only [z8]
    repeat' with_reducible first | assumption | apply Steps.ite | apply State.stopRequest_steps | apply State.raise_steps | apply State.setFault_steps
  try clear_value z8
  intro z9
  have hz9 : Steps mu org z9 := by
    dsimp only [z9]
    repeat' with_reducible first | assumption | apply Steps.ite | apply State.checkLocks_steps
  try clear_value z9
  repeat' with_reducible first | assumption | apply State.tempReport_steps | apply State.bringupStatus_steps | apply State.adopted_steps

theorem execStatusFrame_steps (m : ℕ) (frame : List Sys2Proof.Byte) (s : State) : Next (fun k => k ∈ [Part.out, Part.reck, Part.mot, Part.pak, Part.fab, Part.net]) s (execStatusFrame m frame s) := by
  unfold execStatusFrame
  repeat' with_reducible first | assumption | intro _ | exact Steps.refl _ _ | apply Next.done | apply State.returnFrame_steps | apply State.status_steps | apply State.wrs_steps | split | decide

theorem execArrayDead_steps (s : State) : Next (fun k => k ∈ [Part.out, Part.reck, Part.pak]) s (execArrayDead s) := by
  unfold execArrayDead
  repeat' with_reducible first | (intro (hh : Pak.shaped _); first | (simpa [Pak.shaped, setAt, modAt] using hh; done) | (simp [Pak.shaped, setAt, modAt] at hh ⊢; omega)) | intro _ | exact Steps.refl _ _ | apply Next.done | apply Next.ite | apply State.raise_steps | apply State.setFault_steps | apply State.modPak_steps | decide

theorem execReturnLaneLockChange_steps (m : ℕ) (locked : Bool) (s : State) : Next (fun k => k ∈ [Part.out, Part.reck]) s (execReturnLaneLockChange m locked s) := by
  unfold execReturnLaneLockChange
  lift_lets
  intro z0; try clear_value z0
  intro z1; try clear_value z1
  intro z2
  have hz2 : Steps (fun k => k ∈ [Part.out, Part.reck]) s z2 := by
    dsimp only [z2]
    repeat' with_reducible first | exact Steps.refl _ _ | apply State.raise_steps | apply State.wr_steps | decide
  try clear_value z2
  intro z3; try clear_value z3
  repeat' with_reducible first | assumption | exact Steps.refl _ _ | apply Next.done | apply Next.ite | apply State.setFault_steps | split | decide

theorem execReturnLanePolarityFlip_steps (m : ℕ) (s : State) : Next (fun k => k ∈ ([] : List Part)) s (execReturnLanePolarityFlip m s) := by
  unfold execReturnLanePolarityFlip
  repeat' with_reducible first | exact Steps.refl _ _ | apply Next.done | apply Next.ite | apply State.wr_steps

theorem State.toBlank_steps {mu : Part → Prop} (mout : mu .out) (mpak : mu .pak) {org s : State} (ho : Steps mu org s)  : Steps mu org (State.toBlank s) := by
  unfold State.toBlank
  lift_lets
  intro z0
  have hz0 : Steps mu org z0 := by
    dsimp only [z0]
    repeat' with_reducible first | assumption | intro _ | apply Steps.foldl | apply State.wrs_steps | apply State.setLaneRole_steps
  try clear_value z0
  intro z1
  have hz1 : Steps mu org z1 := by
    dsimp only [z1]
    repeat' with_reducible first | assumption | (intro (hh : Pak.shaped _); first | (simpa [Pak.shaped, setAt, modAt] using hh; done) | (simp [Pak.shaped, setAt, modAt] at hh ⊢; omega)) | intro _ | apply State.wrs_steps | apply State.modPak_steps
  try clear_value z1
  intro z2
  have hz2 : Steps mu org z2 := by
    dsimp only [z2]
    repeat' with_reducible first | assumption | apply Steps.ite | apply State.wr_steps
  try clear_value z2
  repeat' with_reducible first | assumption | apply State.countShow_steps

theorem State.linkDown_steps {mu : Part → Prop} (mout : mu .out) (mpak : mu .pak) {org s : State} (ho : Steps mu org s)  : Steps mu org (State.linkDown s) := by
  unfold State.linkDown
  lift_lets
  intro z0
  have hz0 : Steps mu org z0 := by
    dsimp only [z0]
    repeat' with_reducible first | assumption | intro _ | apply Steps.foldl | apply State.wrs_steps | apply State.setLaneRole_steps
  try clear_value z0
  repeat' with_reducible first | assumption | (intro (hh : Pak.shaped _); first | (simpa [Pak.shaped, setAt, modAt] using hh; done) | (simp [Pak.shaped, setAt, modAt] at hh ⊢; omega)) | intro _ | apply State.wrs_steps | apply State.countShow_steps | apply State.modPak_steps

theorem State.linkFollow_steps {mu : Part → Prop} (mout : mu .out) (mpak : mu .pak) {org s : State} (ho : Steps mu org s)  : Steps mu org (State.linkFollow s) := by
  unfold State.linkFollow
  lift_lets
  intro z0; try clear_value z0
  intro z1; try clear_value z1
  repeat' with_reducible first | assumption | apply Steps.ite | apply State.toBlank_steps | apply State.linkDown_steps

theorem State.retrain_steps {mu : Part → Prop} (mout : mu .out) (mpak : mu .pak) {org s : State} (ho : Steps mu org s)  : Steps mu org (State.retrain s) := by
  unfold State.retrain
  repeat' with_reducible first | assumption | apply Steps.ite | apply State.raise_steps | apply State.toBlank_steps

theorem State.modeWrite_steps {mu : Part → Prop} (mout : mu .out) (mpak : mu .pak) {org s : State} (ho : Steps mu org s) (m : ℕ) : Steps mu org (State.modeWrite s m) := by
  unfold State.modeWrite
  lift_lets
  intro z0
  have hz0 : Steps mu org z0 := by
    dsimp only [z0]
    repeat' with_reducible first | assumption | apply State.wr_steps
  try clear_value z0
  repeat' with_reducible first | assumption | apply Steps.ite | apply State.raise_steps | apply State.linkFollow_steps | apply State.linkDown_steps | apply State.toBlank_steps

theorem execPakRetrain_steps (agent : Sys2Proof.Agent) (s : State) : Next (fun k => k ∈ [Part.out, Part.reck, Part.pak]) s (execPakRetrain agent s) := by
  unfold execPakRetrain
  repeat' with_reducible first | assumption | intro _ | exact Steps.refl _ _ | apply Next.done | apply State.access_steps | apply State.retrain_steps | decide

theorem execPakModeChange_steps (agent : Sys2Proof.Agent) (mode : BitVec 2) (s : State) : Next (fun k => k ∈ [Part.out, Part.reck, Part.pak]) s (execPakModeChange agent mode s) := by
  unfold execPakModeChange
  repeat' with_reducible first | assumption | intro _ | exact Steps.refl _ _ | apply Next.done | apply State.access_steps | apply State.modeWrite_steps | decide

theorem State.placeLane_steps {mu : Part → Prop} (mout : mu .out) (mreck : mu .reck) (mpak : mu .pak) {org s : State} (ho : Steps mu org s) (n : ℕ) (ro : ℕ) (l : ℕ) (r : ℕ) : Steps mu org (State.placeLane s n ro l r) := by
  unfold State.placeLane
  lift_lets
  intro z0
  have hz0 : Steps mu org z0 := by
    dsimp only [z0]
    repeat' with_reducible first | assumption | apply State.wrs_steps | apply State.setLaneRole_steps
  try clear_value z0
  repeat' with_reducible first | assumption | apply Steps.ite | apply State.modLane_steps | apply State.setFault_steps

theorem State.selectLanes_steps {mu : Part → Prop} (mout : mu .out) (mreck : mu .reck) (mpak : mu .pak) {org s : State} (ho : Steps mu org s)  : Steps mu org (State.selectLanes s) := by
  unfold State.selectLanes
  lift_lets
  intro z0; try clear_value z0
  intro z1
  try dsimp -zeta -zetaHave only [z1]
  intro z2
  try dsimp -zeta -zetaHave only [z2]
  intro z3; try clear_value z3
  intro z4
  have hz4 : Steps mu org z4 := by
    dsimp only [z4]
    repeat' with_reducible first | assumption | intro _ | apply Steps.foldl | apply Steps.ite | apply State.placeLane_steps
  try clear_value z4
  intro z5
  have hz5 : Steps mu org z5 := by
    dsimp only [z5]
    repeat' with_reducible first | assumption | apply State.countShow_steps | apply State.wr_steps
  try clear_value z5
  repeat' with_reducible first | assumption | apply Steps.ite | apply State.wr_steps | apply State.raise_steps

theorem execTrainPhaseComplete_steps (s : State) : Next (fun k => k ∈ [Part.out, Part.reck, Part.pak]) s (execTrainPhaseComplete s) := by
  unfold execTrainPhaseComplete
  repeat' with_reducible first | exact Steps.refl _ _ | apply Next.done | apply Next.ite | apply State.selectLanes_steps | decide

theorem execBringupTimeout_steps (s : State) : Next (fun k => k ∈ [Part.out]) s (execBringupTimeout s) := by
  unfold execBringupTimeout
  repeat' with_reducible first | exact Steps.refl _ _ | apply Next.done | apply Next.ite | apply State.raise_steps | apply State.wr_steps | decide

theorem State.laneRetrain_steps {mu : Part → Prop} (mout : mu .out) (mpak : mu .pak) {org s : State} (ho : Steps mu org s) (n : ℕ) : Steps mu org (State.laneRetrain s n) := by
  unfold State.laneRetrain
  repeat' with_reducible first | assumption | apply Steps.ite | apply State.modLane_steps | apply State.wr_steps | apply State.setLaneRole_steps | apply State.raise_steps

theorem execQlkRetrain_steps (agent : Sys2Proof.Agent) (n : ℕ) (s : State) : Next (fun k => k ∈ [Part.out, Part.reck, Part.pak]) s (execQlkRetrain agent n s) := by
  unfold execQlkRetrain
  repeat' with_reducible first | assumption | intro _ | exact Steps.refl _ _ | apply Next.done | apply Next.ite | apply State.access_steps | apply State.laneRetrain_steps | decide

theorem execLaneRetrainComplete_steps (n : ℕ) (s : State) : Next (fun k => k ∈ [Part.out, Part.reck, Part.pak]) s (execLaneRetrainComplete n s) := by
  unfold execLaneRetrainComplete
  repeat' with_reducible first | exact Steps.refl _ _ | apply Next.done | apply Next.ite | apply State.spare_steps | apply State.countShow_steps | apply State.placeLane_steps | split | decide

theorem State.modAry_steps {mu : Part → Prop} (mary : mu .ary) {org s : State} (ho : Steps mu org s) (f : Ary → Ary) : Steps mu org (State.modAry s f) := by
  unfold State.modAry
  repeat' with_reducible first | assumption | apply Steps.ary

theorem State.aryShow_steps {mu : Part → Prop} {org s : State} (ho : Steps mu org s)  : Steps mu org (State.aryShow s) := by
  unfold State.aryShow
  repeat' with_reducible first | assumption | apply State.setRunning_steps

theorem State.passFail_steps {mu : Part → Prop} (mout : mu .out) {org s : State} (ho : Steps mu org s) (res : ℕ) : Steps mu org (State.passFail s res) := by
  unfold State.passFail
  repeat' with_reducible first | assumption | apply State.aryShow_steps | apply State.raise_steps | apply State.wrs_steps

theorem State.passStart_steps {mu : Part → Prop} (mout : mu .out) (mary : mu .ary) {org s : State} (ho : Steps mu org s)  : Steps mu org (State.passStart s) := by
  unfold State.passStart
  lift_lets
  intro z0
  have hz0 : ∀ x0, Steps mu org (z0 x0) := by
    dsimp only [z0]
    repeat' with_reducible first | assumption | intro _ | apply State.raise_steps | apply State.wr_steps
  try clear_value z0
  repeat' with_reducible first | assumption | apply Steps.ite | apply State.wr_steps | apply State.aryShow_steps | apply State.modAry_steps | apply hz0

theorem execLoadPassport_steps (agent : Sys2Proof.Agent) (s : State) : Next (fun k => k ∈ [Part.out, Part.reck, Part.ary]) s (execLoadPassport agent s) := by
  unfold execLoadPassport
  repeat' with_reducible first | assumption | intro _ | exact Steps.refl _ _ | apply Next.done | apply State.newWork_steps | apply State.passStart_steps | decide

theorem State.passWrite_steps {mu : Part → Prop} {org s : State} (ho : Steps mu org s) (img : List Sys2Proof.Byte) (bank : ℕ) (n : ℕ) : Steps mu org (State.passWrite s img bank n) := by
  unfold State.passWrite
  lift_lets
  intro z0
  try dsimp -zeta -zetaHave only [z0]
  repeat' with_reducible first | assumption | intro _ | apply Steps.foldl | apply Steps.ite | apply State.wrs_steps | apply State.wr_steps

theorem execPassportLoadComplete_steps (image : List Sys2Proof.Byte) (written : ℕ) (s : State) : Next (fun k => k ∈ [Part.out]) s (execPassportLoadComplete image written s) := by
  unfold execPassportLoadComplete
  lift_lets
  intro z0
  have hz0 : Steps (fun k => k ∈ [Part.out]) s z0 := by
    dsimp only [z0]
    repeat' with_reducible first | exact Steps.refl _ _ | apply State.emit_steps | decide
  try clear_value z0
  intro z1; try clear_value z1
  intro z2
  have hz2 : Steps (fun k => k ∈ [Part.out]) s z2 := by
    dsimp only [z2]
    repeat' with_reducible first | assumption | apply State.passWrite_steps | apply State.wrs_steps
  try clear_value z2
  repeat' with_reducible first | assumption | exact Steps.refl _ _ | apply Next.done | apply Next.ite | apply State.passFail_steps | apply State.passWrite_steps | apply State.aryShow_steps | apply State.raise_steps | split | decide

theorem State.hkStart_steps {mu : Part → Prop} (mout : mu .out) (mary : mu .ary) {org s : State} (ho : Steps mu org s)  : Steps mu org (State.hkStart s) := by
  unfold State.hkStart
  repeat' with_reducible first | assumption | apply Steps.ite | apply State.raise_steps | apply State.aryShow_steps | apply State.modAry_steps | apply State.wr_steps

theorem execHkGo_steps (agent : Sys2Proof.Agent) (write : Bool) (addr : BitVec 8) (data : BitVec 16) (s : State) : Next (fun k => k ∈ [Part.out, Part.reck, Part.ary]) s (execHkGo agent write addr data s) := by
  unfold execHkGo
  repeat' with_reducible first | assumption | intro _ | exact Steps.refl _ _ | apply Next.done | apply State.newWork_steps | apply State.raise_steps | apply State.hkStart_steps | apply State.wrs_steps | split | decide

theorem execHkTransactionComplete_steps (value : BitVec 16) (s : State) : Next (fun k => k ∈ [Part.out, Part.ary]) s (execHkTransactionComplete value s) := by
  unfold execHkTransactionComplete
  lift_lets
  intro z0
  have hz0 : Steps (fun k => k ∈ [Part.out, Part.ary]) s z0 := by
    dsimp only [z0]
    repeat' with_reducible first | exact Steps.refl _ _ | apply State.wr_steps | apply State.modAry_steps | decide
  try clear_value z0
  repeat' with_reducible first | assumption | exact Steps.refl _ _ | apply Next.done | apply State.wr_steps | apply State.emit_steps | apply State.raise_steps | apply State.aryShow_steps | split | decide

theorem execTemperaturePoll_steps (value : BitVec 16) (s : State) : Next (fun k => k ∈ [Part.out, Part.reck, Part.mot, Part.fab, Part.net]) s (execTemperaturePoll value s) := by
  unfold execTemperaturePoll
  repeat' with_reducible first | exact Steps.refl _ _ | apply Next.done | apply Next.ite | apply State.tempReport_steps | apply State.emit_steps | decide

theorem execArrayAlert_steps (s : State) : Next (fun k => k ∈ [Part.out]) s (execArrayAlert s) := by
  unfold execArrayAlert
  repeat' with_reducible first | exact Steps.refl _ _ | apply Next.done | apply State.raise_steps | split | decide

theorem State.detShow_steps {mu : Part → Prop} (mout : mu .out) (mreck : mu .reck) {org s : State} (ho : Steps mu org s)  : Steps mu org (State.detShow s) := by
  unfold State.detShow
  repeat' with_reducible first | assumption | apply Steps.ite | apply State.setFault_steps

theorem State.gapRelease_steps {mu : Part → Prop} (mmot : mu .mot) {org s : State} (ho : Steps mu org s)  : Steps mu org (State.gapRelease s) := by
  unfold State.gapRelease
  repeat' with_reducible first | assumption | apply State.wr_steps | apply State.modMot_steps

theorem State.runDiscard_steps {mu : Part → Prop} (mout : mu .out) (mmot : mu .mot) (mary : mu .ary) {org s : State} (ho : Steps mu org s)  : Steps mu org (State.runDiscard s) := by
  unfold State.runDiscard
  lift_lets
  intro z0
  have hz0 : Steps mu org z0 := by
    dsimp only [z0]
    repeat' with_reducible first | assumption | apply State.aryShow_steps | apply State.raise_steps | apply State.wr_steps | apply State.modAry_steps
  try clear_value z0
  repeat' with_reducible first | assumption | apply Steps.ite | apply State.gapRelease_steps

theorem execDetectorLockChange_steps (ch : ℕ) (locked : Bool) (rate : ℕ) (s : State) : Next (fun k => k ∈ [Part.out, Part.reck, Part.mot, Part.pak, Part.ary]) s (execDetectorLockChange ch locked rate s) := by
  unfold execDetectorLockChange
  lift_lets
  intro z0; try clear_value z0
  intro z1; try clear_value z1
  intro z2
  have hz2 : Steps (fun k => k ∈ [Part.out, Part.reck, Part.mot, Part.pak, Part.ary]) s z2 := by
    dsimp only [z2]
    repeat' with_reducible first | exact Steps.refl _ _ | apply State.detShow_steps | apply State.raise_steps | apply State.wrs_steps | decide
  try clear_value z2
  intro z3
  try dsimp -zeta -zetaHave only [z3]
  intro z4
  have hz4 : Steps (fun k => k ∈ [Part.out, Part.reck, Part.mot, Part.pak, Part.ary]) s z4 := by
    dsimp only [z4]
    repeat' with_reducible first | assumption | (intro (hh : Pak.shaped _); first | (simpa [Pak.shaped, setAt, modAt] using hh; done) | (simp [Pak.shaped, setAt, modAt] at hh ⊢; omega)) | apply Steps.ite | apply Steps.pak | decide
  try clear_value z4
  repeat' with_reducible first | assumption | exact Steps.refl _ _ | apply Next.done | apply Next.ite | apply State.runDiscard_steps | split | decide

theorem State.bcStart_steps {mu : Part → Prop} (mary : mu .ary) {org s : State} (ho : Steps mu org s)  : Steps mu org (State.bcStart s) := by
  unfold State.bcStart
  lift_lets
  intro z0
  try dsimp -zeta -zetaHave only [z0]
  intro z1; try clear_value z1
  repeat' with_reducible first | assumption | apply Steps.ite | apply State.wr_steps | apply State.aryShow_steps | apply State.modAry_steps

theorem State.bcAbort_steps {mu : Part → Prop} (mary : mu .ary) {org s : State} (ho : Steps mu org s)  : Steps mu org (State.bcAbort s) := by
  unfold State.bcAbort
  repeat' with_reducible first | assumption | apply Steps.ite | apply State.modAry_steps | apply State.aryShow_steps

theorem execAryBcStart_steps (agent : Sys2Proof.Agent) (all : Bool) (part : BitVec 4) (s : State) : Next (fun k => k ∈ [Part.out, Part.reck, Part.ary]) s (execAryBcStart agent all part s) := by
  unfold execAryBcStart
  repeat' with_reducible first | assumption | intro _ | exact Steps.refl _ _ | apply Next.done | apply State.newWork_steps | apply State.bcStart_steps | apply State.wrs_steps | decide

theorem execAryBcAbort_steps (agent : Sys2Proof.Agent) (s : State) : Next (fun k => k ∈ [Part.out, Part.reck, Part.ary]) s (execAryBcAbort agent s) := by
  unfold execAryBcAbort
  repeat' with_reducible first | assumption | intro _ | exact Steps.refl _ _ | apply Next.done | apply State.access_steps | apply State.bcAbort_steps | decide

theorem State.startRun_steps {mu : Part → Prop} (mout : mu .out) (mary : mu .ary) {org s : State} (ho : Steps mu org s) (ss : Session) : Steps mu org (State.startRun s ss) := by
  unfold State.startRun
  lift_lets
  intro z0; try clear_value z0
  repeat' with_reducible first | assumption | apply State.aryShow_steps | apply State.wr_steps | apply State.modAry_steps | apply State.emit_steps

theorem execCheckRunStart_steps (left : ℕ) (s : State) : Next (fun k => k ∈ [Part.out, Part.mot, Part.ary]) s (execCheckRunStart left s) := by
  unfold execCheckRunStart
  lift_lets
  intro z0; try clear_value z0
  repeat' with_reducible first | exact Steps.refl _ _ | apply Next.done | apply Next.ite | apply State.startRun_steps | apply State.gapRelease_steps | split | decide

theorem State.putResult_steps {mu : Part → Prop} (mhbm : mu .hbm) (mout : mu .out) (mmem : mu .mem) {org s : State} (ho : Steps mu org s) (b : ℕ) (session : ℕ) (cls : ℕ) (r : ℕ) : Steps mu org (State.putResult s b session cls r) := by
  unfold State.putResult
  repeat' with_reducible first | assumption | apply Steps.ite | apply State.hbmStore_steps

theorem State.putClass_steps {mu : Part → Prop} (mout : mu .out) {org s : State} (ho : Steps mu org s) (bank : ℕ) (b : ℕ) (cls : ℕ) (session : ℕ) : Steps mu org (State.putClass s bank b cls session) := by
  unfold State.putClass
  lift_lets
  intro z0; try clear_value z0
  repeat' with_reducible first | assumption | apply State.raise_steps | apply State.satInc_steps | apply State.wrs_steps

theorem State.writeClass_steps {mu : Part → Prop} (mout : mu .out) (mary : mu .ary) {org s : State} (ho : Steps mu org s) (bank : ℕ) (session : ℕ) (b : ℕ) (cls : ℕ) (host : Bool) : Steps mu org (State.writeClass s bank session b cls host) := by
  unfold State.writeClass
  repeat' with_reducible first | assumption | apply Steps.ite | apply State.satInc_steps | apply State.modAry_steps | apply State.putClass_steps

theorem State.gainTarget_steps {mu : Part → Prop} (mfree : mu .free) {org s : State} (ho : Steps mu org s) (r : ℕ) : Steps mu org (State.gainTarget s r).2 := by
  unfold State.gainTarget
  repeat' with_reducible first | assumption | apply State.draw_steps | split

theorem State.writeGain_steps {mu : Part → Prop} (mfree : mu .free) (mary : mu .ary) {org s : State} (ho : Steps mu org s) (bank : ℕ) (session : ℕ) (b : ℕ) (cls : ℕ) (r : ℕ) (host : Bool) : Steps mu org (State.writeGain s bank session b cls r host) := by
  unfold State.writeGain
  lift_lets
  intro z0
  have hz0 : Steps mu org z0 := by
    dsimp only [z0]
    repeat' with_reducible first | assumption | apply State.gainTarget_steps
  try clear_value z0
  intro z1; try clear_value z1
  intro z2; try clear_value z2
  intro z3; try clear_value z3
  intro z4; try clear_value z4
  intro z5
  have hz5 : Steps mu org z5 := by
    dsimp only [z5]
    repeat' with_reducible first | assumption | apply State.satInc_steps
  try clear_value z5
  repeat' with_reducible first | assumption | apply Steps.ite | apply State.satInc_steps | apply State.modAry_steps | apply State.wrs_steps

theorem State.writeBack_steps {mu : Part → Prop} (mfree : mu .free) (mout : mu .out) (mary : mu .ary) {org s : State} (ho : Steps mu org s) (bs : List ℕ) (session : ℕ) (host : List ℕ) : Steps mu org (State.writeBack s bs session host) := by
  unfold State.writeBack
  lift_lets
  intro z0; try clear_value z0
  intro z1; try clear_value z1
  intro z2
  try dsimp -zeta -zetaHave only [z2]
  intro z3
  have hz3 : Steps mu org z3 := by
    dsimp only [z3]
    repeat' with_reducible first | assumption | apply Steps.ite | apply State.btInject_steps
  try clear_value z3
  intro z4
  have hz4 : Steps mu org z4 := by
    dsimp only [z4]
    repeat' with_reducible first | assumption | intro _ | apply Steps.foldl | apply State.writeClass_steps
  try clear_value z4
  repeat' with_reducible first | assumption | intro _ | apply Steps.foldl | apply State.writeGain_steps

theorem State.writeBackRun_steps {mu : Part → Prop} (mfree : mu .free) (mout : mu .out) (mary : mu .ary) {org s : State} (ho : Steps mu org s) (bs : List ℕ) (host : List ℕ) : Steps mu org (State.writeBackRun s bs host) := by
  unfold State.writeBackRun
  repeat' with_reducible first | assumption | apply Steps.ite | apply State.writeBack_steps | apply State.raise_steps | apply State.wr_steps | apply State.modAry_steps

theorem State.writeStuck_steps {mu : Part → Prop} (mout : mu .out) (mary : mu .ary) {org s : State} (ho : Steps mu org s) (bs : List ℕ) (session : ℕ) : Steps mu org (State.writeStuck s bs session) := by
  unfold State.writeStuck
  lift_lets
  intro z0; try clear_value z0
  repeat' with_reducible first | assumption | intro _ | apply Steps.foldl | apply Steps.ite | apply State.modAry_steps | apply State.putClass_steps

theorem State.partEnd_steps {mu : Part → Prop} (mout : mu .out) (mmot : mu .mot) (malc : mu .alc) (mary : mu .ary) {org s : State} (ho : Steps mu org s) (ss : Session) (stuck : List ℕ) : Steps mu org (State.partEnd s ss stuck) := by
  unfold State.partEnd
  lift_lets
  intro z0; try clear_value z0
  intro z1
  have hz1 : Steps mu org z1 := by
    dsimp only [z1]
    repeat' with_reducible first | assumption | intro _ | apply Steps.foldl | apply State.emit_steps
  try clear_value z1
  intro z2
  try dsimp -zeta -zetaHave only [z2]
  intro z3; try clear_value z3
  intro z4
  have hz4 : Steps mu org z4 := by
    dsimp only [z4]
    repeat' with_reducible first | assumption | apply Steps.ite | apply State.writeStuck_steps | apply State.raise_steps | apply State.wr_steps | apply State.modAry_steps
  try clear_value z4
  intro z5; try clear_value z5
  intro z6
  have hz6 : Steps mu org z6 := by
    dsimp only [z6]
    repeat' with_reducible first | assumption | apply State.raise_steps | apply State.wrapInc_steps
  try clear_value z6
  intro z7
  have hz7 : Steps mu org z7 := by
    dsimp only [z7]
    repeat' with_reducible first | assumption | apply Steps.ite | apply State.swap_steps
  try clear_value z7
  intro z8
  try dsimp -zeta -zetaHave only [z8]
  repeat' with_reducible first | assumption | apply Steps.ite | apply State.modAry_steps | apply State.gapRelease_steps | apply State.wrs_steps

theorem State.runAfter_steps {mu : Part → Prop} (mout : mu .out) (mmot : mu .mot) (malc : mu .alc) (mary : mu .ary) {org s : State} (ho : Steps mu org s) (ss : Session) (count : ℕ) (stuck : List ℕ) : Steps mu org (State.runAfter s ss count stuck) := by
  unfold State.runAfter
  lift_lets
  intro z0; try clear_value z0
  intro z1
  have hz1 : Steps mu org z1 := by
    dsimp only [z1]
    repeat' with_reducible first | assumption | apply Steps.ite | apply State.wr_steps
  try clear_value z1
  repeat' with_reducible first | assumption | apply Steps.ite | apply State.aryShow_steps | apply State.partEnd_steps | apply State.modAry_steps

theorem execCheckRunComplete_steps (dark : ℤ) (darkN : ℕ) (slots : List (ℤ × ℕ)) (stuck : List ℕ) (hostHit : List ℕ) (s : State) : Next (fun k => k ∈ [Part.hbm, Part.free, Part.out, Part.reck, Part.mot, Part.alc, Part.ary, Part.mem]) s (execCheckRunComplete dark darkN slots stuck hostHit s) := by
  unfold execCheckRunComplete
  lift_lets
  intro z0
  have hz0 : Steps (fun k => k ∈ [Part.hbm, Part.free, Part.out, Part.reck, Part.mot, Part.alc, Part.ary, Part.mem]) s z0 := by
    dsimp only [z0]
    repeat' with_reducible first | exact Steps.refl _ _ | apply State.wr_steps | apply State.modAry_steps | decide
  try clear_value z0
  intro z1; try clear_value z1
  intro z2; try clear_value z2
  intro z3
  have hz3 : Steps (fun k => k ∈ [Part.hbm, Part.free, Part.out, Part.reck, Part.mot, Part.alc, Part.ary, Part.mem]) s z3 := by
    dsimp only [z3]
    repeat' with_reducible first | assumption | apply Steps.ite | apply State.modAry_steps | decide
  try clear_value z3
  intro z4; try clear_value z4
  intro z5; try clear_value z5
  repeat' with_reducible first | assumption | intro _ | exact Steps.refl _ _ | apply Steps.foldl | apply Next.done | apply Next.ite | apply State.modAry_steps | apply State.runDiscard_steps | apply State.raise_steps | apply State.setFault_steps | apply State.putResult_steps | apply State.runAfter_steps | apply State.writeBackRun_steps | split | dsimp only | decide

theorem execWriteBackApply_steps (s : State) : Next (fun k => k ∈ [Part.free, Part.out, Part.ary]) s (execWriteBackApply s) := by
  unfold execWriteBackApply
  lift_lets
  intro z0
  try dsimp -zeta -zetaHave only [z0]
  intro z1; try clear_value z1
  intro z2; try clear_value z2
  intro z3
  have hz3 : Steps (fun k => k ∈ [Part.free, Part.out, Part.ary]) s z3 := by
    dsimp only [z3]
    repeat' with_reducible first | exact Steps.refl _ _ | apply State.wr_steps | apply State.modAry_steps | decide
  try clear_value z3
  repeat' with_reducible first | assumption | exact Steps.refl _ _ | apply Next.done | apply Next.ite | apply State.writeStuck_steps | apply State.writeBack_steps | decide

theorem execReceiverAdaptationStep_steps (rx : ℕ) (ctle : ℤ) (phase : ℤ) (taps : List ℤ) (eyeW : BitVec 8) (eyeH : BitVec 8) (s : State) : Next (fun k => k ∈ [Part.pak]) s (execReceiverAdaptationStep rx ctle phase taps eyeW eyeH s) := by
  unfold execReceiverAdaptationStep
  lift_lets
  intro z0
  have hz0 : Steps (fun k => k ∈ [Part.pak]) s z0 := by
    dsimp only [z0]
    repeat' with_reducible first | exact Steps.refl _ _ | apply State.wrs_steps
  try clear_value z0
  intro z1; try clear_value z1
  intro z2; try clear_value z2
  intro z3; try clear_value z3
  intro z4; try clear_value z4
  intro z5
  have hz5 : Steps (fun k => k ∈ [Part.pak]) s z5 := by
    dsimp only [z5]
    repeat' with_reducible first | assumption | apply State.wrs_steps
  try clear_value z5
  repeat' with_reducible first | assumption | (intro (hh : Pak.shaped _); first | (simpa [Pak.shaped, setAt, modAt] using hh; done) | (simp [Pak.shaped, setAt, modAt] at hh ⊢; omega)) | intro _ | exact Steps.refl _ _ | apply Next.done | apply Next.ite | apply State.modPak_steps | decide

theorem execDetectorPhaseStep_steps (ch : ℕ) (mid : ℕ) (s : State) : Next (fun k => k ∈ ([] : List Part)) s (execDetectorPhaseStep ch mid s) := by
  unfold execDetectorPhaseStep
  repeat' with_reducible first | exact Steps.refl _ _ | apply Next.done | apply Next.ite | apply State.wr_steps

theorem State.eyeShow_steps {mu : Part → Prop} {org s : State} (ho : Steps mu org s) (n : ℕ) : Steps mu org (State.eyeShow s n) := by
  unfold State.eyeShow
  repeat' with_reducible first | assumption | apply Steps.ite | apply State.wrs_steps | split

theorem State.scanEnds_steps {mu : Part → Prop} (mpak : mu .pak) {org s : State} (ho : Steps mu org s) (n : ℕ) (l : List (ℕ × ℕ)) : Steps mu org (State.scanEnds s n l) := by
  unfold State.scanEnds
  lift_lets
  intro z0; try clear_value z0
  intro z1
  have hz1 : Steps mu org z1 := by
    dsimp only [z1]
    repeat' with_reducible first | assumption | (intro (hh : Pak.shaped _); first | (simpa [Pak.shaped, setAt, modAt] using hh; done) | (simp [Pak.shaped, setAt, modAt] at hh ⊢; omega)) | intro _ | apply State.modLane_steps | apply State.satInc_steps | apply State.modPak_steps
  try clear_value z1
  intro z2; try clear_value z2
  intro z3; try clear_value z3
  intro z4
  have hz4 : Steps mu org z4 := by
    dsimp only [z4]
    repeat' with_reducible first | assumption | apply Steps.ite | apply State.wr_steps
  try clear_value z4
  repeat' with_reducible first | assumption | apply State.eyeShow_steps

theorem execMarginScanStep_steps (n : ℕ) (passed : Bool) (s : State) : Next (fun k => k ∈ [Part.pak]) s (execMarginScanStep n passed s) := by
  unfold execMarginScanStep
  lift_lets
  intro z0; try clear_value z0
  intro z1
  have hz1 : ∀ x0, Steps (fun k => k ∈ [Part.pak]) s (z1 x0) := by
    dsimp only [z1]
    repeat' with_reducible first | intro _ | exact Steps.refl _ _ | apply State.modLane_steps | decide
  try clear_value z1
  intro z2; try clear_value z2
  repeat' with_reducible first | exact Steps.refl _ _ | apply Next.done | apply Next.ite | apply State.scanEnds_steps | apply hz1 | decide

theorem State.calShow_steps {mu : Part → Prop} (mmot : mu .mot) {org s : State} (ho : Steps mu org s)  : Steps mu org (State.calShow s) := by
  unfold State.calShow
  repeat' with_reducible first | assumption | apply Steps.ite | apply State.wr_steps | apply State.modMot_steps

theorem execLaneRotation_steps (s : State) : Next (fun k => k ∈ [Part.out, Part.mot, Part.pak]) s (execLaneRotation s) := by
  unfold execLaneRotation
  repeat' with_reducible first | (intro (hh : Pak.shaped _); first | (simpa [Pak.shaped, setAt, modAt] using hh; done) | (simp [Pak.shaped, setAt, modAt] at hh ⊢; omega)) | intro _ | exact Steps.refl _ _ | apply Next.done | apply Next.ite | apply State.modLane_steps | apply State.wr_steps | apply State.setLaneRole_steps | apply State.countShow_steps | apply State.modPak_steps | apply State.calShow_steps | split | decide

theorem execRotationAdoptionTimeout_steps (s : State) : Next (fun k => k ∈ [Part.out, Part.mot, Part.pak]) s (execRotationAdoptionTimeout s) := by
  unfold execRotationAdoptionTimeout
  repeat' with_reducible first | exact Steps.refl _ _ | apply Next.done | apply Next.ite | apply State.calShow_steps | apply State.unrotate_steps | decide

theorem State.alnEnd_steps {mu : Part → Prop} (mmot : mu .mot) (mpak : mu .pak) {org s : State} (ho : Steps mu org s) (res : ℕ) : Steps mu org (State.alnEnd s res) := by
  unfold State.alnEnd
  repeat' with_reducible first | assumption | (intro (hh : Pak.shaped _); first | (simpa [Pak.shaped, setAt, modAt] using hh; done) | (simp [Pak.shaped, setAt, modAt] at hh ⊢; omega)) | intro _ | apply State.calShow_steps | apply State.wrs_steps | apply State.modPak_steps

theorem State.alnDiscard_steps {mu : Part → Prop} (mmot : mu .mot) (mpak : mu .pak) {org s : State} (ho : Steps mu org s) (res : ℕ) : Steps mu org (State.alnDiscard s res) := by
  unfold State.alnDiscard
  repeat' with_reducible first | assumption | (intro (hh : Pak.shaped _); first | (simpa [Pak.shaped, setAt, modAt] using hh; done) | (simp [Pak.shaped, setAt, modAt] at hh ⊢; omega)) | intro _ | apply State.alnEnd_steps | apply State.modPak_steps

theorem execAlignmentRunStart_steps (now : ℤ) (s : State) : Next (fun k => k ∈ [Part.mot, Part.pak]) s (execAlignmentRunStart now s) := by
  unfold execAlignmentRunStart
  repeat' with_reducible first | (intro (hh : Pak.shaped _); first | (simpa [Pak.shaped, setAt, modAt] using hh; done) | (simp [Pak.shaped, setAt, modAt] at hh ⊢; omega)) | intro _ | exact Steps.refl _ _ | apply Next.done | apply Next.ite | apply State.alnEnd_steps | apply State.wr_steps | apply State.modPak_steps | split | decide

theorem execAlignmentTickEdge_steps (s : State) : Next (fun k => k ∈ [Part.out, Part.mot, Part.pak]) s (execAlignmentTickEdge s) := by
  unfold execAlignmentTickEdge
  repeat' with_reducible first | (intro (hh : Pak.shaped _); first | (simpa [Pak.shaped, setAt, modAt] using hh; done) | (simp [Pak.shaped, setAt, modAt] at hh ⊢; omega)) | intro _ | exact Steps.refl _ _ | apply Next.done | apply Next.ite | apply State.alnDiscard_steps | apply State.modMot_steps | apply State.emit_steps | apply State.modPak_steps | split | decide

theorem State.alnApply_steps {mu : Part → Prop} (mmot : mu .mot) (mpak : mu .pak) {org s : State} (ho : Steps mu org s) (r : AlnRun) (pulses : List Sys2Proof.AlnPulse) : Steps mu org (State.alnApply s r pulses) := by
  unfold State.alnApply
  lift_lets
  intro z0; try clear_value z0
  intro z1; try clear_value z1
  repeat' with_reducible first | assumption | intro _ | apply Steps.foldl | apply State.alnEnd_steps | apply State.wr_steps | apply State.satInc_steps | apply State.wrs_steps | split

theorem execAlignmentRunComplete_steps (pulses : List Sys2Proof.AlnPulse) (s : State) : Next (fun k => k ∈ [Part.mot, Part.pak]) s (execAlignmentRunComplete pulses s) := by
  unfold execAlignmentRunComplete
  repeat' with_reducible first | exact Steps.refl _ _ | apply Next.done | apply Next.ite | apply State.alnDiscard_steps | apply State.alnApply_steps | split | decide

end Sys2Proof.Machine
end

