-- ==== Sys2Proof/Laws/StepsWriter.lean ====
section
/-!
SUPPORT. What each operation and each meaning of ingest, expansion and the tile pairs can change.
-/
set_option linter.all false
open Sys2Proof (Agent)

namespace Sys2Proof.Machine

theorem State.showResume_steps {mu : Part → Prop} {org s : State} (ho : Steps mu org s) (o : ℕ) : Steps mu org (State.showResume s o) := by
  unfold State.showResume
  repeat' with_reducible first | assumption | apply State.wrs_steps

theorem State.showError_steps {mu : Part → Prop} {org s : State} (ho : Steps mu org s) (code : ℕ) (rtype : ℕ) (ofs : ℕ) (blk : ℕ) : Steps mu org (State.showError s code rtype ofs blk) := by
  unfold State.showError
  repeat' with_reducible first | assumption | apply State.wrs_steps

theorem State.shareEnds_steps {mu : Part → Prop} (mout : mu .out) (mfab : mu .fab) {org s : State} (ho : Steps mu org s)  : Steps mu org (State.shareEnds s) := by
  unfold State.shareEnds
  lift_lets
  intro z0
  try dsimp -zeta -zetaHave only [z0]
  repeat' with_reducible first | assumption | apply Steps.ite | apply State.raise_steps | apply Steps.fab

theorem State.setDelivery_steps {mu : Part → Prop} (mout : mu .out) (ming : mu .ing) (mfab : mu .fab) {org s : State} (ho : Steps mu org s) (d : Option Delivery) : Steps mu org (State.setDelivery s d) := by
  unfold State.setDelivery
  lift_lets
  intro z0
  try dsimp -zeta -zetaHave only [z0]
  intro z1
  have hz1 : Steps mu org z1 := by
    dsimp only [z1]
    repeat' with_reducible first | assumption | (intro (hh : Ing.shaped _); first | (simpa [Ing.shaped, setAt, modAt] using hh; done) | (simp [Ing.shaped, setAt, modAt] at hh ⊢; omega)) | apply Steps.ing
  try clear_value z1
  repeat' with_reducible first | assumption | apply Steps.ite | apply State.shareEnds_steps

theorem State.setRepair_steps {mu : Part → Prop} (mout : mu .out) (ming : mu .ing) (mfab : mu .fab) {org s : State} (ho : Steps mu org s) (r : Option Repair) : Steps mu org (State.setRepair s r) := by
  unfold State.setRepair
  lift_lets
  intro z0
  try dsimp -zeta -zetaHave only [z0]
  intro z1
  have hz1 : Steps mu org z1 := by
    dsimp only [z1]
    repeat' with_reducible first | assumption | (intro (hh : Ing.shaped _); first | (simpa [Ing.shaped, setAt, modAt] using hh; done) | (simp [Ing.shaped, setAt, modAt] at hh ⊢; omega)) | apply Steps.ing
  try clear_value z1
  repeat' with_reducible first | assumption | apply Steps.ite | apply State.shareEnds_steps

theorem State.clearLayout_steps {mu : Part → Prop} (ming : mu .ing) {org s : State} (ho : Steps mu org s) (h : ℕ) : Steps mu org (State.clearLayout s h) := by
  unfold State.clearLayout
  lift_lets
  intro z0
  try dsimp -zeta -zetaHave only [z0]
  repeat' with_reducible first | assumption | (intro (hh : Ing.shaped _); first | (simpa [Ing.shaped, setAt, modAt] using hh; done) | (simp [Ing.shaped, setAt, modAt] at hh ⊢; omega)) | apply Steps.ing

theorem State.reject_steps {mu : Part → Prop} (mout : mu .out) (ming : mu .ing) (mfab : mu .fab) {org s : State} (ho : Steps mu org s) (d : Delivery) (code : ℕ) (rtype : ℕ) (ofs : ℕ) : Steps mu org (State.reject s d code rtype ofs) := by
  unfold State.reject
  repeat' with_reducible first | assumption | apply State.ingShow_steps | apply State.raise_steps | apply State.setDelivery_steps | apply State.clearLayout_steps | apply State.wr_steps | apply State.showError_steps

theorem State.loadFields_steps {mu : Part → Prop} {org s : State} (ho : Steps mu org s) (handle : ℕ) (source : ℕ) (repair : Bool) : Steps mu org (State.loadFields s handle source repair) := by
  unfold State.loadFields
  repeat' with_reducible first | assumption | apply State.wrs_steps

theorem State.deliveryStart_steps {mu : Part → Prop} (mout : mu .out) (ming : mu .ing) (mfab : mu .fab) {org s : State} (ho : Steps mu org s) (h : ℕ) (source : ℕ) : Steps mu org (State.deliveryStart s h source) := by
  unfold State.deliveryStart
  lift_lets
  intro z0
  have hz0 : Steps mu org z0 := by
    dsimp only [z0]
    repeat' with_reducible first | assumption | apply State.loadFields_steps
  try clear_value z0
  repeat' with_reducible first | assumption | apply Steps.ite | apply State.raise_steps | apply State.wr_steps | apply State.ingShow_steps | apply State.setDelivery_steps | apply State.modLay_steps | apply State.showResume_steps

theorem execDeliveryStart_steps (agent : Sys2Proof.Agent) (handle : BitVec 4) (source : BitVec 2) (s : State) : Next (fun k => k ∈ [Part.out, Part.reck, Part.ing, Part.fab]) s (execDeliveryStart agent handle source s) := by
  unfold execDeliveryStart
  repeat' with_reducible first | assumption | intro _ | exact Steps.refl _ _ | apply Next.done | apply State.access_steps | apply State.deliveryStart_steps | decide

theorem State.repairStart_steps {mu : Part → Prop} (mout : mu .out) (ming : mu .ing) (mfab : mu .fab) {org s : State} (ho : Steps mu org s) (h : ℕ) (source : ℕ) : Steps mu org (State.repairStart s h source) := by
  unfold State.repairStart
  lift_lets
  intro z0
  have hz0 : Steps mu org z0 := by
    dsimp only [z0]
    repeat' with_reducible first | assumption | apply State.loadFields_steps
  try clear_value z0
  repeat' with_reducible first | assumption | apply Steps.ite | apply State.raise_steps | apply State.wr_steps | apply State.ingShow_steps | apply State.setRepair_steps | apply State.showResume_steps | split

theorem execRepairStart_steps (agent : Sys2Proof.Agent) (handle : BitVec 4) (source : BitVec 2) (s : State) : Next (fun k => k ∈ [Part.out, Part.reck, Part.ing, Part.fab]) s (execRepairStart agent handle source s) := by
  unfold execRepairStart
  repeat' with_reducible first | assumption | intro _ | exact Steps.refl _ _ | apply Next.done | apply State.access_steps | apply State.repairStart_steps | decide

theorem State.endRepair_steps {mu : Part → Prop} (mout : mu .out) (ming : mu .ing) (mfab : mu .fab) {org s : State} (ho : Steps mu org s) (r : Repair) : Steps mu org (State.endRepair s r) := by
  unfold State.endRepair
  lift_lets
  intro z0
  have hz0 : Steps mu org z0 := by
    dsimp only [z0]
    repeat' with_reducible first | assumption | apply State.setRepair_steps
  try clear_value z0
  repeat' with_reducible first | assumption | apply State.ingShow_steps | apply State.showResume_steps | apply State.wr_steps | split

theorem State.endDelivery_steps {mu : Part → Prop} (mout : mu .out) (ming : mu .ing) (mfab : mu .fab) {org s : State} (ho : Steps mu org s) (d : Delivery) : Steps mu org (State.endDelivery s d) := by
  unfold State.endDelivery
  repeat' with_reducible first | assumption | apply State.ingShow_steps | apply State.setDelivery_steps | apply State.clearLayout_steps | apply State.wrs_steps | apply State.showError_steps

theorem State.deliveryAbort_steps {mu : Part → Prop} (mout : mu .out) (ming : mu .ing) (mfab : mu .fab) {org s : State} (ho : Steps mu org s)  : Steps mu org (State.deliveryAbort s) := by
  unfold State.deliveryAbort
  repeat' with_reducible first | assumption | apply State.raise_steps | apply State.endRepair_steps | apply State.endDelivery_steps | split

theorem execDeliveryAbort_steps (agent : Sys2Proof.Agent) (s : State) : Next (fun k => k ∈ [Part.out, Part.reck, Part.ing, Part.fab]) s (execDeliveryAbort agent s) := by
  unfold execDeliveryAbort
  repeat' with_reducible first | assumption | intro _ | exact Steps.refl _ _ | apply Next.done | apply State.access_steps | apply State.deliveryAbort_steps | decide

theorem State.ingestOffer_steps {mu : Part → Prop} (mout : mu .out) (ming : mu .ing) (mfab : mu .fab) {org s : State} (ho : Steps mu org s) (source : ℕ) (handle : ℕ) (ofs : ℕ) (bytes : List Sys2Proof.Byte) : Steps mu org (State.ingestOffer s source handle ofs bytes) := by
  unfold State.ingestOffer
  lift_lets
  intro z0
  have hz0 : Steps mu org z0 := by
    dsimp only [z0]
    repeat' with_reducible first | assumption | apply State.satInc_steps
  try clear_value z0
  repeat' with_reducible first | assumption | apply Steps.ite | apply State.showResume_steps | apply State.setRepair_steps | apply State.setDelivery_steps | split

theorem execIngestTransfer_steps (source : ℕ) (handle : ℕ) (ofs : ℕ) (bytes : List Sys2Proof.Byte) (s : State) : Next (fun k => k ∈ [Part.out, Part.ing, Part.fab]) s (execIngestTransfer source handle ofs bytes s) := by
  unfold execIngestTransfer
  repeat' with_reducible first | exact Steps.refl _ _ | apply Next.done | apply State.ingestOffer_steps | decide

theorem State.blockFails_steps {mu : Part → Prop} (mout : mu .out) (ming : mu .ing) (mfab : mu .fab) {org s : State} (ho : Steps mu org s) (d : Delivery) (code : ℕ) : Steps mu org (State.blockFails s d code) := by
  unfold State.blockFails
  lift_lets
  intro z0; try clear_value z0
  intro z1
  have hz1 : Steps mu org z1 := by
    dsimp only [z1]
    repeat' with_reducible first | assumption | apply State.raise_steps | apply State.wr_steps | apply State.showError_steps
  try clear_value z1
  repeat' with_reducible first | assumption | apply Steps.ite | apply State.reject_steps | apply State.showResume_steps | apply State.setDelivery_steps

theorem State.blockFound_steps {mu : Part → Prop} (mout : mu .out) (ming : mu .ing) (mfab : mu .fab) {org s : State} (ho : Steps mu org s) (d : Delivery) (len : ℕ) : Steps mu org (State.blockFound s d len) := by
  unfold State.blockFound
  lift_lets
  intro z0; try clear_value z0
  intro z1; try clear_value z1
  intro z2
  have hz2 : Steps mu org z2 := by
    dsimp only [z2]
    repeat' with_reducible first | assumption | apply Steps.ite | apply State.wr_steps | apply State.showError_steps
  try clear_value z2
  repeat' with_reducible first | assumption | apply Steps.ite | apply State.blockFails_steps | apply State.showResume_steps | apply State.setDelivery_steps | apply State.satInc_steps | apply State.wr_steps

theorem State.repairFails_steps {mu : Part → Prop} (mout : mu .out) (ming : mu .ing) (mfab : mu .fab) {org s : State} (ho : Steps mu org s) (r : Repair) (code : ℕ) (blk : ℕ) : Steps mu org (State.repairFails s r code blk) := by
  unfold State.repairFails
  lift_lets
  intro z0; try clear_value z0
  intro z1
  have hz1 : Steps mu org z1 := by
    dsimp only [z1]
    repeat' with_reducible first | assumption | apply State.raise_steps | apply State.wr_steps | apply State.showError_steps
  try clear_value z1
  repeat' with_reducible first | assumption | apply Steps.ite | apply State.endRepair_steps | apply State.showResume_steps | apply State.setRepair_steps

theorem State.layStore_steps {mu : Part → Prop} (mhbm : mu .hbm) (mout : mu .out) (mmem : mu .mem) (l : Layout) (n : Nat) : ∀ {q s : State}, Steps mu q s → ∀ (o : Nat) (b : List Byte), Steps mu q (s.layStore l n o b) := by
  induction n with
  | zero => intro q s h o b; exact h
  | succ n ih =>
    intro q s h o b
    unfold State.layStore
    split
    · exact h
    · exact ih (State.hbmStore_steps mhbm mout mmem h ..) ..

theorem State.damageShow_steps {mu : Part → Prop} (ming : mu .ing) {org s : State} (ho : Steps mu org s)  : Steps mu org (State.damageShow s) := by
  unfold State.damageShow
  lift_lets
  intro z0; try clear_value z0
  intro z1
  try dsimp -zeta -zetaHave only [z1]
  repeat' with_reducible first | assumption | (intro (hh : Ing.shaped _); first | (simpa [Ing.shaped, setAt, modAt] using hh; done) | (simp [Ing.shaped, setAt, modAt] at hh ⊢; omega)) | apply Steps.ing

theorem State.blockRestored_steps {mu : Part → Prop} (ming : mu .ing) (mled : mu .led) {org s : State} (ho : Steps mu org s) (h o : Nat) : Steps mu org (s.blockRestored h o) := by
  unfold State.blockRestored
  have key : ∀ (l : List Traveller) (t : State), Steps mu org t → t.ing.travellers.length = s.ing.travellers.length →
      Steps mu org (l.foldl (fun t v => t.modSeg v.wseq v.j fun c => { c with flags := c.flags ||| 4 }) t) ∧
      (l.foldl (fun t v => t.modSeg v.wseq v.j fun c => { c with flags := c.flags ||| 4 }) t).ing.travellers.length = s.ing.travellers.length := by
    intro l
    induction l with
    | nil => exact fun t h e => ⟨h, e⟩
    | cons v l ih => exact fun t h e => ih _ (State.modSeg_steps mled h ..) e
  have hk := key (s.ing.travellers.filter fun v => (v.handle == h && v.damage == some o) && !v.survey) s ho rfl
  refine State.damageShow_steps (by assumption) (State.modLay_steps ming (Steps.ing hk.1 ming fun q => ?_) _ _)
  have := hk.2
  simp only [Ing.shaped, List.length_map] at q ⊢
  omega

theorem State.repairFound_steps {mu : Part → Prop} (mhbm : mu .hbm) (mout : mu .out) (ming : mu .ing) (mfab : mu .fab) (mmem : mu .mem) (mled : mu .led) {org s : State} (ho : Steps mu org s) (r : Repair) (len : ℕ) : Steps mu org (State.repairFound s r len) := by
  unfold State.repairFound
  lift_lets
  intro z0; try clear_value z0
  intro z1; try clear_value z1
  intro z2
  have hz2 : Steps mu org z2 := by
    dsimp only [z2]
    repeat' with_reducible first | assumption | apply State.raise_steps | apply State.wr_steps | apply State.blockRestored_steps | apply State.layStore_steps
  try clear_value z2
  repeat' with_reducible first | assumption | apply Steps.ite | apply State.endRepair_steps | apply State.repairFails_steps | split

theorem execBlockReceived_steps (s : State) : Next (fun k => k ∈ [Part.hbm, Part.out, Part.ing, Part.fab, Part.mem, Part.led]) s (execBlockReceived s) := by
  unfold execBlockReceived
  repeat' with_reducible first | exact Steps.refl _ _ | apply Next.done | apply Next.ite | apply State.repairFails_steps | apply State.repairFound_steps | apply State.blockFails_steps | apply State.blockFound_steps | split | decide

theorem State.accept_steps {mu : Part → Prop} (mout : mu .out) (ming : mu .ing) (mfab : mu .fab) {org s : State} (ho : Steps mu org s) (d : Delivery) (x : Interp) : Steps mu org (State.accept s d x) := by
  unfold State.accept
  lift_lets
  intro z0
  have hz0 : Steps mu org z0 := by
    dsimp only [z0]
    repeat' with_reducible first | assumption | apply State.modLay_steps
  try clear_value z0
  repeat' with_reducible first | assumption | apply State.ingShow_steps | apply State.raise_steps | apply State.setDelivery_steps | apply State.wr_steps

theorem State.blockFiled_steps {mu : Part → Prop} (mhbm : mu .hbm) (mout : mu .out) (ming : mu .ing) (mfab : mu .fab) (mmem : mu .mem) {org s : State} (ho : Steps mu org s) (d : Delivery) (ofs : ℕ) (blk : List Sys2Proof.Byte) (x : Interp) : Steps mu org (State.blockFiled s d ofs blk x) := by
  unfold State.blockFiled
  lift_lets
  intro z0; try clear_value z0
  intro z1
  try dsimp -zeta -zetaHave only [z1]
  intro z2
  have hz2 : Steps mu org z2 := by
    dsimp only [z2]
    repeat' with_reducible first | assumption | apply Steps.ite | apply State.modLay_steps
  try clear_value z2
  intro z3
  have hz3 : Steps mu org z3 := by
    dsimp only [z3]
    repeat' with_reducible first | assumption | apply State.modLay_steps | apply State.layStore_steps
  try clear_value z3
  intro z4; try clear_value z4
  repeat' with_reducible first | assumption | apply Steps.ite | apply State.setDelivery_steps | apply State.reject_steps | apply State.accept_steps

theorem execBlockInterpreted_steps (s : State) : Next (fun k => k ∈ [Part.hbm, Part.out, Part.ing, Part.fab, Part.mem]) s (execBlockInterpreted s) := by
  unfold execBlockInterpreted
  repeat' with_reducible first | exact Steps.refl _ _ | apply Next.done | apply State.reject_steps | apply State.blockFiled_steps | split | decide

theorem execStagingBufferFree_steps (s : State) : Next (fun k => k ∈ [Part.out, Part.ing, Part.fab]) s (execStagingBufferFree s) := by
  unfold execStagingBufferFree
  repeat' with_reducible first | exact Steps.refl _ _ | apply Next.done | apply State.setDelivery_steps | split | decide

theorem State.freeGo_steps {mu : Part → Prop} (ming : mu .ing) {org s : State} (ho : Steps mu org s) (h : ℕ) : Steps mu org (State.freeGo s h) := by
  unfold State.freeGo
  lift_lets
  intro z0
  have hz0 : Steps mu org z0 := by
    dsimp only [z0]
    repeat' with_reducible first | assumption | apply State.wr_steps
  try clear_value z0
  intro z1
  have hz1 : Steps mu org z1 := by
    dsimp only [z1]
    repeat' with_reducible first | assumption | apply State.wr_steps | apply State.clearLayout_steps
  try clear_value z1
  intro z2
  try dsimp -zeta -zetaHave only [z2]
  repeat' with_reducible first | assumption | (intro (hh : Ing.shaped _); first | (simpa [Ing.shaped, setAt, modAt] using hh; done) | (simp [Ing.shaped, setAt, modAt] at hh ⊢; omega)) | apply Steps.ite | apply State.wr_steps | apply Steps.ing

theorem execLayoutSpaceReleased_steps (s : State) : Next (fun k => k ∈ [Part.ing]) s (execLayoutSpaceReleased s) := by
  unfold execLayoutSpaceReleased
  lift_lets
  intro z0
  try dsimp -zeta -zetaHave only [z0]
  repeat' with_reducible first | (intro (hh : Ing.shaped _); first | (simpa [Ing.shaped, setAt, modAt] using hh; done) | (simp [Ing.shaped, setAt, modAt] at hh ⊢; omega)) | exact Steps.refl _ _ | apply Next.done | apply Steps.ing | decide

theorem State.layoutDamaged_steps {mu : Part → Prop} (mout : mu .out) (ming : mu .ing) {org s : State} (ho : Steps mu org s) (h : ℕ) (o : ℕ) : Steps mu org (State.layoutDamaged s h o) := by
  unfold State.layoutDamaged
  lift_lets
  intro z0; try clear_value z0
  repeat' with_reducible first | assumption | (intro (hh : Ing.shaped _); first | (simpa [Ing.shaped, setAt, modAt] using hh; done) | (simp [Ing.shaped, setAt, modAt] at hh ⊢; omega)) | apply Steps.ite | apply State.modLay_steps | apply State.raise_steps | apply State.damageShow_steps | split | apply Steps.ing

theorem execIndexRebuildComplete_steps (handle : BitVec 4) (s : State) : Next (fun k => k ∈ [Part.ing, Part.mem]) s (execIndexRebuildComplete handle s) := by
  unfold execIndexRebuildComplete
  lift_lets
  intro z0; try clear_value z0
  intro z1; try clear_value z1
  intro z2
  try dsimp -zeta -zetaHave only [z2]
  intro z3
  have hz3 : Steps (fun k => k ∈ [Part.ing, Part.mem]) s z3 := by
    dsimp only [z3]
    repeat' with_reducible first | exact Steps.refl _ _ | apply State.wordsGood_steps | apply State.modLay_steps | decide
  try clear_value z3
  intro z4
  try dsimp -zeta -zetaHave only [z4]
  repeat' with_reducible first | assumption | (intro (hh : Ing.shaped _); first | (simpa [Ing.shaped, setAt, modAt] using hh; done) | (simp [Ing.shaped, setAt, modAt] at hh ⊢; omega)) | exact Steps.refl _ _ | apply Next.done | apply Next.ite | apply Steps.ing | decide

theorem State.post_steps {mu : Part → Prop} (mout : mu .out) (ming : mu .ing) {org s : State} (ho : Steps mu org s)  : Steps mu org (State.post s) := by
  unfold State.post
  lift_lets
  intro z0; try clear_value z0
  intro z1; try clear_value z1
  intro z2
  try dsimp -zeta -zetaHave only [z2]
  repeat' with_reducible first | assumption | (intro (hh : Ing.shaped _); first | (simpa [Ing.shaped, setAt, modAt] using hh; done) | (simp [Ing.shaped, setAt, modAt] at hh ⊢; omega)) | apply Steps.ite | apply State.raise_steps | apply State.wrs_steps | apply State.showQueue_steps | apply State.wr_steps | apply Steps.ing

theorem execPost_steps (agent : Sys2Proof.Agent) (s : State) : Next (fun k => k ∈ [Part.out, Part.reck, Part.ing]) s (execPost agent s) := by
  unfold execPost
  repeat' with_reducible first | assumption | intro _ | exact Steps.refl _ _ | apply Next.done | apply State.access_steps | apply State.post_steps | decide

theorem State.waybillResume_steps {mu : Part → Prop} (mmot : mu .mot) {org s : State} (ho : Steps mu org s)  : Steps mu org (State.waybillResume s) := by
  unfold State.waybillResume
  repeat' with_reducible first | assumption | apply State.modMot_steps | apply State.wr_steps

theorem execWaybillResume_steps (agent : Sys2Proof.Agent) (s : State) : Next (fun k => k ∈ [Part.out, Part.reck, Part.mot]) s (execWaybillResume agent s) := by
  unfold execWaybillResume
  repeat' with_reducible first | assumption | intro _ | exact Steps.refl _ _ | apply Next.done | apply State.access_steps | apply State.waybillResume_steps | decide

theorem State.flush_steps {mu : Part → Prop} (mmot : mu .mot) (ming : mu .ing) {org s : State} (ho : Steps mu org s)  : Steps mu org (State.flush s) := by
  unfold State.flush
  lift_lets
  intro z0
  try dsimp -zeta -zetaHave only [z0]
  intro z1
  have hz1 : Steps mu org z1 := by
    dsimp only [z1]
    repeat' with_reducible first | assumption | (intro (hh : Ing.shaped _); first | (simpa [Ing.shaped, setAt, modAt] using hh; done) | (simp [Ing.shaped, setAt, modAt] at hh ⊢; omega)) | apply Steps.ing
  try clear_value z1
  repeat' with_reducible first | assumption | apply State.showQueue_steps | apply State.modMot_steps | apply State.wrs_steps

theorem execFlush_steps (agent : Sys2Proof.Agent) (s : State) : Next (fun k => k ∈ [Part.out, Part.reck, Part.mot, Part.ing]) s (execFlush agent s) := by
  unfold execFlush
  repeat' with_reducible first | assumption | intro _ | exact Steps.refl _ _ | apply Next.done | apply State.access_steps | apply State.flush_steps | decide

theorem State.rcmpReq_steps {mu : Part → Prop} (mout : mu .out) (ming : mu .ing) {org s : State} (ho : Steps mu org s) (next : Bool) (seg : ℕ) : Steps mu org (State.rcmpReq s next seg) := by
  unfold State.rcmpReq
  lift_lets
  intro z0
  have hz0 : Steps mu org z0 := by
    dsimp only [z0]
    repeat' with_reducible first | assumption | apply State.wrs_steps
  try clear_value z0
  repeat' with_reducible first | assumption | apply State.wr_steps | apply State.markRecompute_steps | split

theorem execRcmpReq_steps (agent : Sys2Proof.Agent) (next : Bool) (seg : BitVec 24) (s : State) : Next (fun k => k ∈ [Part.out, Part.reck, Part.ing]) s (execRcmpReq agent next seg s) := by
  unfold execRcmpReq
  repeat' with_reducible first | assumption | intro _ | exact Steps.refl _ _ | apply Next.done | apply State.access_steps | apply State.rcmpReq_steps | decide

theorem State.giveBand_steps {mu : Part → Prop} (ming : mu .ing) {org s : State} (ho : Steps mu org s) (n : ℕ) (i : ℕ) (b : ℕ) : Steps mu org (State.giveBand s n i b) := by
  unfold State.giveBand
  lift_lets
  intro z0
  try dsimp -zeta -zetaHave only [z0]
  intro z1
  have hz1 : Steps mu org z1 := by
    dsimp only [z1]
    repeat' with_reducible first | assumption | (intro (hh : Ing.shaped _); first | (simpa [Ing.shaped, setAt, modAt] using hh; done) | (simp [Ing.shaped, setAt, modAt] at hh ⊢; omega)) | apply Steps.ing
  try clear_value z1
  repeat' with_reducible first | assumption | apply State.ingShow_steps | apply State.setRunning_steps | apply State.modTrv_steps

theorem State.redispatched_steps {mu : Part → Prop} (ming : mu .ing) {org s : State} (ho : Steps mu org s) (i : ℕ) : Steps mu org (State.redispatched s i) := by
  unfold State.redispatched
  lift_lets
  intro z0; try clear_value z0
  intro z1
  try dsimp -zeta -zetaHave only [z1]
  repeat' with_reducible first | assumption | (intro (hh : Ing.shaped _); first | (simpa [Ing.shaped, setAt, modAt] using hh; done) | (simp [Ing.shaped, setAt, modAt] at hh ⊢; omega)) | apply Steps.ing

theorem State.trvUpset_steps {mu : Part → Prop} (mout : mu .out) (mreck : mu .reck) (mmot : mu .mot) (ming : mu .ing) (mfab : mu .fab) (mnet : mu .net) {org s : State} (ho : Steps mu org s)  : Steps mu org (State.trvUpset s) := by
  unfold State.trvUpset
  lift_lets
  intro z0; try clear_value z0
  intro z1
  have hz1 : Steps mu org z1 := by
    dsimp only [z1]
    repeat' with_reducible first | assumption | intro _ | apply Steps.foldl | apply Steps.ite | apply State.markTrv_steps | apply State.setFault_steps
  try clear_value z1
  repeat' with_reducible first | assumption | apply Steps.ite | apply State.halt_steps

theorem State.dispatch_steps {mu : Part → Prop} (ming : mu .ing) {org s : State} (ho : Steps mu org s) (n : ℕ) : Steps mu org (State.dispatch s n) := by
  unfold State.dispatch
  lift_lets
  intro z0; try clear_value z0
  intro z1
  try dsimp -zeta -zetaHave only [z1]
  intro z2
  try dsimp -zeta -zetaHave only [z2]
  repeat' with_reducible first | assumption | (intro (hh : Ing.shaped _); first | (simpa [Ing.shaped, setAt, modAt] using hh; done) | (simp [Ing.shaped, setAt, modAt] at hh ⊢; omega)) | apply Steps.ite | apply State.redispatched_steps | apply State.dropPass_steps | apply State.giveBand_steps | apply State.modTrv_steps | split | dsimp only | apply Steps.ing

theorem execExpanderDispatch_steps (n : ℕ) (upset : Bool) (s : State) : Next (fun k => k ∈ [Part.out, Part.reck, Part.mot, Part.ing, Part.fab, Part.net]) s (execExpanderDispatch n upset s) := by
  unfold execExpanderDispatch
  repeat' with_reducible first | exact Steps.refl _ _ | apply Next.done | apply State.dispatch_steps | apply State.trvUpset_steps | split | decide

theorem State.freeExpander_steps {mu : Part → Prop} (ming : mu .ing) {org s : State} (ho : Steps mu org s) (n : ℕ) : Steps mu org (State.freeExpander s n) := by
  unfold State.freeExpander
  lift_lets
  intro z0
  try dsimp -zeta -zetaHave only [z0]
  repeat' with_reducible first | assumption | (intro (hh : Ing.shaped _); first | (simpa [Ing.shaped, setAt, modAt] using hh; done) | (simp [Ing.shaped, setAt, modAt] at hh ⊢; omega)) | apply State.setRunning_steps | apply Steps.ing

theorem State.expBusy_steps {mu : Part → Prop} (ming : mu .ing) {org s : State} (ho : Steps mu org s) (n clocks : Nat) : Steps mu org (s.expBusy n clocks) :=
  Steps.ing (State.wrapInc_steps ho _ _) ming fun h => by simpa [Ing.shaped, modAt] using h

theorem State.meetDamage_steps {mu : Part → Prop} (mout : mu .out) (ming : mu .ing) {org s : State} (ho : Steps mu org s) (n : ℕ) (i : ℕ) (h : ℕ) (o : ℕ) : Steps mu org (State.meetDamage s n i h o) := by
  unfold State.meetDamage
  lift_lets
  intro z0; try clear_value z0
  intro z1
  have hz1 : Steps mu org z1 := by
    dsimp only [z1]
    repeat' with_reducible first | assumption | apply State.raise_steps | apply State.modTrv_steps | apply State.freeExpander_steps
  try clear_value z1
  repeat' with_reducible first | assumption | apply Steps.ite | apply State.layoutDamaged_steps

theorem State.listDone_steps {mu : Part → Prop} (ming : mu .ing) {org s : State} (ho : Steps mu org s) (n i b : Nat) (figs : List Fig) (pages : Nat) :
    Steps mu org (s.listDone n i b figs pages) := by
  refine State.modTrv_steps ming (State.wrapInc_steps (Steps.ing (State.freeExpander_steps ming ho n) ming fun h => ?_) _ _) _ _
  simpa [Ing.shaped] using h

theorem State.expMismatch_steps {mu : Part → Prop} (ming : mu .ing) {org s : State} (ho : Steps mu org s) (n : ℕ) (wseq : ℕ) (j : ℕ) : Steps mu org (State.expMismatch s n wseq j) := by
  unfold State.expMismatch
  lift_lets
  intro z0
  have hz0 : Steps mu org z0 := by
    dsimp only [z0]
    repeat' with_reducible first | assumption | apply State.freeExpander_steps
  try clear_value z0
  intro z1
  try dsimp -zeta -zetaHave only [z1]
  repeat' with_reducible first | assumption | (intro (hh : Ing.shaped _); first | (simpa [Ing.shaped, setAt, modAt] using hh; done) | (simp [Ing.shaped, setAt, modAt] at hh ⊢; omega)) | apply Steps.ing

theorem execBandListComplete_steps (n : ℕ) (clocks : ℕ) (mismatch : Bool) (s : State) : Next (fun k => k ∈ [Part.out, Part.reck, Part.ing]) s (execBandListComplete n clocks mismatch s) := by
  unfold execBandListComplete
  repeat' with_reducible first | (intro (hh : Ing.shaped _); first | (simpa [Ing.shaped, setAt, modAt] using hh; done) | (simp [Ing.shaped, setAt, modAt] at hh ⊢; omega)) | exact Steps.refl _ _ | apply Next.done | apply Next.ite | apply State.expBusy_steps | apply State.meetDamage_steps | apply State.setFault_steps | apply State.expMismatch_steps | apply State.raise_steps | apply State.listDone_steps | split | dsimp only | apply Steps.ing | decide

theorem execListPoolWaitEnd_steps (n : ℕ) (s : State) : Next (fun k => k ∈ [Part.ing]) s (execListPoolWaitEnd n s) := by
  unfold execListPoolWaitEnd
  lift_lets
  intro z0
  try dsimp -zeta -zetaHave only [z0]
  repeat' with_reducible first | (intro (hh : Ing.shaped _); first | (simpa [Ing.shaped, setAt, modAt] using hh; done) | (simp [Ing.shaped, setAt, modAt] at hh ⊢; omega)) | exact Steps.refl _ _ | apply Next.done | apply Next.ite | apply Steps.ing | decide

theorem execSlotAssign_steps (s : State) : Next (fun k => k ∈ [Part.ing]) s (execSlotAssign s) := by
  unfold execSlotAssign
  repeat' with_reducible first | exact Steps.refl _ _ | apply Next.done | apply State.modTrv_steps | split | decide

theorem State.slotWhole_steps {mu : Part → Prop} (mmem : mu .mem) {org s : State} (ho : Steps mu org s) (i : ℕ) : Steps mu org (State.slotWhole s i) := by
  unfold State.slotWhole
  repeat' with_reducible first | assumption | apply State.wordsGood_steps | split

theorem State.segmentDone_steps {mu : Part → Prop} (ming : mu .ing) (mmem : mu .mem) (mled : mu .led) {org s : State} (ho : Steps mu org s) (i : ℕ) : Steps mu org (State.segmentDone s i) := by
  unfold State.segmentDone
  lift_lets
  intro z0; try clear_value z0
  intro z1
  have hz1 : Steps mu org z1 := by
    dsimp only [z1]
    repeat' with_reducible first | assumption | apply State.slotWhole_steps
  try clear_value z1
  intro z2
  have hz2 : Steps mu org z2 := by
    dsimp only [z2]
    repeat' with_reducible first | assumption | apply State.modTrv_steps
  try clear_value z2
  repeat' with_reducible first | assumption | apply Steps.ite | apply State.modTrv_steps | apply State.modSeg_steps | apply State.satInc_steps

theorem execBandCorrected_steps (i : ℕ) (s : State) : Next (fun k => k ∈ [Part.ing, Part.mem, Part.led]) s (execBandCorrected i s) := by
  unfold execBandCorrected
  lift_lets
  intro z0; try clear_value z0
  intro z1
  try dsimp -zeta -zetaHave only [z1]
  repeat' with_reducible first | (intro (hh : Ing.shaped _); first | (simpa [Ing.shaped, setAt, modAt] using hh; done) | (simp [Ing.shaped, setAt, modAt] at hh ⊢; omega)) | exact Steps.refl _ _ | apply Next.done | apply Next.ite | apply State.modTrv_steps | apply State.segmentDone_steps | split | dsimp only | apply Steps.ing | decide

theorem execTravellerRelease_steps (i : ℕ) (s : State) : Next (fun k => k ∈ [Part.ing]) s (execTravellerRelease i s) := by
  unfold execTravellerRelease
  lift_lets
  intro z0; try clear_value z0
  intro z1; try clear_value z1
  repeat' with_reducible first | exact Steps.refl _ _ | apply Next.done | apply Next.ite | apply State.ingShow_steps | apply State.freeTrv_steps | decide

theorem execSegRecord_steps (i : ℕ) (hashFail : Bool) (s : State) : Next (fun k => k ∈ [Part.free, Part.out, Part.reck, Part.ing, Part.led]) s (execSegRecord i hashFail s) := by
  unfold execSegRecord
  lift_lets
  intro z0; try clear_value z0
  repeat' with_reducible first | exact Steps.refl _ _ | apply Next.done | apply Next.ite | apply State.setFault_steps | apply State.segRecord_steps | split | decide

theorem execStripeComplete_steps (s : State) : Next (fun k => k ∈ [Part.out, Part.mot, Part.ing, Part.alc, Part.pak, Part.led]) s (execStripeComplete s) := by
  unfold execStripeComplete
  repeat' with_reducible first | exact Steps.refl _ _ | apply Next.done | apply Next.ite | apply State.ingShow_steps | apply State.dropHead_steps | apply State.raise_steps | apply State.freeStripe_steps | apply State.closeRecord_steps | split | decide

theorem State.setRole_steps {mu : Part → Prop} (mout : mu .out) {org s : State} (ho : Steps mu org s) (e : ℕ) (r : ℕ) (p : ℕ) : Steps mu org (State.setRole s e r p) := by
  unfold State.setRole
  repeat' with_reducible first | assumption | apply State.raiseIf_steps | apply State.wr_steps

theorem State.modRas_steps {mu : Part → Prop} (ming : mu .ing) {org s : State} (ho : Steps mu org s) (f : Ras → Ras) : Steps mu org (State.modRas s f) := by
  unfold State.modRas
  lift_lets
  intro z0
  try dsimp -zeta -zetaHave only [z0]
  repeat' with_reducible first | assumption | (intro (hh : Ing.shaped _); first | (simpa [Ing.shaped, setAt, modAt] using hh; done) | (simp [Ing.shaped, setAt, modAt] at hh ⊢; omega)) | apply Steps.ing

theorem State.notePairs_steps {mu : Part → Prop} (mled : mu .led) {org s : State} (ho : Steps mu org s)  : Steps mu org (State.notePairs s) := by
  unfold State.notePairs
  lift_lets
  intro z0; try clear_value z0
  repeat' with_reducible first | assumption | intro _ | apply Steps.foldl | apply State.modSeg_steps

theorem State.cmpShow_steps {mu : Part → Prop} (mout : mu .out) (mreck : mu .reck) (mled : mu .led) {org s : State} (ho : Steps mu org s)  : Steps mu org (State.cmpShow s) := by
  unfold State.cmpShow
  lift_lets
  intro z0
  try dsimp -zeta -zetaHave only [z0]
  intro z1; try clear_value z1
  intro z2; try clear_value z2
  intro z3
  have hz3 : Steps mu org z3 := by
    dsimp only [z3]
    repeat' with_reducible first | assumption | apply State.wrs_steps
  try clear_value z3
  intro z4
  have hz4 : Steps mu org z4 := by
    dsimp only [z4]
    repeat' with_reducible first | assumption | apply Steps.ite | apply State.setFault_steps
  try clear_value z4
  intro z5
  have hz5 : Steps mu org z5 := by
    dsimp only [z5]
    repeat' with_reducible first | assumption | apply Steps.ite | apply State.setFault_steps
  try clear_value z5
  intro z6
  have hz6 : Steps mu org z6 := by
    dsimp only [z6]
    repeat' with_reducible first | assumption | apply State.setRunning_steps
  try clear_value z6
  intro z7
  have hz7 : Steps mu org z7 := by
    dsimp only [z7]
    repeat' with_reducible first | assumption | intro _ | apply Steps.foldl | apply State.setRunning_steps
  try clear_value z7
  repeat' with_reducible first | assumption | apply Steps.ite | apply State.notePairs_steps

theorem State.setPair_steps {mu : Part → Prop} (mout : mu .out) {org s : State} (ho : Steps mu org s) (p : ℕ) (a : ℕ) (b : ℕ) : Steps mu org (State.setPair s p a b) := by
  unfold State.setPair
  repeat' with_reducible first | assumption | apply State.setRole_steps | apply State.wrs_steps

theorem State.formPairs_steps {mu : Part → Prop} (mout : mu .out) (mreck : mu .reck) (mled : mu .led) {org s : State} (ho : Steps mu org s)  : Steps mu org (State.formPairs s) := by
  unfold State.formPairs
  lift_lets
  intro z0; try clear_value z0
  intro z1
  have hz1 : Steps mu org z1 := by
    dsimp only [z1]
    repeat' with_reducible first | assumption | intro _ | apply Steps.foldl | apply Steps.ite | apply State.setPair_steps | apply State.wr_steps
  try clear_value z1
  intro z2
  have hz2 : Steps mu org z2 := by
    dsimp only [z2]
    repeat' with_reducible first | assumption | intro _ | apply Steps.foldl | apply Steps.ite | apply State.setRole_steps
  try clear_value z2
  intro z3
  have hz3 : Steps mu org z3 := by
    dsimp only [z3]
    repeat' with_reducible first | assumption | intro _ | apply Steps.foldl | apply Steps.ite | apply State.setPair_steps | split
  try clear_value z3
  repeat' with_reducible first | assumption | apply State.cmpShow_steps

theorem State.joinPool_steps {mu : Part → Prop} (mout : mu .out) (mreck : mu .reck) (mled : mu .led) {org s : State} (ho : Steps mu org s) (e : ℕ) : Steps mu org (State.joinPool s e) := by
  unfold State.joinPool
  repeat' with_reducible first | assumption | apply Steps.ite | apply State.cmpShow_steps | apply State.setRole_steps

theorem State.setTile_steps {mu : Part → Prop} (ming : mu .ing) {org s : State} (ho : Steps mu org s) (t : Tile) (u : Tile) : Steps mu org (State.setTile s t u) := by
  unfold State.setTile
  repeat' with_reducible first | assumption | apply State.modRas_steps

theorem State.queueTile_steps {mu : Part → Prop} (ming : mu .ing) {org s : State} (ho : Steps mu org s) (t : Tile) (u : Tile) : Steps mu org (State.queueTile s t u) := by
  unfold State.queueTile
  repeat' with_reducible first | assumption | apply State.modRas_steps

theorem State.headTile_steps {mu : Part → Prop} (ming : mu .ing) {org s : State} (ho : Steps mu org s) (t : Tile) (u : Tile) : Steps mu org (State.headTile s t u) := by
  unfold State.headTile
  repeat' with_reducible first | assumption | apply State.modRas_steps

theorem State.dropTile_steps {mu : Part → Prop} (ming : mu .ing) {org s : State} (ho : Steps mu org s) (t : Tile) : Steps mu org (State.dropTile s t) := by
  unfold State.dropTile
  repeat' with_reducible first | assumption | apply State.modRas_steps

theorem State.tileDone_steps {mu : Part → Prop} (ming : mu .ing) {org s : State} (ho : Steps mu org s) (t : Tile) : Steps mu org (State.tileDone s t) := by
  unfold State.tileDone
  lift_lets
  intro z0
  have hz0 : Steps mu org z0 := by
    dsimp only [z0]
    repeat' with_reducible first | assumption | apply State.dropTile_steps
  try clear_value z0
  intro z1
  try dsimp -zeta -zetaHave only [z1]
  repeat' with_reducible first | assumption | (intro (hh : Ing.shaped _); first | (simpa [Ing.shaped, setAt, modAt] using hh; done) | (simp [Ing.shaped, setAt, modAt] at hh ⊢; omega)) | apply Steps.ite | apply Steps.ing

theorem State.freeRefs_steps {mu : Part → Prop} (ming : mu .ing) {org s : State} (ho : Steps mu org s) (t : Tile) : Steps mu org (State.freeRefs s t) := by
  unfold State.freeRefs
  lift_lets
  intro z0; try clear_value z0
  intro z1
  try dsimp -zeta -zetaHave only [z1]
  repeat' with_reducible first | assumption | (intro (hh : Ing.shaped _); first | (simpa [Ing.shaped, setAt, modAt] using hh; done) | (simp [Ing.shaped, setAt, modAt] at hh ⊢; omega)) | apply Steps.ing

theorem State.engineDone_steps {mu : Part → Prop} (ming : mu .ing) {org s : State} (ho : Steps mu org s) (e : ℕ) : Steps mu org (State.engineDone s e) := by
  unfold State.engineDone
  lift_lets
  intro z0
  have hz0 : Steps mu org z0 := by
    dsimp only [z0]
    repeat' with_reducible first | assumption | apply State.wrapInc_steps
  try clear_value z0
  repeat' with_reducible first | assumption | apply Steps.ite | apply State.modRas_steps

theorem execStrikeDecay_steps (n : ℕ) (s : State) : Next (fun k => k ∈ [Part.ing]) s (execStrikeDecay n s) := by
  unfold execStrikeDecay
  repeat' with_reducible first | exact Steps.refl _ _ | apply Next.done | apply Next.ite | apply State.modRas_steps | apply State.wr_steps | decide

theorem State.takeTile_steps {mu : Part → Prop} (ming : mu .ing) {org s : State} (ho : Steps mu org s) (p : ℕ) : Steps mu org (State.takeTile s p) := by
  unfold State.takeTile
  repeat' with_reducible first | assumption | apply Steps.ite | apply State.headTile_steps | apply State.dropTile_steps | apply State.queueTile_steps | split

theorem State.refill_steps {mu : Part → Prop} (mout : mu .out) (ming : mu .ing) {org s : State} (ho : Steps mu org s) (p : ℕ) : Steps mu org (State.refill s p) := by
  unfold State.refill
  lift_lets
  intro z0; try clear_value z0
  repeat' with_reducible first | assumption | apply Steps.ite | apply State.raise_steps | apply State.modRas_steps | apply State.setPair_steps | apply State.setRole_steps | apply State.wr_steps | split

theorem State.closePair_steps {mu : Part → Prop} (mout : mu .out) (ming : mu .ing) {org s : State} (ho : Steps mu org s) (p : ℕ) : Steps mu org (State.closePair s p) := by
  unfold State.closePair
  repeat' with_reducible first | assumption | apply State.raise_steps | apply State.modRas_steps | apply State.wr_steps

theorem State.reform_steps {mu : Part → Prop} (mout : mu .out) (ming : mu .ing) {org s : State} (ho : Steps mu org s) (p : ℕ) (gone : List ℕ) : Steps mu org (State.reform s p gone) := by
  unfold State.reform
  lift_lets
  intro z0
  have hz0 : Steps mu org z0 := by
    dsimp only [z0]
    repeat' with_reducible first | assumption | apply State.takeTile_steps
  try clear_value z0
  intro z1; try clear_value z1
  intro z2; try clear_value z2
  intro z3; try clear_value z3
  intro z4; try clear_value z4
  repeat' with_reducible first | assumption | apply Steps.ite | apply State.refill_steps | apply State.setRole_steps | apply State.wr_steps | apply State.closePair_steps

theorem State.dropVoter_steps {mu : Part → Prop} (ming : mu .ing) {org s : State} (ho : Steps mu org s) (e : ℕ) : Steps mu org (State.dropVoter s e) := by
  unfold State.dropVoter
  repeat' with_reducible first | assumption | apply State.wrs_steps | apply State.headTile_steps | split

theorem State.retire_steps {mu : Part → Prop} (mout : mu .out) (mreck : mu .reck) (ming : mu .ing) (mled : mu .led) {org s : State} (ho : Steps mu org s) (es : List ℕ) : Steps mu org (State.retire s es) := by
  unfold State.retire
  lift_lets
  intro z0
  try dsimp -zeta -zetaHave only [z0]
  intro z1
  have hz1 : Steps mu org z1 := by
    dsimp only [z1]
    repeat' with_reducible first | assumption | intro _ | apply Steps.foldl | apply State.raise_steps | apply State.setFault_steps | apply State.setRole_steps
  try clear_value z1
  intro z2
  have hz2 : Steps mu org z2 := by
    dsimp only [z2]
    repeat' with_reducible first | assumption | intro _ | apply Steps.foldl | apply Steps.ite | apply State.reform_steps
  try clear_value z2
  repeat' with_reducible first | assumption | intro _ | apply Steps.foldl | apply State.cmpShow_steps | apply State.dropVoter_steps

theorem State.strike_steps {mu : Part → Prop} (mout : mu .out) (mreck : mu .reck) (ming : mu .ing) (mled : mu .led) {org s : State} (ho : Steps mu org s) (es : List ℕ) : Steps mu org (State.strike s es) := by
  unfold State.strike
  lift_lets
  intro z0
  have hz0 : Steps mu org z0 := by
    dsimp only [z0]
    repeat' with_reducible first | assumption | intro _ | apply Steps.foldl | apply State.raise_steps | apply State.satInc_steps
  try clear_value z0
  intro z1
  try dsimp -zeta -zetaHave only [z1]
  repeat' with_reducible first | assumption | apply Steps.ite | apply State.retire_steps

theorem State.cfgAccess_steps {mu : Part → Prop} (mout : mu .out) (mreck : mu .reck) (ming : mu .ing) (mled : mu .led) {org s : State} (ho : Steps mu org s) (p : Page) : Steps mu org (State.cfgAccess s p).2 := by
  unfold State.cfgAccess
  lift_lets
  intro z0
  have hz0 : Steps mu org z0.2 := by
    dsimp only [z0]
    repeat' with_reducible first | assumption | apply State.cfgInject_steps
  try clear_value z0
  repeat' with_reducible first | assumption | apply Steps.ite | apply State.retire_steps

theorem State.leaveEngine_steps {mu : Part → Prop} (mout : mu .out) (mreck : mu .reck) (ming : mu .ing) (mled : mu .led) {org s : State} (ho : Steps mu org s) (e : ℕ) : Steps mu org (State.leaveEngine s e) := by
  unfold State.leaveEngine
  lift_lets
  intro z0; try clear_value z0
  intro z1; try clear_value z1
  intro z2
  have hz2 : Steps mu org z2 := by
    dsimp only [z2]
    repeat' with_reducible first | assumption | apply State.modRas_steps
  try clear_value z2
  repeat' with_reducible first | assumption | apply Steps.ite | apply State.modRas_steps | apply State.cmpShow_steps | apply State.reform_steps | apply State.setRole_steps

theorem State.leaveIdle_steps {mu : Part → Prop} (mout : mu .out) (mreck : mu .reck) (ming : mu .ing) (mled : mu .led) {org s : State} (ho : Steps mu org s)  : Steps mu org (State.leaveIdle s) := by
  unfold State.leaveIdle
  repeat' with_reducible first | assumption | intro _ | apply Steps.foldl | apply Steps.ite | apply State.leaveEngine_steps

theorem execPairReform_steps (p : ℕ) (s : State) : Next (fun k => k ∈ [Part.out, Part.reck, Part.ing, Part.led]) s (execPairReform p s) := by
  unfold execPairReform
  repeat' with_reducible first | exact Steps.refl _ _ | apply Next.done | apply Next.ite | apply State.cmpShow_steps | apply State.refill_steps | decide

theorem execBinnerRun_steps (mismatch : Bool) (s : State) : Next (fun k => k ∈ [Part.ing]) s (execBinnerRun mismatch s) := by
  unfold execBinnerRun
  lift_lets
  intro z0
  try dsimp -zeta -zetaHave only [z0]
  repeat' with_reducible first | (intro (hh : Ing.shaped _); first | (simpa [Ing.shaped, setAt, modAt] using hh; done) | (simp [Ing.shaped, setAt, modAt] at hh ⊢; omega)) | exact Steps.refl _ _ | apply Next.done | apply Next.ite | apply State.modRas_steps | split | dsimp only | apply Steps.ing | decide

theorem execReferenceStoreFree_steps (s : State) : Next (fun k => k ∈ [Part.ing]) s (execReferenceStoreFree s) := by
  unfold execReferenceStoreFree
  repeat' with_reducible first | exact Steps.refl _ _ | apply Next.done | apply State.modRas_steps | decide

theorem State.feedPair_steps {mu : Part → Prop} (ming : mu .ing) (mled : mu .led) {org s : State} (ho : Steps mu org s) (p : ℕ) : Steps mu org (State.feedPair s p) := by
  unfold State.feedPair
  lift_lets
  intro z0
  try dsimp -zeta -zetaHave only [z0]
  repeat' with_reducible first | assumption | (intro (hh : Ing.shaped _); first | (simpa [Ing.shaped, setAt, modAt] using hh; done) | (simp [Ing.shaped, setAt, modAt] at hh ⊢; omega)) | apply State.setTile_steps | apply State.notePairs_steps | apply State.modRas_steps | split | apply Steps.ing

theorem execTileDispatch_steps (s : State) : Next (fun k => k ∈ [Part.out, Part.reck, Part.ing, Part.led]) s (execTileDispatch s) := by
  unfold execTileDispatch
  lift_lets
  intro z0
  try dsimp -zeta -zetaHave only [z0]
  repeat' with_reducible first | exact Steps.refl _ _ | apply Next.done | apply Next.ite | apply State.cmpShow_steps | apply State.setRole_steps | apply State.setTile_steps | apply State.feedPair_steps | split | decide

theorem State.inject_steps {mu : Part → Prop} {org s : State} (ho : Steps mu org s) (e : ℕ) (rc : List ℕ) : Steps mu org (State.inject s e rc).2 := by
  unfold State.inject
  repeat' with_reducible first | assumption | apply State.wr_steps | split

theorem State.showMismatch_steps {mu : Part → Prop} (mout : mu .out) {org s : State} (ho : Steps mu org s) (t : Tile) (p : ℕ) (kind : ℕ) (word : ℕ) (inj : Bool) : Steps mu org (State.showMismatch s t p kind word inj) := by
  unfold State.showMismatch
  lift_lets
  intro z0
  have hz0 : Steps mu org z0 := by
    dsimp only [z0]
    repeat' with_reducible first | assumption | apply State.raise_steps | apply State.wrs_steps | apply State.wrapInc_steps
  try clear_value z0
  repeat' with_reducible first | assumption | apply Steps.ite | apply State.raise_steps | apply State.satInc_steps

theorem State.showVote_steps {mu : Part → Prop} {org s : State} (ho : Steps mu org s) (t : Tile) (outcome : ℕ) (voter : ℕ) (vpair : ℕ) : Steps mu org (State.showVote s t outcome voter vpair) := by
  unfold State.showVote
  repeat' with_reducible first | assumption | apply State.wrs_steps

theorem State.voteClosed_steps {mu : Part → Prop} (ming : mu .ing) {org s : State} (ho : Steps mu org s)  : Steps mu org (State.voteClosed s) := by
  unfold State.voteClosed
  repeat' with_reducible first | assumption | apply Steps.ite | apply State.queueTile_steps | split

theorem State.endPass_steps {mu : Part → Prop} (mout : mu .out) (ming : mu .ing) {org s : State} (ho : Steps mu org s) (i : ℕ) : Steps mu org (State.endPass s i) := by
  unfold State.endPass
  lift_lets
  intro z0; try clear_value z0
  intro z1
  have hz1 : Steps mu org z1 := by
    dsimp only [z1]
    repeat' with_reducible first | assumption | apply State.modTrv_steps | apply State.dropPass_steps
  try clear_value z1
  repeat' with_reducible first | assumption | apply Steps.ite | apply State.raise_steps | apply State.satInc_steps

theorem State.noMajority_steps {mu : Part → Prop} (mout : mu .out) (mreck : mu .reck) (ming : mu .ing) (mled : mu .led) {org s : State} (ho : Steps mu org s) (t : Tile) (voter : ℕ) (vpair : ℕ) : Steps mu org (State.noMajority s t voter vpair) := by
  unfold State.noMajority
  lift_lets
  intro z0
  have hz0 : Steps mu org z0 := by
    dsimp only [z0]
    repeat' with_reducible first | assumption | apply State.dropTile_steps | apply State.autoReckon_steps | apply State.raise_steps | apply State.satInc_steps | apply State.showVote_steps
  try clear_value z0
  intro z1
  have hz1 : Steps mu org z1 := by
    dsimp only [z1]
    repeat' with_reducible first | assumption | apply Steps.ite | apply State.endPass_steps | apply State.modSeg_steps
  try clear_value z1
  repeat' with_reducible first | assumption | apply State.voteClosed_steps

theorem State.pairDone_steps {mu : Part → Prop} (ming : mu .ing) {org s : State} (ho : Steps mu org s) (p : ℕ) : Steps mu org (State.pairDone s p) := by
  unfold State.pairDone
  repeat' with_reducible first | assumption | apply State.engineDone_steps

theorem State.pairRecs_steps {mu : Part → Prop} {org s : State} (ho : Steps mu org s) (rc : List ℕ) (p : ℕ) (u : Sys2Proof.TileUpset) : Steps mu org (State.pairRecs s rc p u).2 := by
  unfold State.pairRecs
  lift_lets
  intro z0; try clear_value z0
  intro z1
  have hz1 : Steps mu org z1.2 := by
    dsimp only [z1]
    repeat' with_reducible first | assumption | apply State.inject_steps
  try clear_value z1
  intro z2
  have hz2 : Steps mu org z2.2 := by
    dsimp only [z2]
    repeat' with_reducible first | assumption | apply State.inject_steps
  try clear_value z2
  intro z3; try clear_value z3
  intro z4; try clear_value z4
  repeat' with_reducible first | assumption | apply Steps.ite | apply State.wr_steps

theorem State.compareFirst_steps {mu : Part → Prop} (mout : mu .out) (mreck : mu .reck) (ming : mu .ing) (mled : mu .led) {org s : State} (ho : Steps mu org s) (t : Tile) (p : ℕ) (u : Sys2Proof.TileUpset) : Steps mu org (State.compareFirst s t p u) := by
  unfold State.compareFirst
  lift_lets
  intro z0
  have hz0 : Steps mu org z0.2 := by
    dsimp only [z0]
    repeat' with_reducible first | assumption | apply State.pairRecs_steps
  try clear_value z0
  intro z1
  have hz1 : Steps mu org z1 := by
    dsimp only [z1]
    repeat' with_reducible assumption
  try clear_value z1
  intro z2
  have hz2 : Steps mu org z2 := by
    dsimp only [z2]
    repeat' with_reducible first | assumption | apply State.pairDone_steps | apply State.freeRefs_steps
  try clear_value z2
  intro z3; try clear_value z3
  intro z4; try clear_value z4
  repeat' with_reducible first | assumption | apply Steps.ite | apply State.pairDone_steps | apply State.freeRefs_steps | apply State.tileDone_steps | apply State.setTile_steps | apply State.showMismatch_steps | apply State.noMajority_steps | apply State.raiseIf_steps | apply State.queueTile_steps | split

theorem State.voterMismatch_steps {mu : Part → Prop} (mout : mu .out) (mreck : mu .reck) (ming : mu .ing) (mled : mu .led) {org s : State} (ho : Steps mu org s) (t : Tile) (p : ℕ) : Steps mu org (State.voterMismatch s t p) := by
  unfold State.voterMismatch
  repeat' with_reducible first | assumption | apply Steps.ite | apply State.noMajority_steps | apply State.headTile_steps

theorem State.recordCompare_steps {mu : Part → Prop} (mout : mu .out) (mreck : mu .reck) (ming : mu .ing) (mled : mu .led) {org s : State} (ho : Steps mu org s) (p : ℕ) (upset : Sys2Proof.TileUpset) : Steps mu org (State.recordCompare s p upset) := by
  unfold State.recordCompare
  repeat' with_reducible first | assumption | apply Steps.ite | apply State.setTile_steps | apply State.cmpShow_steps | apply State.leaveIdle_steps | apply State.compareFirst_steps | apply State.pairRecs_steps | apply State.pairDone_steps | apply State.voterMismatch_steps | apply State.showMismatch_steps | split | dsimp only

theorem execTileRecordCompare_steps (p : ℕ) (upset : Sys2Proof.TileUpset) (s : State) : Next (fun k => k ∈ [Part.out, Part.reck, Part.ing, Part.led]) s (execTileRecordCompare p upset s) := by
  unfold execTileRecordCompare
  repeat' with_reducible first | exact Steps.refl _ _ | apply Next.done | apply State.recordCompare_steps | decide

theorem execTileStall_steps (p : ℕ) (s : State) : Next (fun k => k ∈ [Part.out, Part.reck, Part.ing, Part.led]) s (execTileStall p s) := by
  unfold execTileStall
  repeat' with_reducible first | exact Steps.refl _ _ | apply Next.done | apply Next.ite | apply State.showMismatch_steps | apply State.cmpShow_steps | apply State.leaveIdle_steps | apply State.voterMismatch_steps | apply State.strike_steps | apply State.noMajority_steps | apply State.freeRefs_steps | split | decide

theorem execStagingPoolFree_steps (p : ℕ) (s : State) : Next (fun k => k ∈ [Part.ing]) s (execStagingPoolFree p s) := by
  unfold execStagingPoolFree
  repeat' with_reducible first | exact Steps.refl _ _ | apply Next.done | apply Next.ite | apply State.setTile_steps | split | decide

theorem State.won_steps {mu : Part → Prop} (mout : mu .out) (ming : mu .ing) (mled : mu .led) {org s : State} (ho : Steps mu org s) (t : Tile) (rc : List ℕ) : Steps mu org (State.won s t rc) := by
  unfold State.won
  lift_lets
  intro z0
  have hz0 : Steps mu org z0 := by
    dsimp only [z0]
    repeat' with_reducible first | assumption | apply State.freeRefs_steps | apply State.raise_steps | apply State.satInc_steps
  try clear_value z0
  intro z1
  have hz1 : Steps mu org z1 := by
    dsimp only [z1]
    repeat' with_reducible first | assumption | apply Steps.ite | apply State.tileDone_steps | apply State.setTile_steps | apply State.modSeg_steps
  try clear_value z1
  repeat' with_reducible first | assumption | apply State.voteClosed_steps

theorem State.resolve_steps {mu : Part → Prop} (mfree : mu .free) (mout : mu .out) (mreck : mu .reck) (ming : mu .ing) (mled : mu .led) {org s : State} (ho : Steps mu org s) (t : Tile) (rc : List ℕ) (voter : ℕ) (vpair : ℕ) (inj : Bool) : Steps mu org (State.resolve s t rc voter vpair inj) := by
  unfold State.resolve
  lift_lets
  intro z0
  have hz0 : ∀ r t x1, Steps mu r t → Steps mu r (z0 t x1) := by
    dsimp only [z0]
    repeat' with_reducible first | assumption | intro _ | apply Steps.ite | apply State.strike_steps
  try clear_value z0
  intro z1
  have hz1 : Steps mu org z1.2 := by
    dsimp only [z1]
    repeat' with_reducible first | assumption | apply State.draw_steps
  try clear_value z1
  repeat' with_reducible first | assumption | apply Steps.ite | apply State.won_steps | apply State.showVote_steps | apply State.noMajority_steps | apply State.freeRefs_steps | apply hz0

theorem execVoteResolved_steps (vote : ℕ) (upset : Sys2Proof.TileUpset) (s : State) : Next (fun k => k ∈ [Part.free, Part.out, Part.reck, Part.ing, Part.led]) s (execVoteResolved vote upset s) := by
  unfold execVoteResolved
  repeat' with_reducible first | exact Steps.refl _ _ | apply Next.done | apply State.inject_steps | apply State.setRole_steps | apply State.engineDone_steps | apply State.cmpShow_steps | apply State.leaveIdle_steps | apply State.noMajority_steps | apply State.freeRefs_steps | apply State.resolve_steps | split | decide

theorem State.cmpReset_steps {mu : Part → Prop} (ming : mu .ing) {org s : State} (ho : Steps mu org s)  : Steps mu org (State.cmpReset s) := by
  unfold State.cmpReset
  repeat' with_reducible first | assumption | apply State.modRas_steps

end Sys2Proof.Machine
end

