-- ==== Sys2Proof/Laws/StepsSurvey.lean ====
section
/-!
SUPPORT. What each operation and each meaning of survey, dose correction and the tables can change.
-/
set_option linter.all false
open Sys2Proof (Agent)

namespace Sys2Proof.Machine

theorem State.kernelStore_steps {mu : Part → Prop} (mout : mu .out) {org s : State} (ho : Steps mu org s) (p : Page) (o : ℕ) (v : ℕ) : Steps mu org (State.kernelStore s p o v).2 := by
  unfold State.kernelStore
  repeat' with_reducible first | assumption | apply State.raise_steps | apply State.wr_steps | split

theorem State.doseStore_steps {mu : Part → Prop} (mout : mu .out) {org s : State} (ho : Steps mu org s) (c : ℕ) (v : ℕ) : Steps mu org (State.doseStore s c v).2 := by
  unfold State.doseStore
  repeat' with_reducible first | assumption | apply State.raise_steps | apply State.wr_steps | split

theorem execKernelWindowWrite_steps (agent : Sys2Proof.Agent) (ofs : BitVec 16) (value : Sys2Proof.Word) (s : State) : Next (fun k => k ∈ [Part.out, Part.reck]) s (execKernelWindowWrite agent ofs value s) := by
  unfold execKernelWindowWrite
  lift_lets
  intro z0; try clear_value z0
  repeat' with_reducible first | assumption | intro _ | exact Steps.refl _ _ | apply Next.done | apply State.access_steps | apply State.kernelStore_steps | split | decide

theorem execDoseClassTableWrite_steps (agent : Sys2Proof.Agent) (c : BitVec 8) (value : Sys2Proof.Word) (s : State) : Next (fun k => k ∈ [Part.out, Part.reck]) s (execDoseClassTableWrite agent c value s) := by
  unfold execDoseClassTableWrite
  repeat' with_reducible first | assumption | intro _ | exact Steps.refl _ _ | apply Next.done | apply State.access_steps | apply State.doseStore_steps | decide

theorem State.modSrv_steps {mu : Part → Prop} (ming : mu .ing) {org s : State} (ho : Steps mu org s) (f : Srv → Srv) : Steps mu org (State.modSrv s f) := by
  unfold State.modSrv
  lift_lets
  intro z0
  try dsimp -zeta -zetaHave only [z0]
  repeat' with_reducible first | assumption | (intro (hh : Ing.shaped _); first | (simpa [Ing.shaped, setAt, modAt] using hh; done) | (simp [Ing.shaped, setAt, modAt] at hh ⊢; omega)) | apply Steps.ing

theorem State.srvShow_steps {mu : Part → Prop} {org s : State} (ho : Steps mu org s)  : Steps mu org (State.srvShow s) := by
  unfold State.srvShow
  repeat' with_reducible first | assumption | apply State.ingShow_steps | apply State.setRunning_steps

theorem State.dmgShow_steps {mu : Part → Prop} {org s : State} (ho : Steps mu org s)  : Steps mu org (State.dmgShow s) := by
  unfold State.dmgShow
  repeat' with_reducible first | assumption | apply State.wrs_steps | split

theorem State.srvFields_steps {mu : Part → Prop} {org s : State} (ho : Steps mu org s) (h : ℕ) (mode : ℕ) (sr : Bool) : Steps mu org (State.srvFields s h mode sr) := by
  unfold State.srvFields
  repeat' with_reducible first | assumption | apply State.wrs_steps

theorem State.clearDesc_steps {mu : Part → Prop} (ming : mu .ing) {org s : State} (ho : Steps mu org s) (h : ℕ) : Steps mu org (State.clearDesc s h) := by
  unfold State.clearDesc
  lift_lets
  intro z0; try clear_value z0
  repeat' with_reducible first | assumption | intro _ | apply State.modSrv_steps | apply Steps.regsOf | apply FieldStore.wf_clear

theorem State.newMap_steps {mu : Part → Prop} (mhbm : mu .hbm) (mout : mu .out) (ming : mu .ing) (mmem : mu .mem) {org s : State} (ho : Steps mu org s) (h : ℕ) (mode : ℕ) (sr : Bool) : Steps mu org (State.newMap s h mode sr) := by
  unfold State.newMap
  lift_lets
  intro z0; try clear_value z0
  intro z1
  have hz1 : Steps mu org z1 := by
    dsimp only [z1]
    repeat' with_reducible first | assumption | apply State.wrs_steps | apply State.clearDesc_steps
  try clear_value z1
  intro z2; try clear_value z2
  intro z3
  have hz3 : Steps mu org z3 := by
    dsimp only [z3]
    repeat' with_reducible first | assumption | (apply Or.inl; first | assumption | decide) | exact Or.inr rfl | exact id | intro _ | apply Memory.wf_clearRange | fail_if_no_progress apply Steps.updAll
  try clear_value z3
  intro z4; try clear_value z4
  intro z5
  have hz5 : Steps mu org z5 := by
    dsimp only [z5]
    repeat' with_reducible first | assumption | (apply Or.inl; first | assumption | decide) | exact Or.inr rfl | exact id | intro _ | apply Memory.wf_clearRange | fail_if_no_progress apply Steps.updAll
  try clear_value z5
  repeat' with_reducible first | assumption | apply Steps.ite | apply State.hbmStore_steps

theorem State.walkPlan_steps {mu : Part → Prop} (mfree : mu .free) (ming : mu .ing) (mfab : mu .fab) {org s : State} (ho : Steps mu org s) (h : ℕ) (mode : ℕ) : Steps mu org (State.walkPlan s h mode) := by
  unfold State.walkPlan
  lift_lets
  intro z0; try clear_value z0
  intro z1; try clear_value z1
  intro z2; try clear_value z2
  intro z3; try clear_value z3
  intro z4; try clear_value z4
  intro z5
  have hz5 : Steps mu org z5 := by
    dsimp only [z5]
    repeat' with_reducible first | assumption | apply State.modSrv_steps
  try clear_value z5
  intro z6
  try dsimp -zeta -zetaHave only [z6]
  intro z7
  have hz7 : Steps mu org z7 := by
    dsimp only [z7]
    repeat' with_reducible first | assumption | apply Steps.fab
  try clear_value z7
  repeat' with_reducible first | assumption | apply Steps.ite | apply State.wr_steps | apply State.draw_steps

theorem State.srvStart_steps {mu : Part → Prop} (mhbm : mu .hbm) (mfree : mu .free) (mout : mu .out) (ming : mu .ing) (mfab : mu .fab) (mmem : mu .mem) {org s : State} (ho : Steps mu org s) (h : ℕ) (mode : ℕ) (sr : Bool) : Steps mu org (State.srvStart s h mode sr) := by
  unfold State.srvStart
  lift_lets
  intro z0
  have hz0 : Steps mu org z0 := by
    dsimp only [z0]
    repeat' with_reducible first | assumption | apply State.wr_steps | apply State.srvFields_steps
  try clear_value z0
  intro z1
  have hz1 : Steps mu org z1 := by
    dsimp only [z1]
    repeat' with_reducible first | assumption | apply State.wrs_steps
  try clear_value z1
  intro z2
  have hz2 : Steps mu org z2 := by
    dsimp only [z2]
    repeat' with_reducible first | assumption | apply Steps.ite | apply State.newMap_steps
  try clear_value z2
  repeat' with_reducible first | assumption | apply State.wr_steps | apply State.raise_steps | apply State.srvShow_steps | apply State.walkPlan_steps | apply State.modSrv_steps | split

theorem execSurveyStart_steps (agent : Sys2Proof.Agent) (handle : BitVec 4) (sr : Bool) (s : State) : Next (fun k => k ∈ [Part.hbm, Part.free, Part.out, Part.reck, Part.ing, Part.fab, Part.mem]) s (execSurveyStart agent handle sr s) := by
  unfold execSurveyStart
  repeat' with_reducible first | assumption | intro _ | exact Steps.refl _ _ | apply Next.done | apply State.newWork_steps | apply State.srvStart_steps | decide

theorem execCostWalkStart_steps (agent : Sys2Proof.Agent) (handle : BitVec 4) (sr : Bool) (s : State) : Next (fun k => k ∈ [Part.hbm, Part.free, Part.out, Part.reck, Part.ing, Part.fab, Part.mem]) s (execCostWalkStart agent handle sr s) := by
  unfold execCostWalkStart
  repeat' with_reducible first | assumption | intro _ | exact Steps.refl _ _ | apply Next.done | apply State.newWork_steps | apply State.srvStart_steps | decide

theorem execHostMapCommit_steps (agent : Sys2Proof.Agent) (handle : BitVec 4) (sr : Bool) (s : State) : Next (fun k => k ∈ [Part.hbm, Part.free, Part.out, Part.reck, Part.ing, Part.fab, Part.mem]) s (execHostMapCommit agent handle sr s) := by
  unfold execHostMapCommit
  repeat' with_reducible first | assumption | intro _ | exact Steps.refl _ _ | apply Next.done | apply State.newWork_steps | apply State.srvStart_steps | decide

theorem execHostMapRecheck_steps (agent : Sys2Proof.Agent) (handle : BitVec 4) (sr : Bool) (s : State) : Next (fun k => k ∈ [Part.hbm, Part.free, Part.out, Part.reck, Part.ing, Part.fab, Part.mem]) s (execHostMapRecheck agent handle sr s) := by
  unfold execHostMapRecheck
  repeat' with_reducible first | assumption | intro _ | exact Steps.refl _ _ | apply Next.done | apply State.newWork_steps | apply State.srvStart_steps | decide

theorem State.repairShow_steps {mu : Part → Prop} {org s : State} (ho : Steps mu org s)  : Steps mu org (State.repairShow s) := by
  unfold State.repairShow
  repeat' with_reducible first | assumption | apply Steps.ite | apply State.srvShow_steps | apply State.wrs_steps | apply State.wr_steps | split

theorem State.nextRepair_steps {mu : Part → Prop} (mout : mu .out) (ming : mu .ing) {org s : State} (ho : Steps mu org s)  : Steps mu org (State.nextRepair s) := by
  unfold State.nextRepair
  repeat' with_reducible first | assumption | apply Steps.ite | apply State.repairShow_steps | apply State.raise_steps | apply State.modSrv_steps | split

theorem State.srvEnd_steps {mu : Part → Prop} (mout : mu .out) (ming : mu .ing) {org s : State} (ho : Steps mu org s) (outcome : ℕ) : Steps mu org (State.srvEnd s outcome) := by
  unfold State.srvEnd
  repeat' with_reducible first | assumption | apply State.nextRepair_steps | apply State.modSrv_steps | apply State.wr_steps

theorem State.srvAborted_steps {mu : Part → Prop} (mhbm : mu .hbm) (mout : mu .out) (ming : mu .ing) (mled : mu .led) {org s : State} (ho : Steps mu org s)  : Steps mu org (State.srvAborted s) := by
  unfold State.srvAborted
  lift_lets
  intro z0; try clear_value z0
  intro z1; try clear_value z1
  intro z2
  have hz2 : Steps mu org z2 := by
    dsimp only [z2]
    repeat' with_reducible first | assumption | apply State.modSrv_steps | apply State.wrs_steps
  try clear_value z2
  intro z3
  have hz3 : Steps mu org z3 := by
    dsimp only [z3]
    repeat' with_reducible first | assumption | (apply Or.inl; first | assumption | decide) | exact Or.inr rfl | exact id | intro _ | apply Memory.wf_clearRange | fail_if_no_progress apply Steps.updAll
  try clear_value z3
  repeat' with_reducible first | assumption | intro _ | apply Steps.foldl | apply Steps.ite | apply State.raise_steps | apply State.mapRecord_steps | apply State.srvEnd_steps | apply State.freeTrv_steps

theorem State.srvAbort_steps {mu : Part → Prop} (mhbm : mu .hbm) (mout : mu .out) (ming : mu .ing) (mled : mu .led) {org s : State} (ho : Steps mu org s)  : Steps mu org (State.srvAbort s) := by
  unfold State.srvAbort
  repeat' with_reducible first | assumption | apply Steps.ite | apply State.modSrv_steps | apply State.srvAborted_steps | apply State.raise_steps

theorem execSrvAbort_steps (agent : Sys2Proof.Agent) (s : State) : Next (fun k => k ∈ [Part.hbm, Part.out, Part.reck, Part.ing, Part.led]) s (execSrvAbort agent s) := by
  unfold execSrvAbort
  repeat' with_reducible first | assumption | intro _ | exact Steps.refl _ _ | apply Next.done | apply State.access_steps | apply State.srvAbort_steps | decide

theorem State.freeLayout_steps {mu : Part → Prop} (mhbm : mu .hbm) (mout : mu .out) (ming : mu .ing) (mled : mu .led) {org s : State} (ho : Steps mu org s) (h : ℕ) : Steps mu org (State.freeLayout s h) := by
  unfold State.freeLayout
  lift_lets
  intro z0
  have hz0 : Steps mu org z0 := by
    dsimp only [z0]
    repeat' with_reducible first | assumption | apply State.freeGo_steps
  try clear_value z0
  repeat' with_reducible first | assumption | apply Steps.ite | apply State.nextRepair_steps | apply State.dmgShow_steps | apply State.clearDesc_steps | apply State.srvAborted_steps

theorem execFreeLayout_steps (agent : Sys2Proof.Agent) (handle : BitVec 4) (s : State) : Next (fun k => k ∈ [Part.hbm, Part.out, Part.reck, Part.ing, Part.led]) s (execFreeLayout agent handle s) := by
  unfold execFreeLayout
  repeat' with_reducible first | assumption | intro _ | exact Steps.refl _ _ | apply Next.done | apply State.access_steps | apply State.freeLayout_steps | decide

theorem State.writeDensity_steps {mu : Part → Prop} (mhbm : mu .hbm) {org s : State} (ho : Steps mu org s) (h : ℕ) (g : MapGeo) (acc : List (ℕ × ℕ)) : Steps mu org (State.writeDensity s h g acc) := by
  unfold State.writeDensity
  repeat' with_reducible first | assumption | (apply Or.inl; first | assumption | decide) | exact Or.inr rfl | exact id | intro _ | apply Steps.foldl | fail_if_no_progress apply Steps.updAll | apply Memory.wf_writeBytes

theorem State.sendStripe_steps {mu : Part → Prop} (mout : mu .out) (mfab : mu .fab) (mnet : mu .net) {org s : State} (ho : Steps mu org s) (g : MapGeo) (stripe : ℕ) (acc : List (ℕ × ℕ)) : Steps mu org (State.sendStripe s g stripe acc) := by
  unfold State.sendStripe
  lift_lets
  intro z0; try clear_value z0
  repeat' with_reducible first | assumption | intro _ | apply Steps.foldl | apply State.fabricSend_steps

theorem State.addStripe_steps {mu : Part → Prop} (mhbm : mu .hbm) (mout : mu .out) (ming : mu .ing) {org s : State} (ho : Steps mu org s) (h : ℕ) (g : MapGeo) (stripe : ℕ) (sums : List (ℕ × ℕ)) : Steps mu org (State.addStripe s h g stripe sums) := by
  unfold State.addStripe
  lift_lets
  intro z0
  have hz0 : Steps mu org z0 := by
    dsimp only [z0]
    repeat' with_reducible first | assumption | apply State.modSrv_steps
  try clear_value z0
  intro z1; try clear_value z1
  intro z2
  try dsimp -zeta -zetaHave only [z2]
  intro z3; try clear_value z3
  repeat' with_reducible first | assumption | apply Steps.ite | apply State.raise_steps | apply State.wr_steps | apply State.writeDensity_steps

theorem State.ownStripe_steps {mu : Part → Prop} (mhbm : mu .hbm) (mout : mu .out) (ming : mu .ing) (mfab : mu .fab) (mnet : mu .net) {org s : State} (ho : Steps mu org s) (h : ℕ) (g : MapGeo) (stripe : ℕ) (q : ℕ) (k : Walk) : Steps mu org (State.ownStripe s h g stripe q k) := by
  unfold State.ownStripe
  lift_lets
  intro z0; try clear_value z0
  intro z1; try clear_value z1
  intro z2
  have hz2 : Steps mu org z2 := by
    dsimp only [z2]
    repeat' with_reducible first | assumption | apply State.modSrv_steps
  try clear_value z2
  repeat' with_reducible first | assumption | apply Steps.ite | apply State.addStripe_steps | apply State.sendStripe_steps

theorem State.segWalked_steps {mu : Part → Prop} (mhbm : mu .hbm) (mout : mu .out) (ming : mu .ing) (mfab : mu .fab) (mmem : mu .mem) (mnet : mu .net) {org s : State} (ho : Steps mu org s) (h : ℕ) (stripe : ℕ) (q : ℕ) (k : Walk) (bins : ℕ) (repair : Bool) : Steps mu org (State.segWalked s h stripe q k bins repair) := by
  unfold State.segWalked
  lift_lets
  intro z0; try clear_value z0
  intro z1; try clear_value z1
  intro z2; try clear_value z2
  intro z3
  have hz3 : Steps mu org z3 := by
    dsimp only [z3]
    repeat' with_reducible first | assumption | apply State.hbmStore_steps
  try clear_value z3
  intro z4
  have hz4 : Steps mu org z4 := by
    dsimp only [z4]
    repeat' with_reducible first | assumption | apply State.modSrv_steps | apply State.wrapInc_steps
  try clear_value z4
  intro z5; try clear_value z5
  repeat' with_reducible first | assumption | apply Steps.ite | apply State.modSrv_steps | apply State.ownStripe_steps | apply State.writeDensity_steps

theorem State.takeStripes_steps {mu : Part → Prop} (ming : mu .ing) {org s : State} (ho : Steps mu org s)  : Steps mu org (State.takeStripes s) := by
  unfold State.takeStripes
  lift_lets
  intro z0; try clear_value z0
  intro z1; try clear_value z1
  repeat' with_reducible first | assumption | apply Steps.ite | apply State.modSrv_steps

theorem execTakeGo_steps (agent : Sys2Proof.Agent) (s : State) : Next (fun k => k ∈ [Part.out, Part.reck, Part.ing]) s (execTakeGo agent s) := by
  unfold execTakeGo
  repeat' with_reducible first | assumption | intro _ | exact Steps.refl _ _ | apply Next.done | apply State.newWork_steps | apply State.takeStripes_steps | decide

theorem execSurveySegmentWalked_steps (n : ℕ) (clocks : ℕ) (mismatch : Bool) (s : State) : Next (fun k => k ∈ [Part.hbm, Part.out, Part.ing, Part.fab, Part.mem, Part.led, Part.net]) s (execSurveySegmentWalked n clocks mismatch s) := by
  unfold execSurveySegmentWalked
  repeat' with_reducible first | exact Steps.refl _ _ | apply Next.done | apply Next.ite | apply State.expBusy_steps | apply State.meetDamage_steps | apply State.raise_steps | apply State.freeExpander_steps | apply State.segWalked_steps | apply State.freeTrv_steps | apply State.wrapInc_steps | apply State.srvAborted_steps | apply State.srvShow_steps | split | dsimp only | decide

theorem execWalkComplete_steps (s : State) : Next (fun k => k ∈ [Part.out]) s (execWalkComplete s) := by
  unfold execWalkComplete
  repeat' with_reducible first | exact Steps.refl _ _ | apply Next.done | apply Next.ite | apply State.raiseIf_steps | apply State.raise_steps | apply State.wr_steps | decide

theorem execCostWalkComplete_steps (s : State) : Next (fun k => k ∈ [Part.out, Part.ing]) s (execCostWalkComplete s) := by
  unfold execCostWalkComplete
  repeat' with_reducible first | exact Steps.refl _ _ | apply Next.done | apply Next.ite | apply State.raise_steps | apply State.srvEnd_steps | apply State.wr_steps | decide

theorem State.residue_steps {mu : Part → Prop} (mout : mu .out) (mreck : mu .reck) (ming : mu .ing) {org s : State} (ho : Steps mu org s) (slice : ℕ) (clock : ℕ) : Steps mu org (State.residue s slice clock) := by
  unfold State.residue
  lift_lets
  intro z0
  have hz0 : Steps mu org z0 := by
    dsimp only [z0]
    repeat' with_reducible first | assumption | apply State.raise_steps | apply State.satInc_steps
  try clear_value z0
  intro z1; try clear_value z1
  repeat' with_reducible first | assumption | apply Steps.ite | apply State.raise_steps | apply State.setFault_steps | apply State.wr_steps | apply State.modSrv_steps

theorem execFogComplete_steps (fail : Option ℕ) (clock : ℕ) (s : State) : Next (fun k => k ∈ [Part.hbm, Part.out, Part.reck, Part.ing, Part.mem]) s (execFogComplete fail clock s) := by
  unfold execFogComplete
  lift_lets
  intro z0; try clear_value z0
  intro z1; try clear_value z1
  intro z2; try clear_value z2
  intro z3; try clear_value z3
  intro z4; try clear_value z4
  intro z5; try clear_value z5
  intro z6; try clear_value z6
  intro z7; try clear_value z7
  intro z8
  have hz8 : Steps (fun k => k ∈ [Part.hbm, Part.out, Part.reck, Part.ing, Part.mem]) s z8 := by
    dsimp only [z8]
    repeat' with_reducible first | exact Steps.refl _ _ | apply State.hbmStore_steps | decide
  try clear_value z8
  intro z9
  have hz9 : Steps (fun k => k ∈ [Part.hbm, Part.out, Part.reck, Part.ing, Part.mem]) s z9 := by
    dsimp only [z9]
    repeat' with_reducible first | assumption | apply State.residue_steps | split | decide
  try clear_value z9
  repeat' with_reducible first | assumption | exact Steps.refl _ _ | apply Next.done | apply Next.ite | apply State.modSrv_steps | apply State.wr_steps | decide

theorem execSweepColumn_steps (fail : Option ℕ) (clock : ℕ) (s : State) : Next (fun k => k ∈ [Part.hbm, Part.out, Part.reck, Part.ing, Part.mem]) s (execSweepColumn fail clock s) := by
  unfold execSweepColumn
  lift_lets
  intro z0; try clear_value z0
  intro z1; try clear_value z1
  intro z2; try clear_value z2
  intro z3; try clear_value z3
  intro z4
  have hz4 : Steps (fun k => k ∈ [Part.hbm, Part.out, Part.reck, Part.ing, Part.mem]) s z4 := by
    dsimp only [z4]
    repeat' with_reducible first | exact Steps.refl _ _ | apply State.hbmStore_steps | decide
  try clear_value z4
  intro z5; try clear_value z5
  intro z6; try clear_value z6
  intro z7
  have hz7 : Steps (fun k => k ∈ [Part.hbm, Part.out, Part.reck, Part.ing, Part.mem]) s z7 := by
    dsimp only [z7]
    repeat' with_reducible first | assumption | apply State.modSrv_steps | apply State.wr_steps | decide
  try clear_value z7
  intro z8
  have hz8 : Steps (fun k => k ∈ [Part.hbm, Part.out, Part.reck, Part.ing, Part.mem]) s z8 := by
    dsimp only [z8]
    repeat' with_reducible first | assumption | apply State.residue_steps | split | decide
  try clear_value z8
  repeat' with_reducible first | assumption | exact Steps.refl _ _ | apply Next.done | apply Next.ite | apply State.raiseIf_steps | apply State.wrs_steps | decide

theorem State.mapCrcCheck_steps {mu : Part → Prop} (mout : mu .out) (mreck : mu .reck) (mfab : mu .fab) {org s : State} (ho : Steps mu org s) (sid : ℕ) (c : ℕ) : Steps mu org (State.mapCrcCheck s sid c) := by
  unfold State.mapCrcCheck
  lift_lets
  intro z0
  try dsimp -zeta -zetaHave only [z0]
  repeat' with_reducible first | assumption | apply Steps.ite | apply State.raise_steps | apply State.setFault_steps | apply Steps.fab

theorem State.shareCrc_steps {mu : Part → Prop} (mout : mu .out) (mreck : mu .reck) (mfab : mu .fab) (mnet : mu .net) {org s : State} (ho : Steps mu org s) (c : ℕ) : Steps mu org (State.shareCrc s c) := by
  unfold State.shareCrc
  lift_lets
  intro z0
  try dsimp -zeta -zetaHave only [z0]
  intro z1
  have hz1 : Steps mu org z1 := by
    dsimp only [z1]
    repeat' with_reducible first | assumption | apply Steps.fab
  try clear_value z1
  repeat' with_reducible first | assumption | apply Steps.ite | apply State.mapCrcCheck_steps | apply State.fabricSend_steps

theorem execMapComplete_steps (s : State) : Next (fun k => k ∈ [Part.out, Part.reck, Part.ing, Part.fab, Part.led, Part.net]) s (execMapComplete s) := by
  unfold execMapComplete
  lift_lets
  intro z0; try clear_value z0
  intro z1; try clear_value z1
  intro z2
  have hz2 : Steps (fun k => k ∈ [Part.out, Part.reck, Part.ing, Part.fab, Part.led, Part.net]) s z2 := by
    dsimp only [z2]
    repeat' with_reducible first | exact Steps.refl _ _ | apply State.wr_steps | apply State.wr64_steps | apply State.shareCrc_steps | decide
  try clear_value z2
  repeat' with_reducible first | assumption | exact Steps.refl _ _ | apply Next.done | apply Next.ite | apply State.mapRecord_steps | apply State.raise_steps | apply State.srvEnd_steps | decide

theorem State.mapWhole_steps {mu : Part → Prop} (ming : mu .ing) {org s : State} (ho : Steps mu org s) (h : ℕ) : Steps mu org (State.mapWhole s h) := by
  unfold State.mapWhole
  lift_lets
  intro z0
  try dsimp -zeta -zetaHave only [z0]
  repeat' with_reducible first | assumption | (intro (hh : Ing.shaped _); first | (simpa [Ing.shaped, setAt, modAt] using hh; done) | (simp [Ing.shaped, setAt, modAt] at hh ⊢; omega)) | apply Steps.ing

theorem execHostMapCheckComplete_steps (s : State) : Next (fun k => k ∈ [Part.out, Part.ing]) s (execHostMapCheckComplete s) := by
  unfold execHostMapCheckComplete
  lift_lets
  intro z0; try clear_value z0
  intro z1; try clear_value z1
  intro z2
  have hz2 : Steps (fun k => k ∈ [Part.out, Part.ing]) s z2 := by
    dsimp only [z2]
    repeat' with_reducible first | exact Steps.refl _ _ | apply State.wrs_steps | apply State.wr64_steps
  try clear_value z2
  intro z3
  have hz3 : Steps (fun k => k ∈ [Part.out, Part.ing]) s z3 := by
    dsimp only [z3]
    repeat' with_reducible first | exact Steps.refl _ _ | apply State.wr_steps | apply State.modSrv_steps | decide
  try clear_value z3
  repeat' with_reducible first | assumption | exact Steps.refl _ _ | apply Next.done | apply Next.ite | apply State.raise_steps | apply State.srvEnd_steps | apply State.wr_steps | apply State.dmgShow_steps | apply State.mapWhole_steps | decide

theorem State.mapDamaged_steps {mu : Part → Prop} (mout : mu .out) (ming : mu .ing) {org s : State} (ho : Steps mu org s) (h : ℕ) (o : ℕ) : Steps mu org (State.mapDamaged s h o) := by
  unfold State.mapDamaged
  lift_lets
  intro z0; try clear_value z0
  intro z1
  have hz1 : Steps mu org z1 := by
    dsimp only [z1]
    repeat' with_reducible first | assumption | apply State.modSrv_steps | apply State.wr_steps
  try clear_value z1
  repeat' with_reducible first | assumption | apply Steps.ite | apply State.dmgShow_steps | apply State.nextRepair_steps

theorem State.workDamaged_steps {mu : Part → Prop} (mhbm : mu .hbm) (mout : mu .out) (mreck : mu .reck) (ming : mu .ing) (mmem : mu .mem) {org s : State} (ho : Steps mu org s) (h : ℕ) (o : ℕ) : Steps mu org (State.workDamaged s h o) := by
  unfold State.workDamaged
  lift_lets
  intro z0; try clear_value z0
  intro z1; try clear_value z1
  intro z2; try clear_value z2
  intro z3
  have hz3 : ∀ x0, Steps mu org (z3 x0) := by
    dsimp only [z3]
    repeat' with_reducible first | assumption | intro _ | apply Steps.ite | apply State.nextRepair_steps | apply State.modSrv_steps | apply State.setFault_steps | apply State.hbmStore_steps
  try clear_value z3
  intro z4; try clear_value z4
  intro z5; try clear_value z5
  intro z6; try clear_value z6
  repeat' with_reducible first | assumption | apply Steps.ite | apply State.modSrv_steps | apply State.hbmStore_steps | apply hz3

theorem execMapRepairComplete_steps (s : State) : Next (fun k => k ∈ [Part.hbm, Part.out, Part.ing, Part.mem]) s (execMapRepairComplete s) := by
  unfold execMapRepairComplete
  repeat' with_reducible first | assumption | intro _ | exact Steps.refl _ _ | apply Steps.foldl | apply Next.done | apply Next.ite | apply State.hbmStore_steps | apply State.modSrv_steps | apply State.wr_steps | apply State.nextRepair_steps | apply State.raise_steps | apply State.mapWhole_steps | split | decide

theorem State.noteRepaired_steps {mu : Part → Prop} (mled : mu .led) {org s : State} (ho : Steps mu org s) (h : ℕ) (g : MapGeo) (i0 : ℤ) (j0 : ℤ) (t : Tile) : Steps mu org (State.noteRepaired s h g i0 j0 t) := by
  unfold State.noteRepaired
  repeat' with_reducible first | assumption | apply Steps.ite | apply State.modSeg_steps

theorem State.discardTile_steps {mu : Part → Prop} (mout : mu .out) (ming : mu .ing) {org s : State} (ho : Steps mu org s) (t : Tile) : Steps mu org (State.discardTile s t) := by
  unfold State.discardTile
  repeat' with_reducible first | assumption | apply State.markTrv_steps | apply State.tileDone_steps

theorem State.correct_steps {mu : Part → Prop} (mhbm : mu .hbm) (mout : mu .out) (ming : mu .ing) {org s : State} (ho : Steps mu org s) (w : Waybill) (p : Plan) (t : Tile) (slot : ℕ) : Steps mu org (State.correct s w p t slot) := by
  unfold State.correct
  lift_lets
  intro z0; try clear_value z0
  intro z1
  have hz1 : ∀ (m : Memory) (x : Pixel), Memory.wf m = true → Memory.wf (z1 m x) = true := by
    intro m x h
    dsimp only [z1]
    split
    · exact Memory.wf_writeBytes _ _ h
    · exact h
  try clear_value z1
  intro z2
  have hz2 : Steps mu org z2 := by
    dsimp only [z2]
    exact Steps.updAll ho id (fun h => Memory.wf_foldl (fun _ _ h => hz1 _ _ h) h) (.inl mhbm)
      (.inr rfl) (.inr rfl) (.inr rfl) (.inr rfl) (.inr rfl) (.inr rfl) (.inr rfl) (.inr rfl) (.inr rfl) (.inr rfl) (.inr rfl) (.inr rfl) (.inr rfl) (.inr rfl) (.inr rfl) (.inr rfl) id id id id id id id
  try clear_value z2
  intro z3; try clear_value z3
  intro z4
  have hz4 : Steps mu org z4 := by
    dsimp only [z4]
    repeat' with_reducible first | assumption | apply State.wrapInc_steps
  try clear_value z4
  repeat' with_reducible first | assumption | apply State.tileDone_steps | apply State.raiseIf_steps

theorem execTileCorrect_steps (fail : Option ℕ) (clock : ℕ) (s : State) : Next (fun k => k ∈ [Part.hbm, Part.out, Part.reck, Part.ing, Part.led]) s (execTileCorrect fail clock s) := by
  unfold execTileCorrect
  repeat' with_reducible first | exact Steps.refl _ _ | apply Next.done | apply Next.ite | apply State.dropTile_steps | apply State.modTrv_steps | apply State.mapDamaged_steps | apply State.raise_steps | apply State.discardTile_steps | apply State.residue_steps | apply State.correct_steps | apply State.noteRepaired_steps | split | dsimp only | decide

theorem State.tableWrite_steps {mu : Part → Prop} (mout : mu .out) {org s : State} (ho : Steps mu org s) (a : ℕ) (v : ℕ) (second : Option ℕ) : Steps mu org (State.tableWrite s a v second).2 := by
  unfold State.tableWrite
  lift_lets
  intro z0; try clear_value z0
  repeat' with_reducible first | assumption | apply State.raise_steps | apply State.btStore_steps | apply State.itinStore_steps | apply State.doseStore_steps | apply State.kernelStore_steps | split

end Sys2Proof.Machine
end

