-- ==== Sys2Proof/Laws/StepsMemory.lean ====
section
/-!
SUPPORT. What each operation and each meaning of the HBM controller and DMA can change.
-/
set_option linter.all false
open Sys2Proof (Agent)

namespace Sys2Proof.Machine

theorem State.modMem_steps {mu : Part → Prop} (mmem : mu .mem) {org s : State} (ho : Steps mu org s) (f : MemCtl → MemCtl) (hf : ∀ x, MemCtl.shaped x → MemCtl.shaped (f x)) : Steps mu org (State.modMem s f) := by
  unfold State.modMem
  repeat' with_reducible first | assumption | intro _ | apply hf | apply Steps.mem

theorem State.modStack_steps {mu : Part → Prop} (mmem : mu .mem) {org s : State} (ho : Steps mu org s) (m : ℕ) (f : Stack → Stack) : Steps mu org (State.modStack s m f) := by
  unfold State.modStack
  repeat' with_reducible first | assumption | (intro (hh : MemCtl.shaped _); first | (simpa [MemCtl.shaped, setAt, modAt] using hh; done) | (simp [MemCtl.shaped, setAt, modAt] at hh ⊢; omega)) | intro _ | apply State.modMem_steps

theorem State.putWord_steps {mu : Part → Prop} (mhbm : mu .hbm) (mmem : mu .mem) {org s : State} (ho : Steps mu org s) (c : ℕ) (w : List ℕ) : Steps mu org (State.putWord s c w) := by
  unfold State.putWord
  lift_lets
  intro z0
  try dsimp -zeta -zetaHave only [z0]
  intro z1
  try dsimp -zeta -zetaHave only [z1]
  intro z2
  have hz2 : Steps mu org z2 := by
    dsimp only [z2]
    repeat' with_reducible first | assumption | (apply Or.inl; first | assumption | decide) | exact Or.inr rfl | exact id | intro _ | apply State.wordsGood_steps | fail_if_no_progress apply Steps.updAll | apply Memory.wf_writeBytes
  try clear_value z2
  repeat' with_reducible first | assumption | (intro (hh : MemCtl.shaped _); first | (simpa [MemCtl.shaped, setAt, modAt] using hh; done) | (simp [MemCtl.shaped, setAt, modAt] at hh ⊢; omega)) | intro _ | apply Steps.ite | apply State.modMem_steps

theorem State.putGood_steps {mu : Part → Prop} (mhbm : mu .hbm) (mmem : mu .mem) {org s : State} (ho : Steps mu org s) (c : ℕ) (data : List Sys2Proof.Byte) : Steps mu org (State.putGood s c data) := by
  unfold State.putGood
  repeat' with_reducible first | assumption | (apply Or.inl; first | assumption | decide) | exact Or.inr rfl | exact id | intro _ | apply State.wordsGood_steps | fail_if_no_progress apply Steps.updAll | apply Memory.wf_writeBytes

theorem State.putPoison_steps {mu : Part → Prop} (mhbm : mu .hbm) (mmem : mu .mem) {org s : State} (ho : Steps mu org s) (c : ℕ) (origin : ℕ) (pc : ℕ) (time : ℕ) : Steps mu org (State.putPoison s c origin pc time) := by
  unfold State.putPoison
  repeat' with_reducible first | assumption | (intro (hh : MemCtl.shaped _); first | (simpa [MemCtl.shaped, setAt, modAt] using hh; done) | (simp [MemCtl.shaped, setAt, modAt] at hh ⊢; omega)) | intro _ | apply State.modMem_steps | apply State.putGood_steps

theorem State.headShow_steps {mu : Part → Prop} (mfree : mu .free) {org s : State} (ho : Steps mu org s) (m : ℕ) : Steps mu org (State.headShow s m) := by
  unfold State.headShow
  repeat' with_reducible first | assumption | apply State.wrs_steps | apply State.draw_steps | split

theorem State.logUe_steps {mu : Part → Prop} (mfree : mu .free) (mmem : mu .mem) {org s : State} (ho : Steps mu org s) (m : ℕ) (e : UeEntry) : Steps mu org (State.logUe s m e) := by
  unfold State.logUe
  repeat' with_reducible first | assumption | apply Steps.ite | apply State.satInc_steps | apply State.headShow_steps | apply State.modStack_steps

theorem State.popUe_steps {mu : Part → Prop} (mfree : mu .free) (mmem : mu .mem) {org s : State} (ho : Steps mu org s) (m : ℕ) : Steps mu org (State.popUe s m) := by
  unfold State.popUe
  repeat' with_reducible first | assumption | apply State.headShow_steps | apply State.modStack_steps

theorem execPop_steps (agent : Sys2Proof.Agent) (n : ℕ) (s : State) : Next (fun k => k ∈ [Part.free, Part.out, Part.reck, Part.mem]) s (execPop agent n s) := by
  unfold execPop
  repeat' with_reducible first | assumption | intro _ | exact Steps.refl _ _ | apply Next.done | apply Next.ite | apply State.access_steps | apply State.popUe_steps | decide

theorem State.spareShow_steps {mu : Part → Prop} {org s : State} (ho : Steps mu org s) (m : ℕ) : Steps mu org (State.spareShow s m) := by
  unfold State.spareShow
  repeat' with_reducible first | assumption | apply State.wr_steps

theorem State.startCopy_steps {mu : Part → Prop} (mout : mu .out) (mmem : mu .mem) {org s : State} (ho : Steps mu org s) (m : ℕ) (i : ℕ) : Steps mu org (State.startCopy s m i).2 := by
  unfold State.startCopy
  repeat' with_reducible first | assumption | apply State.wrs_steps | apply State.spareShow_steps | apply State.raise_steps | apply State.modStack_steps | split

theorem State.needSpare_steps {mu : Part → Prop} (mout : mu .out) (mreck : mu .reck) (mmem : mu .mem) {org s : State} (ho : Steps mu org s) (m : ℕ) (i : ℕ) : Steps mu org (State.needSpare s m i) := by
  unfold State.needSpare
  lift_lets
  intro z0
  have hz0 : Steps mu org z0.2 := by
    dsimp only [z0]
    repeat' with_reducible first | assumption | apply State.startCopy_steps
  try clear_value z0
  intro z1
  have hz1 : Steps mu org z1 := by
    dsimp only [z1]
    repeat' with_reducible first | assumption | apply State.modStack_steps
  try clear_value z1
  repeat' with_reducible first | assumption | apply Steps.ite | apply State.setFault_steps

theorem State.autoSpare_steps {mu : Part → Prop} (mout : mu .out) (mreck : mu .reck) (mmem : mu .mem) {org s : State} (ho : Steps mu org s) (m : ℕ) (i : ℕ) : Steps mu org (State.autoSpare s m i) := by
  unfold State.autoSpare
  repeat' with_reducible first | assumption | apply Steps.ite | apply State.needSpare_steps

theorem State.spareGo_steps {mu : Part → Prop} (mout : mu .out) (mmem : mu .mem) {org s : State} (ho : Steps mu org s) (m : ℕ) : Steps mu org (State.spareGo s m) := by
  unfold State.spareGo
  lift_lets
  intro z0
  have hz0 : Steps mu org z0.2 := by
    dsimp only [z0]
    repeat' with_reducible first | assumption | apply State.startCopy_steps
  try clear_value z0
  repeat' with_reducible first | assumption | apply State.wr_steps

theorem execSpareGo_steps (agent : Sys2Proof.Agent) (n : ℕ) (pc : BitVec 5) (s : State) : Next (fun k => k ∈ [Part.out, Part.reck, Part.mem]) s (execSpareGo agent n pc s) := by
  unfold execSpareGo
  repeat' with_reducible first | assumption | intro _ | exact Steps.refl _ _ | apply Next.done | apply Next.ite | apply State.newWork_steps | apply State.spareGo_steps | apply State.wr_steps | decide

theorem State.nextCopy_steps {mu : Part → Prop} (mout : mu .out) (mreck : mu .reck) (mmem : mu .mem) {org s : State} (ho : Steps mu org s) (m : ℕ) : Steps mu org (State.nextCopy s m) := by
  unfold State.nextCopy
  repeat' with_reducible first | assumption | apply State.needSpare_steps | split

theorem execSparingComplete_steps (n : ℕ) (s : State) : Next (fun k => k ∈ [Part.out, Part.reck, Part.mem]) s (execSparingComplete n s) := by
  unfold execSparingComplete
  repeat' with_reducible first | exact Steps.refl _ _ | apply Next.done | apply Next.ite | apply State.wrs_steps | apply State.nextCopy_steps | apply State.spareShow_steps | apply State.raise_steps | apply State.modStack_steps | split | decide

theorem State.remapRow_steps {mu : Part → Prop} (mout : mu .out) (mreck : mu .reck) (mmem : mu .mem) {org s : State} (ho : Steps mu org s) (key : ℕ) : Steps mu org (State.remapRow s key) := by
  unfold State.remapRow
  lift_lets
  intro z0; try clear_value z0
  intro z1; try clear_value z1
  intro z2
  have hz2 : Steps mu org z2 := by
    dsimp only [z2]
    repeat' with_reducible first | assumption | apply State.raise_steps
  try clear_value z2
  intro z3
  have hz3 : Steps mu org z3 := by
    dsimp only [z3]
    repeat' with_reducible first | assumption | (intro (hh : MemCtl.shaped _); first | (simpa [MemCtl.shaped, setAt, modAt] using hh; done) | (simp [MemCtl.shaped, setAt, modAt] at hh ⊢; omega)) | intro _ | apply State.raise_steps | apply State.modMem_steps
  try clear_value z3
  repeat' with_reducible first | assumption | apply Steps.ite | apply State.raise_steps | apply State.needSpare_steps | apply State.autoSpare_steps | apply State.wr_steps

theorem State.countFix_steps {mu : Part → Prop} (mout : mu .out) (mreck : mu .reck) (mmem : mu .mem) {org s : State} (ho : Steps mu org s) (key : ℕ) : Steps mu org (State.countFix s key) := by
  unfold State.countFix
  repeat' with_reducible first | assumption | (intro (hh : MemCtl.shaped _); first | (simpa [MemCtl.shaped, setAt, modAt] using hh; done) | (simp [MemCtl.shaped, setAt, modAt] at hh ⊢; omega)) | intro _ | apply Steps.ite | apply State.remapRow_steps | apply State.modMem_steps

theorem State.uncorrectable_steps {mu : Part → Prop} (mhbm : mu .hbm) (mfree : mu .free) (mout : mu .out) (mreck : mu .reck) (mmem : mu .mem) {org s : State} (ho : Steps mu org s) (c : ℕ) (scrub : Bool) : Steps mu org (State.uncorrectable s c scrub) := by
  unfold State.uncorrectable
  lift_lets
  intro z0; try clear_value z0
  intro z1; try clear_value z1
  intro z2; try clear_value z2
  intro z3; try clear_value z3
  intro z4
  have hz4 : Steps mu org z4 := by
    dsimp only [z4]
    repeat' with_reducible first | assumption | apply State.logUe_steps | apply State.satInc_steps | apply State.putPoison_steps
  try clear_value z4
  repeat' with_reducible first | assumption | apply State.autoSpare_steps | apply State.remapRow_steps | apply State.raise_steps

theorem State.readWord_steps {mu : Part → Prop} (mhbm : mu .hbm) (mfree : mu .free) (mout : mu .out) (mreck : mu .reck) (mmem : mu .mem) {org s : State} (ho : Steps mu org s) (c : ℕ) (flips : List (ℕ × BitVec 8)) (scrub : Bool) : Steps mu org (State.readWord s c flips scrub).2 := by
  unfold State.readWord
  lift_lets
  intro z0; try clear_value z0
  intro z1
  try dsimp -zeta -zetaHave only [z1]
  intro z2; try clear_value z2
  intro z3; try clear_value z3
  intro z4; try clear_value z4
  intro z5; try clear_value z5
  intro z6
  have hz6 : Steps mu org z6 := by
    dsimp only [z6]
    repeat' with_reducible first | assumption | apply State.uncorrectable_steps
  try clear_value z6
  repeat' with_reducible first | assumption | apply Steps.ite | apply State.logUe_steps | apply State.putWord_steps | apply State.countFix_steps | apply State.raise_steps | apply State.wrapInc_steps | apply State.putGood_steps | split

theorem State.activate_steps {mu : Part → Prop} (mout : mu .out) (mmem : mu .mem) {org s : State} (ho : Steps mu org s) (bank row : Nat) : Steps mu org (s.activate bank row) := by
  have hput : ∀ (t : ActTable) (u : State), Steps mu org u →
      Steps mu org (u.modMem fun c => { c with acts := t :: c.acts.filter fun x => x.bank != bank }) := fun t u hu => State.modMem_steps mmem hu _ (fun _ => id)
  have h0 : Steps mu org (if (s.bit (Hdr.injArm (pMEM (bank / 64 / 32))) && s.rd (Hdr.injTarget (pMEM (bank / 64 / 32))) == 4) = true then
      s.wr (Hdr.injArm (pMEM (bank / 64 / 32))) 0 else s) := Steps.ite (State.wr_steps ho _ _) ho
  unfold State.activate
  refine Steps.ite (hput _ _ h0) (Steps.ite (Steps.ite (hput _ _ (State.raise_steps mout h0 _ _)) (hput _ _ h0)) (Steps.ite (hput _ _ h0) (hput _ _ h0)))

theorem State.opens_steps {mu : Part → Prop} (mout : mu .out) (mmem : mu .mem) {org s : State} (ho : Steps mu org s) (c : ℕ) (open_ : Bool) : Steps mu org (State.opens s c open_) := by
  unfold State.opens
  repeat' with_reducible first | assumption | apply Steps.ite | apply State.activate_steps | split

theorem State.injectWord_steps {mu : Part → Prop} (mmem : mu .mem) {org s : State} (ho : Steps mu org s) (m : ℕ) (c : ℕ) (w : List ℕ) : Steps mu org (State.injectWord s m c w).2 := by
  unfold State.injectWord
  lift_lets
  intro z0; try clear_value z0
  intro z1; try clear_value z1
  intro z2; try clear_value z2
  repeat' with_reducible first | assumption | (intro (hh : MemCtl.shaped _); first | (simpa [MemCtl.shaped, setAt, modAt] using hh; done) | (simp [MemCtl.shaped, setAt, modAt] at hh ⊢; omega)) | intro _ | apply State.modMem_steps | apply State.wr_steps | split

theorem State.writeWord_steps {mu : Part → Prop} (mhbm : mu .hbm) (mfree : mu .free) (mout : mu .out) (mreck : mu .reck) (mmem : mu .mem) {org s : State} (ho : Steps mu org s) (a : ℕ) (l : List Sys2Proof.Byte) (host : Bool) (ep : Bool) (c : ℕ) : Steps mu org (State.writeWord s a l host ep c) := by
  unfold State.writeWord
  lift_lets
  intro z0; try clear_value z0
  intro z1; try clear_value z1
  intro z2; try clear_value z2
  intro z3; try clear_value z3
  intro z4
  have hz4 : ∀ r t x1, Steps mu r t → Steps mu r (z4 t x1) := by
    dsimp only [z4]
    repeat' with_reducible first | assumption | (intro (hh : MemCtl.shaped _); first | (simpa [MemCtl.shaped, setAt, modAt] using hh; done) | (simp [MemCtl.shaped, setAt, modAt] at hh ⊢; omega)) | intro _ | apply Steps.ite | apply State.injectWord_steps | apply State.putWord_steps | apply State.modMem_steps
  try clear_value z4
  intro z5
  have hz5 : Steps mu org z5.2 := by
    dsimp only [z5]
    repeat' with_reducible first | assumption | apply State.readWord_steps
  try clear_value z5
  repeat' with_reducible first | assumption | apply Steps.ite | apply State.raise_steps | apply State.putPoison_steps | apply State.satInc_steps | apply hz4

theorem State.memWrite_steps {mu : Part → Prop} (mhbm : mu .hbm) (mfree : mu .free) (mout : mu .out) (mreck : mu .reck) (mmem : mu .mem) {org s : State} (ho : Steps mu org s) (a : ℕ) (l : List Sys2Proof.Byte) (host : Bool) (ep : Bool) : Steps mu org (State.memWrite s a l host ep) := by
  unfold State.memWrite
  repeat' with_reducible first | assumption | intro _ | apply Steps.foldl | apply State.writeWord_steps

theorem State.memRead_steps {mu : Part → Prop} (mhbm : mu .hbm) (mfree : mu .free) (mout : mu .out) (mreck : mu .reck) (mmem : mu .mem) {org s : State} (ho : Steps mu org s) (c : ℕ) : Steps mu org (State.memRead s c).2 := by
  unfold State.memRead
  lift_lets
  intro z0
  have hz0 : Steps mu org z0.2 := by
    dsimp only [z0]
    repeat' with_reducible first | assumption | apply State.readWord_steps
  try clear_value z0
  repeat' with_reducible first | assumption | apply State.raise_steps | split

theorem execHbmRead_steps (addr : ℕ) (flips : List (ℕ × BitVec 8)) (opens : Bool) (s : State) (h : ¬ hbmSize ≤ addr) : Next (fun k => k ∈ [Part.hbm, Part.free, Part.out, Part.reck, Part.mem]) s (execHbmRead addr flips opens s) := by
  unfold execHbmRead
  rw [if_neg h]
  lift_lets
  intro z0; try clear_value z0
  intro z1
  have hz1 : Steps (fun k => k ∈ [Part.hbm, Part.free, Part.out, Part.reck, Part.mem]) s z1.2 := by
    dsimp only [z1]
    repeat' with_reducible first | exact Steps.refl _ _ | apply State.readWord_steps | apply State.opens_steps | decide
  try clear_value z1
  repeat' with_reducible first | assumption | exact Steps.refl _ _ | apply Next.done | apply Next.ite | apply State.emit_steps | apply State.raise_steps | decide

theorem execHbmWrite_steps (addr : ℕ) (data : List Sys2Proof.Byte) (host : Bool) (opens : Bool) (s : State) (h : ¬ hbmSize < addr + data.length) : Next (fun k => k ∈ [Part.hbm, Part.free, Part.out, Part.reck, Part.mem]) s (execHbmWrite addr data host opens s) := by
  unfold execHbmWrite
  rw [if_neg h]
  repeat' with_reducible first | exact Steps.refl _ _ | apply Next.done | apply State.memWrite_steps | apply State.opens_steps | decide

theorem State.slotDamaged_steps {mu : Part → Prop} (mout : mu .out) (ming : mu .ing) {org s : State} (ho : Steps mu org s) (a : ℕ) : Steps mu org (State.slotDamaged s a) := by
  unfold State.slotDamaged
  lift_lets
  intro z0; try clear_value z0
  intro z1; try clear_value z1
  intro z2; try clear_value z2
  intro z3; try clear_value z3
  intro z4; try clear_value z4
  intro z5; try clear_value z5
  intro z6; try clear_value z6
  repeat' with_reducible first | assumption | apply Steps.ite | apply State.markTrv_steps | split

theorem State.ledDamaged_steps {mu : Part → Prop} (mhbm : mu .hbm) (mout : mu .out) (mreck : mu .reck) (mmem : mu .mem) (mled : mu .led) {org s : State} (ho : Steps mu org s) (a : ℕ) : Steps mu org (State.ledDamaged s a) := by
  unfold State.ledDamaged
  lift_lets
  intro z0; try clear_value z0
  intro z1; try clear_value z1
  intro z2; try clear_value z2
  repeat' with_reducible first | assumption | apply Steps.ite | apply State.hbmStore_steps | apply State.gapRecord_steps | apply State.raise_steps | apply State.satInc_steps | apply State.wr_steps | apply State.setFault_steps

theorem State.tellOwner_steps {mu : Part → Prop} (mhbm : mu .hbm) (mout : mu .out) (mreck : mu .reck) (ming : mu .ing) (mmem : mu .mem) (mled : mu .led) {org s : State} (ho : Steps mu org s) (c : ℕ) : Steps mu org (State.tellOwner s c) := by
  unfold State.tellOwner
  lift_lets
  intro z0; try clear_value z0
  repeat' with_reducible first | assumption | apply Steps.ite | apply State.layoutDamaged_steps | apply State.mapDamaged_steps | apply State.slotDamaged_steps | apply State.workDamaged_steps | apply State.ledDamaged_steps | split

theorem State.scrubNext_steps {mu : Part → Prop} (mout : mu .out) (mmem : mu .mem) {org s : State} (ho : Steps mu org s) (m : ℕ) : Steps mu org (State.scrubNext s m) := by
  unfold State.scrubNext
  lift_lets
  intro z0; try clear_value z0
  intro z1
  have hz1 : Steps mu org z1 := by
    dsimp only [z1]
    repeat' with_reducible first | assumption | apply State.modStack_steps
  try clear_value z1
  intro z2; try clear_value z2
  intro z3
  have hz3 : Steps mu org z3 := by
    dsimp only [z3]
    repeat' with_reducible first | assumption | apply State.modStack_steps | apply State.wr_steps | apply State.raise_steps | apply State.wrapInc_steps
  try clear_value z3
  repeat' with_reducible first | assumption | (intro (hh : MemCtl.shaped _); first | (simpa [MemCtl.shaped, setAt, modAt] using hh; done) | (simp [MemCtl.shaped, setAt, modAt] at hh ⊢; omega)) | intro _ | apply Steps.ite | apply State.modStack_steps | apply State.wr_steps | apply State.modMem_steps

theorem State.scrubSpare_steps {mu : Part → Prop} (mfree : mu .free) (mout : mu .out) (mmem : mu .mem) {org s : State} (ho : Steps mu org s) (m : ℕ) (flips : List (ℕ × BitVec 8)) : Steps mu org (State.scrubSpare s m flips) := by
  unfold State.scrubSpare
  lift_lets
  intro z0; try clear_value z0
  repeat' with_reducible first | assumption | apply Steps.ite | apply State.raise_steps | apply State.wrapInc_steps | apply State.logUe_steps | apply State.satInc_steps | split

theorem execScrubRead_steps (n : ℕ) (flips : List (ℕ × BitVec 8)) (s : State) : Next (fun k => k ∈ [Part.hbm, Part.free, Part.out, Part.reck, Part.ing, Part.mem, Part.led]) s (execScrubRead n flips s) := by
  unfold execScrubRead
  lift_lets
  intro z0; try clear_value z0
  intro z1; try clear_value z1
  intro z2
  have hz2 : Steps (fun k => k ∈ [Part.hbm, Part.free, Part.out, Part.reck, Part.ing, Part.mem, Part.led]) s z2.2 := by
    dsimp only [z2]
    repeat' with_reducible first | exact Steps.refl _ _ | apply State.readWord_steps | decide
  try clear_value z2
  repeat' with_reducible first | assumption | exact Steps.refl _ _ | apply Next.done | apply Next.ite | apply State.scrubNext_steps | apply State.scrubSpare_steps | apply State.tellOwner_steps | split | decide

theorem execScrubberBehind_steps (n : ℕ) (s : State) : Next (fun k => k ∈ [Part.out]) s (execScrubberBehind n s) := by
  unfold execScrubberBehind
  repeat' with_reducible first | exact Steps.refl _ _ | apply Next.done | apply Next.ite | apply State.raise_steps | decide

theorem State.memStart_steps {mu : Part → Prop} (mmem : mu .mem) {org s : State} (ho : Steps mu org s) (m : ℕ) : Steps mu org (State.memStart s m) := by
  unfold State.memStart
  lift_lets
  intro z0; try clear_value z0
  intro z1
  have hz1 : Steps mu org z1 := by
    dsimp only [z1]
    repeat' with_reducible first | assumption | apply State.modStack_steps
  try clear_value z1
  repeat' with_reducible first | assumption | apply Steps.ite | apply State.setRunning_steps

theorem execMemFillComplete_steps (n : Nat) (s : State) : Next (fun k => k ∈ [Part.hbm, Part.free, Part.out, Part.ing, Part.mem, Part.led]) s (execMemFillComplete n s) := by
  unfold execMemFillComplete
  lift_lets
  intro mine m0 t u
  have ht : Steps (fun k => k ∈ [Part.hbm, Part.free, Part.out, Part.ing, Part.mem, Part.led]) s t := Steps.updAll (Steps.refl _ s) id (fun h => Memory.wf_sublist List.filter_sublist h) (.inl (by decide)) (.inr rfl) (.inr rfl) (.inr rfl) (.inr rfl) (.inr rfl) (.inr rfl) (.inr rfl)
    (.inr rfl) (.inl (by decide)) (.inr rfl) (.inr rfl) (.inr rfl) (.inr rfl) (.inr rfl) (.inr rfl) (.inr rfl) id id id id id id id
  have hu : Steps (fun k => k ∈ [Part.hbm, Part.free, Part.out, Part.ing, Part.mem, Part.led]) s u := State.modStack_steps (by decide) (State.raise_steps (by decide) (State.setRunning_steps (State.wr_steps ht _ _) _ _) _ _) _ _
  clear_value u
  exact Next.ite (Next.done (Steps.refl _ s)) (Next.done (Steps.ite (State.lossRecords_steps (by decide) (by decide) (by decide) (by decide) hu) hu))

theorem State.setDebt_steps {mu : Part → Prop} (mmem : mu .mem) {org s : State} (ho : Steps mu org s) (bank : ℕ) (d : ℕ) : Steps mu org (State.setDebt s bank d) := by
  unfold State.setDebt
  repeat' with_reducible first | assumption | (intro (hh : MemCtl.shaped _); first | (simpa [MemCtl.shaped, setAt, modAt] using hh; done) | (simp [MemCtl.shaped, setAt, modAt] at hh ⊢; omega)) | intro _ | apply State.modMem_steps

theorem execRefreshDue_steps (n : ℕ) (pc : ℕ) (bank : ℕ) (busy : Bool) (s : State) : Next (fun k => k ∈ [Part.out, Part.mem]) s (execRefreshDue n pc bank busy s) := by
  unfold execRefreshDue
  lift_lets
  intro z0; try clear_value z0
  intro z1
  have hz1 : Steps (fun k => k ∈ [Part.out, Part.mem]) s z1 := by
    dsimp only [z1]
    repeat' with_reducible first | exact Steps.refl _ _ | apply State.setDebt_steps | decide
  try clear_value z1
  intro z2
  have hz2 : ∀ r t, Steps (fun k => k ∈ [Part.out, Part.mem]) r t → Steps (fun k => k ∈ [Part.out, Part.mem]) r (z2 t) := by
    dsimp only [z2]
    repeat' with_reducible first | assumption | intro _ | apply Steps.foldl | apply State.setDebt_steps | decide
  try clear_value z2
  repeat' with_reducible first | assumption | exact Steps.refl _ _ | apply Next.done | apply Next.ite | apply State.setDebt_steps | apply State.raise_steps | apply hz2 | decide

theorem execRefreshCycleEnd_steps (n : ℕ) (pc : ℕ) (bank : ℕ) (s : State) : Next (fun k => k ∈ [Part.mem]) s (execRefreshCycleEnd n pc bank s) := by
  unfold execRefreshCycleEnd
  repeat' with_reducible first | (intro (hh : MemCtl.shaped _); first | (simpa [MemCtl.shaped, setAt, modAt] using hh; done) | (simp [MemCtl.shaped, setAt, modAt] at hh ⊢; omega)) | intro _ | exact Steps.refl _ _ | apply Next.done | apply Next.ite | apply State.modMem_steps | decide

theorem execStackTemperatureRead_steps (n : ℕ) (temp : BitVec 8) (s : State) : Next (fun k => k ∈ [Part.out, Part.reck, Part.mem]) s (execStackTemperatureRead n temp s) := by
  unfold execStackTemperatureRead
  lift_lets
  intro z0; try clear_value z0
  intro z1; try clear_value z1
  intro z2; try clear_value z2
  intro z3
  have hz3 : Steps (fun k => k ∈ [Part.out, Part.reck, Part.mem]) s z3 := by
    dsimp only [z3]
    repeat' with_reducible first | exact Steps.refl _ _ | apply State.raiseIf_steps | apply State.wrs_steps | decide
  try clear_value z3
  intro z4
  have hz4 : Steps (fun k => k ∈ [Part.out, Part.reck, Part.mem]) s z4 := by
    dsimp only [z4]
    repeat' with_reducible first | assumption | apply State.modStack_steps | decide
  try clear_value z4
  repeat' with_reducible first | assumption | exact Steps.refl _ _ | apply Next.done | apply Next.ite | apply State.setFault_steps | split | decide

theorem State.pprGo_steps {mu : Part → Prop} (mmem : mu .mem) {org s : State} (ho : Steps mu org s) (m : ℕ) : Steps mu org (State.pprGo s m) := by
  unfold State.pprGo
  repeat' with_reducible first | assumption | apply Steps.ite | apply State.wr_steps | apply State.modStack_steps

theorem execPprGo_steps (agent : Sys2Proof.Agent) (n : ℕ) (s : State) : Next (fun k => k ∈ [Part.out, Part.reck, Part.mem]) s (execPprGo agent n s) := by
  unfold execPprGo
  repeat' with_reducible first | assumption | intro _ | exact Steps.refl _ _ | apply Next.done | apply Next.ite | apply State.newWork_steps | apply State.pprGo_steps | decide

theorem execPprComplete_steps (n : ℕ) (left : List ℕ) (s : State) : Next (fun k => k ∈ [Part.out, Part.mem]) s (execPprComplete n left s) := by
  unfold execPprComplete
  lift_lets
  intro z0
  try dsimp -zeta -zetaHave only [z0]
  intro z1
  try dsimp -zeta -zetaHave only [z1]
  intro z2
  have hz2 : Steps (fun k => k ∈ [Part.out, Part.mem]) s z2 := by
    dsimp only [z2]
    repeat' with_reducible first | (intro (hh : MemCtl.shaped _); first | (simpa [MemCtl.shaped, setAt, modAt] using hh; done) | (simp [MemCtl.shaped, setAt, modAt] at hh ⊢; omega)) | intro _ | exact Steps.refl _ _ | apply State.modMem_steps | apply State.modStack_steps | decide
  try clear_value z2
  intro z3
  have hz3 : Steps (fun k => k ∈ [Part.out, Part.mem]) s z3 := by
    dsimp only [z3]
    repeat' with_reducible first | assumption | apply State.wrs_steps
  try clear_value z3
  repeat' with_reducible first | assumption | exact Steps.refl _ _ | apply Next.done | apply Next.ite | apply State.raise_steps | decide

theorem State.loseChannel_steps {mu : Part → Prop} (mhbm : mu .hbm) (mout : mu .out) (mreck : mu .reck) (ming : mu .ing) (mmem : mu .mem) (mled : mu .led) {org s : State} (ho : Steps mu org s) (l pc : Nat) (dead : Bool) : Steps mu org (s.loseChannel l pc dead) := by
  unfold State.loseChannel
  lift_lets
  intro mine m0 t
  have ht : Steps mu org t := Steps.updAll ho id (fun h => Memory.wf_sublist List.filter_sublist h) (.inl mhbm) (.inr rfl) (.inr rfl) (.inr rfl) (.inr rfl) (.inr rfl) (.inr rfl) (.inr rfl)
    (.inr rfl) (.inl mmem) (.inr rfl) (.inr rfl) (.inr rfl) (.inr rfl) (.inr rfl) (.inr rfl) (.inr rfl) id id id id id id id
  clear_value t
  exact Steps.foldl (fun _ _ c h => State.tellOwner_steps (by assumption) (by assumption) (by assumption) (by assumption) (by assumption) (by assumption) h c) ht

theorem execPseudoChannelDead_steps (n : ℕ) (pc : ℕ) (s : State) : Next (fun k => k ∈ [Part.hbm, Part.out, Part.reck, Part.ing, Part.mem, Part.led]) s (execPseudoChannelDead n pc s) := by
  unfold execPseudoChannelDead
  lift_lets
  intro z0; try clear_value z0
  intro z1; try clear_value z1
  intro z2
  have hz2 : Steps (fun k => k ∈ [Part.hbm, Part.out, Part.reck, Part.ing, Part.mem, Part.led]) s z2 := by
    dsimp only [z2]
    repeat' with_reducible first | exact Steps.refl _ _ | apply State.wr_steps
  try clear_value z2
  intro z3
  have hz3 : Steps (fun k => k ∈ [Part.hbm, Part.out, Part.reck, Part.ing, Part.mem, Part.led]) s z3 := by
    dsimp only [z3]
    repeat' with_reducible first | assumption | apply Steps.ite | apply State.modStack_steps | apply State.wrs_steps | split | decide
  try clear_value z3
  repeat' with_reducible first | assumption | exact Steps.refl _ _ | apply Next.done | apply Next.ite | apply State.modStack_steps | apply State.wrs_steps | apply State.loseChannel_steps | apply State.spareShow_steps | apply State.setFault_steps | apply State.needSpare_steps | split | decide

theorem State.testWrite_steps {mu : Part → Prop} (mhbm : mu .hbm) (mout : mu .out) (mmem : mu .mem) {org s : State} (ho : Steps mu org s)  : Steps mu org (State.testWrite s) := by
  unfold State.testWrite
  lift_lets
  intro z0; try clear_value z0
  repeat' with_reducible first | assumption | apply Steps.ite | apply State.wr_steps | apply State.raise_steps | apply State.putWord_steps

theorem State.testRead_steps {mu : Part → Prop} (mout : mu .out) {org s : State} (ho : Steps mu org s)  : Steps mu org (State.testRead s) := by
  unfold State.testRead
  lift_lets
  intro z0; try clear_value z0
  intro z1
  try dsimp -zeta -zetaHave only [z1]
  repeat' with_reducible first | assumption | apply Steps.ite | apply State.wr_steps | apply State.raise_steps | apply State.wrs_steps

theorem execTestWrite_steps (agent : Sys2Proof.Agent) (s : State) : Next (fun k => k ∈ [Part.hbm, Part.out, Part.reck, Part.mem]) s (execTestWrite agent s) := by
  unfold execTestWrite
  repeat' with_reducible first | assumption | intro _ | exact Steps.refl _ _ | apply Next.done | apply State.access_steps | apply State.testWrite_steps | decide

theorem execTestRead_steps (agent : Sys2Proof.Agent) (s : State) : Next (fun k => k ∈ [Part.out, Part.reck]) s (execTestRead agent s) := by
  unfold execTestRead
  repeat' with_reducible first | assumption | intro _ | exact Steps.refl _ _ | apply Next.done | apply State.access_steps | apply State.testRead_steps | decide

theorem State.regionWrite_steps {mu : Part → Prop} (mout : mu .out) {org s : State} (ho : Steps mu org s) (v : ℕ) : Steps mu org (State.regionWrite s v) := by
  unfold State.regionWrite
  lift_lets
  intro z0; try clear_value z0
  intro z1; try clear_value z1
  intro z2; try clear_value z2
  intro z3; try clear_value z3
  repeat' with_reducible first | assumption | apply Steps.ite | apply State.wr_steps | apply State.slotsShow_steps | apply State.wrs_steps

theorem execMem0RegionWrite_steps (agent : Sys2Proof.Agent) (value : Sys2Proof.Word) (s : State) : Next (fun k => k ∈ [Part.out, Part.reck]) s (execMem0RegionWrite agent value s) := by
  unfold execMem0RegionWrite
  repeat' with_reducible first | assumption | intro _ | exact Steps.refl _ _ | apply Next.done | apply State.access_steps | apply State.regionWrite_steps | decide

theorem State.lossStripe_steps {mu : Part → Prop} (mfree : mu .free) (mout : mu .out) (mreck : mu .reck) (mmot : mu .mot) (ming : mu .ing) (malc : mu .alc) (mpak : mu .pak) (mfab : mu .fab) (mled : mu .led) (mnet : mu .net) {org s : State} (ho : Steps mu org s)  : Steps mu org (State.lossStripe s) := by
  unfold State.lossStripe
  repeat' with_reducible first | assumption | apply Steps.ite | apply State.abandon_steps | apply State.abandonFor_steps | split

theorem execMemResetLoss_steps (s : State) : Next (fun k => k ∈ [Part.hbm, Part.free, Part.out, Part.reck, Part.mot, Part.ing, Part.alc, Part.pak, Part.fab, Part.mem, Part.led, Part.net]) s (execMemResetLoss s) := by
  unfold execMemResetLoss
  lift_lets
  intro z0; try clear_value z0
  intro z1; try clear_value z1
  intro z2
  have hz2 : Steps (fun k => k ∈ [Part.hbm, Part.free, Part.out, Part.reck, Part.mot, Part.ing, Part.alc, Part.pak, Part.fab, Part.mem, Part.led, Part.net]) s z2 := by
    dsimp only [z2]
    repeat' with_reducible first | (intro (hh : MemCtl.shaped _); first | (simpa [MemCtl.shaped, setAt, modAt] using hh; done) | (simp [MemCtl.shaped, setAt, modAt] at hh ⊢; omega)) | intro _ | exact Steps.refl _ _ | apply State.modMem_steps | decide
  try clear_value z2
  intro z3
  try dsimp -zeta -zetaHave only [z3]
  intro z4
  have hz4 : Steps (fun k => k ∈ [Part.hbm, Part.free, Part.out, Part.reck, Part.mot, Part.ing, Part.alc, Part.pak, Part.fab, Part.mem, Part.led, Part.net]) s z4 := by
    dsimp only [z4]
    repeat' with_reducible first | assumption | split | apply Steps.led | decide
  try clear_value z4
  intro z5
  have hz5 : Steps (fun k => k ∈ [Part.hbm, Part.free, Part.out, Part.reck, Part.mot, Part.ing, Part.alc, Part.pak, Part.fab, Part.mem, Part.led, Part.net]) s z5 := by
    dsimp only [z5]
    repeat' with_reducible first | assumption | apply State.dropSecond_steps | decide
  try clear_value z5
  intro z6
  try dsimp -zeta -zetaHave only [z6]
  intro z7
  have hz7 : Steps (fun k => k ∈ [Part.hbm, Part.free, Part.out, Part.reck, Part.mot, Part.ing, Part.alc, Part.pak, Part.fab, Part.mem, Part.led, Part.net]) s z7 := by
    dsimp only [z7]
    repeat' with_reducible first | assumption | (intro (hh : Ing.shaped _); first | (simpa [Ing.shaped, setAt, modAt] using hh; done) | (simp [Ing.shaped, setAt, modAt] at hh ⊢; omega)) | apply State.armShow_steps | apply State.lossStripe_steps | apply State.wr_steps | apply Steps.ing | decide
  try clear_value z7
  intro z8
  have hz8 : Steps (fun k => k ∈ [Part.hbm, Part.free, Part.out, Part.reck, Part.mot, Part.ing, Part.alc, Part.pak, Part.fab, Part.mem, Part.led, Part.net]) s z8 := by
    dsimp only [z8]
    repeat' with_reducible first | assumption | apply State.endRepair_steps | split | decide
  try clear_value z8
  intro z9
  have hz9 : Steps (fun k => k ∈ [Part.hbm, Part.free, Part.out, Part.reck, Part.mot, Part.ing, Part.alc, Part.pak, Part.fab, Part.mem, Part.led, Part.net]) s z9 := by
    dsimp only [z9]
    repeat' with_reducible first | assumption | apply State.endDelivery_steps | split | decide
  try clear_value z9
  intro z10
  have hz10 : Steps (fun k => k ∈ [Part.hbm, Part.free, Part.out, Part.reck, Part.mot, Part.ing, Part.alc, Part.pak, Part.fab, Part.mem, Part.led, Part.net]) s z10 := by
    dsimp only [z10]
    repeat' with_reducible first | assumption | apply Steps.ite | apply State.srvAborted_steps | decide
  try clear_value z10
  intro z11
  have hz11 : Steps (fun k => k ∈ [Part.hbm, Part.free, Part.out, Part.reck, Part.mot, Part.ing, Part.alc, Part.pak, Part.fab, Part.mem, Part.led, Part.net]) s z11 := by
    dsimp only [z11]
    repeat' with_reducible first | assumption | intro _ | apply Steps.foldl | apply State.mapRecord_steps | apply State.clearDesc_steps | apply State.clearLayout_steps | decide
  try clear_value z11
  intro z12
  try dsimp -zeta -zetaHave only [z12]
  repeat' with_reducible first | assumption | (intro (hh : Ing.shaped _); first | (simpa [Ing.shaped, setAt, modAt] using hh; done) | (simp [Ing.shaped, setAt, modAt] at hh ⊢; omega)) | exact Steps.refl _ _ | apply Next.done | apply Next.ite | apply State.repairShow_steps | apply State.modSrv_steps | apply Steps.ing | decide

theorem State.modChan_steps {mu : Part → Prop} (mdma : mu .dma) {org s : State} (ho : Steps mu org s) (n : ℕ) (f : DmaChan → DmaChan) : Steps mu org (State.modChan s n f) := by
  unfold State.modChan
  lift_lets
  intro z0
  try dsimp -zeta -zetaHave only [z0]
  repeat' with_reducible first | assumption | (intro (hh : Dma.shaped _); first | (simpa [Dma.shaped, setAt, modAt] using hh; done) | (simp [Dma.shaped, setAt, modAt] at hh ⊢; omega)) | apply Steps.dma

theorem State.sendReq_steps {mu : Part → Prop} (mout : mu .out) (mdma : mu .dma) {org s : State} (ho : Steps mu org s) (n : ℕ) (a : ℕ) (len : ℕ) : Steps mu org (State.sendReq s n a len) := by
  unfold State.sendReq
  repeat' with_reducible first | assumption | apply State.emit_steps | apply State.modChan_steps

theorem State.issueOne_steps {mu : Part → Prop} (mout : mu .out) (mdma : mu .dma) {org s : State} (ho : Steps mu org s) (n : ℕ) : Steps mu org (State.issueOne s n) := by
  unfold State.issueOne
  lift_lets
  intro z0; try clear_value z0
  intro z1; try clear_value z1
  intro z2; try clear_value z2
  repeat' with_reducible first | assumption | apply Steps.ite | apply State.sendReq_steps | apply State.modChan_steps | split

theorem State.issueAll_steps {mu : Part → Prop} (mout : mu .out) (mdma : mu .dma) {org s : State} (ho : Steps mu org s) (n : ℕ) : Steps mu org (State.issueAll s n) := by
  unfold State.issueAll
  repeat' with_reducible first | assumption | intro _ | apply Steps.foldl | apply State.issueOne_steps

theorem State.pump_steps {mu : Part → Prop} (mout : mu .out) (mdma : mu .dma) {org s : State} (ho : Steps mu org s) (n : ℕ) : Steps mu org (State.pump s n) := by
  unfold State.pump
  repeat' with_reducible first | assumption | intro _ | apply Steps.foldl | apply State.issueAll_steps

theorem State.hostPost_steps {mu : Part → Prop} (mout : mu .out) {org s : State} (ho : Steps mu org s) (k a : Nat) (l : List Byte) : Steps mu org (s.hostPost k a l) := by
  induction k generalizing s a l with
  | zero => exact ho
  | succ k ih => exact Steps.ite ho (ih (State.emit_steps mout ho _) _ _)

theorem State.writeBackTag_steps {mu : Part → Prop} (mhbm : mu .hbm) (mfree : mu .free) (mout : mu .out) (mreck : mu .reck) (mmem : mu .mem) {org s : State} (ho : Steps mu org s) (n : ℕ) (result : ℕ) : Steps mu org (State.writeBackTag s n result) := by
  unfold State.writeBackTag
  lift_lets
  intro z0; try clear_value z0
  intro z1; try clear_value z1
  intro z2; try clear_value z2
  repeat' with_reducible first | assumption | apply Steps.ite | apply State.hostPost_steps | apply State.memWrite_steps

theorem State.lastShow_steps {mu : Part → Prop} {org s : State} (ho : Steps mu org s) (n : ℕ) (result : ℕ) : Steps mu org (State.lastShow s n result) := by
  unfold State.lastShow
  repeat' with_reducible first | assumption | apply State.wrs_steps

theorem State.errAddr_steps {mu : Part → Prop} (mfree : mu .free) {org s : State} (ho : Steps mu org s) (n : ℕ) (code : ℕ) : Steps mu org (State.errAddr s n code).2 := by
  unfold State.errAddr
  lift_lets
  intro z0; try clear_value z0
  intro z1; try clear_value z1
  repeat' with_reducible first | assumption | apply State.draw_steps | split

theorem State.dmaError_steps {mu : Part → Prop} (mhbm : mu .hbm) (mfree : mu .free) (mout : mu .out) (mreck : mu .reck) (mmem : mu .mem) (mdma : mu .dma) {org s : State} (ho : Steps mu org s) (n : ℕ) (code : ℕ) : Steps mu org (State.dmaError s n code) := by
  unfold State.dmaError
  lift_lets
  intro z0
  have hz0 : Steps mu org z0.2 := by
    dsimp only [z0]
    repeat' with_reducible first | assumption | apply State.errAddr_steps
  try clear_value z0
  intro z1
  have hz1 : Steps mu org z1 := by
    dsimp only [z1]
    repeat' with_reducible first | assumption | apply State.wrs_steps
  try clear_value z1
  intro z2
  have hz2 : Steps mu org z2 := by
    dsimp only [z2]
    repeat' with_reducible first | assumption | apply State.writeBackTag_steps | apply State.lastShow_steps | apply State.wr64_steps
  try clear_value z2
  repeat' with_reducible first | assumption | apply State.raise_steps | apply State.modChan_steps

theorem State.activateDesc_steps {mu : Part → Prop} (mhbm : mu .hbm) (mfree : mu .free) (mout : mu .out) (mreck : mu .reck) (mmem : mu .mem) (mdma : mu .dma) {org s : State} (ho : Steps mu org s) (n : ℕ) (w : List ℕ) (first : Bool) : Steps mu org (State.activateDesc s n w first) := by
  unfold State.activateDesc
  lift_lets
  intro z0; try clear_value z0
  intro z1; try clear_value z1
  intro z2; try clear_value z2
  intro z3
  have hz3 : Steps mu org z3 := by
    dsimp only [z3]
    repeat' with_reducible first | assumption | apply State.wrs_steps
  try clear_value z3
  intro z4
  have hz4 : Steps mu org z4 := by
    dsimp only [z4]
    repeat' with_reducible first | assumption | apply State.modChan_steps | apply State.wr64_steps
  try clear_value z4
  intro z5
  have hz5 : Steps mu org z5 := by
    dsimp only [z5]
    repeat' with_reducible first | assumption | apply State.setRunning_steps
  try clear_value z5
  repeat' with_reducible first | assumption | apply Steps.ite | apply State.dmaError_steps | apply State.pump_steps | split

theorem State.takeStaging_steps {mu : Part → Prop} (mhbm : mu .hbm) (mfree : mu .free) (mout : mu .out) (mreck : mu .reck) (mmem : mu .mem) (mdma : mu .dma) {org s : State} (ho : Steps mu org s) (n : ℕ) (w : List ℕ) : Steps mu org (State.takeStaging s n w) := by
  unfold State.takeStaging
  repeat' with_reducible first | assumption | apply State.activateDesc_steps | apply State.modChan_steps | apply State.wr64_steps | apply State.wr_steps

theorem State.dmaIdle_steps {mu : Part → Prop} {org s : State} (ho : Steps mu org s) (n : ℕ) : Steps mu org (State.dmaIdle s n) := by
  unfold State.dmaIdle
  repeat' with_reducible first | assumption | apply State.setRunning_steps | apply State.wrs_steps

theorem State.takePending_steps {mu : Part → Prop} (mhbm : mu .hbm) (mfree : mu .free) (mout : mu .out) (mreck : mu .reck) (mmem : mu .mem) (mdma : mu .dma) {org s : State} (ho : Steps mu org s) (n : ℕ) : Steps mu org (State.takePending s n) := by
  unfold State.takePending
  lift_lets
  intro z0
  try dsimp -zeta -zetaHave only [z0]
  repeat' with_reducible first | assumption | apply Steps.ite | apply State.dmaIdle_steps | apply State.takeStaging_steps | apply State.raise_steps | apply State.wr_steps | apply State.modChan_steps

theorem State.dmaGo_steps {mu : Part → Prop} (mhbm : mu .hbm) (mfree : mu .free) (mout : mu .out) (mreck : mu .reck) (mmem : mu .mem) (mdma : mu .dma) {org s : State} (ho : Steps mu org s) (n : ℕ) : Steps mu org (State.dmaGo s n) := by
  unfold State.dmaGo
  lift_lets
  intro z0
  try dsimp -zeta -zetaHave only [z0]
  intro z1
  have hz1 : ∀ r t x1, Steps mu r t → Steps mu r (z1 t x1) := by
    dsimp only [z1]
    repeat' with_reducible first | assumption | intro _ | apply State.wr_steps
  try clear_value z1
  repeat' with_reducible first | assumption | apply Steps.ite | apply State.wr_steps | apply State.takeStaging_steps | apply State.modChan_steps | apply hz1

theorem execDmaGo_steps (agent : Sys2Proof.Agent) (n : BitVec 5) (s : State) : Next (fun k => k ∈ [Part.hbm, Part.free, Part.out, Part.reck, Part.mem, Part.dma]) s (execDmaGo agent n s) := by
  unfold execDmaGo
  repeat' with_reducible first | assumption | intro _ | exact Steps.refl _ _ | apply Next.done | apply State.access_steps | apply State.dmaGo_steps | decide

theorem State.hbmGet_steps {mu : Part → Prop} (mhbm : mu .hbm) (mfree : mu .free) (mout : mu .out) (mreck : mu .reck) (mmem : mu .mem) {org s : State} (ho : Steps mu org s) (a len : Nat) : Steps mu org (s.hbmGet a len).2 := by
  unfold State.hbmGet
  generalize wordsOf a len = l
  have key : ∀ (g : Got), Steps mu org (g, s).2 := fun _ => ho
  revert key
  generalize (⟨[], []⟩ : Got) = g0
  intro key
  have h0 : Steps mu org (g0, s).2 := ho
  revert h0
  generalize (g0, s) = x
  intro h0
  induction l generalizing x with
  | nil => exact h0
  | cons c l ih => exact ih _ (State.memRead_steps (by assumption) (by assumption) (by assumption) (by assumption) (by assumption) h0 c)

theorem State.tableGet_steps {mu : Part → Prop} (mout : mu .out) {org s : State} (ho : Steps mu org s) (a : ℕ) (len : ℕ) : Steps mu org (State.tableGet s a len).2 := by
  unfold State.tableGet
  repeat' with_reducible first | assumption | apply State.raiseIf_steps

theorem State.bufferUpset_steps {mu : Part → Prop} {org s : State} (ho : Steps mu org s) (n : ℕ) (upset : Bool) : Steps mu org (State.bufferUpset s n upset).2 := by
  unfold State.bufferUpset
  repeat' with_reducible first | assumption | apply State.wr_steps | split

theorem State.dmaDiscard_steps {mu : Part → Prop} (mout : mu .out) {org s : State} (ho : Steps mu org s) (n : ℕ) : Steps mu org (State.dmaDiscard s n) := by
  unfold State.dmaDiscard
  repeat' with_reducible first | assumption | apply State.raise_steps | apply State.wr_steps

theorem State.tablePut_steps {mu : Part → Prop} (mout : mu .out) {org s : State} (ho : Steps mu org s) (n k a : Nat) (l : List Byte) : Steps mu org (s.tablePut n k a l) := by
  induction k generalizing s a l with
  | zero => exact ho
  | succ k ih =>
    have h2 : ∀ (t : State), Steps mu org t → Steps mu org (t.dmaDiscard n) := fun t h => State.dmaDiscard_steps mout h n
    unfold State.tablePut
    refine Steps.ite ho (Steps.ite (ih (Steps.ite ?_ (h2 _ ?_)) _ _) (ih (Steps.ite ?_ (h2 _ ?_)) _ _)) <;>
      exact State.tableWrite_steps (by assumption) ho _ _ _

theorem State.putParts_steps {mu : Part → Prop} (mhbm : mu .hbm) (mmem : mu .mem) {org s : State} (ho : Steps mu org s) (a : ℕ) (ps : List (ℕ × ℕ × ℕ)) : Steps mu org (State.putParts s a ps) := by
  unfold State.putParts
  repeat' with_reducible first | assumption | intro _ | apply Steps.foldl | apply Steps.ite | apply State.putPoison_steps

theorem State.dmaPut_steps {mu : Part → Prop} (mhbm : mu .hbm) (mfree : mu .free) (mout : mu .out) (mreck : mu .reck) (ming : mu .ing) (mfab : mu .fab) (mmem : mu .mem) {org s : State} (ho : Steps mu org s) (n : ℕ) (space : ℕ) (a : ℕ) (l : List Sys2Proof.Byte) : Steps mu org (State.dmaPut s n space a l) := by
  unfold State.dmaPut
  lift_lets
  intro z0
  have hz0 : Steps mu org z0 := by
    dsimp only [z0]
    repeat' with_reducible first | assumption | apply State.memWrite_steps
  try clear_value z0
  repeat' with_reducible first | assumption | apply Steps.ite | apply State.dmaDiscard_steps | apply State.hostPost_steps | apply State.tablePut_steps | apply State.ingestOffer_steps | split

theorem State.posShow_steps {mu : Part → Prop} {org s : State} (ho : Steps mu org s) (n : ℕ) : Steps mu org (State.posShow s n) := by
  unfold State.posShow
  lift_lets
  intro z0; try clear_value z0
  intro z1; try clear_value z1
  repeat' with_reducible first | assumption | apply Steps.ite | apply State.wr64_steps

theorem State.dmaData_steps {mu : Part → Prop} (mhbm : mu .hbm) (mfree : mu .free) (mout : mu .out) (mreck : mu .reck) (ming : mu .ing) (mfab : mu .fab) (mmem : mu .mem) (mdma : mu .dma) {org s : State} (ho : Steps mu org s) (n : ℕ) (l : List Sys2Proof.Byte) : Steps mu org (State.dmaData s n l) := by
  unfold State.dmaData
  lift_lets
  intro z0; try clear_value z0
  intro z1; try clear_value z1
  intro z2
  have hz2 : Steps mu org z2 := by
    dsimp only [z2]
    repeat' with_reducible first | assumption | apply State.dmaPut_steps
  try clear_value z2
  repeat' with_reducible first | assumption | apply Steps.ite | apply State.modChan_steps | apply State.posShow_steps

theorem State.dmaGot_steps {mu : Part → Prop} (mhbm : mu .hbm) (mfree : mu .free) (mout : mu .out) (mreck : mu .reck) (ming : mu .ing) (mfab : mu .fab) (mmem : mu .mem) (mdma : mu .dma) {org s : State} (ho : Steps mu org s) (n : ℕ) (g : Got) : Steps mu org (State.dmaGot s n g) := by
  unfold State.dmaGot
  lift_lets
  intro z0; try clear_value z0
  intro z1; try clear_value z1
  intro z2; try clear_value z2
  repeat' with_reducible first | assumption | apply Steps.ite | apply State.pump_steps | apply State.dmaData_steps | apply State.dmaError_steps | apply State.putParts_steps | apply State.dmaPut_steps

theorem State.dmaIndex_steps {mu : Part → Prop} (mhbm : mu .hbm) (mfree : mu .free) (mout : mu .out) (mreck : mu .reck) (mmem : mu .mem) (mdma : mu .dma) {org s : State} (ho : Steps mu org s) (n : ℕ) (g : Got) : Steps mu org (State.dmaIndex s n g) := by
  unfold State.dmaIndex
  lift_lets
  intro z0
  try dsimp -zeta -zetaHave only [z0]
  repeat' with_reducible first | assumption | apply Steps.ite | apply State.dmaError_steps | apply State.pump_steps | apply State.modChan_steps

theorem State.dmaTake_steps {mu : Part → Prop} (mhbm : mu .hbm) (mfree : mu .free) (mout : mu .out) (mreck : mu .reck) (ming : mu .ing) (mfab : mu .fab) (mmem : mu .mem) (mdma : mu .dma) {org s : State} (ho : Steps mu org s) (n : ℕ) (r : Req) (g : Got) (upset : Bool) : Steps mu org (State.dmaTake s n r g upset) := by
  unfold State.dmaTake
  lift_lets
  intro z0
  have hz0 : Steps mu org z0.2 := by
    dsimp only [z0]
    repeat' with_reducible first | assumption | apply State.bufferUpset_steps
  try clear_value z0
  intro z1
  have hz1 : Steps mu org z1 := by
    dsimp only [z1]
    repeat' with_reducible first | assumption | apply Steps.ite | apply State.setFault_steps
  try clear_value z1
  repeat' with_reducible first | assumption | apply Steps.ite | apply State.dmaIndex_steps | apply State.dmaGot_steps

theorem State.dmaLocal_steps {mu : Part → Prop} (mhbm : mu .hbm) (mfree : mu .free) (mout : mu .out) (mreck : mu .reck) (ming : mu .ing) (mfab : mu .fab) (mmem : mu .mem) (mdma : mu .dma) {org s : State} (ho : Steps mu org s) (n : ℕ) (upset : Bool) : Steps mu org (State.dmaLocal s n upset) := by
  unfold State.dmaLocal
  lift_lets
  intro z0; try clear_value z0
  intro z1; try clear_value z1
  intro z2; try clear_value z2
  intro z3; try clear_value z3
  repeat' with_reducible first | assumption | apply Steps.ite | apply State.pump_steps | apply State.dmaData_steps | apply State.dmaError_steps | apply State.hbmGet_steps | apply State.tableGet_steps | apply State.dmaTake_steps | split

theorem execDmaResponse_steps (n : BitVec 5) (resp : Sys2Proof.DmaResp) (upset : Bool) (s : State) : Next (fun k => k ∈ [Part.hbm, Part.free, Part.out, Part.reck, Part.ing, Part.fab, Part.mem, Part.dma]) s (execDmaResponse n resp upset s) := by
  unfold execDmaResponse
  lift_lets
  intro z0; try clear_value z0
  intro z1; try clear_value z1
  repeat' with_reducible first | exact Steps.refl _ _ | apply Next.done | apply Next.ite | apply State.pump_steps | apply State.modChan_steps | apply State.dmaLocal_steps | apply State.dmaError_steps | apply State.dmaTake_steps | split | decide

theorem execDmaCompletionTimeout_steps (n : BitVec 5) (s : State) : Next (fun k => k ∈ [Part.hbm, Part.free, Part.out, Part.reck, Part.mem, Part.dma]) s (execDmaCompletionTimeout n s) := by
  unfold execDmaCompletionTimeout
  lift_lets
  intro z0; try clear_value z0
  intro z1; try clear_value z1
  repeat' with_reducible first | exact Steps.refl _ _ | apply Next.done | apply Next.ite | apply State.pump_steps | apply State.modChan_steps | apply State.dmaError_steps | split | decide

theorem State.finishCheck_steps {mu : Part → Prop} (mhbm : mu .hbm) (mfree : mu .free) (mout : mu .out) (mreck : mu .reck) (ming : mu .ing) (mfab : mu .fab) (mmem : mu .mem) {org s : State} (ho : Steps mu org s) (n : ℕ) : Steps mu org (State.finishCheck s n).2 := by
  unfold State.finishCheck
  lift_lets
  intro z0; try clear_value z0
  intro z1; try clear_value z1
  repeat' with_reducible first | assumption | apply State.dmaPut_steps | split

theorem State.chainNext_steps {mu : Part → Prop} (mhbm : mu .hbm) (mfree : mu .free) (mout : mu .out) (mreck : mu .reck) (mmem : mu .mem) (mdma : mu .dma) {org s : State} (ho : Steps mu org s) (n : ℕ) : Steps mu org (State.chainNext s n) := by
  unfold State.chainNext
  lift_lets
  intro z0; try clear_value z0
  intro z1; try clear_value z1
  intro z2
  have hz2 : Steps mu org z2 := by
    dsimp only [z2]
    repeat' with_reducible first | assumption | apply State.modChan_steps
  try clear_value z2
  repeat' with_reducible first | assumption | apply Steps.ite | apply State.dmaError_steps | apply State.pump_steps | split

theorem State.descEnds_steps {mu : Part → Prop} (mhbm : mu .hbm) (mfree : mu .free) (mout : mu .out) (mreck : mu .reck) (mmem : mu .mem) (mdma : mu .dma) {org s : State} (ho : Steps mu org s) (n : ℕ) : Steps mu org (State.descEnds s n) := by
  unfold State.descEnds
  lift_lets
  intro z0; try clear_value z0
  intro z1; try clear_value z1
  intro z2; try clear_value z2
  intro z3
  have hz3 : Steps mu org z3 := by
    dsimp only [z3]
    repeat' with_reducible first | assumption | apply State.raiseIf_steps | apply State.lastShow_steps | apply State.writeBackTag_steps
  try clear_value z3
  intro z4
  have hz4 : Steps mu org z4 := by
    dsimp only [z4]
    repeat' with_reducible first | assumption | apply Steps.ite | apply State.chainNext_steps | apply State.takePending_steps | apply State.raise_steps
  try clear_value z4
  repeat' with_reducible first | assumption | apply Steps.ite | apply State.wr_steps

theorem execDmaDescriptorComplete_steps (n : BitVec 5) (s : State) : Next (fun k => k ∈ [Part.hbm, Part.free, Part.out, Part.reck, Part.ing, Part.fab, Part.mem, Part.dma]) s (execDmaDescriptorComplete n s) := by
  unfold execDmaDescriptorComplete
  lift_lets
  intro z0; try clear_value z0
  intro z1; try clear_value z1
  intro z2; try clear_value z2
  intro z3
  have hz3 : Steps (fun k => k ∈ [Part.hbm, Part.free, Part.out, Part.reck, Part.ing, Part.fab, Part.mem, Part.dma]) s z3.2 := by
    dsimp only [z3]
    repeat' with_reducible first | exact Steps.refl _ _ | apply State.finishCheck_steps | decide
  try clear_value z3
  repeat' with_reducible first | assumption | exact Steps.refl _ _ | apply Next.done | apply Next.ite | apply State.dmaError_steps | apply State.descEnds_steps | split | decide

theorem State.descFetched_steps {mu : Part → Prop} (mhbm : mu .hbm) (mfree : mu .free) (mout : mu .out) (mreck : mu .reck) (mmem : mu .mem) (mdma : mu .dma) {org s : State} (ho : Steps mu org s) (n : ℕ) (host : Bool) (a : ℕ) (g : Got) : Steps mu org (State.descFetched s n host a g) := by
  unfold State.descFetched
  lift_lets
  intro z0
  try dsimp -zeta -zetaHave only [z0]
  repeat' with_reducible first | assumption | apply Steps.ite | apply State.dmaError_steps | apply State.activateDesc_steps | apply State.modChan_steps | apply State.wr64_steps | apply State.wr_steps

theorem execDmaDescriptorFetch_steps (n : BitVec 5) (resp : Sys2Proof.DmaResp) (s : State) : Next (fun k => k ∈ [Part.hbm, Part.free, Part.out, Part.reck, Part.mem, Part.dma]) s (execDmaDescriptorFetch n resp s) := by
  unfold execDmaDescriptorFetch
  lift_lets
  intro z0; try clear_value z0
  intro z1; try clear_value z1
  intro z2
  have hz2 : Steps (fun k => k ∈ [Part.hbm, Part.free, Part.out, Part.reck, Part.mem, Part.dma]) s z2 := by
    dsimp only [z2]
    repeat' with_reducible first | exact Steps.refl _ _ | apply State.modChan_steps | decide
  try clear_value z2
  intro z3; try clear_value z3
  repeat' with_reducible first | assumption | exact Steps.refl _ _ | apply Next.done | apply Next.ite | apply State.dmaError_steps | apply State.hbmGet_steps | apply State.descFetched_steps | apply State.wr_steps | split | decide

theorem State.dmaPause_steps {mu : Part → Prop} (mout : mu .out) {org s : State} (ho : Steps mu org s) (n : ℕ) : Steps mu org (State.dmaPause s n) := by
  unfold State.dmaPause
  repeat' with_reducible first | assumption | apply Steps.ite | apply State.wr_steps | apply State.raise_steps

theorem execPause_steps (agent : Sys2Proof.Agent) (n : BitVec 5) (s : State) : Next (fun k => k ∈ [Part.out, Part.reck]) s (execPause agent n s) := by
  unfold execPause
  repeat' with_reducible first | assumption | intro _ | exact Steps.refl _ _ | apply Next.done | apply State.access_steps | apply State.dmaPause_steps | decide

theorem execDmaPaused_steps (n : BitVec 5) (s : State) : Next (fun k => k ∈ [Part.out]) s (execDmaPaused n s) := by
  unfold execDmaPaused
  lift_lets
  intro z0; try clear_value z0
  intro z1; try clear_value z1
  intro z2; try clear_value z2
  repeat' with_reducible first | exact Steps.refl _ _ | apply Next.done | apply Next.ite | apply State.raise_steps | apply State.wr_steps | decide

theorem State.dmaResume_steps {mu : Part → Prop} (mhbm : mu .hbm) (mfree : mu .free) (mout : mu .out) (mreck : mu .reck) (mmem : mu .mem) (mdma : mu .dma) {org s : State} (ho : Steps mu org s) (n : ℕ) : Steps mu org (State.dmaResume s n) := by
  unfold State.dmaResume
  lift_lets
  intro z0; try clear_value z0
  intro z1
  have hz1 : Steps mu org z1 := by
    dsimp only [z1]
    repeat' with_reducible first | assumption | apply State.wr_steps
  try clear_value z1
  repeat' with_reducible first | assumption | apply Steps.ite | apply State.dmaError_steps | apply State.pump_steps | apply State.raise_steps | split

theorem execDmaResume_steps (agent : Sys2Proof.Agent) (n : BitVec 5) (s : State) : Next (fun k => k ∈ [Part.hbm, Part.free, Part.out, Part.reck, Part.mem, Part.dma]) s (execDmaResume agent n s) := by
  unfold execDmaResume
  repeat' with_reducible first | assumption | intro _ | exact Steps.refl _ _ | apply Next.done | apply State.access_steps | apply State.dmaResume_steps | decide

theorem State.dmaStop_steps {mu : Part → Prop} (mout : mu .out) (mdma : mu .dma) {org s : State} (ho : Steps mu org s) (n : ℕ) : Steps mu org (State.dmaStop s n) := by
  unfold State.dmaStop
  lift_lets
  intro z0
  have hz0 : Steps mu org z0 := by
    dsimp only [z0]
    repeat' with_reducible first | assumption | apply State.modChan_steps | apply State.lastShow_steps
  try clear_value z0
  repeat' with_reducible first | assumption | apply Steps.ite | apply State.dmaIdle_steps | apply State.raise_steps | apply State.wr_steps

theorem execDmaStop_steps (agent : Sys2Proof.Agent) (n : BitVec 5) (s : State) : Next (fun k => k ∈ [Part.out, Part.reck, Part.dma]) s (execDmaStop agent n s) := by
  unfold execDmaStop
  repeat' with_reducible first | assumption | intro _ | exact Steps.refl _ _ | apply Next.done | apply State.access_steps | apply State.dmaStop_steps | decide

theorem State.dmaClear_steps {mu : Part → Prop} (mhbm : mu .hbm) (mfree : mu .free) (mout : mu .out) (mreck : mu .reck) (mmem : mu .mem) (mdma : mu .dma) {org s : State} (ho : Steps mu org s) (n : ℕ) : Steps mu org (State.dmaClear s n) := by
  unfold State.dmaClear
  repeat' with_reducible first | assumption | apply Steps.ite | apply State.takePending_steps | apply State.raise_steps

theorem execClearErr_steps (agent : Sys2Proof.Agent) (n : BitVec 5) (s : State) : Next (fun k => k ∈ [Part.hbm, Part.free, Part.out, Part.reck, Part.mem, Part.dma]) s (execClearErr agent n s) := by
  unfold execClearErr
  repeat' with_reducible first | assumption | intro _ | exact Steps.refl _ _ | apply Next.done | apply State.access_steps | apply State.dmaClear_steps | decide

theorem State.closeSpace_steps {mu : Part → Prop} (mhbm : mu .hbm) (mfree : mu .free) (mout : mu .out) (mreck : mu .reck) (mmem : mu .mem) (mdma : mu .dma) {org s : State} (ho : Steps mu org s) (code : ℕ) (uses : Desc → Bool) (fetches : Bool → Bool) : Steps mu org (State.closeSpace s code uses fetches) := by
  unfold State.closeSpace
  repeat' with_reducible first | assumption | intro _ | apply Steps.foldl | apply Steps.ite | apply State.dmaError_steps

theorem State.dmaLifeCycle_steps {mu : Part → Prop} (mhbm : mu .hbm) (mfree : mu .free) (mout : mu .out) (mreck : mu .reck) (mmem : mu .mem) (mdma : mu .dma) {org s : State} (ho : Steps mu org s)  : Steps mu org (State.dmaLifeCycle s) := by
  unfold State.dmaLifeCycle
  repeat' with_reducible first | assumption | apply Steps.ite | apply State.closeSpace_steps

theorem State.clearBusMaster_steps {mu : Part → Prop} (mhbm : mu .hbm) (mfree : mu .free) (mout : mu .out) (mreck : mu .reck) (mmem : mu .mem) (mdma : mu .dma) {org s : State} (ho : Steps mu org s)  : Steps mu org (State.clearBusMaster s) := by
  unfold State.clearBusMaster
  lift_lets
  intro z0
  try dsimp -zeta -zetaHave only [z0]
  repeat' with_reducible first | assumption | (intro (hh : Dma.shaped _); first | (simpa [Dma.shaped, setAt, modAt] using hh; done) | (simp [Dma.shaped, setAt, modAt] at hh ⊢; omega)) | apply State.closeSpace_steps | apply Steps.dma

theorem execBusMasterEnableCleared_steps (s : State) : Next (fun k => k ∈ [Part.hbm, Part.free, Part.out, Part.reck, Part.mem, Part.dma]) s (execBusMasterEnableCleared s) := by
  unfold execBusMasterEnableCleared
  repeat' with_reducible first | exact Steps.refl _ _ | apply Next.done | apply State.clearBusMaster_steps | decide

theorem State.configWrite_steps {mu : Part → Prop} (mhbm : mu .hbm) (mfree : mu .free) (mout : mu .out) (mreck : mu .reck) (mmem : mu .mem) (mdma : mu .dma) {org s : State} (ho : Steps mu org s) (w : Sys2Proof.ConfigWrite) : Steps mu org (State.configWrite s w) := by
  unfold State.configWrite
  lift_lets
  intro z0
  try dsimp -zeta -zetaHave only [z0]
  intro z1
  try dsimp -zeta -zetaHave only [z1]
  intro z2
  have hz2 : Steps mu org z2 := by
    dsimp only [z2]
    repeat' with_reducible first | assumption | (intro (hh : Dma.shaped _); first | (simpa [Dma.shaped, setAt, modAt] using hh; done) | (simp [Dma.shaped, setAt, modAt] at hh ⊢; omega)) | split | apply Steps.dma
  try clear_value z2
  intro z3
  try dsimp -zeta -zetaHave only [z3]
  repeat' with_reducible first | assumption | (intro (hh : Dma.shaped _); first | (simpa [Dma.shaped, setAt, modAt] using hh; done) | (simp [Dma.shaped, setAt, modAt] at hh ⊢; omega)) | apply Steps.ite | apply State.clearBusMaster_steps | apply Steps.dma

theorem execConfigurationRequest_steps (write : Option Sys2Proof.ConfigWrite) (s : State) : Next (fun k => k ∈ [Part.hbm, Part.free, Part.out, Part.reck, Part.mem, Part.dma]) s (execConfigurationRequest write s) := by
  unfold execConfigurationRequest
  repeat' with_reducible first | exact Steps.refl _ _ | apply Next.done | apply Next.ite | apply State.emit_steps | apply State.configWrite_steps | split | decide

theorem State.dmaPageStops_steps {mu : Part → Prop} (mout : mu .out) (mdma : mu .dma) {org s : State} (ho : Steps mu org s) (n : ℕ) : Steps mu org (State.dmaPageStops s n) := by
  unfold State.dmaPageStops
  repeat' with_reducible first | assumption | apply State.dmaStop_steps

end Sys2Proof.Machine
end

