-- ==== Sys2Proof/Laws/StepsFabric.lean ====
section
/-!
SUPPORT. What each operation and each meaning of transport, fabric and the check units can change.
-/
set_option linter.all false
open Sys2Proof (Agent)

namespace Sys2Proof.Machine

theorem State.xportFrame_steps {mu : Part → Prop} (mout : mu .out) (ming : mu .ing) (mfab : mu .fab) (mnet : mu .net) {org s : State} (ho : Steps mu org s) (n : ℕ) (from_ : Peer) (f : List Sys2Proof.Byte) : Steps mu org (State.xportFrame s n from_ f) := by
  unfold State.xportFrame
  lift_lets
  intro z0; try clear_value z0
  intro z1
  have hz1 : Steps mu org z1 := by
    dsimp only [z1]
    repeat' with_reducible first | assumption | apply State.ingestOffer_steps
  try clear_value z1
  repeat' with_reducible first | assumption | apply Steps.ite | apply State.raise_steps | apply State.satInc_steps | apply State.modNet_steps | split

theorem State.xportTo_steps {mu : Part → Prop} (mout : mu .out) (mfab : mu .fab) (mnet : mu .net) {org s : State} (ho : Steps mu org s) (n : ℕ) (p : Peer) (f : List Sys2Proof.Byte) : Steps mu org (State.xportTo s n p f) := by
  unfold State.xportTo
  repeat' with_reducible first | assumption | apply Steps.ite | apply State.fabricSend_steps | apply State.etherSend_steps

theorem State.sendCredit_steps {mu : Part → Prop} (mout : mu .out) (mfab : mu .fab) (mnet : mu .net) {org s : State} (ho : Steps mu org s) (n : ℕ) : Steps mu org (State.sendCredit s n) := by
  unfold State.sendCredit
  lift_lets
  intro z0; try clear_value z0
  intro z1; try clear_value z1
  intro z2; try clear_value z2
  intro z3; try clear_value z3
  intro z4; try clear_value z4
  intro z5; try clear_value z5
  repeat' with_reducible first | assumption | apply State.xportTo_steps | apply State.modNet_steps | split

theorem execCredit_steps (n : BitVec 1) (s : State) : Next (fun k => k ∈ [Part.out, Part.fab, Part.net]) s (execCredit n s) := by
  unfold execCredit
  lift_lets
  intro z0; try clear_value z0
  intro z1; try clear_value z1
  repeat' with_reducible first | exact Steps.refl _ _ | apply Next.done | apply State.sendCredit_steps | split | decide

theorem execReqFrame_steps (n : BitVec 1) (sub : BitVec 2) (source : BitVec 48) (frame : List Sys2Proof.Byte) (s : State) : Next (fun k => k ∈ [Part.out, Part.ing, Part.fab, Part.net]) s (execReqFrame n sub source frame s) := by
  unfold execReqFrame
  repeat' with_reducible first | exact Steps.refl _ _ | apply Next.done | apply State.xportFrame_steps | split | decide

theorem execDataFrame_steps (n : BitVec 1) (sub : BitVec 2) (source : BitVec 48) (frame : List Sys2Proof.Byte) (s : State) : Next (fun k => k ∈ [Part.out, Part.ing, Part.fab, Part.net]) s (execDataFrame n sub source frame s) := by
  unfold execDataFrame
  repeat' with_reducible first | exact Steps.refl _ _ | apply Next.done | apply State.xportFrame_steps | split | decide

theorem State.fabDrop_steps {mu : Part → Prop} {org s : State} (ho : Steps mu org s)  : Steps mu org (State.fabDrop s) := by
  unfold State.fabDrop
  repeat' with_reducible first | assumption | apply State.satInc_steps

theorem State.fabShow_steps {mu : Part → Prop} {org s : State} (ho : Steps mu org s)  : Steps mu org (State.fabShow s) := by
  unfold State.fabShow
  lift_lets
  intro z0; try clear_value z0
  repeat' with_reducible first | assumption | apply Steps.ite | apply State.setRunning_steps | apply State.wr_steps

theorem State.unsettle_steps {mu : Part → Prop} {org s : State} (ho : Steps mu org s)  : Steps mu org (State.unsettle s) := by
  unfold State.unsettle
  repeat' with_reducible first | assumption | apply Steps.ite | apply State.wr_steps

theorem State.adoptEpoch_steps {mu : Part → Prop} {org s : State} (ho : Steps mu org s) (e : ℕ) : Steps mu org (State.adoptEpoch s e) := by
  unfold State.adoptEpoch
  repeat' with_reducible first | assumption | apply State.wr_steps

theorem State.sendLsa_steps {mu : Part → Prop} (mout : mu .out) (mfab : mu .fab) (mnet : mu .net) {org s : State} (ho : Steps mu org s)  : Steps mu org (State.sendLsa s) := by
  unfold State.sendLsa
  lift_lets
  intro z0; try clear_value z0
  repeat' with_reducible first | assumption | apply State.fabricSend_steps

theorem State.neighboursChanged_steps {mu : Part → Prop} (mout : mu .out) (mfab : mu .fab) (mnet : mu .net) {org s : State} (ho : Steps mu org s)  : Steps mu org (State.neighboursChanged s) := by
  unfold State.neighboursChanged
  repeat' with_reducible first | assumption | apply State.sendLsa_steps | apply State.unsettle_steps | apply State.wr_steps

theorem State.helloIn_steps {mu : Part → Prop} (mout : mu .out) (mfab : mu .fab) (mnet : mu .net) {org s : State} (ho : Steps mu org s) (link : ℕ) (mac : ℕ) (p : List Sys2Proof.Byte) : Steps mu org (State.helloIn s link mac p) := by
  unfold State.helloIn
  lift_lets
  intro z0; try clear_value z0
  intro z1
  have hz1 : Steps mu org z1 := by
    dsimp only [z1]
    repeat' with_reducible first | assumption | apply State.adoptEpoch_steps
  try clear_value z1
  intro z2; try clear_value z2
  intro z3
  try dsimp -zeta -zetaHave only [z3]
  intro z4
  have hz4 : Steps mu org z4 := by
    dsimp only [z4]
    repeat' with_reducible first | assumption | apply Steps.fab
  try clear_value z4
  repeat' with_reducible first | assumption | apply Steps.ite | apply State.neighboursChanged_steps

theorem State.neighbourLost_steps {mu : Part → Prop} (mout : mu .out) (mfab : mu .fab) (mnet : mu .net) {org s : State} (ho : Steps mu org s) (link : ℕ) : Steps mu org (State.neighbourLost s link) := by
  unfold State.neighbourLost
  lift_lets
  intro z0
  try dsimp -zeta -zetaHave only [z0]
  repeat' with_reducible first | assumption | apply Steps.ite | apply State.neighboursChanged_steps | apply Steps.fab

theorem execNeighbourLost_steps (link : BitVec 3) (s : State) : Next (fun k => k ∈ [Part.out, Part.fab, Part.net]) s (execNeighbourLost link s) := by
  unfold execNeighbourLost
  repeat' with_reducible first | exact Steps.refl _ _ | apply Next.done | apply State.neighbourLost_steps | split | decide

theorem execHelloSend_steps (s : State) : Next (fun k => k ∈ [Part.out, Part.fab, Part.net]) s (execHelloSend s) := by
  unfold execHelloSend
  repeat' with_reducible first | assumption | intro _ | exact Steps.refl _ _ | apply Steps.foldl | apply Next.done | apply Next.ite | apply State.fabricOn_steps | decide

theorem execLsaFlood_steps (s : State) : Next (fun k => k ∈ [Part.out, Part.fab, Part.net]) s (execLsaFlood s) := by
  unfold execLsaFlood
  repeat' with_reducible first | exact Steps.refl _ _ | apply Next.done | apply State.sendLsa_steps | split | decide

theorem State.lsaIn_steps {mu : Part → Prop} (mfab : mu .fab) {org s : State} (ho : Steps mu org s) (l : Lsa) : Steps mu org (State.lsaIn s l) := by
  unfold State.lsaIn
  lift_lets
  intro z0
  have hz0 : Steps mu org z0 := by
    dsimp only [z0]
    repeat' with_reducible first | assumption | apply State.adoptEpoch_steps
  try clear_value z0
  intro z1; try clear_value z1
  intro z2
  try dsimp -zeta -zetaHave only [z2]
  intro z3
  have hz3 : Steps mu org z3 := by
    dsimp only [z3]
    repeat' with_reducible first | assumption | apply Steps.fab
  try clear_value z3
  repeat' with_reducible first | assumption | apply Steps.ite | apply State.unsettle_steps

theorem execLsaExpiry_steps (uid : BitVec 64) (s : State) : Next (fun k => k ∈ [Part.fab]) s (execLsaExpiry uid s) := by
  unfold execLsaExpiry
  lift_lets
  intro z0
  try dsimp -zeta -zetaHave only [z0]
  repeat' with_reducible first | exact Steps.refl _ _ | apply Next.done | apply Next.ite | apply State.unsettle_steps | apply Steps.fab | decide

theorem State.clearRoutes_steps {mu : Part → Prop} {org s : State} (ho : Steps mu org s)  : Steps mu org (State.clearRoutes s) := by
  unfold State.clearRoutes
  repeat' with_reducible first | assumption | intro _ | apply Steps.regsOf | apply FieldStore.wf_clear

theorem State.setRoutes_steps {mu : Part → Prop} (mout : mu .out) (mfab : mu .fab) {org s : State} (ho : Steps mu org s) (ns : List Node) (as : List (ℕ × ℕ)) : Steps mu org (State.setRoutes s ns as) := by
  unfold State.setRoutes
  lift_lets
  intro z0; try clear_value z0
  intro z1
  have hz1 : Steps mu org z1 := by
    dsimp only [z1]
    repeat' with_reducible first | assumption | intro _ | apply Steps.foldl | apply State.wrs_steps | apply State.clearRoutes_steps
  try clear_value z1
  intro z2; try clear_value z2
  intro z3
  have hz3 : Steps mu org z3 := by
    dsimp only [z3]
    repeat' with_reducible first | assumption | apply State.wr_steps
  try clear_value z3
  intro z4
  try dsimp -zeta -zetaHave only [z4]
  repeat' with_reducible first | assumption | apply State.raiseIf_steps | apply Steps.fab

theorem State.settleMembers_steps {mu : Part → Prop} (mout : mu .out) (mreck : mu .reck) (mfab : mu .fab) {org s : State} (ho : Steps mu org s)  : Steps mu org (State.settleMembers s) := by
  unfold State.settleMembers
  lift_lets
  intro z0; try clear_value z0
  intro z1; try clear_value z1
  intro z2; try clear_value z2
  intro z3
  have hz3 : Steps mu org z3 := by
    dsimp only [z3]
    repeat' with_reducible first | assumption | apply State.wrs_steps
  try clear_value z3
  intro z4
  have hz4 : Steps mu org z4 := by
    dsimp only [z4]
    repeat' with_reducible first | assumption | apply State.raiseIf_steps
  try clear_value z4
  intro z5
  have hz5 : Steps mu org z5 := by
    dsimp only [z5]
    repeat' with_reducible first | assumption | apply Steps.ite | apply State.setFault_steps
  try clear_value z5
  intro z6
  try dsimp -zeta -zetaHave only [z6]
  repeat' with_reducible first | assumption | apply State.setRoutes_steps | apply Steps.fab

theorem State.fabricForward_steps {mu : Part → Prop} (mout : mu .out) (mnet : mu .net) {org s : State} (ho : Steps mu org s) (link : ℕ) (f : List Sys2Proof.Byte) : Steps mu org (State.fabricForward s link f) := by
  unfold State.fabricForward
  lift_lets
  intro z0; try clear_value z0
  intro z1; try clear_value z1
  intro z2
  have hz2 : ∀ r t, Steps mu r t → Steps mu r (z2 t) := by
    dsimp only [z2]
    repeat' with_reducible first | assumption | intro _ | apply State.satInc_steps
  try clear_value z2
  intro z3
  try dsimp -zeta -zetaHave only [z3]
  repeat' with_reducible first | assumption | intro _ | apply Steps.foldl | apply Steps.ite | apply State.fabricPut_steps | apply State.fabDrop_steps | apply hz2 | split

theorem State.fabReckGo_steps {mu : Part → Prop} (mout : mu .out) (mfab : mu .fab) (mnet : mu .net) {org s : State} (ho : Steps mu org s) (dst : ℕ) : Steps mu org (State.fabReckGo s dst) := by
  unfold State.fabReckGo
  lift_lets
  intro z0
  have hz0 : Steps mu org z0 := by
    dsimp only [z0]
    repeat' with_reducible first | assumption | apply State.wr_steps
  try clear_value z0
  intro z1
  have hz1 : Steps mu org z1 := by
    dsimp only [z1]
    repeat' with_reducible first | assumption | apply State.wr_steps
  try clear_value z1
  intro z2
  try dsimp -zeta -zetaHave only [z2]
  repeat' with_reducible first | assumption | apply Steps.ite | apply State.wr_steps | apply State.fabricSend_steps | apply Steps.fab

theorem execFabReckGo_steps (agent : Sys2Proof.Agent) (dst : BitVec 8) (s : State) : Next (fun k => k ∈ [Part.out, Part.reck, Part.fab, Part.net]) s (execFabReckGo agent dst s) := by
  unfold execFabReckGo
  repeat' with_reducible first | assumption | intro _ | exact Steps.refl _ _ | apply Next.done | apply State.newWork_steps | apply State.fabReckGo_steps | decide

theorem execReckonRequestTimeout_steps (s : State) : Next (fun k => k ∈ [Part.out, Part.fab]) s (execReckonRequestTimeout s) := by
  unfold execReckonRequestTimeout
  lift_lets
  intro z0
  have hz0 : Steps (fun k => k ∈ [Part.out, Part.fab]) s z0 := by
    dsimp only [z0]
    repeat' with_reducible first | exact Steps.refl _ _ | apply State.wr_steps
  try clear_value z0
  intro z1
  try dsimp -zeta -zetaHave only [z1]
  repeat' with_reducible first | assumption | exact Steps.refl _ _ | apply Next.done | apply Next.ite | apply State.raise_steps | apply Steps.fab | decide

theorem State.markMirror_steps {mu : Part → Prop} {org s : State} (ho : Steps mu org s) (m : ℕ) : Steps mu org (State.markMirror s m) := by
  unfold State.markMirror
  repeat' with_reducible first | assumption | apply Steps.ite | apply State.wr_steps

theorem State.reckData_steps {mu : Part → Prop} (mout : mu .out) (mfab : mu .fab) {org s : State} (ho : Steps mu org s) (src : ℕ) (p : List Sys2Proof.Byte) : Steps mu org (State.reckData s src p) := by
  unfold State.reckData
  lift_lets
  intro z0
  try dsimp -zeta -zetaHave only [z0]
  intro z1
  have hz1 : Steps mu org z1 := by
    dsimp only [z1]
    repeat' with_reducible first | assumption | apply Steps.fab
  try clear_value z1
  repeat' with_reducible first | assumption | apply Steps.ite | apply State.fabDrop_steps | apply State.raise_steps | apply State.markMirror_steps

theorem State.fabShareGo_steps {mu : Part → Prop} (mout : mu .out) (mfab : mu .fab) (mnet : mu .net) {org s : State} (ho : Steps mu org s) (peer : ℕ) : Steps mu org (State.fabShareGo s peer) := by
  unfold State.fabShareGo
  lift_lets
  intro z0
  have hz0 : Steps mu org z0 := by
    dsimp only [z0]
    repeat' with_reducible first | assumption | apply State.wr_steps
  try clear_value z0
  intro z1
  try dsimp -zeta -zetaHave only [z1]
  intro z2
  have hz2 : Steps mu org z2 := by
    dsimp only [z2]
    repeat' with_reducible first | assumption | apply Steps.fab
  try clear_value z2
  repeat' with_reducible first | assumption | apply State.fabricSend_steps

theorem execFabShareGo_steps (agent : Sys2Proof.Agent) (peer : BitVec 8) (s : State) : Next (fun k => k ∈ [Part.out, Part.reck, Part.fab, Part.net]) s (execFabShareGo agent peer s) := by
  unfold execFabShareGo
  repeat' with_reducible first | assumption | intro _ | exact Steps.refl _ _ | apply Next.done | apply State.newWork_steps | apply State.fabShareGo_steps | decide

theorem State.shareAnswer_steps {mu : Part → Prop} (mout : mu .out) (mfab : mu .fab) (mnet : mu .net) {org s : State} (ho : Steps mu org s) (dst : ℕ) (code : ℕ) : Steps mu org (State.shareAnswer s dst code) := by
  unfold State.shareAnswer
  repeat' with_reducible first | assumption | apply State.fabricSend_steps

theorem State.shareReq_steps {mu : Part → Prop} (mout : mu .out) (mfab : mu .fab) (mnet : mu .net) {org s : State} (ho : Steps mu org s) (src : ℕ) (p : List Sys2Proof.Byte) : Steps mu org (State.shareReq s src p) := by
  unfold State.shareReq
  lift_lets
  intro z0; try clear_value z0
  intro z1
  have hz1 : Steps mu org z1 := by
    dsimp only [z1]
    repeat' with_reducible first | assumption | apply State.shareAnswer_steps
  try clear_value z1
  intro z2
  try dsimp -zeta -zetaHave only [z2]
  intro z3; try clear_value z3
  repeat' with_reducible first | assumption | apply Steps.ite | apply State.shareAnswer_steps | apply State.fabricSend_steps | split | apply Steps.fab

theorem State.endShare_steps {mu : Part → Prop} (mout : mu .out) (mfab : mu .fab) {org s : State} (ho : Steps mu org s) (peer : ℕ) : Steps mu org (State.endShare s peer) := by
  unfold State.endShare
  lift_lets
  intro z0
  try dsimp -zeta -zetaHave only [z0]
  repeat' with_reducible first | assumption | apply State.raise_steps | apply Steps.fab

theorem State.modShare_steps {mu : Part → Prop} (mfab : mu .fab) {org s : State} (ho : Steps mu org s) (peer : ℕ) (f : Share → Share) : Steps mu org (State.modShare s peer f) := by
  unfold State.modShare
  lift_lets
  intro z0
  try dsimp -zeta -zetaHave only [z0]
  repeat' with_reducible first | assumption | apply Steps.fab

theorem State.serve_steps {mu : Part → Prop} (mout : mu .out) (mfab : mu .fab) (mnet : mu .net) {org s : State} (ho : Steps mu org s) (peer : Nat) (l : Layout) (handle end_ n o : Nat) :
    Steps mu org (s.serve peer l handle end_ n o) := by
  induction n generalizing s o with
  | zero => exact State.modShare_steps mfab ho _ _
  | succ n ih =>
    exact Steps.ite (State.modShare_steps mfab ho _ _) (Steps.ite (State.shareAnswer_steps (by assumption) (by assumption) (by assumption) (State.endShare_steps (by assumption) (by assumption) ho _) _ _)
      (ih (State.fabricSend_steps (by assumption) (by assumption) (by assumption) ho _ _ _ _) _))

theorem State.shareCredit_steps {mu : Part → Prop} (mout : mu .out) (mfab : mu .fab) (mnet : mu .net) {org s : State} (ho : Steps mu org s) (peer : ℕ) (f : List Sys2Proof.Byte) : Steps mu org (State.shareCredit s peer f) := by
  unfold State.shareCredit
  lift_lets
  intro z0; try clear_value z0
  intro z1; try clear_value z1
  repeat' with_reducible first | assumption | apply Steps.ite | apply State.endShare_steps | apply State.serve_steps | apply State.modShare_steps | split

theorem State.lxportIn_steps {mu : Part → Prop} (mout : mu .out) (ming : mu .ing) (mfab : mu .fab) (mnet : mu .net) {org s : State} (ho : Steps mu org s) (link : ℕ) (src : ℕ) (p : List Sys2Proof.Byte) : Steps mu org (State.lxportIn s link src p) := by
  unfold State.lxportIn
  repeat' with_reducible first | assumption | apply Steps.ite | apply State.shareCredit_steps | apply State.xportFrame_steps

theorem State.shareRsp_steps {mu : Part → Prop} (mout : mu .out) (mfab : mu .fab) {org s : State} (ho : Steps mu org s) (src : ℕ) (p : List Sys2Proof.Byte) : Steps mu org (State.shareRsp s src p) := by
  unfold State.shareRsp
  lift_lets
  intro z0; try clear_value z0
  intro z1
  have hz1 : Steps mu org z1 := by
    dsimp only [z1]
    repeat' with_reducible first | assumption | apply State.wr_steps
  try clear_value z1
  intro z2
  try dsimp -zeta -zetaHave only [z2]
  intro z3
  have hz3 : Steps mu org z3 := by
    dsimp only [z3]
    repeat' with_reducible first | assumption | apply State.wr_steps
  try clear_value z3
  repeat' with_reducible first | assumption | apply Steps.ite | apply State.raise_steps | apply Steps.fab

theorem execShareAnswerTimeout_steps (s : State) : Next (fun k => k ∈ [Part.fab]) s (execShareAnswerTimeout s) := by
  unfold execShareAnswerTimeout
  lift_lets
  intro z0
  have hz0 : Steps (fun k => k ∈ [Part.fab]) s z0 := by
    dsimp only [z0]
    repeat' with_reducible first | exact Steps.refl _ _ | apply State.wr_steps
  try clear_value z0
  intro z1
  try dsimp -zeta -zetaHave only [z1]
  repeat' with_reducible first | assumption | exact Steps.refl _ _ | apply Next.done | split | apply Steps.fab | decide

theorem execShareCreditTimeout_steps (peer : BitVec 6) (s : State) : Next (fun k => k ∈ [Part.out, Part.fab]) s (execShareCreditTimeout peer s) := by
  unfold execShareCreditTimeout
  repeat' with_reducible first | exact Steps.refl _ _ | apply Next.done | apply State.endShare_steps | split | decide

theorem State.putSum_steps {mu : Part → Prop} (mhbm : mu .hbm) (mout : mu .out) (ming : mu .ing) (mfab : mu .fab) {org s : State} (ho : Steps mu org s) (e : StripeSum) : Steps mu org (State.putSum s e) := by
  unfold State.putSum
  lift_lets
  intro z0; try clear_value z0
  intro z1; try clear_value z1
  intro z2; try clear_value z2
  intro z3; try clear_value z3
  intro z4
  try dsimp -zeta -zetaHave only [z4]
  repeat' with_reducible first | assumption | apply Steps.ite | apply State.addStripe_steps | apply Steps.fab

theorem State.densIn_steps {mu : Part → Prop} (mhbm : mu .hbm) (mout : mu .out) (ming : mu .ing) (mfab : mu .fab) {org s : State} (ho : Steps mu org s) (src : ℕ) (p : List Sys2Proof.Byte) : Steps mu org (State.densIn s src p) := by
  unfold State.densIn
  lift_lets
  intro z0; try clear_value z0
  intro z1; try clear_value z1
  intro z2; try clear_value z2
  repeat' with_reducible first | assumption | apply Steps.ite | apply State.fabDrop_steps | apply State.putSum_steps

theorem State.densEndIn_steps {mu : Part → Prop} (mhbm : mu .hbm) (mout : mu .out) (ming : mu .ing) (mfab : mu .fab) {org s : State} (ho : Steps mu org s) (src : ℕ) (p : List Sys2Proof.Byte) : Steps mu org (State.densEndIn s src p) := by
  unfold State.densEndIn
  lift_lets
  intro z0; try clear_value z0
  intro z1; try clear_value z1
  repeat' with_reducible first | assumption | apply Steps.ite | apply State.fabDrop_steps | apply State.putSum_steps

theorem execDensNakTimer_steps (stripe : BitVec 16) (s : State) : Next (fun k => k ∈ [Part.out, Part.fab, Part.net]) s (execDensNakTimer stripe s) := by
  unfold execDensNakTimer
  repeat' with_reducible first | exact Steps.refl _ _ | apply Next.done | apply State.fabricSend_steps | split | decide

theorem State.densNakIn_steps {mu : Part → Prop} (mout : mu .out) (mfab : mu .fab) (mnet : mu .net) {org s : State} (ho : Steps mu org s) (p : List Sys2Proof.Byte) : Steps mu org (State.densNakIn s p) := by
  unfold State.densNakIn
  lift_lets
  intro z0; try clear_value z0
  repeat' with_reducible first | assumption | apply Steps.ite | apply State.fabDrop_steps | apply State.sendStripe_steps | split

theorem State.mapCrcIn_steps {mu : Part → Prop} (mout : mu .out) (mreck : mu .reck) (mfab : mu .fab) {org s : State} (ho : Steps mu org s) (p : List Sys2Proof.Byte) : Steps mu org (State.mapCrcIn s p) := by
  unfold State.mapCrcIn
  lift_lets
  intro z0; try clear_value z0
  intro z1
  try dsimp -zeta -zetaHave only [z1]
  intro z2
  have hz2 : Steps mu org z2 := by
    dsimp only [z2]
    repeat' with_reducible first | assumption | apply Steps.fab
  try clear_value z2
  repeat' with_reducible first | assumption | apply Steps.ite | apply State.fabDrop_steps | apply State.mapCrcCheck_steps | split

theorem execTreqSend_steps (t1 : BitVec 64) (s : State) : Next (fun k => k ∈ [Part.out, Part.fab, Part.net]) s (execTreqSend t1 s) := by
  unfold execTreqSend
  lift_lets
  intro z0
  try dsimp -zeta -zetaHave only [z0]
  repeat' with_reducible first | exact Steps.refl _ _ | apply Next.done | apply State.fabricSend_steps | split | apply Steps.fab | decide

theorem State.treqIn_steps {mu : Part → Prop} (mout : mu .out) (mfab : mu .fab) (mnet : mu .net) {org s : State} (ho : Steps mu org s) (src : ℕ) (t2 : ℕ) (t3 : ℕ) (p : List Sys2Proof.Byte) : Steps mu org (State.treqIn s src t2 t3 p) := by
  unfold State.treqIn
  repeat' with_reducible first | assumption | apply State.fabricSend_steps

theorem State.trspIn_steps {mu : Part → Prop} {org s : State} (ho : Steps mu org s) (t4 : ℕ) (p : List Sys2Proof.Byte) : Steps mu org (State.trspIn s t4 p) := by
  unfold State.trspIn
  lift_lets
  intro z0; try clear_value z0
  intro z1; try clear_value z1
  repeat' with_reducible first | assumption | apply Steps.ite | apply State.wr_steps

theorem State.groupShow_steps {mu : Part → Prop} {org s : State} (ho : Steps mu org s)  : Steps mu org (State.groupShow s) := by
  unfold State.groupShow
  lift_lets
  intro z0; try clear_value z0
  repeat' with_reducible first | assumption | apply State.wrs_steps

theorem State.groupStop_steps {mu : Part → Prop} (mout : mu .out) (mreck : mu .reck) (mmot : mu .mot) (mfab : mu .fab) (mnet : mu .net) {org s : State} (ho : Steps mu org s)  : Steps mu org (State.groupStop s) := by
  unfold State.groupStop
  repeat' with_reducible first | assumption | apply State.raise_steps | apply State.wr_steps | apply State.stopRequest_steps

theorem State.groupRelease_steps {mu : Part → Prop} (mmot : mu .mot) {org s : State} (ho : Steps mu org s)  : Steps mu org (State.groupRelease s) := by
  unfold State.groupRelease
  lift_lets
  intro z0
  have hz0 : Steps mu org z0 := by
    dsimp only [z0]
    repeat' with_reducible first | assumption | apply State.groupShow_steps
  try clear_value z0
  repeat' with_reducible first | assumption | apply Steps.ite | apply State.resume_steps | apply State.wr_steps

theorem State.putFollower_steps {mu : Part → Prop} (mfab : mu .fab) {org s : State} (ho : Steps mu org s) (f : Follower) : Steps mu org (State.putFollower s f) := by
  unfold State.putFollower
  lift_lets
  intro z0
  try dsimp -zeta -zetaHave only [z0]
  repeat' with_reducible first | assumption | apply Steps.fab

theorem State.groupTurn_steps {mu : Part → Prop} (mmot : mu .mot) (mpak : mu .pak) {org s : State} (ho : Steps mu org s)  : Steps mu org (State.groupTurn s) := by
  unfold State.groupTurn
  repeat' with_reducible first | assumption | apply Steps.ite | apply State.turnStep_steps

theorem State.fstatIn_steps {mu : Part → Prop} (mout : mu .out) (mreck : mu .reck) (mmot : mu .mot) (mpak : mu .pak) (mfab : mu .fab) (mnet : mu .net) {org s : State} (ho : Steps mu org s) (src : ℕ) (p : List Sys2Proof.Byte) : Steps mu org (State.fstatIn s src p) := by
  unfold State.fstatIn
  lift_lets
  intro z0; try clear_value z0
  intro z1; try clear_value z1
  intro z2
  have hz2 : Steps mu org z2 := by
    dsimp only [z2]
    repeat' with_reducible first | assumption | apply State.putFollower_steps
  try clear_value z2
  repeat' with_reducible first | assumption | apply Steps.ite | apply State.fabDrop_steps | apply State.groupTurn_steps | apply State.groupRelease_steps | apply State.groupStop_steps

theorem State.hreqIn_steps {mu : Part → Prop} (mout : mu .out) (mreck : mu .reck) (mmot : mu .mot) (mfab : mu .fab) (mnet : mu .net) {org s : State} (ho : Steps mu org s) (src : ℕ) (p : List Sys2Proof.Byte) : Steps mu org (State.hreqIn s src p) := by
  unfold State.hreqIn
  lift_lets
  intro z0; try clear_value z0
  repeat' with_reducible first | assumption | apply Steps.ite | apply State.fabDrop_steps | apply State.groupShow_steps | apply State.groupStop_steps | apply State.putFollower_steps

theorem State.planIn_steps {mu : Part → Prop} (mout : mu .out) (mreck : mu .reck) (mfab : mu .fab) {org s : State} (ho : Steps mu org s) (src : ℕ) (p : List Sys2Proof.Byte) : Steps mu org (State.planIn s src p) := by
  unfold State.planIn
  lift_lets
  intro z0; try clear_value z0
  intro z1; try clear_value z1
  intro z2; try clear_value z2
  intro z3; try clear_value z3
  intro z4; try clear_value z4
  intro z5; try clear_value z5
  intro z6; try clear_value z6
  intro z7; try clear_value z7
  intro z8; try clear_value z8
  intro z9; try clear_value z9
  intro z10; try clear_value z10
  repeat' with_reducible first | assumption | apply Steps.ite | apply State.fabDrop_steps | apply State.alignCheck_steps | apply State.putFollower_steps

theorem execMstatSend_steps (s : State) : Next (fun k => k ∈ [Part.out, Part.fab, Part.net]) s (execMstatSend s) := by
  unfold execMstatSend
  repeat' with_reducible first | exact Steps.refl _ _ | apply Next.done | apply State.fabricSend_steps | split | decide

theorem State.memberLost_steps {mu : Part → Prop} (mout : mu .out) (mreck : mu .reck) (mmot : mu .mot) (mfab : mu .fab) (mnet : mu .net) {org s : State} (ho : Steps mu org s) (a : ℕ) : Steps mu org (State.memberLost s a) := by
  unfold State.memberLost
  lift_lets
  intro z0; try clear_value z0
  repeat' with_reducible first | assumption | apply State.groupShow_steps | apply State.groupStop_steps | apply State.raise_steps | apply State.setFault_steps | apply State.putFollower_steps

theorem execMemberLost_steps (addr : BitVec 6) (s : State) : Next (fun k => k ∈ [Part.out, Part.reck, Part.mot, Part.fab, Part.net]) s (execMemberLost addr s) := by
  unfold execMemberLost
  repeat' with_reducible first | exact Steps.refl _ _ | apply Next.done | apply State.memberLost_steps | split | decide

theorem State.sendFstat_steps {mu : Part → Prop} (mout : mu .out) (mfab : mu .fab) (mnet : mu .net) {org s : State} (ho : Steps mu org s)  : Steps mu org (State.sendFstat s) := by
  unfold State.sendFstat
  repeat' with_reducible first | assumption | apply State.fabricSend_steps

theorem execFstatSend_steps (s : State) : Next (fun k => k ∈ [Part.out, Part.fab, Part.net]) s (execFstatSend s) := by
  unfold execFstatSend
  repeat' with_reducible first | exact Steps.refl _ _ | apply Next.done | apply State.sendFstat_steps | apply State.autoClear_steps | split | decide

theorem State.followerRest_steps {mu : Part → Prop} (mmot : mu .mot) (mled : mu .led) {org s : State} (ho : Steps mu org s)  : Steps mu org (State.followerRest s) := by
  unfold State.followerRest
  lift_lets
  intro z0
  have hz0 : Steps mu org z0 := by
    dsimp only [z0]
    repeat' with_reducible first | assumption | apply State.wr_steps
  try clear_value z0
  intro z1; try clear_value z1
  repeat' with_reducible first | assumption | apply Steps.ite | apply State.wr_steps | apply State.modMot_steps | apply State.modSeg_steps | split

theorem State.mstatIn_steps {mu : Part → Prop} (mfree : mu .free) (mout : mu .out) (mreck : mu .reck) (mmot : mu .mot) (ming : mu .ing) (malc : mu .alc) (mpak : mu .pak) (mfab : mu .fab) (mled : mu .led) {org s : State} (ho : Steps mu org s) (src : ℕ) (p : List Sys2Proof.Byte) : Steps mu org (State.mstatIn s src p) := by
  unfold State.mstatIn
  lift_lets
  intro z0; try clear_value z0
  intro z1; try clear_value z1
  intro z2
  have hz2 : Steps mu org z2 := by
    dsimp only [z2]
    repeat' with_reducible first | assumption | apply State.wr_steps
  try clear_value z2
  intro z3
  try dsimp -zeta -zetaHave only [z3]
  intro z4
  have hz4 : Steps mu org z4 := by
    dsimp only [z4]
    repeat' with_reducible first | assumption | apply Steps.fab
  try clear_value z4
  intro z5
  have hz5 : Steps mu org z5 := by
    dsimp only [z5]
    repeat' with_reducible first | assumption | apply State.wr_steps
  try clear_value z5
  repeat' with_reducible first | assumption | apply Steps.ite | apply State.fabDrop_steps | apply State.wr_steps | apply State.followerRest_steps | apply State.modMot_steps | apply State.abandon_steps

theorem execLeadLost_steps (s : State) : Next (fun k => k ∈ [Part.out, Part.reck, Part.mot, Part.fab, Part.net]) s (execLeadLost s) := by
  unfold execLeadLost
  lift_lets
  intro z0
  try dsimp -zeta -zetaHave only [z0]
  intro z1
  have hz1 : Steps (fun k => k ∈ [Part.out, Part.reck, Part.mot, Part.fab, Part.net]) s z1 := by
    dsimp only [z1]
    repeat' with_reducible first | exact Steps.refl _ _ | apply State.stopRequest_steps | apply State.raise_steps | apply State.setFault_steps | apply Steps.fab | decide
  try clear_value z1
  repeat' with_reducible first | assumption | exact Steps.refl _ _ | apply Next.done | apply Next.ite | apply State.wr_steps

theorem State.groupHold_steps {mu : Part → Prop} (mout : mu .out) (mreck : mu .reck) (mmot : mu .mot) (mfab : mu .fab) (mnet : mu .net) {org s : State} (ho : Steps mu org s)  : Steps mu org (State.groupHold s) := by
  unfold State.groupHold
  lift_lets
  intro z0
  try dsimp -zeta -zetaHave only [z0]
  intro z1
  have hz1 : Steps mu org z1 := by
    dsimp only [z1]
    repeat' with_reducible first | assumption | apply Steps.fab
  try clear_value z1
  repeat' with_reducible first | assumption | apply Steps.ite | apply State.groupShow_steps | apply State.groupStop_steps | apply State.sendFstat_steps

theorem State.groupGo_steps {mu : Part → Prop} (mout : mu .out) (mmot : mu .mot) (mfab : mu .fab) (mnet : mu .net) {org s : State} (ho : Steps mu org s)  : Steps mu org (State.groupGo s) := by
  unfold State.groupGo
  lift_lets
  intro z0
  try dsimp -zeta -zetaHave only [z0]
  intro z1
  have hz1 : Steps mu org z1 := by
    dsimp only [z1]
    repeat' with_reducible first | assumption | apply Steps.fab
  try clear_value z1
  repeat' with_reducible first | assumption | apply Steps.ite | apply State.groupRelease_steps | apply State.sendFstat_steps | apply State.resume_steps

theorem execFabMotStop_steps (agent : Sys2Proof.Agent) (s : State) : Next (fun k => k ∈ [Part.out, Part.reck, Part.mot, Part.fab, Part.net]) s (execFabMotStop agent s) := by
  unfold execFabMotStop
  repeat' with_reducible first | assumption | intro _ | exact Steps.refl _ _ | apply Next.done | apply State.newWork_steps | apply State.groupHold_steps | decide

theorem execFabMotGo_steps (agent : Sys2Proof.Agent) (s : State) : Next (fun k => k ∈ [Part.out, Part.reck, Part.mot, Part.fab, Part.net]) s (execFabMotGo agent s) := by
  unfold execFabMotGo
  repeat' with_reducible first | assumption | intro _ | exact Steps.refl _ _ | apply Next.done | apply State.newWork_steps | apply State.groupGo_steps | decide

theorem execMembershipSettled_steps (s : State) : Next (fun k => k ∈ [Part.out, Part.reck, Part.mot, Part.fab, Part.net]) s (execMembershipSettled s) := by
  unfold execMembershipSettled
  lift_lets
  intro z0
  have hz0 : Steps (fun k => k ∈ [Part.out, Part.reck, Part.mot, Part.fab, Part.net]) s z0 := by
    dsimp only [z0]
    repeat' with_reducible first | exact Steps.refl _ _ | apply State.settleMembers_steps | decide
  try clear_value z0
  intro z1
  try dsimp -zeta -zetaHave only [z1]
  repeat' with_reducible first | assumption | intro _ | exact Steps.refl _ _ | apply Steps.foldl | apply Next.done | apply Next.ite | apply State.memberLost_steps | decide

theorem State.setChk_steps {mu : Part → Prop} (mchk : mu .chk) {org s : State} (ho : Steps mu org s) (n : ℕ) (u : Chk) : Steps mu org (State.setChk s n u) := by
  unfold State.setChk
  repeat' with_reducible first | assumption | (intro (hh : chkShaped _); first | (simpa [chkShaped, setAt, modAt] using hh; done) | (simp [chkShaped, setAt, modAt] at hh ⊢; omega)) | apply Steps.chk

theorem State.setChkRun_steps {mu : Part → Prop} {org s : State} (ho : Steps mu org s) (n : ℕ) (v : ℕ) : Steps mu org (State.setChkRun s n v) := by
  unfold State.setChkRun
  repeat' with_reducible first | assumption | apply State.wr64_steps

theorem State.chkShow_steps {mu : Part → Prop} {org s : State} (ho : Steps mu org s) (n : ℕ) : Steps mu org (State.chkShow s n) := by
  unfold State.chkShow
  lift_lets
  intro z0; try clear_value z0
  repeat' with_reducible first | assumption | apply State.setRunning_steps | apply State.wr_steps | apply State.wr64_steps

theorem State.chkQueue_steps {mu : Part → Prop} (mout : mu .out) (mchk : mu .chk) {org s : State} (ho : Steps mu org s) (n : ℕ) (ag : Sys2Proof.Agent) (e : ChkEntry) : Steps mu org (State.chkQueue s n ag e) := by
  unfold State.chkQueue
  lift_lets
  intro z0; try clear_value z0
  repeat' with_reducible first | assumption | apply Steps.ite | apply State.chkShow_steps | apply State.setChk_steps | apply State.raise_steps

theorem State.chkHoldLo_steps {mu : Part → Prop} (mout : mu .out) (mchk : mu .chk) {org s : State} (ho : Steps mu org s) (n : ℕ) (ag : Sys2Proof.Agent) (off : ℕ) (v : ℕ) : Steps mu org (State.chkHoldLo s n ag off v) := by
  unfold State.chkHoldLo
  lift_lets
  intro z0; try clear_value z0
  repeat' with_reducible first | assumption | apply Steps.ite | apply State.setChk_steps | apply State.raise_steps

theorem State.chkPair_steps {mu : Part → Prop} (mout : mu .out) (mchk : mu .chk) {org s : State} (ho : Steps mu org s) (n : ℕ) (ag : Sys2Proof.Agent) (off : ℕ) (v : ℕ) : Steps mu org (State.chkPair s n ag off v) := by
  unfold State.chkPair
  lift_lets
  intro z0; try clear_value z0
  intro z1; try clear_value z1
  repeat' with_reducible first | assumption | apply Steps.ite | apply State.chkQueue_steps | apply State.setChk_steps | apply State.raise_steps

theorem State.chkStart_steps {mu : Part → Prop} {org s : State} (ho : Steps mu org s) (n : ℕ) : Steps mu org (State.chkStart s n) := by
  unfold State.chkStart
  repeat' with_reducible first | assumption | apply State.wrs_steps | apply State.setChkRun_steps

theorem State.chkPreset_steps {mu : Part → Prop} {org s : State} (ho : Steps mu org s) (n : ℕ) (set : ℕ) : Steps mu org (State.chkPreset s n set) := by
  unfold State.chkPreset
  lift_lets
  intro z0; try clear_value z0
  repeat' with_reducible first | assumption | apply State.chkStart_steps | apply State.wrs_steps | apply State.wr64_steps

theorem State.chkCompare_steps {mu : Part → Prop} (mout : mu .out) {org s : State} (ho : Steps mu org s) (n : ℕ) : Steps mu org (State.chkCompare s n) := by
  unfold State.chkCompare
  lift_lets
  intro z0; try clear_value z0
  intro z1; try clear_value z1
  repeat' with_reducible first | assumption | apply Steps.ite | apply State.wrs_steps | apply State.raise_steps

theorem State.chkFeed_steps {mu : Part → Prop} (mout : mu .out) (mreck : mu .reck) {org s : State} (ho : Steps mu org s) (n : ℕ) (l : List Sys2Proof.Byte) : Steps mu org (State.chkFeed s n l) := by
  unfold State.chkFeed
  lift_lets
  intro z0
  have hz0 : Steps mu org z0 := by
    dsimp only [z0]
    repeat' with_reducible first | assumption | apply State.setChkRun_steps
  try clear_value z0
  intro z1
  have hz1 : Steps mu org z1 := by
    dsimp only [z1]
    repeat' with_reducible first | assumption | apply State.wr_steps
  try clear_value z1
  repeat' with_reducible first | assumption | apply Steps.ite | apply State.wr_steps | apply State.setFault_steps

theorem State.chkCtrl_steps {mu : Part → Prop} (mout : mu .out) {org s : State} (ho : Steps mu org s) (n : ℕ) (v : ℕ) : Steps mu org (State.chkCtrl s n v) := by
  unfold State.chkCtrl
  lift_lets
  intro z0
  have hz0 : Steps mu org z0 := by
    dsimp only [z0]
    repeat' with_reducible first | assumption | apply State.wr_steps
  try clear_value z0
  intro z1
  have hz1 : Steps mu org z1 := by
    dsimp only [z1]
    repeat' with_reducible first | assumption | apply Steps.ite | apply State.chkPreset_steps | apply State.chkStart_steps
  try clear_value z1
  repeat' with_reducible first | assumption | apply Steps.ite | apply State.raise_steps | apply State.chkCompare_steps

theorem State.chkPairApply_steps {mu : Part → Prop} (mout : mu .out) {org s : State} (ho : Steps mu org s) (n : ℕ) (off : ℕ) (lo : Option ℕ) (hi : ℕ) : Steps mu org (State.chkPairApply s n off lo hi) := by
  unfold State.chkPairApply
  repeat' with_reducible first | assumption | apply Steps.ite | apply State.raise_steps | apply State.raiseIf_steps | apply State.wr64_steps | apply State.wr_steps | split

theorem State.chkCut_steps {mu : Part → Prop} {org s : State} (ho : Steps mu org s) (w : ℕ) (p : Fld × Fld) : Steps mu org (State.chkCut s w p) := by
  unfold State.chkCut
  repeat' with_reducible first | assumption | apply State.wr64_steps

theorem State.chkCfg_steps {mu : Part → Prop} (mout : mu .out) {org s : State} (ho : Steps mu org s) (n : ℕ) (v : ℕ) : Steps mu org (State.chkCfg s n v) := by
  unfold State.chkCfg
  lift_lets
  intro z0; try clear_value z0
  intro z1
  have hz1 : Steps mu org z1 := by
    dsimp only [z1]
    repeat' with_reducible first | assumption | apply State.wr_steps
  try clear_value z1
  intro z2
  have hz2 : Steps mu org z2 := by
    dsimp only [z2]
    repeat' with_reducible first | assumption | apply State.wrs_steps
  try clear_value z2
  repeat' with_reducible first | assumption | intro _ | apply Steps.foldl | apply Steps.ite | apply State.raise_steps | apply State.raiseIf_steps | apply State.chkCut_steps

theorem State.chkAlive_steps {mu : Part → Prop} (mout : mu .out) (mreck : mu .reck) {org s : State} (ho : Steps mu org s) (n : ℕ) (v : ℕ) : Steps mu org (State.chkAlive s n v) := by
  unfold State.chkAlive
  lift_lets
  intro z0; try clear_value z0
  intro z1; try clear_value z1
  intro z2; try clear_value z2
  intro z3; try clear_value z3
  intro z4
  have hz4 : ∀ r t, Steps mu r t → Steps mu r (z4 t) := by
    dsimp only [z4]
    repeat' with_reducible first | assumption | intro _ | apply Steps.ite | apply State.chkFeed_steps
  try clear_value z4
  repeat' with_reducible first | assumption | apply Steps.ite | apply State.raise_steps | apply State.wrs_steps | apply State.wr_steps | apply State.satInc_steps | apply hz4

theorem State.chkReg_steps {mu : Part → Prop} (mout : mu .out) (mreck : mu .reck) {org s : State} (ho : Steps mu org s) (n : ℕ) (off : ℕ) (v : ℕ) : Steps mu org (State.chkReg s n off v) := by
  unfold State.chkReg
  repeat' with_reducible first | assumption | apply State.chkCfg_steps | apply State.wrs_steps | apply State.chkAlive_steps | split

theorem State.chkApply_steps {mu : Part → Prop} (mout : mu .out) (mreck : mu .reck) {org s : State} (ho : Steps mu org s) (n : ℕ) (x2 : ChkEntry) : Steps mu org (State.chkApply s n x2) := by
  unfold State.chkApply
  repeat' with_reducible first | assumption | apply State.chkFeed_steps | apply State.chkCtrl_steps | apply State.chkReg_steps | apply State.chkPairApply_steps | apply State.wr_steps | split

theorem State.chkTake_steps {mu : Part → Prop} (mout : mu .out) (mreck : mu .reck) (mchk : mu .chk) {org s : State} (ho : Steps mu org s) (n : ℕ) : Steps mu org (State.chkTake s n) := by
  unfold State.chkTake
  lift_lets
  intro z0; try clear_value z0
  repeat' with_reducible first | assumption | apply State.chkShow_steps | apply State.chkApply_steps | apply State.setChk_steps | split

theorem State.chkWrite_steps {mu : Part → Prop} (mout : mu .out) (mchk : mu .chk) {org s : State} (ho : Steps mu org s) (n : ℕ) (ag : Sys2Proof.Agent) (off : ℕ) (v : ℕ) : Steps mu org (State.chkWrite s n ag off v) := by
  unfold State.chkWrite
  lift_lets
  intro z0; try clear_value z0
  repeat' with_reducible first | assumption | apply Steps.ite | apply State.chkQueue_steps | apply State.chkShow_steps | apply State.setChk_steps | apply State.raise_steps | apply State.chkHoldLo_steps | apply State.chkPair_steps

theorem execFeedB_steps (n : ℕ) (agent : Sys2Proof.Agent) (value : Sys2Proof.Word) (s : State) : Next (fun k => k ∈ [Part.out, Part.chk]) s (execFeedB n agent value s) := by
  unfold execFeedB
  repeat' with_reducible first | exact Steps.refl _ _ | apply Next.done | apply State.chkWrite_steps | split | decide

theorem execFeedH_steps (n : ℕ) (agent : Sys2Proof.Agent) (value : Sys2Proof.Word) (s : State) : Next (fun k => k ∈ [Part.out, Part.chk]) s (execFeedH n agent value s) := by
  unfold execFeedH
  repeat' with_reducible first | exact Steps.refl _ _ | apply Next.done | apply State.chkWrite_steps | split | decide

theorem execFeedW_steps (n : ℕ) (agent : Sys2Proof.Agent) (value : Sys2Proof.Word) (s : State) : Next (fun k => k ∈ [Part.out, Part.chk]) s (execFeedW n agent value s) := by
  unfold execFeedW
  repeat' with_reducible first | exact Steps.refl _ _ | apply Next.done | apply State.chkWrite_steps | split | decide

theorem execChkQueueEntryTaken_steps (n : ℕ) (s : State) : Next (fun k => k ∈ [Part.out, Part.reck, Part.chk]) s (execChkQueueEntryTaken n s) := by
  unfold execChkQueueEntryTaken
  repeat' with_reducible first | exact Steps.refl _ _ | apply Next.done | apply State.chkTake_steps | decide

theorem execChkStart_steps (n : ℕ) (agent : Sys2Proof.Agent) (set : BitVec 3) (s : State) : Next (fun k => k ∈ [Part.out, Part.chk]) s (execChkStart n agent set s) := by
  unfold execChkStart
  repeat' with_reducible first | exact Steps.refl _ _ | apply Next.done | apply State.chkWrite_steps | split | decide

theorem execPreset_steps (n : ℕ) (agent : Sys2Proof.Agent) (set : BitVec 3) (s : State) : Next (fun k => k ∈ [Part.out, Part.chk]) s (execPreset n agent set s) := by
  unfold execPreset
  repeat' with_reducible first | exact Steps.refl _ _ | apply Next.done | apply State.chkWrite_steps | split | decide

theorem execCmpGo_steps (n : ℕ) (agent : Sys2Proof.Agent) (set : BitVec 3) (s : State) : Next (fun k => k ∈ [Part.out, Part.chk]) s (execCmpGo n agent set s) := by
  unfold execCmpGo
  repeat' with_reducible first | exact Steps.refl _ _ | apply Next.done | apply State.chkWrite_steps | split | decide

theorem execRunWrite_steps (n : ℕ) (agent : Sys2Proof.Agent) (high : Bool) (value : Sys2Proof.Word) (s : State) : Next (fun k => k ∈ [Part.out, Part.chk]) s (execRunWrite n agent high value s) := by
  unfold execRunWrite
  repeat' with_reducible first | exact Steps.refl _ _ | apply Next.done | apply State.chkWrite_steps | split | decide

theorem execAlive_steps (n : ℕ) (agent : Sys2Proof.Agent) (value : Sys2Proof.Word) (s : State) : Next (fun k => k ∈ [Part.out, Part.chk]) s (execAlive n agent value s) := by
  unfold execAlive
  repeat' with_reducible first | exact Steps.refl _ _ | apply Next.done | apply State.chkWrite_steps | split | decide

end Sys2Proof.Machine
end

