-- ==== Sys2Proof/Laws/StepsReset.lean ====
section
/-!
SUPPORT. What each operation and each meaning of resets, power and the innkeeper can change.
-/
set_option linter.all false
open Sys2Proof (Agent)

namespace Sys2Proof.Machine

theorem State.islandBit_steps {mu : Part → Prop} {org s : State} (ho : Steps mu org s) (lo : Fld) (hi : Fld) (i : ℕ) (v : Bool) : Steps mu org (State.islandBit s lo hi i v) := by
  unfold State.islandBit
  lift_lets
  intro z0; try clear_value z0
  repeat' with_reducible first | assumption | apply State.wr_steps

theorem State.setLock_steps {mu : Part → Prop} {org s : State} (ho : Steps mu org s) (i : ℕ) (v : Bool) : Steps mu org (State.setLock s i v) := by
  unfold State.setLock
  repeat' with_reducible first | assumption | apply State.islandBit_steps

theorem State.setTmo_steps {mu : Part → Prop} {org s : State} (ho : Steps mu org s) (i : ℕ) (v : Bool) : Steps mu org (State.setTmo s i v) := by
  unfold State.setTmo
  repeat' with_reducible first | assumption | apply State.islandBit_steps

theorem State.clearPage_steps {mu : Part → Prop} {org s : State} (ho : Steps mu org s) (p : Page) : Steps mu org (State.clearPage s p) := by
  unfold State.clearPage
  repeat' with_reducible first | assumption | intro _ | apply Steps.regsOf | apply FieldStore.wf_clear

theorem State.clearKeeping_steps {mu : Part → Prop} {org s : State} (ho : Steps mu org s) (p : Page) (keep : List Fld) : Steps mu org (State.clearKeeping s p keep) := by
  unfold State.clearKeeping
  repeat' with_reducible first | assumption | apply State.wrs_steps | apply State.clearPage_steps

theorem State.resetIng_steps {mu : Part → Prop} (mout : mu .out) (ming : mu .ing) (mfab : mu .fab) {org s : State} (ho : Steps mu org s)  : Steps mu org (State.resetIng s) := by
  unfold State.resetIng
  lift_lets
  intro z0
  have hz0 : Steps mu org z0 := by
    dsimp only [z0]
    repeat' with_reducible first | assumption | apply State.endRepair_steps | split
  try clear_value z0
  intro z1
  have hz1 : Steps mu org z1 := by
    dsimp only [z1]
    repeat' with_reducible first | assumption | apply State.endDelivery_steps | split
  try clear_value z1
  repeat' with_reducible first | assumption | apply State.clearKeeping_steps

theorem State.resetExp_steps {mu : Part → Prop} (ming : mu .ing) {org s : State} (ho : Steps mu org s) (n : ℕ) : Steps mu org (State.resetExp s n) := by
  unfold State.resetExp
  lift_lets
  intro z0
  try dsimp -zeta -zetaHave only [z0]
  repeat' with_reducible first | assumption | (intro (hh : Ing.shaped _); first | (simpa [Ing.shaped, setAt, modAt] using hh; done) | (simp [Ing.shaped, setAt, modAt] at hh ⊢; omega)) | apply State.clearPage_steps | apply Steps.ing

theorem State.srvDropped_steps {mu : Part → Prop} (mhbm : mu .hbm) (mout : mu .out) (ming : mu .ing) (mled : mu .led) {org s : State} (ho : Steps mu org s)  : Steps mu org (State.srvDropped s) := by
  unfold State.srvDropped
  repeat' with_reducible first | assumption | apply Steps.ite | apply State.modSrv_steps | apply State.srvAborted_steps

theorem State.resetCor_steps {mu : Part → Prop} (mhbm : mu .hbm) (mout : mu .out) (ming : mu .ing) (mled : mu .led) {org s : State} (ho : Steps mu org s)  : Steps mu org (State.resetCor s) := by
  unfold State.resetCor
  lift_lets
  intro z0
  have hz0 : Steps mu org z0 := by
    dsimp only [z0]
    repeat' with_reducible first | assumption | apply State.modSrv_steps | apply State.srvDropped_steps
  try clear_value z0
  repeat' with_reducible first | assumption | intro _ | apply Steps.regsOf | apply FieldStore.wf_clear

theorem State.resetSrv_steps {mu : Part → Prop} (mhbm : mu .hbm) (mout : mu .out) (ming : mu .ing) (mled : mu .led) {org s : State} (ho : Steps mu org s)  : Steps mu org (State.resetSrv s) := by
  unfold State.resetSrv
  lift_lets
  intro z0
  have hz0 : Steps mu org z0 := by
    dsimp only [z0]
    repeat' with_reducible first | assumption | apply State.srvDropped_steps
  try clear_value z0
  repeat' with_reducible first | assumption | intro _ | apply Steps.regsOf | apply FieldStore.wf_clear

theorem State.resetRas_steps {mu : Part → Prop} (mout : mu .out) (mreck : mu .reck) (ming : mu .ing) (mled : mu .led) {org s : State} (ho : Steps mu org s) (e : ℕ) : Steps mu org (State.resetRas s e) := by
  unfold State.resetRas
  lift_lets
  intro z0; try clear_value z0
  intro z1
  have hz1 : Steps mu org z1 := by
    dsimp only [z1]
    repeat' with_reducible first | assumption | apply Steps.ite | apply State.reform_steps | apply State.setRole_steps | apply State.dropVoter_steps
  try clear_value z1
  repeat' with_reducible first | assumption | apply State.cmpShow_steps | apply State.clearPage_steps | apply State.modRas_steps

theorem State.resetCmp_steps {mu : Part → Prop} (mout : mu .out) (ming : mu .ing) {org s : State} (ho : Steps mu org s)  : Steps mu org (State.resetCmp s) := by
  unfold State.resetCmp
  repeat' with_reducible first | assumption | intro _ | apply Steps.foldl | apply Steps.ite | apply State.setRole_steps | apply State.clearPage_steps | apply State.cmpReset_steps

theorem State.resetAlc_steps {mu : Part → Prop} (mout : mu .out) (mreck : mu .reck) (mmot : mu .mot) (malc : mu .alc) (mfab : mu .fab) (mnet : mu .net) {org s : State} (ho : Steps mu org s)  : Steps mu org (State.resetAlc s) := by
  unfold State.resetAlc
  lift_lets
  intro z0
  have hz0 : Steps mu org z0 := by
    dsimp only [z0]
    repeat' with_reducible first | assumption | apply Steps.ite | apply State.stopRequest_steps
  try clear_value z0
  intro z1
  have hz1 : Steps mu org z1 := by
    dsimp only [z1]
    repeat' with_reducible first | assumption | apply State.clearKeeping_steps
  try clear_value z1
  repeat' with_reducible first | assumption | apply State.bankShow_steps | apply Steps.alc

theorem State.resetPak_steps {mu : Part → Prop} (mout : mu .out) (mmot : mu .mot) (mpak : mu .pak) {org s : State} (ho : Steps mu org s)  : Steps mu org (State.resetPak s) := by
  unfold State.resetPak
  lift_lets
  intro z0
  have hz0 : Steps mu org z0 := by
    dsimp only [z0]
    repeat' with_reducible first | assumption | (intro (hh : Pak.shaped _); first | (simpa [Pak.shaped, setAt, modAt] using hh; done) | (simp [Pak.shaped, setAt, modAt] at hh ⊢; omega)) | intro _ | apply State.modPak_steps | apply State.linkDown_steps
  try clear_value z0
  repeat' with_reducible first | assumption | apply State.calShow_steps | apply State.clearPage_steps

theorem State.resetQlk_steps {mu : Part → Prop} (mout : mu .out) (mreck : mu .reck) (mpak : mu .pak) {org s : State} (ho : Steps mu org s) (n : ℕ) : Steps mu org (State.resetQlk s n) := by
  unfold State.resetQlk
  lift_lets
  intro z0
  have hz0 : Steps mu org z0 := by
    dsimp only [z0]
    repeat' with_reducible first | assumption | apply Steps.ite | apply State.failLane_steps
  try clear_value z0
  repeat' with_reducible first | assumption | apply State.countShow_steps | apply State.clearPage_steps | apply State.modLane_steps

theorem State.resetAry_steps {mu : Part → Prop} (mmot : mu .mot) (mary : mu .ary) {org s : State} (ho : Steps mu org s)  : Steps mu org (State.resetAry s) := by
  unfold State.resetAry
  repeat' with_reducible first | assumption | apply State.clearPage_steps | apply State.gapRelease_steps | apply Steps.ary

theorem State.resetMot_steps {mu : Part → Prop} (mmot : mu .mot) (mpak : mu .pak) {org s : State} (ho : Steps mu org s)  : Steps mu org (State.resetMot s) := by
  unfold State.resetMot
  repeat' with_reducible first | assumption | (intro (hh : Pak.shaped _); first | (simpa [Pak.shaped, setAt, modAt] using hh; done) | (simp [Pak.shaped, setAt, modAt] at hh ⊢; omega)) | intro _ | apply State.clearPage_steps | apply State.modPak_steps | apply State.modMot_steps

theorem State.mapSettled_steps {mu : Part → Prop} {org s : State} (ho : Steps mu org s)  : Steps mu org (State.mapSettled s) := by
  unfold State.mapSettled
  repeat' with_reducible first | assumption | intro _ | apply Steps.foldl | apply Steps.ite | apply State.wr_steps

theorem State.memForget_steps {mu : Part → Prop} (mhbm : mu .hbm) (mmem : mu .mem) {org s : State} (ho : Steps mu org s) : Steps mu org s.memForget :=
  Steps.updAll ho id (fun _ => rfl) (.inl mhbm) (.inr rfl) (.inr rfl) (.inr rfl) (.inr rfl) (.inr rfl) (.inr rfl) (.inr rfl)
    (.inr rfl) (.inl mmem) (.inr rfl) (.inr rfl) (.inr rfl) (.inr rfl) (.inr rfl) (.inr rfl) (.inr rfl) id id (fun _ => rfl) id id id id

theorem State.resetMem_steps {mu : Part → Prop} (mhbm : mu .hbm) (mmem : mu .mem) {org s : State} (ho : Steps mu org s)  : Steps mu org (State.resetMem s) := by
  unfold State.resetMem
  lift_lets
  intro z0
  have hz0 : Steps mu org z0 := by
    dsimp only [z0]
    repeat' with_reducible first | assumption | intro _ | apply Steps.foldl | apply State.clearPage_steps
  try clear_value z0
  intro z1
  have hz1 : Steps mu org z1 := by
    dsimp only [z1]
    repeat' with_reducible first | assumption | apply State.memForget_steps | apply State.mapSettled_steps | apply State.wrs_steps
  try clear_value z1
  repeat' with_reducible first | assumption | (intro (hh : MemCtl.shaped _); first | (simpa [MemCtl.shaped, setAt, modAt] using hh; done) | (simp [MemCtl.shaped, setAt, modAt] at hh ⊢; omega)) | intro _ | apply Steps.foldl | apply State.modMem_steps | apply State.spareShow_steps

theorem State.resetDma_steps {mu : Part → Prop} (mout : mu .out) (mdma : mu .dma) {org s : State} (ho : Steps mu org s) (n : ℕ) : Steps mu org (State.resetDma s n) := by
  unfold State.resetDma
  repeat' with_reducible first | assumption | apply State.clearPage_steps | apply State.modChan_steps | apply State.dmaPageStops_steps

theorem State.resetHst_steps {mu : Part → Prop} {org s : State} (ho : Steps mu org s)  : Steps mu org (State.resetHst s) := by
  unfold State.resetHst
  repeat' with_reducible first | assumption | intro _ | apply Steps.regsOf | apply FieldStore.wf_clear

theorem State.resetBlock_steps {mu : Part → Prop} (mhbm : mu .hbm) (mout : mu .out) (mreck : mu .reck) (mmot : mu .mot) (ming : mu .ing) (malc : mu .alc) (mpak : mu .pak) (mary : mu .ary) (mfab : mu .fab) (mmem : mu .mem) (mled : mu .led) (mdma : mu .dma) (mtim : mu .tim) (mnet : mu .net) (mchk : mu .chk) {org s : State} (ho : Steps mu org s) (p : Page) : Steps mu org (State.resetBlock s p) := by
  unfold State.resetBlock
  lift_lets
  intro z0
  have hz0 : Steps mu org z0 := by
    dsimp only [z0]
    repeat' with_reducible first | assumption | apply State.clearPage_steps
  try clear_value z0
  repeat' with_reducible first | assumption | apply State.clearPage_steps | apply State.clearKeeping_steps | apply State.fabShow_steps | apply State.modNet_steps | apply State.resetHst_steps | apply State.resetIng_steps | apply State.resetExp_steps | apply State.resetSrv_steps | apply State.resetCor_steps | apply State.resetRas_steps | apply State.resetCmp_steps | apply State.resetAlc_steps | apply State.resetPak_steps | apply State.resetQlk_steps | apply State.resetAry_steps | apply State.resetMot_steps | apply State.resetMem_steps | apply State.resetDma_steps | apply State.setChk_steps | apply State.ledReset_steps | split | apply Steps.reck | apply Steps.fab | apply Steps.tim

theorem State.resetPage_steps {mu : Part → Prop} (mhbm : mu .hbm) (mout : mu .out) (mpins : mu .pins) (mreck : mu .reck) (mmot : mu .mot) (ming : mu .ing) (malc : mu .alc) (mpak : mu .pak) (mary : mu .ary) (mfab : mu .fab) (mmem : mu .mem) (mled : mu .led) (mdma : mu .dma) (mtim : mu .tim) (mnet : mu .net) (mchk : mu .chk) {org s : State} (ho : Steps mu org s) (p : Page) : Steps mu org (State.resetPage s p) := by
  unfold State.resetPage
  repeat' with_reducible first | assumption | apply Steps.ite | apply State.resetBlock_steps | apply State.raise_steps | apply State.openSwitch_steps

theorem State.resetIsland_steps {mu : Part → Prop} (mhbm : mu .hbm) (mout : mu .out) (mpins : mu .pins) (mreck : mu .reck) (mmot : mu .mot) (ming : mu .ing) (malc : mu .alc) (mpak : mu .pak) (mary : mu .ary) (mfab : mu .fab) (mmem : mu .mem) (mled : mu .led) (mdma : mu .dma) (mtim : mu .tim) (mnet : mu .net) (mchk : mu .chk) {org s : State} (ho : Steps mu org s) (i : ℕ) : Steps mu org (State.resetIsland s i) := by
  unfold State.resetIsland
  repeat' with_reducible first | assumption | intro _ | apply Steps.foldl | apply Steps.ite | apply State.resetPage_steps | apply State.setLock_steps

theorem State.resetWide_steps {mu : Part → Prop} (mhbm : mu .hbm) (mreck : mu .reck) (mmot : mu .mot) (ming : mu .ing) (malc : mu .alc) (mpak : mu .pak) (mary : mu .ary) (mfab : mu .fab) (mmem : mu .mem) (mled : mu .led) (mdma : mu .dma) (mtim : mu .tim) (mnet : mu .net) (mchk : mu .chk) {org s : State} (ho : Steps mu org s) : Steps mu org s.resetWide := by
  unfold State.resetWide
  refine Steps.foldl (fun _ _ _ h => State.spareShow_steps h _) (State.memForget_steps mhbm mmem (State.mapSettled_steps ?_))
  refine Steps.upd (State.wrs_steps (Steps.regsOf ho (FieldStore.wf_clear _)) _) (.inr rfl) (.inl mreck) (.inl mmot) (.inl ming) (.inl malc) (.inl mpak)
    (.inl mary) (.inl mfab) (.inr rfl) (.inl mled) (.inl mdma) (.inl mtim) (.inl mnet) (.inr rfl) (.inl mchk) (.inr rfl)
    (fun _ => ⟨List.length_replicate, List.length_replicate, List.length_replicate⟩) (fun h => ?_) id (fun h => ?_) (fun _ => rfl) id (fun _ => List.length_replicate)
  · have h : s.pak.shaped := by simpa using h
    refine ⟨List.length_replicate, List.length_replicate, List.length_replicate, ?_⟩
    have := h.2.2.2
    simp; omega
  · simpa [Dma.shaped] using h

theorem State.startPage_steps {mu : Part → Prop} (mfree : mu .free) (mout : mu .out) (mreck : mu .reck) (ming : mu .ing) (malc : mu .alc) (mpak : mu .pak) (mmem : mu .mem) (mled : mu .led) {org s : State} (ho : Steps mu org s) (p : Page) : Steps mu org (State.startPage s p) := by
  unfold State.startPage
  repeat' with_reducible first | assumption | apply State.setRunning_steps | apply State.fabShow_steps | apply State.ingShow_steps | apply State.armShow_steps | apply State.nextRepair_steps | apply State.srvShow_steps | apply State.joinPool_steps | apply State.formPairs_steps | apply State.linkFollow_steps | apply State.aryShow_steps | apply State.memStart_steps | apply State.chkShow_steps | apply State.ledStart_steps | split

theorem State.applyQuiesce_steps {mu : Part → Prop} {org s : State} (ho : Steps mu org s) (p : Page) : Steps mu org (State.applyQuiesce s p) := by
  unfold State.applyQuiesce
  repeat' with_reducible first | assumption | apply Steps.ite | apply State.wr_steps

theorem State.enterIdle_steps {mu : Part → Prop} (mfree : mu .free) (mout : mu .out) (mreck : mu .reck) (ming : mu .ing) (malc : mu .alc) (mpak : mu .pak) (mmem : mu .mem) (mled : mu .led) {org s : State} (ho : Steps mu org s) (p : Page) : Steps mu org (State.enterIdle s p) := by
  unfold State.enterIdle
  repeat' with_reducible first | assumption | apply State.applyQuiesce_steps | apply State.startPage_steps | apply State.wr_steps

theorem State.comeUp_steps {mu : Part → Prop} (mfree : mu .free) (mout : mu .out) (mreck : mu .reck) (ming : mu .ing) (malc : mu .alc) (mpak : mu .pak) (mmem : mu .mem) (mled : mu .led) {org s : State} (ho : Steps mu org s) (p : Page) : Steps mu org (State.comeUp s p) := by
  unfold State.comeUp
  lift_lets
  intro z0
  have hz0 : Steps mu org z0 := by
    dsimp only [z0]
    repeat' with_reducible first | assumption | apply State.wrs_steps
  try clear_value z0
  repeat' with_reducible first | assumption | apply Steps.ite | apply State.enterIdle_steps | apply State.wr_steps

theorem State.releasePage_steps {mu : Part → Prop} {org s : State} (ho : Steps mu org s) (p : Page) : Steps mu org (State.releasePage s p) := by
  unfold State.releasePage
  repeat' with_reducible first | assumption | apply Steps.ite | apply State.wrs_steps

theorem State.releaseIsland_steps {mu : Part → Prop} {org s : State} (ho : Steps mu org s) (i : ℕ) : Steps mu org (State.releaseIsland s i) := by
  unfold State.releaseIsland
  repeat' with_reducible first | assumption | intro _ | apply Steps.foldl | apply State.releasePage_steps | apply State.setTmo_steps

theorem State.releaseFree_steps {mu : Part → Prop} {org s : State} (ho : Steps mu org s) (i : ℕ) : Steps mu org (State.releaseFree s i) := by
  unfold State.releaseFree
  repeat' with_reducible first | assumption | intro _ | apply Steps.foldl | apply Steps.ite | apply State.releasePage_steps | apply State.setTmo_steps

theorem State.releaseShow_steps {mu : Part → Prop} (mout : mu .out) (mpwr : mu .pwr) {org s : State} (ho : Steps mu org s)  : Steps mu org (State.releaseShow s) := by
  unfold State.releaseShow
  lift_lets
  intro z0
  try dsimp -zeta -zetaHave only [z0]
  repeat' with_reducible first | assumption | apply Steps.ite | apply State.raise_steps | apply Steps.pwr

theorem State.beginShutdown_steps {mu : Part → Prop} (mout : mu .out) (mreck : mu .reck) (ming : mu .ing) (mpak : mu .pak) (mled : mu .led) (mdma : mu .dma) {org s : State} (ho : Steps mu org s) (p : Page) : Steps mu org (State.beginShutdown s p) := by
  unfold State.beginShutdown
  repeat' with_reducible first | assumption | apply State.dmaPageStops_steps | apply State.leaveEngine_steps | apply State.linkFollow_steps | apply State.fabShow_steps | split

theorem State.enableWrite_steps {mu : Part → Prop} (mfree : mu .free) (mout : mu .out) (mreck : mu .reck) (ming : mu .ing) (malc : mu .alc) (mpak : mu .pak) (mmem : mu .mem) (mled : mu .led) (mdma : mu .dma) {org s : State} (ho : Steps mu org s) (p : Page) (v : Bool) : Steps mu org (State.enableWrite s p v) := by
  unfold State.enableWrite
  lift_lets
  intro z0
  have hz0 : Steps mu org z0 := by
    dsimp only [z0]
    repeat' with_reducible first | assumption | apply State.wr_steps
  try clear_value z0
  intro z1; try clear_value z1
  intro z2
  have hz2 : Steps mu org z2 := by
    dsimp only [z2]
    repeat' with_reducible first | assumption | apply State.wrs_steps
  try clear_value z2
  repeat' with_reducible first | assumption | apply Steps.ite | apply State.raise_steps | apply State.wr_steps | apply State.enterIdle_steps | apply State.beginShutdown_steps

theorem State.quiesceWrite_steps {mu : Part → Prop} (mfree : mu .free) (mout : mu .out) (mreck : mu .reck) (ming : mu .ing) (malc : mu .alc) (mpak : mu .pak) (mmem : mu .mem) (mled : mu .led) {org s : State} (ho : Steps mu org s) (p : Page) (v : Bool) : Steps mu org (State.quiesceWrite s p v) := by
  unfold State.quiesceWrite
  lift_lets
  intro z0
  have hz0 : Steps mu org z0 := by
    dsimp only [z0]
    repeat' with_reducible first | assumption | apply State.wr_steps
  try clear_value z0
  repeat' with_reducible first | assumption | apply Steps.ite | apply State.applyQuiesce_steps | apply State.enterIdle_steps

theorem State.inkDown_steps {mu : Part → Prop} (mhbm : mu .hbm) (mout : mu .out) (mreck : mu .reck) (mmot : mu .mot) (ming : mu .ing) (malc : mu .alc) (mpak : mu .pak) (mary : mu .ary) (mfab : mu .fab) (mmem : mu .mem) (mled : mu .led) (mdma : mu .dma) (mtim : mu .tim) (mnet : mu .net) (mink : mu .ink) (mchk : mu .chk) {org s : State} (ho : Steps mu org s) : Steps mu org s.inkDown := by
  unfold State.inkDown
  have key : (s.resetBlock pINK).ink.shaped → s.ink.shaped := by
    intro h; exact h
  have h := Steps.upd (ink := { s.ink with lcCmd := false }) (ary := { s.ary with inkLost := s.bit Reg.ARY_PASS_CTRL_BUSY })
    (State.wr_steps (State.resetBlock_steps (by assumption) (by assumption) (by assumption) (by assumption) (by assumption) (by assumption) (by assumption) (by assumption) (by assumption) (by assumption) (by assumption) (by assumption) (by assumption) (by assumption) (by assumption) ho pINK) Reg.INK_STATUS_INK_DOWN 1) (.inr rfl) (.inr rfl) (.inr rfl) (.inr rfl) (.inr rfl) (.inr rfl) (.inl mary) (.inr rfl)
    (.inr rfl) (.inr rfl) (.inr rfl) (.inr rfl) (.inr rfl) (.inl mink) (.inr rfl) (.inr rfl) id id id id id key id
  split
  · exact h
  · exact Steps.ink h mink fun q => by simpa [Ink.shaped, Ink.bankLost] using q

theorem State.inkRestart_steps {mu : Part → Prop} (mhbm : mu .hbm) (mout : mu .out) (mreck : mu .reck) (mmot : mu .mot) (ming : mu .ing) (malc : mu .alc) (mpak : mu .pak) (mary : mu .ary) (mfab : mu .fab) (mmem : mu .mem) (mled : mu .led) (mdma : mu .dma) (mtim : mu .tim) (mnet : mu .net) (mink : mu .ink) (mchk : mu .chk) {org s : State} (ho : Steps mu org s)  : Steps mu org (State.inkRestart s) := by
  unfold State.inkRestart
  lift_lets
  intro z0
  have hz0 : Steps mu org z0 := by
    dsimp only [z0]
    repeat' with_reducible first | assumption | apply State.inkDown_steps
  try clear_value z0
  intro z1; try clear_value z1
  intro z2
  try dsimp -zeta -zetaHave only [z2]
  repeat' with_reducible first | assumption | (intro (hh : Ink.shaped _); first | (simpa [Ink.shaped, setAt, modAt, Ink.bankLost, Ink.takeToken] using hh; done) | (simp [Ink.shaped, setAt, modAt] at hh ⊢; omega)) | apply State.releasePage_steps | apply Steps.ink

theorem State.resetReqWrite_steps {mu : Part → Prop} (mhbm : mu .hbm) (mout : mu .out) (mpins : mu .pins) (mreck : mu .reck) (mmot : mu .mot) (ming : mu .ing) (malc : mu .alc) (mpak : mu .pak) (mary : mu .ary) (mfab : mu .fab) (mmem : mu .mem) (mled : mu .led) (mdma : mu .dma) (mtim : mu .tim) (mnet : mu .net) (mink : mu .ink) (mchk : mu .chk) (mpwr : mu .pwr) {org s : State} (ho : Steps mu org s) (p : Page) : Steps mu org (State.resetReqWrite s p) := by
  unfold State.resetReqWrite
  lift_lets
  intro z0
  try dsimp -zeta -zetaHave only [z0]
  intro z1
  have hz1 : Steps mu org z1 := by
    dsimp only [z1]
    repeat' with_reducible first | assumption | apply State.resetPage_steps
  try clear_value z1
  repeat' with_reducible first | assumption | intro _ | apply Steps.foldl | apply Steps.ite | apply State.inkRestart_steps | apply State.wr_steps | apply State.resetPage_steps | apply State.setTmo_steps | apply Steps.pwr

theorem execPageEnable_steps (agent : Sys2Proof.Agent) (page : Page) (value : Bool) (s : State) : Next (fun k => k ∈ [Part.free, Part.out, Part.reck, Part.ing, Part.alc, Part.pak, Part.mem, Part.led, Part.dma]) s (execPageEnable agent page value s) := by
  unfold execPageEnable
  repeat' with_reducible first | exact Steps.refl _ _ | apply Next.done | apply State.enableWrite_steps | split | decide

theorem execPageQuiesce_steps (agent : Sys2Proof.Agent) (page : Page) (value : Bool) (s : State) : Next (fun k => k ∈ [Part.free, Part.out, Part.reck, Part.ing, Part.alc, Part.pak, Part.mem, Part.led]) s (execPageQuiesce agent page value s) := by
  unfold execPageQuiesce
  repeat' with_reducible first | exact Steps.refl _ _ | apply Next.done | apply State.quiesceWrite_steps | split | decide

theorem execResetReq_steps (agent : Sys2Proof.Agent) (page : Page) (s : State) : Next (fun k => k ∈ [Part.hbm, Part.out, Part.pins, Part.reck, Part.mot, Part.ing, Part.alc, Part.pak, Part.ary, Part.fab, Part.mem, Part.led, Part.dma, Part.tim, Part.net, Part.ink, Part.chk, Part.pwr]) s (execResetReq agent page s) := by
  unfold execResetReq
  repeat' with_reducible first | exact Steps.refl _ _ | apply Next.done | apply State.resetReqWrite_steps | split | decide

theorem execBlockResetRelease_steps (page : Page) (s : State) : Next (fun k => k ∈ ([] : List Part)) s (execBlockResetRelease page s) := by
  unfold execBlockResetRelease
  repeat' with_reducible first | assumption | intro _ | exact Steps.refl _ _ | apply Steps.foldl | apply Next.done | apply Next.ite | apply State.setTmo_steps | apply State.releasePage_steps | split

theorem execIslandLockHeld_steps (island : ℕ) (s : State) : Next (fun k => k ∈ [Part.free, Part.out, Part.reck, Part.ing, Part.alc, Part.pak, Part.mem, Part.led, Part.pwr]) s (execIslandLockHeld island s) := by
  unfold execIslandLockHeld
  lift_lets
  intro z0
  have hz0 : Steps (fun k => k ∈ [Part.free, Part.out, Part.reck, Part.ing, Part.alc, Part.pak, Part.mem, Part.led, Part.pwr]) s z0 := by
    dsimp only [z0]
    repeat' with_reducible first | exact Steps.refl _ _ | apply State.setLock_steps
  try clear_value z0
  intro z1
  have hz1 : Steps (fun k => k ∈ [Part.free, Part.out, Part.reck, Part.ing, Part.alc, Part.pak, Part.mem, Part.led, Part.pwr]) s z1 := by
    dsimp only [z1]
    repeat' with_reducible first | assumption | apply Steps.ite | apply State.comeUp_steps | apply State.releasePage_steps | decide
  try clear_value z1
  repeat' with_reducible first | assumption | intro _ | exact Steps.refl _ _ | apply Steps.foldl | apply Next.done | apply Next.ite | apply State.comeUp_steps | apply State.releaseShow_steps | split | decide

theorem execLockTimeout_steps (page : Page) (s : State) : Next (fun k => k ∈ [Part.out, Part.pwr]) s (execLockTimeout page s) := by
  unfold execLockTimeout
  repeat' with_reducible first | exact Steps.refl _ _ | apply Next.done | apply Next.ite | apply State.releaseShow_steps | apply State.setTmo_steps | apply State.raise_steps | apply State.wrs_steps | decide

theorem execQuiesceComplete_steps (page : Page) (s : State) : Next (fun k => k ∈ [Part.free, Part.out, Part.reck, Part.ing, Part.alc, Part.pak, Part.mem, Part.led]) s (execQuiesceComplete page s) := by
  unfold execQuiesceComplete
  lift_lets
  intro z0
  have hz0 : Steps (fun k => k ∈ [Part.free, Part.out, Part.reck, Part.ing, Part.alc, Part.pak, Part.mem, Part.led]) s z0 := by
    dsimp only [z0]
    repeat' with_reducible first | exact Steps.refl _ _ | apply Steps.ite | apply State.wr_steps
  try clear_value z0
  repeat' with_reducible first | assumption | exact Steps.refl _ _ | apply Next.done | apply Next.ite | apply State.enterIdle_steps | split | decide

theorem execShutdownComplete_steps (page : Page) (s : State) : Next (fun k => k ∈ [Part.free, Part.out, Part.reck, Part.ing, Part.alc, Part.pak, Part.mem, Part.led]) s (execShutdownComplete page s) := by
  unfold execShutdownComplete
  repeat' with_reducible first | exact Steps.refl _ _ | apply Next.done | apply Next.ite | apply State.comeUp_steps | apply State.wr_steps | split | decide

theorem State.rejoin_steps {mu : Part → Prop} (mhbm : mu .hbm) (mout : mu .out) (mpins : mu .pins) (mreck : mu .reck) (mmot : mu .mot) (ming : mu .ing) (malc : mu .alc) (mpak : mu .pak) (mary : mu .ary) (mfab : mu .fab) (mmem : mu .mem) (mled : mu .led) (mdma : mu .dma) (mtim : mu .tim) (mnet : mu .net) (mchk : mu .chk) {org s : State} (ho : Steps mu org s) (n : ℕ) : Steps mu org (State.rejoin s n) := by
  unfold State.rejoin
  lift_lets
  intro z0
  have hz0 : Steps mu org z0 := by
    dsimp only [z0]
    repeat' with_reducible first | assumption | apply State.wr_steps | apply State.resetPage_steps
  try clear_value z0
  repeat' with_reducible first | assumption | apply Steps.ite | apply State.raise_steps | apply State.wrs_steps

theorem execRejoin_steps (agent : Sys2Proof.Agent) (n : ℕ) (s : State) : Next (fun k => k ∈ [Part.hbm, Part.out, Part.pins, Part.reck, Part.mot, Part.ing, Part.alc, Part.pak, Part.ary, Part.fab, Part.mem, Part.led, Part.dma, Part.tim, Part.net, Part.chk]) s (execRejoin agent n s) := by
  unfold execRejoin
  repeat' with_reducible first | assumption | intro _ | exact Steps.refl _ _ | apply Next.done | apply State.access_steps | apply State.rejoin_steps | split | decide

theorem State.modPwr_steps {mu : Part → Prop} (mpwr : mu .pwr) {org s : State} (ho : Steps mu org s) (f : Pwr → Pwr) : Steps mu org (State.modPwr s f) := by
  unfold State.modPwr
  repeat' with_reducible first | assumption | apply Steps.pwr

theorem State.powerReset_steps {mu : Part → Prop} (mhbm : mu .hbm) (mpins : mu .pins) (mreck : mu .reck) (mmot : mu .mot) (ming : mu .ing) (malc : mu .alc) (mpak : mu .pak) (mary : mu .ary) (mfab : mu .fab) (mmem : mu .mem) (mled : mu .led) (mdma : mu .dma) (mtim : mu .tim) (mnet : mu .net) (mink : mu .ink) (mchk : mu .chk) (mpwr : mu .pwr) {org s : State} (ho : Steps mu org s) (powered : Bool) : Steps mu org (s.powerReset powered) := by
  unfold State.powerReset
  refine State.wr_steps ?_ _ _
  refine ⟨ho.pending, fun _ => by rfl, fun _ => by rfl, ho.free, ho.out, fun x => ?_, fun k => ?_⟩
  · have h := (ho.shape x).2.2.2.2.2.1
    refine ⟨⟨List.length_replicate, List.length_replicate, List.length_replicate⟩, ⟨List.length_replicate, List.length_replicate,
      List.length_replicate, List.length_replicate⟩, List.length_replicate, List.length_replicate, rfl, ?_, List.length_replicate⟩
    cases s.ink.commit <;> exact h
  · cases k
    case free => exact ho.kept .free
    case out => exact ho.kept .out
    all_goals exact .inl (by assumption)

theorem execVinStart_steps (s : State) : Next (fun k => k ∈ [Part.hbm, Part.pins, Part.reck, Part.mot, Part.ing, Part.alc, Part.pak, Part.ary, Part.fab, Part.mem, Part.led, Part.dma, Part.tim, Part.net, Part.ink, Part.chk, Part.pwr]) s (execVinStart s) := by
  unfold execVinStart
  repeat' with_reducible first | exact Steps.refl _ _ | apply Next.done | apply State.powerReset_steps | split | decide

theorem State.powerWarning_steps {mu : Part → Prop} (mout : mu .out) (mpins : mu .pins) (mreck : mu .reck) (mmot : mu .mot) (mpak : mu .pak) (mary : mu .ary) (mfab : mu .fab) (mnet : mu .net) (mpwr : mu .pwr) {org s : State} (ho : Steps mu org s)  : Steps mu org (State.powerWarning s) := by
  unfold State.powerWarning
  repeat' with_reducible first | assumption | apply State.stopRequest_steps | apply State.settle_steps | apply State.raise_steps | apply State.modPwr_steps

theorem execPowerFailWarning_steps (s : State) : Next (fun k => k ∈ [Part.out, Part.pins, Part.reck, Part.mot, Part.pak, Part.ary, Part.fab, Part.net, Part.pwr]) s (execPowerFailWarning s) := by
  unfold execPowerFailWarning
  repeat' with_reducible first | exact Steps.refl _ _ | apply Next.done | apply State.powerWarning_steps | split | decide

theorem execWarningEnd_steps (s : State) : Next (fun k => k ∈ [Part.pwr]) s (execWarningEnd s) := by
  unfold execWarningEnd
  repeat' with_reducible first | exact Steps.refl _ _ | apply Next.done | apply State.modPwr_steps | split | decide

theorem execPowerDown_steps (s : State) : Next (fun k => k ∈ [Part.hbm, Part.pins, Part.reck, Part.mot, Part.ing, Part.alc, Part.pak, Part.ary, Part.fab, Part.mem, Part.led, Part.dma, Part.tim, Part.net, Part.ink, Part.chk, Part.pwr]) s (execPowerDown s) := by
  unfold execPowerDown
  repeat' with_reducible first | exact Steps.refl _ _ | apply Next.done | apply State.powerReset_steps | split | decide

theorem execOvervoltage_steps (s : State) : Next (fun k => k ∈ [Part.hbm, Part.pins, Part.reck, Part.mot, Part.ing, Part.alc, Part.pak, Part.ary, Part.fab, Part.mem, Part.led, Part.dma, Part.tim, Part.net, Part.ink, Part.chk, Part.pwr]) s (execOvervoltage s) := by
  unfold execOvervoltage
  repeat' with_reducible first | exact Steps.refl _ _ | apply Next.done | apply State.modPwr_steps | apply State.powerReset_steps | split | decide

theorem execOvervoltageEnd_steps (s : State) : Next (fun k => k ∈ [Part.hbm, Part.pins, Part.reck, Part.mot, Part.ing, Part.alc, Part.pak, Part.ary, Part.fab, Part.mem, Part.led, Part.dma, Part.tim, Part.net, Part.ink, Part.chk, Part.pwr]) s (execOvervoltageEnd s) := by
  unfold execOvervoltageEnd
  lift_lets
  intro z0
  have hz0 : Steps (fun k => k ∈ [Part.hbm, Part.pins, Part.reck, Part.mot, Part.ing, Part.alc, Part.pak, Part.ary, Part.fab, Part.mem, Part.led, Part.dma, Part.tim, Part.net, Part.ink, Part.chk, Part.pwr]) s z0 := by
    dsimp only [z0]
    repeat' with_reducible first | exact Steps.refl _ _ | apply State.modPwr_steps | decide
  try clear_value z0
  repeat' with_reducible first | assumption | exact Steps.refl _ _ | apply Next.done | apply Next.ite | apply State.powerReset_steps | split | decide

theorem execVinRangeChange_steps (outside : Bool) (vin : BitVec 16) (iin : BitVec 16) (s : State) : Next (fun k => k ∈ [Part.out, Part.reck, Part.pwr]) s (execVinRangeChange outside vin iin s) := by
  unfold execVinRangeChange
  lift_lets
  intro z0
  have hz0 : Steps (fun k => k ∈ [Part.out, Part.reck, Part.pwr]) s z0 := by
    dsimp only [z0]
    repeat' with_reducible first | exact Steps.refl _ _ | apply State.modPwr_steps | decide
  try clear_value z0
  intro z1
  have hz1 : Steps (fun k => k ∈ [Part.out, Part.reck, Part.pwr]) s z1 := by
    dsimp only [z1]
    repeat' with_reducible first | assumption | apply State.wrs_steps
  try clear_value z1
  repeat' with_reducible first | assumption | apply Next.done | apply Next.ite | apply State.setFault_steps | split | decide

theorem State.phaseShow_steps {mu : Part → Prop} (mout : mu .out) (mreck : mu .reck) {org s : State} (ho : Steps mu org s)  : Steps mu org (State.phaseShow s) := by
  unfold State.phaseShow
  lift_lets
  intro z0
  have hz0 : Steps mu org z0 := by
    dsimp only [z0]
    repeat' with_reducible first | assumption | apply Steps.ite | apply State.setFault_steps
  try clear_value z0
  repeat' with_reducible first | assumption | apply Steps.ite | apply State.setFault_steps

theorem execPhaseSwitchOff_steps (p : BitVec 4) (s : State) : Next (fun k => k ∈ [Part.out, Part.reck]) s (execPhaseSwitchOff p s) := by
  unfold execPhaseSwitchOff
  repeat' with_reducible first | exact Steps.refl _ _ | apply Next.done | apply Next.ite | apply State.phaseShow_steps | apply State.raise_steps | apply State.wrs_steps | decide

theorem execSparePhaseActivate_steps (s : State) : Next (fun k => k ∈ [Part.out]) s (execSparePhaseActivate s) := by
  unfold execSparePhaseActivate
  repeat' with_reducible first | exact Steps.refl _ _ | apply Next.done | apply Next.ite | apply State.raise_steps | apply State.wr_steps | split | decide

theorem State.modResetGo_steps {mu : Part → Prop} (mout : mu .out) (mpins : mu .pins) (mreck : mu .reck) (mmot : mu .mot) (mpak : mu .pak) (mary : mu .ary) (mfab : mu .fab) (mnet : mu .net) (mpwr : mu .pwr) {org s : State} (ho : Steps mu org s) (cause : ℕ) : Steps mu org (State.modResetGo s cause) := by
  unfold State.modResetGo
  lift_lets
  intro z0
  have hz0 : Steps mu org z0 := by
    dsimp only [z0]
    repeat' with_reducible first | assumption | apply State.wr_steps | apply State.modPwr_steps | apply State.satInc_steps
  try clear_value z0
  repeat' with_reducible first | assumption | apply Steps.ite | apply State.wr_steps | apply State.ledFlush_steps | apply State.reckon_steps | apply State.settle_steps

theorem execResetNFall_steps (glitch : Bool) (s : State) : Next (fun k => k ∈ [Part.out, Part.pins, Part.reck, Part.mot, Part.pak, Part.ary, Part.fab, Part.net, Part.pwr]) s (execResetNFall glitch s) := by
  unfold execResetNFall
  lift_lets
  intro z0
  have hz0 : Steps (fun k => k ∈ [Part.out, Part.pins, Part.reck, Part.mot, Part.pak, Part.ary, Part.fab, Part.net, Part.pwr]) s z0 := by
    dsimp only [z0]
    repeat' with_reducible first | exact Steps.refl _ _ | apply Steps.ite | apply State.openSwitch_steps | decide
  try clear_value z0
  intro z1
  have hz1 : Steps (fun k => k ∈ [Part.out, Part.pins, Part.reck, Part.mot, Part.pak, Part.ary, Part.fab, Part.net, Part.pwr]) s z1 := by
    dsimp only [z1]
    repeat' with_reducible first | assumption | apply State.modPwr_steps | decide
  try clear_value z1
  intro z2
  try dsimp -zeta -zetaHave only [z2]
  repeat' with_reducible first | assumption | apply Next.done | apply State.satInc_steps | split | apply Steps.pins | decide

theorem execModuleResetAssert_steps (s : State) : Next (fun k => k ∈ [Part.out, Part.pins, Part.reck, Part.mot, Part.pak, Part.ary, Part.fab, Part.net, Part.pwr]) s (execModuleResetAssert s) := by
  unfold execModuleResetAssert
  repeat' with_reducible first | exact Steps.refl _ _ | apply Next.done | apply State.modResetGo_steps | apply State.modPwr_steps | split | decide

theorem execModuleResetBlockAssert_steps (s : State) : Next (fun k => k ∈ [Part.hbm, Part.reck, Part.mot, Part.ing, Part.alc, Part.pak, Part.ary, Part.fab, Part.mem, Part.led, Part.dma, Part.tim, Part.net, Part.chk, Part.pwr]) s (execModuleResetBlockAssert s) := by
  unfold execModuleResetBlockAssert
  repeat' with_reducible first | exact Steps.refl _ _ | apply Next.done | apply State.modPwr_steps | apply State.resetWide_steps | split | decide

theorem State.wipeZero_steps {mu : Part → Prop} (mreck : mu .reck) (mfab : mu .fab) (mpwr : mu .pwr) {org s : State} (ho : Steps mu org s)  : Steps mu org (State.wipeZero s) := by
  unfold State.wipeZero
  lift_lets
  intro z0
  try dsimp -zeta -zetaHave only [z0]
  intro z1
  try dsimp -zeta -zetaHave only [z1]
  intro z2
  try dsimp -zeta -zetaHave only [z2]
  intro z3
  have hz3 : Steps mu org z3 := by
    dsimp only [z3]
    repeat' with_reducible first | assumption | (apply Or.inl; first | assumption | decide) | exact Or.inr rfl | exact id | intro _ | apply FieldStore.wf_clear | fail_if_no_progress apply Steps.updAll
  try clear_value z3
  repeat' with_reducible first | assumption | apply State.wr_steps

theorem State.releaseAll_steps {mu : Part → Prop} {org s : State} (ho : Steps mu org s)  : Steps mu org (State.releaseAll s) := by
  unfold State.releaseAll
  repeat' with_reducible first | assumption | intro _ | apply Steps.foldl | apply State.releaseFree_steps

theorem execModuleResetRelease_steps (s : State) : Next (fun k => k ∈ [Part.free, Part.out, Part.pins, Part.reck, Part.ing, Part.alc, Part.pak, Part.fab, Part.mem, Part.led, Part.dma, Part.ink, Part.pwr]) s (execModuleResetRelease s) := by
  unfold execModuleResetRelease
  lift_lets
  intro z0
  have hz0 : Steps (fun k => k ∈ [Part.free, Part.out, Part.pins, Part.reck, Part.ing, Part.alc, Part.pak, Part.fab, Part.mem, Part.led, Part.dma, Part.ink, Part.pwr]) s z0 := by
    dsimp only [z0]
    repeat' with_reducible first | exact Steps.refl _ _ | apply State.modPwr_steps | decide
  try clear_value z0
  intro z1
  try dsimp -zeta -zetaHave only [z1]
  intro z2
  have hz2 : Steps (fun k => k ∈ [Part.free, Part.out, Part.pins, Part.reck, Part.ing, Part.alc, Part.pak, Part.fab, Part.mem, Part.led, Part.dma, Part.ink, Part.pwr]) s z2 := by
    dsimp only [z2]
    repeat' with_reducible first | assumption | apply Steps.pins | decide
  try clear_value z2
  intro z3
  have hz3 : Steps (fun k => k ∈ [Part.free, Part.out, Part.pins, Part.reck, Part.ing, Part.alc, Part.pak, Part.fab, Part.mem, Part.led, Part.dma, Part.ink, Part.pwr]) s z3 := by
    dsimp only [z3]
    repeat' with_reducible first | assumption | intro _ | apply Steps.foldl | apply State.enableWrite_steps | apply State.releaseAll_steps | apply State.wipeZero_steps | decide
  try clear_value z3
  intro z4
  try dsimp -zeta -zetaHave only [z4]
  repeat' with_reducible first | assumption | (intro (hh : Ink.shaped _); first | (simpa [Ink.shaped, setAt, modAt, Ink.bankLost, Ink.takeToken] using hh; done) | (simp [Ink.shaped, setAt, modAt] at hh ⊢; omega)) | exact Steps.refl _ _ | apply Next.done | apply Next.ite | apply State.releaseAll_steps | apply State.releaseShow_steps | apply Steps.ink | decide

theorem State.modRstWrite_steps {mu : Part → Prop} (mout : mu .out) (mpins : mu .pins) (mreck : mu .reck) (mmot : mu .mot) (mpak : mu .pak) (mary : mu .ary) (mfab : mu .fab) (mnet : mu .net) (mpwr : mu .pwr) {org s : State} (ho : Steps mu org s) (ag : Sys2Proof.Agent) (key : ℕ) : Steps mu org (State.modRstWrite s ag key) := by
  unfold State.modRstWrite
  repeat' with_reducible first | assumption | apply Steps.ite | apply State.modResetGo_steps | apply State.raise_steps

theorem execModRst_steps (agent : Sys2Proof.Agent) (key : BitVec 16) (s : State) : Next (fun k => k ∈ [Part.out, Part.pins, Part.reck, Part.mot, Part.pak, Part.ary, Part.fab, Part.net, Part.pwr]) s (execModRst agent key s) := by
  unfold execModRst
  repeat' with_reducible first | assumption | intro _ | exact Steps.refl _ _ | apply Next.done | apply State.access_steps | apply State.modRstWrite_steps | decide

theorem State.inkRstWrite_steps {mu : Part → Prop} (mhbm : mu .hbm) (mout : mu .out) (mreck : mu .reck) (mmot : mu .mot) (ming : mu .ing) (malc : mu .alc) (mpak : mu .pak) (mary : mu .ary) (mfab : mu .fab) (mmem : mu .mem) (mled : mu .led) (mdma : mu .dma) (mtim : mu .tim) (mnet : mu .net) (mink : mu .ink) (mchk : mu .chk) (mpwr : mu .pwr) {org s : State} (ho : Steps mu org s) (key : ℕ) : Steps mu org (State.inkRstWrite s key) := by
  unfold State.inkRstWrite
  repeat' with_reducible first | assumption | apply Steps.ite | apply State.inkRestart_steps | apply State.modPwr_steps

theorem execInkRst_steps (agent : Sys2Proof.Agent) (key : BitVec 16) (s : State) : Next (fun k => k ∈ [Part.hbm, Part.out, Part.reck, Part.mot, Part.ing, Part.alc, Part.pak, Part.ary, Part.fab, Part.mem, Part.led, Part.dma, Part.tim, Part.net, Part.ink, Part.chk, Part.pwr]) s (execInkRst agent key s) := by
  unfold execInkRst
  repeat' with_reducible first | assumption | intro _ | exact Steps.refl _ _ | apply Next.done | apply State.access_steps | apply State.inkRstWrite_steps | decide

theorem State.retryWrite_steps {mu : Part → Prop} {org s : State} (ho : Steps mu org s)  : Steps mu org (State.retryWrite s) := by
  unfold State.retryWrite
  repeat' with_reducible first | assumption | intro _ | apply Steps.foldl | apply Steps.ite | apply State.releaseFree_steps

theorem execRetry_steps (agent : Sys2Proof.Agent) (s : State) : Next (fun k => k ∈ [Part.out, Part.reck]) s (execRetry agent s) := by
  unfold execRetry
  repeat' with_reducible first | assumption | intro _ | exact Steps.refl _ _ | apply Next.done | apply State.access_steps | apply State.retryWrite_steps | decide

theorem State.pcieReset_steps {mu : Part → Prop} (mhbm : mu .hbm) (mout : mu .out) (mpins : mu .pins) (mreck : mu .reck) (mmot : mu .mot) (ming : mu .ing) (malc : mu .alc) (mpak : mu .pak) (mary : mu .ary) (mfab : mu .fab) (mmem : mu .mem) (mled : mu .led) (mdma : mu .dma) (mtim : mu .tim) (mnet : mu .net) (mchk : mu .chk) {org s : State} (ho : Steps mu org s)  : Steps mu org (State.pcieReset s) := by
  unfold State.pcieReset
  lift_lets
  intro z0
  have hz0 : Steps mu org z0 := by
    dsimp only [z0]
    repeat' with_reducible first | assumption | apply State.resetIsland_steps
  try clear_value z0
  repeat' with_reducible first | assumption | (intro (hh : Dma.shaped _); first | (simpa [Dma.shaped, setAt, modAt] using hh; done) | (simp [Dma.shaped, setAt, modAt] at hh ⊢; omega)) | apply Steps.dma

theorem execPerstNAssert_steps (s : State) : Next (fun k => k ∈ [Part.hbm, Part.out, Part.pins, Part.reck, Part.mot, Part.ing, Part.alc, Part.pak, Part.ary, Part.fab, Part.mem, Part.led, Part.dma, Part.tim, Part.net, Part.chk, Part.pwr]) s (execPerstNAssert s) := by
  unfold execPerstNAssert
  lift_lets
  intro z0
  try dsimp -zeta -zetaHave only [z0]
  intro z1
  have hz1 : Steps (fun k => k ∈ [Part.hbm, Part.out, Part.pins, Part.reck, Part.mot, Part.ing, Part.alc, Part.pak, Part.ary, Part.fab, Part.mem, Part.led, Part.dma, Part.tim, Part.net, Part.chk, Part.pwr]) s z1 := by
    dsimp only [z1]
    repeat' with_reducible first | exact Steps.refl _ _ | apply Steps.pins | decide
  try clear_value z1
  intro z2
  have hz2 : Steps (fun k => k ∈ [Part.hbm, Part.out, Part.pins, Part.reck, Part.mot, Part.ing, Part.alc, Part.pak, Part.ary, Part.fab, Part.mem, Part.led, Part.dma, Part.tim, Part.net, Part.chk, Part.pwr]) s z2 := by
    dsimp only [z2]
    repeat' with_reducible first | assumption | apply State.modPwr_steps | apply State.pcieReset_steps | apply State.raise_steps | decide
  try clear_value z2
  repeat' with_reducible first | assumption | apply Next.done | apply Next.ite | apply State.modResetGo_steps | split | decide

theorem execPerstNRelease_steps (s : State) : Next (fun k => k ∈ [Part.pins, Part.pwr]) s (execPerstNRelease s) := by
  unfold execPerstNRelease
  lift_lets
  intro z0
  try dsimp -zeta -zetaHave only [z0]
  intro z1
  have hz1 : Steps (fun k => k ∈ [Part.pins, Part.pwr]) s z1 := by
    dsimp only [z1]
    repeat' with_reducible first | exact Steps.refl _ _ | apply Steps.pins | decide
  try clear_value z1
  intro z2
  have hz2 : Steps (fun k => k ∈ [Part.pins, Part.pwr]) s z2 := by
    dsimp only [z2]
    repeat' with_reducible first | assumption | apply State.modPwr_steps | decide
  try clear_value z2
  repeat' with_reducible first | assumption | apply Next.done | apply Next.ite | apply State.releaseFree_steps | split

theorem execReferenceClockLoss_steps (pcie : Bool) (s : State) : Next (fun k => k ∈ [Part.hbm, Part.out, Part.pins, Part.reck, Part.mot, Part.ing, Part.alc, Part.pak, Part.ary, Part.fab, Part.mem, Part.led, Part.dma, Part.tim, Part.net, Part.chk, Part.pwr]) s (execReferenceClockLoss pcie s) := by
  unfold execReferenceClockLoss
  lift_lets
  intro z0
  have hz0 : Steps (fun k => k ∈ [Part.hbm, Part.out, Part.pins, Part.reck, Part.mot, Part.ing, Part.alc, Part.pak, Part.ary, Part.fab, Part.mem, Part.led, Part.dma, Part.tim, Part.net, Part.chk, Part.pwr]) s z0 := by
    dsimp only [z0]
    repeat' with_reducible first | exact Steps.refl _ _ | apply State.modPwr_steps | decide
  try clear_value z0
  intro z1
  have hz1 : Steps (fun k => k ∈ [Part.hbm, Part.out, Part.pins, Part.reck, Part.mot, Part.ing, Part.alc, Part.pak, Part.ary, Part.fab, Part.mem, Part.led, Part.dma, Part.tim, Part.net, Part.chk, Part.pwr]) s z1 := by
    dsimp only [z1]
    repeat' with_reducible first | assumption | intro _ | apply Steps.foldl | apply Steps.ite | apply State.resetIsland_steps | decide
  try clear_value z1
  repeat' with_reducible first | assumption | exact Steps.refl _ _ | apply Next.done | apply Next.ite | apply State.raise_steps | apply State.setFault_steps | apply State.wr_steps | apply State.pcieReset_steps | apply State.modPwr_steps | decide

theorem execReferenceClockReturn_steps (pcie : Bool) (s : State) : Next (fun k => k ∈ [Part.out, Part.pwr]) s (execReferenceClockReturn pcie s) := by
  unfold execReferenceClockReturn
  lift_lets
  intro z0
  have hz0 : Steps (fun k => k ∈ [Part.out, Part.pwr]) s z0 := by
    dsimp only [z0]
    repeat' with_reducible first | exact Steps.refl _ _ | apply State.modPwr_steps | decide
  try clear_value z0
  intro z1
  have hz1 : Steps (fun k => k ∈ [Part.out, Part.pwr]) s z1 := by
    dsimp only [z1]
    repeat' with_reducible first | assumption | apply State.raiseIf_steps | apply State.wr_steps | decide
  try clear_value z1
  repeat' with_reducible first | assumption | intro _ | exact Steps.refl _ _ | apply Steps.foldl | apply Next.done | apply Next.ite | apply State.releaseFree_steps

theorem execIslandLockLoss_steps (island : ℕ) (s : State) : Next (fun k => k ∈ [Part.hbm, Part.out, Part.pins, Part.reck, Part.mot, Part.ing, Part.alc, Part.pak, Part.ary, Part.fab, Part.mem, Part.led, Part.dma, Part.tim, Part.net, Part.chk]) s (execIslandLockLoss island s) := by
  unfold execIslandLockLoss
  lift_lets
  intro z0
  have hz0 : Steps (fun k => k ∈ [Part.hbm, Part.out, Part.pins, Part.reck, Part.mot, Part.ing, Part.alc, Part.pak, Part.ary, Part.fab, Part.mem, Part.led, Part.dma, Part.tim, Part.net, Part.chk]) s z0 := by
    dsimp only [z0]
    repeat' with_reducible first | exact Steps.refl _ _ | apply State.resetIsland_steps | apply State.raise_steps | decide
  try clear_value z0
  repeat' with_reducible first | assumption | intro _ | exact Steps.refl _ _ | apply Steps.foldl | apply Next.done | apply Next.ite | apply State.releaseFree_steps | split

theorem State.permitWrite_steps {mu : Part → Prop} (mout : mu .out) (mpins : mu .pins) (mreck : mu .reck) (mmot : mu .mot) (mpak : mu .pak) (mary : mu .ary) (mfab : mu .fab) (mnet : mu .net) {org s : State} (ho : Steps mu org s) (req : Bool) : Steps mu org (State.permitWrite s req) := by
  unfold State.permitWrite
  lift_lets
  intro z0
  have hz0 : Steps mu org z0 := by
    dsimp only [z0]
    repeat' with_reducible first | assumption | apply State.raise_steps | apply State.wr_steps
  try clear_value z0
  intro z1
  try dsimp -zeta -zetaHave only [z1]
  repeat' with_reducible first | assumption | apply Steps.ite | apply State.raise_steps | apply State.openSwitch_steps | apply Steps.pins

theorem execGlbPermitWrite_steps (agent : Sys2Proof.Agent) (req : Bool) (s : State) : Next (fun k => k ∈ [Part.out, Part.pins, Part.reck, Part.mot, Part.pak, Part.ary, Part.fab, Part.net]) s (execGlbPermitWrite agent req s) := by
  unfold execGlbPermitWrite
  repeat' with_reducible first | assumption | intro _ | exact Steps.refl _ _ | apply Next.done | apply State.access_steps | apply State.permitWrite_steps | decide

theorem execPermitContradiction_steps (high : Bool) (s : State) : Next (fun k => k ∈ [Part.out, Part.pins, Part.reck]) s (execPermitContradiction high s) := by
  unfold execPermitContradiction
  lift_lets
  intro z0
  try dsimp -zeta -zetaHave only [z0]
  intro z1
  have hz1 : Steps (fun k => k ∈ [Part.out, Part.pins, Part.reck]) s z1 := by
    dsimp only [z1]
    repeat' with_reducible first | exact Steps.refl _ _ | apply Steps.pins | decide
  try clear_value z1
  repeat' with_reducible first | assumption | exact Steps.refl _ _ | apply Next.done | apply Next.ite | apply State.setFault_steps | split | decide

theorem execPermitWithdrawn_steps (low : Bool) (s : State) : Next (fun k => k ∈ [Part.out, Part.pins, Part.reck, Part.mot, Part.pak, Part.ary, Part.fab, Part.net]) s (execPermitWithdrawn low s) := by
  unfold execPermitWithdrawn
  lift_lets
  intro z0
  try dsimp -zeta -zetaHave only [z0]
  intro z1
  have hz1 : Steps (fun k => k ∈ [Part.out, Part.pins, Part.reck, Part.mot, Part.pak, Part.ary, Part.fab, Part.net]) s z1 := by
    dsimp only [z1]
    repeat' with_reducible first | exact Steps.refl _ _ | apply Steps.pins | decide
  try clear_value z1
  intro z2
  try dsimp -zeta -zetaHave only [z2]
  intro z3
  try dsimp -zeta -zetaHave only [z3]
  intro z4
  have hz4 : Steps (fun k => k ∈ [Part.out, Part.pins, Part.reck, Part.mot, Part.pak, Part.ary, Part.fab, Part.net]) s z4 := by
    dsimp only [z4]
    repeat' with_reducible first | assumption | (apply Or.inl; first | assumption | decide) | exact Or.inr rfl | exact id | (intro (hh : Pak.shaped _); first | (simpa [Pak.shaped, setAt, modAt] using hh; done) | (simp [Pak.shaped, setAt, modAt] at hh ⊢; omega)) | fail_if_no_progress apply Steps.upd
  try clear_value z4
  repeat' with_reducible first | assumption | exact Steps.refl _ _ | apply Next.done | apply Next.ite | apply State.stopRequest_steps | apply State.raise_steps | decide

theorem execPsupOkChange_steps (ok : Bool) (s : State) : Next (fun k => k ∈ [Part.pins]) s (execPsupOkChange ok s) := by
  unfold execPsupOkChange
  lift_lets
  intro z0
  try dsimp -zeta -zetaHave only [z0]
  repeat' with_reducible first | exact Steps.refl _ _ | apply Next.done | apply Steps.pins | decide

theorem State.cellarAccess_steps {mu : Part → Prop} (mout : mu .out) (mpwr : mu .pwr) {org s : State} (ho : Steps mu org s) (ag : Sys2Proof.Agent) (write : Option ℕ) : Steps mu org (State.cellarAccess s ag write) := by
  unfold State.cellarAccess
  lift_lets
  intro z0; try clear_value z0
  intro z1
  have hz1 : Steps mu org z1 := by
    dsimp only [z1]
    repeat' with_reducible first | assumption | apply State.wr_steps
  try clear_value z1
  intro z2; try clear_value z2
  intro z3
  try dsimp -zeta -zetaHave only [z3]
  repeat' with_reducible first | assumption | apply Steps.ite | apply State.wr_steps | apply State.raise_steps | apply State.emit_steps | split | apply Steps.pwr

theorem execCellarDataAccess_steps (agent : Sys2Proof.Agent) (write : Option Sys2Proof.Word) (upset : Bool) (s : State) : Next (fun k => k ∈ [Part.out, Part.reck, Part.pwr]) s (execCellarDataAccess agent write upset s) := by
  unfold execCellarDataAccess
  repeat' with_reducible first | assumption | intro _ | exact Steps.refl _ _ | apply Next.done | apply Next.ite | apply State.emit_steps | apply State.access_steps | apply State.cellarAccess_steps | apply State.modPwr_steps | split | decide

theorem State.trip_steps {mu : Part → Prop} (mout : mu .out) (mpins : mu .pins) (mreck : mu .reck) (mmot : mu .mot) (mpak : mu .pak) (mary : mu .ary) (mfab : mu .fab) (mnet : mu .net) (mpwr : mu .pwr) {org s : State} (ho : Steps mu org s)  : Steps mu org (State.trip s) := by
  unfold State.trip
  repeat' with_reducible first | assumption | apply Steps.ite | apply State.powerWarning_steps | apply State.modPwr_steps

theorem execThermalCheck_steps (lid : BitVec 16) (die : BitVec 16) (s : State) : Next (fun k => k ∈ [Part.out, Part.pins, Part.reck, Part.mot, Part.pak, Part.ary, Part.fab, Part.net, Part.pwr]) s (execThermalCheck lid die s) := by
  unfold execThermalCheck
  lift_lets
  intro z0; try clear_value z0
  intro z1; try clear_value z1
  intro z2
  have hz2 : Steps (fun k => k ∈ [Part.out, Part.pins, Part.reck, Part.mot, Part.pak, Part.ary, Part.fab, Part.net, Part.pwr]) s z2 := by
    dsimp only [z2]
    repeat' with_reducible first | exact Steps.refl _ _ | apply State.wrs_steps
  try clear_value z2
  intro z3; try clear_value z3
  intro z4; try clear_value z4
  intro z5
  have hz5 : Steps (fun k => k ∈ [Part.out, Part.pins, Part.reck, Part.mot, Part.pak, Part.ary, Part.fab, Part.net, Part.pwr]) s z5 := by
    dsimp only [z5]
    repeat' with_reducible first | assumption | apply State.modPwr_steps | decide
  try clear_value z5
  repeat' with_reducible first | assumption | exact Steps.refl _ _ | apply Next.done | apply Next.ite | apply State.trip_steps | split | decide

theorem execTripPowerStop_steps (s : State) : Next (fun k => k ∈ [Part.hbm, Part.pins, Part.reck, Part.mot, Part.ing, Part.alc, Part.pak, Part.ary, Part.fab, Part.mem, Part.led, Part.dma, Part.tim, Part.net, Part.ink, Part.chk, Part.pwr]) s (execTripPowerStop s) := by
  unfold execTripPowerStop
  repeat' with_reducible first | exact Steps.refl _ _ | apply Next.done | apply State.powerReset_steps | split | decide

theorem execTripRestart_steps (lid : BitVec 16) (s : State) : Next (fun k => k ∈ [Part.hbm, Part.pins, Part.reck, Part.mot, Part.ing, Part.alc, Part.pak, Part.ary, Part.fab, Part.mem, Part.led, Part.dma, Part.tim, Part.net, Part.ink, Part.chk, Part.pwr]) s (execTripRestart lid s) := by
  unfold execTripRestart
  lift_lets
  intro z0
  have hz0 : Steps (fun k => k ∈ [Part.hbm, Part.pins, Part.reck, Part.mot, Part.ing, Part.alc, Part.pak, Part.ary, Part.fab, Part.mem, Part.led, Part.dma, Part.tim, Part.net, Part.ink, Part.chk, Part.pwr]) s z0 := by
    dsimp only [z0]
    repeat' with_reducible first | exact Steps.refl _ _ | apply State.modPwr_steps | decide
  try clear_value z0
  repeat' with_reducible first | assumption | exact Steps.refl _ _ | apply Next.done | apply Next.ite | apply State.powerReset_steps | split | decide

theorem State.modInk_steps {mu : Part → Prop} (mink : mu .ink) {org s : State} (ho : Steps mu org s) (f : Ink → Ink) (hf : ∀ x, Ink.shaped x → Ink.shaped (f x)) : Steps mu org (State.modInk s f) := by
  unfold State.modInk
  repeat' with_reducible first | assumption | intro _ | apply hf | apply Steps.ink

theorem State.commitGo_steps {mu : Part → Prop} (mink : mu .ink) {org s : State} (ho : Steps mu org s) (c : Commit) : Steps mu org (State.commitGo s c) := by
  unfold State.commitGo
  lift_lets
  intro z0
  try dsimp -zeta -zetaHave only [z0]
  intro z1
  try dsimp -zeta -zetaHave only [z1]
  repeat' with_reducible first | assumption | (intro (hh : Ink.shaped _); first | (simpa [Ink.shaped, setAt, modAt, Ink.bankLost, Ink.takeToken] using hh; done) | (simp [Ink.shaped, setAt, modAt] at hh ⊢; omega)) | apply Steps.ite | apply Steps.ink

theorem State.commitNext_steps {mu : Part → Prop} (mink : mu .ink) {org s : State} (ho : Steps mu org s)  : Steps mu org (State.commitNext s) := by
  unfold State.commitNext
  repeat' with_reducible first | assumption | (intro (hh : Ink.shaped _); first | (simpa [Ink.shaped, setAt, modAt, Ink.bankLost, Ink.takeToken] using hh; done) | (simp [Ink.shaped, setAt, modAt] at hh ⊢; omega)) | intro _ | apply Steps.ite | apply State.commitGo_steps | apply State.modInk_steps | split

theorem State.transit_steps {mu : Part → Prop} (mhbm : mu .hbm) (mfree : mu .free) (mout : mu .out) (mreck : mu .reck) (mmem : mu .mem) (mdma : mu .dma) (mink : mu .ink) {org s : State} (ho : Steps mu org s) (target : ℕ) : Steps mu org (State.transit s target) := by
  unfold State.transit
  lift_lets
  intro z0
  have hz0 : Steps mu org z0 := by
    dsimp only [z0]
    repeat' with_reducible first | assumption | apply State.wrs_steps
  try clear_value z0
  repeat' with_reducible first | assumption | (intro (hh : Ink.shaped _); first | (simpa [Ink.shaped, setAt, modAt, Ink.bankLost, Ink.takeToken] using hh; done) | (simp [Ink.shaped, setAt, modAt] at hh ⊢; omega)) | intro _ | apply State.commitGo_steps | apply State.dmaLifeCycle_steps | apply State.modInk_steps

theorem State.custodyApply_steps {mu : Part → Prop} (mhbm : mu .hbm) (mfree : mu .free) (mout : mu .out) (mreck : mu .reck) (mmem : mu .mem) (mdma : mu .dma) (mink : mu .ink) {org s : State} (ho : Steps mu org s)  : Steps mu org (State.custodyApply s) := by
  unfold State.custodyApply
  lift_lets
  intro z0; try clear_value z0
  intro z1
  have hz1 : Steps mu org z1 := by
    dsimp only [z1]
    repeat' with_reducible first | assumption | apply State.raise_steps | apply State.wr_steps
  try clear_value z1
  repeat' with_reducible first | assumption | apply Steps.ite | apply State.transit_steps

theorem execCustodyNChange_steps (level : Bool) (s : State) : Next (fun k => k ∈ [Part.pins]) s (execCustodyNChange level s) := by
  unfold execCustodyNChange
  lift_lets
  intro z0
  try dsimp -zeta -zetaHave only [z0]
  repeat' with_reducible first | exact Steps.refl _ _ | apply Next.done | apply Steps.pins | decide

theorem execCustodyFilterAccept_steps (s : State) : Next (fun k => k ∈ [Part.hbm, Part.free, Part.out, Part.pins, Part.reck, Part.mem, Part.dma, Part.ink]) s (execCustodyFilterAccept s) := by
  unfold execCustodyFilterAccept
  lift_lets
  intro z0
  try dsimp -zeta -zetaHave only [z0]
  repeat' with_reducible first | exact Steps.refl _ _ | apply Next.done | apply State.custodyApply_steps | split | apply Steps.pins | decide

theorem State.ring_steps {mu : Part → Prop} (mout : mu .out) {org s : State} (ho : Steps mu org s)  : Steps mu org (State.ring s) := by
  unfold State.ring
  repeat' with_reducible first | assumption | apply Steps.ite | apply State.raise_steps | apply State.setRunning_steps | apply State.wr_steps

theorem execRingDoorbell_steps (agent : Sys2Proof.Agent) (s : State) : Next (fun k => k ∈ [Part.out, Part.reck]) s (execRingDoorbell agent s) := by
  unfold execRingDoorbell
  repeat' with_reducible first | assumption | intro _ | exact Steps.refl _ _ | apply Next.done | apply State.newWork_steps | apply State.ring_steps | decide

theorem State.mbDone_steps {mu : Part → Prop} (mout : mu .out) {org s : State} (ho : Steps mu org s) (result : ℕ) (rsp : List ℕ) : Steps mu org (State.mbDone s result rsp) := by
  unfold State.mbDone
  lift_lets
  intro z0
  have hz0 : Steps mu org z0 := by
    dsimp only [z0]
    repeat' with_reducible first | assumption | apply State.wrs_steps
  try clear_value z0
  repeat' with_reducible first | assumption | apply State.wrs_steps | apply State.setRunning_steps | apply State.raise_steps

theorem State.operate_steps {mu : Part → Prop} (mout : mu .out) {org s : State} (ho : Steps mu org s) (op : ℕ) (k : State → State) (hk : ∀ r t, Steps mu r t → Steps mu r (k t)) : Steps mu org (State.operate s op k) := by
  unfold State.operate
  repeat' with_reducible first | assumption | apply Steps.ite | apply State.mbDone_steps | apply hk

theorem execUnknownOperation_steps (s : State) : Next (fun k => k ∈ [Part.out]) s (execUnknownOperation s) := by
  unfold execUnknownOperation
  repeat' with_reducible first | exact Steps.refl _ _ | apply Next.done | apply State.mbDone_steps | split | decide

theorem execIdentity_steps (s : State) : Next (fun k => k ∈ [Part.free, Part.out]) s (execIdentity s) := by
  have h1 : ∀ t, Steps (fun k => k ∈ [Part.free, Part.out]) s t → ∀ r l, Steps (fun k => k ∈ [Part.free, Part.out]) s (t.mbDone r l) :=
    fun t h r l => State.mbDone_steps (by decide) h r l
  unfold execIdentity
  refine Next.ite (Next.ite (Next.done (h1 _ ?_ _ _)) (Next.done (h1 _ (Steps.refl _ s) _ _))) (Next.done (Steps.refl _ s))
  exact ⟨rfl, id, id, Nat.le_add_right _ _, List.suffix_rfl, id, fun k => by cases k <;> first | exact .inl (by decide) | exact .inr rfl⟩

theorem execFirmwareVersion_steps (s : State) : Next (fun k => k ∈ [Part.out]) s (execFirmwareVersion s) := by
  unfold execFirmwareVersion
  repeat' with_reducible first | exact Steps.refl _ _ | apply Next.done | apply State.mbDone_steps | split | decide

theorem execPersistentStoreRead_steps (s : State) : Next (fun k => k ∈ [Part.out]) s (execPersistentStoreRead s) := by
  unfold execPersistentStoreRead
  repeat' with_reducible first | assumption | intro _ | exact Steps.refl _ _ | apply Next.done | apply State.operate_steps | apply State.mbDone_steps | split | dsimp only | decide

theorem execPersistentStoreWrite_steps (s : State) : Next (fun k => k ∈ [Part.out, Part.ink]) s (execPersistentStoreWrite s) := by
  unfold execPersistentStoreWrite
  repeat' with_reducible first | assumption | (intro (hh : Ink.shaped _); first | (simpa [Ink.shaped, setAt, modAt, Ink.bankLost, Ink.takeToken] using hh; done) | (simp [Ink.shaped, setAt, modAt] at hh ⊢; omega)) | intro _ | exact Steps.refl _ _ | apply Next.done | apply State.operate_steps | apply State.mbDone_steps | apply State.modInk_steps | apply State.commitGo_steps | split | dsimp only | decide

theorem State.bankWrite_steps {mu : Part → Prop} (mink : mu .ink) {org s : State} (ho : Steps mu org s) (c : Commit) : Steps mu org (State.bankWrite s c) := by
  unfold State.bankWrite
  lift_lets
  intro z0; try clear_value z0
  intro z1; try clear_value z1
  intro z2; try clear_value z2
  repeat' with_reducible first | assumption | (intro (hh : Ink.shaped _); first | (simpa [Ink.shaped, setAt, modAt, Ink.bankLost, Ink.takeToken] using hh; done) | (simp [Ink.shaped, setAt, modAt] at hh ⊢; omega)) | intro _ | apply State.modInk_steps

theorem State.committed_steps {mu : Part → Prop} (mhbm : mu .hbm) (mfree : mu .free) (mout : mu .out) (mpins : mu .pins) (mreck : mu .reck) (mmot : mu .mot) (mpak : mu .pak) (mary : mu .ary) (mfab : mu .fab) (mmem : mu .mem) (mdma : mu .dma) (mnet : mu .net) (mink : mu .ink) (mpwr : mu .pwr) {org s : State} (ho : Steps mu org s) (c : Commit) : Steps mu org (State.committed s c) := by
  unfold State.committed
  lift_lets
  intro z0
  have hz0 : Steps mu org z0 := by
    dsimp only [z0]
    repeat' with_reducible first | assumption | apply State.custodyApply_steps | apply State.wr_steps
  try clear_value z0
  repeat' with_reducible first | assumption | (intro (hh : Ink.shaped _); first | (simpa [Ink.shaped, setAt, modAt, Ink.bankLost, Ink.takeToken] using hh; done) | (simp [Ink.shaped, setAt, modAt] at hh ⊢; omega)) | intro _ | apply Steps.ite | apply State.mbDone_steps | apply State.modResetGo_steps | apply State.wrs_steps | apply State.modInk_steps | split

theorem execStoreCommitComplete_steps (verified : Bool) (s : State) : Next (fun k => k ∈ [Part.hbm, Part.free, Part.out, Part.pins, Part.reck, Part.mot, Part.pak, Part.ary, Part.fab, Part.mem, Part.dma, Part.net, Part.ink, Part.pwr]) s (execStoreCommitComplete verified s) := by
  unfold execStoreCommitComplete
  lift_lets
  intro z0
  have hz0 : Steps (fun k => k ∈ [Part.hbm, Part.free, Part.out, Part.pins, Part.reck, Part.mot, Part.pak, Part.ary, Part.fab, Part.mem, Part.dma, Part.net, Part.ink, Part.pwr]) s z0 := by
    dsimp only [z0]
    repeat' with_reducible first | (intro (hh : Ink.shaped _); first | (simpa [Ink.shaped, setAt, modAt, Ink.bankLost, Ink.takeToken] using hh; done) | (simp [Ink.shaped, setAt, modAt] at hh ⊢; omega)) | intro _ | exact Steps.refl _ _ | apply State.modInk_steps | decide
  try clear_value z0
  intro z1
  try dsimp -zeta -zetaHave only [z1]
  intro z2
  have hz2 : Steps (fun k => k ∈ [Part.hbm, Part.free, Part.out, Part.pins, Part.reck, Part.mot, Part.pak, Part.ary, Part.fab, Part.mem, Part.dma, Part.net, Part.ink, Part.pwr]) s z2 := by
    dsimp only [z2]
    repeat' with_reducible first | (intro (hh : Ink.shaped _); first | (simpa [Ink.shaped, setAt, modAt, Ink.bankLost, Ink.takeToken] using hh; done) | (simp [Ink.shaped, setAt, modAt] at hh ⊢; omega)) | intro _ | exact Steps.refl _ _ | apply State.modInk_steps | decide
  try clear_value z2
  repeat' with_reducible first | assumption | (intro (hh : Ink.shaped _); first | (simpa [Ink.shaped, setAt, modAt, Ink.bankLost, Ink.takeToken] using hh; done) | (simp [Ink.shaped, setAt, modAt] at hh ⊢; omega)) | intro _ | exact Steps.refl _ _ | apply Next.done | apply Next.ite | apply State.commitNext_steps | apply State.committed_steps | apply State.bankWrite_steps | apply State.modInk_steps | apply State.mbDone_steps | split | apply Steps.ink | decide

theorem execCommitTokenGain_steps (s : State) : Next (fun k => k ∈ [Part.ink]) s (execCommitTokenGain s) := by
  unfold execCommitTokenGain
  repeat' with_reducible first | (intro (hh : Ink.shaped _); first | (simpa [Ink.shaped, setAt, modAt, Ink.bankLost, Ink.takeToken] using hh; done) | (simp [Ink.shaped, setAt, modAt] at hh ⊢; omega)) | intro _ | exact Steps.refl _ _ | apply Next.done | apply Next.ite | apply State.commitNext_steps | apply State.modInk_steps | decide

theorem execLifeCycleRequest_steps (s : State) : Next (fun k => k ∈ [Part.hbm, Part.free, Part.out, Part.reck, Part.mem, Part.dma, Part.ink]) s (execLifeCycleRequest s) := by
  unfold execLifeCycleRequest
  lift_lets
  intro z0; try clear_value z0
  repeat' with_reducible first | (intro (hh : Ink.shaped _); first | (simpa [Ink.shaped, setAt, modAt, Ink.bankLost, Ink.takeToken] using hh; done) | (simp [Ink.shaped, setAt, modAt] at hh ⊢; omega)) | intro _ | exact Steps.refl _ _ | apply Next.done | apply Next.ite | apply State.mbDone_steps | apply State.raise_steps | apply State.wrs_steps | apply State.transit_steps | apply State.modInk_steps | apply State.wr_steps | split | decide

theorem execWipeComplete_steps (s : State) : Next (fun k => k ∈ [Part.out, Part.ink]) s (execWipeComplete s) := by
  unfold execWipeComplete
  lift_lets
  intro z0; try clear_value z0
  intro z1; try clear_value z1
  intro z2; try clear_value z2
  intro z3; try clear_value z3
  intro z4
  try dsimp -zeta -zetaHave only [z4]
  intro z5; try clear_value z5
  intro z6
  try dsimp -zeta -zetaHave only [z6]
  intro z7; try clear_value z7
  intro z8
  have hz8 : Steps (fun k => k ∈ [Part.out, Part.ink]) s z8 := by
    dsimp only [z8]
    repeat' with_reducible first | (intro (hh : Ink.shaped _); first | (simpa [Ink.shaped, setAt, modAt, Ink.bankLost, Ink.takeToken] using hh; done) | (simp [Ink.shaped, setAt, modAt] at hh ⊢; omega)) | exact Steps.refl _ _ | split | dsimp only | apply Steps.ink | decide
  try clear_value z8
  repeat' with_reducible first | assumption | exact Steps.refl _ _ | apply Next.done | apply Next.ite | apply State.commitGo_steps | apply State.raise_steps | apply State.wrs_steps | decide

theorem execFirmwareStage_steps (signed : Bool) (version : Sys2Proof.Word) (security : Sys2Proof.Word) (verified : Bool) (s : State) : Next (fun k => k ∈ [Part.out, Part.ink]) s (execFirmwareStage signed version security verified s) := by
  unfold execFirmwareStage
  repeat' with_reducible first | assumption | (intro (hh : Ink.shaped _); first | (simpa [Ink.shaped, setAt, modAt, Ink.bankLost, Ink.takeToken] using hh; done) | (simp [Ink.shaped, setAt, modAt] at hh ⊢; omega)) | intro _ | exact Steps.refl _ _ | apply Next.done | apply State.operate_steps | apply State.mbDone_steps | apply State.modInk_steps | split | dsimp only | decide

theorem execFirmwareCommit_steps (s : State) : Next (fun k => k ∈ [Part.hbm, Part.out, Part.reck, Part.mot, Part.ing, Part.alc, Part.pak, Part.ary, Part.fab, Part.mem, Part.led, Part.dma, Part.tim, Part.net, Part.ink, Part.chk]) s (execFirmwareCommit s) := by
  unfold execFirmwareCommit
  repeat' with_reducible first | assumption | (intro (hh : Ink.shaped _); first | (simpa [Ink.shaped, setAt, modAt, Ink.bankLost, Ink.takeToken] using hh; done) | (simp [Ink.shaped, setAt, modAt] at hh ⊢; omega)) | intro _ | exact Steps.refl _ _ | apply Next.done | apply State.operate_steps | apply State.mbDone_steps | apply State.modInk_steps | apply State.inkRestart_steps | split | decide

theorem execFirmwareConfirmed_steps (s : State) : Next (fun k => k ∈ [Part.ink]) s (execFirmwareConfirmed s) := by
  unfold execFirmwareConfirmed
  repeat' with_reducible first | (intro (hh : Ink.shaped _); first | (simpa [Ink.shaped, setAt, modAt, Ink.bankLost, Ink.takeToken] using hh; done) | (simp [Ink.shaped, setAt, modAt] at hh ⊢; omega)) | intro _ | exact Steps.refl _ _ | apply Next.done | apply Next.ite | apply State.commitGo_steps | apply State.modInk_steps | decide

theorem State.watchdog_steps {mu : Part → Prop} (mhbm : mu .hbm) (mout : mu .out) (mreck : mu .reck) (mmot : mu .mot) (ming : mu .ing) (malc : mu .alc) (mpak : mu .pak) (mary : mu .ary) (mfab : mu .fab) (mmem : mu .mem) (mled : mu .led) (mdma : mu .dma) (mtim : mu .tim) (mnet : mu .net) (mink : mu .ink) (mchk : mu .chk) (mpwr : mu .pwr) {org s : State} (ho : Steps mu org s) (now : ℤ) : Steps mu org (State.watchdog s now) := by
  unfold State.watchdog
  lift_lets
  intro z0; try clear_value z0
  intro z1
  have hz1 : Steps mu org z1 := by
    dsimp only [z1]
    repeat' with_reducible first | assumption | apply State.modPwr_steps
  try clear_value z1
  intro z2
  have hz2 : Steps mu org z2 := by
    dsimp only [z2]
    repeat' with_reducible first | assumption | (intro (hh : Ink.shaped _); first | (simpa [Ink.shaped, setAt, modAt, Ink.bankLost, Ink.takeToken] using hh; done) | (simp [Ink.shaped, setAt, modAt] at hh ⊢; omega)) | intro _ | apply Steps.ite | apply State.modInk_steps
  try clear_value z2
  repeat' with_reducible first | assumption | apply Steps.ite | apply State.modPwr_steps | apply State.setFault_steps | apply State.inkDown_steps | apply State.inkRestart_steps

theorem execInnkeeperWatchdog_steps (now : ℤ) (s : State) : Next (fun k => k ∈ [Part.hbm, Part.out, Part.reck, Part.mot, Part.ing, Part.alc, Part.pak, Part.ary, Part.fab, Part.mem, Part.led, Part.dma, Part.tim, Part.net, Part.ink, Part.chk, Part.pwr]) s (execInnkeeperWatchdog now s) := by
  unfold execInnkeeperWatchdog
  repeat' with_reducible first | exact Steps.refl _ _ | apply Next.done | apply State.watchdog_steps | split | decide

theorem execFirmwareFallback_steps (now : ℤ) (s : State) : Next (fun k => k ∈ [Part.hbm, Part.out, Part.reck, Part.mot, Part.ing, Part.alc, Part.pak, Part.ary, Part.fab, Part.mem, Part.led, Part.dma, Part.tim, Part.net, Part.ink, Part.chk, Part.pwr]) s (execFirmwareFallback now s) := by
  unfold execFirmwareFallback
  repeat' with_reducible first | exact Steps.refl _ _ | apply Next.done | apply State.watchdog_steps | split | decide

theorem execInnkeeperRestartComplete_steps (s : State) : Next (fun k => k ∈ [Part.out, Part.pins, Part.reck, Part.mot, Part.pak, Part.ary, Part.fab, Part.net, Part.ink, Part.pwr]) s (execInnkeeperRestartComplete s) := by
  unfold execInnkeeperRestartComplete
  lift_lets
  intro z0
  have hz0 : Steps (fun k => k ∈ [Part.out, Part.pins, Part.reck, Part.mot, Part.pak, Part.ary, Part.fab, Part.net, Part.ink, Part.pwr]) s z0 := by
    dsimp only [z0]
    repeat' with_reducible first | exact Steps.refl _ _ | apply State.commitNext_steps | apply State.setRunning_steps | apply State.wrs_steps | decide
  try clear_value z0
  repeat' with_reducible first | assumption | (intro (hh : Ink.shaped _); first | (simpa [Ink.shaped, setAt, modAt, Ink.bankLost, Ink.takeToken] using hh; done) | (simp [Ink.shaped, setAt, modAt] at hh ⊢; omega)) | intro _ | exact Steps.refl _ _ | apply Next.done | apply Next.ite | apply State.modResetGo_steps | apply State.modInk_steps | split | decide

theorem execEepromReadRetry_steps (s : State) : Next (fun k => k ∈ [Part.ink]) s (execEepromReadRetry s) := by
  unfold execEepromReadRetry
  repeat' with_reducible first | (intro (hh : Ink.shaped _); first | (simpa [Ink.shaped, setAt, modAt, Ink.bankLost, Ink.takeToken] using hh; done) | (simp [Ink.shaped, setAt, modAt] at hh ⊢; omega)) | intro _ | exact Steps.refl _ _ | apply Next.done | apply State.modInk_steps | split | decide

theorem State.loadStore_steps {mu : Part → Prop} (mout : mu .out) (mreck : mu .reck) (mink : mu .ink) {org s : State} (ho : Steps mu org s)  : Steps mu org (State.loadStore s) := by
  unfold State.loadStore
  lift_lets
  intro z0
  try dsimp -zeta -zetaHave only [z0]
  intro z1; try clear_value z1
  intro z2; try clear_value z2
  intro z3; try clear_value z3
  intro z4
  have hz4 : Steps mu org z4 := by
    dsimp only [z4]
    repeat' with_reducible first | assumption | (intro (hh : Ink.shaped _); first | (simpa [Ink.shaped, setAt, modAt, Ink.bankLost, Ink.takeToken] using hh; done) | (simp [Ink.shaped, setAt, modAt] at hh ⊢; omega)) | intro _ | apply State.modInk_steps
  try clear_value z4
  intro z5
  have hz5 : Steps mu org z5 := by
    dsimp only [z5]
    repeat' with_reducible first | assumption | apply Steps.ite | apply State.setFault_steps
  try clear_value z5
  repeat' with_reducible first | assumption | apply State.wrs_steps

theorem State.restoreMaps_steps {mu : Part → Prop} (mmem : mu .mem) {org s : State} (ho : Steps mu org s)  : Steps mu org (State.restoreMaps s) := by
  unfold State.restoreMaps
  lift_lets
  intro z0; try clear_value z0
  intro z1
  have hz1 : Steps mu org z1 := by
    dsimp only [z1]
    repeat' with_reducible first | assumption | intro _ | apply Steps.foldl | apply State.wrs_steps
  try clear_value z1
  repeat' with_reducible first | assumption | (intro (hh : MemCtl.shaped _); first | (simpa [MemCtl.shaped, setAt, modAt] using hh; done) | (simp [MemCtl.shaped, setAt, modAt] at hh ⊢; omega)) | intro _ | apply Steps.foldl | apply State.spareShow_steps | apply State.modMem_steps

theorem execInnkeeperBootComplete_steps (eeprom : Option (List Sys2Proof.Byte)) (slotOk : Bool) (s : State) : Next (fun k => k ∈ [Part.hbm, Part.free, Part.out, Part.pins, Part.reck, Part.mot, Part.pak, Part.ary, Part.fab, Part.mem, Part.dma, Part.net, Part.ink, Part.pwr]) s (execInnkeeperBootComplete eeprom slotOk s) := by
  unfold execInnkeeperBootComplete
  lift_lets
  intro z0; try clear_value z0
  intro z1; try clear_value z1
  intro z2
  have hz2 : Steps (fun k => k ∈ [Part.hbm, Part.free, Part.out, Part.pins, Part.reck, Part.mot, Part.pak, Part.ary, Part.fab, Part.mem, Part.dma, Part.net, Part.ink, Part.pwr]) s z2 := by
    dsimp only [z2]
    repeat' with_reducible first | (intro (hh : Ink.shaped _); first | (simpa [Ink.shaped, setAt, modAt, Ink.bankLost, Ink.takeToken] using hh; done) | (simp [Ink.shaped, setAt, modAt] at hh ⊢; omega)) | intro _ | exact Steps.refl _ _ | apply State.phaseShow_steps | apply State.restoreMaps_steps | apply State.loadStore_steps | apply State.modInk_steps | decide
  try clear_value z2
  intro z3; try clear_value z3
  intro z4
  have hz4 : Steps (fun k => k ∈ [Part.hbm, Part.free, Part.out, Part.pins, Part.reck, Part.mot, Part.pak, Part.ary, Part.fab, Part.mem, Part.dma, Part.net, Part.ink, Part.pwr]) s z4 := by
    dsimp only [z4]
    repeat' with_reducible first | assumption | (intro (hh : Ink.shaped _); first | (simpa [Ink.shaped, setAt, modAt, Ink.bankLost, Ink.takeToken] using hh; done) | (simp [Ink.shaped, setAt, modAt] at hh ⊢; omega)) | intro _ | apply State.modInk_steps | decide
  try clear_value z4
  intro z5
  have hz5 : Steps (fun k => k ∈ [Part.hbm, Part.free, Part.out, Part.pins, Part.reck, Part.mot, Part.pak, Part.ary, Part.fab, Part.mem, Part.dma, Part.net, Part.ink, Part.pwr]) s z5 := by
    dsimp only [z5]
    repeat' with_reducible first | assumption | apply Steps.ite | apply State.raise_steps | decide
  try clear_value z5
  intro z6
  have hz6 : Steps (fun k => k ∈ [Part.hbm, Part.free, Part.out, Part.pins, Part.reck, Part.mot, Part.pak, Part.ary, Part.fab, Part.mem, Part.dma, Part.net, Part.ink, Part.pwr]) s z6 := by
    dsimp only [z6]
    repeat' with_reducible first | assumption | apply Steps.ite | apply State.wrs_steps
  try clear_value z6
  intro z7
  have hz7 : Steps (fun k => k ∈ [Part.hbm, Part.free, Part.out, Part.pins, Part.reck, Part.mot, Part.pak, Part.ary, Part.fab, Part.mem, Part.dma, Part.net, Part.ink, Part.pwr]) s z7 := by
    dsimp only [z7]
    repeat' with_reducible first | assumption | apply State.modPwr_steps | apply State.custodyApply_steps | apply State.wr_steps | decide
  try clear_value z7
  intro z8
  have hz8 : Steps (fun k => k ∈ [Part.hbm, Part.free, Part.out, Part.pins, Part.reck, Part.mot, Part.pak, Part.ary, Part.fab, Part.mem, Part.dma, Part.net, Part.ink, Part.pwr]) s z8 := by
    dsimp only [z8]
    repeat' with_reducible first | assumption | apply State.releaseShow_steps | apply State.releaseAll_steps | decide
  try clear_value z8
  repeat' with_reducible first | assumption | exact Steps.refl _ _ | apply Next.done | apply Next.ite | apply State.modResetGo_steps | split | decide

theorem execInnkeeperBootTimeout_steps (s : State) : Next (fun k => k ∈ [Part.out, Part.pwr]) s (execInnkeeperBootTimeout s) := by
  unfold execInnkeeperBootTimeout
  lift_lets
  intro z0
  have hz0 : Steps (fun k => k ∈ [Part.out, Part.pwr]) s z0 := by
    dsimp only [z0]
    repeat' with_reducible first | exact Steps.refl _ _ | apply State.modPwr_steps | apply State.raise_steps | apply State.wrs_steps | decide
  try clear_value z0
  repeat' with_reducible first | assumption | exact Steps.refl _ _ | apply Next.done | apply Next.ite | apply State.releaseShow_steps | apply State.releaseAll_steps | decide

theorem execCalibrationSave_steps (s : State) : Next (fun k => k ∈ [Part.hbm, Part.out, Part.mem]) s (execCalibrationSave s) := by
  unfold execCalibrationSave
  repeat' with_reducible first | assumption | intro _ | exact Steps.refl _ _ | apply Next.done | apply State.operate_steps | apply State.mbDone_steps | apply State.hbmStore_steps | split | decide

theorem State.applyLanes_steps {mu : Part → Prop} (mpak : mu .pak) {org s : State} (ho : Steps mu org s) (img : List Sys2Proof.Byte) : Steps mu org (State.applyLanes s img) := by
  unfold State.applyLanes
  repeat' with_reducible first | assumption | intro _ | apply Steps.foldl | apply Steps.ite | apply State.wr_steps | apply State.modLane_steps | apply State.eyeShow_steps

theorem State.applyReceivers_steps {mu : Part → Prop} (mpak : mu .pak) {org s : State} (ho : Steps mu org s) (img : List Sys2Proof.Byte) : Steps mu org (State.applyReceivers s img) := by
  unfold State.applyReceivers
  lift_lets
  intro z0
  have hz0 : Steps mu org z0 := by
    dsimp only [z0]
    repeat' with_reducible first | assumption | intro _ | apply Steps.foldl | apply State.wrs_steps
  try clear_value z0
  intro z1
  have hz1 : Steps mu org z1 := by
    dsimp only [z1]
    repeat' with_reducible first | assumption | intro _ | apply Steps.foldl | apply State.wr_steps
  try clear_value z1
  repeat' with_reducible first | assumption | (intro (hh : Pak.shaped _); first | (simpa [Pak.shaped, setAt, modAt] using hh; done) | (simp [Pak.shaped, setAt, modAt] at hh ⊢; omega)) | intro _ | apply State.modPak_steps

theorem State.applyBeams_steps {mu : Part → Prop} {org s : State} (ho : Steps mu org s) (img : List Sys2Proof.Byte) : Steps mu org (State.applyBeams s img) := by
  unfold State.applyBeams
  lift_lets
  intro z0; try clear_value z0
  repeat' with_reducible first | assumption | intro _ | apply Steps.foldl | apply State.wrs_steps

theorem State.restoreParts_steps {org t : State} (h : Steps (fun k => k ∈ [Part.out, Part.pak]) org t) (img : List Byte) (sec : Nat) : Steps (fun k => k ∈ [Part.out, Part.pak]) org (match t.calRefusal img sec ((t.arg 2).testBit 8) with
    | some d => t.mbDone 4 [d]
    | none =>
      let t := if sec.testBit 2 then t.applyBeams img else t
      let u := if sec.testBit 0 then t.applyLanes img else t
      (if sec.testBit 1 then u.applyReceivers img else u).mbDone 0 [0]) := by
  split
  · exact State.mbDone_steps (by decide) h _ _
  · refine State.mbDone_steps (by decide) (Steps.ite (State.applyReceivers_steps (by decide) ?_ _) ?_) _ _ <;>
      exact Steps.ite (State.applyLanes_steps (by decide) (Steps.ite (State.applyBeams_steps h _) h) _) (Steps.ite (State.applyBeams_steps h _) h)

theorem execCalibrationRestore_steps (s : State) : Next (fun k => k ∈ [Part.out, Part.pak]) s (execCalibrationRestore s) := by
  unfold execCalibrationRestore
  apply Next.done
  apply State.operate_steps (by decide) (Steps.refl _ s)
  intro r t h
  exact Steps.ite (State.mbDone_steps (by decide) h _ _) (State.restoreParts_steps h _ _)

end Sys2Proof.Machine
end

