-- ==== Sys2Proof/Laws/StepsAccess.lean ====
section
/-!
SUPPORT. What each operation and each meaning of Ethernet, reckoning, time and register access can change.
-/
set_option linter.all false
open Sys2Proof (Agent)

namespace Sys2Proof.Machine

theorem State.sendPause_steps {mu : Part → Prop} (mout : mu .out) {org s : State} (ho : Steps mu org s) (n : ℕ) (quanta : ℕ) : Steps mu org (State.sendPause s n quanta) := by
  unfold State.sendPause
  repeat' with_reducible first | assumption | intro _ | apply Steps.foldl | apply Steps.ite | apply State.emit_steps

theorem State.sendHeld_steps {mu : Part → Prop} (mout : mu .out) (mnet : mu .net) {org s : State} (ho : Steps mu org s) (n : ℕ) : Steps mu org (State.sendHeld s n) := by
  unfold State.sendHeld
  lift_lets
  intro z0; try clear_value z0
  intro z1; try clear_value z1
  intro z2
  have hz2 : Steps mu org z2 := by
    dsimp only [z2]
    repeat' with_reducible first | assumption | apply State.modNet_steps
  try clear_value z2
  repeat' with_reducible first | assumption | intro _ | apply Steps.foldl | apply State.etherOut_steps

theorem State.pauseIn_steps {mu : Part → Prop} (mout : mu .out) (mnet : mu .net) {org s : State} (ho : Steps mu org s) (n : ℕ) (sub : ℕ) (quanta : ℕ) : Steps mu org (State.pauseIn s n sub quanta) := by
  unfold State.pauseIn
  repeat' with_reducible first | assumption | apply State.sendHeld_steps | apply State.modNet_steps

theorem State.setPfc_steps {mu : Part → Prop} (mout : mu .out) (mnet : mu .net) {org s : State} (ho : Steps mu org s) (n : ℕ) (sub : ℕ) (mask : ℕ) : Steps mu org (State.setPfc s n sub mask) := by
  unfold State.setPfc
  repeat' with_reducible first | assumption | apply State.sendHeld_steps | apply State.modNet_steps

theorem State.pfcIn_steps {mu : Part → Prop} (mout : mu .out) (mnet : mu .net) {org s : State} (ho : Steps mu org s) (n : ℕ) (sub : ℕ) (p : List Sys2Proof.Byte) : Steps mu org (State.pfcIn s n sub p) := by
  unfold State.pfcIn
  repeat' with_reducible first | assumption | apply State.setPfc_steps

theorem State.macControlIn_steps {mu : Part → Prop} (mout : mu .out) (mnet : mu .net) {org s : State} (ho : Steps mu org s) (n : ℕ) (sub : ℕ) (p : List Sys2Proof.Byte) : Steps mu org (State.macControlIn s n sub p) := by
  unfold State.macControlIn
  lift_lets
  intro z0; try clear_value z0
  intro z1
  have hz1 : ∀ r t, Steps mu r t → Steps mu r (z1 t) := by
    dsimp only [z1]
    repeat' with_reducible first | assumption | intro _ | apply State.raise_steps | apply State.satInc_steps
  try clear_value z1
  repeat' with_reducible first | assumption | apply Steps.ite | apply State.pauseIn_steps | apply State.pfcIn_steps | apply hz1

theorem execPauseQuantaExpiry_steps (n : BitVec 1) (sub : BitVec 2) (priority : Option (BitVec 3)) (s : State) : Next (fun k => k ∈ [Part.out, Part.net]) s (execPauseQuantaExpiry n sub priority s) := by
  unfold execPauseQuantaExpiry
  repeat' with_reducible first | exact Steps.refl _ _ | apply Next.done | apply State.pauseIn_steps | apply State.setPfc_steps | split | decide

theorem execReceiveBufferDrain_steps (n : BitVec 1) (s : State) : Next (fun k => k ∈ [Part.out, Part.net]) s (execReceiveBufferDrain n s) := by
  unfold execReceiveBufferDrain
  repeat' with_reducible first | exact Steps.refl _ _ | apply Next.done | apply State.sendPause_steps | apply State.modNet_steps | split | decide

theorem State.rxPut_steps {mu : Part → Prop} (mhbm : mu .hbm) (mfree : mu .free) (mout : mu .out) (mreck : mu .reck) (mmem : mu .mem) {org s : State} (ho : Steps mu org s) (n : ℕ) (sub : ℕ) (ptp : Bool) (tagged : Bool) (frame : List Sys2Proof.Byte) (stamp : ℕ) : Steps mu org (State.rxPut s n sub ptp tagged frame stamp) := by
  unfold State.rxPut
  lift_lets
  intro z0; try clear_value z0
  repeat' with_reducible first | assumption | apply Steps.ite | apply State.satInc_steps | apply State.raise_steps | apply State.wr_steps | apply State.memWrite_steps

theorem execRxrIdxWrite_steps (agent : Sys2Proof.Agent) (n : BitVec 1) (rd : BitVec 6) (s : State) : Next (fun k => k ∈ [Part.out, Part.reck]) s (execRxrIdxWrite agent n rd s) := by
  unfold execRxrIdxWrite
  repeat' with_reducible first | assumption | intro _ | exact Steps.refl _ _ | apply Next.done | apply State.access_steps | apply State.wr_steps | decide

theorem execTxrIdxWrite_steps (agent : Sys2Proof.Agent) (n : BitVec 1) (wr : BitVec 6) (s : State) : Next (fun k => k ∈ [Part.out, Part.reck]) s (execTxrIdxWrite agent n wr s) := by
  unfold execTxrIdxWrite
  repeat' with_reducible first | assumption | intro _ | exact Steps.refl _ _ | apply Next.done | apply State.access_steps | apply State.wr_steps | decide

theorem State.txDone_steps {mu : Part → Prop} (mhbm : mu .hbm) (mfree : mu .free) (mout : mu .out) (mreck : mu .reck) (mmem : mu .mem) {org s : State} (ho : Steps mu org s) (n : ℕ) (flags : ℕ) (stamp : ℕ) (late : Bool) : Steps mu org (State.txDone s n flags stamp late) := by
  unfold State.txDone
  lift_lets
  intro z0; try clear_value z0
  repeat' with_reducible first | assumption | apply State.raiseIf_steps | apply State.raise_steps | apply State.wr_steps | apply State.memWrite_steps

theorem execTxRingEntrySend_steps (n : BitVec 1) (head sent : BitVec 64) (held : Bool) (s : State) :
    Next (fun k => k ∈ [Part.hbm, Part.free, Part.out, Part.reck, Part.mem, Part.net]) s (execTxRingEntrySend n head sent held s) := by
  have h1 : ∀ a, Steps (fun k => k ∈ [Part.hbm, Part.free, Part.out, Part.reck, Part.mem, Part.net]) s (s.hbmGet a 32).2 := fun a => State.hbmGet_steps (by decide) (by decide) (by decide) (by decide) (by decide) (Steps.refl _ s) a 32
  have h2 : ∀ a b l, Steps (fun k => k ∈ [Part.hbm, Part.free, Part.out, Part.reck, Part.mem, Part.net]) s ((s.hbmGet a 32).2.hbmGet b l).2 := fun a b l => State.hbmGet_steps (by decide) (by decide) (by decide) (by decide) (by decide) (h1 a) b l
  have hu : ∀ (t : State) (flags : Nat) (l : Bool), Steps (fun k => k ∈ [Part.hbm, Part.free, Part.out, Part.reck, Part.mem, Part.net]) s t → Steps (fun k => k ∈ [Part.hbm, Part.free, Part.out, Part.reck, Part.mem, Part.net]) s (t.draw.2.txDone n.toNat flags t.draw.1 l) :=
    fun t f l h => State.txDone_steps (by decide) (by decide) (by decide) (by decide) (by decide) (State.draw_steps (by decide) h) _ _ _ _
  unfold execTxRingEntrySend
  refine Next.ite (Next.done (Steps.refl _ s)) (Next.ite (Next.done (hu _ _ _ (h1 _))) (Next.ite (Next.done (hu _ _ _ (h2 _ _ _)))
    (Next.ite (Next.done (hu _ _ _ (h2 _ _ _))) (Next.ite (Next.done (Steps.refl _ s)) (Next.done (State.txDone_steps (by decide) (by decide) (by decide) (by decide) (by decide) (State.etherOut_steps (by decide) (by decide) (h2 _ _ _) _ _ _ _) _ _ _ _))))))

theorem State.ptpForward_steps {mu : Part → Prop} (mout : mu .out) (mnet : mu .net) {org s : State} (ho : Steps mu org s) (n : ℕ) (f : List Sys2Proof.Byte) (o : ℕ) (recv : ℕ) (sent : ℕ) : Steps mu org (State.ptpForward s n f o recv sent) := by
  unfold State.ptpForward
  lift_lets
  intro z0; try clear_value z0
  intro z1
  have hz1 : Steps mu org z1 := by
    dsimp only [z1]
    repeat' with_reducible first | assumption | apply State.wrapInc_steps
  try clear_value z1
  intro z2; try clear_value z2
  repeat' with_reducible first | assumption | apply Steps.ite | apply State.etherOut_steps | apply State.raise_steps | apply State.satInc_steps

theorem State.fabResetIn_steps {mu : Part → Prop} (mhbm : mu .hbm) (mout : mu .out) (mpins : mu .pins) (mreck : mu .reck) (mmot : mu .mot) (ming : mu .ing) (malc : mu .alc) (mpak : mu .pak) (mary : mu .ary) (mfab : mu .fab) (mmem : mu .mem) (mled : mu .led) (mdma : mu .dma) (mtim : mu .tim) (mnet : mu .net) (mink : mu .ink) (mchk : mu .chk) (mpwr : mu .pwr) {org s : State} (ho : Steps mu org s) (p : List Sys2Proof.Byte) : Steps mu org (State.fabResetIn s p) := by
  unfold State.fabResetIn
  repeat' with_reducible first | assumption | apply Steps.ite | apply State.modResetGo_steps | apply State.inkRestart_steps | apply State.fabDrop_steps

theorem State.fabricConsume_steps {mu : Part → Prop} (mhbm : mu .hbm) (mfree : mu .free) (mout : mu .out) (mpins : mu .pins) (mreck : mu .reck) (mmot : mu .mot) (ming : mu .ing) (malc : mu .alc) (mpak : mu .pak) (mary : mu .ary) (mfab : mu .fab) (mmem : mu .mem) (mled : mu .led) (mdma : mu .dma) (mtim : mu .tim) (mnet : mu .net) (mink : mu .ink) (mchk : mu .chk) (mpwr : mu .pwr) {org s : State} (ho : Steps mu org s) (v : FabArrival) (f : List Sys2Proof.Byte) : Steps mu org (State.fabricConsume s v f) := by
  unfold State.fabricConsume
  lift_lets
  intro z0; try clear_value z0
  intro z1; try clear_value z1
  repeat' with_reducible first | assumption | apply State.helloIn_steps | apply State.lsaIn_steps | apply State.reckon_steps | apply State.reckData_steps | apply State.shareReq_steps | apply State.shareRsp_steps | apply State.lxportIn_steps | apply State.densIn_steps | apply State.densEndIn_steps | apply State.densNakIn_steps | apply State.mapCrcIn_steps | apply State.treqIn_steps | apply State.trspIn_steps | apply State.mstatIn_steps | apply State.fstatIn_steps | apply State.hreqIn_steps | apply State.planIn_steps | apply State.fabResetIn_steps | split

theorem State.fabricTake_steps {mu : Part → Prop} (mhbm : mu .hbm) (mfree : mu .free) (mout : mu .out) (mpins : mu .pins) (mreck : mu .reck) (mmot : mu .mot) (ming : mu .ing) (malc : mu .alc) (mpak : mu .pak) (mary : mu .ary) (mfab : mu .fab) (mmem : mu .mem) (mled : mu .led) (mdma : mu .dma) (mtim : mu .tim) (mnet : mu .net) (mink : mu .ink) (mchk : mu .chk) (mpwr : mu .pwr) {org s : State} (ho : Steps mu org s) (v : FabArrival) (f : List Sys2Proof.Byte) : Steps mu org (State.fabricTake s v f) := by
  unfold State.fabricTake
  lift_lets
  intro z0
  have hz0 : Steps mu org z0 := by
    dsimp only [z0]
    repeat' with_reducible first | assumption | apply State.fabricForward_steps
  try clear_value z0
  repeat' with_reducible first | assumption | apply Steps.ite | apply State.fabDrop_steps | apply State.fabricConsume_steps

theorem State.fabricKind_steps {mu : Part → Prop} (mhbm : mu .hbm) (mfree : mu .free) (mout : mu .out) (mpins : mu .pins) (mreck : mu .reck) (mmot : mu .mot) (ming : mu .ing) (malc : mu .alc) (mpak : mu .pak) (mary : mu .ary) (mfab : mu .fab) (mmem : mu .mem) (mled : mu .led) (mdma : mu .dma) (mtim : mu .tim) (mnet : mu .net) (mink : mu .ink) (mchk : mu .chk) (mpwr : mu .pwr) {org s : State} (ho : Steps mu org s) (kind : ℕ) (v : FabArrival) (f : List Sys2Proof.Byte) : Steps mu org (State.fabricKind s kind v f) := by
  unfold State.fabricKind
  repeat' with_reducible first | assumption | apply Steps.ite | apply State.fabricTake_steps

theorem execFabricFrameForward_steps (link : BitVec 3) (frame : List Sys2Proof.Byte) (s : State) : Next (fun k => k ∈ [Part.out, Part.net]) s (execFabricFrameForward link frame s) := by
  unfold execFabricFrameForward
  repeat' with_reducible first | exact Steps.refl _ _ | apply Next.done | apply State.fabDrop_steps | apply State.fabricForward_steps | split | decide

theorem execHelloFrame_steps (link : BitVec 3) (mac : BitVec 48) (frame : List Sys2Proof.Byte) (s : State) : Next (fun k => k ∈ [Part.hbm, Part.free, Part.out, Part.pins, Part.reck, Part.mot, Part.ing, Part.alc, Part.pak, Part.ary, Part.fab, Part.mem, Part.led, Part.dma, Part.tim, Part.net, Part.ink, Part.chk, Part.pwr]) s (execHelloFrame link mac frame s) := by
  unfold execHelloFrame
  repeat' with_reducible first | exact Steps.refl _ _ | apply Next.done | apply State.fabricKind_steps | decide

theorem execLsaFrame_steps (link : BitVec 3) (frame : List Sys2Proof.Byte) (s : State) : Next (fun k => k ∈ [Part.hbm, Part.free, Part.out, Part.pins, Part.reck, Part.mot, Part.ing, Part.alc, Part.pak, Part.ary, Part.fab, Part.mem, Part.led, Part.dma, Part.tim, Part.net, Part.ink, Part.chk, Part.pwr]) s (execLsaFrame link frame s) := by
  unfold execLsaFrame
  repeat' with_reducible first | exact Steps.refl _ _ | apply Next.done | apply State.fabricKind_steps | decide

theorem execReckReq_steps (link : BitVec 3) (frame : List Sys2Proof.Byte) (s : State) : Next (fun k => k ∈ [Part.hbm, Part.free, Part.out, Part.pins, Part.reck, Part.mot, Part.ing, Part.alc, Part.pak, Part.ary, Part.fab, Part.mem, Part.led, Part.dma, Part.tim, Part.net, Part.ink, Part.chk, Part.pwr]) s (execReckReq link frame s) := by
  unfold execReckReq
  repeat' with_reducible first | exact Steps.refl _ _ | apply Next.done | apply State.fabricKind_steps | decide

theorem execReckData_steps (link : BitVec 3) (frame : List Sys2Proof.Byte) (s : State) : Next (fun k => k ∈ [Part.hbm, Part.free, Part.out, Part.pins, Part.reck, Part.mot, Part.ing, Part.alc, Part.pak, Part.ary, Part.fab, Part.mem, Part.led, Part.dma, Part.tim, Part.net, Part.ink, Part.chk, Part.pwr]) s (execReckData link frame s) := by
  unfold execReckData
  repeat' with_reducible first | exact Steps.refl _ _ | apply Next.done | apply State.fabricKind_steps | decide

theorem execShareReq_steps (link : BitVec 3) (frame : List Sys2Proof.Byte) (s : State) : Next (fun k => k ∈ [Part.hbm, Part.free, Part.out, Part.pins, Part.reck, Part.mot, Part.ing, Part.alc, Part.pak, Part.ary, Part.fab, Part.mem, Part.led, Part.dma, Part.tim, Part.net, Part.ink, Part.chk, Part.pwr]) s (execShareReq link frame s) := by
  unfold execShareReq
  repeat' with_reducible first | exact Steps.refl _ _ | apply Next.done | apply State.fabricKind_steps | decide

theorem execShareRsp_steps (link : BitVec 3) (frame : List Sys2Proof.Byte) (s : State) : Next (fun k => k ∈ [Part.hbm, Part.free, Part.out, Part.pins, Part.reck, Part.mot, Part.ing, Part.alc, Part.pak, Part.ary, Part.fab, Part.mem, Part.led, Part.dma, Part.tim, Part.net, Part.ink, Part.chk, Part.pwr]) s (execShareRsp link frame s) := by
  unfold execShareRsp
  repeat' with_reducible first | exact Steps.refl _ _ | apply Next.done | apply State.fabricKind_steps | decide

theorem execLxport_steps (link : BitVec 3) (frame : List Sys2Proof.Byte) (s : State) : Next (fun k => k ∈ [Part.hbm, Part.free, Part.out, Part.pins, Part.reck, Part.mot, Part.ing, Part.alc, Part.pak, Part.ary, Part.fab, Part.mem, Part.led, Part.dma, Part.tim, Part.net, Part.ink, Part.chk, Part.pwr]) s (execLxport link frame s) := by
  unfold execLxport
  repeat' with_reducible first | exact Steps.refl _ _ | apply Next.done | apply State.fabricKind_steps | decide

theorem execDensFrame_steps (link : BitVec 3) (frame : List Sys2Proof.Byte) (s : State) : Next (fun k => k ∈ [Part.hbm, Part.free, Part.out, Part.pins, Part.reck, Part.mot, Part.ing, Part.alc, Part.pak, Part.ary, Part.fab, Part.mem, Part.led, Part.dma, Part.tim, Part.net, Part.ink, Part.chk, Part.pwr]) s (execDensFrame link frame s) := by
  unfold execDensFrame
  repeat' with_reducible first | exact Steps.refl _ _ | apply Next.done | apply State.fabricKind_steps | decide

theorem execDensEnd_steps (link : BitVec 3) (frame : List Sys2Proof.Byte) (s : State) : Next (fun k => k ∈ [Part.hbm, Part.free, Part.out, Part.pins, Part.reck, Part.mot, Part.ing, Part.alc, Part.pak, Part.ary, Part.fab, Part.mem, Part.led, Part.dma, Part.tim, Part.net, Part.ink, Part.chk, Part.pwr]) s (execDensEnd link frame s) := by
  unfold execDensEnd
  repeat' with_reducible first | exact Steps.refl _ _ | apply Next.done | apply State.fabricKind_steps | decide

theorem execDensNak_steps (link : BitVec 3) (frame : List Sys2Proof.Byte) (s : State) : Next (fun k => k ∈ [Part.hbm, Part.free, Part.out, Part.pins, Part.reck, Part.mot, Part.ing, Part.alc, Part.pak, Part.ary, Part.fab, Part.mem, Part.led, Part.dma, Part.tim, Part.net, Part.ink, Part.chk, Part.pwr]) s (execDensNak link frame s) := by
  unfold execDensNak
  repeat' with_reducible first | exact Steps.refl _ _ | apply Next.done | apply State.fabricKind_steps | decide

theorem execMapcrc_steps (link : BitVec 3) (frame : List Sys2Proof.Byte) (s : State) : Next (fun k => k ∈ [Part.hbm, Part.free, Part.out, Part.pins, Part.reck, Part.mot, Part.ing, Part.alc, Part.pak, Part.ary, Part.fab, Part.mem, Part.led, Part.dma, Part.tim, Part.net, Part.ink, Part.chk, Part.pwr]) s (execMapcrc link frame s) := by
  unfold execMapcrc
  repeat' with_reducible first | exact Steps.refl _ _ | apply Next.done | apply State.fabricKind_steps | decide

theorem execTreq_steps (link : BitVec 3) (recv : BitVec 64) (sent : BitVec 64) (frame : List Sys2Proof.Byte) (s : State) : Next (fun k => k ∈ [Part.hbm, Part.free, Part.out, Part.pins, Part.reck, Part.mot, Part.ing, Part.alc, Part.pak, Part.ary, Part.fab, Part.mem, Part.led, Part.dma, Part.tim, Part.net, Part.ink, Part.chk, Part.pwr]) s (execTreq link recv sent frame s) := by
  unfold execTreq
  repeat' with_reducible first | exact Steps.refl _ _ | apply Next.done | apply State.fabricKind_steps | decide

theorem execTrsp_steps (link : BitVec 3) (recv : BitVec 64) (frame : List Sys2Proof.Byte) (s : State) : Next (fun k => k ∈ [Part.hbm, Part.free, Part.out, Part.pins, Part.reck, Part.mot, Part.ing, Part.alc, Part.pak, Part.ary, Part.fab, Part.mem, Part.led, Part.dma, Part.tim, Part.net, Part.ink, Part.chk, Part.pwr]) s (execTrsp link recv frame s) := by
  unfold execTrsp
  repeat' with_reducible first | exact Steps.refl _ _ | apply Next.done | apply State.fabricKind_steps | decide

theorem execMstat_steps (link : BitVec 3) (frame : List Sys2Proof.Byte) (s : State) : Next (fun k => k ∈ [Part.hbm, Part.free, Part.out, Part.pins, Part.reck, Part.mot, Part.ing, Part.alc, Part.pak, Part.ary, Part.fab, Part.mem, Part.led, Part.dma, Part.tim, Part.net, Part.ink, Part.chk, Part.pwr]) s (execMstat link frame s) := by
  unfold execMstat
  repeat' with_reducible first | exact Steps.refl _ _ | apply Next.done | apply State.fabricKind_steps | decide

theorem execFstat_steps (link : BitVec 3) (frame : List Sys2Proof.Byte) (s : State) : Next (fun k => k ∈ [Part.hbm, Part.free, Part.out, Part.pins, Part.reck, Part.mot, Part.ing, Part.alc, Part.pak, Part.ary, Part.fab, Part.mem, Part.led, Part.dma, Part.tim, Part.net, Part.ink, Part.chk, Part.pwr]) s (execFstat link frame s) := by
  unfold execFstat
  repeat' with_reducible first | exact Steps.refl _ _ | apply Next.done | apply State.fabricKind_steps | decide

theorem execHreq_steps (link : BitVec 3) (frame : List Sys2Proof.Byte) (s : State) : Next (fun k => k ∈ [Part.hbm, Part.free, Part.out, Part.pins, Part.reck, Part.mot, Part.ing, Part.alc, Part.pak, Part.ary, Part.fab, Part.mem, Part.led, Part.dma, Part.tim, Part.net, Part.ink, Part.chk, Part.pwr]) s (execHreq link frame s) := by
  unfold execHreq
  repeat' with_reducible first | exact Steps.refl _ _ | apply Next.done | apply State.fabricKind_steps | decide

theorem execPlanFrame_steps (link : BitVec 3) (frame : List Sys2Proof.Byte) (s : State) : Next (fun k => k ∈ [Part.hbm, Part.free, Part.out, Part.pins, Part.reck, Part.mot, Part.ing, Part.alc, Part.pak, Part.ary, Part.fab, Part.mem, Part.led, Part.dma, Part.tim, Part.net, Part.ink, Part.chk, Part.pwr]) s (execPlanFrame link frame s) := by
  unfold execPlanFrame
  repeat' with_reducible first | exact Steps.refl _ _ | apply Next.done | apply State.fabricKind_steps | decide

theorem execFabricReset_steps (link : BitVec 3) (frame : List Sys2Proof.Byte) (s : State) : Next (fun k => k ∈ [Part.hbm, Part.free, Part.out, Part.pins, Part.reck, Part.mot, Part.ing, Part.alc, Part.pak, Part.ary, Part.fab, Part.mem, Part.led, Part.dma, Part.tim, Part.net, Part.ink, Part.chk, Part.pwr]) s (execFabricReset link frame s) := by
  unfold execFabricReset
  repeat' with_reducible first | exact Steps.refl _ _ | apply Next.done | apply State.fabricKind_steps | decide

theorem State.etherSort_steps {mu : Part → Prop} (mhbm : mu .hbm) (mfree : mu .free) (mout : mu .out) (mpins : mu .pins) (mreck : mu .reck) (mmot : mu .mot) (ming : mu .ing) (malc : mu .alc) (mpak : mu .pak) (mary : mu .ary) (mfab : mu .fab) (mmem : mu .mem) (mled : mu .led) (mdma : mu .dma) (mtim : mu .tim) (mnet : mu .net) (mink : mu .ink) (mchk : mu .chk) (mpwr : mu .pwr) {org s : State} (ho : Steps mu org s) (v : EtherArrival) (f : List Sys2Proof.Byte) (tagged : Bool) : Steps mu org (State.etherSort s v f tagged) := by
  unfold State.etherSort
  lift_lets
  intro z0; try clear_value z0
  intro z1; try clear_value z1
  intro z2; try clear_value z2
  intro z3; try clear_value z3
  intro z4; try clear_value z4
  intro z5; try clear_value z5
  intro z6
  have hz6 : Steps mu org z6 := by
    dsimp only [z6]
    repeat' with_reducible first | assumption | apply Steps.ite | apply State.rxPut_steps
  try clear_value z6
  repeat' with_reducible first | assumption | apply Steps.ite | apply State.macControlIn_steps | apply State.rxPut_steps | apply State.ptpForward_steps | apply State.xportFrame_steps | apply State.fabricTake_steps | apply State.satInc_steps

theorem State.bufferIn_steps {mu : Part → Prop} (mout : mu .out) (mnet : mu .net) {org s : State} (ho : Steps mu org s) (n : ℕ) (fill : ℕ) : Steps mu org (State.bufferIn s n fill) := by
  unfold State.bufferIn
  repeat' with_reducible first | assumption | apply Steps.ite | apply State.sendPause_steps | apply State.modNet_steps

theorem State.etherIn_steps {mu : Part → Prop} (mhbm : mu .hbm) (mfree : mu .free) (mout : mu .out) (mpins : mu .pins) (mreck : mu .reck) (mmot : mu .mot) (ming : mu .ing) (malc : mu .alc) (mpak : mu .pak) (mary : mu .ary) (mfab : mu .fab) (mmem : mu .mem) (mled : mu .led) (mdma : mu .dma) (mtim : mu .tim) (mnet : mu .net) (mink : mu .ink) (mchk : mu .chk) (mpwr : mu .pwr) {org s : State} (ho : Steps mu org s) (v : EtherArrival) (f : List Sys2Proof.Byte) : Steps mu org (State.etherIn s v f) := by
  unfold State.etherIn
  lift_lets
  intro z0; try clear_value z0
  intro z1
  have hz1 : Steps mu org z1 := by
    dsimp only [z1]
    repeat' with_reducible first | assumption | apply State.bufferIn_steps
  try clear_value z1
  intro z2; try clear_value z2
  repeat' with_reducible first | assumption | apply Steps.ite | apply State.satInc_steps | apply State.setFault_steps | apply State.etherSort_steps

theorem execEthernetFrameReceive_steps (n : BitVec 1) (sub : BitVec 2) (frame : List Sys2Proof.Byte) (recv : BitVec 64) (sent : BitVec 64) (fill : ℕ) (upset : Bool) (s : State) : Next (fun k => k ∈ [Part.hbm, Part.free, Part.out, Part.pins, Part.reck, Part.mot, Part.ing, Part.alc, Part.pak, Part.ary, Part.fab, Part.mem, Part.led, Part.dma, Part.tim, Part.net, Part.ink, Part.chk, Part.pwr]) s (execEthernetFrameReceive n sub frame recv sent fill upset s) := by
  unfold execEthernetFrameReceive
  repeat' with_reducible first | exact Steps.refl _ _ | apply Next.done | apply State.etherIn_steps | split | decide

theorem execEthernetLinkChange_steps (n : BitVec 1) (sub : BitVec 2) (up : Bool) (fec : BitVec 2) (s : State) : Next (fun k => k ∈ [Part.out, Part.fab, Part.net]) s (execEthernetLinkChange n sub up fec s) := by
  unfold execEthernetLinkChange
  lift_lets
  intro z0; try clear_value z0
  intro z1; try clear_value z1
  intro z2; try clear_value z2
  intro z3; try clear_value z3
  intro z4; try clear_value z4
  intro z5
  have hz5 : Steps (fun k => k ∈ [Part.out, Part.fab, Part.net]) s z5 := by
    dsimp only [z5]
    repeat' with_reducible first | exact Steps.refl _ _ | apply State.raise_steps | apply State.wrs_steps | decide
  try clear_value z5
  repeat' with_reducible first | assumption | exact Steps.refl _ _ | apply Next.done | apply Next.ite | apply State.fabShow_steps | apply State.neighbourLost_steps | split | decide

theorem State.blockRead_steps {mu : Part → Prop} {org s : State} (ho : Steps mu org s) (p : Page) (off : ℕ) : Steps mu org (State.blockRead s p off).2 := by
  unfold State.blockRead
  repeat' with_reducible first | assumption | intro _ | apply Steps.foldl | apply Steps.ite | apply State.wr_steps | split

theorem State.chkDrain_steps {mu : Part → Prop} (mout : mu .out) (mreck : mu .reck) (mchk : mu .chk) {org s : State} (ho : Steps mu org s) (n k : Nat) : Steps mu org (s.chkDrain n k) := by
  induction k generalizing s with
  | zero => exact ho
  | succ k ih => exact ih (State.chkTake_steps (by assumption) (by assumption) (by assumption) ho n)

theorem State.pageRead_steps {mu : Part → Prop} (mfree : mu .free) (mout : mu .out) (mreck : mu .reck) (ming : mu .ing) (mled : mu .led) (mchk : mu .chk) {org s : State} (ho : Steps mu org s) (p : Page) (off : ℕ) : Steps mu org (State.pageRead s p off).2 := by
  unfold State.pageRead
  lift_lets
  intro z0
  have hz0 : Steps mu org z0 := by
    dsimp only [z0]
    repeat' with_reducible first | assumption | apply Steps.ite | apply State.chkDrain_steps
  try clear_value z0
  intro z1
  have hz1 : Steps mu org z1.2 := by
    dsimp only [z1]
    repeat' with_reducible first | assumption | apply State.cfgAccess_steps
  try clear_value z1
  repeat' with_reducible first | assumption | apply State.draw_steps | apply State.blockRead_steps | split

theorem State.busRead_steps {mu : Part → Prop} (mfree : mu .free) (mout : mu .out) (mreck : mu .reck) (ming : mu .ing) (mled : mu .led) (mchk : mu .chk) {org s : State} (ho : Steps mu org s) (a : ℕ) : Steps mu org (State.busRead s a).2 := by
  unfold State.busRead
  repeat' with_reducible first | assumption | apply Steps.ite | apply State.pageRead_steps | apply State.btInject_steps | apply State.raise_steps | split

theorem execLoRegisterReadCapture_steps (agent : Sys2Proof.Agent) (addr : BitVec 26) (s : State) : Next (fun k => k ∈ [Part.free, Part.out, Part.reck, Part.ing, Part.led, Part.chk, Part.pwr]) s (execLoRegisterReadCapture agent addr s) := by
  unfold execLoRegisterReadCapture
  lift_lets
  intro z0; try clear_value z0
  intro z1
  have hz1 : Steps (fun k => k ∈ [Part.free, Part.out, Part.reck, Part.ing, Part.led, Part.chk, Part.pwr]) s z1.2 := by
    dsimp only [z1]
    repeat' with_reducible first | exact Steps.refl _ _ | apply State.busRead_steps | decide
  try clear_value z1
  repeat' with_reducible first | assumption | exact Steps.refl _ _ | apply Next.done | apply State.cellarAccess_steps | apply State.cfgInject_steps | apply State.emit_steps | split | decide

theorem State.reckonWrite_steps {mu : Part → Prop} (mout : mu .out) (mreck : mu .reck) {org s : State} (ho : Steps mu org s) (ag : Sys2Proof.Agent) : Steps mu org (State.reckonWrite s ag) := by
  unfold State.reckonWrite
  lift_lets
  intro z0
  have hz0 : Steps mu org z0 := by
    dsimp only [z0]
    repeat' with_reducible first | assumption | apply Steps.ite | apply State.wr_steps
  try clear_value z0
  repeat' with_reducible first | assumption | apply State.reckon_steps

theorem execReckonReq_steps (agent : Sys2Proof.Agent) (s : State) : Next (fun k => k ∈ [Part.out, Part.reck]) s (execReckonReq agent s) := by
  unfold execReckonReq
  repeat' with_reducible first | assumption | intro _ | exact Steps.refl _ _ | apply Next.done | apply State.access_steps | apply State.reckonWrite_steps | decide

theorem execReckoningCapture_steps (tick : Bool) (s : State) : Next (fun k => k ∈ [Part.reck]) s (execReckoningCapture tick s) := by
  unfold execReckoningCapture
  lift_lets
  intro z0
  try dsimp -zeta -zetaHave only [z0]
  repeat' with_reducible first | exact Steps.refl _ _ | apply Next.done | split | apply Steps.reck | decide

theorem State.reckNext_steps {mu : Part → Prop} (mreck : mu .reck) {org s : State} (ho : Steps mu org s)  : Steps mu org (State.reckNext s) := by
  unfold State.reckNext
  lift_lets
  intro z0
  have hz0 : Steps mu org z0 := by
    dsimp only [z0]
    repeat' with_reducible first | assumption | apply State.wrs_steps
  try clear_value z0
  intro z1
  try dsimp -zeta -zetaHave only [z1]
  intro z2
  have hz2 : Steps mu org z2 := by
    dsimp only [z2]
    repeat' with_reducible first | assumption | apply State.wrs_steps
  try clear_value z2
  repeat' with_reducible first | assumption | apply Steps.ite | apply Steps.reck

theorem State.reckComplete_steps {mu : Part → Prop} (mout : mu .out) (mreck : mu .reck) (mfab : mu .fab) (mnet : mu .net) {org s : State} (ho : Steps mu org s) (body : List Sys2Proof.Byte) : Steps mu org (State.reckComplete s body) := by
  unfold State.reckComplete
  lift_lets
  intro z0; try clear_value z0
  intro z1; try clear_value z1
  intro z2
  try dsimp -zeta -zetaHave only [z2]
  intro z3
  have hz3 : Steps mu org z3 := by
    dsimp only [z3]
    repeat' with_reducible first | assumption | split | apply Steps.reck
  try clear_value z3
  intro z4
  have hz4 : Steps mu org z4 := by
    dsimp only [z4]
    repeat' with_reducible first | assumption | apply State.raise_steps | apply State.wrs_steps
  try clear_value z4
  repeat' with_reducible first | assumption | intro _ | apply Steps.foldl | apply State.reckNext_steps | apply State.fabricSend_steps

theorem execReckoningComplete_steps (s : State) : Next (fun k => k ∈ [Part.out, Part.reck, Part.fab, Part.net]) s (execReckoningComplete s) := by
  unfold execReckoningComplete
  repeat' with_reducible first | exact Steps.refl _ _ | apply Next.done | apply State.reckComplete_steps | split | decide

theorem State.clock_steps {mu : Part → Prop} (mtim : mu .tim) {org s : State} (ho : Steps mu org s)  : Steps mu org (State.clock s) := by
  unfold State.clock
  lift_lets
  intro z0
  try dsimp -zeta -zetaHave only [z0]
  repeat' with_reducible first | assumption | apply Steps.ite | apply Steps.tim

theorem State.rebase_steps {mu : Part → Prop} (mtim : mu .tim) {org s : State} (ho : Steps mu org s)  : Steps mu org (State.rebase s) := by
  unfold State.rebase
  lift_lets
  intro z0; try clear_value z0
  intro z1
  try dsimp -zeta -zetaHave only [z1]
  repeat' with_reducible first | assumption | apply Steps.tim

theorem State.alarmCheck_steps {mu : Part → Prop} (mout : mu .out) {org s : State} (ho : Steps mu org s)  : Steps mu org (State.alarmCheck s) := by
  unfold State.alarmCheck
  repeat' with_reducible first | assumption | apply Steps.ite | apply State.raise_steps | apply State.wr_steps

theorem State.incHi_steps {mu : Part → Prop} (mout : mu .out) (mtim : mu .tim) {org s : State} (ho : Steps mu org s) (v : ℕ) : Steps mu org (State.incHi s v) := by
  unfold State.incHi
  lift_lets
  intro z0; try clear_value z0
  repeat' with_reducible first | assumption | apply Steps.ite | apply State.raise_steps | apply State.wr64_steps | apply State.rebase_steps

theorem State.timeCheck_steps {mu : Part → Prop} (mout : mu .out) (mreck : mu .reck) (mtim : mu .tim) {org s : State} (ho : Steps mu org s)  : Steps mu org (State.timeCheck s) := by
  unfold State.timeCheck
  lift_lets
  intro z0
  try dsimp -zeta -zetaHave only [z0]
  repeat' with_reducible first | assumption | apply State.setFault_steps | apply Steps.tim

theorem State.timeWrite_steps {mu : Part → Prop} (mout : mu .out) (mreck : mu .reck) (mtim : mu .tim) {org s : State} (ho : Steps mu org s) (upset : Bool) (k : State → State) (hk : ∀ r t, Steps mu r t → Steps mu r (k t)) : Steps mu org (State.timeWrite s upset k) := by
  unfold State.timeWrite
  repeat' with_reducible first | assumption | apply Steps.ite | apply State.timeCheck_steps | apply hk

theorem execIncApply_steps (agent : Sys2Proof.Agent) (high : Sys2Proof.Word) (upset : Bool) (s : State) : Next (fun k => k ∈ [Part.out, Part.reck, Part.tim]) s (execIncApply agent high upset s) := by
  unfold execIncApply
  repeat' with_reducible first | assumption | intro _ | exact Steps.refl _ _ | apply Next.done | apply State.access_steps | apply State.timeWrite_steps | apply State.incHi_steps | decide

theorem State.adjHi_steps {mu : Part → Prop} (mout : mu .out) (mtim : mu .tim) {org s : State} (ho : Steps mu org s) (v : ℕ) : Steps mu org (State.adjHi s v) := by
  unfold State.adjHi
  lift_lets
  intro z0; try clear_value z0
  intro z1
  have hz1 : Steps mu org z1 := by
    dsimp only [z1]
    repeat' with_reducible first | assumption | apply State.rebase_steps
  try clear_value z1
  intro z2
  try dsimp -zeta -zetaHave only [z2]
  repeat' with_reducible first | assumption | apply Steps.ite | apply State.raise_steps | apply State.alarmCheck_steps | apply Steps.tim

theorem execTimeStep_steps (agent : Sys2Proof.Agent) (high : Sys2Proof.Word) (upset : Bool) (s : State) : Next (fun k => k ∈ [Part.out, Part.reck, Part.tim]) s (execTimeStep agent high upset s) := by
  unfold execTimeStep
  repeat' with_reducible first | assumption | intro _ | exact Steps.refl _ _ | apply Next.done | apply State.access_steps | apply State.timeWrite_steps | apply State.adjHi_steps | decide

theorem execAlarmDue_steps (s : State) : Next (fun k => k ∈ [Part.out]) s (execAlarmDue s) := by
  unfold execAlarmDue
  repeat' with_reducible first | exact Steps.refl _ _ | apply Next.done | apply State.alarmCheck_steps | split | decide

theorem State.evtRawWrite_steps {mu : Part → Prop} {org s : State} (ho : Steps mu org s) (p : Page) (v : ℕ) : Steps mu org (State.evtRawWrite s p v) := by
  unfold State.evtRawWrite
  repeat' with_reducible first | assumption | apply State.wr_steps

theorem State.evtMaskWrite_steps {mu : Part → Prop} (mout : mu .out) {org s : State} (ho : Steps mu org s) (p : Page) (v : ℕ) : Steps mu org (State.evtMaskWrite s p v) := by
  unfold State.evtMaskWrite
  lift_lets
  intro z0; try clear_value z0
  intro z1; try clear_value z1
  intro z2; try clear_value z2
  intro z3
  have hz3 : Steps mu org z3 := by
    dsimp only [z3]
    repeat' with_reducible first | assumption | apply State.wr_steps
  try clear_value z3
  repeat' with_reducible first | assumption | intro _ | apply Steps.foldl | apply Steps.ite | apply State.message_steps

theorem State.evtRouteWrite_steps {mu : Part → Prop} (mout : mu .out) {org s : State} (ho : Steps mu org s) (p : Page) (v : ℕ) : Steps mu org (State.evtRouteWrite s p v) := by
  unfold State.evtRouteWrite
  lift_lets
  intro z0; try clear_value z0
  intro z1; try clear_value z1
  intro z2
  have hz2 : Steps mu org z2 := by
    dsimp only [z2]
    repeat' with_reducible first | assumption | apply State.wrs_steps
  try clear_value z2
  repeat' with_reducible first | assumption | apply Steps.ite | apply State.message_steps

theorem State.faultStatWrite_steps {mu : Part → Prop} {org s : State} (ho : Steps mu org s) (p : Page) (v : ℕ) : Steps mu org (State.faultStatWrite s p v) := by
  unfold State.faultStatWrite
  repeat' with_reducible first | assumption | apply State.wr_steps

theorem State.faultInjWrite_steps {mu : Part → Prop} {org s : State} (ho : Steps mu org s) (p : Page) (v : ℕ) : Steps mu org (State.faultInjWrite s p v) := by
  unfold State.faultInjWrite
  lift_lets
  intro z0
  have hz0 : Steps mu org z0 := by
    dsimp only [z0]
    repeat' with_reducible first | assumption | apply State.wrs_steps
  try clear_value z0
  repeat' with_reducible first | assumption | apply Steps.ite | apply State.wr_steps

theorem State.pageLockWrite_steps {mu : Part → Prop} {org s : State} (ho : Steps mu org s) (p : Page) (v : ℕ) : Steps mu org (State.pageLockWrite s p v) := by
  unfold State.pageLockWrite
  lift_lets
  intro z0
  have hz0 : Steps mu org z0 := by
    dsimp only [z0]
    repeat' with_reducible first | assumption | apply Steps.ite | apply State.wr_steps
  try clear_value z0
  repeat' with_reducible first | assumption | apply Steps.ite | apply State.wr_steps

theorem State.pageCtrlWrite_steps {mu : Part → Prop} (mhbm : mu .hbm) (mfree : mu .free) (mout : mu .out) (mpins : mu .pins) (mreck : mu .reck) (mmot : mu .mot) (ming : mu .ing) (malc : mu .alc) (mpak : mu .pak) (mary : mu .ary) (mfab : mu .fab) (mmem : mu .mem) (mled : mu .led) (mdma : mu .dma) (mtim : mu .tim) (mnet : mu .net) (mink : mu .ink) (mchk : mu .chk) (mpwr : mu .pwr) {org s : State} (ho : Steps mu org s) (p : Page) (v : ℕ) : Steps mu org (State.pageCtrlWrite s p v) := by
  unfold State.pageCtrlWrite
  lift_lets
  intro z0
  have hz0 : Steps mu org z0 := by
    dsimp only [z0]
    repeat' with_reducible first | assumption | apply Steps.ite | apply State.wr_steps | apply State.enableWrite_steps
  try clear_value z0
  intro z1
  have hz1 : Steps mu org z1 := by
    dsimp only [z1]
    repeat' with_reducible first | assumption | apply Steps.ite | apply State.quiesceWrite_steps
  try clear_value z1
  repeat' with_reducible first | assumption | apply Steps.ite | apply State.resetReqWrite_steps

theorem State.headerWrite_steps {mu : Part → Prop} (mhbm : mu .hbm) (mfree : mu .free) (mout : mu .out) (mpins : mu .pins) (mreck : mu .reck) (mmot : mu .mot) (ming : mu .ing) (malc : mu .alc) (mpak : mu .pak) (mary : mu .ary) (mfab : mu .fab) (mmem : mu .mem) (mled : mu .led) (mdma : mu .dma) (mtim : mu .tim) (mnet : mu .net) (mink : mu .ink) (mchk : mu .chk) (mpwr : mu .pwr) {org s : State} (ho : Steps mu org s) (p : Page) (off : ℕ) (v : ℕ) : Steps mu org (State.headerWrite s p off v) := by
  unfold State.headerWrite
  repeat' with_reducible first | assumption | apply Steps.ite | apply State.pageCtrlWrite_steps | apply State.evtRawWrite_steps | apply State.evtMaskWrite_steps | apply State.evtRouteWrite_steps | apply State.faultStatWrite_steps | apply State.faultInjWrite_steps | apply State.wr_steps | apply State.pageLockWrite_steps

theorem State.headerAccess_steps {mu : Part → Prop} {org s : State} (ho : Steps mu org s) (ag : Sys2Proof.Agent) (p : Page) (k : State → State) (hk : ∀ r t, Steps mu r t → Steps mu r (k t)) : Steps mu org (State.headerAccess s ag p k) := by
  unfold State.headerAccess
  repeat' with_reducible first | assumption | apply Steps.ite | apply hk

theorem execEvtRawClear_steps (agent : Sys2Proof.Agent) (page : Page) (value : Sys2Proof.Word) (s : State) : Next (fun k => k ∈ ([] : List Part)) s (execEvtRawClear agent page value s) := by
  unfold execEvtRawClear
  repeat' with_reducible first | assumption | intro _ | exact Steps.refl _ _ | apply Next.done | apply State.headerAccess_steps | apply State.evtRawWrite_steps

theorem execEvtMaskWrite_steps (agent : Sys2Proof.Agent) (page : Page) (value : Sys2Proof.Word) (s : State) : Next (fun k => k ∈ [Part.out]) s (execEvtMaskWrite agent page value s) := by
  unfold execEvtMaskWrite
  repeat' with_reducible first | assumption | intro _ | exact Steps.refl _ _ | apply Next.done | apply State.headerAccess_steps | apply State.evtMaskWrite_steps | decide

theorem execEvtRouteWrite_steps (agent : Sys2Proof.Agent) (page : Page) (value : Sys2Proof.Word) (s : State) : Next (fun k => k ∈ [Part.out]) s (execEvtRouteWrite agent page value s) := by
  unfold execEvtRouteWrite
  repeat' with_reducible first | assumption | intro _ | exact Steps.refl _ _ | apply Next.done | apply State.headerAccess_steps | apply State.evtRouteWrite_steps | decide

theorem execFaultStatClear_steps (agent : Sys2Proof.Agent) (page : Page) (value : Sys2Proof.Word) (s : State) : Next (fun k => k ∈ ([] : List Part)) s (execFaultStatClear agent page value s) := by
  unfold execFaultStatClear
  repeat' with_reducible first | assumption | intro _ | exact Steps.refl _ _ | apply Next.done | apply State.headerAccess_steps | apply State.faultStatWrite_steps

theorem execFaultInjArm_steps (agent : Sys2Proof.Agent) (page : Page) (value : Sys2Proof.Word) (s : State) : Next (fun k => k ∈ ([] : List Part)) s (execFaultInjArm agent page value s) := by
  unfold execFaultInjArm
  repeat' with_reducible first | assumption | intro _ | exact Steps.refl _ _ | apply Next.done | apply State.headerAccess_steps | apply State.faultInjWrite_steps

theorem execPageLockWrite_steps (agent : Sys2Proof.Agent) (page : Page) (value : Sys2Proof.Word) (s : State) : Next (fun k => k ∈ ([] : List Part)) s (execPageLockWrite agent page value s) := by
  unfold execPageLockWrite
  repeat' with_reducible first | assumption | intro _ | exact Steps.refl _ _ | apply Next.done | apply State.headerAccess_steps | apply State.pageLockWrite_steps

theorem State.msixWrite_steps {mu : Part → Prop} (mout : mu .out) {org s : State} (ho : Steps mu org s) (n : ℕ) (w : ℕ) (v : ℕ) : Steps mu org (State.msixWrite s n w v) := by
  unfold State.msixWrite
  lift_lets
  intro z0
  have hz0 : Steps mu org z0 := by
    dsimp only [z0]
    repeat' with_reducible first | assumption | apply State.wr_steps
  try clear_value z0
  repeat' with_reducible first | assumption | apply Steps.ite | apply State.wr_steps | apply State.emit_steps

theorem execMsixVectorUnmask_steps (agent : Sys2Proof.Agent) (vector : BitVec 7) (s : State) : Next (fun k => k ∈ [Part.out]) s (execMsixVectorUnmask agent vector s) := by
  unfold execMsixVectorUnmask
  lift_lets
  intro z0; try clear_value z0
  repeat' with_reducible first | exact Steps.refl _ _ | apply Next.done | apply State.msixWrite_steps | split | decide

theorem State.fieldWrite_steps {mu : Part → Prop} (mout : mu .out) {org s : State} (ho : Steps mu org s) (p : Page) (v : ℕ) (e : FieldDef × Fld) : Steps mu org (State.fieldWrite s p v e) := by
  unfold State.fieldWrite
  repeat' with_reducible first | assumption | apply Steps.ite | apply State.raiseIf_steps | apply State.wr_steps | split

theorem State.fieldsWrite_steps {mu : Part → Prop} (mout : mu .out) {org s : State} (ho : Steps mu org s) (p : Page) (v : ℕ) (fs : List (FieldDef × Fld)) : Steps mu org (State.fieldsWrite s p v fs) := by
  unfold State.fieldsWrite
  repeat' with_reducible first | assumption | intro _ | apply Steps.foldl | apply State.fieldWrite_steps

theorem State.corCfgWrite_steps {mu : Part → Prop} (mout : mu .out) {org s : State} (ho : Steps mu org s) (v : ℕ) : Steps mu org (State.corCfgWrite s v) := by
  unfold State.corCfgWrite
  lift_lets
  intro z0
  have hz0 : Steps mu org z0 := by
    dsimp only [z0]
    repeat' with_reducible first | assumption | apply State.wr_steps
  try clear_value z0
  repeat' with_reducible first | assumption | apply Steps.ite | apply State.wr_steps | apply State.raiseIf_steps

theorem State.rckCtrlWrite_steps {mu : Part → Prop} (mhbm : mu .hbm) (mout : mu .out) (mpins : mu .pins) (mreck : mu .reck) (mmot : mu .mot) (ming : mu .ing) (malc : mu .alc) (mpak : mu .pak) (mary : mu .ary) (mfab : mu .fab) (mmem : mu .mem) (mled : mu .led) (mdma : mu .dma) (mtim : mu .tim) (mnet : mu .net) (mink : mu .ink) (mchk : mu .chk) (mpwr : mu .pwr) {org s : State} (ho : Steps mu org s) (ag : Sys2Proof.Agent) (v : ℕ) : Steps mu org (State.rckCtrlWrite s ag v) := by
  unfold State.rckCtrlWrite
  lift_lets
  intro z0
  have hz0 : Steps mu org z0 := by
    dsimp only [z0]
    repeat' with_reducible first | assumption | apply Steps.ite | apply State.retryWrite_steps
  try clear_value z0
  intro z1
  have hz1 : Steps mu org z1 := by
    dsimp only [z1]
    repeat' with_reducible first | assumption | apply Steps.ite | apply State.inkRstWrite_steps
  try clear_value z1
  repeat' with_reducible first | assumption | apply Steps.ite | apply State.modRstWrite_steps

theorem State.membersWrite_steps {mu : Part → Prop} (mout : mu .out) (mmot : mu .mot) (mfab : mu .fab) {org s : State} (ho : Steps mu org s) (f : Fld) (v : ℕ) : Steps mu org (State.membersWrite s f v) := by
  unfold State.membersWrite
  lift_lets
  intro z0
  have hz0 : Steps mu org z0 := by
    dsimp only [z0]
    repeat' with_reducible first | assumption | apply State.wr_steps
  try clear_value z0
  intro z1
  try dsimp -zeta -zetaHave only [z1]
  intro z2
  have hz2 : Steps mu org z2 := by
    dsimp only [z2]
    repeat' with_reducible first | assumption | apply Steps.fab
  try clear_value z2
  repeat' with_reducible first | assumption | apply Steps.ite | apply State.groupRelease_steps | apply State.raise_steps

theorem State.pakCfgWrite_steps {mu : Part → Prop} (mout : mu .out) (mpak : mu .pak) {org s : State} (ho : Steps mu org s) (v : ℕ) : Steps mu org (State.pakCfgWrite s v) := by
  unfold State.pakCfgWrite
  repeat' with_reducible first | assumption | apply State.modeWrite_steps | apply State.fieldsWrite_steps

theorem State.profWritten_steps {mu : Part → Prop} (mout : mu .out) (mmot : mu .mot) {org s : State} (ho : Steps mu org s) (old : State) : Steps mu org (State.profWritten s old) := by
  unfold State.profWritten
  lift_lets
  intro z0; try clear_value z0
  intro z1; try clear_value z1
  intro z2
  have hz2 : ∀ r t x1 x2 x3, Steps mu r t → Steps mu r (z2 t x1 x2 x3) := by
    dsimp only [z2]
    repeat' with_reducible first | assumption | intro _ | apply State.raise_steps | apply State.modMot_steps
  try clear_value z2
  intro z3; try clear_value z3
  repeat' with_reducible first | assumption | apply Steps.ite | apply hz2 | split

theorem State.on_steps {mu : Part → Prop} {org s : State} (ho : Steps mu org s) (v : ℕ) (b : ℕ) (k : State → State) (hk : ∀ r t, Steps mu r t → Steps mu r (k t)) : Steps mu org (State.on s v b k) := by
  unfold State.on
  repeat' with_reducible first | assumption | apply Steps.ite | apply hk

theorem State.start_steps {mu : Part → Prop} {org s : State} (ho : Steps mu org s) (p : Page) (v : ℕ) (b : ℕ) (k : State → State) (hk : ∀ r t, Steps mu r t → Steps mu r (k t)) : Steps mu org (State.start s p v b k) := by
  unfold State.start
  repeat' with_reducible first | assumption | apply Steps.ite | apply hk

theorem State.actIng_steps {mu : Part → Prop} (mhbm : mu .hbm) (mout : mu .out) (mmot : mu .mot) (ming : mu .ing) (mfab : mu .fab) (mled : mu .led) {org s : State} (ho : Steps mu org s) (off : ℕ) (v : ℕ) : Steps mu org (State.actIng s off v) := by
  unfold State.actIng
  repeat' with_reducible first | assumption | intro _ | apply Steps.ite | apply State.on_steps | apply State.deliveryAbort_steps | apply State.repairStart_steps | apply State.deliveryStart_steps | apply State.freeLayout_steps | apply State.flush_steps | apply State.waybillResume_steps | apply State.post_steps | apply State.rcmpReq_steps

theorem State.actMot_steps {mu : Part → Prop} (mfree : mu .free) (mout : mu .out) (mreck : mu .reck) (mmot : mu .mot) (ming : mu .ing) (malc : mu .alc) (mpak : mu .pak) (mfab : mu .fab) (mled : mu .led) (mnet : mu .net) {org s : State} (ho : Steps mu org s) (old : State) (off : ℕ) (v : ℕ) : Steps mu org (State.actMot s old off v) := by
  unfold State.actMot
  repeat' with_reducible first | assumption | intro _ | apply Steps.ite | apply State.on_steps | apply State.goMove_steps | apply State.resume_steps | apply State.stop_steps | apply State.abandonWrite_steps | apply State.profWritten_steps | apply State.lanesChecked_steps

theorem State.actAry_steps {mu : Part → Prop} (mout : mu .out) (mreck : mu .reck) (mary : mu .ary) {org s : State} (ho : Steps mu org s) (off : ℕ) (v : ℕ) : Steps mu org (State.actAry s off v) := by
  unfold State.actAry
  repeat' with_reducible first | assumption | intro _ | apply Steps.ite | apply State.start_steps | apply State.passStart_steps | apply State.hkStart_steps | apply State.detShow_steps | apply State.on_steps | apply State.bcAbort_steps | apply State.bcStart_steps

theorem State.actMem_steps {mu : Part → Prop} (mhbm : mu .hbm) (mfree : mu .free) (mout : mu .out) (mmem : mu .mem) {org s : State} (ho : Steps mu org s) (n : ℕ) (off : ℕ) (v : ℕ) : Steps mu org (State.actMem s n off v) := by
  unfold State.actMem
  repeat' with_reducible first | assumption | intro _ | apply Steps.ite | apply State.start_steps | apply State.spareGo_steps | apply State.pprGo_steps | apply State.on_steps | apply State.popUe_steps | apply State.testWrite_steps | apply State.testRead_steps

theorem State.actDma_steps {mu : Part → Prop} (mhbm : mu .hbm) (mfree : mu .free) (mout : mu .out) (mreck : mu .reck) (mmem : mu .mem) (mdma : mu .dma) {org s : State} (ho : Steps mu org s) (n : ℕ) (off : ℕ) (v : ℕ) : Steps mu org (State.actDma s n off v) := by
  unfold State.actDma
  repeat' with_reducible first | assumption | intro _ | apply Steps.ite | apply State.dmaStop_steps | apply State.on_steps | apply State.dmaClear_steps | apply State.dmaPause_steps | apply State.dmaResume_steps | apply State.dmaGo_steps

theorem State.actFab_steps {mu : Part → Prop} (mout : mu .out) (mreck : mu .reck) (mmot : mu .mot) (ming : mu .ing) (mfab : mu .fab) (mnet : mu .net) {org s : State} (ho : Steps mu org s) (off : ℕ) (v : ℕ) : Steps mu org (State.actFab s off v) := by
  unfold State.actFab
  lift_lets
  intro z0
  try dsimp -zeta -zetaHave only [z0]
  repeat' with_reducible first | assumption | intro _ | apply Steps.ite | apply State.fabShow_steps | apply State.start_steps | apply State.fabReckGo_steps | apply State.fabShareGo_steps | apply State.takeStripes_steps | apply State.groupGo_steps | apply State.groupHold_steps | apply Steps.fab

theorem State.actPak_steps {mu : Part → Prop} (mout : mu .out) (mpak : mu .pak) {org s : State} (ho : Steps mu org s) (off : ℕ) (v : ℕ) : Steps mu org (State.actPak s off v) := by
  unfold State.actPak
  repeat' with_reducible first | assumption | (intro (hh : Pak.shaped _); first | (simpa [Pak.shaped, setAt, modAt] using hh; done) | (simp [Pak.shaped, setAt, modAt] at hh ⊢; omega)) | intro _ | apply Steps.ite | apply State.on_steps | apply State.retrain_steps | apply State.modPak_steps

theorem State.regAct_steps {mu : Part → Prop} (mhbm : mu .hbm) (mfree : mu .free) (mout : mu .out) (mpins : mu .pins) (mreck : mu .reck) (mmot : mu .mot) (ming : mu .ing) (malc : mu .alc) (mpak : mu .pak) (mary : mu .ary) (mfab : mu .fab) (mmem : mu .mem) (mled : mu .led) (mdma : mu .dma) (mtim : mu .tim) (mnet : mu .net) (mchk : mu .chk) {org s : State} (ho : Steps mu org s) (old : State) (p : Page) (off : ℕ) (v : ℕ) : Steps mu org (State.regAct s old p off v) := by
  unfold State.regAct
  repeat' with_reducible first | assumption | intro _ | apply Steps.ite | apply State.start_steps | apply State.ring_steps | apply State.alarmCheck_steps | apply State.fabShow_steps | apply State.setRunning_steps | apply State.actFab_steps | apply State.actIng_steps | apply State.on_steps | apply State.srvAbort_steps | apply State.srvStart_steps | apply State.rejoin_steps | apply State.cmpShow_steps | apply State.swap_steps | apply State.bankShow_steps | apply State.wr_steps | apply State.actPak_steps | apply State.laneRetrain_steps | apply State.eyeShow_steps | apply State.actAry_steps | apply State.actMot_steps | apply State.actMem_steps | apply State.actDma_steps | split

theorem State.regOp_steps {mu : Part → Prop} (mhbm : mu .hbm) (mfree : mu .free) (mout : mu .out) (mpins : mu .pins) (mreck : mu .reck) (mmot : mu .mot) (ming : mu .ing) (malc : mu .alc) (mpak : mu .pak) (mary : mu .ary) (mfab : mu .fab) (mmem : mu .mem) (mled : mu .led) (mdma : mu .dma) (mtim : mu .tim) (mnet : mu .net) (mink : mu .ink) (mchk : mu .chk) (mpwr : mu .pwr) {org s u : State} (ho : Steps mu org s) (ag : Agent) (p : Page) (off v : Nat) (h : s.regOp ag p off v = some u) : Steps mu org u := by
  unfold State.regOp at h
  repeat' split at h
  all_goals (try cases h)
  all_goals first
    | exact ho
    | exact Steps.tim ho (by assumption)
    | (with_reducible apply State.permitWrite_steps <;> assumption)
    | (with_reducible apply State.reckonWrite_steps <;> assumption)
    | (with_reducible apply State.rckCtrlWrite_steps <;> assumption)
    | (with_reducible apply State.cellarAccess_steps <;> assumption)
    | (with_reducible apply State.incHi_steps <;> assumption)
    | (with_reducible apply State.adjHi_steps <;> assumption)
    | (with_reducible apply State.membersWrite_steps <;> assumption)
    | (with_reducible apply State.corCfgWrite_steps <;> assumption)
    | (with_reducible apply State.geomWrite_steps <;> assumption)
    | (with_reducible apply State.pakCfgWrite_steps <;> assumption)
    | (with_reducible apply State.regionWrite_steps <;> assumption)
    | (with_reducible apply State.ledRdWrite_steps <;> assumption)
    | (with_reducible apply State.raise_steps <;> assumption)

theorem State.blockWrite_steps {mu : Part → Prop} (mhbm : mu .hbm) (mfree : mu .free) (mout : mu .out) (mpins : mu .pins) (mreck : mu .reck) (mmot : mu .mot) (ming : mu .ing) (malc : mu .alc) (mpak : mu .pak) (mary : mu .ary) (mfab : mu .fab) (mmem : mu .mem) (mled : mu .led) (mdma : mu .dma) (mtim : mu .tim) (mnet : mu .net) (mink : mu .ink) (mchk : mu .chk) (mpwr : mu .pwr) {org s : State} (ho : Steps mu org s) (ag : Agent) (p : Page) (off v : Nat) : Steps mu org (s.blockWrite ag p off v) := by
  have hc := State.cfgInject_steps (by assumption) (by assumption) ho p
  have ht := State.cfgAccess_steps (by assumption) (by assumption) (by assumption) (by assumption) ho p
  unfold State.blockWrite
  refine Steps.ite ho (Steps.ite (State.raise_steps mout ho _ _) (Steps.ite (State.chkWrite_steps (by assumption) (by assumption) hc _ _ _ _) (Steps.ite (State.raise_steps mout ht _ _) ?_)))
  split
  · exact State.regOp_steps (by assumption) (by assumption) (by assumption) (by assumption) (by assumption) (by assumption) (by assumption) (by assumption) (by assumption) (by assumption) (by assumption) (by assumption) (by assumption) (by assumption) (by assumption) (by assumption) (by assumption) (by assumption) (by assumption) ht _ _ _ _ (by assumption)
  · exact State.regAct_steps (by assumption) (by assumption) (by assumption) (by assumption) (by assumption) (by assumption) (by assumption) (by assumption) (by assumption) (by assumption) (by assumption) (by assumption) (by assumption) (by assumption) (by assumption) (by assumption) (by assumption) (State.fieldsWrite_steps (by assumption) ht _ _ _) _ _ _ _

theorem State.busWrite_steps {mu : Part → Prop} (mhbm : mu .hbm) (mfree : mu .free) (mout : mu .out) (mpins : mu .pins) (mreck : mu .reck) (mmot : mu .mot) (ming : mu .ing) (malc : mu .alc) (mpak : mu .pak) (mary : mu .ary) (mfab : mu .fab) (mmem : mu .mem) (mled : mu .led) (mdma : mu .dma) (mtim : mu .tim) (mnet : mu .net) (mink : mu .ink) (mchk : mu .chk) (mpwr : mu .pwr) {org s : State} (ho : Steps mu org s) (ag : Sys2Proof.Agent) (a : ℕ) (v : ℕ) (whole : Bool) : Steps mu org (State.busWrite s ag a v whole) := by
  unfold State.busWrite
  repeat' with_reducible first | assumption | apply Steps.ite | apply State.headerWrite_steps | apply State.blockWrite_steps | apply State.msixWrite_steps | apply State.tableWrite_steps | apply State.raise_steps | split

theorem execRegisterWrite_steps (agent : Sys2Proof.Agent) (addr : BitVec 26) (value : Sys2Proof.Word) (enables : BitVec 4) (s : State) : Next (fun k => k ∈ [Part.hbm, Part.free, Part.out, Part.pins, Part.reck, Part.mot, Part.ing, Part.alc, Part.pak, Part.ary, Part.fab, Part.mem, Part.led, Part.dma, Part.tim, Part.net, Part.ink, Part.chk, Part.pwr]) s (execRegisterWrite agent addr value enables s) := by
  unfold execRegisterWrite
  repeat' with_reducible first | exact Steps.refl _ _ | apply Next.done | apply State.busWrite_steps | split | decide

theorem State.bar2Word_steps {mu : Part → Prop} (mhbm : mu .hbm) (mfree : mu .free) (mout : mu .out) (mreck : mu .reck) (mmem : mu .mem) {org s : State} (ho : Steps mu org s) (a : ℕ) (n : ℕ) (c : ℕ) : Steps mu org (State.bar2Word s a n c).2 := by
  unfold State.bar2Word
  lift_lets
  intro z0
  have hz0 : Steps mu org z0.2 := by
    dsimp only [z0]
    repeat' with_reducible first | assumption | apply State.memRead_steps
  try clear_value z0
  intro z1; try clear_value z1
  intro z2; try clear_value z2
  repeat' with_reducible first | assumption | split

theorem State.bar2Words_steps {mu : Part → Prop} (mhbm : mu .hbm) (mfree : mu .free) (mout : mu .out) (mreck : mu .reck) (mmem : mu .mem) {org s : State} (ho : Steps mu org s) (a n : Nat) (l : List Nat) : Steps mu org (s.bar2Words a n l).2 := by
  induction l generalizing s with
  | nil => exact ho
  | cons c t ih => exact ih (State.bar2Word_steps (by assumption) (by assumption) (by assumption) (by assumption) (by assumption) ho a n c)

theorem execBar2Read_steps (offset : BitVec 34) (len : BitVec 12) (s : State) : Next (fun k => k ∈ [Part.hbm, Part.free, Part.out, Part.reck, Part.mem]) s (execBar2Read offset len s) :=
  Next.done (Steps.ite (Steps.refl _ s) (Steps.ite (State.emit_steps (by decide) (State.raise_steps (by decide) (Steps.refl _ s) _ _) _)
    (State.emit_steps (by decide) (State.raiseIf_steps (by decide) (State.bar2Words_steps (by decide) (by decide) (by decide) (by decide) (by decide) (Steps.refl _ s) ..) ..) _)))

theorem execBar2Write_steps (offset : BitVec 34) (data : List Sys2Proof.Byte) (ep : Bool) (s : State) : Next (fun k => k ∈ [Part.hbm, Part.free, Part.out, Part.reck, Part.mem]) s (execBar2Write offset data ep s) := by
  unfold execBar2Write
  repeat' with_reducible first | exact Steps.refl _ _ | apply Next.done | apply State.raise_steps | apply State.memWrite_steps | split | decide

theorem State.edgeSpoiled_steps {mu : Part → Prop} (mout : mu .out) (mreck : mu .reck) (mmot : mu .mot) (mfab : mu .fab) (mnet : mu .net) {org s : State} (ho : Steps mu org s)  : Steps mu org (State.edgeSpoiled s) := by
  unfold State.edgeSpoiled
  repeat' with_reducible first | assumption | apply State.halt_steps | apply State.modMot_steps | split

theorem State.readSpoiled_steps {mu : Part → Prop} (mout : mu .out) (mreck : mu .reck) (mmot : mu .mot) (ming : mu .ing) (mfab : mu .fab) (mnet : mu .net) {org s : State} (ho : Steps mu org s) (j : ℕ) : Steps mu org (State.readSpoiled s j) := by
  unfold State.readSpoiled
  repeat' with_reducible first | assumption | apply Steps.ite | apply State.markRecompute_steps | apply State.halt_steps | apply State.raise_steps | split

theorem State.crossed_steps {mu : Part → Prop} (mhbm : mu .hbm) (mout : mu .out) (mreck : mu .reck) (mmot : mu .mot) (ming : mu .ing) (mpak : mu .pak) (mfab : mu .fab) (mmem : mu .mem) (mled : mu .led) (mnet : mu .net) {org s : State} (ho : Steps mu org s) (x1 : Sys2Proof.Crossing) : Steps mu org (State.crossed s x1) := by
  unfold State.crossed
  repeat' with_reducible first | assumption | apply Steps.ite | apply State.recordCompare_steps | apply State.dropTile_steps | apply State.raise_steps | apply State.satInc_steps | apply State.discardTile_steps | apply State.tellOwner_steps | apply State.putPoison_steps | apply State.readSpoiled_steps | apply State.modLane_steps | apply State.edgeSpoiled_steps | apply State.smpDiscard_steps | split

theorem execCrossingWordDeliver_steps (kind : Sys2Proof.Crossing) (good : Bool) (s : State) : Next (fun k => k ∈ [Part.hbm, Part.out, Part.reck, Part.mot, Part.ing, Part.pak, Part.fab, Part.mem, Part.led, Part.net]) s (execCrossingWordDeliver kind good s) := by
  unfold execCrossingWordDeliver
  repeat' with_reducible first | exact Steps.refl _ _ | apply Next.done | apply State.crossed_steps | split | decide

theorem State.planFrames_steps {mu : Part → Prop} (mout : mu .out) (mfab : mu .fab) (mnet : mu .net) {org s : State} (ho : Steps mu org s) (w : Waybill) (p : Plan) (align : Bool) (fuel j : Nat) :
    Steps mu org (s.planFrames w p align fuel j) := by
  induction fuel generalizing s j with
  | zero => exact ho
  | succ k ih => exact Steps.ite ho (ih (State.fabricSend_steps (by assumption) (by assumption) (by assumption) ho _ _ _ _) _)

theorem State.sendPlan_steps {mu : Part → Prop} (mout : mu .out) (mfab : mu .fab) (mnet : mu .net) {org s : State} (ho : Steps mu org s) (w : Waybill) (p : Plan) (align : Bool) : Steps mu org (State.sendPlan s w p align) := by
  unfold State.sendPlan
  repeat' with_reducible first | assumption | apply Steps.ite | apply State.planFrames_steps

theorem State.armWaybill_steps {mu : Part → Prop} (mout : mu .out) (mreck : mu .reck) (mmot : mu .mot) (ming : mu .ing) (malc : mu .alc) (mfab : mu .fab) (mled : mu .led) (mnet : mu .net) {org s : State} (ho : Steps mu org s) (w : Waybill) (p : Plan) : Steps mu org (State.armWaybill s w p) := by
  unfold State.armWaybill
  lift_lets
  intro z0; try clear_value z0
  intro z1; try clear_value z1
  intro z2
  try dsimp -zeta -zetaHave only [z2]
  intro z3
  try dsimp -zeta -zetaHave only [z3]
  intro z4
  have hz4 : Steps mu org z4 := by
    dsimp only [z4]
    repeat' with_reducible first | assumption | (apply Or.inl; first | assumption | decide) | exact Or.inr rfl | exact id | (intro (hh : Ing.shaped _); first | (simpa [Ing.shaped, setAt, modAt] using hh; done) | (simp [Ing.shaped, setAt, modAt] at hh ⊢; omega)) | split | fail_if_no_progress apply Steps.upd
  try clear_value z4
  intro z5
  have hz5 : Steps mu org z5 := by
    dsimp only [z5]
    repeat' with_reducible first | assumption | apply State.wr_steps
  try clear_value z5
  intro z6
  try dsimp -zeta -zetaHave only [z6]
  intro z7
  have hz7 : Steps mu org z7 := by
    dsimp only [z7]
    repeat' with_reducible first | assumption | apply Steps.ite | apply Steps.alc
  try clear_value z7
  intro z8
  have hz8 : Steps mu org z8 := by
    dsimp only [z8]
    repeat' with_reducible first | assumption | apply State.raise_steps | apply State.wrs_steps
  try clear_value z8
  intro z9
  have hz9 : Steps mu org z9 := by
    dsimp only [z9]
    repeat' with_reducible first | assumption | apply State.sendPlan_steps | apply State.openRecord_steps
  try clear_value z9
  repeat' with_reducible first | assumption | apply Steps.ite | apply State.alignCheck_steps | apply State.ingShow_steps | apply State.armShow_steps | apply State.becomeCurrent_steps | apply State.alcClear_steps

theorem State.refuseWaybill_steps {mu : Part → Prop} (mout : mu .out) (ming : mu .ing) {org s : State} (ho : Steps mu org s) (w : Waybill) (code : ℕ) (detail : ℕ) (shows : List (Fld × ℕ)) (alcEvent : Bool) : Steps mu org (State.refuseWaybill s w code detail shows alcEvent) := by
  unfold State.refuseWaybill
  lift_lets
  intro z0
  try dsimp -zeta -zetaHave only [z0]
  intro z1
  have hz1 : Steps mu org z1 := by
    dsimp only [z1]
    repeat' with_reducible first | assumption | (intro (hh : Ing.shaped _); first | (simpa [Ing.shaped, setAt, modAt] using hh; done) | (simp [Ing.shaped, setAt, modAt] at hh ⊢; omega)) | apply Steps.ing
  try clear_value z1
  intro z2
  have hz2 : Steps mu org z2 := by
    dsimp only [z2]
    repeat' with_reducible first | assumption | apply State.wrs_steps
  try clear_value z2
  repeat' with_reducible first | assumption | apply State.showQueue_steps | apply State.raiseIf_steps | apply State.raise_steps

theorem State.holdWaybill_steps {mu : Part → Prop} (mout : mu .out) {org s : State} (ho : Steps mu org s) (reason : ℕ) : Steps mu org (State.holdWaybill s reason) := by
  unfold State.holdWaybill
  repeat' with_reducible first | assumption | apply Steps.ite | apply State.raise_steps | apply State.wr_steps

theorem execWaybillArm_steps (lostBeam : Option ℕ) (s : State) : Next (fun k => k ∈ [Part.out, Part.reck, Part.mot, Part.ing, Part.alc, Part.fab, Part.led, Part.net]) s (execWaybillArm lostBeam s) := by
  unfold execWaybillArm
  repeat' with_reducible first | exact Steps.refl _ _ | apply Next.done | apply Next.ite | apply State.holdWaybill_steps | apply State.refuseWaybill_steps | apply State.btInject_steps | apply State.armWaybill_steps | split | decide

theorem execPlanRecompute_steps (s : State) : Next (fun k => k ∈ [Part.out, Part.ing, Part.fab, Part.net]) s (execPlanRecompute s) := by
  unfold execPlanRecompute
  lift_lets
  intro z0; try clear_value z0
  intro z1
  try dsimp -zeta -zetaHave only [z1]
  intro z2
  have hz2 : Steps (fun k => k ∈ [Part.out, Part.ing, Part.fab, Part.net]) s z2 := by
    dsimp only [z2]
    repeat' with_reducible first | (intro (hh : Ing.shaped _); first | (simpa [Ing.shaped, setAt, modAt] using hh; done) | (simp [Ing.shaped, setAt, modAt] at hh ⊢; omega)) | exact Steps.refl _ _ | apply Steps.ing | decide
  try clear_value z2
  repeat' with_reducible first | assumption | intro _ | apply Steps.foldl | apply Next.done | apply State.sendPlan_steps | split | decide

end Sys2Proof.Machine
end

