-- ==== Sys2Proof/Laws/Frames.lean ====
section
/-!
SUPPORT. What each command can change, gathered over exec and step.
-/
set_option linter.all false
namespace Sys2Proof.Machine

theorem exec_beyond (c : Sys2Proof.Instr) (s : State) (h : beyondHbm c = true) : exec c s = .fault .noSuchAddress := by
  cases c with
  | hbmRead a b d => exact if_pos (of_decide_eq_true h)
  | hbmWrite a b d e => exact if_pos (of_decide_eq_true h)
  | _ => cases h

theorem exec_next (c : Sys2Proof.Instr) (s : State) (h : beyondHbm c = false) : Next (fun k => k ∈ commandParts c) s (exec c s) := by
  cases c with
  | registerWrite a0 a1 a2 a3 => exact execRegisterWrite_steps a0 a1 a2 a3 s
  | loRegisterReadCapture a0 a1 => exact execLoRegisterReadCapture_steps a0 a1 s
  | bar2Read a0 a1 => exact execBar2Read_steps a0 a1 s
  | bar2Write a0 a1 a2 => exact execBar2Write_steps a0 a1 a2 s
  | configurationRequest a0 => exact execConfigurationRequest_steps a0 s
  | msixVectorUnmask a0 a1 => exact execMsixVectorUnmask_steps a0 a1 s
  | evtRawClear a0 a1 a2 => exact execEvtRawClear_steps a0 a1 a2 s
  | evtMaskWrite a0 a1 a2 => exact execEvtMaskWrite_steps a0 a1 a2 s
  | evtRouteWrite a0 a1 a2 => exact execEvtRouteWrite_steps a0 a1 a2 s
  | faultStatClear a0 a1 a2 => exact execFaultStatClear_steps a0 a1 a2 s
  | faultInjArm a0 a1 a2 => exact execFaultInjArm_steps a0 a1 a2 s
  | pageLockWrite a0 a1 a2 => exact execPageLockWrite_steps a0 a1 a2 s
  | resetReq a0 a1 => exact execResetReq_steps a0 a1 s
  | blockResetRelease a0 => exact execBlockResetRelease_steps a0 s
  | pageEnable a0 a1 a2 => exact execPageEnable_steps a0 a1 a2 s
  | pageQuiesce a0 a1 a2 => exact execPageQuiesce_steps a0 a1 a2 s
  | islandLockHeld a0 => exact execIslandLockHeld_steps a0 s
  | lockTimeout a0 => exact execLockTimeout_steps a0 s
  | quiesceComplete a0 => exact execQuiesceComplete_steps a0 s
  | shutdownComplete a0 => exact execShutdownComplete_steps a0 s
  | crossingWordDeliver a0 a1 => exact execCrossingWordDeliver_steps a0 a1 s
  | reckonReq a0 => exact execReckonReq_steps a0 s
  | reckoningCapture a0 => exact execReckoningCapture_steps a0 s
  | reckoningComplete => exact execReckoningComplete_steps s
  | ringDoorbell a0 => exact execRingDoorbell_steps a0 s
  | unknownOperation => exact execUnknownOperation_steps s
  | identity => exact execIdentity_steps s
  | firmwareVersion => exact execFirmwareVersion_steps s
  | persistentStoreRead => exact execPersistentStoreRead_steps s
  | persistentStoreWrite => exact execPersistentStoreWrite_steps s
  | lifeCycleRequest => exact execLifeCycleRequest_steps s
  | firmwareStage a0 a1 a2 a3 => exact execFirmwareStage_steps a0 a1 a2 a3 s
  | firmwareCommit => exact execFirmwareCommit_steps s
  | calibrationSave => exact execCalibrationSave_steps s
  | calibrationRestore => exact execCalibrationRestore_steps s
  | deliveryStart a0 a1 a2 => exact execDeliveryStart_steps a0 a1 a2 s
  | repairStart a0 a1 a2 => exact execRepairStart_steps a0 a1 a2 s
  | deliveryAbort a0 => exact execDeliveryAbort_steps a0 s
  | ingestTransfer a0 a1 a2 a3 => exact execIngestTransfer_steps a0 a1 a2 a3 s
  | blockReceived => exact execBlockReceived_steps s
  | blockInterpreted => exact execBlockInterpreted_steps s
  | stagingBufferFree => exact execStagingBufferFree_steps s
  | freeLayout a0 a1 => exact execFreeLayout_steps a0 a1 s
  | layoutSpaceReleased => exact execLayoutSpaceReleased_steps s
  | post a0 => exact execPost_steps a0 s
  | waybillResume a0 => exact execWaybillResume_steps a0 s
  | flush a0 => exact execFlush_steps a0 s
  | waybillArm a0 => exact execWaybillArm_steps a0 s
  | stripeComplete => exact execStripeComplete_steps s
  | expanderDispatch a0 a1 => exact execExpanderDispatch_steps a0 a1 s
  | listPoolWaitEnd a0 => exact execListPoolWaitEnd_steps a0 s
  | bandListComplete a0 a1 a2 => exact execBandListComplete_steps a0 a1 a2 s
  | slotAssign => exact execSlotAssign_steps s
  | indexRebuildComplete a0 => exact execIndexRebuildComplete_steps a0 s
  | bandCorrected a0 => exact execBandCorrected_steps a0 s
  | travellerRelease a0 => exact execTravellerRelease_steps a0 s
  | rcmpReq a0 a1 a2 => exact execRcmpReq_steps a0 a1 a2 s
  | binnerRun a0 => exact execBinnerRun_steps a0 s
  | referenceStoreFree => exact execReferenceStoreFree_steps s
  | tileDispatch => exact execTileDispatch_steps s
  | tileRecordCompare a0 a1 => exact execTileRecordCompare_steps a0 a1 s
  | tileStall a0 => exact execTileStall_steps a0 s
  | stagingPoolFree a0 => exact execStagingPoolFree_steps a0 s
  | voteResolved a0 a1 => exact execVoteResolved_steps a0 a1 s
  | strikeDecay a0 => exact execStrikeDecay_steps a0 s
  | pairReform a0 => exact execPairReform_steps a0 s
  | rejoin a0 a1 => exact execRejoin_steps a0 a1 s
  | tileCorrect a0 a1 => exact execTileCorrect_steps a0 a1 s
  | kernelWindowWrite a0 a1 a2 => exact execKernelWindowWrite_steps a0 a1 a2 s
  | doseClassTableWrite a0 a1 a2 => exact execDoseClassTableWrite_steps a0 a1 a2 s
  | surveyStart a0 a1 a2 => exact execSurveyStart_steps a0 a1 a2 s
  | costWalkStart a0 a1 a2 => exact execCostWalkStart_steps a0 a1 a2 s
  | hostMapCommit a0 a1 a2 => exact execHostMapCommit_steps a0 a1 a2 s
  | hostMapRecheck a0 a1 a2 => exact execHostMapRecheck_steps a0 a1 a2 s
  | srvAbort a0 => exact execSrvAbort_steps a0 s
  | surveySegmentWalked a0 a1 a2 => exact execSurveySegmentWalked_steps a0 a1 a2 s
  | walkComplete => exact execWalkComplete_steps s
  | costWalkComplete => exact execCostWalkComplete_steps s
  | fogComplete a0 a1 => exact execFogComplete_steps a0 a1 s
  | sweepColumn a0 a1 => exact execSweepColumn_steps a0 a1 s
  | mapComplete => exact execMapComplete_steps s
  | hostMapCheckComplete => exact execHostMapCheckComplete_steps s
  | mapRepairComplete => exact execMapRepairComplete_steps s
  | itineraryWrite a0 a1 a2 a3 => exact execItineraryWrite_steps a0 a1 a2 a3 s
  | beamTableWrite a0 a1 a2 a3 => exact execBeamTableWrite_steps a0 a1 a2 a3 s
  | swap a0 => exact execSwap_steps a0 s
  | cancel a0 => exact execCancel_steps a0 s
  | bankCopyComplete => exact execBankCopyComplete_steps s
  | alcGeomWrite a0 a1 => exact execAlcGeomWrite_steps a0 a1 s
  | tickCompute a0 => exact execTickCompute_steps a0 s
  | planRebuild => exact execPlanRebuild_steps s
  | allocatorResetAbandon => exact execAllocatorResetAbandon_steps s
  | positionSample a0 a1 a2 a3 => exact execPositionSample_steps a0 a1 a2 a3 s
  | deflectionWordTimeout a0 => exact execDeflectionWordTimeout_steps a0 s
  | motionLaneLockChange a0 a1 => exact execMotionLaneLockChange_steps a0 a1 s
  | holdover a0 => exact execHoldover_steps a0 s
  | edgeCommit a0 => exact execEdgeCommit_steps a0 s
  | tickEdgeLaunch => exact execTickEdgeLaunch_steps s
  | phaseEdge => exact execPhaseEdge_steps s
  | setpointFrame => exact execSetpointFrame_steps s
  | goMove a0 => exact execGoMove_steps a0 s
  | runupStart => exact execRunupStart_steps s
  | gapMaxExpiry => exact execGapMaxExpiry_steps s
  | stop a0 => exact execStop_steps a0 s
  | resume a0 => exact execResume_steps a0 s
  | abandon a0 => exact execAbandon_steps a0 s
  | haltResume => exact execHaltResume_steps s
  | arrayTempReport a0 a1 => exact execArrayTempReport_steps a0 a1 s
  | temperatureReportStale => exact execTemperatureReportStale_steps s
  | planRecompute => exact execPlanRecompute_steps s
  | motResetAbandon => exact execMotResetAbandon_steps s
  | qlinkFrameSend a0 a1 => exact execQlinkFrameSend_steps a0 a1 s
  | tickMarker a0 => exact execTickMarker_steps a0 s
  | laneMapSet a0 => exact execLaneMapSet_steps a0 s
  | echoFrame a0 a1 => exact execEchoFrame_steps a0 a1 s
  | statusFrame a0 a1 => exact execStatusFrame_steps a0 a1 s
  | echoTimeout a0 a1 => exact execEchoTimeout_steps a0 a1 s
  | arrayDead => exact execArrayDead_steps s
  | returnLaneLockChange a0 a1 => exact execReturnLaneLockChange_steps a0 a1 s
  | returnLanePolarityFlip a0 => exact execReturnLanePolarityFlip_steps a0 s
  | pakRetrain a0 => exact execPakRetrain_steps a0 s
  | pakModeChange a0 a1 => exact execPakModeChange_steps a0 a1 s
  | trainPhaseComplete => exact execTrainPhaseComplete_steps s
  | bringupTimeout => exact execBringupTimeout_steps s
  | qlkRetrain a0 a1 => exact execQlkRetrain_steps a0 a1 s
  | laneRetrainComplete a0 => exact execLaneRetrainComplete_steps a0 s
  | loadPassport a0 => exact execLoadPassport_steps a0 s
  | passportLoadComplete a0 a1 => exact execPassportLoadComplete_steps a0 a1 s
  | hkGo a0 a1 a2 a3 => exact execHkGo_steps a0 a1 a2 a3 s
  | hkTransactionComplete a0 => exact execHkTransactionComplete_steps a0 s
  | temperaturePoll a0 => exact execTemperaturePoll_steps a0 s
  | arrayAlert => exact execArrayAlert_steps s
  | detectorLockChange a0 a1 a2 => exact execDetectorLockChange_steps a0 a1 a2 s
  | detectorPhaseStep a0 a1 => exact execDetectorPhaseStep_steps a0 a1 s
  | checkRunStart a0 => exact execCheckRunStart_steps a0 s
  | checkRunComplete a0 a1 a2 a3 a4 => exact execCheckRunComplete_steps a0 a1 a2 a3 a4 s
  | aryBcStart a0 a1 a2 => exact execAryBcStart_steps a0 a1 a2 s
  | aryBcAbort a0 => exact execAryBcAbort_steps a0 s
  | writeBackApply => exact execWriteBackApply_steps s
  | hbmRead a0 a1 a2 => exact execHbmRead_steps a0 a1 a2 s (of_decide_eq_false h)
  | hbmWrite a0 a1 a2 a3 => exact execHbmWrite_steps a0 a1 a2 a3 s (of_decide_eq_false h)
  | memFillComplete a0 => exact execMemFillComplete_steps a0 s
  | scrubRead a0 a1 => exact execScrubRead_steps a0 a1 s
  | scrubberBehind a0 => exact execScrubberBehind_steps a0 s
  | refreshDue a0 a1 a2 a3 => exact execRefreshDue_steps a0 a1 a2 a3 s
  | refreshCycleEnd a0 a1 a2 => exact execRefreshCycleEnd_steps a0 a1 a2 s
  | stackTemperatureRead a0 a1 => exact execStackTemperatureRead_steps a0 a1 s
  | pop a0 a1 => exact execPop_steps a0 a1 s
  | pprGo a0 a1 => exact execPprGo_steps a0 a1 s
  | pprComplete a0 a1 => exact execPprComplete_steps a0 a1 s
  | spareGo a0 a1 a2 => exact execSpareGo_steps a0 a1 a2 s
  | sparingComplete a0 => exact execSparingComplete_steps a0 s
  | pseudoChannelDead a0 a1 => exact execPseudoChannelDead_steps a0 a1 s
  | testWrite a0 => exact execTestWrite_steps a0 s
  | testRead a0 => exact execTestRead_steps a0 s
  | mem0RegionWrite a0 a1 => exact execMem0RegionWrite_steps a0 a1 s
  | memResetLoss => exact execMemResetLoss_steps s
  | dmaGo a0 a1 => exact execDmaGo_steps a0 a1 s
  | dmaResponse a0 a1 a2 => exact execDmaResponse_steps a0 a1 a2 s
  | dmaCompletionTimeout a0 => exact execDmaCompletionTimeout_steps a0 s
  | dmaDescriptorComplete a0 => exact execDmaDescriptorComplete_steps a0 s
  | dmaDescriptorFetch a0 a1 => exact execDmaDescriptorFetch_steps a0 a1 s
  | pause a0 a1 => exact execPause_steps a0 a1 s
  | dmaPaused a0 => exact execDmaPaused_steps a0 s
  | dmaResume a0 a1 => exact execDmaResume_steps a0 a1 s
  | dmaStop a0 a1 => exact execDmaStop_steps a0 a1 s
  | clearErr a0 a1 => exact execClearErr_steps a0 a1 s
  | busMasterEnableCleared => exact execBusMasterEnableCleared_steps s
  | feedB a0 a1 a2 => exact execFeedB_steps a0 a1 a2 s
  | feedH a0 a1 a2 => exact execFeedH_steps a0 a1 a2 s
  | feedW a0 a1 a2 => exact execFeedW_steps a0 a1 a2 s
  | chkQueueEntryTaken a0 => exact execChkQueueEntryTaken_steps a0 s
  | chkStart a0 a1 a2 => exact execChkStart_steps a0 a1 a2 s
  | preset a0 a1 a2 => exact execPreset_steps a0 a1 a2 s
  | cmpGo a0 a1 a2 => exact execCmpGo_steps a0 a1 a2 s
  | runWrite a0 a1 a2 a3 => exact execRunWrite_steps a0 a1 a2 a3 s
  | alive a0 a1 a2 => exact execAlive_steps a0 a1 a2 s
  | incApply a0 a1 a2 => exact execIncApply_steps a0 a1 a2 s
  | timeStep a0 a1 a2 => exact execTimeStep_steps a0 a1 a2 s
  | alarmDue => exact execAlarmDue_steps s
  | ethernetFrameReceive a0 a1 a2 a3 a4 a5 a6 => exact execEthernetFrameReceive_steps a0 a1 a2 a3 a4 a5 a6 s
  | receiveBufferDrain a0 => exact execReceiveBufferDrain_steps a0 s
  | pauseQuantaExpiry a0 a1 a2 => exact execPauseQuantaExpiry_steps a0 a1 a2 s
  | ethernetLinkChange a0 a1 a2 a3 => exact execEthernetLinkChange_steps a0 a1 a2 a3 s
  | txRingEntrySend a0 a1 a2 a3 => exact execTxRingEntrySend_steps a0 a1 a2 a3 s
  | txrIdxWrite a0 a1 a2 => exact execTxrIdxWrite_steps a0 a1 a2 s
  | rxrIdxWrite a0 a1 a2 => exact execRxrIdxWrite_steps a0 a1 a2 s
  | reqFrame a0 a1 a2 a3 => exact execReqFrame_steps a0 a1 a2 a3 s
  | dataFrame a0 a1 a2 a3 => exact execDataFrame_steps a0 a1 a2 a3 s
  | credit a0 => exact execCredit_steps a0 s
  | helloFrame a0 a1 a2 => exact execHelloFrame_steps a0 a1 a2 s
  | helloSend => exact execHelloSend_steps s
  | neighbourLost a0 => exact execNeighbourLost_steps a0 s
  | lsaFrame a0 a1 => exact execLsaFrame_steps a0 a1 s
  | lsaFlood => exact execLsaFlood_steps s
  | lsaExpiry a0 => exact execLsaExpiry_steps a0 s
  | membershipSettled => exact execMembershipSettled_steps s
  | fabricFrameForward a0 a1 => exact execFabricFrameForward_steps a0 a1 s
  | fabReckGo a0 a1 => exact execFabReckGo_steps a0 a1 s
  | reckReq a0 a1 => exact execReckReq_steps a0 a1 s
  | reckData a0 a1 => exact execReckData_steps a0 a1 s
  | reckonRequestTimeout => exact execReckonRequestTimeout_steps s
  | fabShareGo a0 a1 => exact execFabShareGo_steps a0 a1 s
  | shareReq a0 a1 => exact execShareReq_steps a0 a1 s
  | shareRsp a0 a1 => exact execShareRsp_steps a0 a1 s
  | shareAnswerTimeout => exact execShareAnswerTimeout_steps s
  | shareCreditTimeout a0 => exact execShareCreditTimeout_steps a0 s
  | lxport a0 a1 => exact execLxport_steps a0 a1 s
  | densFrame a0 a1 => exact execDensFrame_steps a0 a1 s
  | densEnd a0 a1 => exact execDensEnd_steps a0 a1 s
  | densNakTimer a0 => exact execDensNakTimer_steps a0 s
  | densNak a0 a1 => exact execDensNak_steps a0 a1 s
  | takeGo a0 => exact execTakeGo_steps a0 s
  | mapcrc a0 a1 => exact execMapcrc_steps a0 a1 s
  | treqSend a0 => exact execTreqSend_steps a0 s
  | treq a0 a1 a2 a3 => exact execTreq_steps a0 a1 a2 a3 s
  | trsp a0 a1 a2 => exact execTrsp_steps a0 a1 a2 s
  | mstatSend => exact execMstatSend_steps s
  | mstat a0 a1 => exact execMstat_steps a0 a1 s
  | fstatSend => exact execFstatSend_steps s
  | fstat a0 a1 => exact execFstat_steps a0 a1 s
  | hreq a0 a1 => exact execHreq_steps a0 a1 s
  | planFrame a0 a1 => exact execPlanFrame_steps a0 a1 s
  | leadLost => exact execLeadLost_steps s
  | memberLost a0 => exact execMemberLost_steps a0 s
  | fabMotStop a0 => exact execFabMotStop_steps a0 s
  | fabMotGo a0 => exact execFabMotGo_steps a0 s
  | fabricReset a0 a1 => exact execFabricReset_steps a0 a1 s
  | vinStart => exact execVinStart_steps s
  | powerFailWarning => exact execPowerFailWarning_steps s
  | warningEnd => exact execWarningEnd_steps s
  | powerDown => exact execPowerDown_steps s
  | overvoltage => exact execOvervoltage_steps s
  | overvoltageEnd => exact execOvervoltageEnd_steps s
  | phaseSwitchOff a0 => exact execPhaseSwitchOff_steps a0 s
  | sparePhaseActivate => exact execSparePhaseActivate_steps s
  | resetNFall a0 => exact execResetNFall_steps a0 s
  | moduleResetAssert => exact execModuleResetAssert_steps s
  | moduleResetBlockAssert => exact execModuleResetBlockAssert_steps s
  | moduleResetRelease => exact execModuleResetRelease_steps s
  | perstNAssert => exact execPerstNAssert_steps s
  | perstNRelease => exact execPerstNRelease_steps s
  | modRst a0 a1 => exact execModRst_steps a0 a1 s
  | inkRst a0 a1 => exact execInkRst_steps a0 a1 s
  | retry a0 => exact execRetry_steps a0 s
  | innkeeperWatchdog a0 => exact execInnkeeperWatchdog_steps a0 s
  | innkeeperRestartComplete => exact execInnkeeperRestartComplete_steps s
  | referenceClockLoss a0 => exact execReferenceClockLoss_steps a0 s
  | referenceClockReturn a0 => exact execReferenceClockReturn_steps a0 s
  | islandLockLoss a0 => exact execIslandLockLoss_steps a0 s
  | innkeeperBootComplete a0 a1 => exact execInnkeeperBootComplete_steps a0 a1 s
  | eepromReadRetry => exact execEepromReadRetry_steps s
  | innkeeperBootTimeout => exact execInnkeeperBootTimeout_steps s
  | custodyNChange a0 => exact execCustodyNChange_steps a0 s
  | custodyFilterAccept => exact execCustodyFilterAccept_steps s
  | permitContradiction a0 => exact execPermitContradiction_steps a0 s
  | permitWithdrawn a0 => exact execPermitWithdrawn_steps a0 s
  | glbPermitWrite a0 a1 => exact execGlbPermitWrite_steps a0 a1 s
  | cellarDataAccess a0 a1 a2 => exact execCellarDataAccess_steps a0 a1 a2 s
  | storeCommitComplete a0 => exact execStoreCommitComplete_steps a0 s
  | commitTokenGain => exact execCommitTokenGain_steps s
  | wipeComplete => exact execWipeComplete_steps s
  | firmwareConfirmed => exact execFirmwareConfirmed_steps s
  | firmwareFallback a0 => exact execFirmwareFallback_steps a0 s
  | segRecord a0 a1 => exact execSegRecord_steps a0 a1 s
  | ledgerRecordWrite => exact execLedgerRecordWrite_steps s
  | ledRdWrite a0 a1 => exact execLedRdWrite_steps a0 a1 s
  | marginScanStep a0 a1 => exact execMarginScanStep_steps a0 a1 s
  | laneRotation => exact execLaneRotation_steps s
  | rotationAdoptionTimeout => exact execRotationAdoptionTimeout_steps s
  | alignmentRunStart a0 => exact execAlignmentRunStart_steps a0 s
  | alignmentRunComplete a0 => exact execAlignmentRunComplete_steps a0 s
  | thermalCheck a0 a1 => exact execThermalCheck_steps a0 a1 s
  | tripPowerStop => exact execTripPowerStop_steps s
  | tripRestart a0 => exact execTripRestart_steps a0 s
  | holdoverMissLimit a0 => exact execHoldoverMissLimit_steps a0 s
  | psupOkChange a0 => exact execPsupOkChange_steps a0 s
  | vinRangeChange a0 a1 a2 => exact execVinRangeChange_steps a0 a1 a2 s
  | receiverAdaptationStep a0 a1 a2 a3 a4 a5 => exact execReceiverAdaptationStep_steps a0 a1 a2 a3 a4 a5 s
  | alignmentTickEdge => exact execAlignmentTickEdge_steps s

end Sys2Proof.Machine
end

