-- ==== Sys2Proof/WellFormed.lean ====
section
/-!
DEFINITION. Which commands exist: an index names one of the units the spec gives the module, and an address a place in HBM.
A command that is not well formed is sent by nobody; statements about commands take the well-formed ones.
-/
namespace Sys2Proof

open Sys2Proof.Machine (Page)

/-- The page exists (R55). -/
def Machine.Page.wf (p : Page) : Bool := decide (p.inst < p.block.instances)

/-- The units a crossing names exist (R17, R20, R31). -/
def Crossing.wf : Crossing → Bool
  | .lists p => decide (p < 24)
  | .corrected c => decide (c < 3 * 2 ^ 30)
  | .lane n => decide (n < 80)
  | .emptied p _ => p.wf
  | .tile | .allocRead _ | .edge | .sample | .echo => true

/-- The command's operands name units that exist. -/
def wellFormed : Instr → Bool
  | .registerWrite _ _ _ _ => true
  | .loRegisterReadCapture _ _ => true
  | .bar2Read _ _ => true
  | .bar2Write _ _ _ => true
  | .configurationRequest _ => true
  | .msixVectorUnmask _ _ => true
  | .evtRawClear _ page _ => page.wf
  | .evtMaskWrite _ page _ => page.wf
  | .evtRouteWrite _ page _ => page.wf
  | .faultStatClear _ page _ => page.wf
  | .faultInjArm _ page _ => page.wf
  | .pageLockWrite _ page _ => page.wf
  | .resetReq _ page => page.wf
  | .blockResetRelease page => page.wf
  | .pageEnable _ page _ => page.wf
  | .pageQuiesce _ page _ => page.wf
  | .islandLockHeld island => decide (island < 41)
  | .lockTimeout page => page.wf
  | .quiesceComplete page => page.wf
  | .shutdownComplete page => page.wf
  | .crossingWordDeliver kind _ => kind.wf
  | .reckonReq _ => true
  | .reckoningCapture _ => true
  | .reckoningComplete => true
  | .ringDoorbell _ => true
  | .unknownOperation => true
  | .identity => true
  | .firmwareVersion => true
  | .persistentStoreRead => true
  | .persistentStoreWrite => true
  | .lifeCycleRequest => true
  | .firmwareStage _ _ _ _ => true
  | .firmwareCommit => true
  | .calibrationSave => true
  | .calibrationRestore => true
  | .deliveryStart _ _ _ => true
  | .repairStart _ _ _ => true
  | .deliveryAbort _ => true
  | .ingestTransfer source handle _ _ => decide (source < 3) && decide (handle < 16)
  | .blockReceived => true
  | .blockInterpreted => true
  | .stagingBufferFree => true
  | .freeLayout _ _ => true
  | .layoutSpaceReleased => true
  | .post _ => true
  | .waybillResume _ => true
  | .flush _ => true
  | .waybillArm lostBeam => lostBeam.all fun b => decide (b < 262144)
  | .stripeComplete => true
  | .expanderDispatch n _ => decide (n < 8)
  | .listPoolWaitEnd n => decide (n < 8)
  | .bandListComplete n _ _ => decide (n < 8)
  | .slotAssign => true
  | .indexRebuildComplete _ => true
  | .bandCorrected trav => decide (trav < 512)
  | .travellerRelease trav => decide (trav < 512)
  | .rcmpReq _ _ _ => true
  | .binnerRun _ => true
  | .referenceStoreFree => true
  | .tileDispatch => true
  | .tileRecordCompare p _ => decide (p < 24)
  | .tileStall p => decide (p < 24)
  | .stagingPoolFree p => decide (p < 24)
  | .voteResolved _ _ => true
  | .strikeDecay n => decide (n < 52)
  | .pairReform p => decide (p < 24)
  | .rejoin _ n => decide (n < 52)
  | .tileCorrect fail _ => fail.all fun f => decide (f < 64)
  | .kernelWindowWrite _ _ _ => true
  | .doseClassTableWrite _ _ _ => true
  | .surveyStart _ _ _ => true
  | .costWalkStart _ _ _ => true
  | .hostMapCommit _ _ _ => true
  | .hostMapRecheck _ _ _ => true
  | .srvAbort _ => true
  | .surveySegmentWalked n _ _ => decide (n < 8)
  | .walkComplete => true
  | .costWalkComplete => true
  | .fogComplete fail _ => fail.all fun f => decide (f < 64)
  | .sweepColumn fail _ => fail.all fun f => decide (f < 64)
  | .mapComplete => true
  | .hostMapCheckComplete => true
  | .mapRepairComplete => true
  | .itineraryWrite _ itin row _ => decide (itin < 16) && decide (row < 512)
  | .beamTableWrite _ beam _ _ => decide (beam < 262144)
  | .swap _ => true
  | .cancel _ => true
  | .bankCopyComplete => true
  | .alcGeomWrite _ _ => true
  | .tickCompute _ => true
  | .planRebuild => true
  | .allocatorResetAbandon => true
  | .positionSample lane _ _ _ => decide (lane < 2)
  | .deflectionWordTimeout _ => true
  | .motionLaneLockChange lane _ => decide (lane < 2)
  | .holdover _ => true
  | .edgeCommit _ => true
  | .tickEdgeLaunch => true
  | .phaseEdge => true
  | .setpointFrame => true
  | .goMove _ => true
  | .runupStart => true
  | .gapMaxExpiry => true
  | .stop _ => true
  | .resume _ => true
  | .abandon _ => true
  | .haltResume => true
  | .arrayTempReport src _ => decide (src < 4)
  | .temperatureReportStale => true
  | .planRecompute => true
  | .motResetAbandon => true
  | .qlinkFrameSend n _ => decide (n < 80)
  | .tickMarker _ => true
  | .laneMapSet n => decide (n < 80)
  | .echoFrame m _ => decide (m < 4)
  | .statusFrame m _ => decide (m < 4)
  | .echoTimeout n alive => decide (n < 80) && decide (alive < 256)
  | .arrayDead => true
  | .returnLaneLockChange m _ => decide (m < 4)
  | .returnLanePolarityFlip m => decide (m < 4)
  | .pakRetrain _ => true
  | .pakModeChange _ _ => true
  | .trainPhaseComplete => true
  | .bringupTimeout => true
  | .qlkRetrain _ n => decide (n < 80)
  | .laneRetrainComplete n => decide (n < 80)
  | .loadPassport _ => true
  | .passportLoadComplete _ _ => true
  | .hkGo _ _ _ _ => true
  | .hkTransactionComplete _ => true
  | .temperaturePoll _ => true
  | .arrayAlert => true
  | .detectorLockChange ch _ rate => decide (ch < 4) && decide (rate < 65536)
  | .detectorPhaseStep ch mid => decide (ch < 4) && decide (mid < 16)
  | .checkRunStart _ => true
  | .checkRunComplete _ _ _ _ _ => true
  | .aryBcStart _ _ _ => true
  | .aryBcAbort _ => true
  | .writeBackApply => true
  | .hbmRead addr flips _ => decide (addr < 96 * 2 ^ 30) && flips.all fun e => decide (e.1 < 36)
  | .hbmWrite addr data _ _ => decide (addr + data.length ≤ 96 * 2 ^ 30)
  | .memFillComplete n => decide (n < 4)
  | .scrubRead n flips => decide (n < 4) && flips.all fun e => decide (e.1 < 36)
  | .scrubberBehind n => decide (n < 4)
  | .refreshDue n pc bank _ => decide (n < 4) && decide (pc < 32) && decide (bank < 64)
  | .refreshCycleEnd n pc bank => decide (n < 4) && decide (pc < 32) && decide (bank < 64)
  | .stackTemperatureRead n _ => decide (n < 4)
  | .pop _ n => decide (n < 4)
  | .pprGo _ n => decide (n < 4)
  | .pprComplete n _ => decide (n < 4)
  | .spareGo _ n _ => decide (n < 4)
  | .sparingComplete n => decide (n < 4)
  | .pseudoChannelDead n pc => decide (n < 4) && decide (pc < 32)
  | .testWrite _ => true
  | .testRead _ => true
  | .mem0RegionWrite _ _ => true
  | .memResetLoss => true
  | .dmaGo _ _ => true
  | .dmaResponse _ _ _ => true
  | .dmaCompletionTimeout _ => true
  | .dmaDescriptorComplete _ => true
  | .dmaDescriptorFetch _ _ => true
  | .pause _ _ => true
  | .dmaPaused _ => true
  | .dmaResume _ _ => true
  | .dmaStop _ _ => true
  | .clearErr _ _ => true
  | .busMasterEnableCleared => true
  | .feedB n _ _ => decide (n < 8)
  | .feedH n _ _ => decide (n < 8)
  | .feedW n _ _ => decide (n < 8)
  | .chkQueueEntryTaken n => decide (n < 8)
  | .chkStart n _ _ => decide (n < 8)
  | .preset n _ _ => decide (n < 8)
  | .cmpGo n _ _ => decide (n < 8)
  | .runWrite n _ _ _ => decide (n < 8)
  | .alive n _ _ => decide (n < 8)
  | .incApply _ _ _ => true
  | .timeStep _ _ _ => true
  | .alarmDue => true
  | .ethernetFrameReceive _ _ _ _ _ _ _ => true
  | .receiveBufferDrain _ => true
  | .pauseQuantaExpiry _ _ _ => true
  | .ethernetLinkChange _ _ _ _ => true
  | .txRingEntrySend _ _ _ _ => true
  | .txrIdxWrite _ _ _ => true
  | .rxrIdxWrite _ _ _ => true
  | .reqFrame _ _ _ _ => true
  | .dataFrame _ _ _ _ => true
  | .credit _ => true
  | .helloFrame _ _ _ => true
  | .helloSend => true
  | .neighbourLost _ => true
  | .lsaFrame _ _ => true
  | .lsaFlood => true
  | .lsaExpiry _ => true
  | .membershipSettled => true
  | .fabricFrameForward _ _ => true
  | .fabReckGo _ _ => true
  | .reckReq _ _ => true
  | .reckData _ _ => true
  | .reckonRequestTimeout => true
  | .fabShareGo _ _ => true
  | .shareReq _ _ => true
  | .shareRsp _ _ => true
  | .shareAnswerTimeout => true
  | .shareCreditTimeout _ => true
  | .lxport _ _ => true
  | .densFrame _ _ => true
  | .densEnd _ _ => true
  | .densNakTimer _ => true
  | .densNak _ _ => true
  | .takeGo _ => true
  | .mapcrc _ _ => true
  | .treqSend _ => true
  | .treq _ _ _ _ => true
  | .trsp _ _ _ => true
  | .mstatSend => true
  | .mstat _ _ => true
  | .fstatSend => true
  | .fstat _ _ => true
  | .hreq _ _ => true
  | .planFrame _ _ => true
  | .leadLost => true
  | .memberLost _ => true
  | .fabMotStop _ => true
  | .fabMotGo _ => true
  | .fabricReset _ _ => true
  | .vinStart => true
  | .powerFailWarning => true
  | .warningEnd => true
  | .powerDown => true
  | .overvoltage => true
  | .overvoltageEnd => true
  | .phaseSwitchOff _ => true
  | .sparePhaseActivate => true
  | .resetNFall _ => true
  | .moduleResetAssert => true
  | .moduleResetBlockAssert => true
  | .moduleResetRelease => true
  | .perstNAssert => true
  | .perstNRelease => true
  | .modRst _ _ => true
  | .inkRst _ _ => true
  | .retry _ => true
  | .innkeeperWatchdog _ => true
  | .innkeeperRestartComplete => true
  | .referenceClockLoss _ => true
  | .referenceClockReturn _ => true
  | .islandLockLoss island => decide (island < 41)
  | .innkeeperBootComplete _ _ => true
  | .eepromReadRetry => true
  | .innkeeperBootTimeout => true
  | .custodyNChange _ => true
  | .custodyFilterAccept => true
  | .permitContradiction _ => true
  | .permitWithdrawn _ => true
  | .glbPermitWrite _ _ => true
  | .cellarDataAccess _ _ _ => true
  | .storeCommitComplete _ => true
  | .commitTokenGain => true
  | .wipeComplete => true
  | .firmwareConfirmed => true
  | .firmwareFallback _ => true
  | .segRecord trav _ => decide (trav < 512)
  | .ledgerRecordWrite => true
  | .ledRdWrite _ _ => true
  | .marginScanStep n _ => decide (n < 80)
  | .laneRotation => true
  | .rotationAdoptionTimeout => true
  | .alignmentRunStart _ => true
  | .alignmentRunComplete _ => true
  | .thermalCheck _ _ => true
  | .tripPowerStop => true
  | .tripRestart _ => true
  | .holdoverMissLimit _ => true
  | .psupOkChange _ => true
  | .vinRangeChange _ _ _ => true
  | .receiverAdaptationStep rx _ _ _ _ _ => decide (rx < 6)
  | .alignmentTickEdge => true

end Sys2Proof
end

