-- ==== Sys2Proof/Tests/Slice0.lean ====
section
/-!
SUPPORT. The model's own tests. First, statement by statement, concrete states and operands that meet its hypotheses
(test_meets_…), one line for each clause; then the well-formedness smoke; then values that the spec prints or that follow by
hand from its tables; then single steps.
-/
namespace Sys2Proof.Tests

open Sys2Proof Sys2Proof.Machine

-- One theorem is checked after the other: each checking thread takes a large stack.
set_option Elab.async false

/-! ### States to test on -/

/-- Every page in one STATE, the module booted and OPEN with its supplies, clocks and memory good. -/
def at_ (st : Nat) : State :=
  let s : State := { regs := allPages.map fun p => ((Hdr.state p).key, st)
                     pwr := { phaseLow := false, perstRst := false, ref156 := true, ref100 := true, booted := true }
                     pins := { psupOk := true, custody := false, custodyRaw := false, perstN := true } }
  s.wrs ([(Reg.RCK_ISL_LOCK_LO_LOCK, 0xFFFFFFFF), (Reg.RCK_ISL_LOCK_HI_LOCK, 0x1FF), (Reg.LCY_STATE_STATE, 0x10),
    (Reg.LCY_STATE_CUSTODY, 1), (Reg.INK_STATUS_INK_DOWN, 0)] ++ (List.range 4).map fun m => (Reg.MEM_STAT_INIT_DONE m, 1))

/-- Every page RUNNING. -/
def up : State := at_ 4
/-- Every page IDLE. -/
def idle : State := at_ 3
/-- The next state of a command; reset where it stops. -/
def after (c : Instr) (s : State) : State := match exec c s with | .next t => t | _ => State.reset
/-- It answers a next state. -/
def goesOn (o : Host.Outcome State Fault Refusal) : Bool := match o with | .next _ => true | _ => false

/-! ### Hypotheses met: the module, pages and access (chapters 2 and 3) -/

theorem test_meets_EmptyQueueCountsOneClock :
    (up.pending = [] ∧ up.pwr.powered = true ∧ up.inReset pTIM = false) ∧
    (State.reset.pending = [] ∧ State.reset.inReset pTIM = true) ∧
    (({ up with pwr := { up.pwr with powered := false } } : State).pwr.powered = false) := by decide +kernel

/-- A small plan and its waybill: stripe 0 of handle 0, 8 lines, K = 4, A = 4. -/
def pl : Plan :=
  { k := 4, g := 1000, a := 4, n := 4, bank := 0, lanes := 1, full := 100, emax := 15, dutyBeam := 100, dutyGrp := 100, dseed := 0,
    damp := 0, weakAbs := 0, acc := 1, dec := 1, stop := 1, vmax := 1, settle := 1, tMin := 4000, tq := [4000], bands := [[(0, 1)]] }
def wb : Waybill := { seq := 1, words := [0, 0, 8, 256, 0x40, 0, 0, 0], plan := some pl }
/-- Its one traveller, in slot 0. -/
def tr : Traveller := { state := .buffered, wseq := 1, slot := some 0, listed := 1, corrected := 1, valid := true }
/-- The stripe in hand, its segment in the slot. -/
def stripe : State :=
  { up with ing := { up.ing with waybills := [wb], travellers := tr :: List.replicate 511 {} } }


/-- Permit closed, staging open, HSTATE IDLE. -/
def bench : State := { (up.wrs [(Reg.GLB_PERMIT_REQ, 1), (Reg.ALC_BT_STAT_WRITABLE, 1), (Reg.ARY_DET_CFG_LANES, 0)]) with pins := { up.pins with permitLvl := true } }

theorem test_meets_EveryOtherCommandCompletes :
    beyondHbm (.hbmRead (hbmSize - 1) [] false) = false ∧ beyondHbm (.hbmWrite (hbmSize - 1) [5] false false) = false ∧
    beyondHbm .powerDown = false := by decide +kernel

/-- A state whose permit switch is closed. -/
def closed : State := up.wr Reg.GLB_PERMIT_REQ 1

theorem test_meets_StepKeepsPermitSafe : closed.permitSafe = true ∧ goesOn (step closed) = true := by decide +kernel

theorem test_meets_PermitNeedsEveryGround : closed.permitSafe = true ∧ closed.rd Reg.GLB_PERMIT_REQ = 1 := by decide +kernel

theorem test_meets_StepKeepsStoresCanonical : up.canonical = true ∧ goesOn (step up) = true := by decide +kernel

theorem test_meets_StepKeepsNumbersOfThings : State.reset.shaped ∧ goesOn (step State.reset) = true := by
  simp only [State.shaped, Ing.shaped, Pak.shaped, MemCtl.shaped, Dma.shaped, netShaped, Ink.shaped, chkShaped]
  decide +kernel

theorem test_meets_CommandsKeepOtherParts : beyondHbm (.hbmRead (hbmSize - 1) [] false) = false := by decide +kernel

theorem test_meets_PermitSwitchChangesOnlyItsOwn :
    (State.reset.rd Reg.GLB_PERMIT_REQ ≠ 1) ∧ (closed.gated = false) ∧
    ((State.reset.wr Reg.GLB_PERMIT_REQ 1).rd Reg.GLB_PERMIT_REQ = 1 ∧ (State.reset.wr Reg.GLB_PERMIT_REQ 1).gated = true) := by
  decide +kernel

theorem test_meets_EventBitsClearWhereWritten : (Page.ok ⟨.chk, 7⟩ = true) ∧ up.hears .host = true ∧ up.hears .innkeeper = true := by
  decide +kernel

theorem test_meets_FaultBitsClearOnlyWithoutCause : Page.ok ⟨.qlk, 79⟩ = true ∧ up.hears .host = true := by decide +kernel

theorem test_meets_PageLockHoldsUntilReset : Page.ok ⟨.glb, 0⟩ = true ∧
    (up.wr Reg.LCY_STATE_STATE 0x30).hears .console = true := by decide +kernel

/-- HST answers, vector 5 of page p is unmasked or not, and event 3 of p is set with its mask bit 1 or 0. -/
def evState (off masked maskBit : Nat) : State :=
  up.wrs [(Hdr.evtNum pMOT, 5), (Hdr.evtOff pMOT, off), (Reg.msixWord 5 3, masked), (Hdr.evtRaw pMOT, 8),
    (Hdr.evtMask pMOT, maskBit * 8), (Reg.msixPend 0, 32)]

theorem test_meets_MasksAndRoutesMakeMessages :
    (Page.ok pMOT = true ∧ (evState 0 0 0).hears .host = true ∧ (evState 0 0 0).inReset pHST = false ∧
      (evState 0 0 0).rd (Hdr.evtNum pMOT) < 128) ∧
    ((evState 1 0 0).bit (Hdr.evtOff pMOT) = true) ∧
    ((evState 0 0 0).bit (Hdr.evtOff pMOT) = false ∧ (evState 0 0 0).vectorMasked 5 = false) ∧
    ((evState 0 1 0).vectorMasked 5 = true ∧ (evState 0 1 0).evt pMOT 3 = true ∧
      (after (.evtMaskWrite .host pMOT 8#32) (evState 0 1 0)).rd (Hdr.evtMask pMOT) = 8) ∧
    ((evState 0 0 1).pageEvent pMOT = true ∧ (6#32).toNat / 256 % 2 = 0 ∧ (6#32).toNat % 128 ≠ (evState 0 0 1).rd (Hdr.evtNum pMOT) ∧
      (evState 0 0 1).bit (Hdr.evtOff pMOT) = false) ∧
    ((evState 1 0 1).pageEvent pMOT = true ∧ (evState 1 0 1).bit (Hdr.evtOff pMOT) = true) ∧
    ((5#32).toNat % 128 = (evState 0 0 1).rd (Hdr.evtNum pMOT)) ∧
    ((evState 0 1 0).vectorMasked 5 = true ∧ ((evState 0 1 0).rd (Reg.msixPend (5 / 32))).testBit (5 % 32) = true) ∧
    ((evState 0 0 0).vectorMasked 5 = false) := by decide +kernel

theorem test_meets_RaisingAnEvent :
    (Page.ok ⟨.qlk, 79⟩ = true ∧ up.rd (Hdr.evtNum ⟨.qlk, 79⟩) < 128) ∧
    ((evState 0 0 1).evt pMOT 3 = true) ∧ ((evState 0 0 1).evt pMOT 31 = false) ∧
    ((evState 0 0 1).rd (Hdr.raises pMOT) ≤ 0xFFFF) ∧ (((evState 0 0 0).rd (Hdr.evtMask pMOT)).testBit 31 = false) ∧
    (((evState 0 0 1).wr (Hdr.evtRaw pMOT) 0).evt pMOT 3 = false ∧ ((evState 0 0 1).rd (Hdr.evtMask pMOT)).testBit 3 = true ∧
      (evState 0 0 1).bit (Hdr.evtOff pMOT) = false ∧ (evState 0 0 1).inReset pHST = false ∧
      (evState 0 0 1).vectorMasked ((evState 0 0 1).rd (Hdr.evtNum pMOT)) = false) := by decide +kernel

theorem test_meets_InterruptPinsFollowDeviceEvents :
    ((evState 0 0 1).wr (irqSel 5) 0xB).irqLow 3 = true ∧ ((evState 0 0 1).wr (irqSel 5) 0xB).irqLow 0 = false := by decide +kernel

/-! ### Hypotheses met: page states and resets -/

/-- MOT in a STATE, with a QUIESCE and a PEND_EN bit. -/
def motIn (st q e : Nat) : State := up.wrs [(Hdr.state pMOT, st), (Hdr.quiesce pMOT, q), (Hdr.pendEn pMOT, e)]

theorem test_meets_PageEnableFollowsTheTable :
    (Page.ok pMOT = true ∧ up.hears .host = true) ∧ (pMOT.block ≠ .led ∧ pMOT.block ≠ .mem) ∧ ((up.wr Reg.LED_CFG_BASE 98000).ringFits = true) ∧ (idle.memHeld = false) ∧
    ((motIn stOFF 0 0).pstate pMOT = stOFF) ∧ ((motIn stSTOPPING 0 0).pstate pMOT = stSTOPPING) ∧ ((motIn stOFF 0 0).pstate pMOT < 3) ∧
    ((motIn stRELEASING 0 0).pstate pMOT = stRELEASING) ∧ ((motIn stRESET 0 0).pstate pMOT = stRESET) ∧ (idle.pstate pMOT = stIDLE) ∧
    ((motIn stQUIESCING 0 0).pstate pMOT = stQUIESCING) ∧ ((motIn stQUIESCED 0 0).pstate pMOT = stQUIESCED) := by decide +kernel

theorem test_meets_PageQuiesceAndShutdownFollowTheTable :
    (idle.pstate pMOT = stIDLE) ∧ (up.pstate pMOT = stRUNNING) ∧ ((motIn stQUIESCED 1 0).pstate pMOT = stQUIESCED) ∧
    ((motIn stQUIESCING 1 0).workInHand pMOT = false ∧ (motIn stQUIESCING 1 0).pstate pMOT = stQUIESCING ∧ (motIn stQUIESCING 1 0).bit (Hdr.quiesce pMOT) = true) ∧
    ((motIn stQUIESCING 0 0).workInHand pMOT = false ∧ (motIn stQUIESCING 0 0).rd (Hdr.quiesce pMOT) = 0) ∧
    ((motIn stSTOPPING 0 1).workInHand pMOT = false ∧ (motIn stSTOPPING 0 1).pstate pMOT = stSTOPPING ∧ (motIn stSTOPPING 0 1).rd (Hdr.pendEn pMOT) = 1) ∧
    ((motIn stSTOPPING 0 0).pstate pMOT = stSTOPPING ∧ (motIn stSTOPPING 0 0).rd (Hdr.pendEn pMOT) = 0) := by decide +kernel

/-- A page that a request holds in reset. -/
def held (p : Page) : State := up.wrs [(Hdr.state p, stRESET), (Hdr.resetReq p, 1)]

theorem test_meets_BlockResetAndReleaseFollowTheTable :
    (up.hears .host = true ∧ pMOT.block ≠ .rck ∧ pMOT.block ≠ .ink ∧ pMOT.block ≠ .mem ∧ up.pstate pMOT ≠ stRESET) ∧
    ((held pMOT).rd (Hdr.resetReq pMOT) = 1 ∧ (held pMOT).refPresent pMOT.island = true ∧
      ((held pMOT).wr (Hdr.resetReq pMOT) 0).mayRelease pMOT = true ∧ (held pMOT).pstate pMOT = stRESET) ∧
    ((held (pMEM 0)).rd (Hdr.resetReq (pMEM 0)) = 1 ∧ (held (pMEM 0)).refPresent (pMEM 0).island = true ∧
      ((held (pMEM 0)).wr (Hdr.resetReq (pMEM 0)) 0).mayRelease (pMEM 0) = true) ∧
    ((up.wr (Hdr.state pMOT) stRELEASING).pstate pMOT = stRELEASING) ∧
    (up.pwr.powered = true ∧ up.refPresent 40 = true ∧ up.refPresent 10 = true ∧ up.pwr.perstRst = false ∧ up.pwr.booted = true) ∧
    ((up.wr (Reg.RAS_ROLE_ROLE 51) roleRETIRED).role 51 = roleRETIRED) := by decide +kernel

theorem test_meets_BlockResetAndReleaseFollowTheTable_reaches : up.reaches .host (pRAS 51) := by
  simp only [State.reaches]; decide +kernel

theorem test_meets_BlockResetRestoresTheRegisters :
    (Page.ok pTIM = true ∧ up.rd Reg.SRV_STAT_PHASE = 0) ∧
    (pTIM.block ∈ [Block.lcy, .tim, .fab, .exp, .cor, .dma, .chk, .led] ∧ pTIM.holds Reg.TIM_INC_LO_INC.addr = true ∧
      Reg.TIM_INC_LO_INC.lo < 32) ∧
    (pTIM.holds Reg.GLB_PERMIT_REQ.addr = false ∧ Reg.GLB_PERMIT_REQ.lo < 32) := by decide +kernel

/-! ### Hypotheses met: check units -/

theorem test_meets_CheckUnitWritesEnterTheQueue :
    (up.hears .host = true ∧ up.chkAccepts 0 .host = true) ∧
    ((after (.feedB 5 .host 1#32) up).chkUnit 5).queue ≠ [] ∧ (5 < up.chk.length) ∧
    (up.hears .host = true ∧ up.chkAccepts 7 .host = false) := by decide +kernel

theorem test_meets_ReflectedFeedIsTheMirrorOfTheNormalFeed :
    (8 ≤ (presetSet 0).w ∧ (presetSet 0).w ≤ 64 ∧ (presetSet 0).poly < 2 ^ (presetSet 0).w ∧ (presetSet 0).init < 2 ^ (presetSet 0).w ∧
      (presetSet 0).xorOut < 2 ^ (presetSet 0).w) ∧
    (8 ≤ (presetSet 4).w ∧ (presetSet 4).w ≤ 64 ∧ (presetSet 4).poly < 2 ^ (presetSet 4).w ∧ (presetSet 4).init < 2 ^ (presetSet 4).w) := by
  decide +kernel

theorem test_meets_CheckUnitControlActsAsWritten :
    (up.rd (Reg.CHK_INIT_LO_INIT 7) < 2 ^ 32 ∧ up.rd (Reg.CHK_INIT_HI_INIT 7) < 2 ^ 32 ∧
      (up.chkSet 7).feed (up.chkRun 7) [0x31] < 2 ^ 64) ∧
    ((up.chkSet 7).final (up.chkRun 7) % 2 ^ (up.chkSet 7).w ≠
      up.rd64 (Reg.CHK_EXP_LO_EXP 7) (Reg.CHK_EXP_HI_EXP 7) % 2 ^ (up.chkSet 7).w ∨
      (up.chkSet 7).final (up.chkRun 7) % 2 ^ (up.chkSet 7).w =
      up.rd64 (Reg.CHK_EXP_LO_EXP 7) (Reg.CHK_EXP_HI_EXP 7) % 2 ^ (up.chkSet 7).w) ∧
    (up.bit (Hdr.injArm (pCHK 7)) = false) ∧ (0xFF + 2 ^ 32 * 0 < 2 ^ up.rd (Reg.CHK_CFG_WIDTH 7)) := by decide +kernel

/-- Unit 0 with ALIVE enabled in width 4, E, SYNC. -/
def alive (e sync : Nat) : State :=
  up.wrs [(Reg.CHK_ALIVE_CFG_EN 0, 1), (Reg.CHK_ALIVE_CFG_AW 0, 0), (Reg.CHK_ALIVE_EXP_E 0, e), (Reg.CHK_ALIVE_CFG_SYNC 0, sync)]

theorem test_meets_AliveCountersFollowTheTable :
    (up.bit (Hdr.injArm (pCHK 0)) = false ∧ up.rd (Reg.CHK_ALIVE_CFG_AW 0) < 4 ∧ up.chkRun 0 < 2 ^ 64 ∧
      up.bit (Reg.CHK_ALIVE_CFG_EN 0) = false) ∧
    ((alive 0 0).bit (Reg.CHK_ALIVE_CFG_EN 0) = true ∧ ((alive 0 0).chkSet 0).feed ((alive 0 0).chkRun 0) (leBytes 1 15) < 2 ^ 64) ∧
    -- repeated: a = 15, E = 0; skipped: a = 1, E = 0; in order: a = E = 0; synchronising
    ((alive 0 0).bit (Reg.CHK_ALIVE_CFG_SYNC 0) = false ∧ (15 + 1) % 2 ^ 4 = (alive 0 0).rd (Reg.CHK_ALIVE_EXP_E 0) % 2 ^ 4) ∧
    ((1 + 1) % 2 ^ 4 ≠ (alive 0 0).rd (Reg.CHK_ALIVE_EXP_E 0) % 2 ^ 4) ∧ ((alive 9 1).bit (Reg.CHK_ALIVE_CFG_SYNC 0) = true) := by
  decide +kernel

/-! ### Hypotheses met: accesses by address, reckoning and time -/

theorem test_meets_RegisterWritesCompleteByAddress :
    ((0x84#26).toNat % 4 = 0 ∧ pageAt (0x3C#26).toNat = some pGLB ∧ (0x3C#26).toNat - pGLB.base < 0x40) ∧
    (pageAt (0x84#26).toNat = some pGLB ∧ 0x40 ≤ (0x84#26).toNat - pGLB.base ∧ regFields pGLB 0x84 ≠ [] ∧ pGLB.block ≠ .chk ∧
      reservedIn (regFields pGLB 0x84) (1#32).toNat = false ∧ up.reservedPair pGLB 0x84 (1#32).toNat = false ∧
      up.writeHeld pGLB 0x84 = false ∧ (up.regOp .host pGLB 0x84 (1#32).toNat).isNone = true) ∧
    (regFields pTIM 0x50 ≠ [] ∧ pageAt (0x40050#26).toNat = some pTIM ∧ State.reset.inReset pTIM = true) ∧
    ((7#4 : BitVec 4) ≠ 0xF) ∧
    (pageAt (0x79010#26).toNat = none ∧ 0x79010 ≤ (0x79010#26).toNat ∧ tableMapped (0x79010#26).toNat = false ∧
      ¬ (0x2000000 ≤ (0x79010#26).toNat) ∧ ¬ (0x3000000 ≤ (0x79010#26).toNat)) ∧
    (pageAt (0x3040000#26).toNat = none ∧ tableMapped (0x3040000#26).toNat = false) := by decide +kernel

theorem test_meets_RegisterWritesCompleteByAddress_reaches : up.reaches .host pGLB := by simp only [State.reaches]; decide +kernel

theorem test_meets_ReservedValuesDiscardTheWholeWrite :
    (up.reaches .host pMOT ∧ pageAt (0x310040#26).toNat = some pMOT ∧ 0x40 ≤ (0x310040#26).toNat - pMOT.base ∧ pMOT.block ≠ .chk) ∧
    (∃ e ∈ regFields pMOT 0x40, e.1.acc ≠ .ro ∧ e.1.legal ≠ [] ∧ ∀ r ∈ e.1.legal, e.1.part 127 < r.1 ∨ r.2 < e.1.part 127) ∧
    (regFields pMOT 0xF0 ≠ [] ∧ up.reservedPair pMOT 0xF0 0 = true) ∧
    (4 < 5 % 8) ∧ (7 % 128 < 8 ∧ 64 < 65 % 128) ∧
    (2 ^ (up.wr (Reg.CHK_CFG_WIDTH 0) 8).rd (Reg.CHK_CFG_WIDTH 0) ≤ 256 + 2 ^ 32 * 0) := by
  simp only [State.reaches]; decide +kernel

theorem test_meets_FieldsLandOneByOne :
    -- every access code, a locked page, and an RW-L field of a running page
    (Page.ok pINK = true ∧ ∃ e ∈ regFields pINK 0x40, e.1.acc = .rwl ∧ up.running pINK = true) ∧
    (∃ e ∈ regFields pINK 0x48, e.1.acc = .w1c) ∧ (∃ e ∈ regFields pINK 0x48, e.1.acc = .ro) ∧
    (∃ e ∈ regFields pRCK 0x40, e.1.acc = .wo) ∧ (∃ e ∈ regFields pRCK 0x40, e.1.acc = .w1s) ∧
    (∃ e ∈ regFields pMOT 0x50, e.1.acc = .rw ∧ e.1.lock = true ∧ (up.wr (Hdr.lock pMOT) 1).locked pMOT = true) ∧
    (∃ e ∈ regFields pMOT 0x50, e.1.acc = .rw ∧ up.locked pMOT = false) := by decide +kernel

theorem test_meets_RegisterReadsReturnWhatRegistersHold :
    (pageAt (0x40044#26).toNat = some pTIM ∧ captured .tim 0x44 = true ∧ captured .tim 0x40 = false ∧ up.inReset pTIM = false ∧
      up.bit (Hdr.injArm pTIM) = false) ∧
    (State.reset.inReset pTIM = true) ∧
    (pageAt (0x607040#26).toNat = some (pCHK 7) ∧ (up.chkUnit 7).queue = [] ∧ captured .chk 0x40 = false ∧ captures .chk 0x40 = []) := by
  decide +kernel

theorem test_meets_TimeReadsPairTheirHalves : up.inReset pTIM = false ∧ up.tim.c < 2 ^ 64 := by decide +kernel

/-- A reckoning in hand, captured or not. -/
def reck (body : Option (List Byte)) (pend : Nat) : State :=
  { up.wrs [(Reg.GLB_RECKON_BUSY, 1), (Reg.GLB_RECKON_PEND, pend)] with reck := { captured := body } }

theorem test_meets_ReckoningRequestsQueueAndMerge :
    (up.reaches .innkeeper pGLB ∧ up.rd Reg.GLB_RECKON_BUSY = 0) ∧
    ((reck none 0).reaches .host pGLB ∧ (reck none 0).rd Reg.GLB_RECKON_BUSY = 1 ∧ (reck none 0).rd Reg.GLB_RECKON_PEND = 0 ∧
      (reck none 0).pwr.modPhase = .none ∧ (reck none 0).reck.captured = none) ∧
    ((reck none 1).reaches .host pGLB ∧ (reck none 1).rd Reg.GLB_RECKON_BUSY = 1 ∧ (reck none 1).rd Reg.GLB_RECKON_PEND = 1) ∧
    ((reck (some [7]) 0).reck.captured = some [7] ∧ (reck (some [7]) 0).reck.peers = [] ∧ (reck (some [7]) 0).rd Reg.GLB_RECKON_PEND = 0) := by
  simp only [State.reaches]; decide +kernel

theorem test_meets_SummariesHaveTheirLayout : allPages[201]? = some pLED ∧ up.islandLocked pLED.island = true ∧
    State.reset.islandLocked pLED.island = false := by decide +kernel

theorem test_meets_IncrementChangesKeepTimeContinuous :
    (up.reaches .host pTIM ∧ up.tim.heldInc.getD (up.rd Reg.TIM_INC_LO_INC) < 2 ^ 32) ∧
    (let s : State := { up with tim := { heldInc := some (13730151452 % 2 ^ 32) } }
     s.reaches .host pTIM ∧ 13730151452 ≤ s.tim.heldInc.getD 0 + 2 ^ 32 * ((3#32).toNat % 256) ∧
     s.tim.heldInc.getD 0 + 2 ^ 32 * ((3#32).toNat % 256) ≤ 13757639242 ∧ s.tim.bad = false ∧ ({ s with tim := { s.tim with bad := true } } : State).tim.bad = true) ∧
    (up.tim.heldInc.getD (up.rd Reg.TIM_INC_LO_INC) + 2 ^ 32 * ((0#32).toNat % 256) < 13730151452) ∧
    (13757639242 < up.tim.heldInc.getD (up.rd Reg.TIM_INC_LO_INC) + 2 ^ 32 * ((255#32).toNat % 256)) := by
  simp only [State.reaches]; decide +kernel

theorem test_meets_TimeStepsByExactlyD :
    (idle.reaches .host pTIM ∧ idle.tim.heldAdj.getD 0 < 2 ^ 32 ∧ idle.running pMOT = false ∧ idle.rd Reg.TIM_CTRL_ALARM_EN = 0) ∧
    (up.reaches .host pTIM ∧ up.running pMOT = true) := by simp only [State.reaches]; decide +kernel

theorem test_meets_ClocksAndTheAlarm :
    (up.inReset pTIM = false ∧ up.pwr.powered = true ∧ up.tim.bad = false ∧ up.tim.c < 2 ^ 64 ∧ up.pstate pTIM ≠ 0) ∧
    (let s := up.wrs [(Reg.TIM_CTRL_ALARM_EN, 1), (Reg.TIM_ALARM_LO_ALARM, 0), (Reg.TIM_ALARM_HI_ALARM, 0)]
     s.rd Reg.TIM_CTRL_ALARM_EN = 1 ∧ s.rd64 Reg.TIM_ALARM_LO_ALARM Reg.TIM_ALARM_HI_ALARM ≤ s.now) ∧
    (up.rd Reg.TIM_CTRL_ALARM_EN = 0) ∧
    (let s := up.wrs [(Reg.TIM_CTRL_ALARM_EN, 1), (Reg.TIM_ALARM_LO_ALARM, 1), (Reg.TIM_ALARM_HI_ALARM, 0)]
     s.now < s.rd64 Reg.TIM_ALARM_LO_ALARM Reg.TIM_ALARM_HI_ALARM) ∧
    up.reaches .host pTIM := by simp only [State.reaches]; decide +kernel

/-! ### Hypotheses met: motion -/

/-- A position frame with a status byte: SEQ 7, X = 1, Y = 2. -/
def posOf (status : Nat) : List Byte :=
  let b : List Byte := [0x50, 7, 0, 1, 0, 0, 0, 0, 0, 2, 0, 0, 0, 0, 0, BitVec.ofNat 8 status, 0]
  b ++ leBytes 4 (crc32c.of b)

/-- The position port locked on both lanes, in a position state. -/
def port (ps : Nat) : State := up.wrs [(Reg.MOT_POS_STAT_LOCK, 3), (Reg.MOT_POS_STAT_PSTATE, ps), (Reg.MOT_PORT_RXMODE, 0)]
/-- With a sample taken at time 0 in hand. -/
def seen (ps gap : Nat) : State := (port ps).modMot fun m => { m with samples := [⟨7, 1, 2, 3, 0, 0, 0⟩], gap := gap }

theorem test_meets_PositionPortCommandsComplete :
    ((port psNOLOCK).live pMOT = true ∧ (port psNOLOCK).laneUsed 1 = true ∧ (posFrame []).formOk = false) ∧
    ((posFrame (posOf 0)).formOk = true ∧ (posFrame (posOf 0)).valid = false) ∧
    ((posFrame (posOf 3)).formOk = true ∧ (posFrame (posOf 3)).valid = true ∧ (port psNOLOCK).posState = psNOLOCK ∧
      (port psLOST).posState = psLOST ∧ (port psNOLOCK).mot.copy = none) ∧
    ((port 0).mot.lastWord + (if (port 0).safeMode then 800 else 960) ≤ 960) ∧
    ((port 0).inReset pMOT = false ∧ (port 0).rd Reg.MOT_POS_STAT_LOCK < 4 ∧ ((port 0).rd Reg.MOT_POS_STAT_LOCK).testBit 1 = !false ∧
      (port 0).rd Reg.MOT_PORT_RXMODE = 0 ∧ ((port 0).rd Reg.MOT_POS_STAT_LOCK).testBit (1 - 1) = true) ∧
    ((seen psVALID 0).posState = psVALID ∧ (seen psVALID 0).overdue 1000000 0 = true) ∧
    ((seen psHOLDOVER 1).posState = psHOLDOVER ∧ (seen psHOLDOVER 1).overdue 1000000 1 = true ∧
      1 + 1 ≤ ((seen psHOLDOVER 1).wr Reg.MOT_TRIG_MISS_LIM 2).rd Reg.MOT_TRIG_MISS_LIM) ∧
    (((seen psHOLDOVER 2).wr Reg.MOT_TRIG_MISS_LIM 2).rd Reg.MOT_TRIG_MISS_LIM < 2 + 1 ∧ (seen psHOLDOVER 2).overdue 1000000 2 = true) ∧
    (State.reset.safeMode = true) ∧
    (let s := (port psVALID).modMot fun m => { m with trajectory := true }
     s.safeMode = false ∧ s.isFollower = false ∧ s.mot.trajectory = true ∧ s.axesStep.isFollower = false) := by decide +kernel

/-- The stripe running, tick 0 computed, its stream acknowledged. -/
def running_ : State :=
  { (stripe.wrs [(Reg.MOT_POS_STAT_PSTATE, psVALID), (Reg.MOT_POS_STAT_SUPPRESS, 0), (Reg.MOT_HALT_STAT_HSTATE, hRUN),
      (Reg.MOT_TICK_NEXT_TICK, 0)]) with
    alc := { next := 1 }
    pak := { up.pak with streams := [{ logical := 0, wseq := 1, k := 1, n := 4, order := 0, total := 2 ^ 30, pos := 2 ^ 29 }] } }

theorem test_meets_TickEdgesAndRunupsComplete_edge :
    (running_.cur = some (wb, pl) ∧ running_.live pMOT = true ∧ running_.posLive = true ∧ running_.suppressed = false ∧
      running_.mot.committed = none ∧ running_.tickNext < nTicks wb.length pl.k pl.a ∧ running_.ceiling = none ∧
      running_.allocHolds running_.tickNext = true ∧ running_.tickAcked wb.seq pl.lanes running_.tickNext = true) ∧
    ((running_.modMot fun m => { m with due := true }).mot.due = true) ∧ ((256 : Int) - 256 ≤ 0) ∧
    (let s := running_.modMot fun m => { m with committed := some (0, 800) }
     s.cur = some (wb, pl) ∧ s.mot.committed = some (0, 800) ∧ s.live pMOT = true ∧ s.posLive = true ∧
     0 + 1 < nTicks wb.length pl.k pl.a ∧ s.hstate ≠ hRUNUP ∧ s.isFollower = false) ∧
    (let s := running_.modMot fun m => { m with lastEdge := some (0, 800, 16, 5), nextPhase := 15 }
     s.mot.lastEdge = some (0, 800, 16, 5) ∧ s.mot.nextPhase < 16) := by decide +kernel

/-- The stripe in a turnaround, both axes at rest at the run-up point. -/
def turned : State :=
  ((running_.wrs [(Reg.MOT_HALT_STAT_HSTATE, hTURN), (Reg.MOT_HALT_STAT_REASON, 0)])).modMot fun m =>
    { m with atRunup := true, xDwell := 2 ^ 20 }

theorem test_meets_TickEdgesAndRunupsComplete_runup :
    ((turned.autoClear.alignCheck).dwellOver = true) ∧ (turned.hstate = hTURN ∧ turned.mot.atRunup = true) ∧
    (let s := running_.wrs [(Reg.MOT_HALT_STAT_HSTATE, hWAITING), (Reg.MOT_HALT_STAT_REASON, 0)]
     s.autoClear.hstate = hWAITING ∧ s.autoClear.reasons = 0 ∧ s.autoClear.posState = psVALID ∧
     s.autoClear.allocHolds s.autoClear.mot.hTick = true ∧ s.autoClear.groupAll (fun f => f.flag 1) = true) := by decide +kernel

theorem test_meets_StageCommandsComplete :
    (let s := idle.wrs [(Reg.MOT_POS_STAT_PSTATE, psVALID)]
     s.reaches .host pMOT ∧ s.anyArmed = false ∧ s.hstate = hIDLE ∧
       s.inLimits (64 * sx 32 (s.rd Reg.MOT_MOVE_X_X)) (64 * sx 32 (s.rd Reg.MOT_MOVE_Y_Y)) = true ∧ s.accepts pMOT = true ∧
       s.posState = psVALID) ∧
    (running_.reaches .host pMOT ∧ running_.hstate ≠ hIDLE ∧ running_.hstate = hRUN) ∧ (running_.reasons < 4096) ∧
    (let s := running_.wr Reg.MOT_HALT_STAT_HSTATE hWAITING
     s.reaches .host pMOT ∧ s.hstate = hWAITING) ∧
    (up.live pARY = true ∧ up.inReset pMOT = false ∧ up.cur = none) ∧ (running_.cur.isSome = true ∧ running_.inReset pMOT = false) ∧
    (let s := running_.modMot fun m => { m with abandonRel := true }
     s.mot.abandonRel = true ∧ s.inReset pMOT = false ∧ (s.modMot fun m => { m with abandonRel := false }).dropSecond.cur = some (wb, pl)) := by
  simp only [State.reaches]; decide +kernel

theorem test_meets_HaltRequestsActByHstate :
    (up.isFollower = false ∧ up.mot.hTick < 2 ^ 32 ∧ up.reasons < 4096 ∧ up.hstate = hIDLE) ∧
    (running_.hstate = hRUN ∧ running_.rd Reg.GLB_RECK_AUTO_HALT = 0 ∧ running_.rd Reg.MOT_HALT_CNT_HALTS ≤ 0xFFFF ∧
      running_.isFollower = false) ∧
    (let s := running_.wr Reg.MOT_HALT_STAT_HSTATE hSTOPPING
     s.hstate = hSTOPPING ∧ s.mot.hFixed = false ∧ (s.modMot fun m => { m with hFixed := true }).mot.hFixed = true) ∧
    (turned.hstate = hTURN) ∧ ((running_.wr Reg.MOT_HALT_STAT_HSTATE hBACKING).hstate = hBACKING) ∧
    ((running_.wr Reg.MOT_HALT_STAT_HSTATE hRUNUP).hstate = hRUNUP) ∧ ((running_.wr Reg.MOT_HALT_STAT_HSTATE hWAITING).hstate = hWAITING) := by
  decide +kernel

theorem test_meets_MovesNeverPassTheirTarget :
    let a : Axis := { p := 0, v := 5, dirn := -1, tgt := some (-3), vc := 9, vs := 2 }
    (a.dirn = 1 ∨ a.dirn = -1) ∧ 0 ≤ a.vs ∧ a.vs ≤ a.vc ∧ a.vs ≤ a.v ∧ (0 : Int) < 1 ∧ 0 < a.dirn * (-3 - a.p) ∧ a.tgt = some (-3) ∧
    (a.moveStep 1 1 (-3)).tgt = none ∧ ((({ a with tgt := some (-300) } : Axis).moveStep 1 1 (-300)).tgt ≠ none) := by decide +kernel

/-! ### Hypotheses met: the allocator and its tables -/

theorem test_meets_TableWritesAndBankChangesComplete :
    (up.reaches .host pALC ∧ up.itinNamed 15 = false) ∧
    (let s := up.wrs [(Reg.ALC_BT_STAT_WRITABLE, 1), (Reg.ALC_BT_STAT_ACTIVE, 0), (Reg.ALC_BT_STAT_SWAP_PEND, 0)]
     s.reaches .host pALC ∧ s.rd Reg.ALC_BT_STAT_WRITABLE = 1 ∧ s.rd Reg.ALC_BT_STAT_ACTIVE < 2 ∧ s.rd Reg.ALC_BT_STAT_SWAP_PEND = 0 ∧
       0x1000 ≤ (0x1000#32).toNat % 65536 ∧ (0xBFFFFFFF#32).toNat / 2 ^ 30 ≠ 3) ∧
    (idle.reaches .host pALC ∧ idle.running pALC = false ∧ 2 ≤ (0x206#32).toNat / 256 % 64 ∧ (0x3002#32).toNat / 256 % 64 ≤ 48 ∧
      2 ≤ (0x3002#32).toNat % 8 ∧ (0x206#32).toNat % 8 ≤ 6) ∧
    (let s := up.wr Reg.ALC_BT_STAT_COPYING 1
     s.rd Reg.ALC_BT_STAT_COPYING = 1 ∧ s.inReset pALC = false ∧ s.rd (Hdr.injArm pALC) = 0) ∧
    ((0x1FFC#16).toNat % 4 = 0 ∧ (0x1FFC#16).toNat < 0x2000 ∧ idle.reaches .host pSRV ∧ idle.running pSRV = false ∧
      (65536#32).toNat % 2 ^ 17 ≤ 65536) ∧
    (0x2000 ≤ (0x2060#16).toNat ∧ (0x2060#16).toNat < 0x2064 ∧ idle.reaches .host pCOR ∧ idle.running pCOR = false) := by
  simp only [State.reaches]; decide +kernel

theorem test_meets_TicksAreComputedInOrder :
    (stripe.cur = some (wb, pl) ∧ stripe.canCompute wb pl stripe.alc.next = true ∧ stripe.rd (Hdr.injArm pALC) = 0 ∧
      stripe.tickPoison wb pl stripe.alc.next = none) ∧
    (let s : State := { stripe with alc := { next := 1 }, mem := { stripe.mem with poison := [65498255360 / 32] } }
     s.canCompute wb pl s.alc.next = true ∧ (s.tickPoison wb pl s.alc.next).isSome = true) ∧
    (let s : State := { up with alc := { planLost := true } }
     s.alc.planLost = true ∧ s.live pALC = true) ∧
    (let s : State := { stripe with alc := { abandonRel := true } }
     s.cur = some (wb, pl) ∧ s.alc.abandonRel = true ∧ s.inReset pALC = false ∧ pl.launched = 0) := by decide +kernel

theorem test_meets_QuantiserKeepsDoseAndLimits :
    (1 ≤ 1) ∧ (stripe.rowPixel wb pl 0 511 = none) ∧ (stripe.btAbsent pl.bank pl.weakAbs 0 = true) ∧
    ((groupStage 4 10 3 [{ b := 0, j := some 0, c1 := 9, x := 9 * 2 ^ 36 }])[0]?.isSome = true) := by decide +kernel

/-! ### Hypotheses met: deliveries and waybills -/

/-- ING with a delivery in hand, its layout receiving. -/
def receiving (d : Delivery) : State :=
  { up with ing := { up.ing with delivery := some d, layouts := { state := .receiving } :: List.replicate 15 {} } }
/-- A block with no record but its end, with a sequence number. -/
def endOnly (seq : Nat) : List Byte := leBytes 4 0x0F000004 ++ leBytes 4 seq
/-- The same with its CRC. -/
def sealed (l : List Byte) : List Byte := l ++ leBytes 8 (crc64.of l)

theorem test_meets_DeliveriesAndBlocksComplete_start :
    (up.reaches .host pING ∧ (2#2).toNat ≠ 3 ∧ up.ing.repair = none ∧ up.ing.delivery = none ∧ (up.lay 15).state = .empty) ∧
    (let s : State := { up with ing := { up.ing with damagedQ := [(15, 64)] } }
     s.reaches .host pING ∧ s.ing.repair = none ∧ s.damagedOf 15 = some 64) ∧
    (let s : State := { up with ing := { up.ing with repair := some { handle := 0, source := 0, offset := 0, stream := 1 } } }
     s.reaches .host pING ∧ s.ing.repair.isSome = true) ∧
    ((receiving { handle := 0, source := 0 }).reaches .host pING ∧ (receiving { handle := 0, source := 0 }).ing.repair = none ∧
      (receiving { handle := 0, source := 0 }).ing.delivery = some { handle := 0, source := 0 }) ∧
    (let s : State := { up with ing := { up.ing with layouts := { state := .accepted } :: List.replicate 15 {} } }
     s.reaches .host pING ∧ (s.lay (0#4).toNat).state ≠ .empty ∧ s.handleBusy (0#4).toNat = false) := by
  simp only [State.reaches]; decide +kernel

theorem test_meets_DeliveriesAndBlocksComplete_blocks :
    (up.inReset pING = false ∧ ({ handle := 5, source := 0 } : Delivery).room = true ∧
      ({ handle := 5, source := 1, staged := [(0, []), (16, []), (32, [])] } : Delivery).room = true) ∧
    (let b := sealed (endOnly 1)
     locate 16384 0 b = .found 16 ∧ crc64.of ((b.take 16).take 8) = leAt (b.take 16) 8 8 ∧ leAt (b.take 16) 4 4 = 1) ∧
    (let b := endOnly 1 ++ [0, 0, 0, 0, 0, 0, 0, 0]
     locate 16384 0 b = .found 16 ∧ crc64.of ((b.take 16).take 8) ≠ leAt (b.take 16) 8 8) ∧
    ((Interp.run 4096 {} (blockRecs 16384 0 [])).2 = none) ∧
    -- a record of length 0 as the first of a stream is refused
    ((Interp.run 4096 {} (blockRecs 16384 0 (leBytes 4 0))).2.isSome = true) ∧
    (let s : State := { up with ing := { up.ing with layouts := { indexDamaged := true } :: List.replicate 15 {} } }
     s.inReset pING = false ∧ (s.lay (0#4).toNat).indexDamaged = true ∧ (0#4).toNat < s.ing.layouts.length) := by decide +kernel

theorem test_meets_WaybillsComplete :
    (up.reaches .host pING ∧ up.ing.waybills.length < 8 ∧ up.bit Reg.ING_WB_QSTAT_STOPPED = false) ∧
    (stripe.reaches .host pING ∧ stripe.armed[0]? = some wb ∧
      ((stripe.window.find? fun e => e.1.seq == wb.seq && wb.segIndex e.2.2 == (0#24).toNat) = some (wb, pl, 0))) ∧
    (let v : Waybill := { wb with seq := 2 }
     let s : State := { stripe with ing := { stripe.ing with waybills := [wb, v] } }
     s.reaches .host pING ∧ s.armed[1]? = some v) ∧
    (let s : State := { stripe with ing := { stripe.ing with waybills := [{ wb with plan := some { pl with launched := 514 } }] }, alc := { next := 514 } }
     s.cur = some ({ wb with plan := some { pl with launched := 514 } }, { pl with launched := 514 }) ∧ nTicks wb.length pl.k pl.a = 514 ∧
     nTicks wb.length pl.k pl.a ≤ s.alc.next ∧ s.ledFor wb.seq = false ∧ s.hstate ≠ hRUN) := by
  simp only [State.reaches]; decide +kernel

/-- The waybill posted and not armed, on a layout in a state. -/
def posted (l : LayoutState) : State :=
  { up with ing := { up.ing with waybills := [{ wb with plan := none }], layouts := { state := l } :: List.replicate 15 {} } }

theorem test_meets_WaybillsComplete_arming :
    ((posted .receiving).armed.length < 2 ∧ (posted .receiving).bit Reg.ING_WB_QSTAT_STOPPED = false ∧
      (posted .receiving).alc.stopped = false ∧ (posted .receiving).alc.abandonRel = false ∧ (posted .receiving).inReset pING = false ∧
      (posted .receiving).bit (Hdr.injArm pALC) = false ∧
      ((posted .receiving).ing.waybills.find? fun w => w.plan.isNone) = some { wb with plan := none }) ∧
    ((posted .receiving).armCheck { wb with plan := none } none = .hold 1) ∧
    ((posted .freed).armCheck { wb with plan := none } none = .refuse 3 0 [] false) := by decide +kernel

/-! ### Hypotheses met: expansion and the raster stage -/

/-- The stripe's traveller in a state, with one list of its band. -/
def listing (t : TrvState) (e : BandList) : State :=
  { stripe with ing := { stripe.ing with travellers := { tr with state := t, slot := some 0, corrected := 0 } :: List.replicate 511 {}, lists := [e] } }
/-- The stripe armed with no traveller. -/
def armedOnly : State := { stripe with ing := { stripe.ing with travellers := List.replicate 512 {} } }

theorem test_meets_BandsAndTravellersComplete :
    (let s : State := { stripe with ing := { stripe.ing with travellers := { tr with state := .expanding, listed := 0 } :: List.replicate 511 {} } }
     s.expanderIdle 7 = true ∧ s.nextWork = some (.band 0 0)) ∧
    (armedOnly.expanderIdle 7 = true ∧ armedOnly.nextWork = some (.first wb pl 0)) ∧
    (let s : State := { listing .expanding { trv := 9, band := 0, figs := [], pages := 1 } with
       ing := { (listing .expanding { trv := 9, band := 0, figs := [], pages := 1 }).ing with
         expanders := { work := some (0, 0) } :: List.replicate 7 {} } }
     (s.ing.expanders[0]?).bind Expander.work = some (0, 0) ∧ s.waybillOf (s.trv 0).wseq = some (wb, pl) ∧ (s.trv 0).survey = false ∧
     (s.ing.expanders.getD 0 {}).waiting = false ∧ s.walkDamage wb.handle (s.walkBand wb pl (s.trv 0).j 0).1.1.reads = none ∧
     pagesFor (listBytes (s.walkBand wb pl (s.trv 0).j 0).1.1.figs (s.srOf wb.handle) (pl.k / 2) (s.walkBand wb pl (s.trv 0).j 0).2.1
       (s.walkBand wb pl (s.trv 0).j 0).2.2) ≤ s.poolFree) ∧
    (0 < up.poolFree ∧ 7 < up.ing.expanders.length) ∧
    (let s : State := { stripe with ing := { stripe.ing with travellers := { tr with state := .listed, slot := none } :: List.replicate 511 {} } }
     s.freeSlot = some 0 ∧ (s.trv 0).state = .listed) ∧
    (let e : BandList := { trv := 0, band := 0, figs := [], pages := 1, done := 512 }
     let s := listing .raster e
     (s.ing.lists.find? fun e => e.trv == 0) = some e ∧ s.waybillOf (s.trv 0).wseq = some (wb, pl) ∧ pl.bandTiles (s.trv 0).j e.band ≤ e.done) := by
  decide +kernel

/-- A segment whose last tick has been launched. -/
def overSeg (made : Bool) : State :=
  { stripe with
    ing := { stripe.ing with waybills := [{ wb with plan := some { pl with launched := 514 } }],
                             travellers := { tr with state := .draining, lastRead := true } :: List.replicate 511 {} }
    led := { openSeq := [(1, 0)], segs := [{ wseq := 1, j := 0, made := made }] } }

theorem test_meets_BandsAndTravellersComplete_release :
    ((overSeg true).segOver ((overSeg true).trv 0) = true ∧ ((overSeg true).segOf ((overSeg true).trv 0).wseq ((overSeg true).trv 0).j).made = true) ∧
    ((overSeg false).segOver ((overSeg false).trv 0) = true ∧ (overSeg false).ledFor ((overSeg false).trv 0).wseq = true ∧
      ((overSeg false).segOf ((overSeg false).trv 0).wseq ((overSeg false).trv 0).j).made = false ∧ (overSeg false).led.staging.length < 64 ∧
      ((overSeg false).waybillOf ((overSeg false).trv 0).wseq).isSome = true) ∧
    ((State.reset).live pLED = false) := by decide +kernel

/-- A band whose rows are all to be binned, holding some bytes of references. -/
def band (refs : Nat) : BandList := { trv := 0, band := 0, figs := [], pages := 1, refs := refs }

theorem test_meets_TilesComplete_binner :
    (∀ r ∈ [0, 32 * mib + 1], let s := listing .raster (band r)
     s.ras.binWait = false ∧ s.accepts pCMP = true ∧
     (s.bandsInOrder fun e => match s.waybillOf (s.trv e.trv).wseq with
      | some (_, p) => decide (e.rows < p.bandRowsOf (s.trv e.trv).j e.band)
      | none => false) = some (band r) ∧ s.waybillOf (s.trv 0).wseq = some (wb, pl)) ∧
    ((listing .raster (band 0)).refsHeld = 0) ∧
    (0 < (listing .raster (band (32 * mib + 1))).refsHeld ∧ 32 * mib < (listing .raster (band (32 * mib + 1))).refsHeld + 0) := by decide +kernel

/-- The raster stage with one tile. -/
def tiled (p : TileAt) : State :=
  let s := listing .raster (band 0)
  { s with ing := { s.ing with ras := { tiles := [{ trv := 0, wseq := 1, j := 0, band := 0, tseq := 0, place := p }] } } }
/-- That tile. -/
def tile0 (p : TileAt) : Tile := { trv := 0, wseq := 1, j := 0, band := 0, tseq := 0, place := p }

theorem test_meets_TilesComplete_pairs :
    ((tiled .vote).accepts pCMP = true ∧ ((tiled .vote).ras.tiles.find? fun t => t.place == .vote) = some (tile0 .vote) ∧
      ((tiled .vote).wr (Reg.RAS_ROLE_ROLE 51) roleSPARE).freeSpare = some 51) ∧
    (up.accepts pCMP = true ∧ (up.ras.tiles.find? fun t => t.place == .vote) = none ∧
      ((List.range 24).find? (up.wr (Reg.CMP_PAIR_INSERV 23) 1).pairIdle) = some 23) ∧
    (((tiled (.pair 3)).ras.tiles.find? fun t => t.place == .pair 3 || t.place == .pairVote 3) = some (tile0 (.pair 3)) ∧
      (tiled (.pair 3)).stagingRoom ((tiled (.pair 3)).recordOf (tile0 (.pair 3))).length = true) ∧
    (((tiled (.pairVote 3)).ras.tiles.find? fun t => t.place == .pair 3 || t.place == .pairVote 3) = some (tile0 (.pairVote 3)) ∧
      (tiled (.pairVote 3)).bit (Hdr.injArm pCMP) = false ∧
      (tiled (.pairVote 3)).injects ((tiled (.pairVote 3)).engA 3) ((tiled (.pairVote 3)).recordOf (tile0 (.pairVote 3))) = none ∧
      (tiled (.pairVote 3)).injects ((tiled (.pairVote 3)).engB 3) ((tiled (.pairVote 3)).recordOf (tile0 (.pairVote 3))) = none) ∧
    (((tiled (.emit 3)).ras.tiles.find? fun t => t.place == .emit 3) = some (tile0 (.emit 3)) ∧
      (tiled (.emit 3)).stagingRoom ((tiled (.emit 3)).recordOf (tile0 (.emit 3))).length = true) ∧
    (((tiled (.spare 50)).ras.tiles.filter fun t => match t.place with | .spare _ | .voted _ => true | _ => false)[0]? = some (tile0 (.spare 50)) ∧
      (tiled (.spare 50)).injects 50 ((tiled (.spare 50)).recordOf (tile0 (.spare 50))) = none) ∧
    (((tiled (.voted 3)).ras.tiles.filter fun t => match t.place with | .spare _ | .voted _ => true | _ => false)[0]? = some (tile0 (.voted 3))) ∧
    (7 ∈ (up.modRas fun r => { r with decay := [7], waiting := [3] }).ras.decay ∧ 3 ∈ (up.modRas fun r => { r with waiting := [3] }).ras.waiting) := by
  decide +kernel

theorem test_meets_TilesComplete_correct :
    (let s := tiled .agreed
     s.live pCOR = true ∧ (s.ras.tiles.find? fun t => t.place == .agreed) = some (tile0 .agreed) ∧ s.waybillOf 1 = some (wb, pl) ∧
     (s.trv 0).slot = some 0 ∧ (tile0 .agreed).void = false ∧ s.tileDamage wb.handle (s.geo wb.handle) 0 0 = none) ∧
    (let s : State := { tiled .agreed with mem := { up.mem with poison := [(tiled .agreed).mapAddr 0 / 32] } }
     s.live pCOR = true ∧ (s.tileDamage wb.handle (s.geo wb.handle) 0 0).isSome = true) := by decide +kernel

/-! ### Hypotheses met: surveys -/

/-- Handle 1 with an accepted layout, SRV in a phase and mode, a map of some state. -/
def mapped (phase mode st dmg : Nat) : State :=
  { idle.wrs [(Reg.SRV_STAT_PHASE, phase), (Reg.SRV_STAT_HANDLE, 1), (Reg.COR_MAP_DESC_STATE 1, st), (Reg.COR_MAP_DESC_DAMAGED 1, dmg)] with
    ing := { idle.ing with layouts := {} :: { state := .accepted } :: List.replicate 14 {}, srv := { mode := mode } } }

theorem test_meets_SurveysComplete_starts :
    ((mapped 0 0 0 0).takesWork .host pSRV ∧ (mapped 0 0 0 0).srvRefusal (1#4).toNat 0 = none ∧ (mapped 0 0 0 0).srvRefusal (1#4).toNat 2 = none) ∧
    ((mapped 0 0 2 0).takesWork .host pSRV ∧ (mapped 0 0 2 0).srvRefusal (1#4).toNat 1 = none) ∧
    ((mapped 0 0 3 1).takesWork .host pSRV ∧ (mapped 0 0 3 1).srvRefusal (1#4).toNat 3 = none) ∧
    (let s := mapped 1 0 1 0
     s.reaches .host pSRV ∧ s.surveyBusy = true ∧ s.rd Reg.SRV_STAT_PHASE = 1 ∧
     (s.ing.travellers.all fun t => t.state == .free || !t.survey) = true) ∧
    ((mapped 1 0 1 0).walkOver = true ∧ (mapped 1 0 1 0).srv.mode = 0) ∧ ((mapped 1 1 1 0).walkOver = true ∧ (mapped 1 1 1 0).srv.mode = 1) ∧
    ((mapped 2 0 1 0).rd Reg.SRV_STAT_PHASE = 2) ∧
    (let s := (mapped 3 0 1 0).wrs [(Reg.COR_MAP_PARAM_K 1, 4), (Reg.COR_MAP_DESC_D 1, 64), (Reg.COR_MAP_AREA_SX 1, 1), (Reg.COR_MAP_AREA_SQ 1, 1)]
     s.rd Reg.SRV_STAT_PHASE = 3 ∧ s.srv.repair ≠ some 1 ∧ s.srv.col + 1 < (s.geo 1).cols) ∧
    (idle.takesWork .host pFAB) := by
  simp only [State.takesWork, State.reaches]; decide +kernel

/-- The same with the kernels of some radius in force and its map's checksum as read. -/
def checked (mode : Nat) : State :=
  let s := mapped 4 mode 1 0
  (s.wr64 Reg.SRV_HCRC_LO_HCRC Reg.SRV_HCRC_HI_HCRC (s.mapBytesCrc 1)).wr64 (Reg.COR_MAP_CRC_LO_CRC 1) (Reg.COR_MAP_CRC_HI_CRC 1) (s.mapBytesCrc 1)

theorem test_meets_SurveysComplete_ends :
    ((mapped 4 0 1 0).rd Reg.SRV_STAT_PHASE = 4 ∧ (mapped 4 0 1 0).srv.mode = 0 ∧ (mapped 4 0 1 0).srv.repair ≠ some 1) ∧
    ((checked 2).rd Reg.SRV_STAT_PHASE = 4 ∧ (checked 2).srv.mode = 2 ∧
      (checked 2).mapBytesCrc 1 = (checked 2).rd64 Reg.SRV_HCRC_LO_HCRC Reg.SRV_HCRC_HI_HCRC) ∧
    (let s := (mapped 4 2 1 0).wr Reg.SRV_HCRC_LO_HCRC 12345
     s.mapBytesCrc 1 ≠ s.rd64 Reg.SRV_HCRC_LO_HCRC Reg.SRV_HCRC_HI_HCRC) ∧
    ((checked 3).rd Reg.SRV_STAT_PHASE = 4 ∧ (checked 3).srv.mode = 3 ∧
      (checked 3).mapBytesCrc 1 = (checked 3).rd64 (Reg.COR_MAP_CRC_LO_CRC 1) (Reg.COR_MAP_CRC_HI_CRC 1)) ∧
    (let s := (mapped 0 0 2 1).modSrv fun v => { v with repair := some 1, damaged := [(1, 0)] }
     s.srv.repair = some 1 ∧ s.inReset pSRV = false) := by decide +kernel

theorem test_meets_SurveysComplete_walk :
    (let t : Traveller := { state := .expanding, survey := true, handle := 1 }
     let m := mapped 1 0 1 0
     let s : State := { m with ing := { m.ing with travellers := t :: List.replicate 511 {}, expanders := { work := some (0, 0) } :: List.replicate 7 {} } }
     (s.ing.expanders[0]?).bind Expander.work = some (0, 0) ∧ (s.trv 0).survey = true ∧
     s.walkDamage 1 (s.walkSegment 1 0 0).1.reads = none ∧ s.srv.aborting = false) := by decide +kernel

/-! ### Hypotheses met: a waybill that arms -/

/-- Three words with a common step: the keys of an array of registers, each with a value. -/
def keyed (base step : Nat) (g : Nat → Nat) (n : Nat) : FieldStore := (List.range n).map fun i => ((base + step * i) * 32, g i)

theorem find_append_none {k : Nat} {l : FieldStore} (h : ∀ e ∈ l, e.1 ≠ k) (m : FieldStore) :
    FieldStore.find k (l ++ m) = FieldStore.find k m := by
  induction l with
  | nil => rfl
  | cons e t ih =>
    obtain ⟨a, v⟩ := e
    have ha : a ≠ k := h _ (List.mem_cons_self ..)
    simp only [List.cons_append, FieldStore.find, ha, if_false]
    exact ih fun e he => h e (List.mem_cons_of_mem _ he)

theorem find_append_some {k v : Nat} {l : FieldStore} (h : FieldStore.find k l = some v) (m : FieldStore) :
    FieldStore.find k (l ++ m) = some v := by
  induction l with
  | nil => simp [FieldStore.find] at h
  | cons e t ih =>
    obtain ⟨a, w⟩ := e
    simp only [List.cons_append, FieldStore.find] at h ⊢
    split_ifs at h ⊢ with ha
    · exact h
    · exact ih h

theorem find_keyed {base step : Nat} (hs : 0 < step) (g : Nat → Nat) {n i : Nat} (h : i < n) :
    FieldStore.find ((base + step * i) * 32) (keyed base step g n) = some (g i) := by
  induction n with
  | zero => omega
  | succ n ih =>
    rw [keyed, List.range_succ, List.map_append]
    by_cases hi : i < n
    · exact find_append_some (ih hi) _
    · obtain rfl : i = n := by omega
      rw [find_append_none]
      · simp [FieldStore.find]
      · intro e he
        obtain ⟨j, hj, rfl⟩ := List.mem_map.1 he
        have := List.mem_range.1 hj
        have : step * j < step * i := Nat.mul_lt_mul_of_pos_left this hs
        simp only []; omega

/-- Every register that arming reads, but for the itinerary and the beam table. -/
def armRegs : FieldStore :=
  ([pALC, pMOT].map fun p => ((Hdr.state p).key, 4)) ++
  ((List.range 8).flatMap fun n => [((Hdr.state ⟨.exp, n⟩).key, 4), ((Hdr.faultStat ⟨.exp, n⟩).key, 0)]) ++
  [(Reg.ALC_GEOM_KLOG.key, 2), (Reg.ALC_GEOM_SLOTS_SET.key, 16), (Reg.MOT_GRID_PITCH.key, 320), ((Reg.COR_MAP_DESC_STATE 0).key, 1),
   ((Reg.COR_MAP_DESC_SR 0).key, 0), ((Reg.COR_MAP_DESC_D 0).key, 200), ((Reg.COR_MAP_PARAM_K 0).key, 4), ((Reg.COR_MAP_PARAM_WS 0).key, 0),
   ((Reg.COR_MAP_AREA_SX 0).key, 1), ((Reg.COR_MAP_AREA_SQ 0).key, 1), ((Reg.COR_MAP_DONE_COLS 0).key, 13), (Reg.ING_CFG_LIST_CAP.key, 32),
   (Reg.ING_CFG_AHEAD.key, 8), (Reg.PAK_STAT_K.key, 64), (Reg.PAK_CFG_ORDER.key, 0), (Reg.ALC_BT_STAT_SWAP_PEND.key, 0), (Reg.ALC_BT_STAT_ACTIVE.key, 0),
   (Reg.ALC_DOSE_FULL.key, 1), (Reg.ALC_EMAX_EMAX.key, 0x4000), (Reg.ALC_DUTY_BEAM_LIM.key, 0xFFFF), (Reg.ALC_DUTY_GRP_LIM.key, 0xFFFFFF),
   (Reg.ALC_DSEED_SEED.key, 0), (Reg.ALC_CFG_DAMP.key, 0), (Reg.ALC_CFG_WEAK_ABSENT.key, 0), (Reg.ALC_CFG_ABS_MAX.key, 0),
   (Reg.MOT_PROF_ACC_ACC.key, 0x10625), (Reg.MOT_PROF_DEC_DEC.key, 0x10625), (Reg.MOT_PROF_STOP_STOP.key, 0x20C4A),
   (Reg.MOT_PROF_VMAX_VMAX.key, 0x640000), (Reg.MOT_PLAN_VMIN_VMIN.key, 0x40000), (Reg.MOT_PLAN_CFG_SETTLE.key, 1000),
   (Reg.MOT_PLAN_CFG_MARGIN.key, 32), (Reg.CMP_STAT_PAIRS.key, 16), (Reg.COR_RES_SLICES.key, 64), (Reg.MOT_ORG_X_ORG.key, 0),
   (Reg.MOT_ORG_Y_ORG.key, 0), (Reg.MOT_VLIM_X_LO_LIM.key, 0x80000000), (Reg.MOT_VLIM_X_HI_LIM.key, 0x7FFFFFFF),
   (Reg.MOT_VLIM_Y_LO_LIM.key, 0x80000000), (Reg.MOT_VLIM_Y_HI_LIM.key, 0x7FFFFFFF), (Reg.MEM_REGION_SB_GIB.key, 24),
   (Reg.MEM_REGION_MAP_GIB.key, 27), (Reg.MEM_REGION_LS_GIB.key, 34), (Reg.MEM_REGION_WS_GIB.key, 4),
   (Reg.ING_WB_QSTAT_STOPPED.key, 0), ((Hdr.state pING).key, 4), ((Hdr.injArm pALC).key, 0)]

/-- One stripe of 8 lines at K = 4, A = 1: a layout accepted, its segment costed and mapped; row r at OX = r mod 4; every beam
present with gain 0x4000. -/
def ready : State :=
  { regs := armRegs ++ (keyed 0x1200000 4 (· % 4) 512 ++ keyed 0x5000000 8 (fun _ => 0x4000) 262144)
    hbm := [(85 * 2 ^ 30 + 24576 + 0xAC, 2)]
    ing := { waybills := [{ wb with plan := none }], layouts := { state := .accepted, index := { grid := 320 } } :: List.replicate 15 {} } }
/-- Its waybill. -/
def wb0 : Waybill := { wb with plan := none }

theorem ready_itin {r : Nat} (h : r < 512) : ready.rd (Reg.itin 0 r) = r % 4 := by
  have hk : (Reg.itin 0 r).key = (0x1200000 + 4 * r) * 32 := by simp [Reg.itin, Fld.key]
  have hl : ∀ e ∈ armRegs, e.1 < 0x1200000 * 32 := by decide +kernel
  have := find_append_none (k := (0x1200000 + 4 * r) * 32) (fun e he => by have := hl e he; omega)
    (keyed 0x1200000 4 (· % 4) 512 ++ keyed 0x5000000 8 (fun _ => 0x4000) 262144)
  rw [find_append_some (find_keyed (by omega) _ h)] at this
  rw [State.rd, FieldStore.get, hk]
  simp only [ready, this]
  simp [Reg.itin]; omega

theorem ready_beam {b : Nat} (h : b < 262144) : ready.rd (Reg.btWord 0 b 0) = 0x4000 := by
  have hk : (Reg.btWord 0 b 0).key = (0x5000000 + 8 * b) * 32 := by simp [Reg.btWord, Fld.key]
  have hl : ∀ e ∈ armRegs, e.1 < 0x1200000 * 32 := by decide +kernel
  have h1 := find_append_none (k := (0x5000000 + 8 * b) * 32) (l := armRegs) (fun e he => by have := hl e he; omega)
    (keyed 0x1200000 4 (· % 4) 512 ++ keyed 0x5000000 8 (fun _ => 0x4000) 262144)
  have h2 := find_append_none (k := (0x5000000 + 8 * b) * 32) (l := keyed 0x1200000 4 (· % 4) 512)
    (fun e he => by obtain ⟨j, hj, rfl⟩ := List.mem_map.1 he; have := List.mem_range.1 hj; simp only []; omega)
    (keyed 0x5000000 8 (fun _ => 0x4000) 262144)
  rw [find_keyed (by omega) _ h] at h2
  rw [State.rd, FieldStore.get, hk]
  simp only [ready, h1, h2]
  simp [Reg.btWord]

theorem ready_plan : (ready.planOf wb0).k = 4 ∧ (ready.planOf wb0).a = 1 ∧ (ready.planOf wb0).n = 4 ∧ (ready.planOf wb0).bank = 0 ∧
    (ready.planOf wb0).full = 1 ∧ (ready.planOf wb0).emax = 0x4000 ∧ (ready.planOf wb0).dutyBeam = 0xFFFF ∧
    (ready.planOf wb0).dutyGrp = 0xFFFFFF ∧ (ready.planOf wb0).weakAbs = 0 := by decide +kernel

theorem ready_motion : ready.motionCheck wb0 (ready.planOf wb0) = none := by decide +kernel

theorem ready_ox {r : Nat} (h : r < 512) : ready.itinOX wb0.itin r = r % 4 := by
  have : bits (r % 4) 5 0 = r % 4 := by simp [bits]; omega
  rw [State.itinOX, show wb0.itin = 0 by decide +kernel, ready_itin h, this]

theorem ready_oy {r : Nat} (h : r < 512) : ready.itinOY wb0.itin r = 0 := by
  have : bits (r % 4) 10 8 = 0 := by simp [bits]; omega
  rw [State.itinOY, show wb0.itin = 0 by decide +kernel, ready_itin h, this]

theorem ready_class {p : Plan} (ha : p.a = 1) {r : Nat} (h : r < 512) : ready.rowClass wb0 p r = (r % 4, 0) := by
  rw [State.rowClass, ready_ox h, ha, Nat.mod_one]

theorem ready_state {b : Nat} (h : b < 262144) : ready.btState 0 b = 0 := by
  rw [State.btState, ready_beam h]; rfl

theorem ready_present {b : Nat} (h : b < 262144) : ready.btAbsent 0 0 b = false := by
  rw [State.btAbsent, ready_state h]; rfl

theorem ready_gain {b : Nat} (h : b < 262144) : ready.btGain 0 b = 0x4000 := by
  rw [State.btGain, ready_beam h]; rfl

theorem visit_none {s : State} {w : Waybill} {p : Plan} (h1 : ∀ r < 512, s.itinOX w.itin r < p.k ∧ s.itinOY w.itin r < p.a)
    (h2 : ∀ c < p.k * p.a, ((List.range 512).filter fun r => s.rowClass w p r == (c / p.a, c % p.a)).length = p.passes) :
    s.visitCheck w p = none := by
  have e1 : ((List.range 512).find? fun r => decide (p.k ≤ s.itinOX w.itin r) || decide (p.a ≤ s.itinOY w.itin r)) = none :=
    List.find?_eq_none.2 fun r hr => by have := h1 r (List.mem_range.1 hr); simp; omega
  have e2 : ((List.range (p.k * p.a)).find? fun c =>
      ((List.range 512).filter fun r => s.rowClass w p r == (c / p.a, c % p.a)).length != p.passes) = none :=
    List.find?_eq_none.2 fun c hc => by simp [h2 c (List.mem_range.1 hc)]
  unfold State.visitCheck
  generalize List.range 512 = l at e1 e2 ⊢
  simp only [e1, e2]

theorem ready_visit : ready.visitCheck wb0 (ready.planOf wb0) = none := by
  obtain ⟨hk, ha, -⟩ := ready_plan
  refine visit_none (fun r hr => ?_) fun c hc => ?_
  · rw [ready_ox hr, ready_oy hr, hk, ha]; omega
  · rw [hk, ha] at hc
    have hc : c < 4 := hc
    rw [Plan.passes, hk, ha, List.filter_congr (q := fun r => r % 4 == c) fun r hr => by
      rw [ready_class ha (List.mem_range.1 hr), Nat.div_one, Nat.mod_one]; simp]
    have : ∀ c < 4, ((List.range 512).filter fun r => r % 4 == c).length = 512 / (4 * 1) := by decide +kernel
    exact this c hc

theorem ready_find (bad : Nat → List Nat → Bool)
    (h : ∀ c < 512, ∀ cl < 4, bad c ((List.range 512).filter fun r => r % 4 == cl) = false) :
    ready.classFind wb0 (ready.planOf wb0) bad = none := by
  obtain ⟨hk, ha, -, hb, -, -, -, -, hw⟩ := ready_plan
  have hf (c cl : Nat) (hc : c < 512) : ((List.range 512).filter fun r => ready.rowClass wb0 (ready.planOf wb0) r ==
      (cl / (ready.planOf wb0).a, cl % (ready.planOf wb0).a) && !ready.btAbsent (ready.planOf wb0).bank (ready.planOf wb0).weakAbs (512 * r + c)) =
      (List.range 512).filter fun r => r % 4 == cl := by
    refine List.filter_congr fun r hr => ?_
    have hr := List.mem_range.1 hr
    rw [ready_class ha hr, hb, hw, ready_present (by omega), ha, Nat.mod_one, Nat.div_one]
    simp
  rw [State.classFind, Option.map_eq_none_iff, List.find?_eq_none]
  intro e he
  obtain ⟨c, hc, he⟩ := List.mem_flatMap.1 he
  obtain ⟨cl, hcl, rfl⟩ := List.mem_map.1 he
  rw [hk, ha] at hcl
  have hc := List.mem_range.1 hc
  dsimp only
  rw [hf c cl hc, h c hc cl (List.mem_range.1 hcl)]
  exact Bool.false_ne_true

theorem ready_stuck : ((List.range 262144).filter fun b => ready.btState 0 b == 3) = [] :=
  List.filter_eq_nil_iff.2 fun b hb => by rw [ready_state (List.mem_range.1 hb)]; decide

theorem ready_absent : ready.absentCount 0 0 = 0 := by
  rw [State.absentCount, List.length_eq_zero_iff]
  exact List.filter_eq_nil_iff.2 fun b hb => by rw [ready_present (List.mem_range.1 hb)]; decide

theorem ready_gains : ready.classFind wb0 (ready.planOf wb0) (fun c rows =>
    let g := (rows.map fun r => ready.btGain 0 (512 * r + c)).foldl max 0
    decide ((2 ^ 4 - 1) * 2 ^ 36 < ceilDiv (1 * 0x4000) rows.length * g)) = none := by
  refine ready_find _ fun c hc cl hcl => ?_
  have hm : (((List.range 512).filter fun r => r % 4 == cl).map fun r => ready.btGain 0 (512 * r + c)) =
      ((List.range 512).filter fun r => r % 4 == cl).map fun _ => 0x4000 :=
    List.map_congr_left fun r hr => ready_gain (by have := List.mem_range.1 (List.mem_filter.1 hr).1; omega)
  simp only [hm]
  have : ∀ cl < 4, decide ((2 ^ 4 - 1) * 2 ^ 36 < ceilDiv (1 * 0x4000) ((List.range 512).filter fun r => r % 4 == cl).length *
      (((List.range 512).filter fun r => r % 4 == cl).map fun _ => 0x4000).foldl max 0) = false := by decide +kernel
  exact this cl hcl

/-- The allocation checks pass where no one of them fails. -/
theorem alloc_none {s : State} {w : Waybill} {p : Plan} (h1 : s.accepts pALC = true) (h2 : p.full ≠ 0)
    (h3 : ((List.range 262144).filter fun b => s.btState p.bank b == 3) = []) (h4 : ¬s.rd Reg.ALC_CFG_ABS_MAX < s.absentCount p.bank p.weakAbs)
    (h5 : s.classFind w p (fun _ rows => rows.isEmpty) = none)
    (h6 : s.classFind w p (fun c rows =>
      let g := (rows.map fun r => s.btGain p.bank (512 * r + c)).foldl max 0
      decide ((2 ^ p.n - 1) * 2 ^ 36 < ceilDiv (p.full * p.emax) rows.length * g)) = none)
    (h7 : ¬p.dutyBeam * p.passes < 4 * p.full) (h8 : ¬p.dutyGrp * p.passes < 1024 * p.full) : s.allocCheck w p none = none := by
  unfold State.allocCheck
  generalize List.range 262144 = l at h3 ⊢
  simp only [h1, h2, h3, h4, h5, h6, h7, h8, Bool.not_true, Bool.false_eq_true, if_false]

theorem ready_alloc : ready.allocCheck wb0 (ready.planOf wb0) none = none := by
  obtain ⟨hk, ha, hn, hb, hf, he, hd, hg, hw⟩ := ready_plan
  refine alloc_none (by decide +kernel) (by rw [hf]; decide) (by rw [hb]; exact ready_stuck) (by rw [hb, hw, ready_absent]; omega)
    (ready_find _ fun c _ cl hcl => ?_) (by rw [hb, hn, hf, he]; exact ready_gains) (by rw [hd, hf, Plan.passes, hk, ha]; decide)
    (by rw [hg, hf, Plan.passes, hk, ha]; decide)
  have : ∀ cl < 4, ((List.range 512).filter fun r => r % 4 == cl).isEmpty = false := by decide +kernel
  exact this cl hcl

theorem arm_ok {s : State} {w : Waybill} (f1 : w.fieldsOk = true) (f2 : (s.lay w.handle).state = .accepted)
    (f3 : (s.lay w.handle).index.grid = s.rd Reg.MOT_GRID_PITCH) (f4 : s.inArea w = true) (f5 : s.costed w = true) (f6 : s.mapReady w = true)
    (f7 : ((w.segs s.kBeam).any fun q => (s.segRows w s.kBeam q).any fun b => decide (s.listCap < b)) = false) (f8 : s.rd Reg.PAK_STAT_K ≠ 0)
    (f9 : s.visitCheck w (s.planOf w) = none) (f10 : s.allocCheck w (s.planOf w) none = none) (f11 : s.motionCheck w (s.planOf w) = none) :
    s.armCheck w none = .arm (s.planOf w) := by
  simp only [State.armCheck, f1, f2, f3, f4, f5, f6, f7, f8, f9, f10, f11]
  simp

theorem ready_arms : ready.armCheck wb0 none = .arm (ready.planOf wb0) := by
  refine arm_ok ?_ ?_ ?_ ?_ ?_ ?_ ?_ ?_ ready_visit ready_alloc ready_motion <;> decide +kernel

theorem test_meets_WaybillsComplete_arms :
    ready.armed.length < 2 ∧ ready.bit Reg.ING_WB_QSTAT_STOPPED = false ∧ ready.alc.stopped = false ∧ ready.alc.abandonRel = false ∧
      ready.inReset pING = false ∧ ready.bit (Hdr.injArm pALC) = false ∧ (ready.ing.waybills.find? fun w => w.plan.isNone) = some wb0 ∧
      ready.armCheck wb0 none = .arm (ready.planOf wb0) := by
  refine ⟨?_, ?_, ?_, ?_, ?_, ?_, ?_, ready_arms⟩ <;> decide +kernel

/-! ### Hypotheses met: the Q-link -/

/-- The link in a state. -/
def link (ls : Nat) : State := up.wr Reg.PAK_STAT_LSTATE ls
/-- A lane in a role on that link. -/
def laneIn (ls n role : Nat) : State := (link ls).wr (Reg.QLK_STAT_ROLE n) role
/-- A return frame of a type from a source. -/
def retFrame (type src : Nat) : List Byte :=
  let b := [BitVec.ofNat 8 type, 0, BitVec.ofNat 8 src] ++ List.replicate 128 0
  b ++ leBytes 4 (crc32.of b)

theorem test_meets_QlinkCommandsComplete_frames :
    ((link lsTRAIN).txOff = false ∧ (link lsTRAIN).inReset (pQLK 79) = false ∧ (link lsTRAIN).lstate = lsTRAIN ∧
      ((link lsTRAIN).wr (Reg.QLK_CFG_USE 79) 1).rd (Reg.QLK_CFG_USE 79) ≠ 0) ∧
    ((laneIn lsREADY 79 roSTANDBY).lstate = lsREADY ∧ (laneIn lsREADY 79 roSTANDBY).laneRole 79 = roSTANDBY ∧
      (laneIn lsREADY 79 roSTANDBY).txOff = false ∧ (laneIn lsREADY 79 roSTANDBY).inReset (pQLK 79) = false) ∧
    ((laneIn lsREADY 0 roDATA).lstate = lsREADY ∧ (laneIn lsREADY 0 roDATA).laneRole 0 = roDATA) ∧
    (let s := (link lsREADY).modMot fun m => { m with lastEdge := some (3, 800, 16, 5) }
     s.mot.lastEdge = some (3, 800, 16, 5) ∧ s.lstate ≠ lsDOWN ∧ s.txOff = false ∧ s.pak.marked ≠ some 800) ∧
    (let s := (link lsREADY).wrs [(Reg.PAK_STAT_QRX_LOCK, 8), (Reg.PAK_CFG_MODE, 2)]
     s.inReset pPAK = false ∧ (s.rd Reg.PAK_STAT_QRX_LOCK).testBit 3 = true ∧ returnOk (retFrame 0xE0 3) = true ∧
     ((List.range 3).all fun q => !s.bit (qrxValid q)) = true ∧ leAt (retFrame 0xE0 3) 0 1 = 0xE0 ∧ s.rd Reg.PAK_CFG_MODE = 2 ∧
     returnOk (retFrame 0xE4 0) = true ∧ leAt (retFrame 0xE4 0) 0 1 = 0xE4 ∧ s.lstate ≠ lsDOWN ∧ (s.wr Reg.PAK_CFG_MODE 1).rd Reg.PAK_CFG_MODE ≠ 2) := by decide +kernel

theorem test_meets_QlinkCommandsComplete_lanes :
    (let f : QFrame := { alive := 9, pos := 0, bytes := 1016, crc := 0, chars := [] }
     let l := (laneIn lsREADY 79 roDATA).wr (Reg.QLK_STAT_LOGICAL 79) 0
     let s : State := { l with pak := { l.pak with streams := [{ logical := 0, wseq := 1, k := 1, n := 4, order := 0, total := 1016, pos := 1016, frames := [f] }] } }
     let e := s.wrs ([(Reg.QLK_STAT_RXN 79, 0), (Reg.PAK_STAT_QRX_LOCK, 5)] ++ [(qrxValid 0, 1), (qrxSrc 0, 0), (qrxValid 2, 1), (qrxSrc 2, 2)])
     s.laneRole 79 = roDATA ∧ s.inReset pPAK = false ∧
     ((s.pak.streams.find? fun st => st.logical == s.rd (Reg.QLK_STAT_LOGICAL 79)).bind fun st => st.frames.find? fun f => f.alive == 9) = some f ∧
     f.due = false ∧ s.echoLanes (s.rd (Reg.QLK_STAT_RXN 79)) = false ∧ e.echoLanes (e.rd (Reg.QLK_STAT_RXN 79)) = true) ∧
    ((link lsREADY).inReset pPAK = false ∧ (link lsREADY).lstate ≠ lsDOWN ∧
      ((link lsREADY).wr Reg.PAK_CFG_MODE 2).rd Reg.PAK_CFG_MODE = 2 ∧ ((link lsREADY).rd Reg.PAK_STAT_QRX_LOCK).testBit 3 = false) ∧
    ((link lsTRAIN).lstate = lsTRAIN ∧ ((link lsTRAIN).wrs ((List.range 80).map fun n => (Reg.QLK_CFG_USE n, 0))).usedLanes = []) ∧
    ((link lsBLANK).lstate = lsBLANK ∧ (link lsMAP).lstate = lsMAP) ∧
    (let l := laneIn lsREADY 79 roTRAINING
     let s : State := { l with pak := { l.pak with lanes := List.replicate 79 {} ++ [{ sent := 4096, clean := 2048 }], page0 := 79 :: List.replicate 79 0x7F, lock := 1 } }
     s.lstate = lsREADY ∧ s.laneRole 79 = roTRAINING ∧ 4096 ≤ (s.laneAt 79).sent ∧ s.trainedOn 79 = some 0 ∧
     ({ s with pak := { s.pak with lock := 0 } } : State).trainedOn 79 = none) ∧
    ((link lsREADY).anyArmed = false) ∧
    (let s := ((link lsREADY).wr (Hdr.state pPAK) stIDLE).wr Reg.PAK_CFG_MODE 1
     (2#2).toNat ≠ 3 ∧ (2#2).toNat ≠ 0 ∧ (2#2).toNat ≠ s.rd Reg.PAK_CFG_MODE ∧ s.running pPAK = false ∧ s.lstate ≠ lsDOWN) ∧
    ((laneIn lsREADY 79 roFAILED).laneRole 79 = roFAILED ∧ (laneIn lsREADY 79 roOFF).laneRole 79 = roOFF) := by decide +kernel

theorem test_meets_QlinkCommandsComplete_reaches :
    (link lsREADY).reaches .host pPAK ∧ (laneIn lsREADY 79 roFAILED).reaches .host (pQLK 79) := by simp only [State.reaches]; decide +kernel

/-! ### Hypotheses met: beam check, detectors and calibration -/

/-- A passport's header with no defect. -/
def passHead : List Byte :=
  let b := leBytes 4 0x50535041 ++ leBytes 2 1 ++ leBytes 2 512 ++ leBytes 2 512 ++ List.replicate 50 0
  b ++ leBytes 4 (crc32c.of b)
/-- Four bytes of ones bring a reflected 32-bit check from all ones to 0, where zeros keep it. -/
def ones4 : List Byte := List.replicate 4 0xFF
/-- A passport: the header, a gain table of the ones and zeros, its check value. -/
def passport : List Byte :=
  (passHead ++ List.replicate 4032 0) ++ ((ones4 ++ List.replicate 524284 0) ++ ones4)

theorem slice_append (a b c : List Byte) : slice (a ++ (b ++ c)) a.length b.length = b := by simp [slice]

theorem passHead_length : passHead.length = 64 := by decide +kernel

theorem feed_zeros (n : Nat) : crc32c.feed 0 (List.replicate n 0) = 0 := by
  induction n with
  | zero => rfl
  | succ n ih => exact (congrArg (fun r => crc32c.feed r (List.replicate n 0)) (by decide +kernel : crc32c.byte 0 0 = 0)).trans ih

theorem passport_header : passHeaderOk passport = true := by
  have h (o n : Nat) (ho : o + n ≤ 64) : slice passport o n = slice passHead o n := by
    have : passHead.length = 64 := passHead_length
    have e : (passport.drop o).take n = (passHead.drop o).take n := by
      rw [passport, List.append_assoc, List.drop_append_of_le_length (by omega), List.take_append_of_le_length (by simp; omega)]
    simp only [slice, e]
  have k : passHeaderOk passHead = true := by decide +kernel
  unfold passHeaderOk leAt at *
  rw [h 0 4 (by omega), h 4 2 (by omega), h 6 2 (by omega), h 8 2 (by omega), h 12 4 (by omega), h 0 60 (by omega), h 60 4 (by omega)]
  exact k

theorem passport_tables : passTablesOk passport = true := by
  have hh : (passHead ++ List.replicate 4032 (0 : Byte)).length = 0x1000 := by
    rw [List.length_append, passHead_length, List.length_replicate]
  have hg : (ones4 ++ List.replicate 524284 (0 : Byte)).length = 524288 := by
    rw [List.length_append, List.length_replicate]; rfl
  have g : slice passport 0x1000 524288 = ones4 ++ List.replicate 524284 0 := by
    rw [passport, ← hh, ← hg]; exact slice_append _ _ _
  have c : slice passport 0x81000 4 = ones4 := by
    have := slice_append ((passHead ++ List.replicate 4032 (0 : Byte)) ++ (ones4 ++ List.replicate 524284 (0 : Byte))) ones4 []
    rw [List.append_nil, List.append_assoc, List.length_append, hh, hg] at this
    exact this
  have nd : leAt passport 12 4 = 0 := by
    have e : (passport.drop 12).take 4 = (passHead.drop 12).take 4 := by
      have : passHead.length = 64 := passHead_length
      rw [passport, List.append_assoc, List.drop_append_of_le_length (by omega), List.take_append_of_le_length (by simp; omega)]
    simp only [leAt, slice, e]; decide +kernel
  have z : slice passport 0x92000 4 = [0, 0, 0, 0] := by
    have : passport.length = 0x81004 := by
      rw [passport, List.length_append, hh, List.length_append, hg]; rfl
    simp only [slice, List.drop_eq_nil_of_le (show passport.length ≤ 0x92000 by omega)]; rfl
  have k : crc32c.of (ones4 ++ List.replicate 524284 0) = 0xFFFFFFFF := by
    have : crc32c.feed crc32c.init (ones4 ++ List.replicate 524284 0) = 0 := by
      rw [CrcSet.feed, List.foldl_append]
      rw [show List.foldl crc32c.byte crc32c.init ones4 = 0 by decide +kernel]; exact feed_zeros _
    rw [CrcSet.of, this]; decide +kernel
  simp only [passTablesOk, nd, g, k]
  rw [leAt, c, leAt, z]
  decide +kernel

theorem test_meets_ArrayCommandsComplete_commands :
    (bench.takesWork .host pARY ∧ bench.bit Reg.ARY_PASS_CTRL_BUSY = false ∧ bench.ary.session = none ∧ bench.inkUp = true ∧
      bench.rd Reg.ALC_BT_STAT_WRITABLE ≠ 0 ∧ bench.bit Reg.ARY_HK_RES_BUSY = false ∧ bench.manualOk = true ∧ bench.ary.run = none) ∧
    (let s := (bench.wr Reg.ARY_PASS_CTRL_BUSY 1).modAry fun a => { a with bank := 1 }
     s.bit Reg.ARY_PASS_CTRL_BUSY = true ∧ s.inReset pARY = false ∧ s.ary.inkLost = false ∧ s.inkUp = true ∧ 
     s.bit Reg.ALC_BT_STAT_WRITABLE = true ∧ s.ary.bank ≠ s.rd Reg.ALC_BT_STAT_ACTIVE) ∧
    ((bench.modAry fun a => { a with hk := some (true, 16, 5) }).ary.hk = some (true, 16, 5) ∧
      (bench.modAry fun a => { a with hk := some (false, 16, 5) }).ary.hk = some (false, 16, 5)) ∧
    ((bench.wr Reg.ARY_CFG_HKTEMP 1).live pARY = true ∧ (bench.wr Reg.ARY_CFG_HKTEMP 1).bit Reg.ARY_CFG_HKTEMP = true) := by
  simp only [State.takesWork, State.reaches]; decide +kernel

theorem test_meets_ArrayCommandsComplete_passport : passHeaderOk passport = true ∧ passTablesOk passport = true :=
  ⟨passport_header, passport_tables⟩

theorem test_meets_ArrayCommandsComplete_runs :
    (let s := bench.wrs [(Reg.ARY_DET_STAT_LOCK, 7), (Reg.ARY_DET_CFG_LANES, 15)]
     s.inReset pARY = false ∧ (s.rd Reg.ARY_DET_STAT_LOCK).testBit 3 = false ∧
     s.rd Reg.ARY_DET_CFG_LANES &&& setBit (s.rd Reg.ARY_DET_STAT_LOCK) 3 = s.rd Reg.ARY_DET_CFG_LANES ∧
     s.bit Reg.ARY_DET_PHASE_FREEZE = false ∧ (s.rd Reg.ARY_DET_STAT_LOCK).testBit 2 = true) ∧
    (let ss : Session := { manual := true, parts := [0] }
     let s := (bench.wr Reg.ARY_DET_CFG_LANES 0).modAry fun a => { a with session := some ss }
     s.live pARY = true ∧ s.ary.run = none ∧ s.ary.session = some ss ∧ ss.manual = true ∧ s.manualOk = true ∧ s.runOk = true ∧
     (s.modAry fun a => { a with run := some (0, 1) }).ary.run = some (0, 1) ∧ s.ary.spoiled = false ∧
     (0 : Int) - sx 16 (s.rd Reg.ARY_BC_DARK_BASE) * (1 : Nat) ≤ (s.rd Reg.ARY_BC_DARK_LIM : Int) * (1 : Nat)) ∧
    ((bench.wr Reg.ARY_BC_STAT_PEND_WB 1).bit Reg.ARY_BC_STAT_PEND_WB = true ∧ (bench.wr Reg.ARY_BC_STAT_PEND_WB 1).stagingOpen = true ∧
      (bench.wr Reg.ARY_BC_STAT_PEND_WB 1).inReset pARY = false) := by decide +kernel

/-- A turnaround's dwell with a calibration gap open, the stripe in hand. -/
def dwell : State :=
  let s := { (stripe.wrs [(Reg.MOT_HALT_STAT_GAP, 1), (Reg.PAK_STAT_LSTATE, lsREADY), (Reg.GLB_PERMIT_REQ, 1), (Reg.QLK_STAT_ROLE 0, roDATA),
    (Reg.QLK_STAT_ROLE 79, roSTANDBY), (Reg.ARY_DET_CFG_LANES, 0)]) with pins := { stripe.pins with permitLvl := true } }
  s.modMot fun m => { m with gapCal := true }
/-- The same with a calibration due. -/
def due (rot aln : Bool) : State :=
  { dwell with pak := { dwell.pak with rotDue := rot, alnDue := aln, lanes := List.replicate 79 {} ++ [{ scan := { ready := true } }] } }
/-- An alignment run of one lane and one pulse. -/
def run1 (launched : Nat) : AlnRun :=
  { code := 1, period := 1000, spacing := 1, dur := 256, k := 1, repeats := 1, n := 4, order := 0, opened := 0, launched := launched }

theorem test_meets_CalibrationStepsComplete :
    (up.inReset (if 5 < 4 then pPAK else pMOT) = false ∧ up.bit (eqFreeze 5) = false ∧ up.rd (eqPhase 5) < 64 ∧ up.rd (eqCtle 5) ≤ 15) ∧
    (up.inReset (if 0 < 4 then pPAK else pMOT) = false ∧ up.bit (eqFreeze 0) = false ∧ up.rd (eqPhase 0) < 64 ∧ up.rd (eqCtle 0) ≤ 15) ∧
    ((laneIn lsREADY 79 roSTANDBY).laneRole 79 = roSTANDBY ∧ (laneIn lsREADY 79 roSTANDBY).inReset pPAK = false ∧
      (laneIn lsREADY 79 roSTANDBY).inReset (pQLK 79) = false ∧ ((laneIn lsREADY 79 roSTANDBY).laneAt 79).scan.width = false) ∧
    (∀ pre ∈ [0, 6, 7], let s := (laneIn lsREADY 79 roSTANDBY).modLane 79 fun q => { q with scan := { width := true, preset := pre } }
      (s.laneAt 79).scan.width = true ∧ (s.laneAt 79).scan.preset = pre) ∧
    ((due true false).calDwell = true ∧ (due true false).pak.rotDue = true ∧ (due true false).lstate = lsREADY ∧
      (due true false).pak.takeover = none ∧ (due true false).allAcked = true ∧ (due true false).oldestData = some 0 ∧
      (due true false).freshSpare = some 79) ∧
    ((due false true).cur = some (wb, pl) ∧ (due false true).calDwell = true ∧ (due false true).pak.alnDue = true ∧
      (due false true).pak.rotDue = false ∧ (due false true).pak.aln = none ∧ (due false true).alnOk wb = true) := by decide +kernel

theorem test_meets_CalibrationStepsComplete_runs :
    (let s : State := { dwell with pak := { dwell.pak with aln := some (run1 0), streams := [{ logical := 0, wseq := alnSeq, k := 1, n := 4, order := 0, total := 2 ^ 30, pos := 2 ^ 29 }] } }
     s.pak.aln = some (run1 0) ∧ (run1 0).bad = 0 ∧ (run1 0).launched < (run1 0).ticks ∧ s.tickAcked alnSeq (run1 0).k (run1 0).launched = true ∧
     s.live pMOT = true) ∧
    (let ps : List Sys2Proof.AlnPulse := [⟨0, 1, 50, 1, 20, 1, 0⟩]
     (run1 1).ticks ≤ (run1 1).launched ∧ ps.length = (run1 1).ticks ∧ (ps.all fun e => !dwell.alnDark e) = true ∧
     0 < (dwell.alnSums (run1 1) ps 0).1.1) := by decide +kernel

/-! ### Hypotheses met: HBM, crossings and the ledger -/

theorem test_meets_MemoryCommandsComplete_reads :
    (hbmSize - 1 < hbmSize ∧ up.stackReady (stackOf ((hbmSize - 1) / 32)) = true) ∧
    ((idle.wr (Reg.MEM_STAT_INIT_DONE 3) 0).pstate (pMEM 3) = stIDLE ∧ (idle.wr (Reg.MEM_STAT_INIT_DONE 3) 0).rd (Reg.MEM_STAT_INIT_DONE 3) = 0) ∧
    (let s := up.wr Reg.MEM_SCRUB_EN 1
     s.stackReady 3 = true ∧ s.pstate (pMEM 3) = stRUNNING ∧ s.bit Reg.MEM_SCRUB_EN = true ∧ (s.stack 3).sub < 240 ∧
     32 * ((s.rd (Reg.MEM_SCRUB_POS_N 3) * 120 + 30 * 3 + (s.stack 3).sub / 8) * 8 + (s.stack 3).sub % 8) < hbmSize) ∧
    (let s : State := { up.wrs [(Reg.MEM_SCRUB_EN, 1), (Reg.MEM_SCRUB_PERIOD, 1)] with tim := { base := (66 * 16 * 10 ^ 9 + 1) * 2 ^ 28 } }
     s.stackReady 3 = true ∧ s.bit Reg.MEM_SCRUB_EN = true ∧ 66 * 16 * 10 ^ 9 * s.rd Reg.MEM_SCRUB_PERIOD < s.now - (s.stack 3).passStart) ∧
    (up.live (pMEM 3) = true ∧ up.bit Reg.MEM_REF_MODE = false ∧ up.debt 0 + 1 < (up.wr Reg.MEM_REF_DEBT_MAX 2).rd Reg.MEM_REF_DEBT_MAX) ∧
    (up.inReset (pMEM 3) = false ∧ (94#8).toNat < 95) ∧ ((up.modStack 3 fun k => { k with ppr := true }).stack 3).ppr = true := by decide +kernel

theorem test_meets_MemoryCommandsComplete_repairs :
    (let s := up.modStack 3 fun k => { k with copy := some (0, 30) }
     (s.stack 3).copy = some (0, 30) ∧ s.running (pMEM 3) = true ∧ s.pstate (pMEM 3) ≠ stQUIESCED) ∧
    (up.inReset (pMEM 3) = false ∧ up.pcState 3 29 = 0 ∧ (up.stack 3).copy = none ∧ (up.wr (Reg.MEM_PC_STATE 3 29) 5).spareOf 3 = some 30) ∧
    (idle.takesWork .host (pMEM 3) ∧ idle.pstate pALC ≠ stRUNNING ∧ idle.pstate pING ≠ stRUNNING ∧ idle.pstate pSRV ≠ stRUNNING) ∧
    (up.takesWork .host (pMEM 0) ∧ 0 < up.mem.stackSt.length ∧ (up.stack 0).copy = none ∧ up.spareOf 0 = some 30 ∧ up.pcState 0 (29#5).toNat = 0) ∧
    (let s := up.wrs [(Reg.MEM_TEST_ADDR_LO_ADDR, 0xFFFFFFE0), (Reg.MEM_TEST_ADDR_HI_ADDR, 23), (Reg.LED_CFG_BASE, 90112), (Reg.ARY_BC_BASE_BASE, 90111)]
     s.reaches .host (pMEM 0) ∧ s.testOk = true ∧ s.stackReady (stackOf (s.testAddr / 32)) = true) ∧
    (({ up with mem := { up.mem with lossDue := true } } : State).mem.lossDue = true) := by
  simp only [State.takesWork, State.reaches]; decide +kernel

theorem test_meets_RegionsWindowsCrossingsAndLedgerComplete :
    (let s := (idle.wrs [(Reg.LED_CFG_BASE, 98000)]).wr (Hdr.state pLED) stOFF
     s.reaches .host (pMEM 0) ∧ s.pstate pALC ≠ stRUNNING ∧ regionBounds 0x22 0x1B 0x18 4 = true ∧ s.regionKeeps 0x22 0x1B 0x18 4 = true) ∧
    (up.hears .host = true ∧ up.bar2Closed = false ∧ (0x3FFFFFFFF#34).toNat + (1#12).toNat ≤ 2 ^ 34) ∧
    (Page.ok (pQLK 79) = true) ∧
    (let s := up.wrs [(Reg.LED_RD_LSEQ, 0xFFFFFFFF), (Reg.LED_WR_LSEQ, 1)]
     s.reaches .host pLED ∧ ((1#32).toNat + 2 ^ 32 - s.rd Reg.LED_RD_LSEQ) % 2 ^ 32 ≤ s.ringUsed) ∧
    (let s : State := { up with led := { staging := [[1, 2]] } }
     s.led.staging = [1, 2] :: [] ∧ s.live pLED = true ∧ s.ringUsed < s.ringCap ∧
     ((wordsOf (s.ringAddr (s.rd Reg.LED_WR_LSEQ)) 256).all fun c => s.stackReady (stackOf c)) = true) := by
  simp only [State.reaches]; decide +kernel

theorem test_meets_HbmHoldsWhatIsWritten :
    (32 * (hbmSize / 32 - 1) < hbmSize ∧ up.stackReady (stackOf (hbmSize / 32 - 1)) = true ∧ up.mem.lost = [] ∧
      up.bit (Hdr.injArm (pMEM (stackOf (hbmSize / 32 - 1)))) = false ∧ up.wordProtected (hbmSize / 32 - 1) = false) ∧
    (up.mem.poison = [] ∧ classify (up.word36 (hbmSize / 32 - 1)) = .good) ∧
    ((homeOf [0, 1, 2, 3, 4, 5] 5).chan = (homeOf [0, 1, 2, 3, 4, 5] 5).chan) ∧ (96 * 2 ^ 30 ≤ hbmSize) := by decide +kernel

theorem test_meets_OneWrongByteIsCorrected :
    (List.range 32).length = 32 ∧ (∀ d ∈ List.range 32, d < 256) ∧
    -- R326 and R331: every byte of the mark is the spec's
    poisonMark.length = 4 := by decide +kernel

/-! ### Hypotheses met: DMA -/

/-- Channel 31 with an active set of zeros, in a state. -/
def chan31 (st : Nat) : State := up.wrs [(Reg.DMA_STAT_STATE 31, st), (Reg.DMA_STAT_ACT 31, 1)]
/-- The same with the channel's own state. -/
def chanHas (st : Nat) (c : DmaChan) : State := (chan31 st).modChan 31 fun _ => c

theorem test_meets_DmaCommandsComplete_commands :
    (up.reaches .host (pDMA 31) ∧ up.bit (Hdr.quiesce (pDMA 31)) = false ∧ up.accepts (pDMA 31) = true ∧
      up.bit (Reg.DMA_STAT_ACT 31) = false) ∧
    ((chan31 dRUNNING).reaches .host (pDMA 31) ∧ (chan31 dRUNNING).bit (Hdr.quiesce (pDMA 31)) = false ∧
      (chan31 dRUNNING).accepts (pDMA 31) = true ∧ (chan31 dRUNNING).bit (Reg.DMA_STAT_ACT 31) = true ∧
      ((chan31 dRUNNING).chan 31).pend = []) ∧
    ((chan31 dRUNNING).dstate 31 = dRUNNING ∧ (chan31 dRUNNING).dstate 31 ≠ dIDLE ∧ (chan31 dERROR).dstate 31 = dERROR) ∧
    ((chan31 dPAUSED).dstate 31 = dPAUSED ∧
      (chan31 dPAUSED).spacesClosed ((chan31 dPAUSED).desc 31).usesHbm ((chan31 dPAUSED).desc 31).usesHost = none) := by
  simp only [State.reaches]; decide +kernel

theorem test_meets_DmaCommandsComplete_answers :
    (0 < ((chanHas dRUNNING { stale := 1 }).chan 31).stale ∧ Sys2Proof.DmaResp.failed ≠ .memory) ∧
    (let s := chanHas dRUNNING { reqs := [(0, 4)] }
     (s.chan 31).stale = 0 ∧ s.inReset (pDMA 31) = false ∧ s.bit (Reg.DMA_STAT_ACT 31) = true ∧ s.dstate 31 = dRUNNING ∧
     (s.chan 31).reqs = (0, 4) :: [] ∧ (s.chan 31).fetch = none ∧ (s.chan 31).held = [] ∧ ([1, 2, 3, 4] : List Byte).length = 4) ∧
    (let s := chanHas dPAUSING {}
     s.inReset (pDMA 31) = false ∧ s.bit (Reg.DMA_STAT_ACT 31) = true ∧ s.dstate 31 = dPAUSING ∧ (s.chan 31).indexing (s.desc 31) = false ∧
     (s.desc 31).total ≤ (s.chan 31).moved ∧ (s.chan 31).fetch = none ∧ (s.chan 31).held = [] ∧ (s.chan 31).reqs = [] ∧
     (s.desc 31).mode = 0) ∧
    (let s := chanHas dRUNNING { fetch := some (false, hbmSize - 64) }
     s.inReset (pDMA 31) = false ∧ s.dstate 31 = dRUNNING ∧ (s.chan 31).fetch = some (false, hbmSize - 64) ∧ s.bar2Closed = false) ∧
    (let s := chanHas dRUNNING { fetch := some (true, 0), reqs := [(0, 64)] }
     s.inReset (pDMA 31) = false ∧ s.dstate 31 = dRUNNING ∧ (s.chan 31).fetch = some (true, 0) ∧ (s.chan 31).stale = 0 ∧
     (s.chan 31).reqs ≠ [] ∧ (List.replicate 64 (0 : Byte)).length = 64) ∧
    (let s : State := { up with pwr := { up.pwr with perstRst := false } }
     s.pwr.powered = true ∧ s.pwr.perstRst = false ∧ s.inReset pHST = false ∧ s.inReset pGLB = false ∧
     (s.wr (Hdr.state pGLB) stRESET).inReset pGLB = true) := by decide +kernel

/-! ### Hypotheses met: Ethernet and the fabric -/

/-- Both ports in four links, all up, sub-port 3 of port 1 a fabric link. -/
def wired : State :=
  { up with ink := { up.ink with eeprom := [0] } }.wrs [(Reg.NET_CFG_MODE 0, 2), (Reg.NET_CFG_MODE 1, 2), (Reg.NET_STAT_LINK 0, 15), (Reg.NET_STAT_LINK 1, 15), (Reg.FAB_CFG_LINKS, 0x80),
    (Reg.FAB_STAT_ADDR, 63), (Reg.NET_RING_BASE 1, 98303)]
/-- A broadcast frame of 60 zeros' length with its FCS. -/
def bcast : List Byte :=
  let b := beBytes 6 0xFFFFFFFFFFFF ++ List.replicate 54 0
  b ++ leBytes 4 (crc32.of b)
/-- The same under a single VLAN tag. -/
def vlan : List Byte :=
  let b := beBytes 6 0xFFFFFFFFFFFF ++ List.replicate 6 0 ++ [0x81, 0] ++ List.replicate 46 0
  b ++ leBytes 4 (crc32.of b)
/-- A transport frame: kind, handle, offset and payload. -/
def xframe (kind handle ofs : Nat) (p : List Byte) : List Byte :=
  let b := leBytes 4 (2 ^ 24 + 2 ^ 16 * kind + handle) ++ leBytes 8 ofs ++ leBytes 4 p.length ++ List.replicate 16 0 ++ p
  b ++ leBytes 4 (crc32c.of b)
/-- A TX ring entry of 60 bytes for sub-port 3. -/
def txEntry : State := { wired with hbm := Memory.writeBytes [] (wired.txRing 1) (leBytes 4 (2 ^ 28 * 3 + 60)) }

theorem test_meets_EthernetAndTransportComplete_frames :
    (wired.running (pNET 1) = true ∧ wired.subUsed 1 3 = true ∧ wired.linkUp 1 3 = true) ∧
    (etherGood [] = false ∧ etherGood bcast = true ∧ 0 + bcast.length ≤ rxBuffer ∧ etherGood vlan = true) ∧
    ((wired.bufferIn 1 (0 + bcast.length)).etherFor 1 3 (beAt bcast 0 6) = true) ∧
    (beAt bcast 12 2 ≠ 0x8100 ∧ beAt vlan 12 2 = 0x8100 ∧ beAt vlan 16 2 ≠ 0x8100) ∧
    (let s := wired.modNet 1 fun p => { p with full75 := true }
     (s.port 1).full75 = true ∧ s.running (pNET 1) = true) ∧
    (wired.linkUp 1 3 = !false ∧ (wired.wr (Reg.NET_STAT_LINK 1) 7).linkUp 1 3 = !true ∧ wired.reaches .host (pNET 1)) := by
  simp only [State.reaches]; decide +kernel

theorem test_meets_EthernetAndTransportComplete_entries :
    (let s := (txEntry.wr (Reg.NET_TXR_IDX_WR 1) 1)
     s.running (pNET 1) = true ∧ s.ringsOpen 1 = true ∧ s.rd (Reg.NET_TXR_IDX_RD 1) ≠ s.rd (Reg.NET_TXR_IDX_WR 1) ∧
     (let h := s.hbmGet (s.txRing 1 + 2048 * s.rd (Reg.NET_TXR_IDX_RD 1)) 32
      let w := leAt h.1.data 0 4
      h.1.poison = [] ∧ (h.2.hbmGet (s.txRing 1 + 32) 60).1.poison = [] ∧ bits w 11 0 = 60 ∧ s.subUsed 1 (bits w 29 28) = true ∧
      w.testBit 27 = false ∧ s.linkUp 1 (bits w 29 28) = true ∧ s.classHeld 1 (bits w 29 28) clHost = false)) ∧
    (xGood (xframe 3 5 0 []) = true ∧ xKind (xframe 3 5 0 []) = 3 ∧ wired.live (pNET 1) = true) ∧
    (let f := xframe 1 5 8 [1, 2, 3, 4]
     let s : State := { wired.modNet 1 fun p => { p with lastEnd := 12, owed := true } with ing := { up.ing with delivery := some { handle := 5, source := 2, resume := 8 } } }
     s.live (pNET 1) = true ∧ xGood f = true ∧ xKind f = 1 ∧ s.openStreamOf = some (1 + 1, xHandle f, xOfs f) ∧
     xOfs f + xLen f ≤ (s.port 1).lastEnd ∧ (s.port 1).owed = true) := by decide +kernel

/-- A fabric frame from address 1 to a destination. -/
def fframe (kind dst : Nat) (p : List Byte) : List Byte :=
  let b := leBytes 4 (2 ^ 24 + 2 ^ 16 * kind + 2 ^ 8 + dst) ++ leBytes 4 (2 ^ 24 + p.length) ++ List.replicate 8 0 ++ p
  b ++ leBytes 4 (crc32c.of b)

theorem test_meets_FabricFramesTakeEffect :
    (wired.live pFAB = true ∧ 7 ∈ wired.fabLinks) ∧
    (∀ k ∈ fabricKinds, fGood (fframe k 63 []) = true ∧ fKind (fframe k 63 []) = k) ∧
    (fGood (fframe 0x10 255 []) = true ∧ fDst (fframe 0x10 255 []) = 0xFF) ∧
    (fDst (fframe 0x10 63 []) = wired.rd Reg.FAB_STAT_ADDR ∧ fDst (fframe 0x10 63 []) < 64) ∧
    (∀ w ∈ [0x52530001, 0x52530002], let f := fframe 0x60 63 (leBytes 4 w); let s := wired.wr Reg.FAB_CFG_RST_EN 1
      fGood f = true ∧ fKind f = 0x60 ∧ (s.fabricForward 7 f).bit Reg.FAB_CFG_RST_EN = true ∧ (fPayload f).length = 4 ∧
      leAt (fPayload f) 0 4 = w) := by decide +kernel

theorem test_meets_FabricSendersAndTimersComplete_group :
    (wired.fabOn = true ∧ (wired.wr Reg.FAB_MOT_ROLE 1).isLead = true ∧ (wired.wr Reg.FAB_MOT_ROLE 2).isFollower = true ∧
      (wired.wr Reg.FAB_MOT_ROLE 1).fabOn = true ∧ (wired.wr Reg.FAB_MOT_ROLE 2).fabOn = true) ∧
    (let s := wired.wrs [(Reg.FAB_ROUTE_VALID 0, 1), (Reg.FAB_ROUTE_NEXT 0, 62)]
     s.fabOn = true ∧ s.timeParent = some 62) ∧
    ((wired.wr Reg.FAB_MOT_ROLE 1).takesWork .host pFAB ∧ (wired.wr Reg.FAB_MOT_ROLE 1).isLead = true) ∧
    (let s := wired.wr Reg.FAB_MOT_ROLE 2
     s.live pFAB = true ∧ s.isFollower = true ∧ s.fab.leadLost = false) ∧
    (let s := wired.wrs [(Reg.FAB_MOT_ROLE, 1), (Reg.FAB_MOT_MEMBERS_LO_MEMBERS, 2 ^ 31), (Reg.FAB_MOT_MEMBERS_HI_MEMBERS, 1)]
     s.live pFAB = true ∧ s.fromFollower 31 = true ∧ (s.follower 31).lost = false ∧ s.fromFollower 32 = true ∧ (s.follower 32).lost = false) := by
  simp only [State.takesWork, State.reaches]; decide +kernel

theorem test_meets_FabricSendersAndTimersComplete_timers :
    (let s : State := { wired with fab := { up.fab with neighbours := [⟨7, 5, 1, 0, 0⟩], lsas := [⟨5, 1, 0, 0, 0, []⟩], reckFrom := [1], shareWait := true, shares := [{ peer := 63, handle := 0 }], sums := [{ stripe := 9, src := 1 }] }, ing := { up.ing with srv := { up.ing.srv with shared := true } } }
     s.live pFAB = true ∧ (s.fab.neighbours.any fun x => x.link == 7) = true ∧ (s.fab.lsas.any fun x => x.uid == 5) = true ∧
     s.fab.reckFrom ≠ [] ∧ s.fab.shareWait = true ∧ (s.fab.shares.any fun e => e.peer == 63) = true ∧
     (s.fab.sums.find? fun e => e.stripe == 9) = some { stripe := 9, src := 1 } ∧ s.srv.shared = true ∧ 9 ∉ s.srv.whole) ∧
    (let s := wired.wrs [(Reg.FAB_ROUTE_VALID 0, 1), (Reg.FAB_ROUTE_LINK 0, 7)]
     s.takesWork .host pFAB ∧ (0#8).toNat ≠ 0xFF ∧ s.routeLink (0#8).toNat ≠ none) ∧
    (wired.isLead = false ∧ wired.fabOn = true) := by
  simp only [State.takesWork, State.reaches]; decide +kernel

/-- The module's own node has no entries, so only it is led to, and it is held. -/
theorem test_meets_FabricSendersAndTimersComplete_settles : wired.maySettle = true := by
  have hn : wired.fab.neighbours = [] ∧ wired.fab.lsas = [] := by decide +kernel
  have hm (n : Node) (hu : n.uid = ownUid) (he : n.entries = []) : mentioned [n] = [ownUid] := by
    refine List.foldl_fixed' (fun _ => ?_) _
    simp [hu, he, List.eraseDups_cons]
  rw [State.maySettle, State.topology, hn.1, hn.2, List.map_nil, List.map_nil, hm _ rfl rfl]
  simp

/-! ### Hypotheses met: power, resets and the innkeeper -/

/-- No power. -/
def unpowered (p : Pwr → Pwr) : State := { up with pwr := p { up.pwr with powered := false } }
/-- Powered, with the reset controller's store changed. -/
def pow (p : Pwr → Pwr) : State := { up with pwr := p up.pwr }

theorem test_meets_SupplyResetsAndPermitComplete_supply :
    ((unpowered id).pwr.powered = false ∧ (unpowered id).pwr.overV = false ∧ (unpowered id).pwr.tripped = false ∧ up.pwr.powered = true) ∧
    ((pow fun p => { p with tripped := true }).pwr.tripped = true) ∧
    (let s := up.wr Reg.RCK_PWR_PH_ACTIVE 0x8001
     (s.rd Reg.RCK_PWR_PH_ACTIVE).testBit 15 = true ∧ s.inkUp = true ∧ s.phasesActive < 14 ∧
     ((List.range 16).find? fun p => !(s.rd Reg.RCK_PWR_PH_ACTIVE).testBit p && !(s.rd Reg.RCK_PWR_PH_FAILED).testBit p) = some 1) ∧
    (let s := unpowered fun p => { p with overV := true }
     s.pwr.powered = false ∧ s.pwr.overV = true ∧ s.pwr.tripped = false) ∧
    (let s := unpowered fun p => { p with tripped := true }
     s.pwr.powered = false ∧ s.pwr.overV = false ∧ s.pwr.tripped = true ∧ (0x02EF#16).toInt < 16 * (s.pwr.tripWarn : Int)) := by decide +kernel

theorem test_meets_SupplyResetsAndPermitComplete_resets :
    (bench.bit Reg.GLB_PERMIT_REQ = true ∧ (pow fun p => { p with rstLow := true }).pwr.rstLow = true ∧
      (pow fun p => { p with modPhase := .asserted }).pwr.modPhase = .asserted) ∧
    (let s := pow fun p => { p with modPhase := .blocksReset }
     s.pwr.modPhase = .blocksReset ∧ s.rd Reg.LCY_STATE_STATE ≠ 0x40) ∧
    (up.pwr.perstRst = false ∧ up.bit Reg.RCK_CFG_PERST_MOD = false ∧ up.pwr.lost156 = false) ∧
    (let s := pow fun p => { p with perstRst := true }
     s.pwr.perstRst = true ∧ s.pwr.ref100 = true) ∧
    ((pow fun p => { p with ref156 := false, lost156 := true }).pwr.ref156 = false) ∧
    (40 < 41 ∧ up.islandLocked 40 = true ∧ up.refPresent 40 = true ∧ up.islandLocked 3 = true ∧ up.islandLocked 8 = true) ∧
    (up.switchClosed = false ∧ bench.switchClosed = true) ∧
    ((0#16).toInt < 16 * (up.rd Reg.RCK_THERM_LIM_LID_TRIP : Int) ∧ (0#16).toInt < 16 * (up.rd Reg.RCK_THERM_LIM_DIE_TRIP : Int)) ∧
    (up.pwr.booted = true ∧ up.inkUp = true) ∧
    (let s := up.wr Reg.INK_STATUS_INK_DOWN 1
     s.pwr.booted = true ∧ s.pwr.inkHalted = false ∧ s.inkUp = false ∧ s.inReset pINK = false ∧ s.lcState ≠ lcWIPING) ∧
    (up.reaches .host pRCK ∧ up.reaches .innkeeper pRCK ∧ up.reaches .host pGLB ∧ up.bit Reg.GLB_PERMIT_REQ = false) := by
  simp only [State.reaches]; decide +kernel

/-- No fault and no gate. -/
theorem test_meets_SupplyResetsAndPermitComplete_gate :
    (up.wrs [(Reg.GLB_PERMIT_REQ, 0)]).gated = false := by decide +kernel

/-- The mailbox with an operation in hand. -/
def mail (op a0 a1 a2 : Nat) : State :=
  up.wrs [(Reg.INK_STATUS_BUSY, 1), (Reg.INK_CMD_OP, op), (Reg.INK_ARG_ARG 0, a0), (Reg.INK_ARG_ARG 1, a1), (Reg.INK_ARG_ARG 2, a2)]
/-- What every operation asks. -/
def served (s : State) : Bool := s.bit Reg.INK_STATUS_BUSY && s.inkUp && s.lcState != lcUNKNOWN && !s.lcCloses

theorem test_meets_InnkeeperCommandsComplete_mailbox :
    (up.takesWork .host pINK ∧ up.bit Reg.INK_STATUS_BUSY = false ∧ up.bit Reg.INK_STATUS_DONE = false ∧ up.bit Reg.INK_STATUS_INK_DOWN = false) ∧
    (0xFFFF ∉ mailboxOps ∧ served (mail 0xFFFF 0 0 0) = true ∧ (mail 0xFFFF 0 0 0).rd Reg.INK_CMD_OP = 0xFFFF) ∧
    (let s := (mail 1 0 0 0).modInk fun k => { k with raw := [0], eeprom := [0] }
     served s = true ∧ s.rd Reg.INK_CMD_OP = 1 ∧ s.ink.raw ≠ [] ∧ s.ink.eeprom ≠ []) ∧
    (served (mail 2 0 0 0) = true ∧ (mail 2 0 0 0).rd Reg.INK_CMD_OP = 2) ∧
    (let s := mail 0x10 262080 64 0
     served s = true ∧ s.arg 0 % 4 = 0 ∧ s.arg 1 % 4 = 0 ∧ 4 ≤ s.arg 1 ∧ s.arg 1 ≤ 64 ∧ s.arg 0 + s.arg 1 ≤ 262144) ∧
    (let s := mail 0x11 262088 56 0
     served s = true ∧ s.ink.commit ≠ some .host ∧ s.ink.queue.contains .host = false ∧ s.arg 0 % 4 = 0 ∧ s.arg 1 % 4 = 0 ∧ s.arg 1 ≤ 56 ∧
     s.arg 0 ≤ 262140 ∧ s.arg 0 + s.arg 1 ≤ 262144) ∧
    (let s := mail 0x30 0xF0000000 23 25165824
     served s = true ∧ 4096 ≤ s.arg 2 ∧ s.arg 2 ≤ 25165824 ∧ s.argPlace (s.arg 2) = true ∧ s.ink.image.security ≤ (0 : Word).toNat) ∧
    (let s := (mail 0x31 0 0 0).modInk fun k => { k with staged := some 1 }
     served s = true ∧ s.ink.staged = some 1 ∧ s.arg 0 = 0) ∧
    (let s := mail 0x40 0xF0000000 23 7
     served s = true ∧ s.pak.aln = none ∧ s.ary.run = none ∧ s.arg 2 < 8 ∧ s.argPlace calLen = true) ∧
    (let s := (mail 0x20 0x30 0 0).wrs [(Reg.LCY_STATE_CUSTODY, 0)]
     served s = true ∧ s.ink.lcCmd = false ∧ s.lcRefusal = none) := by
  simp only [State.takesWork, State.reaches]; decide +kernel

theorem test_meets_InnkeeperCommandsComplete_store :
    (let s := up.modInk fun k => { k with commit := some .record, fresh := true }
     s.inkUp = true ∧ s.pwr.booted = true ∧ s.ink.commit = some .record ∧ s.ink.fresh = true ∧ s.pwr.powered = true) ∧
    (let s := (up.wrs [(Reg.LCY_STATE_STATE, lcWIPING), (Reg.LCY_STATE_TARGET, lcOPEN)]).modInk fun k => { k with wiped := true }
     s.lcState = lcWIPING ∧ s.ink.wiped = true ∧ s.modReset = false ∧ s.inkUp = true ∧ s.ink.commit = none ∧ s.ink.queue = [] ∧
     (∀ n < 4, s.running (pMEM n) = true ∧ s.rd (Reg.MEM_STAT_INIT_DONE n) = 1) ∧ s.rd Reg.LCY_STATE_TARGET ≠ lcRETIRED) ∧
    (let s := pow fun p => { p with booted := false }
     s.pwr.powered = true ∧ s.pwr.booted = false ∧ s.ink.attempts < 3 ∧ s.inReset pINK = false) := by decide +kernel

/-- An identity EEPROM that is accepted. -/
def eeprom : List Byte :=
  let b := leBytes 4 0x524F554D ++ leBytes 2 1 ++ leBytes 2 0x2620 ++ List.replicate 244 0
  b ++ leBytes 4 (crc32c.of b)

theorem test_meets_InnkeeperCommandsComplete_boot : eepromOk eeprom = true := by decide +kernel

/-! ### Well-formedness: an ill-formed term for each kind of check, and the last one that passes -/

theorem test_wf_page : wellFormed (.evtMaskWrite .host (pQLK 80) 0) = false ∧ wellFormed (.evtMaskWrite .host (pQLK 79) 0) = true := by decide
theorem test_wf_island : wellFormed (.islandLockHeld 41) = false ∧ wellFormed (.islandLockLoss 41) = false ∧
    wellFormed (.islandLockHeld 40) = true := by decide
theorem test_wf_crossing :
    wellFormed (.crossingWordDeliver (.lists 24) true) = false ∧ wellFormed (.crossingWordDeliver (.corrected (3 * 2 ^ 30)) true) = false ∧
    wellFormed (.crossingWordDeliver (.lane 80) true) = false ∧ wellFormed (.crossingWordDeliver (.lane 79) true) = true := by decide
theorem test_wf_delivery : wellFormed (.ingestTransfer 3 0 0 []) = false ∧ wellFormed (.ingestTransfer 0 16 0 []) = false ∧
    wellFormed (.ingestTransfer 2 15 0 []) = true := by decide
theorem test_wf_beam : wellFormed (.waybillArm (some 262144)) = false ∧ wellFormed (.beamTableWrite .host 262144 none none) = false ∧
    wellFormed (.waybillArm (some 262143)) = true := by decide
theorem test_wf_expander : wellFormed (.expanderDispatch 8 false) = false ∧ wellFormed (.listPoolWaitEnd 8) = false ∧
    wellFormed (.bandListComplete 8 0 false) = false ∧ wellFormed (.surveySegmentWalked 8 0 false) = false ∧ wellFormed (.expanderDispatch 7 true) = true := by decide
theorem test_wf_traveller : wellFormed (.bandCorrected 512) = false ∧ wellFormed (.travellerRelease 512) = false ∧
    wellFormed (.segRecord 512 0) = false ∧ wellFormed (.bandCorrected 511) = true := by decide
theorem test_wf_raster : wellFormed (.tileStall 24) = false ∧ wellFormed (.stagingPoolFree 24) = false ∧ wellFormed (.pairReform 24) = false ∧
    wellFormed (.tileRecordCompare 24 .none) = false ∧ wellFormed (.strikeDecay 52) = false ∧ wellFormed (.rejoin .host 52) = false ∧
    wellFormed (.tileStall 23) = true := by decide
theorem test_wf_slice : wellFormed (.tileCorrect (some 64) 0) = false ∧ wellFormed (.fogComplete (some 64) 0) = false ∧
    wellFormed (.sweepColumn (some 64) 0) = false ∧ wellFormed (.tileCorrect (some 63) 0) = true := by decide
theorem test_wf_itinerary : wellFormed (.itineraryWrite .host 16 0 0) = false ∧ wellFormed (.itineraryWrite .host 0 512 0) = false ∧
    wellFormed (.itineraryWrite .host 15 511 0) = true := by decide
theorem test_wf_lane : wellFormed (.qlinkFrameSend 80 .none) = false ∧ wellFormed (.laneMapSet 80) = false ∧ wellFormed (.qlkRetrain .host 80) = false ∧
    wellFormed (.laneRetrainComplete 80) = false ∧ wellFormed (.marginScanStep 80 true) = false ∧ wellFormed (.echoTimeout 79 256) = false ∧
    wellFormed (.echoTimeout 79 255) = true := by decide
theorem test_wf_receiver : wellFormed (.echoFrame 4 []) = false ∧ wellFormed (.statusFrame 4 []) = false ∧
    wellFormed (.returnLaneLockChange 4 true) = false ∧ wellFormed (.motionLaneLockChange 2 true) = false ∧
    wellFormed (.positionSample 2 0 0 []) = false ∧ wellFormed (.statusFrame 3 []) = true := by decide
theorem test_wf_detector : wellFormed (.detectorLockChange 4 true 0) = false ∧ wellFormed (.detectorPhaseStep 0 16) = false ∧
    wellFormed (.detectorLockChange 3 true 65535) = true := by decide
theorem test_wf_hbm : wellFormed (.hbmRead (96 * 2 ^ 30) [] false) = false ∧ wellFormed (.hbmRead 0 [(36, 1)] false) = false ∧
    wellFormed (.hbmWrite (96 * 2 ^ 30 - 1) [1, 2] false false) = false ∧ wellFormed (.hbmRead (96 * 2 ^ 30 - 1) [(35, 1)] false) = true := by decide
theorem test_wf_stack : wellFormed (.memFillComplete 4) = false ∧ wellFormed (.scrubRead 0 [(36, 1)]) = false ∧
    wellFormed (.refreshDue 0 32 0 false) = false ∧ wellFormed (.refreshCycleEnd 0 0 64) = false ∧ wellFormed (.pop .host 4) = false ∧
    wellFormed (.refreshDue 3 31 63 false) = true := by decide
theorem test_wf_check_unit : wellFormed (.feedB 8 .host 0) = false ∧ wellFormed (.chkQueueEntryTaken 8) = false ∧
    wellFormed (.feedB 7 .host 0) = true := by decide

/-! ### Values that the spec prints -/

/-- Chapter 3, worked example: QLK_53 has its page at 0x0023_5000 and device event 126, whose pin field is bits [27:24] of 0x13C. -/
theorem test_lane_53 : (pQLK 53).base = 0x235000 ∧ (Hdr.evtNum (pQLK 53)).reset = 126 ∧ (irqSel 126).addr = 0x13C ∧ (irqSel 126).lo = 24 := by
  decide +kernel

/-- Chapter 8: the density of cell (20, 30), and the cell side at 5 nm. -/
theorem test_density : cellSide 320 = 200 ∧ rhoOf (mkGeo 32 200 1 1) 24821760 = 19857 := by decide +kernel

/-- Chapter 9: the waybill and plan of the reference case. -/
def refWb : Waybill := { seq := 1, words := [0, 0, 26411008, 0x400, 0x62, 0, 0, 0] }

/-- Chapter 9: lags of rows 457 and 73, shares of the target, and the code 50 with the carry it leaves. -/
theorem test_allocation : lag 0 32 4 457 1 = 1730 ∧ lag 0 32 4 73 1 = 14018 ∧ shareOf (15237 * 40960) 1 3 = 208035840 ∧
    (groupStage 6 0xFFFFFF 0 [{ b := 234022, x := 3408459202560, c1 := 50, j := none }]).map (fun r => (r.code, r.carry)) = [(50, -27514634240)] := by
  decide +kernel

/-- Chapter 10: Y_thr(1,852), and the ticks of the stripe (chapter 23). -/
theorem test_threshold : yThr refWb 32 4 320 0 1852 = -2863040 ∧ nTicks 26411008 32 4 = 6606841 := by decide +kernel

/-- Chapter 12: the code 50 of beam 234,022 in code order and in bit-plane order. -/
theorem test_parcel : ((parcel [(234022, 50)] 6 0 57 8).getD 28 0, (parcel [(234022, 50)] 6 0 57 8).getD 29 0) = (32, 3) ∧
    ((parcel [(234022, 50)] 6 1 57 8).getD 12 0, (parcel [(234022, 50)] 6 1 57 8).getD 36 0, (parcel [(234022, 50)] 6 1 57 8).getD 44 0) = (64, 64, 64) := by
  decide +kernel

/-- Chapter 12: characters 1 to 7 of the marker of tick 1,852 at OFS 23. -/
theorem test_marker : ((markerChars 1852 250 23).drop 1).take 7 = [0x3C, 0xF7, 0xFA, 0, 0, 0, 0] ∧ (markerStart 48055).2 = 23 := by decide +kernel

/-- Chapter 14: where byte 67,294,939,212 stands. -/
theorem test_home : homeOf [0, 1, 2, 3, 4, 5] 2102966850 = ⟨56, 2190590, 2, 8556, 19⟩ ∧ stackOf 2102966850 = 1 := by decide +kernel

/-- R326: the check bytes of a code word whose only nonzero byte is byte 31. -/
theorem test_check_bytes : rsCheck (List.replicate 31 0 ++ [1]) = [0x0F, 0x36, 0x78, 0x40] := by decide +kernel

/-- The nine bytes of R371. -/
def nine : List Byte := [0x31, 0x32, 0x33, 0x34, 0x35, 0x36, 0x37, 0x38, 0x39]
/-- R371 and chapter 16: the check values of the five sets over them, and RUN after two bytes of CRC-8. -/
theorem test_check_values : (List.range 5).map (fun k => (presetSet k).of nine) = [0xF4, 0x29B1, 0xCBF43926, 0xE3069283, 0x995DC9BBDF1939FA] ∧
    crc8.feed 0 [0x31, 0x32] = 0x72 := by decide +kernel

/-- R471 refers to SHA-384; FIPS 180-4 prints its value over "abc". -/
theorem test_sha384 : (sha384 [0x61, 0x62, 0x63]).take 8 = [0xCB, 0x00, 0x75, 0x3F, 0x45, 0xA3, 0x5E, 0x8B] := by decide +kernel

/-- Chapter 15: the descriptor 0x6328_8000 gathers from TABLE to HOST with its index in HOST, CRC-32C stored, IRQ. -/
theorem test_descriptor : (let d := descOf [0x63288000, 0x1000000, 0, 0x20001000, 0x10, 4, 0x20000000, 0x10, 8]
    [d.mode, d.ssp, d.dsp, d.isp, d.chk, d.chkmode, d.total]) = [1, 2, 1, 1, 1, 1, 32] := by decide +kernel

/-- Chapter 18, the ring of four: link 0 is port 0 and link 4 port 1; each module's port 0 goes to the next one's port 1. -/
def ring : List Node :=
  [⟨0x0A31, 0xFE, 0, [(0x0990, 0, 4), (0x0875, 4, 0)]⟩, ⟨0x0990, 0xFE, 0xFF, [(0x0C12, 0, 4), (0x0A31, 4, 0)]⟩,
   ⟨0x0C12, 0xFE, 1, [(0x0875, 0, 4), (0x0990, 4, 0)]⟩, ⟨0x0875, 0xFE, 0, [(0x0A31, 0, 4), (0x0C12, 4, 0)]⟩]
theorem test_ring_addresses : ((assignAddrs ring).contains (0x0875, 0) && (assignAddrs ring).contains (0x0990, 2) &&
    (assignAddrs ring).contains (0x0A31, 3) && (assignAddrs ring).contains (0x0C12, 1)) = true := by decide +kernel
/-- On b: address 0 at 2 hops through c on link 0, address 3 at 1 hop on link 4. -/
theorem test_ring_routes : nextHop ring (assignAddrs ring) 0x0990 0x0875 = some (0x0C12, 0, 2) ∧
    nextHop ring (assignAddrs ring) 0x0990 0x0A31 = some (0x0A31, 4, 1) := by decide +kernel

/-- Chapter 21: the gain of beam 168,487 moves to 16,768. -/
theorem test_gain : (((up.wrs [(Reg.btWord 1 168487 0, 0x4100), (Reg.ARY_GAIN_CFG_EN, 1)]).writeGain 1 0x2A 168487 0 15974 false).rd
    (Reg.btWord 1 168487 0)) % 65536 = 16768 := by decide +kernel

/-! ### Single steps -/

/-- R382: with an empty queue one clock passes. -/
theorem test_empty_queue : (after (.evtMaskWrite .host pTIM 0) up).pending = [] ∧ (match step up with | .next t => decide (t.tim.since = up.tim.since + 1) | _ => false) = true := by
  decide +kernel

/-- R9, R67: the event bits of EVT_MASK that a page has take what is written, and a write of 1 clears a raw event and nothing else. -/
theorem test_evt_raw_clear : (after (.evtRawClear .host pALC 2) (up.wr (Hdr.evtRaw pALC) 7)).rd (Hdr.evtRaw pALC) = 5 ∧
    (after (.evtMaskWrite .host pALC 0x3FF) up).rd (Hdr.evtMask pALC) = 0x3FF := by decide +kernel

/-- R63: a page in RUNNING that is told to quiesce shows QUIESCING (5), and QUIESCED (6) once its work has ended. -/
theorem test_quiesce : (after (.pageQuiesce .host (pDMA 3) true) up).pstate (pDMA 3) = 5 := by decide +kernel

/-- HBM: what is written is read, least significant byte first, and one wrong byte is corrected (R326, R328). -/
theorem test_hbm : (after (.hbmWrite 32 (List.replicate 32 0xA5) false false) up).hbm.length = 32 ∧
    goesOn (exec (.hbmRead 32 [(7, 0xFF)] false) up) = true ∧ goesOn (exec (.hbmRead (96 * 2 ^ 30) [] false) up) = false := by decide +kernel

/-- R47: the permit request needs every gate to be 0; with the supply bad it is not taken. -/
theorem test_permit : (after (.glbPermitWrite .host true) up).rd Reg.GLB_PERMIT_REQ = 1 ∧
    (after (.glbPermitWrite .host true) { up with pins := { up.pins with psupOk := false } }).rd Reg.GLB_PERMIT_REQ = 0 := by decide +kernel

/-- R85: an operation the mailbox does not list answers RESULT 1. -/
theorem test_unknown_operation : (after .unknownOperation (mail 0xFFFF 0 0 0)).rd Reg.INK_STATUS_RESULT = 1 := by decide +kernel

/-- The state after reset: every page in RESET, the life cycle unknown, no command waiting. -/
theorem test_reset : State.reset.pstate pALC = 1 ∧ State.reset.pending = [] ∧ State.reset.rd Reg.GLB_PERMIT_REQ = 0 ∧ State.reset.hbm = [] := by decide +kernel
/-- No row of the table has bits. -/
theorem test_no_words : decodeTableWord 32 0 = none ∧ State.reset.withFetchWord 32 0 = State.reset := by decide +kernel

end Sys2Proof.Tests
end

section
/-!
PROOFS. One step seen from outside: either one clock passes, or the front command is carried out and the permit switch
follows its gates. Every step keeps the register store and HBM in their canonical forms.
-/
namespace Sys2Proof.Machine

/-- The clock and the permit switch may change any part: nothing is asked of the frame here. -/
abbrev anyPart : Part → Prop := fun _ => True

/-- What a step that answers a next state has done: one clock with an empty queue, or the front command within its parts
and then the permit switch. -/
theorem step_cases {s t : State} (h : step s = .next t) :
    (s.pending = [] ∧ t = s.clock) ∨
    ∃ c rest u, s.pending = c :: rest ∧ Steps (fun k => k ∈ commandParts c) { s with pending := rest } u ∧ t = u.settle := by
  unfold step at h
  split at h
  next hq => exact .inl ⟨hq, (Host.Outcome.next.inj h).symm⟩
  next c rest hq =>
    right
    cases hb : beyondHbm c with
    | true => rw [exec_beyond c _ hb] at h; cases h
    | false =>
      obtain ⟨u, hu, hs⟩ := exec_next c { s with pending := rest } hb
      rw [hu] at h
      exact ⟨c, rest, u, hq, hs, (Host.Outcome.next.inj h).symm⟩

theorem State.canonical_iff (s : State) : s.canonical = true ↔ s.regs.wf = true ∧ s.hbm.wf = true := by
  simp [State.canonical]

/-- Whatever parts an operation may change, it keeps the stores canonical. -/
theorem Steps.canonical {mu : Part → Prop} {s t : State} (h : Steps mu s t) (hs : s.canonical = true) : t.canonical = true := by
  rw [State.canonical_iff] at *
  exact ⟨h.regs hs.1, h.hbm hs.2⟩

theorem State.canonical_clock {s : State} (hs : s.canonical = true) : s.clock.canonical = true :=
  (State.clock_steps (mu := anyPart) trivial (Steps.refl _ s)).canonical hs

theorem State.canonical_settle {s : State} (hs : s.canonical = true) : s.settle.canonical = true :=
  (State.settle_steps (mu := anyPart) trivial trivial trivial trivial trivial trivial trivial trivial (Steps.refl _ s)).canonical hs

/-- Settles O6: a clock, a command and the permit switch each keep the keys and addresses rising and list no zero byte. -/
theorem stepKeepsStoresCanonical : Obligations.StepKeepsStoresCanonical := by
  intro s t hs h
  obtain ⟨-, rfl⟩ | ⟨c, rest, u, -, hu, rfl⟩ := step_cases h
  · exact State.canonical_clock hs
  · exact State.canonical_settle (hu.canonical hs)

end Sys2Proof.Machine
end

section
/-!
PROOFS. Writes of the fields of a block register (R9, R65): where the fields stand, what one write of a field does, and what
the writes of a whole register make of each field and of EVT_RAW[31].
-/
namespace Sys2Proof.Machine

/-! ### Where the fields of a block register stand -/

/-- A field that is no event field of its page and neither the STATE nor the LOCK that decide which fields are kept. -/
def Page.blockField (p : Page) (f : Fld) : Prop := ∀ g ∈ Hdr.state p :: Hdr.lock p :: p.eventFields, f.key ≠ g.key

/-- A register lies within a 4 KiB page, and its fields in different bit places. -/
def RegDef.fits (r : RegDef) : Bool :=
  decide (r.off + max 4 (r.stride * r.count) ≤ 0x1000) && decide ((r.fields.map FieldDef.lo).Nodup) &&
    r.fields.all fun d => decide (d.lo < 32)

/-- Every register of the tables does so. -/
theorem blockRegs_fit (b : Block) : ∀ r ∈ blockRegs b, r.fits = true := by
  cases b <;> decide +kernel

theorem regAt_some {p : Page} {off i : Nat} {r : RegDef} (h : regAt p off = some (r, i)) :
    r ∈ blockRegs p.block ∧ off < r.off + max 4 (r.stride * r.count) := by
  obtain ⟨r', hf, he⟩ := Option.map_eq_some_iff.1 h
  obtain ⟨rfl, -⟩ := Prod.mk.inj he
  refine ⟨List.mem_of_find?_eq_some hf, ?_⟩
  have hp := List.find?_some hf
  simp only [Bool.and_eq_true, decide_eq_true_eq] at hp
  obtain ⟨⟨-, hle⟩, hin⟩ := hp
  by_cases h0 : r'.stride = 0
  · rw [if_pos h0, beq_iff_eq] at hin
    omega
  · rw [if_neg h0, Bool.and_eq_true, decide_eq_true_eq] at hin
    have := (Nat.div_lt_iff_lt_mul (Nat.pos_of_ne_zero h0)).1 hin.2
    rw [Nat.mul_comm] at this
    omega

/-- The fields of a register: each stands at the register's address with the place and width its table gives it. -/
theorem mem_regFields {p : Page} {off : Nat} {e : FieldDef × Fld} (h : e ∈ regFields p off) :
    off < 0x1000 ∧ e.1.lo < 32 ∧ e.2.addr = p.base + off ∧ e.2.lo = e.1.lo ∧ e.2.width = e.1.width := by
  unfold regFields at h
  split at h
  next r i hr =>
    obtain ⟨d, hd, rfl⟩ := List.mem_map.1 h
    obtain ⟨hm, hoff⟩ := regAt_some hr
    have hfit := blockRegs_fit _ r hm
    simp only [RegDef.fits, Bool.and_eq_true, decide_eq_true_eq, List.all_eq_true] at hfit
    obtain ⟨⟨hend, -⟩, hlo⟩ := hfit
    exact ⟨by omega, hlo d hd, rfl, rfl, rfl⟩
  next => cases h

/-- No two fields of a register share a key. -/
theorem regFields_apart (p : Page) (off : Nat) : (regFields p off).Pairwise fun a b => a.2.key ≠ b.2.key := by
  unfold regFields
  split
  next r i hr =>
    have hfit := blockRegs_fit _ r (regAt_some hr).1
    simp only [RegDef.fits, Bool.and_eq_true, decide_eq_true_eq] at hfit
    refine List.pairwise_map.2 ((List.pairwise_map.1 hfit.1.2).imp fun {a b} hab => ?_)
    simpa [FieldDef.at, Fld.key] using hab
  next => exact .nil

/-- The MSI-X structures at 0x0007_8000 lie in no page. -/
theorem Page.base_add_lt {p : Page} {off : Nat} (hp : p.ok = true) (h : off < 0x1000) :
    p.base + off < 0x71000 ∨ 0x100000 ≤ p.base + off := by
  obtain ⟨b, n⟩ := p
  have hn : n < b.instances := of_decide_eq_true hp
  cases b <;> simp only [Page.base, Block.base, Block.pageSize, Block.instances] at hn ⊢ <;> omega

/-- A field of a block register is none of the header and of the MSI-X pending words. -/
theorem blockField_of_mem_regFields {p : Page} {off : Nat} (hp : p.ok = true) (ho : 0x40 ≤ off) {e : FieldDef × Fld}
    (h : e ∈ regFields p off) : p.blockField e.2 := by
  obtain ⟨hoff, hlo, ha, hl, -⟩ := mem_regFields h
  have hb := Page.base_add_lt hp hoff
  intro g hg
  simp only [Page.eventFields, List.mem_append, List.mem_cons, List.not_mem_nil, or_false, List.mem_map, List.mem_range] at hg
  rw [Fld.key, ha, hl]
  obtain rfl | rfl | (rfl | rfl) | ⟨i, hi, rfl⟩ := hg <;> simp only [Fld.key, Hdr.state, Hdr.lock, Hdr.evtRaw, Hdr.raises, Reg.msixPend] <;> omega

/-- STATE and LOCK of a page are no event fields of it. -/
theorem Page.state_lock_not_event {p : Page} (hp : p.ok = true) : ∀ g ∈ p.eventFields, (Hdr.state p).key ≠ g.key ∧ (Hdr.lock p).key ≠ g.key := by
  have hb := Page.base_add_lt (off := 0) hp (by decide)
  intro g hg
  simp only [Page.eventFields, List.mem_append, List.mem_cons, List.not_mem_nil, or_false, List.mem_map, List.mem_range] at hg
  obtain (rfl | rfl) | ⟨i, hi, rfl⟩ := hg <;> simp only [Fld.key, Hdr.state, Hdr.lock, Hdr.evtRaw, Hdr.raises, Reg.msixPend] <;>
    constructor <;> omega

theorem Page.blockField.not_event {p : Page} {f : Fld} (h : p.blockField f) : ∀ g ∈ p.eventFields, f.key ≠ g.key :=
  fun g hg => h g (List.mem_cons_of_mem _ (List.mem_cons_of_mem _ hg))

/-! ### A write of one field -/

/-- What a field holds after a write of its register, `kept` saying whether it keeps its value (R9, R65). -/
def FieldDef.landed (d : FieldDef) (kept : Bool) (old v : Nat) : Nat :=
  match d.acc with
  | .rw | .rwl => if kept then old else d.part v
  | .w1c => if d.part v = 0 then old else 0
  | .ro | .wo | .w1s => old

/-- A write of a kept field with another value, which is reported in EVT_RAW[31] (R65). -/
def State.reports (s : State) (p : Page) (v : Nat) (e : FieldDef × Fld) : Bool :=
  (e.1.acc == .rw || e.1.acc == .rwl) && s.kept p e.1 && e.1.part v != s.rd e.2

theorem FieldDef.part_lt (d : FieldDef) (v : Nat) : d.part v < 2 ^ d.width := by
  have h : v / 2 ^ d.lo % 2 ^ d.width < 2 ^ d.width := Nat.mod_lt _ (Nat.two_pow_pos _)
  unfold FieldDef.part
  split
  · exact Nat.and_le_left.trans_lt h
  · exact h

theorem State.rd_raiseIf_ne (s : State) (c : Bool) (p : Page) (b : Nat) {g : Fld} (h : ∀ f ∈ p.eventFields, g.key ≠ f.key) :
    (s.raiseIf c p b).rd g = s.rd g :=
  rd_ite (State.rd_raise_ne s p b h) rfl

/-- A write of one field is a write of that field, or an event for a kept field, or nothing. -/
theorem State.fieldWrite_cases (s : State) (p : Page) (v : Nat) (e : FieldDef × Fld) :
    (∃ x, s.fieldWrite p v e = s.wr e.2 x ∧ s.reports p v e = false ∧ x = e.1.landed (s.kept p e.1) (s.rd e.2) v ∧ x ≤ e.1.part v) ∨
    (s.fieldWrite p v e = s.raiseIf (s.reports p v e) p 31 ∧ e.1.landed (s.kept p e.1) (s.rd e.2) v = s.rd e.2) := by
  unfold State.fieldWrite State.reports FieldDef.landed
  cases hacc : e.1.acc with
  | rw | rwl =>
    cases hk : s.kept p e.1 with
    | true => exact .inr (by simp)
    | false => exact .inl ⟨e.1.part v, by simp⟩
  | w1c =>
    by_cases hv : e.1.part v = 0
    · exact .inr (by simp [hv, State.raiseIf])
    · exact .inl ⟨0, by simp [hv]⟩
  | ro | wo | w1s => exact .inr (by simp [State.raiseIf])

/-- A write of a field leaves every field but it and the event fields as it was. -/
theorem State.rd_fieldWrite_ne (s : State) {p : Page} {v : Nat} {e : FieldDef × Fld} {g : Fld} (hg : g.key ≠ e.2.key)
    (hev : ∀ f ∈ p.eventFields, g.key ≠ f.key) : (s.fieldWrite p v e).rd g = s.rd g := by
  obtain ⟨x, hx, -⟩ | ⟨hx, -⟩ := s.fieldWrite_cases p v e <;> rw [hx]
  · exact State.rd_wr_ne s hg x
  · exact State.rd_raiseIf_ne s _ p 31 hev

/-- What the written field holds afterwards. -/
theorem State.rd_fieldWrite_self (s : State) {p : Page} {v : Nat} {e : FieldDef × Fld} (hc : p.blockField e.2)
    (hw : e.2.width = e.1.width) : (s.fieldWrite p v e).rd e.2 = e.1.landed (s.kept p e.1) (s.rd e.2) v := by
  obtain ⟨x, hx, -, hl, hle⟩ | ⟨hx, hl⟩ := s.fieldWrite_cases p v e <;> rw [hx]
  · rw [State.rd_wr_self, hw, ← hl]
    exact Nat.mod_eq_of_lt (hle.trans_lt (e.1.part_lt v))
  · rw [hl]
    exact State.rd_raiseIf_ne s _ p 31 hc.not_event

/-- EVT_RAW[31] after a write of a field. -/
theorem State.evt_fieldWrite (s : State) {p : Page} {v : Nat} {e : FieldDef × Fld} (hc : p.blockField e.2) :
    (s.fieldWrite p v e).evt p 31 = (s.evt p 31 || s.reports p v e) := by
  obtain ⟨x, hx, hr, -⟩ | ⟨hx, -⟩ := s.fieldWrite_cases p v e <;> rw [hx]
  · have hne : (Hdr.evtRaw p).key ≠ e.2.key := (hc.not_event _ (by simp [Page.eventFields])).symm
    rw [hr, Bool.or_false, State.evt, State.rd_wr_ne s hne, State.evt]
  · cases s.reports p v e with
    | true => rw [Bool.or_true]; exact State.evt_raise s p (by decide)
    | false => rw [Bool.or_false]; rfl

/-- Which fields are kept rests on STATE and LOCK of the page alone. -/
theorem State.kept_congr {s t : State} {p : Page} (hs : t.rd (Hdr.state p) = s.rd (Hdr.state p))
    (hl : t.rd (Hdr.lock p) = s.rd (Hdr.lock p)) (d : FieldDef) : t.kept p d = s.kept p d := by
  simp only [State.kept, State.locked, State.running, State.pstate, State.bit, hs, hl]

/-- A write of a block field changes no field's being kept. -/
theorem State.kept_fieldWrite (s : State) {p : Page} (hp : p.ok = true) {v : Nat} {e : FieldDef × Fld} (hc : p.blockField e.2) (d : FieldDef) :
    (s.fieldWrite p v e).kept p d = s.kept p d :=
  State.kept_congr
    (s.rd_fieldWrite_ne (hc _ (by simp)).symm fun g hg => (Page.state_lock_not_event hp g hg).1)
    (s.rd_fieldWrite_ne (hc _ (by simp)).symm fun g hg => (Page.state_lock_not_event hp g hg).2) d

/-- A write of one field changes neither what another field holds nor whether a write to that one is reported. -/
theorem State.reports_fieldWrite (s : State) {p : Page} (hp : p.ok = true) {v : Nat} {e x : FieldDef × Fld} (he : p.blockField e.2) (hx : p.blockField x.2)
    (hne : e.2.key ≠ x.2.key) : (s.fieldWrite p v e).reports p v x = s.reports p v x := by
  simp only [State.reports, s.kept_fieldWrite hp he, s.rd_fieldWrite_ne hne.symm hx.not_event]

/-! ### The writes of a whole register -/

@[simp] theorem State.fieldsWrite_nil (s : State) (p : Page) (v : Nat) : s.fieldsWrite p v [] = s := rfl

@[simp] theorem State.fieldsWrite_cons (s : State) (p : Page) (v : Nat) (e : FieldDef × Fld) (fs : List (FieldDef × Fld)) :
    s.fieldsWrite p v (e :: fs) = (s.fieldWrite p v e).fieldsWrite p v fs := rfl

/-- Writes of fields leave every other field but the event fields as it was. -/
theorem State.rd_fieldsWrite_ne {p : Page} {v : Nat} {g : Fld} (hev : ∀ f ∈ p.eventFields, g.key ≠ f.key) {fs : List (FieldDef × Fld)}
    (s : State) (hg : ∀ e ∈ fs, g.key ≠ e.2.key) : (s.fieldsWrite p v fs).rd g = s.rd g := by
  induction fs generalizing s with
  | nil => rfl
  | cons e fs ih =>
    rw [State.fieldsWrite_cons, ih _ fun x hx => hg x (List.mem_cons_of_mem _ hx)]
    exact s.rd_fieldWrite_ne (hg e List.mem_cons_self) hev

/-- Each field of a register lands as if it alone were written. -/
theorem State.rd_fieldsWrite_mem {p : Page} (hp : p.ok = true) {v : Nat} {fs : List (FieldDef × Fld)} (s : State)
    (hap : fs.Pairwise fun a b => a.2.key ≠ b.2.key) (hc : ∀ e ∈ fs, p.blockField e.2) (hw : ∀ e ∈ fs, e.2.width = e.1.width) :
    ∀ e ∈ fs, (s.fieldsWrite p v fs).rd e.2 = e.1.landed (s.kept p e.1) (s.rd e.2) v := by
  induction fs generalizing s with
  | nil => simp
  | cons x fs ih =>
    obtain ⟨hx, hap⟩ := List.pairwise_cons.1 hap
    obtain ⟨hcx, hc⟩ := List.forall_mem_cons.1 hc
    obtain ⟨hwx, hw⟩ := List.forall_mem_cons.1 hw
    rw [State.fieldsWrite_cons]
    refine List.forall_mem_cons.2 ⟨?_, fun e he => ?_⟩
    · rw [State.rd_fieldsWrite_ne hcx.not_event _ hx, s.rd_fieldWrite_self hcx hwx]
    · rw [ih _ hap hc hw e he, s.kept_fieldWrite hp hcx, s.rd_fieldWrite_ne (hx e he).symm (hc e he).not_event]

/-- EVT_RAW[31] after the writes of a register: set before, or set for some kept field written with another value. -/
theorem State.evt_fieldsWrite {p : Page} (hp : p.ok = true) {v : Nat} {fs : List (FieldDef × Fld)} (s : State)
    (hap : fs.Pairwise fun a b => a.2.key ≠ b.2.key) (hc : ∀ e ∈ fs, p.blockField e.2) :
    (s.fieldsWrite p v fs).evt p 31 = true ↔ s.evt p 31 = true ∨ ∃ e ∈ fs, s.reports p v e = true := by
  induction fs generalizing s with
  | nil => simp
  | cons x fs ih =>
    obtain ⟨hx, hap⟩ := List.pairwise_cons.1 hap
    obtain ⟨hcx, hc⟩ := List.forall_mem_cons.1 hc
    have later : (∃ e ∈ fs, (s.fieldWrite p v x).reports p v e = true) ↔ ∃ e ∈ fs, s.reports p v e = true :=
      exists_congr fun e => and_congr_right fun he => by rw [s.reports_fieldWrite hp hcx (hc e he) (hx e he)]
    rw [State.fieldsWrite_cons, ih _ hap hc, later, s.evt_fieldWrite hcx, Bool.or_eq_true, List.exists_mem_cons_iff, or_assoc]

theorem State.kept_iff (s : State) (p : Page) (d : FieldDef) :
    s.kept p d = true ↔ (d.acc = .rwl ∧ s.running p = true) ∨ (d.lock = true ∧ s.locked p = true) := by
  simp [State.kept]

theorem State.reports_iff (s : State) (p : Page) (v : Nat) (e : FieldDef × Fld) :
    s.reports p v e = true ↔ (e.1.acc = .rw ∨ e.1.acc = .rwl) ∧ s.kept p e.1 = true ∧ e.1.part v ≠ s.rd e.2 := by
  simp [State.reports, and_assoc]

theorem FieldDef.landed_valued {d : FieldDef} (h : d.acc = .rw ∨ d.acc = .rwl) (kept : Bool) (old v : Nat) :
    d.landed kept old v = if kept then old else d.part v := by
  obtain h | h := h <;> simp [FieldDef.landed, h]

theorem FieldDef.landed_w1c {d : FieldDef} (h : d.acc = .w1c) (kept : Bool) (old v : Nat) :
    d.landed kept old v = if d.part v = 0 then old else 0 := by
  simp [FieldDef.landed, h]

theorem FieldDef.landed_unwritten {d : FieldDef} (h : d.acc = .ro ∨ d.acc = .wo ∨ d.acc = .w1s) (kept : Bool) (old v : Nat) :
    d.landed kept old v = old := by
  obtain h | h | h := h <;> simp [FieldDef.landed, h]

/-- Settles O27: the fields of a register have keys of their own, so each lands as if it alone were written. -/
theorem fieldsLandOneByOne : Obligations.FieldsLandOneByOne := by
  intro s p off v hp ho
  have hc : ∀ e ∈ regFields p off, p.blockField e.2 := fun e => blockField_of_mem_regFields hp ho
  have hw : ∀ e ∈ regFields p off, e.2.width = e.1.width := fun e he => by
    obtain ⟨-, -, -, -, hwidth⟩ := mem_regFields he
    exact hwidth
  have hap := regFields_apart p off
  simp only [← State.kept_iff]
  refine ⟨fun e he => ?_, ?_, fun f hf => ?_⟩
  · rw [s.rd_fieldsWrite_mem hp hap hc hw e he]
    refine ⟨fun hv hk => ?_, fun hv hk => ?_, fun h => FieldDef.landed_w1c h _ _ _, fun h => FieldDef.landed_unwritten h _ _ _⟩
    · rw [FieldDef.landed_valued hv, if_pos hk]
    · rw [FieldDef.landed_valued hv, if_neg hk]
  · simp only [s.evt_fieldsWrite hp hap hc, State.reports_iff]
  · refine s.rd_fieldsWrite_ne (fun g hg => hf g (List.mem_append_right _ hg)) fun e he => ?_
    exact hf e.2 (List.mem_append_left _ (List.mem_map_of_mem he))

end Sys2Proof.Machine
end

section
/-!
PROOFS. REGISTER_WRITE (R9, R55, R56): what a write of BAR0 does at a page, at no page, in a page that is in reset, and in a
page that takes it.
-/
namespace Sys2Proof.Machine

open Sys2Proof (Agent)

/-- REGISTER_WRITE of an agent that is heard is a write of the bus, whole if every byte is enabled. -/
theorem exec_registerWrite {s : State} {ag : Agent} {a : BitVec 26} (hh : s.hears ag = true) (ha : a.toNat % 4 = 0) (v : Word)
    {en : BitVec 4} {whole : Bool} (hw : (en == 0xF) = whole) :
    exec (.registerWrite ag a v en) s = .next (s.busWrite ag a.toNat v.toNat whole).settle := by
  show done (if s.hears ag then s.busWrite ag a.toNat v.toNat (en == 0xF && a.toNat % 4 == 0) else s) = _
  rw [if_pos hh, ha, hw, beq_self_eq_true, Bool.and_true]
  rfl

/-- A whole word within a page goes to the header or to a block register. -/
theorem State.busWrite_page {a : Nat} {p : Page} (h : pageAt a = some p) (s : State) (ag : Agent) (v : Nat) :
    s.busWrite ag a v true =
      if a - p.base < 0x40 then s.headerWrite p (a - p.base) v else s.blockWrite ag p (a - p.base) v := by
  simp [State.busWrite, h]

/-- A partial word within a page is discarded (R56). -/
theorem State.busWrite_page_partial {a : Nat} {p : Page} (h : pageAt a = some p) (s : State) (ag : Agent) (v : Nat) :
    s.busWrite ag a v false = s := by
  simp [State.busWrite, h]

/-- A write that no row of R55 maps sets HST EVT_RAW[0] (R56). -/
theorem State.busWrite_unmapped {a : Nat} (h : pageAt a = none) (hm : 0x79010 ≤ a) (ht : tableMapped a = false)
    (h1 : ¬ (0x2000000 ≤ a ∧ a < 0x2002000)) (h2 : ¬ (0x3000000 ≤ a ∧ a < 0x3040000)) (s : State) (ag : Agent) (v : Nat) (whole : Bool) :
    s.busWrite ag a v whole = s.raise pHST 0 := by
  unfold State.busWrite
  rw [h]
  dsimp only
  rw [if_neg (by omega), if_neg (by omega), if_neg (by simp [ht]), if_neg (not_or.2 ⟨h1, h2⟩)]

/-- A write of a block register in a page that is in reset is discarded and reported (R62). -/
theorem State.blockWrite_inReset {s : State} {p : Page} {off : Nat} (hf : regFields p off ≠ []) (hr : s.inReset p = true)
    (ag : Agent) (v : Nat) : s.blockWrite ag p off v = s.raise p 31 := by
  simp [State.blockWrite, hf, hr]

/-- With no injection armed an access finds the page's configuration good and changes nothing. -/
theorem State.cfgAccess_of_unarmed {s : State} {p : Page} (h : s.bit (Hdr.injArm p) = false) : s.cfgAccess p = (false, s) := by
  simp [State.cfgAccess, State.cfgInject_of_unarmed h]

/-- A write of a block register that reaches its page and is not discarded: the fields land, then the register acts. -/
theorem State.blockWrite_lands {s : State} {ag : Agent} {p : Page} {off v : Nat} (hf : regFields p off ≠ []) (hr : s.reaches ag p)
    (hb : p.block ≠ .chk) (hres : reservedIn (regFields p off) v = false) (hpair : s.reservedPair p off v = false)
    (hheld : s.writeHeld p off = false) (hop : s.regOp ag p off v = none) :
    s.blockWrite ag p off v = (s.fieldsWrite p v (regFields p off)).regAct s p off v := by
  obtain ⟨-, hin, harm⟩ := hr
  simp [State.blockWrite, hf, hin, hb, State.cfgAccess_of_unarmed harm, hres, hpair, hheld, hop]

/-- Settles O25, by the address: the page header, a block register in each of its cases, and no row of R55. -/
theorem registerWritesCompleteByAddress : Obligations.RegisterWritesCompleteByAddress := by
  intro s ag a v p hh ha
  refine ⟨fun hp ho => ?_, fun hp ho hf hr hb hres hpair hheld hop => ?_, fun hp ho hf hr => ?_, fun en hen hp => ?_,
    fun hp hm ht h1 h2 => ?_⟩
  · rw [exec_registerWrite hh ha v (beq_self_eq_true _), State.busWrite_page hp, if_pos ho]
  · rw [exec_registerWrite hh ha v (beq_self_eq_true _), State.busWrite_page hp, if_neg (Nat.not_lt.2 ho),
      State.blockWrite_lands hf hr hb hres hpair hheld hop]
  · rw [exec_registerWrite hh ha v (beq_self_eq_true _), State.busWrite_page hp, if_neg (Nat.not_lt.2 ho), State.blockWrite_inReset hf hr]
  · rw [exec_registerWrite hh ha v (beq_eq_false_iff_ne.2 hen), State.busWrite_page_partial hp]
  · rw [exec_registerWrite hh ha v (beq_self_eq_true _), State.busWrite_unmapped hp hm ht h1 h2]

end Sys2Proof.Machine
end

section
/-!
PROOFS. HBM by code words (R322, R325 to R328): each address below 96 GiB has one place, a code word written whole holds
its data and changes no other byte, and a good one reads back what it holds.
-/
namespace Sys2Proof.Machine

open Sys2Proof (Byte)

/-! ### The place of a code word (R322) -/

/-- The granule of a code word is named by its logical channel, bank, row and column, whatever the bank hash selects. -/
theorem granule_eq_of_home {hsel : List Nat} {c d : Nat} (hchan : (homeOf hsel c).chan = (homeOf hsel d).chan)
    (hbank : (homeOf hsel c).bank = (homeOf hsel d).bank) (hrow : (homeOf hsel c).row = (homeOf hsel d).row)
    (hcol : (homeOf hsel c).col = (homeOf hsel d).col) : c / 8 = d / 8 := by
  simp only [homeOf, chanOf] at hchan hbank hrow hcol
  rw [hrow] at hbank
  have hlow : c / 8 / 120 / 4 % 64 = d / 8 / 120 / 4 % 64 := Nat.xor_left_injective hbank
  omega

/-! ### The code words of a byte range -/

/-- The 32 bytes of a code word touch that code word alone. -/
theorem wordsOf_word (c : Nat) : wordsOf (32 * c) 32 = [c] := by
  have hn : (32 * c + 32 + 31) / 32 - 32 * c / 32 = 1 := by omega
  rw [wordsOf, hn]
  simp

/-- A code word below 96 GiB ends there at the latest. -/
theorem word_end_le {c : Nat} (h : 32 * c < hbmSize) : 32 * c + 32 ≤ hbmSize := by
  unfold hbmSize at *
  omega

/-! ### Check bytes (R326) -/

theorem length_rsCheck (data : List Nat) : (rsCheck data).length = 4 := by
  have key : ∀ r : List Nat, r.length = 4 → (data.foldl rsStep r).length = 4 := by
    induction data with
    | nil => exact fun _ h => h
    | cons b t ih => exact fun r _ => ih (rsStep r b) rfl
  exact key _ rfl

/-- Check bytes deviate from themselves by nothing. -/
theorem xorList_self (l : List Nat) : xorList l l = List.replicate l.length 0 := by
  simp [xorList, List.zipWith_self, List.map_const']

/-- Storing data with the check bytes that R326 computes for them stores good data. -/
theorem State.putWord_encoded (s : State) (c : Nat) {data : List Byte} (h : data.length = 32) :
    s.putWord c (data.map BitVec.toNat ++ rsCheck (data.map BitVec.toNat)) = s.putGood c data := by
  have hlen : (data.map BitVec.toNat).length = 32 := by rw [List.length_map, h]
  have hback : (data.map BitVec.toNat).map (BitVec.ofNat 8) = data := by simp [Function.comp_def]
  unfold State.putWord
  simp only [List.take_left' hlen, List.drop_left' hlen, xorList_self, length_rsCheck, hback]
  exact if_pos rfl

/-! ### A channel that is not lost (R341) -/

section
variable {s : State} {c : Nat} (hlost : ∀ l ∈ s.mem.lost, l.chan ≠ chanOf c)
include hlost

theorem State.wordLost_of_chan_kept : s.wordLost c = false := by
  simpa [State.wordLost] using fun l hl he => absurd he (hlost l hl)

theorem State.chanDead_of_chan_kept : (s.mem.lost.any fun l => l.chan == chanOf c && l.dead) = false := by
  simpa using fun l hl he => absurd he (hlost l hl)

theorem State.wordData_of_chan_kept : s.wordData c = Memory.readBytes s.hbm (32 * c) 32 := by
  have hnone : s.mem.lost.find? (fun l => l.chan == chanOf c && (l.dead || !l.cleared.contains c)) = none :=
    List.find?_eq_none.2 fun l hl => by simp [hlost l hl]
  rw [State.wordData, hnone]

/-- Without upsets a good word that is not poisoned reads its bytes and changes nothing. -/
theorem State.readWord_of_good (hp : c ∉ s.mem.poison) (hg : classify (s.word36 c) = .good) (scrub : Bool) :
    s.readWord c [] scrub = (⟨false, false, Memory.readBytes s.hbm (32 * c) 32⟩, s) := by
  have hdata : ((s.word36 c).take 32).map (BitVec.ofNat 8) = Memory.readBytes s.hbm (32 * c) 32 := by
    rw [State.word36, State.wordData_of_chan_kept hlost, List.take_left' (by simp [Memory.readBytes])]
    simp [Function.comp_def]
  simp [State.readWord, hp, State.wordLost_of_chan_kept hlost, State.chanDead_of_chan_kept hlost, hg, hdata]

end

/-! ### A write of a whole code word (R325, R328) -/

/-- With no injection armed a write stores the 36 bytes it is given. -/
theorem State.injectWord_of_unarmed {s : State} {m : Nat} (h : s.bit (Hdr.injArm (pMEM m)) = false) (c : Nat) (w : List Nat) :
    s.injectWord m c w = (w, s) := by
  simp [State.injectWord, h]

/-- The bytes of HBM after a whole write to a code word that takes it. -/
theorem State.writeWord_whole_hbm {s : State} {c : Nat} {data : List Byte} {host : Bool} (hd : data.length = 32)
    (hr : s.stackReady (stackOf c) = true) (hlost : ∀ l ∈ s.mem.lost, l.chan ≠ chanOf c)
    (ha : s.bit (Hdr.injArm (pMEM (stackOf c))) = false) (hp : host = true → s.wordProtected c = false) :
    (s.writeWord (32 * c) data host false c).hbm = Memory.writeBytes s.hbm (32 * c) data := by
  have hprot : (host && s.wordProtected c) = false := Bool.and_eq_false_imp.2 hp
  have hpart : (data.drop (max (32 * c) (32 * c) - 32 * c)).take (min (32 * c + 32) (32 * c + 32) - max (32 * c) (32 * c)) = data := by
    simp [hd, List.take_of_length_le]
  simp only [State.writeWord, hd, hpart, hr, State.chanDead_of_chan_kept hlost, hprot, State.injectWord_of_unarmed ha,
    State.putWord_encoded s c hd, Bool.not_true, Bool.false_eq_true, if_false, if_true]
  split <;> rfl

/-- A write of the bytes of a code word is a write to that word. -/
theorem State.memWrite_word (s : State) (c : Nat) {data : List Byte} (hd : data.length = 32) (host ep : Bool) :
    s.memWrite (32 * c) data host ep = s.writeWord (32 * c) data host ep c := by
  rw [State.memWrite, hd, wordsOf_word]
  rfl

/-- HBM_WRITE within HBM that opens no row writes its bytes. -/
theorem exec_hbmWrite_within {a : Nat} {data : List Byte} (h : a + data.length ≤ hbmSize) (host : Bool) (s : State) :
    exec (.hbmWrite a data host false) s = .next (s.memWrite a data host false).settle :=
  if_neg (Nat.not_lt.2 h)

/-- HBM_READ of a code word whose stack answers, without opening its row, answers what reading the word gives. -/
theorem exec_hbmRead_word {s : State} {c : Nat} (h : 32 * c < hbmSize) (hr : s.stackReady (stackOf c) = true) :
    exec (.hbmRead (32 * c) [] false) s =
      .next (((s.readWord c [] false).2).emit (.completion (s.readWord c [] false).1.data (s.readWord c [] false).1.poisoned)).settle := by
  show execHbmRead (32 * c) [] false s = _
  have hc : 32 * c / 32 = c := by omega
  simp [execHbmRead, Nat.not_le.2 h, hc, hr, State.opens, done]

/-- Settles O53: the place of a word by its digits, a whole write by the bytes it stores, a read by the word's class. -/
theorem hbmHoldsWhatIsWritten : Obligations.HbmHoldsWhatIsWritten := by
  refine ⟨fun s c data host hc hd hr hlost ha hp => ?_, fun s c hc hr hpoison hlost hg => ?_, fun hsel c d _ _ hchan hbank hrow hcol hofs => ?_,
    fun s addr flips data host opens => ⟨fun h => if_pos h, fun h => if_pos h⟩⟩
  · refine ⟨s.memWrite (32 * c) data host false, exec_hbmWrite_within (hd ▸ word_end_le hc) host s, ?_⟩
    rw [State.memWrite_word s c hd, State.writeWord_whole_hbm hd hr hlost ha hp]
    refine ⟨hd ▸ Memory.readBytes_writeBytes _ _ _, fun a ha => ?_⟩
    rw [Memory.read_writeBytes, if_neg (by omega)]
  · rw [exec_hbmRead_word hc hr, State.readWord_of_good hlost hpoison hg]
  · have := granule_eq_of_home hchan hbank hrow hcol
    omega

end Sys2Proof.Machine
end

section
/-!
PROOFS. The tables in on-die memory and the beam-table banks (R186, R198, R208, R209, R213, R214, R230): where a write of an
agent that reaches the page lands, and what the commands of the banks and of the slots do.
-/
namespace Sys2Proof.Machine

open Sys2Proof (Agent Word)

/-! ### Masked words and unarmed pages -/

/-- Masking a value with bits that include a whole field leaves that field as it was. -/
theorem bits_and_mask {mask hi lo : Nat} (h : bits mask hi lo = 2 ^ (hi + 1 - lo) - 1) (v : Nat) : bits (v &&& mask) hi lo = bits v hi lo := by
  unfold bits at *
  rw [Nat.and_div_two_pow, Nat.and_mod_two_pow, h, Nat.and_two_pow_sub_one_eq_mod, Nat.mod_mod]

/-- A field of 32 bits holds a masked value whole. -/
theorem State.rd_wr_masked (s : State) {f : Fld} (hf : f.width = 32) {mask : Nat} (hm : mask < 2 ^ 32) (v : Nat) :
    (s.wr f (v &&& mask)).rd f = v &&& mask := by
  rw [State.rd_wr_self, hf]
  exact Nat.mod_eq_of_lt (Nat.and_le_right.trans_lt hm)

/-- Where an access reaches its page, no injection is armed there. -/
theorem State.reaches.unarmed {s : State} {ag : Agent} {p : Page} (h : s.reaches ag p) : s.bit (Hdr.injArm p) = false := by
  obtain ⟨-, -, harm⟩ := h
  exact harm

/-! ### The itineraries (R208, R209) -/

/-- ITINERARY_WRITE that reaches ALC, of an itinerary that no armed waybill names, writes the bits that exist. -/
theorem exec_itineraryWrite {s : State} {ag : Agent} {i r : Nat} (ha : s.reaches ag pALC) (hi : i < 16) (hr : r < 512)
    (hn : s.itinNamed i = false) (v : Word) :
    exec (.itineraryWrite ag i r v) s = .next (s.wr (Reg.itin i r) (v.toNat &&& 0x73F)).settle := by
  have hin : ¬ (16 ≤ i ∨ 512 ≤ r) := by omega
  show execItineraryWrite ag i r v s = _
  rw [execItineraryWrite, if_neg hin, State.access_of_reaches ha, State.itinStore, hn]
  rfl

/-! ### The beam table (R213, R214) -/

/-- A word of a beam's entry after a write: a given word holds its bits that exist, one that is not given stays. -/
def State.btPutWord (s : State) (bank b w : Nat) (x : Option Nat) : State :=
  match x with | some v => s.wr (Reg.btWord bank b w) (v &&& btMask w) | none => s

/-- The two words of a beam's entry after a write. -/
def State.btPut (s : State) (bank b : Nat) (w0 w1 : Option Nat) : State := (s.btPutWord bank b 0 w0).btPutWord bank b 1 w1

/-- With no injection armed a read of the beam table changes nothing. -/
theorem State.btInject_of_unarmed {s : State} (h : s.bit (Hdr.injArm pALC) = false) : s.btInject = s := by
  simp [State.btInject, h]

/-- A write of an entry is refused outside WRITABLE or with a reserved value; else it is the write of its given words. -/
theorem State.btStore_eq (s : State) (b : Nat) (w0 w1 : Option Nat) :
    s.btStore b w0 w1 = if !s.bit Reg.ALC_BT_STAT_WRITABLE || (w0.any (btReserved 0) || w1.any (btReserved 1)) then (false, s.raise pALC 31)
      else (true, (if w0.isNone || w1.isNone then s.btInject else s).btPut (1 - s.rd Reg.ALC_BT_STAT_ACTIVE) b w0 w1) := by
  cases w0 <;> cases w1 <;> rfl

/-- BEAM_TABLE_WRITE that reaches ALC while WRITABLE, with no reserved GAIN or SRC. -/
theorem exec_beamTableWrite {s : State} {ag : Agent} {b : Nat} {w0 w1 : Option Word} (ha : s.reaches ag pALC) (hb : b < 262144)
    (hw : s.rd Reg.ALC_BT_STAT_WRITABLE = 1) (h0 : ∀ v, w0 = some v → 0x1000 ≤ v.toNat % 65536)
    (h1 : ∀ v, w1 = some v → v.toNat / 2 ^ 30 ≠ 3) :
    exec (.beamTableWrite ag b w0 w1) s =
      .next (s.btPut (1 - s.rd Reg.ALC_BT_STAT_ACTIVE) b (w0.map BitVec.toNat) (w1.map BitVec.toNat)).settle := by
  have hbit : s.bit Reg.ALC_BT_STAT_WRITABLE = true := beq_iff_eq.2 hw
  have r0 : (w0.map BitVec.toNat).any (btReserved 0) = false := by
    simpa [Option.any_eq_false, btReserved] using h0
  have r1 : (w1.map BitVec.toNat).any (btReserved 1) = false := by
    simpa [Option.any_eq_false, btReserved] using h1
  show execBeamTableWrite ag b w0 w1 s = _
  rw [execBeamTableWrite, if_neg (Nat.not_le.2 hb), State.access_of_reaches ha, State.btStore_eq, hbit, r0, r1,
    State.btInject_of_unarmed ha.unarmed, ite_self]
  rfl

/-- The two words of an entry stand at different places. -/
theorem btWord_key_ne (bank b : Nat) : (Reg.btWord bank b 0).key ≠ (Reg.btWord bank b 1).key := by
  simp only [Reg.btWord, Fld.key]
  omega

theorem State.onlyFields_btPutWord {s u : State} {fs : List Fld} {bank b w : Nat} (h : s.onlyFields u fs) (hw : Reg.btWord bank b w ∈ fs)
    (x : Option Nat) : s.onlyFields (u.btPutWord bank b w x) fs := by
  cases x with
  | none => exact h
  | some v => exact State.onlyFields_wr h hw _

/-- A write of an entry changes its two words at most. -/
theorem State.onlyFields_btPut (s : State) (bank b : Nat) (w0 w1 : Option Nat) :
    s.onlyFields (s.btPut bank b w0 w1) [Reg.btWord bank b 0, Reg.btWord bank b 1] :=
  State.onlyFields_btPutWord (State.onlyFields_btPutWord (State.onlyFields_refl s _) (by simp) w0) (by simp) w1

/-- A given word 0 stands in the entry with its bits that exist. -/
theorem State.rd_btPut_word0 (s : State) (bank b v : Nat) (w1 : Option Nat) :
    (s.btPut bank b (some v) w1).rd (Reg.btWord bank b 0) = v &&& btMask 0 := by
  have h0 : (s.wr (Reg.btWord bank b 0) (v &&& btMask 0)).rd (Reg.btWord bank b 0) = v &&& btMask 0 := s.rd_wr_masked rfl (by decide) v
  cases w1 with
  | none => exact h0
  | some v1 => exact (State.rd_wr_ne _ (btWord_key_ne bank b) _).trans h0

/-- A given word 1 stands in the entry with its bits that exist. -/
theorem State.rd_btPut_word1 (s : State) (bank b v : Nat) (w0 : Option Nat) :
    (s.btPut bank b w0 (some v)).rd (Reg.btWord bank b 1) = v &&& btMask 1 :=
  State.rd_wr_masked _ rfl (by decide) v

/-! ### The banks (R214) -/

theorem exec_swap {s : State} {ag : Agent} (ha : s.reaches ag pALC) (hw : s.rd Reg.ALC_BT_STAT_WRITABLE = 1)
    (hp : s.rd Reg.ALC_BT_STAT_SWAP_PEND = 0) : exec (.swap ag) s = .next ((s.wr Reg.ALC_BT_STAT_SWAP_PEND 1).bankShow).settle := by
  show execSwap ag s = _
  rw [execSwap, State.access_of_reaches ha]
  simp [State.swap, State.bit, hw, hp, done]

theorem exec_cancel {s : State} {ag : Agent} (ha : s.reaches ag pALC) :
    exec (.cancel ag) s = .next ((s.wr Reg.ALC_BT_STAT_SWAP_PEND 0).bankShow).settle := by
  show execCancel ag s = _
  rw [execCancel, State.access_of_reaches ha]
  rfl

theorem exec_bankCopyComplete {s : State} (hc : s.rd Reg.ALC_BT_STAT_COPYING = 1) (hr : s.inReset pALC = false)
    (hi : s.rd (Hdr.injArm pALC) = 0) :
    exec .bankCopyComplete s = .next ((((s.copyBank (s.rd Reg.ALC_BT_STAT_ACTIVE) (1 - s.rd Reg.ALC_BT_STAT_ACTIVE)).wr
      Reg.ALC_BT_STAT_COPYING 0).raise pALC 8).bankShow).settle := by
  have hunarmed : s.bit (Hdr.injArm pALC) = false := by simp [State.bit, hi]
  show execBankCopyComplete s = _
  rw [execBankCopyComplete, if_pos ⟨beq_iff_eq.2 hc, hr⟩, State.btInject_of_unarmed hunarmed]
  rfl

/-! ### The slots (R23, R230) -/

/-- ALC_GEOM_WRITE of allowed values that reaches ALC, which is not running. -/
theorem exec_alcGeomWrite {s : State} {ag : Agent} {v : Word} (ha : s.reaches ag pALC) (hr : s.running pALC = false)
    (hs : 2 ≤ v.toNat / 256 % 64) (hs' : v.toNat / 256 % 64 ≤ 48) (hk : 2 ≤ v.toNat % 8) (hk' : v.toNat % 8 ≤ 6) :
    exec (.alcGeomWrite ag v) s =
      .next ((s.wr Reg.ALC_GEOM_SLOTS (v.toNat / 256 % 64)).wr Reg.ALC_GEOM_KLOG (v.toNat % 8)).slotsShow.settle := by
  have hslots : bits v.toNat 13 8 = v.toNat / 256 % 64 := rfl
  have hklog : bits v.toNat 2 0 = v.toNat % 8 := by simp [bits]
  show execAlcGeomWrite ag v s = _
  rw [execAlcGeomWrite, State.access_of_reaches ha, State.geomWrite, hslots, hklog, hr]
  rw [if_neg (by omega)]
  rfl

/-! ### The kernels and the dose classes (R186, R198) -/

/-- KERNEL_WINDOW_WRITE that reaches the page which judges it, not running, of a value a tap may hold. -/
theorem exec_kernelWindowWrite {s : State} {ag : Agent} {o : BitVec 16} {v : Word} {p : Page} (ho : o.toNat % 4 = 0)
    (hp : kernelPage o.toNat = some p) (ha : s.reaches ag p) (hr : s.running p = false)
    (hv : o.toNat < 0x2000 → bits v.toNat 16 0 ≤ 65536) :
    exec (.kernelWindowWrite ag o v) s = .next (s.wr (kernelFld o.toNat) v.toNat).settle := by
  have hword : o.toNat / 4 * 4 = o.toNat := by omega
  have hland : ¬ (s.running p = true ∨ (o.toNat < 0x2000 ∧ 65536 < bits v.toNat 16 0)) := by
    rw [hr]
    rintro (h | ⟨h1, h2⟩)
    · cases h
    · exact absurd h2 (Nat.not_lt.2 (hv h1))
  show execKernelWindowWrite ag o v s = _
  simp only [execKernelWindowWrite, hword, hp, State.access_of_reaches ha, State.kernelStore, if_neg hland]
  rfl

theorem exec_doseClassTableWrite {s : State} {ag : Agent} (ha : s.reaches ag pCOR) (hr : s.running pCOR = false) (c : BitVec 8) (v : Word) :
    exec (.doseClassTableWrite ag c v) s = .next (s.wr (Reg.doseClass c.toNat) v.toNat).settle := by
  show execDoseClassTableWrite ag c v s = _
  rw [execDoseClassTableWrite, State.access_of_reaches ha, State.doseStore, hr]
  rfl

theorem kernelPage_taps {o : Nat} (h : o < 0x2000) : kernelPage o = some pSRV := if_pos h

theorem kernelPage_shortRange {o : Nat} (h : 0x2000 ≤ o) (h' : o < 0x2064) : kernelPage o = some pCOR := by
  rw [kernelPage, if_neg (Nat.not_lt.2 h), if_pos h']

theorem kernelFld_shortRange {o : Nat} (h : 0x2000 ≤ o) : kernelFld o = Reg.srTap ((o - 0x2000) / 4) := by
  rw [kernelFld, if_neg (by omega), if_neg (Nat.not_lt.2 h)]

/-- Settles O40, command by command: each reaches its page, is not held back there, and does what the block does. -/
theorem tableWritesAndBankChangesComplete : Obligations.TableWritesAndBankChangesComplete := by
  refine ⟨fun s ag ha => ⟨fun i r v hi hr hn => ?_, fun b w0 w1 hb hw _ h0 h1 => ?_, exec_swap ha, exec_cancel ha,
    fun v => exec_alcGeomWrite ha⟩, fun s => exec_bankCopyComplete,
    fun s ag o v ho => ⟨fun h ha hr hv => ?_, fun h h' ha hr => ?_⟩, fun s ag c v ha hr => exec_doseClassTableWrite ha hr c v⟩
  · have hrd : (s.wr (Reg.itin i r) (v.toNat &&& 0x73F)).rd (Reg.itin i r) = v.toNat &&& 0x73F := s.rd_wr_masked rfl (by decide) _
    refine ⟨_, exec_itineraryWrite ha hi hr hn v, State.onlyFields_wr (State.onlyFields_refl s _) (by simp) _, ?_, ?_⟩
    · rw [State.itinOX, hrd, bits_and_mask (by decide)]
      simp [bits]
    · rw [State.itinOY, hrd, bits_and_mask (by decide)]
      simp [bits]
  · refine ⟨_, exec_beamTableWrite ha hb hw h0 h1, s.onlyFields_btPut _ b _ _, ?_, ?_⟩
    · rintro v rfl
      rw [State.btGain, State.btState, Option.map_some, State.rd_btPut_word0, bits_and_mask (by decide),
        bits_and_mask (by decide)]
      simp [bits]
    · rintro v rfl
      exact s.rd_btPut_word1 _ b _ _
  · exact exec_kernelWindowWrite ho (kernelPage_taps h) ha hr fun _ => by simpa [bits] using hv
  · rw [← kernelFld_shortRange h]
    exact exec_kernelWindowWrite ho (kernelPage_shortRange h h') ha hr fun hlt => absurd hlt (Nat.not_lt.2 h)

end Sys2Proof.Machine
end

section
/-!
PROOFS. The regions (R324), BAR2 (R58), the crossings (R18, R450) and the ledger's ring (R465, R472, R476): what their
commands do where the block takes them.
-/
namespace Sys2Proof.Machine

open Sys2Proof (Agent Byte Crossing Word)

/-! ### The regions (R324) -/

/-- MEM_0_REGION_WRITE that reaches MEM, of sizes within the bounds that keep every live allocation. -/
theorem exec_mem0RegionWrite {s : State} {ag : Agent} {v : Word} (ha : s.reaches ag (pMEM 0)) (hr : s.pstate pALC ≠ stRUNNING)
    (hb : regionBounds (bits v.toNat 15 8) (bits v.toNat 23 16) (bits v.toNat 31 24) (bits v.toNat 7 0) = true)
    (hk : s.regionKeeps (bits v.toNat 15 8) (bits v.toNat 23 16) (bits v.toNat 31 24) (bits v.toNat 7 0) = true) :
    exec (.mem0RegionWrite ag v) s = .next (s.wrs [(Reg.MEM_REGION_SB_GIB, bits v.toNat 31 24),
      (Reg.MEM_REGION_MAP_GIB, bits v.toNat 23 16), (Reg.MEM_REGION_LS_GIB, bits v.toNat 15 8),
      (Reg.MEM_REGION_WS_GIB, bits v.toNat 7 0), (Reg.MEM_REGION_RES_RESULT, 0)]).slotsShow.settle := by
  show execMem0RegionWrite ag v s = _
  rw [execMem0RegionWrite, State.access_of_reaches ha, State.regionWrite, if_neg hr, hb, hk]
  rfl

/-! ### BAR2 (R58) -/

/-- BAR2_READ of a range within the window, open and the host heard. -/
theorem exec_bar2Read {s : State} {x : BitVec 34} {len : BitVec 12} (hh : s.hears .host = true) (ho : s.bar2Closed = false)
    (hx : x.toNat + len.toNat ≤ 2 ^ 34) :
    exec (.bar2Read x len) s =
      let r := s.bar2Words (s.bar2Addr x.toNat) len.toNat (wordsOf (s.bar2Addr x.toNat) len.toNat)
      .next ((r.2.raiseIf r.1.2 pHST 2).emit (.completion r.1.1 r.1.2)).settle := by
  have hlen : min len.toNat (2 ^ 34 - x.toNat) = len.toNat := by omega
  show execBar2Read x len s = _
  rw [execBar2Read, hlen, hh, ho]
  rfl

/-- BAR2_WRITE of a range within the window, open and the host heard. -/
theorem exec_bar2Write {s : State} {x : BitVec 34} {data : List Byte} (hh : s.hears .host = true) (ho : s.bar2Closed = false)
    (hx : x.toNat + data.length ≤ 2 ^ 34) (ep : Bool) :
    exec (.bar2Write x data ep) s = .next (s.memWrite (s.bar2Addr x.toNat) data true ep).settle := by
  have hdata : data.take (2 ^ 34 - x.toNat) = data := List.take_of_length_le (by omega)
  show execBar2Write x data ep s = _
  rw [execBar2Write, hdata, hh, ho]
  rfl

/-! ### The crossings (R18, R450) -/

/-- A word of a crossing that is not emptied changes nothing if it is good, and acts by its crossing if it is not. -/
theorem exec_crossingWordDeliver_word {k : Crossing} (hk : ∀ p n, k ≠ .emptied p n) (s : State) :
    exec (.crossingWordDeliver k true) s = .next s.settle ∧
      exec (.crossingWordDeliver k false) s = .next (s.crossed k).settle := by
  cases k with
  | emptied p n => exact absurd rfl (hk p n)
  | _ => exact ⟨rfl, rfl⟩

/-- Words emptied out of a crossing are counted as discards of the page, with its EVT_RAW[29]. -/
theorem exec_crossingWordDeliver_emptied {p : Page} {n : Nat} (hp : p.ok = true) (hn : 0 < n) (good : Bool) (s : State) :
    exec (.crossingWordDeliver (.emptied p n) good) s = .next ((s.satInc (Hdr.discards p) n).raise p 29).settle := by
  have h : (p.ok && decide (0 < n)) = true := by simp [hp, hn]
  show done (s.crossed (.emptied p n)) = _
  rw [State.crossed, if_pos h]
  rfl

/-! ### The ledger's ring (R465, R472, R476) -/

/-- LED_RD_WRITE that reaches LED, of a value from LED_RD to LED_WR. -/
theorem exec_ledRdWrite {s : State} {ag : Agent} {v : Word} (ha : s.reaches ag pLED)
    (hv : (v.toNat + 2 ^ 32 - s.rd Reg.LED_RD_LSEQ) % 2 ^ 32 ≤ s.ringUsed) :
    exec (.ledRdWrite ag v) s = .next (s.wr Reg.LED_RD_LSEQ v.toNat).settle := by
  show execLedRdWrite ag v s = _
  rw [execLedRdWrite, State.access_of_reaches ha, State.ledRdWrite, if_neg (Nat.not_lt.2 hv)]
  rfl

/-- LED_WR is no event field of its page. -/
theorem ledWr_not_event : ∀ f ∈ pLED.eventFields, Reg.LED_WR_LSEQ.key ≠ f.key := by decide

/-- Showing the staging leaves LED_WR as it was. -/
theorem State.ledWr_ledShow (s : State) : s.ledShow.rd Reg.LED_WR_LSEQ = s.rd Reg.LED_WR_LSEQ := by
  unfold State.ledShow
  lift_lets
  intro n t
  have ht : t.rd Reg.LED_WR_LSEQ = s.rd Reg.LED_WR_LSEQ := State.rd_wrs_ne s _ (by simp +decide)
  refine rd_ite ?_ ht
  rw [State.rd_raise_ne _ _ _ ledWr_not_event, State.rd_satInc_ne _ (by decide), ht]

/-- The oldest staged record is stored at the ring's next place and leaves the staging. -/
def State.recordStored (s : State) (r : List Byte) (rest : List (List Byte)) : State :=
  { s.hbmStore (s.ringAddr (s.rd Reg.LED_WR_LSEQ)) r with led := { s.led with staging := rest } }

/-- Then LED_WR counts on and LED_STAT follows; EVT_RAW[2] marks a ring that has become 75% full. -/
def State.recordLanded (s : State) (r : List Byte) (rest : List (List Byte)) : State :=
  let u := ((s.recordStored r rest).wr Reg.LED_WR_LSEQ (s.rd Reg.LED_WR_LSEQ + 1)).ledShow
  u.raiseIf (decide (4 * s.ringUsed < 3 * s.ringCap) && decide (3 * s.ringCap ≤ 4 * u.ringUsed)) pLED 2

/-- LEDGER_RECORD_WRITE with a record staged, the ring not full and its stacks ready. -/
theorem exec_ledgerRecordWrite {s : State} {r : List Byte} {rest : List (List Byte)} (hs : s.led.staging = r :: rest)
    (hl : s.live pLED = true) (hu : s.ringUsed < s.ringCap)
    (hr : ∀ c ∈ wordsOf (s.ringAddr (s.rd Reg.LED_WR_LSEQ)) 256, s.stackReady (stackOf c) = true) :
    exec .ledgerRecordWrite s = .next (s.recordLanded r rest).settle := by
  have hgo : ¬ (s.live pLED = false ∨ s.ringCap ≤ s.ringUsed ∨
      ((wordsOf (s.ringAddr (s.rd Reg.LED_WR_LSEQ)) 256).all fun c => s.stackReady (stackOf c)) = false) := by
    rw [hl, List.all_eq_true.2 hr]
    simpa using hu
  show execLedgerRecordWrite s = _
  unfold execLedgerRecordWrite
  rw [hs]
  exact if_neg hgo

/-- What follows the store of a record may send messages and changes no other part. -/
theorem State.recordLanded_steps (s : State) (r : List Byte) (rest : List (List Byte)) :
    Steps (· = Part.out) (s.recordStored r rest) (s.recordLanded r rest) :=
  State.raiseIf_steps (mu := (· = Part.out)) rfl (State.ledShow_steps (mu := (· = Part.out)) rfl (State.wr_steps (Steps.refl _ _) _ _)) _ _ _

theorem State.recordLanded_staging (s : State) (r : List Byte) (rest : List (List Byte)) : (s.recordLanded r rest).led.staging = rest := by
  have hled : (s.recordLanded r rest).led = (s.recordStored r rest).led := ((s.recordLanded_steps r rest).kept .led).resolve_left (by decide)
  rw [hled]
  rfl

/-- A change of the ledger's own state leaves HBM as it was. -/
theorem State.withLed_hbm (s : State) (l : Led) : ({ s with led := l } : State).hbm = s.hbm := rfl

theorem State.recordStored_hbm (s : State) (r : List Byte) (rest : List (List Byte)) :
    (s.recordStored r rest).hbm = (s.hbmStore (s.ringAddr (s.rd Reg.LED_WR_LSEQ)) r).hbm :=
  State.withLed_hbm _ _

theorem State.recordLanded_hbm (s : State) (r : List Byte) (rest : List (List Byte)) :
    (s.recordLanded r rest).hbm = (s.hbmStore (s.ringAddr (s.rd Reg.LED_WR_LSEQ)) r).hbm := by
  have hhbm : (s.recordLanded r rest).hbm = (s.recordStored r rest).hbm := ((s.recordLanded_steps r rest).kept .hbm).resolve_left (by decide)
  rw [hhbm, State.recordStored_hbm]

theorem State.recordLanded_ledWr (s : State) (r : List Byte) (rest : List (List Byte)) :
    (s.recordLanded r rest).rd Reg.LED_WR_LSEQ = (s.rd Reg.LED_WR_LSEQ + 1) % 2 ^ 32 := by
  unfold State.recordLanded
  dsimp only
  rw [State.rd_raiseIf_ne _ _ _ _ ledWr_not_event, State.ledWr_ledShow, State.rd_wr_self]
  rfl

/-- Settles O52, command by command: where the block takes the command it does what the chapter says. -/
theorem regionsWindowsCrossingsAndLedgerComplete : Obligations.RegionsWindowsCrossingsAndLedgerComplete := by
  refine ⟨fun s ag v => exec_mem0RegionWrite, fun s x hh ho => ⟨fun len => exec_bar2Read hh ho, fun data ep hx => exec_bar2Write hh ho hx ep⟩,
    fun s k => ⟨fun hk => exec_crossingWordDeliver_word hk s, ?_⟩, fun s ag v => exec_ledRdWrite, fun s r rest hs hl hu hr => ?_⟩
  · rintro p n good rfl hp hn
    exact exec_crossingWordDeliver_emptied hp hn good s
  · exact ⟨s.recordLanded r rest, exec_ledgerRecordWrite hs hl hu hr, s.recordLanded_staging r rest, s.recordLanded_ledWr r rest,
      s.recordLanded_hbm r rest⟩

end Sys2Proof.Machine
end

section
/-!
PROOFS. Reading a register field after several writes or after a change of a page's state, and the registers over a commit.
-/
namespace Sys2Proof.Machine

/-- After writes of fields with different keys each field reads what was written there, cut to its width. -/
theorem State.rd_wrs_of_mem (s : State) {l : List (Fld × Nat)} (hl : (l.map fun e => e.1.key).Nodup) {f : Fld} {v : Nat}
    (he : (f, v) ∈ l) : (s.wrs l).rd f = v % 2 ^ f.width := by
  induction l generalizing s with
  | nil => cases he
  | cons x l ih =>
    obtain ⟨hx, hnd⟩ := List.nodup_cons.1 hl
    rcases List.mem_cons.1 he with rfl | he
    · have hne : ∀ y ∈ l, f.key ≠ y.1.key := fun y hy heq => hx (List.mem_map.2 ⟨y, hy, heq.symm⟩)
      exact (State.rd_wrs_ne (s.wr f v) l hne).trans (State.rd_wr_self s _ _)
    · exact ih (s.wr x.1 x.2) hnd he

/-- Lists of writes are made one after the other. -/
theorem State.wrs_append (s : State) (l m : List (Fld × Nat)) : s.wrs (l ++ m) = (s.wrs l).wrs m := by
  induction l generalizing s with
  | nil => rfl
  | cons x l ih => exact ih (s.wr x.1 x.2)

/-- A field reads less than 2 to its width. -/
theorem State.rd_mod_width (s : State) {f : Fld} (h : f.reset < 2 ^ f.width) : s.rd f % 2 ^ f.width = s.rd f :=
  Nat.mod_eq_of_lt (s.regs.get_lt h)

/-- A page's start and end conditions change no field but its STATE. -/
theorem State.rd_setRunning_ne (s : State) {p : Page} {g : Fld} (h : g.key ≠ (Hdr.state p).key) (busy : Bool) :
    (s.setRunning p busy).rd g = s.rd g := by
  have hwr := fun v => State.rd_wr_ne s h v
  unfold State.setRunning
  exact rd_ite (rd_ite (hwr _) rfl) (rd_ite (hwr _) (rd_ite (hwr _) rfl))

@[simp] theorem State.rd_modPwr (s : State) (f : Pwr → Pwr) (g : Fld) : (s.modPwr f).rd g = s.rd g := rfl

/-- A commit that starts or waits changes no register. -/
theorem State.commitGo_regs (s : State) (c : Commit) : (s.commitGo c).regs = s.regs := by
  unfold State.commitGo
  dsimp only
  split_ifs <;> rfl

theorem State.commitNext_regs (s : State) : (s.commitNext).regs = s.regs := by
  unfold State.commitNext
  split_ifs
  · rfl
  · split
    · exact State.commitGo_regs _ _
    · rfl

end Sys2Proof.Machine
end

section
/-!
PROOFS. The reset controller's commands (R48, R421, R422, R425, R426, R429 to R432, R435, R436, R514, R515): what each does
where its condition holds.
-/
namespace Sys2Proof.Machine

open Sys2Proof (Agent Word)

/-! ### Supply (R421, R447, R515) -/

/-- A power-up reset loses HBM and the boot, and the permit line falls. -/
theorem State.powerReset_leaves (s : State) (b : Bool) :
    (s.powerReset b).hbm = [] ∧ (s.powerReset b).pwr.booted = false ∧ (s.powerReset b).pwr.powered = b ∧
      (s.powerReset b).pins.permitLvl = false :=
  ⟨rfl, rfl, rfl, rfl⟩

theorem exec_vinStart {s : State} (hoff : s.pwr.powered = false) (hv : s.pwr.overV = false) (ht : s.pwr.tripped = false) :
    exec .vinStart s = .next (s.powerReset true).settle := by
  show execVinStart s = _
  simp [execVinStart, hoff, hv, ht, done]

theorem exec_warningEnd {s : State} (ht : s.pwr.tripped = false) :
    exec .warningEnd s = .next (s.modPwr fun p => { p with warn := false }).settle := by
  show execWarningEnd s = _
  rw [execWarningEnd, ht]
  rfl

theorem exec_overvoltageEnd {s : State} (hoff : s.pwr.powered = false) (hv : s.pwr.overV = true) (ht : s.pwr.tripped = false) :
    exec .overvoltageEnd s = .next ((s.modPwr fun p => { p with overV := false }).powerReset true).settle := by
  show execOvervoltageEnd s = _
  simp [execOvervoltageEnd, State.modPwr, hoff, hv, ht, done]

/-- A lid reading below the limit that was in force at the trip restarts the power stage. -/
theorem exec_tripRestart {s : State} {lid : BitVec 16} (hoff : s.pwr.powered = false) (hv : s.pwr.overV = false) (ht : s.pwr.tripped = true)
    (hlid : lid.toInt < 16 * (s.pwr.tripWarn : Int)) :
    exec (.tripRestart lid) s = .next ((s.modPwr fun p => { p with tripped := false }).powerReset true).settle := by
  show execTripRestart lid s = _
  simp [execTripRestart, State.modPwr, hoff, hv, ht, hlid, done]

section
variable {s : State} (hp : s.pwr.powered = true)
include hp

theorem exec_powerDown : exec .powerDown s = .next (s.powerReset false).settle := by
  show execPowerDown s = _
  rw [execPowerDown, if_pos hp]
  rfl

theorem exec_powerFailWarning : exec .powerFailWarning s = .next s.powerWarning.settle := by
  show execPowerFailWarning s = _
  rw [execPowerFailWarning, if_pos hp]
  rfl

theorem exec_overvoltage : exec .overvoltage s = .next ((s.powerReset false).modPwr fun p => { p with overV := true }).settle := by
  show execOvervoltage s = _
  rw [execOvervoltage, if_pos hp]
  rfl

theorem exec_tripPowerStop (ht : s.pwr.tripped = true) : exec .tripPowerStop s = .next (s.powerReset false).settle := by
  show execTripPowerStop s = _
  rw [execTripPowerStop, ht, hp]
  rfl

/-- RCK_PWR_IN shows what is measured; VIN outside its range is the fault VIN_RANGE. -/
theorem exec_vinRangeChange (out : Bool) (v i : BitVec 16) :
    exec (.vinRangeChange out v i) s =
      let t : State := (s.modPwr fun p => { p with vinOut := out }).wrs [(Reg.RCK_PWR_IN_VIN, v.toNat), (Reg.RCK_PWR_IN_IIN, i.toNat)]
      .next (if out then t.setFault pRCK 4 else t).settle := by
  show execVinRangeChange out v i s = _
  rw [execVinRangeChange, if_pos hp]
  rfl

/-! ### Phases (R422) -/

/-- An active phase that switches off becomes a failed one. -/
theorem exec_phaseSwitchOff {p : BitVec 4} (ha : (s.rd Reg.RCK_PWR_PH_ACTIVE).testBit p.toNat = true) :
    exec (.phaseSwitchOff p) s = .next (((s.wrs [(Reg.RCK_PWR_PH_ACTIVE, clrBit (s.rd Reg.RCK_PWR_PH_ACTIVE) p.toNat),
      (Reg.RCK_PWR_PH_FAILED, setBit (s.rd Reg.RCK_PWR_PH_FAILED) p.toNat)]).raise pRCK 4).phaseShow).settle := by
  show execPhaseSwitchOff p s = _
  rw [execPhaseSwitchOff, if_neg (by simp [hp, ha])]
  rfl

/-- The lowest phase that is neither active nor failed takes the place of a failed one. -/
theorem exec_sparePhaseActivate {p : Nat} (hi : s.inkUp = true) (hn : s.phasesActive < 14)
    (hf : ((List.range 16).find? fun p => !(s.rd Reg.RCK_PWR_PH_ACTIVE).testBit p && !(s.rd Reg.RCK_PWR_PH_FAILED).testBit p) = some p) :
    exec .sparePhaseActivate s =
      .next ((s.wr Reg.RCK_PWR_PH_ACTIVE (setBit (s.rd Reg.RCK_PWR_PH_ACTIVE) p)).raise pRCK 4).settle := by
  show execSparePhaseActivate s = _
  rw [execSparePhaseActivate, if_neg (by simp [hp, hi, hn]), hf]
  rfl

/-! ### Module reset (R425, R426, R432) -/

/-- The switch opens at a falling edge of RESET_N; a pulse that ends too early is counted, one that lasts is remembered. -/
theorem exec_resetNFall (hreq : s.bit Reg.GLB_PERMIT_REQ = true) (g : Bool) :
    exec (.resetNFall g) s = .next (if g then s.openSwitch.satInc Reg.RCK_CAUSE_GLITCH 1
      else { s.openSwitch.modPwr fun p => { p with rstLow := true } with pins := { s.openSwitch.pins with resetN := false } } : State).settle := by
  show execResetNFall g s = _
  rw [execResetNFall, hp, hreq]
  rfl

theorem exec_moduleResetAssert (hlow : s.pwr.rstLow = true) :
    exec .moduleResetAssert s = .next ((s.modPwr fun p => { p with rstLow := false }).modResetGo 2).settle := by
  show execModuleResetAssert s = _
  rw [execModuleResetAssert, hp, hlow]
  rfl

/-! ### PCI Express reset (R425, R431) -/

theorem exec_perstNAssert (hr : s.pwr.perstRst = false) (hm : s.bit Reg.RCK_CFG_PERST_MOD = false) :
    exec .perstNAssert s = .next ((({ s with pins := { s.pins with perstN := false } } : State).raise pRCK 6).pcieReset.modPwr
      fun p => { p with perstRst := true }).settle := by
  show execPerstNAssert s = _
  rw [execPerstNAssert, hp, hr, hm]
  rfl

theorem exec_perstNRelease (hr : s.pwr.perstRst = true) (href : s.pwr.ref100 = true) :
    exec .perstNRelease s = .next ((({ s with pins := { s.pins with perstN := true } } : State).modPwr
      fun p => { p with perstRst := false }).releaseFree 10).settle := by
  show execPerstNRelease s = _
  simp [execPerstNRelease, State.modPwr, hp, hr, href, done]

/-! ### Clocks and lock (R429) -/

/-- The loss of REFCLK156 resets every island it feeds, the four memory controllers as one. -/
theorem exec_referenceClockLoss156 (hl : s.pwr.lost156 = false) :
    exec (.referenceClockLoss false) s = .next ((((((refIslands false).foldl (fun v i =>
      if 5 ≤ i ∧ i ≤ 7 then v else v.resetIsland i) (s.modPwr fun p => { p with ref156 := false, lost156 := true })).wr
        Reg.RCK_CLK_REF156_OK 0).setFault pRCK 0).raise pRCK 1)).settle := by
  show execReferenceClockLoss false s = _
  rw [execReferenceClockLoss, if_neg (by simp [hp, hl])]
  rfl

/-- Its return releases them; EVT_RAW[2] marks only the return of a lost clock. -/
theorem exec_referenceClockReturn156 (hr : s.pwr.ref156 = false) :
    exec (.referenceClockReturn false) s = .next ((refIslands false).foldl State.releaseFree
      ((((s.modPwr fun p => { p with ref156 := true, lost156 := false }).wr Reg.RCK_CLK_REF156_OK 1).raiseIf s.pwr.lost156 pRCK 2))).settle := by
  show execReferenceClockReturn false s = _
  rw [execReferenceClockReturn, if_neg (by simp [hp, hr])]
  rfl

/-- An island with a PLL of its own that is not one of the memory controllers' is reset alone and released at once. -/
theorem exec_islandLockLoss {i : Nat} (hi : i < 41) (hl : s.islandLocked i = true) (hr : s.refPresent i = true) (h14 : i ≠ 14)
    (h15 : i ≠ 15) (hm : ¬ (4 ≤ i ∧ i ≤ 7)) :
    exec (.islandLockLoss i) s = .next (((s.raise pRCK 3).resetIsland i).releaseFree i).settle := by
  show execIslandLockLoss i s = _
  rw [execIslandLockLoss, if_neg (by simp [hi, hp, hl, hr, h14, h15])]
  dsimp only
  rw [if_neg hm]
  rfl

/-! ### The permit line (R48) -/

/-- The line sensed high with the switch open is a fault. -/
theorem exec_permitContradiction_high (hc : s.switchClosed = false) :
    exec (.permitContradiction true) s = .next (({ s with pins := { s.pins with permitLvl := true } } : State).setFault pGLB 0).settle := by
  show execPermitContradiction true s = _
  rw [execPermitContradiction, if_neg (by simp [hp, hc])]
  rfl

theorem exec_permitWithdrawn_high (hc : s.switchClosed = true) :
    exec (.permitWithdrawn false) s = .next ({ s with pins := { s.pins with permitLvl := true } } : State).settle := by
  show execPermitWithdrawn false s = _
  rw [execPermitWithdrawn, if_neg (by simp [hp, hc])]
  rfl

/-- The line sensed low with the switch closed spoils a check run in hand, is reported, and stops the stripe. -/
theorem exec_permitWithdrawn_low (hc : s.switchClosed = true) :
    ∃ u : State, exec (.permitWithdrawn true) s = .next ((u.raise pGLB 1).stopRequest rPERMIT).settle ∧ u.pins.permitLvl = false ∧
      u.ary.spoiled = true ∧ u.regs = s.regs := by
  have hgo : ¬ (s.pwr.powered = false ∨ s.switchClosed = false) := by simp [hp, hc]
  exact ⟨_, if_neg hgo, rfl, rfl, rfl⟩

/-! ### Temperatures (R514) -/

/-- Both readings below their trip limits are shown and end the runs of readings that count towards a trip. -/
theorem exec_thermalCheck_below {lid die : BitVec 16} (hl : lid.toInt < 16 * (s.rd Reg.RCK_THERM_LIM_LID_TRIP : Int))
    (hd : die.toInt < 16 * (s.rd Reg.RCK_THERM_LIM_DIE_TRIP : Int)) :
    ∃ u : State, exec (.thermalCheck lid die) s = .next u.settle ∧ u.rd Reg.RCK_THERM_LID = lid.toNat ∧
      u.rd Reg.RCK_THERM_DIE = die.toNat ∧ u.pwr.tripLid = 0 ∧ u.pwr.tripDie = 0 := by
  have hrun : exec (.thermalCheck lid die) s = execThermalCheck lid die s := rfl
  rw [hrun, execThermalCheck, if_neg (by simp [hp])]
  have hfew : ¬ (100 ≤ 0 ∨ 10 ≤ 0) := by decide
  simp only [if_neg (not_le.2 hl), if_neg (not_le.2 hd), if_neg hfew, Nat.min_zero]
  refine ⟨_, rfl, ?_, ?_, rfl, rfl⟩
  · rw [State.rd_modPwr]
    exact (State.rd_wrs_of_mem s (by simp +decide) List.mem_cons_self).trans (Nat.mod_eq_of_lt lid.isLt)
  · rw [State.rd_modPwr]
    exact (State.rd_wrs_of_mem s (by simp +decide) (List.mem_cons_of_mem _ List.mem_cons_self)).trans (Nat.mod_eq_of_lt die.isLt)

/-! ### The innkeeper's watchdog and restart (R84, R425) -/

theorem exec_innkeeperWatchdog (hb : s.pwr.booted = true) (hi : s.inkUp = true) (now : Int) :
    exec (.innkeeperWatchdog now) s = .next (s.watchdog now).settle := by
  show execInnkeeperWatchdog now s = _
  rw [execInnkeeperWatchdog, hp, hb, hi]
  rfl

/-- The restarted innkeeper drops a lost command; the life cycle, where it is not WIPING, goes on as it was. -/
theorem exec_innkeeperRestartComplete (hb : s.pwr.booted = true) (hh : s.pwr.inkHalted = false) (hi : s.inkUp = false)
    (hr : s.inReset pINK = false) (hw : s.lcState ≠ lcWIPING) :
    exec .innkeeperRestartComplete s = .next (((s.wrs [(Reg.INK_STATUS_BUSY, 0), (Reg.INK_STATUS_INK_DOWN, 0)]).setRunning pINK
      false).commitNext).settle := by
  have hlc : (((s.wrs [(Reg.INK_STATUS_BUSY, 0), (Reg.INK_STATUS_INK_DOWN, 0)]).setRunning pINK false).commitNext).lcState = s.lcState := by
    unfold State.lcState
    rw [State.rd_congr (State.commitNext_regs _), State.rd_setRunning_ne _ (by decide), State.rd_wrs_ne _ _ (by simp +decide)]
  show execInnkeeperRestartComplete s = _
  rw [execInnkeeperRestartComplete, if_neg (by simp [hp, hb, hh, hi, hr])]
  dsimp only
  rw [hlc, if_neg fun h => hw h.1]
  rfl

end

/-! ### What follows a module reset's assertion (R432) -/

theorem exec_moduleResetBlockAssert {s : State} (ha : s.pwr.modPhase = .asserted) :
    exec .moduleResetBlockAssert s = .next (s.resetWide.modPwr fun p => { p with modPhase := .blocksReset }).settle := by
  show execModuleResetBlockAssert s = _
  rw [execModuleResetBlockAssert, if_pos ha]
  rfl

/-- Outside WIPING the release of the module reset releases every page. -/
theorem exec_moduleResetRelease {s : State} (hb : s.pwr.modPhase = .blocksReset) (hw : s.rd Reg.LCY_STATE_STATE ≠ 0x40) :
    exec .moduleResetRelease s = .next (({ s.modPwr fun p => { p with modPhase := .none } with
      pins := { s.pins with resetN := true } } : State).releaseAll.releaseShow).settle := by
  show execModuleResetRelease s = _
  rw [execModuleResetRelease, if_neg (not_not.2 hb)]
  exact if_neg hw

theorem exec_psupOkChange (s : State) (ok : Bool) :
    exec (.psupOkChange ok) s = .next ({ s with pins := { s.pins with psupOk := ok } } : State).settle :=
  rfl

/-! ### Writes of RCK_CTRL and the cellar (R425, R430, R436) -/

section
variable {s : State} {ag : Agent} (ha : s.reaches ag pRCK)
include ha

/-- The key of MOD_RST and INK_RST. -/
theorem exec_modRst : exec (.modRst ag 0x5253) s = .next (s.modResetGo (if ag = .host then 4 else 5)).settle := by
  show execModRst ag 0x5253 s = _
  rw [execModRst, State.access_of_reaches ha]
  rfl

theorem exec_inkRst :
    exec (.inkRst ag 0x5253) s = .next ((s.modPwr fun p => { p with wds := [], inkHalted := false, haltCause := false }).inkRestart).settle := by
  show execInkRst ag 0x5253 s = _
  rw [execInkRst, State.access_of_reaches ha]
  rfl

theorem exec_retry :
    exec (.retry ag) s = .next ((List.range 41).foldl (fun t i => if s.timedOut i then t.releaseFree i else t) s).settle := by
  show execRetry ag s = _
  rw [execRetry, State.access_of_reaches ha]
  rfl

/-- With no upset found, a read or a write of the word at RCK_CELLAR_ADDR. -/
theorem exec_cellarDataAccess (w : Option Word) :
    exec (.cellarDataAccess ag w false) s = .next (s.cellarAccess ag (w.map BitVec.toNat)).settle := by
  obtain ⟨-, hin, -⟩ := id ha
  show execCellarDataAccess ag w false s = _
  rw [execCellarDataAccess, hin, State.access_of_reaches ha]
  simp [done]

end

/-! ### The permit request (R435) -/

section
variable {s : State} {ag : Agent} (ha : s.reaches ag pGLB)
include ha

theorem exec_glbPermitWrite_on (hg : s.gated = false) (hr : s.bit Reg.GLB_PERMIT_REQ = false) :
    exec (.glbPermitWrite ag true) s = .next ({ (s.wr Reg.GLB_PERMIT_REQ 1).raise pGLB 5 with
      pins := { s.pins with permitLvl := true } } : State).settle := by
  show execGlbPermitWrite ag true s = _
  rw [execGlbPermitWrite, State.access_of_reaches ha, State.permitWrite, hg, hr]
  rfl

theorem exec_glbPermitWrite_off (hr : s.bit Reg.GLB_PERMIT_REQ = true) :
    exec (.glbPermitWrite ag false) s = .next s.openSwitch.settle := by
  show execGlbPermitWrite ag false s = _
  rw [execGlbPermitWrite, State.access_of_reaches ha, State.permitWrite, hr]
  rfl

end

/-- Settles O59, command by command: where its condition holds, each does what chapter 19 says. -/
theorem supplyResetsAndPermitComplete : Obligations.SupplyResetsAndPermitComplete := by
  refine ⟨fun s => ⟨s.powerReset_leaves, exec_vinStart, fun hp => ?_, exec_warningEnd, exec_overvoltageEnd, fun lid => exec_tripRestart⟩,
    fun s hp => ?_, exec_psupOkChange, fun s ag => ⟨fun ha => ?_, fun ha => ?_⟩⟩
  · exact ⟨exec_powerDown hp, exec_powerFailWarning hp, exec_overvoltage hp, exec_tripPowerStop hp, exec_vinRangeChange hp,
      fun p => exec_phaseSwitchOff hp, fun p => exec_sparePhaseActivate hp⟩
  · exact ⟨fun g hreq => exec_resetNFall hp hreq g, exec_moduleResetAssert hp, exec_moduleResetBlockAssert, exec_moduleResetRelease,
      exec_perstNAssert hp, exec_perstNRelease hp, exec_referenceClockLoss156 hp, exec_referenceClockReturn156 hp,
      fun i => exec_islandLockLoss hp, exec_permitContradiction_high hp,
      fun hc => ⟨exec_permitWithdrawn_high hp hc, exec_permitWithdrawn_low hp hc⟩, fun lid die => exec_thermalCheck_below hp,
      fun now hb hi => exec_innkeeperWatchdog hp hb hi now, exec_innkeeperRestartComplete hp⟩
  · exact ⟨exec_modRst ha, exec_inkRst ha, exec_retry ha, exec_cellarDataAccess ha⟩
  · exact ⟨exec_glbPermitWrite_on ha, exec_glbPermitWrite_off ha⟩

end Sys2Proof.Machine
end

section
/-!
PROOFS. The innkeeper's commands (R49, R54, R84, R85, R431, R437 to R439, R443, R444, R463, R464, R495): what each does where
its condition holds.
-/
namespace Sys2Proof.Machine

open Sys2Proof (Agent Word Byte)

/-! ### The mailbox (R82 to R85) -/

/-- RING with no command in hand, none waiting to be read and the innkeeper up. -/
theorem exec_ringDoorbell {s : State} {ag : Agent} (ha : s.takesWork ag pINK) (hb : s.bit Reg.INK_STATUS_BUSY = false)
    (hd : s.bit Reg.INK_STATUS_DONE = false) (hi : s.bit Reg.INK_STATUS_INK_DOWN = false) :
    exec (.ringDoorbell ag) s = .next ((s.wr Reg.INK_STATUS_BUSY 1).setRunning pINK true).settle := by
  show execRingDoorbell ag s = _
  rw [execRingDoorbell, State.newWork_of_takesWork ha, State.ring, hb, hd, hi]
  rfl

/-- The fields that the completion of a command writes. -/
def mbFields : List Fld :=
  (List.range 16).map Reg.INK_RSP_RSP ++ [Reg.INK_STATUS_RESULT, Reg.INK_STATUS_TAG, Reg.INK_STATUS_DONE, Reg.INK_STATUS_BUSY]

/-- What it writes there. -/
def State.mbWrites (s : State) (result : Nat) (rsp : List Nat) : List (Fld × Nat) :=
  ((List.range 16).map fun i => (Reg.INK_RSP_RSP i, rsp.getD i 0)) ++
    [(Reg.INK_STATUS_RESULT, result), (Reg.INK_STATUS_TAG, s.rd Reg.INK_CMD_TAG), (Reg.INK_STATUS_DONE, 1), (Reg.INK_STATUS_BUSY, 0)]

theorem State.mbDone_eq (s : State) (result : Nat) (rsp : List Nat) :
    s.mbDone result rsp = ((s.wrs (s.mbWrites result rsp)).raise pINK 0).setRunning pINK false := by
  rw [State.mbWrites, State.wrs_append]
  rfl

theorem State.mbWrites_fields (s : State) (result : Nat) (rsp : List Nat) : (s.mbWrites result rsp).map Prod.fst = mbFields := rfl

theorem mbFields_keys_nodup : (mbFields.map Fld.key).Nodup := by decide

theorem mbFields_not_event : ∀ f ∈ mbFields, ∀ g ∈ pINK.eventFields, f.key ≠ g.key := by decide

theorem mbFields_not_state : ∀ f ∈ mbFields, f.key ≠ (Hdr.state pINK).key := by decide

/-- After a command completes its fields read what the completion wrote. -/
theorem State.rd_mbDone (s : State) {result : Nat} {rsp : List Nat} {f : Fld} {v : Nat} (he : (f, v) ∈ s.mbWrites result rsp) :
    (s.mbDone result rsp).rd f = v % 2 ^ f.width := by
  have hf : f ∈ mbFields := s.mbWrites_fields result rsp ▸ List.mem_map_of_mem he
  have hnd : ((s.mbWrites result rsp).map fun e => e.1.key).Nodup := by
    have := mbFields_keys_nodup
    rwa [← s.mbWrites_fields result rsp, List.map_map] at this
  rw [State.mbDone_eq, State.rd_setRunning_ne _ (mbFields_not_state _ hf), State.rd_raise_ne _ _ _ (mbFields_not_event _ hf),
    s.rd_wrs_of_mem hnd he]

/-- A response word is written among the first fields. -/
theorem State.rsp_mem_mbWrites (s : State) (result : Nat) (rsp : List Nat) {i : Nat} (hi : i < 16) :
    (Reg.INK_RSP_RSP i, rsp.getD i 0) ∈ s.mbWrites result rsp :=
  List.mem_append_left _ (List.mem_map.2 ⟨i, List.mem_range.2 hi, rfl⟩)

theorem State.mbDone_shows (s : State) (result : Nat) (rsp : List Nat) :
    (s.mbDone result rsp).rd Reg.INK_STATUS_BUSY = 0 ∧ (s.mbDone result rsp).rd Reg.INK_STATUS_DONE = 1 ∧
      (s.mbDone result rsp).rd Reg.INK_STATUS_RESULT = result % 2 ^ 8 ∧
      (s.mbDone result rsp).rd Reg.INK_STATUS_TAG = s.rd Reg.INK_CMD_TAG ∧
      ∀ i < 16, (s.mbDone result rsp).rd (Reg.INK_RSP_RSP i) = rsp.getD i 0 % 2 ^ 32 := by
  have status : ∀ {f : Fld} {v : Nat}, (f, v) ∈ [(Reg.INK_STATUS_RESULT, result), (Reg.INK_STATUS_TAG, s.rd Reg.INK_CMD_TAG),
      (Reg.INK_STATUS_DONE, 1), (Reg.INK_STATUS_BUSY, 0)] → (s.mbDone result rsp).rd f = v % 2 ^ f.width :=
    fun he => s.rd_mbDone (List.mem_append_right _ he)
  refine ⟨status (v := 0) (by simp), status (v := 1) (by simp), status (v := result) (by simp), ?_, fun i hi => s.rd_mbDone (s.rsp_mem_mbWrites result rsp hi)⟩
  rw [status (v := s.rd Reg.INK_CMD_TAG) (by simp)]
  exact s.rd_mod_width (f := Reg.INK_CMD_TAG) (by decide)

/-- A command in hand of an innkeeper that runs, outside UNKNOWN, executes by its operation code. -/
theorem State.serving_eq {s : State} (hb : s.bit Reg.INK_STATUS_BUSY = true) (hi : s.inkUp = true) (hk : s.lcState ≠ lcUNKNOWN)
    (p : Nat → Bool) : s.serving p = p (s.rd Reg.INK_CMD_OP) := by
  simp [State.serving, hb, hi, bne_iff_ne.2 hk]

theorem exec_unknownOperation {s : State} (hs : s.serving (fun o => !mailboxOps.contains o) = true) :
    exec .unknownOperation s = .next (s.mbDone 1 []).settle := by
  show execUnknownOperation s = _
  rw [execUnknownOperation, if_pos hs]
  rfl

/-- The identity of an accepted EEPROM: its first twelve words, and how it was read. -/
theorem exec_identity {s : State} (hs : s.serving (· == 1) = true) (hraw : s.ink.raw ≠ []) (hee : s.ink.eeprom ≠ []) :
    exec .identity s = .next (s.mbDone 0 ((List.range 12).map (fun i => leAt s.ink.raw (4 * i) 4) ++ [1 + 2 * s.ink.attempts])).settle := by
  have hok : s.ink.eeprom.isEmpty = false := by simpa using hee
  have hread : s.ink.raw.isEmpty = false := by simpa using hraw
  show execIdentity s = _
  rw [execIdentity, if_pos hs, hok, hread]
  rfl

theorem exec_firmwareVersion {s : State} (hs : s.serving (· == 2) = true) :
    exec .firmwareVersion s =
      .next (s.mbDone 0 [(s.slot s.ink.running).version.getD Sys2Proof.Config.factoryVersion, s.ink.running]).settle := by
  show execFirmwareVersion s = _
  rw [execFirmwareVersion, if_pos hs]
  rfl

/-- A life-cycle request that no condition of R444 refuses enters WIPING. -/
theorem exec_lifeCycleRequest {s : State} (hs : s.serving (· == 0x20) = true) (hc : s.ink.lcCmd = false) (hr : s.lcRefusal = none) :
    exec .lifeCycleRequest s = .next (((s.wr Reg.LCY_LAST_TARGET (bits (s.arg 0) 7 0)).modInk
      fun k => { k with lcCmd := true }).transit (bits (s.arg 0) 7 0)).settle := by
  show execLifeCycleRequest s = _
  rw [execLifeCycleRequest, hs, hc, hr]
  rfl

/-! ### Operations that WIPING and RETIRED close (R441) -/

theorem State.operate_of_serving {s : State} {op : Nat} (hs : s.serving (· == op) = true) (hc : s.lcCloses = false) (k : State → State) :
    s.operate op k = k s := by
  rw [State.operate, if_pos hs, hc]
  rfl

section
variable {s : State} (hc : s.lcCloses = false)
include hc

theorem exec_persistentStoreRead (hs : s.serving (· == 0x10) = true) (ho : s.arg 0 % 4 = 0) (hn : s.arg 1 % 4 = 0) (hlo : 4 ≤ s.arg 1)
    (hhi : s.arg 1 ≤ 64) (hend : s.arg 0 + s.arg 1 ≤ 262144) :
    exec .persistentStoreRead s =
      .next (s.mbDone 0 ((List.range (s.arg 1 / 4)).map fun i => leVal (Memory.readBytes s.ink.image.user (s.arg 0 + 4 * i) 4))).settle := by
  show execPersistentStoreRead s = _
  rw [execPersistentStoreRead, State.operate_of_serving hs hc, if_neg (by omega)]
  rfl

/-- A write that asks for no commit changes the image of the user area. -/
theorem exec_persistentStoreWrite (hs : s.serving (· == 0x11) = true) (hcm : s.ink.commit ≠ some .host)
    (hq : s.ink.queue.contains .host = false) (ho : s.arg 0 % 4 = 0) (hn : s.arg 1 % 4 = 0) (hhi : s.arg 1 ≤ 56)
    (hlast : s.arg 0 ≤ 262140) (hend : s.arg 0 + s.arg 1 ≤ 262144) :
    exec .persistentStoreWrite s = .next ((s.modInk fun k => { k with image := { k.image with
      user := Memory.writeBytes k.image.user (s.arg 0) ((List.range (s.arg 1 / 4)).flatMap fun i => leBytes 4 (s.arg (2 + i))) } }).mbDone
        0 []).settle := by
  have hlen : bits (s.arg 1) 7 0 = s.arg 1 := by simp only [bits]; omega
  have hrest : bits (s.arg 1) 30 8 = 0 := by simp only [bits]; omega
  have hcommit : (s.arg 1).testBit 31 = false := Nat.testBit_lt_two_pow (by omega)
  have hidle : ¬ (s.ink.commit = some .host ∨ s.ink.queue.contains .host = true) := by rw [hq]; simpa using hcm
  show execPersistentStoreWrite s = _
  rw [execPersistentStoreWrite, State.operate_of_serving hs hc]
  dsimp only
  rw [if_neg hidle, hlen, hrest, if_neg (by omega), if_pos hcommit]
  rfl

/-- An image that is signed, new enough, not poisoned and written as read is staged in the other slot. -/
theorem exec_firmwareStage {v sec : Word} (hs : s.serving (· == 0x30) = true) (hlo : 4096 ≤ s.arg 2) (hhi : s.arg 2 ≤ 25165824)
    (hp : s.argPlace (s.arg 2) = true) (hsec : s.ink.image.security ≤ sec.toNat) (hgood : s.poisoned s.argAddr (s.arg 2) = false) :
    exec (.firmwareStage true v sec true) s = .next ((s.modInk fun k => { k with
      slots := setAt k.slots (1 - s.ink.running) { version := some v.toNat, security := sec.toNat },
      staged := some (1 - s.ink.running) }).mbDone 0 [v.toNat, 1 - s.ink.running, sec.toNat]).settle := by
  show execFirmwareStage true v sec true s = _
  rw [execFirmwareStage, State.operate_of_serving hs hc]
  dsimp only
  rw [if_neg (by simp [hlo, hhi, hp]), if_neg (by simp [hsec, hgood])]
  rfl

/-- A commit of the staged slot for the next restart. -/
theorem exec_firmwareCommit {i : Nat} (hs : s.serving (· == 0x31) = true) (hst : s.ink.staged = some i) (ha : s.arg 0 = 0) :
    exec .firmwareCommit s = .next ((s.mbDone 0 [i]).modInk fun k => { k with next := some i }).settle := by
  show execFirmwareCommit s = _
  rw [execFirmwareCommit, State.operate_of_serving hs hc, hst, ha]
  rfl

theorem exec_calibrationSave (hs : s.serving (· == 0x40) = true) (haln : s.pak.aln = none) (hrun : s.ary.run = none) (hsec : s.arg 2 < 8)
    (hp : s.argPlace calLen = true) :
    let im := s.calImage (s.arg 2)
    let c := crc64.of (im.1 ++ im.2)
    exec .calibrationSave s =
      .next ((s.hbmStore s.argAddr (im.1 ++ leBytes 8 c ++ im.2)).mbDone 0 [calLen, c % 2 ^ 32, c / 2 ^ 32]).settle := by
  intro im c
  show execCalibrationSave s = _
  rw [execCalibrationSave, State.operate_of_serving hs hc, if_neg (by simp [haln, hrun]), if_neg (by simp [hsec, hp])]
  rfl

/-- The lane and receiver sections of a good image are applied. -/
theorem exec_calibrationRestore (hs : s.serving (· == 0x41) = true) (hsec : s.arg 2 = 3) (hp : s.argPlace calLen = true)
    (hr : s.calRefusal (Memory.readBytes s.hbm s.argAddr calLen) 3 false = none) :
    let img := Memory.readBytes s.hbm s.argAddr calLen
    exec .calibrationRestore s = .next (((s.applyLanes img).applyReceivers img).mbDone 0 [0]).settle := by
  intro img
  have hforce : (3 : Nat).testBit 8 = false := by decide
  have hbeams : (3 : Nat).testBit 2 = false := by decide
  have hlanes : (3 : Nat).testBit 0 = true := by decide
  have hreceivers : (3 : Nat).testBit 1 = true := by decide
  show execCalibrationRestore s = _
  rw [execCalibrationRestore, State.operate_of_serving hs hc, hsec, if_neg (by simp [hp])]
  simp only [Nat.reduceMod, hforce, hr, hbeams, hlanes, hreceivers, if_true]
  rfl

end

/-! ### The persistent store and custody (R49, R437, R438) -/

theorem exec_storeCommitComplete_verified {s : State} {c : Commit} (hi : s.inkUp = true) (hb : s.pwr.booted = true)
    (hc : s.ink.commit = some c) :
    exec (.storeCommitComplete true) s = .next ((s.bankWrite c).committed c).commitNext.settle := by
  show execStoreCommitComplete true s = _
  rw [execStoreCommitComplete, if_neg (by simp [hi, hb]), hc]
  rfl

theorem exec_commitTokenGain {s : State} (hp : s.pwr.powered = true) (hb : s.pwr.booted = true) :
    exec .commitTokenGain s = .next ((s.modInk fun k => { k with
      image := { k.image with tokens := min 64 (k.image.tokens + 1) } }).commitNext).settle := by
  show execCommitTokenGain s = _
  rw [execCommitTokenGain, if_neg (by simp [hp, hb])]
  rfl

theorem exec_custodyNChange (s : State) (l : Bool) :
    exec (.custodyNChange l) s = .next ({ s with pins := { s.pins with custodyRaw := l } } : State).settle :=
  rfl

theorem exec_custodyFilterAccept {s : State} (hp : s.pwr.powered = true) :
    exec .custodyFilterAccept s = .next (({ s with pins := { s.pins with custody := s.pins.custodyRaw } } : State).custodyApply).settle := by
  show execCustodyFilterAccept s = _
  rw [execCustodyFilterAccept, if_pos hp]
  rfl

/-! ### Firmware that is not yet permanent (R464) -/

theorem exec_firmwareConfirmed {s : State} (hf : s.ink.fresh = true) (hi : s.inkUp = true) :
    exec .firmwareConfirmed s = .next (({ s with ink := { s.ink with fresh := false, image := { s.ink.image with
      slot := s.ink.running, security := max s.ink.image.security (s.slot s.ink.running).security } } } : State).commitGo .record).settle := by
  show execFirmwareConfirmed s = _
  rw [execFirmwareConfirmed, if_neg (by simp [hf, hi])]
  rfl

theorem exec_firmwareFallback {s : State} (hp : s.pwr.powered = true) (hf : s.ink.fresh = true) (now : Int) :
    exec (.firmwareFallback now) s = .next (s.watchdog now).settle := by
  show execFirmwareFallback now s = _
  rw [execFirmwareFallback, hp, hf]
  rfl

/-! ### What leaves the innkeeper's part or the boot as it was -/

theorem Steps.ink_eq {s t : State} (h : Steps (· ≠ Part.ink) s t) : t.ink = s.ink := (h.kept .ink).resolve_left fun hne => hne rfl

theorem Steps.pwr_eq {s t : State} (h : Steps (· ≠ Part.pwr) s t) : t.pwr = s.pwr := (h.kept .pwr).resolve_left fun hne => hne rfl

@[simp] theorem State.raise_ink (s : State) (p : Page) (b : Nat) : (s.raise p b).ink = s.ink :=
  (State.raise_steps (by decide) (Steps.refl _ s) p b).ink_eq

@[simp] theorem State.raise_pwr (s : State) (p : Page) (b : Nat) : (s.raise p b).pwr = s.pwr :=
  (State.raise_steps (by decide) (Steps.refl _ s) p b).pwr_eq

@[simp] theorem State.releaseAll_ink (s : State) : s.releaseAll.ink = s.ink := (State.releaseAll_steps (Steps.refl _ s)).ink_eq

@[simp] theorem State.releaseAll_pwr (s : State) : s.releaseAll.pwr = s.pwr := (State.releaseAll_steps (Steps.refl _ s)).pwr_eq

@[simp] theorem State.releaseShow_ink (s : State) : s.releaseShow.ink = s.ink :=
  (State.releaseShow_steps (by decide) (by decide) (Steps.refl _ s)).ink_eq

/-- The end of a reset's last phase is no part of the boot. -/
@[simp] theorem State.releaseShow_booted (s : State) : s.releaseShow.pwr.booted = s.pwr.booted := by
  unfold State.releaseShow
  split
  · rw [State.raise_pwr]
  · rfl

@[simp] theorem State.modResetGo_ink (s : State) (cause : Nat) : (s.modResetGo cause).ink = s.ink :=
  (State.modResetGo_steps (by decide) (by decide) (by decide) (by decide) (by decide) (by decide) (by decide) (by decide) (by decide)
    (Steps.refl _ s) cause).ink_eq

/-- After the phase of the module reset is noted nothing of its assertion concerns the reset controller's own state. -/
@[simp] theorem State.modResetGo_booted (s : State) (cause : Nat) : (s.modResetGo cause).pwr.booted = s.pwr.booted := by
  unfold State.modResetGo
  split_ifs
  · rfl
  · rfl
  · have frame := fun t : State => (State.ledFlush_steps (State.reckon_steps (mu := (· ≠ Part.pwr)) (by decide) (by decide)
      (State.settle_steps (by decide) (by decide) (by decide) (by decide) (by decide) (by decide) (by decide) (by decide)
        (Steps.refl _ t)) 3 0xFF)).pwr_eq
    rw [frame]
    rfl

/-- A commit that starts or waits changes nothing of the image but the count of tokens. -/
theorem State.commitGo_image (s : State) (c : Commit) :
    (s.commitGo c).ink.image = { s.ink.image with tokens := (s.commitGo c).ink.image.tokens } := by
  unfold State.commitGo
  dsimp only
  split_ifs <;> rfl

theorem State.commitGo_eeprom (s : State) (c : Commit) : (s.commitGo c).ink.eeprom = s.ink.eeprom := by
  unfold State.commitGo
  dsimp only
  split_ifs <;> rfl

/-! ### The end of a wipe (R443, R445) -/

/-- The target that a wipe enters, and the count of wipes. -/
def State.wipeCounted (s : State) : State :=
  let t : State := { s with ink := { s.ink with image := { s.ink.image with
    state := s.rd Reg.LCY_STATE_TARGET, target := 0, wipes := (s.rd Reg.LCY_WIPES_WIPES + 1) % 2 ^ 32 }, wiped := false } }
  ((t.wrs [(Reg.LCY_WIPES_WIPES, s.rd Reg.LCY_WIPES_WIPES + 1), (Reg.LCY_STATE_STATE, s.rd Reg.LCY_STATE_TARGET)]).raise pLCY 3).raise
    pLCY 0

/-- The MEM pages have filled and the entry into WIPING is committed: a target other than RETIRED is entered. -/
theorem exec_wipeComplete {s : State} (hw : s.lcState = lcWIPING) (hz : s.ink.wiped = true) (hm : s.modReset = false) (hi : s.inkUp = true)
    (hc : s.ink.commit = none) (hq : s.ink.queue = [])
    (hfill : ∀ n < 4, s.running (pMEM n) = true ∧ s.rd (Reg.MEM_STAT_INIT_DONE n) = 1) (ht : s.rd Reg.LCY_STATE_TARGET ≠ lcRETIRED) :
    exec .wipeComplete s = .next (s.wipeCounted.commitGo .leave).settle := by
  have hfilled : ((List.range 4).all fun n => s.running (pMEM n) && s.bit (Reg.MEM_STAT_INIT_DONE n)) = true := by
    refine List.all_eq_true.2 fun n hn => ?_
    obtain ⟨hrun, hdone⟩ := hfill n (List.mem_range.1 hn)
    simp [hrun, State.bit, hdone]
  show execWipeComplete s = _
  rw [execWipeComplete, if_neg (by simp [hw, hz, hm, hfilled, hi, hc, hq])]
  simp only [if_neg ht]
  rfl

theorem State.rd_wipeCounted_of_mem (s : State) {f : Fld} {v : Nat} (hev : ∀ g ∈ pLCY.eventFields, f.key ≠ g.key)
    (he : (f, v) ∈ [(Reg.LCY_WIPES_WIPES, s.rd Reg.LCY_WIPES_WIPES + 1), (Reg.LCY_STATE_STATE, s.rd Reg.LCY_STATE_TARGET)]) :
    s.wipeCounted.rd f = v % 2 ^ f.width := by
  unfold State.wipeCounted
  rw [State.rd_raise_ne _ _ _ hev, State.rd_raise_ne _ _ _ hev]
  exact State.rd_wrs_of_mem _ (by simp +decide) he

theorem State.lcState_wipeCounted (s : State) : s.wipeCounted.lcState = s.rd Reg.LCY_STATE_TARGET := by
  rw [State.lcState, s.rd_wipeCounted_of_mem (v := s.rd Reg.LCY_STATE_TARGET) (by decide) (by simp)]
  exact s.rd_mod_width (f := Reg.LCY_STATE_TARGET) (by decide)

theorem State.wipes_wipeCounted (s : State) : s.wipeCounted.rd Reg.LCY_WIPES_WIPES = (s.rd Reg.LCY_WIPES_WIPES + 1) % 2 ^ 32 :=
  s.rd_wipeCounted_of_mem (by decide) (by simp)

theorem State.imageState_wipeCounted (s : State) : s.wipeCounted.ink.image.state = s.rd Reg.LCY_STATE_TARGET := by
  simp [State.wipeCounted]

/-! ### Boot (R54, R431, R437) -/

theorem exec_eepromReadRetry {s : State} (hp : s.pwr.powered = true) (hb : s.pwr.booted = false) (ha : s.ink.attempts < 3) :
    exec .eepromReadRetry s = .next (s.modInk fun k => { k with attempts := k.attempts + 1 }).settle := by
  show execEepromReadRetry s = _
  rw [execEepromReadRetry, if_pos ⟨hp, hb, ha⟩]
  rfl

theorem exec_innkeeperBootTimeout {s : State} (hp : s.pwr.powered = true) (hb : s.pwr.booted = false) :
    exec .innkeeperBootTimeout s = .next (((((s.wrs [(Reg.LCY_STATE_STATE, lcUNKNOWN), (Reg.INK_STATUS_INK_DOWN, 1)]).raise pGLB 0).modPwr
      fun p => { p with booted := true })).releaseAll.releaseShow).settle := by
  show execInnkeeperBootTimeout s = _
  rw [execInnkeeperBootTimeout, if_neg (by simp [hp, hb])]
  rfl

/-- What the boot reads for good: the identity EEPROM, and the count of power-ups in the loaded image. -/
def Ink.loaded (k : Ink) : List Byte × Nat := (k.eeprom, k.image.powerUps)

theorem State.commitGo_loaded (s : State) (c : Commit) : (s.commitGo c).ink.loaded = s.ink.loaded := by
  rw [Ink.loaded, State.commitGo_eeprom, State.commitGo_image]
  rfl

/-- Entry into WIPING changes the life-cycle record only. -/
theorem State.transit_loaded (s : State) (target : Nat) : (s.transit target).ink.loaded = s.ink.loaded := by
  have hdma := fun t : State => (State.dmaLifeCycle_steps (mu := (· ≠ Part.ink)) (by decide) (by decide) (by decide) (by decide) (by decide)
    (by decide) (Steps.refl _ t)).ink_eq
  unfold State.transit
  dsimp only
  rw [State.commitGo_loaded, hdma, State.modInk, State.wrs_ink]
  rfl

theorem State.custodyApply_loaded (s : State) : s.custodyApply.ink.loaded = s.ink.loaded := by
  unfold State.custodyApply
  lift_lets
  intro v t
  have ht : t.ink = s.ink := by rw [show t = _ from rfl, State.raise_ink, State.wr_ink]
  split
  · rfl
  · split
    · rw [State.transit_loaded, ht]
    · rw [ht]

/-- The end of the boot once everything is loaded: custody is applied, every page is released, and a wipe in hand goes on. -/
def State.bootEnd (s : State) : State :=
  let t := ((s.wr Reg.INK_STATUS_INK_DOWN 0).custodyApply.modPwr fun p => { p with booted := true }).releaseAll.releaseShow
  if t.lcState = lcWIPING then t.modResetGo 7 else t

theorem State.bootEnd_booted (s : State) : s.bootEnd.pwr.booted = true := by
  unfold State.bootEnd
  dsimp only
  split_ifs <;> simp [State.modPwr]

theorem State.bootEnd_loaded (s : State) : s.bootEnd.ink.loaded = s.ink.loaded := by
  have hend : ∀ t : State, (t.modPwr fun p => { p with booted := true }).releaseAll.releaseShow.ink = t.ink := fun t => by
    simp [State.modPwr]
  have hloaded := (s.wr Reg.INK_STATUS_INK_DOWN 0).custodyApply_loaded
  unfold State.bootEnd
  dsimp only
  split_ifs
  · rw [State.modResetGo_ink, hend, hloaded, State.wr_ink]
  · rw [hend, hloaded, State.wr_ink]

/-- The state with the store and the repair state loaded by the boot, from the EEPROM bytes read. -/
def State.bootLoad (s : State) (img : List Byte) : State :=
  (s.modInk fun k => { k with raw := img, eeprom := img.take 256, attempts := k.attempts + 1 }).loadStore.restoreMaps.phaseShow

/-- The slot that runs is chosen, and without cooling the lid's limits are the lower ones. -/
def State.bootChoose (s : State) (slot : Nat) (fresh : Bool) (img : List Byte) : State :=
  let t := s.modInk fun k => { k with running := slot, next := none, fresh := fresh }
  if leAt img 0xD 1 % 16 = 0 then t.wrs [(Reg.RCK_THERM_LIM_LID_TRIP, 0x3C), (Reg.RCK_THERM_LIM_LID_WARN, 0x32)] else t

theorem State.bootChoose_loaded (s : State) (slot : Nat) (fresh : Bool) (img : List Byte) :
    (s.bootChoose slot fresh img).ink.loaded = s.ink.loaded := by
  unfold State.bootChoose
  dsimp only
  split
  · rw [State.wrs_ink]
    rfl
  · rfl

/-- The boot with an accepted EEPROM and a good active slot. -/
theorem exec_innkeeperBootComplete {s : State} {img : List Byte} (hp : s.pwr.powered = true) (hb : s.pwr.booted = false)
    (hr : s.inReset pINK = false) (hok : eepromOk img = true) :
    exec (.innkeeperBootComplete (some img) true) s = .next ((s.bootLoad img).bootChoose
      (s.ink.next.getD (s.bootLoad img).ink.image.slot) s.ink.next.isSome img).bootEnd.settle := by
  show execInnkeeperBootComplete (some img) true s = _
  rw [execInnkeeperBootComplete, if_neg (by simp [hp, hb, hr])]
  simp only [Option.getD_some, hok, if_true, true_and, Bool.true_and]
  rfl

/-- Settles O60, command by command: where its condition holds, each does what chapters 3, 19 and 21 say. -/
theorem innkeeperCommandsComplete : Obligations.InnkeeperCommandsComplete := by
  refine ⟨fun s ag => exec_ringDoorbell, State.mbDone_shows, ?_, fun s => ⟨fun c => exec_storeCommitComplete_verified,
    exec_commitTokenGain, exec_custodyNChange s, exec_custodyFilterAccept, fun hw hz hm hi hc hq hfill ht => ?_,
    exec_firmwareConfirmed, fun now hp hf => exec_firmwareFallback hp hf now, fun hp hb => ⟨exec_eepromReadRetry hp hb,
    exec_innkeeperBootTimeout hp hb, fun img hr hok => ?_⟩⟩⟩
  · rintro s op rfl hb hi hk
    have serves : ∀ {c : Nat}, s.rd Reg.INK_CMD_OP = c → s.serving (· == c) = true := fun hop => by
      rw [State.serving_eq hb hi hk, hop, beq_self_eq_true]
    refine ⟨fun hop => exec_unknownOperation ?_, fun hop => exec_identity (serves hop), fun hop => exec_firmwareVersion (serves hop),
      fun hc => ⟨fun hop => exec_persistentStoreRead hc (serves hop), fun hop => exec_persistentStoreWrite hc (serves hop),
        fun v sec hop => exec_firmwareStage hc (serves hop), fun i hop => exec_firmwareCommit hc (serves hop),
        fun hop => exec_calibrationSave hc (serves hop), fun hop => exec_calibrationRestore hc (serves hop)⟩,
      fun hop => exec_lifeCycleRequest (serves hop)⟩
    rw [State.serving_eq hb hi hk]
    simpa using hop
  · refine ⟨_, exec_wipeComplete hw hz hm hi hc hq hfill ht, ?_, ?_, ?_⟩
    · exact (State.rd_congr (State.commitGo_regs _ _) _).trans s.lcState_wipeCounted
    · exact (State.rd_congr (State.commitGo_regs _ _) _).trans s.wipes_wipeCounted
    · rw [State.commitGo_image]
      exact s.imageState_wipeCounted
  · have hloaded := (State.bootEnd_loaded _).trans ((s.bootLoad img).bootChoose_loaded
      (s.ink.next.getD (s.bootLoad img).ink.image.slot) s.ink.next.isSome img)
    obtain ⟨heeprom, hpowerUps⟩ := Prod.mk.inj hloaded
    exact ⟨s.bootLoad img, _, exec_innkeeperBootComplete hp hb hr hok, rfl, State.bootEnd_booted _, heeprom, hpowerUps⟩

end Sys2Proof.Machine
end

section
/-!
PROOFS. Bits of a word (R67, R68): what clearing and setting one bit, or the bits that a condition names, leaves of the others.
-/
namespace Sys2Proof.Machine

/-- Clearing a bit clears that bit alone. -/
@[simp] theorem testBit_clrBit (v b c : Nat) : (clrBit v b).testBit c = (decide (c ≠ b) && v.testBit c) := by
  unfold clrBit
  split
  next h =>
    induction b generalizing v c with
    | zero =>
      have hodd : v % 2 = 1 := by simpa [Nat.testBit_zero] using h
      cases c with
      | zero => simp [Nat.testBit_zero]; omega
      | succ c => rw [Nat.testBit_succ, Nat.testBit_succ, show (v - 2 ^ 0) / 2 = v / 2 by omega]; simp
    | succ b ih =>
      rw [Nat.testBit_succ] at h
      have hle : 2 ^ b ≤ v / 2 := Nat.ge_two_pow_of_testBit h
      cases c with
      | zero => simp [Nat.testBit_zero, Nat.pow_succ]; omega
      | succ c => rw [Nat.testBit_succ, Nat.testBit_succ, show (v - 2 ^ (b + 1)) / 2 = v / 2 - 2 ^ b by omega, ih _ _ h]; simp
  next h =>
    by_cases hc : c = b
    · subst hc; simpa using h
    · simp [hc]

/-- Setting a bit sets that bit alone. -/
@[simp] theorem testBit_setBit (v b c : Nat) : (setBit v b).testBit c = (decide (c = b) || v.testBit c) := by
  rw [setBit, Nat.testBit_or, Nat.testBit_two_pow, Bool.or_comm]
  simp [eq_comm]

/-- Clearing the low bits that a condition names leaves the others as they are. -/
theorem testBit_foldl_clrBit (c : Nat → Bool) (v n i : Nat) :
    ((List.range n).foldl (fun r b => if c b then clrBit r b else r) v).testBit i = (v.testBit i && !(decide (i < n) && c i)) := by
  induction n with
  | zero => simp
  | succ n ih =>
    rw [List.range_succ, List.foldl_append, List.foldl_cons, List.foldl_nil]
    by_cases hi : i = n
    · subst hi
      cases hc : c i <;> simp [hc, ih]
    · have hlt : (i < n + 1) ↔ i < n := by omega
      split <;> simp [ih, hi, hlt]

/-- A bit of a 32-bit field reads what was written there. -/
theorem State.testBit_rd_wr (s : State) {f : Fld} (hf : f.width = 32) (v : Nat) {b : Nat} (hb : b < 32) :
    ((s.wr f v).rd f).testBit b = v.testBit b := by
  rw [State.rd_wr_self, hf, Nat.testBit_mod_two_pow]
  simp [hb]

end Sys2Proof.Machine
end

section
/-!
PROOFS. The page header (R62 to R68): a header write of an agent that is heard, the places of the header's fields, and the
writes of EVT_RAW, FAULT_STAT, FAULT_INJ and PAGE_LOCK.
-/
namespace Sys2Proof.Machine

/-- A header access of an agent that is heard completes with what the header does. -/
theorem done_headerAccess {s : State} {ag : Sys2Proof.Agent} {p : Page} (hp : p.ok = true) (hh : s.hears ag = true) (k : State → State) :
    done (s.headerAccess ag p k) = .next (k s).settle := by
  rw [State.headerAccess_of_hears hp hh]; rfl

/-- Settles O11: the written bits are cleared one by one in EVT_RAW, and no other field is written. -/
theorem eventBitsClearWhereWritten : Obligations.EventBitsClearWhereWritten := by
  intro s ag p v hp hh
  refine ⟨s.evtRawWrite p v.toNat, done_headerAccess hp hh _, State.onlyFields_wr (State.onlyFields_refl s _) (by simp) _, fun b hb => ?_⟩
  rw [State.evt, State.evtRawWrite, State.testBit_rd_wr s rfl _ hb, testBit_foldl_clrBit, State.evt]
  simp [hb]

/-- FAULT_STAT after a write: a bit stays unless 1 was written to it and its cause is gone. -/
theorem State.fault_faultStatWrite (s : State) (p : Page) (v : Nat) {b : Nat} (hb : b < 32) :
    (s.faultStatWrite p v).fault p b = (s.fault p b && !(v.testBit b && !s.faultCausePresent p b)) := by
  rw [State.fault, State.faultStatWrite, State.testBit_rd_wr s rfl _ hb,
    testBit_foldl_clrBit fun b => v.testBit b && !s.faultCausePresent p b, State.fault]
  simp [hb]

/-- The cause of CFG_CHECK lasts (R451). -/
theorem State.faultCausePresent_cfgCheck (s : State) (p : Page) : s.faultCausePresent p 31 = true := if_pos rfl

/-- Writes of listed fields change only those fields. -/
theorem State.onlyFields_wrs {s u : State} {fs : List Fld} {l : List (Fld × Nat)} (h : s.onlyFields u fs) (hl : ∀ e ∈ l, e.1 ∈ fs) :
    s.onlyFields (u.wrs l) fs := by
  induction l generalizing u with
  | nil => exact h
  | cons e l ih =>
    obtain ⟨he, hl⟩ := List.forall_mem_cons.1 hl
    exact ih (State.onlyFields_wr h he e.2) hl

/-- What a write of FAULT_INJ writes: FLIP, TARGET and, where ARM is written 1, ARM (W1S). -/
def Page.injWrites (p : Page) (v : Nat) : List (Fld × Nat) :=
  [(Hdr.injFlip p, bits v 15 0), (Hdr.injTarget p, bits v 23 16)] ++ if v.testBit 31 then [(Hdr.injArm p, 1)] else []

theorem State.faultInjWrite_eq (s : State) (p : Page) (v : Nat) : s.faultInjWrite p v = s.wrs (p.injWrites v) := by
  unfold State.faultInjWrite Page.injWrites
  split <;> rfl

/-- The three fields of FAULT_INJ stand in different bit places. -/
theorem Page.injWrites_nodup (p : Page) (v : Nat) : ((p.injWrites v).map fun e => e.1.key).Nodup := by
  unfold Page.injWrites
  split <;> simp [Fld.key, Hdr.injFlip, Hdr.injTarget, Hdr.injArm]

/-- FAULT_INJ after a write. -/
theorem State.rd_faultInjWrite (s : State) (p : Page) (v : Nat) :
    (s.faultInjWrite p v).rd (Hdr.injFlip p) = v % 2 ^ 16 ∧ (s.faultInjWrite p v).rd (Hdr.injTarget p) = v / 2 ^ 16 % 2 ^ 8 ∧
      (s.faultInjWrite p v).rd (Hdr.injArm p) = if v.testBit 31 then 1 else s.rd (Hdr.injArm p) := by
  have written {f : Fld} {x : Nat} (h : (f, x) ∈ p.injWrites v) : (s.faultInjWrite p v).rd f = x % 2 ^ f.width := by
    rw [s.faultInjWrite_eq]
    exact s.rd_wrs_of_mem (p.injWrites_nodup v) h
  refine ⟨?_, ?_, ?_⟩
  · rw [written (x := bits v 15 0) (by simp [Page.injWrites])]
    simp [bits, Hdr.injFlip]
  · rw [written (x := bits v 23 16) (by simp [Page.injWrites])]
    simp [bits, Hdr.injTarget]
  · split
    next h => exact written (f := Hdr.injArm p) (x := 1) (by simp [Page.injWrites, h])
    next h =>
      rw [s.faultInjWrite_eq]
      refine s.rd_wrs_ne _ fun e he => ?_
      simp only [Page.injWrites, h, Bool.false_eq_true, if_false, List.append_nil, List.mem_cons, List.not_mem_nil, or_false] at he
      obtain rfl | rfl := he <;> simp [Fld.key, Hdr.injFlip, Hdr.injTarget, Hdr.injArm]

theorem Page.injWrites_fields (p : Page) (v : Nat) : ∀ e ∈ p.injWrites v, e.1 ∈ [Hdr.injFlip p, Hdr.injTarget p, Hdr.injArm p] := by
  unfold Page.injWrites
  split <;> simp

/-- Settles O12: FAULT_STAT bit by bit, FAULT_INJ field by field. -/
theorem faultBitsClearOnlyWithoutCause : Obligations.FaultBitsClearOnlyWithoutCause := by
  intro s ag p v hp hh
  constructor
  · refine ⟨s.faultStatWrite p v.toNat, done_headerAccess hp hh _, State.onlyFields_wr (State.onlyFields_refl s _) (by simp) _, ?_,
      fun b => s.fault_faultStatWrite p v.toNat⟩
    rw [s.fault_faultStatWrite p v.toNat (by decide), s.faultCausePresent_cfgCheck p]
    simp
  · refine ⟨s.faultInjWrite p v.toNat, done_headerAccess hp hh _, ?_, s.rd_faultInjWrite p v.toNat⟩
    rw [s.faultInjWrite_eq]
    exact State.onlyFields_wrs (State.onlyFields_refl s _) (p.injWrites_fields v.toNat)

/-! ### PAGE_LOCK (R65) -/

/-- LOCK after a write of PAGE_LOCK: 0 is discarded while HOLD is 1. -/
def State.lockPut (s : State) (p : Page) (v : Nat) : State :=
  if s.bit (Hdr.hold p) && !v.testBit 0 then s else s.wr (Hdr.lock p) (bits v 0 0)

theorem State.pageLockWrite_eq (s : State) (p : Page) (v : Nat) :
    s.pageLockWrite p v = if v.testBit 1 then (s.lockPut p v).wr (Hdr.hold p) 1 else s.lockPut p v := rfl

theorem Page.lock_key_ne_hold (p : Page) : (Hdr.lock p).key ≠ (Hdr.hold p).key := by simp [Fld.key, Hdr.lock, Hdr.hold]

/-- A write of PAGE_LOCK changes LOCK and HOLD at most. -/
theorem State.onlyFields_pageLockWrite (s : State) (p : Page) (v : Nat) : s.onlyFields (s.pageLockWrite p v) [Hdr.lock p, Hdr.hold p] := by
  have hput : s.onlyFields (s.lockPut p v) [Hdr.lock p, Hdr.hold p] := by
    unfold State.lockPut
    split
    · exact State.onlyFields_refl s _
    · exact State.onlyFields_wr (State.onlyFields_refl s _) (by simp) _
  rw [State.pageLockWrite_eq]
  split
  · exact State.onlyFields_wr hput (by simp) _
  · exact hput

/-- LOCK keeps its value while HOLD is 1 and 0 is written; else it takes the written bit. -/
theorem State.lock_pageLockWrite (s : State) (p : Page) (v : Nat) :
    (s.pageLockWrite p v).rd (Hdr.lock p) = if s.rd (Hdr.hold p) = 1 ∧ v % 2 = 0 then s.rd (Hdr.lock p) else v % 2 := by
  have hheld : (s.bit (Hdr.hold p) && !v.testBit 0) = true ↔ s.rd (Hdr.hold p) = 1 ∧ v % 2 = 0 := by
    simp [State.bit, Nat.testBit_zero]
  have hput : (s.lockPut p v).rd (Hdr.lock p) = if s.rd (Hdr.hold p) = 1 ∧ v % 2 = 0 then s.rd (Hdr.lock p) else v % 2 := by
    simp only [State.lockPut, hheld]
    split
    · rfl
    · simp [bits, Hdr.lock]
  rw [State.pageLockWrite_eq]
  exact rd_ite ((State.rd_wr_ne _ p.lock_key_ne_hold _).trans hput) hput

/-- HOLD is set by a 1 and never cleared by a write. -/
theorem State.hold_pageLockWrite (s : State) (p : Page) (v : Nat) :
    (s.pageLockWrite p v).rd (Hdr.hold p) = if v / 2 % 2 = 1 then 1 else s.rd (Hdr.hold p) := by
  have hbit : v.testBit 1 = true ↔ v / 2 % 2 = 1 := by simp [Nat.testBit_succ, Nat.testBit_zero]
  rw [State.pageLockWrite_eq]
  simp only [hbit]
  split
  · exact State.rd_wr_self _ _ _
  · exact rd_ite rfl (State.rd_wr_ne s p.lock_key_ne_hold.symm _)

/-- Settles O13: what a write makes of LOCK and of HOLD, and that it touches no other field. -/
theorem pageLockHoldsUntilReset : Obligations.PageLockHoldsUntilReset := by
  intro s ag p v hp hh
  exact ⟨s.pageLockWrite p v.toNat, done_headerAccess hp hh _, s.onlyFields_pageLockWrite p v.toNat, s.lock_pageLockWrite p v.toNat,
    s.hold_pageLockWrite p v.toNat⟩

end Sys2Proof.Machine
end

section
/-!
PROOFS. Events and messages (R67, R71 to R74): the MSI-X structures stand apart from every page header, a message is sent or
kept pending by its vector's mask, and what an event and the writes of EVT_MASK, EVT_ROUTE and the MSI-X table make of them.
-/
namespace Sys2Proof.Machine

open Sys2Proof (Agent)

/-! ### Where the MSI-X structures stand -/

/-- A field of a page's header (R61). -/
def Page.headerField (p : Page) (f : Fld) : Prop := p.base ≤ f.addr ∧ f.addr < p.base + 0x40 ∧ f.lo < 32

/-- No field of a page's header is a word of the MSI-X table or of the pending-bit array. -/
theorem Page.headerField.key_ne_msix {p : Page} (hp : p.ok = true) {f : Fld} (hf : p.headerField f) :
    (∀ n < 128, ∀ w < 4, f.key ≠ (Reg.msixWord n w).key) ∧ ∀ i < 4, f.key ≠ (Reg.msixPend i).key := by
  obtain ⟨hlo, hhi, hbit⟩ := hf
  have hb := Page.base_add_lt (off := f.addr - p.base) hp (by omega)
  constructor
  · intro n hn w hw
    simp only [Fld.key, Reg.msixWord]
    omega
  · intro i hi
    simp only [Fld.key, Reg.msixPend]
    omega

/-- The fields of the header that events and messages rest on. -/
theorem Page.evtFields_header (p : Page) :
    ∀ f ∈ [Hdr.state p, Hdr.evtRaw p, Hdr.evtMask p, Hdr.evtNum p, Hdr.evtOff p, Hdr.raises p], p.headerField f := by
  simp [Page.headerField, Hdr.state, Hdr.evtRaw, Hdr.evtMask, Hdr.evtNum, Hdr.evtOff, Hdr.raises]

/-- STATE of a page is no event, mask or route field of any page. -/
theorem Page.state_key_ne_evt (p q : Page) :
    ∀ f ∈ [Hdr.evtRaw q, Hdr.evtMask q, Hdr.evtNum q, Hdr.evtOff q, Hdr.raises q], (Hdr.state p).key ≠ f.key := by
  obtain ⟨i, hi⟩ := p.base_dvd
  obtain ⟨j, hj⟩ := q.base_dvd
  simp only [List.forall_mem_cons, Fld.key, Hdr.state, Hdr.evtRaw, Hdr.evtMask, Hdr.evtNum, Hdr.evtOff, Hdr.raises]
  refine ⟨?_, ?_, ?_, ?_, ?_, by simp⟩ <;> omega

/-- The MSI-X table and the pending-bit array share no word. -/
theorem msixWord_key_ne_pend {n w i : Nat} (hn : n < 128) (hw : w < 4) : (Reg.msixWord n w).key ≠ (Reg.msixPend i).key := by
  simp only [Fld.key, Reg.msixWord, Reg.msixPend]
  omega

theorem msixPend_mem {n : Nat} (hn : n < 128) : Reg.msixPend (n / 32) ∈ (List.range 4).map Reg.msixPend :=
  List.mem_map.2 ⟨n / 32, List.mem_range.2 (by omega), rfl⟩

theorem State.inReset_congr {s t : State} {p : Page} (h : t.rd (Hdr.state p) = s.rd (Hdr.state p)) : t.inReset p = s.inReset p := by
  simp only [State.inReset, State.pstate, h]

theorem State.vectorMasked_congr {s t : State} {n : Nat} (h : t.rd (Reg.msixWord n 3) = s.rd (Reg.msixWord n 3)) :
    t.vectorMasked n = s.vectorMasked n := by
  simp only [State.vectorMasked, h]

/-! ### What only writes some fields and sends -/

/-- From s to u nothing but listed register fields and what has been sent differs. -/
def State.sendsOnly (s u : State) (fs : List Fld) : Prop := u = { s with regs := u.regs, out := u.out } ∧ s.regsKept u fs

theorem State.sendsOnly_refl (s : State) (fs : List Fld) : s.sendsOnly s fs := ⟨rfl, fun _ _ => rfl⟩

section
variable {s u : State} {fs : List Fld} (h : s.sendsOnly u fs)
include h

theorem State.sendsOnly_wr {f : Fld} (hf : f ∈ fs) (v : Nat) : s.sendsOnly (u.wr f v) fs := by
  obtain ⟨hframe, hkept⟩ := h
  refine ⟨?_, fun g hg => (State.rd_wr_ne u (hg f hf) v).trans (hkept g hg)⟩
  rw [State.wr, hframe]

theorem State.sendsOnly_emit (o : Output) : s.sendsOnly (u.emit o) fs := by
  obtain ⟨hframe, hkept⟩ := h
  refine ⟨?_, hkept⟩
  rw [State.emit, hframe]

theorem State.sendsOnly_message {n : Nat} (hn : n < 128) (hp : ∀ f ∈ (List.range 4).map Reg.msixPend, f ∈ fs) :
    s.sendsOnly (u.message n) fs := by
  unfold State.message
  split
  · exact h
  · split
    · exact State.sendsOnly_wr h (hp _ (msixPend_mem hn)) _
    · exact State.sendsOnly_emit h _

end

/-! ### A message, and messages for one vector (R72) -/

theorem State.message_of_hstReset {s : State} (hr : s.inReset pHST = true) (n : Nat) : s.message n = s := by
  simp [State.message, hr]

theorem State.message_of_unmasked {s : State} {n : Nat} (hr : s.inReset pHST = false) (hm : s.vectorMasked n = false) :
    s.message n = s.emit (.msix n) := by
  simp [State.message, hr, hm]

theorem State.message_of_masked {s : State} {n : Nat} (hr : s.inReset pHST = false) (hm : s.vectorMasked n = true) :
    s.message n = s.wr (Reg.msixPend (n / 32)) (setBit (s.rd (Reg.msixPend (n / 32))) (n % 32)) := by
  simp [State.message, hr, hm]

/-- A message changes no field but the pending word of its vector. -/
theorem State.rd_message_ne (s : State) {n : Nat} (hn : n < 128) {g : Fld} (hg : ∀ i < 4, g.key ≠ (Reg.msixPend i).key) :
    (s.message n).rd g = s.rd g := by
  obtain ⟨-, hkept⟩ := State.sendsOnly_message (s.sendsOnly_refl ((List.range 4).map Reg.msixPend)) hn fun _ h => h
  exact hkept g (List.forall_mem_map.2 fun i hi => hg i (List.mem_range.1 hi))

/-- Several messages for one vector, one after the other. -/
def State.messages (s : State) (n : Nat) : Nat → State
  | 0 => s
  | k + 1 => (s.messages n k).message n

theorem State.foldl_message (s : State) (n k : Nat) : (List.range k).foldl (fun u _ => u.message n) s = s.messages n k := by
  induction k with
  | zero => rfl
  | succ k ih => rw [List.range_succ, List.foldl_append, ih]; rfl

theorem State.rd_messages_ne (s : State) {n : Nat} (hn : n < 128) (k : Nat) {g : Fld} (hg : ∀ i < 4, g.key ≠ (Reg.msixPend i).key) :
    (s.messages n k).rd g = s.rd g := by
  induction k with
  | zero => rfl
  | succ k ih => exact ((s.messages n k).rd_message_ne hn hg).trans ih

theorem State.sendsOnly_messages {s u : State} {fs : List Fld} (h : s.sendsOnly u fs) {n : Nat} (hn : n < 128)
    (hp : ∀ f ∈ (List.range 4).map Reg.msixPend, f ∈ fs) (k : Nat) : s.sendsOnly (u.messages n k) fs := by
  induction k with
  | zero => exact h
  | succ k ih => exact State.sendsOnly_message ih hn hp

/-- With the vector unmasked each message is sent. -/
theorem State.messages_of_unmasked {s : State} {n : Nat} (hr : s.inReset pHST = false) (hm : s.vectorMasked n = false) (k : Nat) :
    s.messages n k = { s with out := List.replicate k (.msix n) ++ s.out } := by
  induction k with
  | zero => rfl
  | succ k ih =>
    rw [State.messages, ih]
    exact State.message_of_unmasked (s := { s with out := List.replicate k (.msix n) ++ s.out }) hr hm

theorem State.vectorMasked_messages (s : State) {n : Nat} (hn : n < 128) (k : Nat) : (s.messages n k).vectorMasked n = s.vectorMasked n :=
  State.vectorMasked_congr (s.rd_messages_ne hn k fun _ _ => msixWord_key_ne_pend hn (by decide))

theorem State.inReset_messages (s : State) {n : Nat} (hn : n < 128) (k : Nat) {p : Page} (hp : p.ok = true) :
    (s.messages n k).inReset p = s.inReset p :=
  State.inReset_congr (s.rd_messages_ne hn k ((p.evtFields_header _ (by simp)).key_ne_msix hp).2)

/-- With the vector masked no message is sent. -/
theorem State.messages_out_of_masked {s : State} {n : Nat} (hn : n < 128) (hr : s.inReset pHST = false) (hm : s.vectorMasked n = true)
    (k : Nat) : (s.messages n k).out = s.out := by
  induction k with
  | zero => rfl
  | succ k ih =>
    rw [State.messages, State.message_of_masked ((s.inReset_messages hn k rfl).trans hr) ((s.vectorMasked_messages hn k).trans hm)]
    exact ih

/-- With the vector masked a message leaves its pending bit set. -/
theorem State.messages_pend_of_masked {s : State} {n : Nat} (hn : n < 128) (hr : s.inReset pHST = false) (hm : s.vectorMasked n = true)
    {k : Nat} (hk : 0 < k) : ((s.messages n k).rd (Reg.msixPend (n / 32))).testBit (n % 32) = true := by
  obtain ⟨k, rfl⟩ := Nat.exists_eq_add_one_of_ne_zero hk.ne'
  rw [State.messages, State.message_of_masked ((s.inReset_messages hn k rfl).trans hr) ((s.vectorMasked_messages hn k).trans hm),
    State.testBit_rd_wr _ rfl _ (Nat.mod_lt _ (by decide)), setBit_testBit_self]

/-! ### EVT_MASK (R67, R72) -/

/-- The mask bits that a write of EVT_MASK sets over raised bits. -/
def State.freshBits (s : State) (p : Page) (m : Nat) : Nat :=
  (List.range 32).countP fun b => m.testBit b && !(s.rd (Hdr.evtMask p)).testBit b && s.evt p b

theorem State.evtMaskWrite_eq (s : State) (p : Page) (v : Nat) :
    s.evtMaskWrite p v = if s.bit (Hdr.evtOff p) then s.wr (Hdr.evtMask p) (v &&& p.block.evtMaskBits)
      else (s.wr (Hdr.evtMask p) (v &&& p.block.evtMaskBits)).messages (s.rd (Hdr.evtNum p)) (s.freshBits p (v &&& p.block.evtMaskBits)) := by
  rw [← State.foldl_message]
  rfl

/-- The event bits of every block lie in one word. -/
theorem Block.evtMaskBits_lt (b : Block) : b.evtMaskBits < 2 ^ 32 := by
  cases b <;> decide

section
variable {s : State} {p : Page} (hn : s.rd (Hdr.evtNum p) < 128) (v : Nat)

theorem State.evtMaskWrite_out_of_off (ho : s.bit (Hdr.evtOff p) = true) : (s.evtMaskWrite p v).out = s.out := by
  rw [State.evtMaskWrite_eq, if_pos ho]
  rfl

include hn

theorem State.sendsOnly_evtMaskWrite : s.sendsOnly (s.evtMaskWrite p v) (Hdr.evtMask p :: (List.range 4).map Reg.msixPend) := by
  have hmask := State.sendsOnly_wr (s.sendsOnly_refl (Hdr.evtMask p :: (List.range 4).map Reg.msixPend)) List.mem_cons_self (v &&& p.block.evtMaskBits)
  rw [State.evtMaskWrite_eq]
  split
  · exact hmask
  · exact State.sendsOnly_messages hmask hn (fun f => List.mem_cons_of_mem _) _

variable (hp : p.ok = true)
include hp

/-- EVT_MASK takes the written bits that exist. -/
theorem State.rd_evtMaskWrite : (s.evtMaskWrite p v).rd (Hdr.evtMask p) = v &&& p.block.evtMaskBits := by
  have hmask : (s.wr (Hdr.evtMask p) (v &&& p.block.evtMaskBits)).rd (Hdr.evtMask p) = v &&& p.block.evtMaskBits :=
    s.rd_wr_masked rfl p.block.evtMaskBits_lt v
  rw [State.evtMaskWrite_eq]
  refine rd_ite hmask ?_
  rw [State.rd_messages_ne _ hn _ ((p.evtFields_header _ (by simp)).key_ne_msix hp).2, hmask]

/-- A write of EVT_MASK leaves STATE of HST and the vectors' masks as they were. -/
theorem State.message_grounds_evtMask (m : Nat) : (s.wr (Hdr.evtMask p) m).inReset pHST = s.inReset pHST ∧
    (s.wr (Hdr.evtMask p) m).vectorMasked (s.rd (Hdr.evtNum p)) = s.vectorMasked (s.rd (Hdr.evtNum p)) :=
  ⟨State.inReset_congr (s.rd_wr_ne (pHST.state_key_ne_evt p _ (by simp)) m),
    State.vectorMasked_congr (s.rd_wr_ne ((((p.evtFields_header _ (by simp)).key_ne_msix hp).1 _ hn 3 (by decide)).symm) m)⟩

/-- Unmasked and routed, each mask bit set over a raised bit sends a message. -/
theorem State.evtMaskWrite_out_of_unmasked (hr : s.inReset pHST = false) (ho : s.bit (Hdr.evtOff p) = false)
    (hm : s.vectorMasked (s.rd (Hdr.evtNum p)) = false) : (s.evtMaskWrite p v).out =
      List.replicate (s.freshBits p (v &&& p.block.evtMaskBits)) (.msix (s.rd (Hdr.evtNum p))) ++ s.out := by
  obtain ⟨hreset, hmasked⟩ := State.message_grounds_evtMask hn hp (v &&& p.block.evtMaskBits)
  rw [State.evtMaskWrite_eq, if_neg (by simp [ho]), State.messages_of_unmasked (hreset.trans hr) (hmasked.trans hm)]
  rfl

/-- Masked, none is sent, and the vector's pending bit is set if there is one to send. -/
theorem State.evtMaskWrite_of_masked (hr : s.inReset pHST = false) (ho : s.bit (Hdr.evtOff p) = false)
    (hm : s.vectorMasked (s.rd (Hdr.evtNum p)) = true) : (s.evtMaskWrite p v).out = s.out ∧
      (0 < s.freshBits p (v &&& p.block.evtMaskBits) →
        ((s.evtMaskWrite p v).rd (Reg.msixPend (s.rd (Hdr.evtNum p) / 32))).testBit (s.rd (Hdr.evtNum p) % 32) = true) := by
  obtain ⟨hreset, hmasked⟩ := State.message_grounds_evtMask hn hp (v &&& p.block.evtMaskBits)
  rw [State.evtMaskWrite_eq, if_neg (by simp [ho])]
  exact ⟨State.messages_out_of_masked hn (hreset.trans hr) (hmasked.trans hm) _,
    State.messages_pend_of_masked hn (hreset.trans hr) (hmasked.trans hm)⟩

end

theorem State.freshBits_pos {s : State} {p : Page} {m : Nat}
    (h : ∃ b < 32, m.testBit b = true ∧ (s.rd (Hdr.evtMask p)).testBit b = false ∧ s.evt p b = true) : 0 < s.freshBits p m := by
  obtain ⟨b, hb, hm, hold, hraw⟩ := h
  exact List.countP_pos_iff.2 ⟨b, List.mem_range.2 hb, by simp [hm, hold, hraw]⟩

/-! ### EVT_ROUTE (R72) -/

/-- NUM and OFF with the written values. -/
def State.routePut (s : State) (p : Page) (v : Nat) : State := s.wrs [(Hdr.evtNum p, v % 128), (Hdr.evtOff p, v / 256 % 2)]

theorem State.evtRouteWrite_eq (s : State) (p : Page) (v : Nat) :
    s.evtRouteWrite p v =
      if s.pageEvent p && v / 256 % 2 == 0 && (v % 128 != s.rd (Hdr.evtNum p) || s.bit (Hdr.evtOff p)) then (s.routePut p v).message (v % 128)
      else s.routePut p v := by
  have hnum : bits v 6 0 = v % 128 := by simp [bits]
  have hoff : bits v 8 8 = v / 256 % 2 := by simp [bits]
  rw [State.evtRouteWrite, hnum, hoff]
  rfl

section
variable {p : Page} (s : State) (v : Nat)

theorem State.sendsOnly_evtRouteWrite :
    s.sendsOnly (s.evtRouteWrite p v) ([Hdr.evtNum p, Hdr.evtOff p] ++ (List.range 4).map Reg.msixPend) := by
  have hput : s.sendsOnly (s.routePut p v) ([Hdr.evtNum p, Hdr.evtOff p] ++ (List.range 4).map Reg.msixPend) :=
    State.sendsOnly_wr (State.sendsOnly_wr (s.sendsOnly_refl _) (by simp) _) (by simp) _
  rw [State.evtRouteWrite_eq]
  split
  · exact State.sendsOnly_message hput (Nat.mod_lt _ (by decide)) fun f => List.mem_append_right _
  · exact hput

/-- A route that stays sends nothing. -/
theorem State.evtRouteWrite_out_of_same (hv : v % 128 = s.rd (Hdr.evtNum p)) (ho : s.bit (Hdr.evtOff p) = false) :
    (s.evtRouteWrite p v).out = s.out := by
  rw [State.evtRouteWrite_eq, if_neg (by simp [hv, ho])]
  exact s.wrs_out _

variable (hp : p.ok = true)
include hp

/-- NUM and OFF hold the written values, whether a message follows or not. -/
theorem State.rd_evtRouteWrite :
    (s.evtRouteWrite p v).rd (Hdr.evtNum p) = v % 128 ∧ (s.evtRouteWrite p v).rd (Hdr.evtOff p) = v / 256 % 2 := by
  have hkeys : ([(Hdr.evtNum p, v % 128), (Hdr.evtOff p, v / 256 % 2)].map fun e => e.1.key).Nodup := by
    simp [Fld.key, Hdr.evtNum, Hdr.evtOff]
  have hnum : (s.routePut p v).rd (Hdr.evtNum p) = v % 128 :=
    (s.rd_wrs_of_mem hkeys (v := v % 128) (by simp)).trans (Nat.mod_mod _ _)
  have hoff : (s.routePut p v).rd (Hdr.evtOff p) = v / 256 % 2 :=
    (s.rd_wrs_of_mem hkeys (v := v / 256 % 2) (by simp)).trans (Nat.mod_mod _ _)
  have kept {f : Fld} (hf : f ∈ [Hdr.state p, Hdr.evtRaw p, Hdr.evtMask p, Hdr.evtNum p, Hdr.evtOff p, Hdr.raises p]) :
      ((s.routePut p v).message (v % 128)).rd f = (s.routePut p v).rd f :=
    State.rd_message_ne _ (Nat.mod_lt _ (by decide)) ((p.evtFields_header f hf).key_ne_msix hp).2
  rw [State.evtRouteWrite_eq]
  exact ⟨rd_ite ((kept (by simp)).trans hnum) hnum, rd_ite ((kept (by simp)).trans hoff) hoff⟩

/-- An asserted page event that moves, or whose route comes on, sends a message for its unmasked vector. -/
theorem State.evtRouteWrite_out_of_moved (hr : s.inReset pHST = false) (he : s.pageEvent p = true) (ho : v / 256 % 2 = 0)
    (hv : v % 128 ≠ s.rd (Hdr.evtNum p) ∨ s.bit (Hdr.evtOff p) = true) (hm : s.vectorMasked (v % 128) = false) :
    (s.evtRouteWrite p v).out = .msix (v % 128) :: s.out := by
  have hlt : v % 128 < 128 := Nat.mod_lt _ (by decide)
  have word_ne {f : Fld} (hf : f ∈ [Hdr.state p, Hdr.evtRaw p, Hdr.evtMask p, Hdr.evtNum p, Hdr.evtOff p, Hdr.raises p]) :
      (Reg.msixWord (v % 128) 3).key ≠ f.key := (((p.evtFields_header f hf).key_ne_msix hp).1 _ hlt 3 (by decide)).symm
  have hreset : (s.routePut p v).inReset pHST = false :=
    (State.inReset_congr (s.rd_wrs_ne _ (by simpa using ⟨pHST.state_key_ne_evt p _ (by simp), pHST.state_key_ne_evt p _ (by simp)⟩))).trans hr
  have hmasked : (s.routePut p v).vectorMasked (v % 128) = false :=
    (State.vectorMasked_congr (s.rd_wrs_ne _ (by simpa using ⟨word_ne (by simp), word_ne (by simp)⟩))).trans hm
  rw [State.evtRouteWrite_eq, if_pos (by simpa [he, ho] using hv), State.message_of_unmasked hreset hmasked]
  rfl

end

/-! ### The MSI-X table (R55, R72) -/

/-- The vector control word of vector n with its mask bit cleared. -/
def State.unmaskPut (s : State) (n : Nat) : State := s.wr (Reg.msixWord n 3) (clrBit (s.rd (Reg.msixWord n 3)) 0)

theorem State.vectorMasked_unmaskPut (s : State) (n : Nat) : (s.unmaskPut n).vectorMasked n = false := by
  rw [State.vectorMasked, State.unmaskPut, State.testBit_rd_wr s rfl _ (by decide), testBit_clrBit]
  simp

/-- Clearing the mask bit sends a pending message and takes its pending bit back. -/
theorem State.msixWrite_unmask (s : State) (n : Nat) :
    s.msixWrite n 3 (clrBit (s.rd (Reg.msixWord n 3)) 0) =
      if s.vectorMasked n = true ∧ (s.rd (Reg.msixPend (n / 32))).testBit (n % 32) = true then
        ((s.unmaskPut n).wr (Reg.msixPend (n / 32)) (clrBit (s.rd (Reg.msixPend (n / 32))) (n % 32))).emit (.msix n)
      else s.unmaskPut n := by
  have hmask := s.vectorMasked_unmaskPut n
  rw [State.unmaskPut] at hmask
  simp only [State.msixWrite, hmask, true_and, State.unmaskPut]

theorem exec_msixVectorUnmask {s : State} {ag : Agent} (hh : s.hears ag = true) (hr : s.inReset pHST = false) (vec : BitVec 7) :
    exec (.msixVectorUnmask ag vec) s =
      .next (s.msixWrite vec.toNat 3 (clrBit (s.rd (Reg.msixWord vec.toNat 3)) 0)).settle := by
  show execMsixVectorUnmask ag vec s = _
  simp [execMsixVectorUnmask, hh, hr, done]

/-- What MSIX_VECTOR_UNMASK leaves: the vector unmasked, and a pending message sent. -/
theorem State.msixWrite_unmask_spec (s : State) {n : Nat} (hn : n < 128) (u : State) (hu : u = s.msixWrite n 3 (clrBit (s.rd (Reg.msixWord n 3)) 0)) :
    s.sendsOnly u [Reg.msixWord n 3, Reg.msixPend (n / 32)] ∧ u.vectorMasked n = false ∧
      (s.vectorMasked n = true ∧ (s.rd (Reg.msixPend (n / 32))).testBit (n % 32) = true →
        u.out = .msix n :: s.out ∧ ∀ b < 32, (u.rd (Reg.msixPend (n / 32))).testBit b =
          (decide (b ≠ n % 32) && (s.rd (Reg.msixPend (n / 32))).testBit b)) ∧
      (s.vectorMasked n = false ∨ (s.rd (Reg.msixPend (n / 32))).testBit (n % 32) = false → u.out = s.out) := by
  have hput : s.sendsOnly (s.unmaskPut n) [Reg.msixWord n 3, Reg.msixPend (n / 32)] :=
    State.sendsOnly_wr (s.sendsOnly_refl _) (by simp) _
  rw [State.msixWrite_unmask] at hu
  split at hu
  next hpend =>
    subst hu
    refine ⟨State.sendsOnly_emit (State.sendsOnly_wr hput (by simp) _) _, ?_, fun _ => ⟨rfl, fun b hb => ?_⟩, fun h => ?_⟩
    · exact (State.vectorMasked_congr (State.rd_wr_ne _ (msixWord_key_ne_pend hn (by decide)) _)).trans (s.vectorMasked_unmaskPut n)
    · rw [State.req_emit, State.testBit_rd_wr _ rfl _ hb, testBit_clrBit]
    · obtain ⟨hm, hb⟩ := hpend
      simp [hm, hb] at h
  next hnone =>
    subst hu
    exact ⟨hput, s.vectorMasked_unmaskPut n, fun h => absurd h hnone, fun _ => rfl⟩

/-- Settles O14: the write of each register is a write of its fields and messages for one vector. -/
theorem masksAndRoutesMakeMessages : Obligations.MasksAndRoutesMakeMessages := by
  refine ⟨fun s ag p v hp hh hr hn => ⟨?_, ?_⟩, fun s ag vec hh hr => ?_⟩
  · obtain ⟨hframe, hkept⟩ := State.sendsOnly_evtMaskWrite hn v.toNat
    have hmask := State.rd_evtMaskWrite hn v.toNat hp
    refine ⟨s.evtMaskWrite p v.toNat, done_headerAccess hp hh _, hframe, hkept, hmask, s.evtMaskWrite_out_of_off v.toNat, ?_, ?_⟩
    · intro ho hm
      rw [hmask]
      exact State.evtMaskWrite_out_of_unmasked hn v.toNat hp hr ho hm
    · intro ho hm
      obtain ⟨hout, hpend⟩ := State.evtMaskWrite_of_masked hn v.toNat hp hr ho hm
      rw [hmask]
      exact ⟨hout, fun h => hpend (State.freshBits_pos h)⟩
  · obtain ⟨hframe, hkept⟩ := s.sendsOnly_evtRouteWrite (p := p) v.toNat
    obtain ⟨hnum, hoff⟩ := s.rd_evtRouteWrite v.toNat hp
    exact ⟨s.evtRouteWrite p v.toNat, done_headerAccess hp hh _, hframe, hkept, hnum, hoff,
      s.evtRouteWrite_out_of_moved v.toNat hp hr, s.evtRouteWrite_out_of_same v.toNat⟩
  · obtain ⟨⟨hframe, hkept⟩, hspec⟩ := s.msixWrite_unmask_spec vec.isLt _ rfl
    exact ⟨_, exec_msixVectorUnmask hh hr vec, hframe, hkept, hspec⟩

/-! ### An event (R67, R72) -/

/-- EVT_RAW with a bit set, and RAISES counted. -/
def State.marked (s : State) (p : Page) (b : Nat) : State :=
  (s.wr (Hdr.evtRaw p) (setBit (s.rd (Hdr.evtRaw p)) b)).satInc (Hdr.raises p) 1

/-- An event whose bit is not set marks it, and makes a message through an enabled bit and route. -/
theorem State.raise_of_clear {s : State} {p : Page} {b : Nat} (h : s.evt p b = false) (hn : s.rd (Hdr.evtNum p) < 128) :
    s.raise p b = if (s.rd (Hdr.evtMask p)).testBit b && !s.bit (Hdr.evtOff p) then (s.marked p b).message (s.rd (Hdr.evtNum p))
      else s.marked p b := by
  rw [State.raise, h, Nat.mod_eq_of_lt hn]
  rfl

theorem State.rd_marked_ne (s : State) (p : Page) (b : Nat) {g : Fld} (h1 : g.key ≠ (Hdr.evtRaw p).key) (h2 : g.key ≠ (Hdr.raises p).key) :
    (s.marked p b).rd g = s.rd g := by
  rw [State.marked, State.rd_satInc_ne _ h2, State.rd_wr_ne _ h1]

/-- RAISES counts one up and saturates. -/
theorem State.raises_marked (s : State) (p : Page) (b : Nat) : (s.marked p b).rd (Hdr.raises p) = min 0xFFFF (s.rd (Hdr.raises p) + 1) := by
  obtain ⟨hne, -⟩ := evtRaw_key_ne p
  have hcap (x : Nat) : min 0xFFFF x % 2 ^ 16 = min 0xFFFF x := Nat.mod_eq_of_lt (by omega)
  rw [State.marked, State.satInc, State.rd_wr_self, State.rd_wr_ne s hne.symm]
  exact hcap _

section
variable {s : State} {p : Page} {b : Nat} (hc : s.evt p b = false)
include hc

theorem State.evt_raise_eq {c : Nat} (h : c < 32) : (s.raise p b).evt p c = (decide (c = b) || s.evt p c) := by
  rw [State.evt, State.rd_evtRaw_raise s p b hc, Nat.testBit_mod_two_pow, testBit_setBit]
  simp [h, State.evt]

variable (hn : s.rd (Hdr.evtNum p) < 128)
include hn

theorem State.sendsOnly_raise : s.sendsOnly (s.raise p b) p.eventFields := by
  have hmark : s.sendsOnly (s.marked p b) p.eventFields :=
    State.sendsOnly_wr (State.sendsOnly_wr (s.sendsOnly_refl _) (by simp [Page.eventFields]) _) (by simp [Page.eventFields]) _
  rw [State.raise_of_clear hc hn]
  split
  · exact State.sendsOnly_message hmark hn fun f => List.mem_append_right _
  · exact hmark

/-- Nothing is sent for a bit that is not enabled, a page that is not routed or an endpoint in reset. -/
theorem State.raise_out_of_closed (h : (s.rd (Hdr.evtMask p)).testBit b = false ∨ s.bit (Hdr.evtOff p) = true ∨ s.inReset pHST = true) :
    (s.raise p b).out = s.out := by
  have hmark : (s.marked p b).inReset pHST = s.inReset pHST :=
    State.inReset_congr (s.rd_marked_ne p b (pHST.state_key_ne_evt p _ (by simp)) (pHST.state_key_ne_evt p _ (by simp)))
  rw [State.raise_of_clear hc hn]
  obtain h | h | h := h
  · rw [if_neg (by simp [h])]; rfl
  · rw [if_neg (by simp [h])]; rfl
  · rw [State.message_of_hstReset (hmark.trans h), ite_self]; rfl

variable (hp : p.ok = true)
include hp

theorem State.raises_raise : (s.raise p b).rd (Hdr.raises p) = min 0xFFFF (s.rd (Hdr.raises p) + 1) := by
  rw [State.raise_of_clear hc hn]
  refine rd_ite ?_ (s.raises_marked p b)
  rw [State.rd_message_ne _ hn ((p.evtFields_header _ (by simp)).key_ne_msix hp).2, s.raises_marked p b]

/-- An enabled bit of a routed page sends a message for its unmasked vector. -/
theorem State.raise_of_open (hm : (s.rd (Hdr.evtMask p)).testBit b = true) (ho : s.bit (Hdr.evtOff p) = false) (hr : s.inReset pHST = false)
    (hv : s.vectorMasked (s.rd (Hdr.evtNum p)) = false) : s.raise p b = (s.marked p b).emit (.msix (s.rd (Hdr.evtNum p))) := by
  have hreset : (s.marked p b).inReset pHST = s.inReset pHST :=
    State.inReset_congr (s.rd_marked_ne p b (pHST.state_key_ne_evt p _ (by simp)) (pHST.state_key_ne_evt p _ (by simp)))
  have word_ne {f : Fld} (hf : f ∈ [Hdr.state p, Hdr.evtRaw p, Hdr.evtMask p, Hdr.evtNum p, Hdr.evtOff p, Hdr.raises p]) :
      (Reg.msixWord (s.rd (Hdr.evtNum p)) 3).key ≠ f.key := (((p.evtFields_header f hf).key_ne_msix hp).1 _ hn 3 (by decide)).symm
  have hmasked : (s.marked p b).vectorMasked (s.rd (Hdr.evtNum p)) = s.vectorMasked (s.rd (Hdr.evtNum p)) :=
    State.vectorMasked_congr (s.rd_marked_ne p b (word_ne (by simp)) (word_ne (by simp)))
  rw [State.raise_of_clear hc hn, if_pos (by simp [hm, ho]), State.message_of_unmasked (hreset.trans hr) (hmasked.trans hv)]

end

/-- Settles O15: an event marks its bit and counts, and its message is sent or not by mask, route, endpoint and vector. -/
theorem raisingAnEvent : Obligations.RaisingAnEvent := by
  intro s p b hp _ hn
  refine ⟨fun h => if_pos h, fun hc => ?_⟩
  obtain ⟨hframe, hkept⟩ := State.sendsOnly_raise hc hn
  refine ⟨hframe, hkept, fun c => State.evt_raise_eq hc, fun _ => State.raises_raise hc hn hp, State.raise_out_of_closed hc hn, fun hm ho hr hv => ?_⟩
  rw [State.raise_of_open hc hn hp hm ho hr hv]
  have pend_ne {f : Fld} (hf : f ∈ [Hdr.state p, Hdr.evtRaw p, Hdr.evtMask p, Hdr.evtNum p, Hdr.evtOff p, Hdr.raises p]) {i : Nat} (hi : i < 4) :
      (Reg.msixPend i).key ≠ f.key := (((p.evtFields_header f hf).key_ne_msix hp).2 i hi).symm
  exact ⟨rfl, fun i hi => s.rd_marked_ne p b (pend_ne (by simp) hi) (pend_ne (by simp) hi)⟩

/-! ### The interrupt pins (R74) -/

theorem Page.ok_of_mem {p : Page} (h : p ∈ allPages) : p.ok = true := by
  obtain ⟨b, -, hp⟩ := List.mem_flatMap.1 h
  obtain ⟨n, hn, rfl⟩ := List.mem_map.1 hp
  exact decide_eq_true (List.mem_range.1 hn)

/-- What a device event rests on: the event, mask and route fields of the pages. -/
theorem State.deviceEvent_congr {s t : State}
    (h : ∀ q ∈ allPages, ∀ f ∈ [Hdr.evtRaw q, Hdr.evtMask q, Hdr.evtNum q, Hdr.evtOff q], t.rd f = s.rd f) (n : Nat) :
    t.deviceEvent n = s.deviceEvent n := by
  rw [Bool.eq_iff_iff]
  simp only [State.deviceEvent, List.any_eq_true]
  refine exists_congr fun q => and_congr_right fun hq => ?_
  obtain ⟨hraw, hmask, hnum, hoff, -⟩ : _ ∧ _ ∧ _ ∧ _ ∧ _ := by simpa only [List.forall_mem_cons] using h q hq
  simp only [State.pageEvent, State.bit, hraw, hmask, hnum, hoff]

/-- An interrupt pin is low for the device events that select it. -/
theorem State.irqLow_iff (s : State) (p : Nat) :
    s.irqLow p = true ↔ ∃ n < 128, (s.rd (irqSel n)).testBit 3 = true ∧ s.rd (irqSel n) % 4 = p ∧ s.deviceEvent n = true := by
  simp only [State.irqLow, List.any_eq_true, List.mem_range, Bool.and_eq_true, beq_iff_eq, and_assoc]

/-- A word outside GLB_IRQ_SEL and the page headers changes no pin. -/
theorem State.irqLow_wr (s : State) {f : Fld} (hsel : ∀ n < 128, (irqSel n).key ≠ f.key)
    (hhdr : ∀ q ∈ allPages, ∀ g, q.headerField g → g.key ≠ f.key) (v p : Nat) : (s.wr f v).irqLow p = s.irqLow p := by
  have hdev := State.deviceEvent_congr (s := s) (t := s.wr f v) fun q hq g hg =>
    s.rd_wr_ne (hhdr q hq g (q.evtFields_header g (by simp only [List.mem_cons] at hg ⊢; tauto))) v
  rw [Bool.eq_iff_iff, State.irqLow_iff, State.irqLow_iff]
  refine exists_congr fun n => and_congr_right fun hn => ?_
  rw [s.rd_wr_ne (hsel n hn), hdev]

/-- Settles O16: a pin is what its device events say, and these rest on no word of the MSI-X structures. -/
theorem interruptPinsFollowDeviceEvents : Obligations.InterruptPinsFollowDeviceEvents := by
  refine ⟨fun n _ => rfl, fun s p _ => ⟨s.irqLow_iff p, fun n w v hn hw => ⟨?_, ?_⟩⟩⟩
  · refine s.irqLow_wr (fun m hm => ?_) (fun q hq g hg => (hg.key_ne_msix (Page.ok_of_mem hq)).1 n hn w hw) v p
    simp only [Fld.key, irqSel, Reg.msixWord]
    omega
  · refine s.irqLow_wr (fun m hm => ?_) (fun q hq g hg => (hg.key_ne_msix (Page.ok_of_mem hq)).2 w hw) v p
    simp only [Fld.key, irqSel, Reg.msixPend]
    omega

end Sys2Proof.Machine
end

section
/-!
PROOFS. Block resets (R423, R428): what clearing a page's registers makes of every field, and the state right after a power-up
reset.
-/
namespace Sys2Proof.Machine

/-- A field stands at its address. -/
theorem Fld.key_div {f : Fld} (h : f.lo < 32) : f.key / 32 = f.addr := by
  rw [Fld.key]
  omega

/-- Clearing the registers at some addresses brings the fields there to their reset values. -/
theorem State.rd_clear_self (s : State) {c : Nat → Bool} {f : Fld} (hf : c f.addr = true) (hl : f.lo < 32) :
    ({ s with regs := s.regs.clear c } : State).rd f = f.reset :=
  s.regs.get_clear_self c ((congrArg c (Fld.key_div hl)).trans hf)

theorem State.rd_clearPage_self (s : State) {p : Page} {f : Fld} (hf : p.holds f.addr = true) (hl : f.lo < 32) :
    (s.clearPage p).rd f = f.reset :=
  s.rd_clear_self hf hl

/-- Clearing a page leaves the fields at other addresses as they were. -/
theorem State.rd_clearPage_of_outside (s : State) {p : Page} {f : Fld} (hf : p.holds f.addr = false) (hl : f.lo < 32) :
    (s.clearPage p).rd f = s.rd f :=
  s.regs.get_clear_of p.holds ((congrArg p.holds (Fld.key_div hl)).trans hf)

/-- The blocks whose reset clears their page alone. -/
def clearedAlone : List Block := [.lcy, .tim, .fab, .exp, .chk]

/-- The reset of such a block leaves the registers that clearing its page leaves. -/
theorem State.regs_resetBlock {p : Page} (h : p.block ∈ clearedAlone) (s : State) : (s.resetBlock p).regs = (s.clearPage p).regs := by
  obtain ⟨b, n⟩ := p
  simp only [clearedAlone, List.mem_cons, List.not_mem_nil, or_false] at h
  obtain rfl | rfl | rfl | rfl | rfl := h <;> rfl

/-- The blocks whose reset leaves every field of their page at its reset value, whatever else it ends. -/
theorem State.rd_resetBlock_self (s : State) {p : Page} {f : Fld} (h : p.block ∈ [Block.lcy, .tim, .fab, .exp, .cor, .dma, .chk, .led])
    (hp : p.ok = true) (hf : p.holds f.addr = true) (hl : f.lo < 32) : (s.resetBlock p).rd f = f.reset := by
  by_cases hc : p.block ∈ clearedAlone
  · rw [State.rd_congr (State.regs_resetBlock hc s), s.rd_clearPage_self hf hl]
  · obtain ⟨b, n⟩ := p
    have hb : b = .cor ∨ b = .dma ∨ b = .led := by
      simp only [clearedAlone, List.mem_cons, List.not_mem_nil, or_false] at h hc
      tauto
    obtain rfl | rfl | rfl := hb
    · have hn : n = 0 := Nat.lt_one_iff.1 (of_decide_eq_true hp)
      subst hn
      exact State.rd_clear_self _ (by simp [hf]) hl
    · exact State.rd_clearPage_self _ hf hl
    · exact State.rd_clearPage_self _ hf hl

/-- The header lies in its page. -/
theorem Page.holds_header (p : Page) {o : Nat} (ho : o < 0x400) : p.holds (p.base + o) = true := by
  obtain ⟨b, n⟩ := p
  have hsize : 0x400 ≤ b.pageSize := by cases b <;> decide
  simp only [Page.holds, Bool.and_eq_true, decide_eq_true_eq]
  omega

/-- Settles O20: each reset clears its page's registers, five of them nothing else. -/
theorem blockResetRestoresTheRegisters : Obligations.BlockResetRestoresTheRegisters := by
  intro s p f hp _
  refine ⟨fun hb hf hl => s.rd_resetBlock_self hb hp hf hl, fun hb hf hl => ?_, fun hb => ⟨?_, ?_, ?_, ?_⟩⟩
  · rw [State.rd_congr (State.regs_resetBlock hb s), s.rd_clearPage_of_outside hf hl]
  · exact s.rd_resetBlock_self hb hp (p.holds_header (by decide)) (by simp [Hdr.state])
  · exact s.rd_resetBlock_self hb hp (p.holds_header (by decide)) (by simp [Hdr.pendEn])
  · exact s.rd_resetBlock_self hb hp (p.holds_header (by decide)) (by simp [Hdr.quiesce])
  · exact s.rd_resetBlock_self hb hp (p.holds_header (by decide)) (by simp [Hdr.enable])

/-- Right after a power-up reset every field holds its reset value. -/
@[simp] theorem State.rd_reset (f : Fld) : State.reset.rd f = f.reset := rfl

theorem State.shaped_reset : State.reset.shaped :=
  ⟨⟨List.length_replicate, List.length_replicate, List.length_replicate⟩,
    ⟨List.length_replicate, List.length_replicate, List.length_replicate, List.length_replicate⟩,
    List.length_replicate, List.length_replicate, rfl, rfl, List.length_replicate⟩

/-- The permit is not asked for after reset. -/
theorem State.permitSafe_reset : State.reset.permitSafe = true := by
  simp [State.permitSafe, State.bit, Reg.GLB_PERMIT_REQ]

/-- Settles O8: every store is empty, and every header field holds its reset value. -/
theorem resetMeetsTheInvariants : Obligations.ResetMeetsTheInvariants := by
  refine ⟨⟨State.permitSafe_reset, rfl, State.shaped_reset, rfl, rfl, rfl⟩, fun p _ => ⟨rfl, rfl, rfl, rfl, rfl, rfl, rfl, rfl, ?_⟩⟩
  have henable : p.block.enabledAtReset = true ↔ p.block ∈ [Block.glb, .rck, .lcy, .ink, .tim, .hst] := by
    cases p.block <;> decide
  simp only [State.rd_reset, Hdr.enable, henable]

end Sys2Proof.Machine
end

section
/-!
PROOFS. Reserved values (R66): a write that places one is discarded whole, in a register and in a check unit's entry.
-/
namespace Sys2Proof.Machine

open Sys2Proof (Agent)

/-- A field whose table lists allowed ranges does not allow a value outside all of them. -/
theorem FieldDef.allows_of_outside {d : FieldDef} {x : Nat} (hl : d.legal ≠ []) (h : ∀ r ∈ d.legal, x < r.1 ∨ r.2 < x) : d.allows x = false := by
  simp only [FieldDef.allows, Bool.or_eq_false_iff, List.isEmpty_eq_false_iff, List.any_eq_false, Bool.and_eq_true, decide_eq_true_eq]
  refine ⟨hl, fun r hr => ?_⟩
  have := h r hr
  omega

/-- A write places a reserved value where some written field gets one outside its ranges. -/
theorem reservedIn_of_outside {fs : List (FieldDef × Fld)} {v : Nat}
    (h : ∃ e ∈ fs, e.1.acc ≠ .ro ∧ e.1.legal ≠ [] ∧ ∀ r ∈ e.1.legal, e.1.part v < r.1 ∨ r.2 < e.1.part v) : reservedIn fs v = true := by
  obtain ⟨e, he, hacc, hl, hout⟩ := h
  exact List.any_eq_true.2 ⟨e, he, by simp [hacc, FieldDef.allows_of_outside hl hout]⟩

/-- A write of a block register that reaches its page with a reserved value is discarded and reported. -/
theorem State.blockWrite_of_reserved {s : State} {ag : Agent} {p : Page} {off v : Nat} (hf : regFields p off ≠ []) (hr : s.reaches ag p)
    (hb : p.block ≠ .chk) (h : reservedIn (regFields p off) v = true ∨ s.reservedPair p off v = true) :
    s.blockWrite ag p off v = s.raise p 31 := by
  obtain ⟨-, hin, harm⟩ := hr
  obtain h | h := h <;> simp [State.blockWrite, hf, hin, hb, State.cfgAccess_of_unarmed harm, h]

/-- A pair of a check unit with a bit at or above W set is discarded. -/
theorem State.chkPairApply_of_wide {s : State} {n off lo hi : Nat} (ho : off ∈ [0x50, 0x58, 0x60, 0x68, 0x78])
    (hw : 2 ^ s.rd (Reg.CHK_CFG_WIDTH n) ≤ lo + 2 ^ 32 * hi) : s.chkPairApply n off (some lo) hi = s.raise (pCHK n) 31 := by
  simp only [List.mem_cons, List.not_mem_nil, or_false] at ho
  obtain rfl | rfl | rfl | rfl | rfl := ho <;> exact if_pos hw

/-- Settles O26: the register's and the unit's own checks come before anything lands. -/
theorem reservedValuesDiscardTheWholeWrite : Obligations.ReservedValuesDiscardTheWholeWrite := by
  refine ⟨fun s ag a v p hr ha hp ho hb hf hres => ?_, fun s n v lo hi off _ => ⟨fun h => if_pos h, fun h => if_pos h, State.chkPairApply_of_wide⟩⟩
  have hh : s.hears ag = true := hr.1
  rw [exec_registerWrite hh ha v (beq_self_eq_true _), State.busWrite_page hp, if_neg (Nat.not_lt.2 ho),
    State.blockWrite_of_reserved hf hr hb (hres.imp_left reservedIn_of_outside)]

end Sys2Proof.Machine
end

section
/-!
PROOFS. The summary of a reckoning (R80, R81): its length, and the places of the fields in its head, of the page records and of
the fields in its tail.
-/
namespace Sys2Proof.Machine

open Sys2Proof (Byte)

/-! ### Bytes of a value and slices of a byte string -/

@[simp] theorem length_leBytes (k v : Nat) : (leBytes k v).length = k := by
  induction k generalizing v with
  | zero => rfl
  | succ k ih => simp [leBytes, ih]

/-- The bytes of a value spell it, cut to their number. -/
@[simp] theorem leVal_leBytes (k v : Nat) : leVal (leBytes k v) = v % 256 ^ k := by
  induction k generalizing v with
  | zero => simp [leBytes, leVal, Nat.mod_one]
  | succ k ih =>
    have hpow : 256 ^ (k + 1) = 256 * 256 ^ k := Nat.pow_succ'
    rw [leBytes, leVal, ih, BitVec.toNat_ofNat, hpow]
    exact Nat.mod_mul.symm

/-- The slice that begins where one part ends and has the length of the next is that next part. -/
theorem slice_of_parts {l a b c : List Byte} {ofs n : Nat} (hl : l = a ++ (b ++ c)) (ha : a.length = ofs) (hb : b.length = n) :
    slice l ofs n = b := by
  subst hl ha hb
  simp [slice]

theorem leAt_of_parts {l a c : List Byte} {ofs k v : Nat} (hl : l = a ++ (leBytes k v ++ c)) (ha : a.length = ofs) :
    leAt l ofs k = v % 256 ^ k := by
  rw [leAt, slice_of_parts hl ha (length_leBytes k v), leVal_leBytes]

/-- Records of one length in a row. -/
theorem length_flatMap_const {α : Type} (f : α → List Byte) {k : Nat} (h : ∀ x, (f x).length = k) (l : List α) :
    (l.flatMap f).length = k * l.length := by
  simp [List.length_flatMap, h, Nat.mul_comm]

/-- The record of an entry stands after those of the entries before it. -/
theorem flatMap_split {α β : Type} (f : α → List β) {l : List α} {i : Nat} {x : α} (h : l[i]? = some x) :
    l.flatMap f = (l.take i).flatMap f ++ (f x ++ (l.drop (i + 1)).flatMap f) := by
  obtain ⟨hi, rfl⟩ := List.getElem?_eq_some_iff.1 h
  conv_lhs => rw [← List.take_append_drop i l, List.drop_eq_getElem_cons hi]
  rw [List.flatMap_append, List.flatMap_cons]

/-! ### The three parts of a summary -/

theorem State.length_reckHead (s : State) (tick : Bool) : (s.reckHead tick).length = 0x100 := by
  simp only [State.reckHead, List.length_append, length_leBytes, List.length_replicate, List.length_cons, List.length_nil]

@[simp] theorem length_posBytes (lo hi : Nat) : (posBytes lo hi).length = 8 := length_leBytes _ _

theorem length_allPages : allPages.length = 202 := by
  simp [allPages, Block.order, Block.pages, Block.instances]

theorem State.length_pageRecord (s : State) (p : Page) : (s.pageRecord p).length = 16 := by
  unfold State.pageRecord
  split <;> simp

theorem State.length_pageRecords (s : State) : (allPages.flatMap s.pageRecord).length = 0xCA0 := by
  rw [length_flatMap_const _ s.length_pageRecord, length_allPages]

theorem State.length_reckTail (s : State) : s.reckTail.length = 0x258 := by
  have hevents := length_flatMap_const (fun i => leBytes 4 (s.evtStatus i)) (fun i => length_leBytes 4 _) (List.range 4)
  simp only [State.reckTail, List.length_append, length_leBytes, length_posBytes, List.length_replicate, hevents, List.length_range]

theorem State.length_summary (s : State) (tick : Bool) : (s.summary tick).length = 0xFF8 := by
  rw [State.summary, List.length_append, List.length_append, s.length_reckHead, s.length_pageRecords, s.length_reckTail]

/-- The head begins with RECK, LAYOUT and PAGES, then SEQ, SOURCE and REQUESTER. -/
theorem State.summary_begins (s : State) (tick : Bool) : ∃ rest, s.summary tick =
    [0x52, 0x45, 0x43, 0x4B, 0x01, 0x00, 202, 0x00] ++ (leBytes 4 s.reck.seq ++ (leBytes 1 s.reck.source ++ (leBytes 1 s.reck.reqr ++ rest))) := by
  apply Exists.intro
  simp only [State.summary, State.reckHead, List.append_assoc]
  rfl

/-- The record of a page stands after the head and the records before it. -/
theorem State.summary_record (s : State) (tick : Bool) {i : Nat} {p : Page} (h : allPages[i]? = some p) :
    slice (s.summary tick) (0x100 + 16 * i) 16 = s.pageRecord p := by
  have hi : i < allPages.length := (List.getElem?_eq_some_iff.1 h).1
  refine slice_of_parts (a := s.reckHead tick ++ (allPages.take i).flatMap s.pageRecord)
    (c := (allPages.drop (i + 1)).flatMap s.pageRecord ++ s.reckTail) ?_ ?_ (s.length_pageRecord p)
  · rw [State.summary, flatMap_split s.pageRecord h]
    simp only [List.append_assoc]
  · rw [List.length_append, s.length_reckHead, length_flatMap_const _ s.length_pageRecord, List.length_take, Nat.min_eq_left hi.le]

/-- The tail's fields before K of PAK_STAT: position, the ticks counted, and what is in flight. -/
def State.reckTailFront (s : State) : List Byte :=
  posBytes (s.rd Reg.MOT_POS_X_LO_POS) (s.rd Reg.MOT_POS_X_HI_POS) ++ (posBytes (s.rd Reg.MOT_POS_Y_LO_POS) (s.rd Reg.MOT_POS_Y_HI_POS) ++
    (leBytes 4 (s.rd Reg.MOT_PLAN_TC_TC) ++ (leBytes 2 (s.ing.travellers.countP fun t => t.state != .free) ++
    (leBytes 1 (s.ing.travellers.countP fun t => t.slot.isSome && t.valid) ++ leBytes 1 (s.rd Reg.CMP_STAT_PAIRS)))))

theorem State.length_reckTailFront (s : State) : s.reckTailFront.length = 24 := by
  simp only [State.reckTailFront, List.length_append, length_leBytes, length_posBytes]

/-- K of PAK_STAT and then the life-cycle state follow in the tail. -/
theorem State.reckTail_status (s : State) :
    ∃ rest, s.reckTail = s.reckTailFront ++ (leBytes 1 (s.rd Reg.PAK_STAT_K) ++ (leBytes 1 (s.rd Reg.LCY_STATE_STATE) ++ rest)) := by
  apply Exists.intro
  simp only [State.reckTail, State.reckTailFront, List.append_assoc]
  rfl

/-- The page's record shows its state, its events, its faults and its counts; zeros where its island is not locked. -/
theorem State.pageRecord_eq (s : State) (p : Page) : s.pageRecord p =
    if s.islandLocked p.island then leBytes 4 (s.pageState p) ++ leBytes 4 (s.rd (Hdr.evtRaw p)) ++
      leBytes 4 (s.rd (Hdr.faultStat p)) ++ leBytes 4 (s.rd (Hdr.discards p) + 2 ^ 16 * s.rd (Hdr.raises p))
    else List.replicate 16 0 := rfl

/-- Settles O31: the summary is its head, the page records and its tail, each field standing after what comes before it. -/
theorem summariesHaveTheirLayout : Obligations.SummariesHaveTheirLayout := by
  intro s tick
  obtain ⟨rest, hseq⟩ := s.summary_begins tick
  have hsource := hseq.trans (List.append_assoc _ _ _).symm
  have hreqr := hsource.trans (List.append_assoc _ _ _).symm
  obtain ⟨rest', htail⟩ := s.reckTail_status
  have hk : s.summary tick = _ ++ (leBytes 1 (s.rd Reg.PAK_STAT_K) ++ (leBytes 1 (s.rd Reg.LCY_STATE_STATE) ++ rest')) :=
    (congrArg (s.reckHead tick ++ allPages.flatMap s.pageRecord ++ ·) htail).trans (List.append_assoc _ _ _).symm
  have hstate := hk.trans (List.append_assoc _ _ _).symm
  have hbefore : (s.reckHead tick ++ allPages.flatMap s.pageRecord ++ s.reckTailFront).length = 0xDB8 := by
    rw [List.length_append, List.length_append, s.length_reckHead, s.length_pageRecords, s.length_reckTailFront]
  refine ⟨s.length_summary tick, ?_, leAt_of_parts hseq rfl, leAt_of_parts hsource ?_, leAt_of_parts hreqr ?_, length_allPages,
    fun i p h => ?_, leAt_of_parts hk hbefore, leAt_of_parts hstate ?_⟩
  · rw [hseq]; rfl
  · rw [List.length_append, length_leBytes]; rfl
  · rw [List.length_append, List.length_append, length_leBytes, length_leBytes]; rfl
  · rw [s.summary_record tick h, s.pageRecord_eq]
  · rw [List.length_append, hbefore, length_leBytes]

end Sys2Proof.Machine
end

section
/-!
PROOFS. The page-state commands (R63, R64, R176, R180, R430, R431): what ENABLE, QUIESCE and RESET_REQ make of a page by its
STATE, and what ends its shut-down, its quiescing, its reset and its release.
-/
namespace Sys2Proof.Machine

open Sys2Proof (Agent)

/-- A command on a header field of an agent that is heard completes with what the header does. -/
theorem done_of_heard {s : State} {ag : Agent} {p : Page} (hp : p.ok = true) (hh : s.hears ag = true) (t : State) :
    done (if p.ok && s.hears ag then t else s) = .next t.settle :=
  done_headerAccess hp hh fun _ => t

/-- STATE is none of the fields of PAGE_CTRL. -/
theorem Page.state_key_ne_ctrl (p : Page) : ∀ f ∈ [Hdr.enable p, Hdr.quiesce p, Hdr.resetReq p], (Hdr.state p).key ≠ f.key := by
  simp only [List.forall_mem_cons, Fld.key, Hdr.state, Hdr.enable, Hdr.quiesce, Hdr.resetReq]
  refine ⟨?_, ?_, ?_, by simp⟩ <;> omega

section
variable {s : State} {ag : Agent} {p : Page} (hp : p.ok = true) (hh : s.hears ag = true)
include hp hh

theorem exec_pageEnable (v : Bool) : exec (.pageEnable ag p v) s = .next (s.enableWrite p v).settle := done_of_heard hp hh _

theorem exec_pageQuiesce (v : Bool) : exec (.pageQuiesce ag p v) s = .next (s.quiesceWrite p v).settle := done_of_heard hp hh _

theorem exec_resetReq : exec (.resetReq ag p) s = .next (s.resetReqWrite p).settle := done_of_heard hp hh _

end

/-! ### ENABLE (R63, R64, R345, R465) -/

section
variable {s : State} {p : Page}

/-- ENABLE = 1, the ledger ring fitting where the page is LED's. -/
theorem State.enableWrite_on (h : p.block ≠ .led ∨ s.ringFits = true) : s.enableWrite p true =
    if s.pstate p = stOFF then (s.wr (Hdr.enable p) 1).enterIdle p
    else if s.pstate p = stSTOPPING ∨ s.pstate p = stRESET ∨ s.pstate p = stRELEASING then (s.wr (Hdr.enable p) 1).wr (Hdr.pendEn p) 1
    else s.wr (Hdr.enable p) 1 := by
  have hfits : ¬ (p.block = .led ∧ s.bit (Hdr.enable p) = false ∧ s.ringFits = false) := by
    rintro ⟨hled, -, hring⟩
    simp [hled, hring] at h
  rw [State.enableWrite, if_pos rfl, if_neg hfits]

/-- ENABLE = 0, nothing holding the page where it is MEM's. -/
theorem State.enableWrite_off (h : p.block ≠ .mem ∨ s.pstate p < 3 ∨ s.memHeld = false) : s.enableWrite p false =
    if s.pstate p = stIDLE ∨ s.pstate p = stRUNNING ∨ s.pstate p = stQUIESCING ∨ s.pstate p = stQUIESCED then
      ((s.wrs [(Hdr.enable p, 0), (Hdr.pendEn p, 0)]).wr (Hdr.state p) stSTOPPING).beginShutdown p
    else s.wrs [(Hdr.enable p, 0), (Hdr.pendEn p, 0)] := by
  have hfree : ¬ (p.block = .mem ∧ 3 ≤ s.pstate p ∧ s.memHeld = true) := by
    rintro ⟨hmem, hup, hheld⟩
    obtain h | h | h := h
    · exact h hmem
    · omega
    · simp [hheld] at h
  rw [State.enableWrite, if_neg Bool.false_ne_true, if_neg hfree]

end

/-- Settles O17: the page's STATE selects the case of the table. -/
theorem pageEnableFollowsTheTable : Obligations.PageEnableFollowsTheTable := by
  intro s ag p hp hh
  refine ⟨fun hl => ?_, fun hm => ?_⟩
  · rw [exec_pageEnable hp hh, State.enableWrite_on hl]
    refine ⟨fun h => by rw [if_pos h], fun h => ?_, fun h => ?_⟩
    · have hoff : s.pstate p ≠ stOFF := by obtain h | h | h := h <;> simp [h]
      rw [if_neg hoff, if_pos h]
    · have hoff : s.pstate p ≠ stOFF := by obtain h | h | h | h := h <;> simp [h]
      have hdown : ¬ (s.pstate p = stSTOPPING ∨ s.pstate p = stRESET ∨ s.pstate p = stRELEASING) := by
        obtain h | h | h | h := h <;> simp [h]
      rw [if_neg hoff, if_neg hdown]
  · rw [exec_pageEnable hp hh, State.enableWrite_off hm]
    refine ⟨fun h => by rw [if_pos h], fun h => ?_⟩
    have hup : ¬ (s.pstate p = stIDLE ∨ s.pstate p = stRUNNING ∨ s.pstate p = stQUIESCING ∨ s.pstate p = stQUIESCED) := by
      obtain h | h | h | h := h <;> simp [h]
    rw [if_neg hup]

/-! ### QUIESCE and the ends of QUIESCING and STOPPING (R63) -/

section
variable (s : State) (p : Page)

theorem State.quiesceWrite_on : s.quiesceWrite p true =
    if s.pstate p = stIDLE then (s.wr (Hdr.quiesce p) 1).wr (Hdr.state p) stQUIESCED
    else if s.pstate p = stRUNNING then (s.wr (Hdr.quiesce p) 1).wr (Hdr.state p) stQUIESCING
    else s.wr (Hdr.quiesce p) 1 := by
  have hbit : (s.wr (Hdr.quiesce p) 1).bit (Hdr.quiesce p) = true := by rw [State.bit, State.rd_wr_self]; rfl
  have hst : (s.wr (Hdr.quiesce p) 1).pstate p = s.pstate p := s.rd_wr_ne (p.state_key_ne_ctrl _ (by simp)) 1
  show (s.wr (Hdr.quiesce p) 1).applyQuiesce p = _
  rw [State.applyQuiesce, hbit, hst, if_neg (by decide)]

theorem State.quiesceWrite_off : s.quiesceWrite p false =
    if s.pstate p = stQUIESCED then (s.wr (Hdr.quiesce p) 0).enterIdle p else s.wr (Hdr.quiesce p) 0 := rfl

end

section
variable {s : State} {p : Page} (hp : p.ok = true) (hw : s.workInHand p = false)
include hp hw

/-- A quiescing page with no work in hand. -/
theorem exec_quiesceComplete (hs : s.pstate p = stQUIESCING) : exec (.quiesceComplete p) s =
    .next (if s.bit (Hdr.quiesce p) = false then (s.wr (Hdr.state p) stQUIESCED).enterIdle p else s.wr (Hdr.state p) stQUIESCED).settle := by
  have hst : (s.wr (Hdr.state p) stQUIESCED).pstate p = stQUIESCED := by rw [State.pstate, State.rd_wr_self]; rfl
  have hq : (s.wr (Hdr.state p) stQUIESCED).bit (Hdr.quiesce p) = s.bit (Hdr.quiesce p) := by
    rw [State.bit, s.rd_wr_ne (p.state_key_ne_ctrl _ (by simp)).symm, State.bit]
  show execQuiesceComplete p s = _
  simp only [execQuiesceComplete, hp, hw, hs, hst, hq, if_true, true_and, Bool.true_eq_false, Bool.false_eq_true, or_self, if_false]
  rfl

/-- A stopping page with no work in hand comes up again or goes off. -/
theorem exec_shutdownComplete (hs : s.pstate p = stSTOPPING) : exec (.shutdownComplete p) s =
    .next ((if s.bit (Hdr.pendEn p) then s else s.wr (Hdr.enable p) 0).comeUp p).settle := by
  show execShutdownComplete p s = _
  rw [execShutdownComplete, hp, hw, hs]
  rfl

end

/-- A page whose enable is pending, or whose ENABLE is 1, comes up into IDLE. -/
theorem State.comeUp_of_enabled {s : State} {p : Page} (h : s.bit (Hdr.pendEn p) = true ∨ s.bit (Hdr.enable p) = true) :
    s.comeUp p = (s.wrs [(Hdr.pendRel p, 0), (Hdr.pendEn p, 0)]).enterIdle p := if_pos h

/-- Else it is off. -/
theorem State.comeUp_of_disabled {s : State} {p : Page} (hp : s.bit (Hdr.pendEn p) = false) (he : s.bit (Hdr.enable p) = false) :
    s.comeUp p = (s.wrs [(Hdr.pendRel p, 0), (Hdr.pendEn p, 0)]).wr (Hdr.state p) stOFF := if_neg (by simp [hp, he])

/-- Settles O18: QUIESCE by the page's STATE, and the two completions by QUIESCE and PEND_EN. -/
theorem pageQuiesceAndShutdownFollowTheTable : Obligations.PageQuiesceAndShutdownFollowTheTable := by
  intro s ag p hp
  refine ⟨fun hh => ?_, fun hw => ⟨fun hs hq => ?_, fun hs hq => ?_, fun hs he => ?_, fun hs he => ?_⟩⟩
  · rw [exec_pageQuiesce hp hh, exec_pageQuiesce hp hh, s.quiesceWrite_on p, s.quiesceWrite_off p]
    refine ⟨fun h => by rw [if_pos h], fun h => ?_, fun hi hr => by rw [if_neg hi, if_neg hr], fun h => by rw [if_pos h], fun h => by rw [if_neg h]⟩
    rw [if_neg (by simp [h]), if_pos h]
  · rw [exec_quiesceComplete hp hw hs, hq]
    rfl
  · rw [exec_quiesceComplete hp hw hs, if_pos (by simp [State.bit, hq])]
  · have hbit : s.bit (Hdr.pendEn p) = true := beq_iff_eq.2 he
    rw [exec_shutdownComplete hp hw hs, if_pos hbit, State.comeUp_of_enabled (.inl hbit)]
  · have hne : (Hdr.pendEn p).key ≠ (Hdr.enable p).key := by simp only [Fld.key, Hdr.pendEn, Hdr.enable]; omega
    have hpend : (s.wr (Hdr.enable p) 0).bit (Hdr.pendEn p) = false := by simp [State.bit, s.rd_wr_ne hne, he]
    have hen : (s.wr (Hdr.enable p) 0).bit (Hdr.enable p) = false := by simp [State.bit]
    rw [exec_shutdownComplete hp hw hs, if_neg (by simp [State.bit, he]), State.comeUp_of_disabled hpend hen]

/-! ### Reset, release and REJOIN (R63, R176, R180, R430, R431) -/

section
variable {s : State} {p : Page}

/-- RESET_REQ of a page that is not in RESET, but for RCK, INK and MEM. -/
theorem State.resetReqWrite_of_up (hr : p.block ≠ .rck) (hi : p.block ≠ .ink) (hm : p.block ≠ .mem) (hs : s.pstate p ≠ stRESET) :
    s.resetReqWrite p = (s.resetPage p).wr (Hdr.resetReq p) 1 := by
  rw [State.resetReqWrite, if_neg hr, if_neg hi, if_neg hs]
  exact if_neg hm

/-- BLOCK_RESET_RELEASE of a requested reset that nothing else holds. -/
theorem exec_blockResetRelease (hp : p.ok = true) (hq : s.rd (Hdr.resetReq p) = 1) (hc : s.refPresent p.island = true)
    (hm : (s.wr (Hdr.resetReq p) 0).mayRelease p = true) : exec (.blockResetRelease p) s =
      .next (if p.block = .mem then (List.range 4).foldl (fun t n => (t.releasePage (pMEM n)).setTmo (4 + n) false) s
        else (s.releasePage p).setTmo p.island false).settle := by
  have hreq : s.bit (Hdr.resetReq p) = true := beq_iff_eq.2 hq
  show execBlockResetRelease p s = _
  rw [execBlockResetRelease, hp, hreq, hc, hm]
  rfl

theorem exec_lockTimeout (hp : p.ok = true) (hs : s.pstate p = stRELEASING) : exec (.lockTimeout p) s =
    .next ((((s.wrs [(Hdr.state p, stRESET), (Hdr.pendRel p, 0)]).raise p 30).setTmo p.island true).releaseShow).settle := by
  show execLockTimeout p s = _
  rw [execLockTimeout, hp, hs]
  rfl

/-- An island that locks once the module has booted brings its releasing pages up. -/
theorem exec_islandLockHeld {i : Nat} (hi : i < 41) (hp : s.pwr.powered = true) (hc : s.refPresent i = true)
    (hr : i = 10 → s.pwr.perstRst = false) (hb : s.pwr.booted = true) : exec (.islandLockHeld i) s =
      .next ((islandPages i).foldl (fun v q => if v.pstate q = stRELEASING then v.comeUp q else v) (s.setLock i true)).releaseShow.settle := by
  have hheld : ¬ (41 ≤ i ∨ s.pwr.powered = false ∨ s.refPresent i = false ∨ (i = 10 ∧ s.pwr.perstRst = true)) := by
    rintro (h | h | h | ⟨h, h'⟩)
    · omega
    · simp [hp] at h
    · simp [hc] at h
    · simp [hr h] at h'
  show execIslandLockHeld i s = _
  rw [execIslandLockHeld, if_neg hheld, hb]
  rfl

/-- REJOIN of a retired engine. -/
theorem exec_rejoin {ag : Agent} {n : Nat} (hn : n < 52) (ha : s.reaches ag (pRAS n)) (hr : s.role n = roleRETIRED) :
    exec (.rejoin ag n) s = .next (((s.resetPage (pRAS n)).wr (Hdr.resetReq (pRAS n)) 1).wrs
      [(Reg.RAS_STRIKES_LEVEL n, s.rd Reg.CMP_CFG_RETIRE - 1), (Reg.RAS_STRIKES_TOTAL n, s.rd (Reg.RAS_STRIKES_TOTAL n))]).settle := by
  show execRejoin ag n s = _
  rw [execRejoin, if_neg (Nat.not_le.2 hn), State.access_of_reaches ha, State.rejoin, if_neg (not_not.2 hr)]
  rfl

end

/-- Settles O19, command by command: each meets its condition and does what the table says. -/
theorem blockResetAndReleaseFollowTheTable : Obligations.BlockResetAndReleaseFollowTheTable := by
  intro s ag p hp
  refine ⟨fun hh hrck hink hmem hs => ?_, fun hq hc hm => ⟨fun hmem hs => ?_, fun hmem => ?_⟩, exec_lockTimeout hp,
    fun i => exec_islandLockHeld, fun n => exec_rejoin⟩
  · rw [exec_resetReq hp hh, State.resetReqWrite_of_up hrck hink hmem hs]
  · rw [exec_blockResetRelease hp hq hc hm, if_neg hmem, State.releasePage, if_pos hs]
  · rw [exec_blockResetRelease hp hq hc hm, if_pos hmem]

end Sys2Proof.Machine
end

section
/-!
PROOFS. Reckoning (R75 to R79): a request starts, is queued or is merged; the capture; and the completion of a summary.
-/
namespace Sys2Proof.Machine

open Sys2Proof (Agent Byte)

/-- SOURCE of a request: 1 for the innkeeper, else 0 (R76). -/
def reckSource (ag : Agent) : Nat := if ag = .innkeeper then 1 else 0

/-- A request of an agent serves no peer. -/
theorem addPeer_of_agent (l : List Nat) (ag : Agent) (reqr : Nat) : addPeer l (reckSource ag) reqr = l := by
  cases ag <;> rfl

theorem exec_reckonReq {s : State} {ag : Agent} (ha : s.reaches ag pGLB) : exec (.reckonReq ag) s = .next (s.reckonWrite ag).settle := by
  show done (s.access ag pGLB fun s => s.reckonWrite ag) = _
  rw [State.access_of_reaches ha]
  rfl

/-! ### A request (R76) -/

section
variable {s : State} (ag : Agent)

/-- With nothing being assembled the request starts. -/
theorem State.reckonWrite_of_idle (hb : s.rd Reg.GLB_RECKON_BUSY = 0) : s.reckonWrite ag = { s.wr Reg.GLB_RECKON_BUSY 1 with
    reck := { s.reck with source := reckSource ag, reqr := 0xFF, captured := none, peers := [] } } := by
  have hbit : s.bit Reg.GLB_RECKON_BUSY = false := by simp [State.bit, hb]
  show (if s.bit Reg.GLB_RECKON_BUSY then s.wr Reg.GLB_RECKON_REQ 1 else s).reckon (reckSource ag) 0xFF = _
  rw [hbit, if_neg Bool.false_ne_true, State.reckon, if_pos hb, addPeer_of_agent]

variable (hb : s.rd Reg.GLB_RECKON_BUSY = 1)
include hb

/-- Behind an assembly REQ reads 1 and the request follows. -/
theorem State.reckonWrite_of_busy : s.reckonWrite ag = (s.wr Reg.GLB_RECKON_REQ 1).reckon (reckSource ag) 0xFF ∧
    (s.wr Reg.GLB_RECKON_REQ 1).rd Reg.GLB_RECKON_BUSY ≠ 0 := by
  have hbit : s.bit Reg.GLB_RECKON_BUSY = true := beq_iff_eq.2 hb
  refine ⟨?_, ?_⟩
  · show (if s.bit Reg.GLB_RECKON_BUSY then s.wr Reg.GLB_RECKON_REQ 1 else s).reckon (reckSource ag) 0xFF = _
    rw [hbit, if_pos rfl]
  · rw [s.rd_wr_ne (by decide), hb]
    decide

/-- It waits where none is queued. -/
theorem State.reckonWrite_of_none_queued (hq : s.rd Reg.GLB_RECKON_PEND = 0) (hm : s.pwr.modPhase = .none) :
    s.reckonWrite ag = { (s.wr Reg.GLB_RECKON_REQ 1).wr Reg.GLB_RECKON_PEND 1 with
      reck := { s.reck with qSource := reckSource ag, qReqr := 0xFF, qPeers := [] } } := by
  obtain ⟨he, hbusy⟩ := State.reckonWrite_of_busy ag hb
  have hq' : (s.wr Reg.GLB_RECKON_REQ 1).rd Reg.GLB_RECKON_PEND = 0 := (s.rd_wr_ne (by decide) 1).trans hq
  rw [he, State.reckon, if_neg hbusy, if_pos hq', if_neg (by simp [hm]), addPeer_of_agent]
  rfl

/-- It is merged with one that is queued. -/
theorem State.reckonWrite_of_queued (hq : s.rd Reg.GLB_RECKON_PEND = 1) :
    s.reckonWrite ag = (s.wr Reg.GLB_RECKON_REQ 1).raise pGLB 3 := by
  obtain ⟨he, hbusy⟩ := State.reckonWrite_of_busy ag hb
  have hq' : (s.wr Reg.GLB_RECKON_REQ 1).rd Reg.GLB_RECKON_PEND ≠ 0 := by
    rw [s.rd_wr_ne (by decide), hq]
    decide
  rw [he, State.reckon, if_neg hbusy, if_neg hq', addPeer_of_agent]

end

/-! ### Capture and completion (R78, R79) -/

theorem exec_reckoningCapture {s : State} (hb : s.rd Reg.GLB_RECKON_BUSY = 1) (hc : s.reck.captured = none) (tick : Bool) :
    exec (.reckoningCapture tick) s =
      .next ({ s with reck := { s.reck with captured := some (s.summary (tick && s.mot.writing)) } } : State).settle := by
  have hbit : s.bit Reg.GLB_RECKON_BUSY = true := beq_iff_eq.2 hb
  show execReckoningCapture tick s = _
  rw [execReckoningCapture, hbit, hc]
  rfl

theorem exec_reckoningComplete {s : State} {body : List Byte} (hc : s.reck.captured = some body) :
    exec .reckoningComplete s = .next (s.reckComplete body).settle := by
  show execReckoningComplete s = _
  rw [execReckoningComplete, hc]
  rfl

/-- A summary with its CHECK (R80). -/
def checked (body : List Byte) : List Byte := body ++ leBytes 8 (crc64.of body)

/-- The buffer with a checked summary in its slot, and SEQ counted. -/
def State.reckStored (s : State) (body : List Byte) : State :=
  { s with reck := { s.reck with
    seq := (s.reck.seq + 1) % 2 ^ 32
    slot0 := if s.reckSlot = 0 then checked body else s.reck.slot0
    slot1 := if s.reckSlot = 0 then s.reck.slot1 else checked body } }

/-- What GLB_RECKON shows of a completed summary. -/
def State.reckShown (s : State) : List (Fld × Nat) :=
  [(Reg.GLB_RECKON_SLOT, s.reckSlot), (Reg.GLB_RECKON_LAST_SEQ, s.reck.seq), (Reg.GLB_RECKON_VALID, 1)]

/-- None of the fields of GLB_RECKON is an event field of GLB. -/
theorem reckonFields_not_event : ∀ f ∈ [Reg.GLB_RECKON_SLOT, Reg.GLB_RECKON_LAST_SEQ, Reg.GLB_RECKON_VALID, Reg.GLB_RECKON_PEND],
    ∀ g ∈ pGLB.eventFields, f.key ≠ g.key := by decide

/-- The state once a summary is stored, shown and reported. -/
def State.reckReported (s : State) (body : List Byte) : State := ((s.reckStored body).wrs s.reckShown).raise pGLB 2

/-- With no peer to serve the next request begins at once. -/
theorem State.reckComplete_of_no_peers {s : State} (hp : s.reck.peers = []) (body : List Byte) :
    s.reckComplete body = (s.reckReported body).reckNext := by
  rw [State.reckComplete, hp]
  rfl

/-- With no request queued the assembly ends. -/
theorem State.reckNext_of_none_queued {s : State} (hq : s.rd Reg.GLB_RECKON_PEND = 0) : s.reckNext =
    { s.wrs [(Reg.GLB_RECKON_BUSY, 0), (Reg.GLB_RECKON_REQ, 0)] with reck := { s.reck with captured := none, peers := [] } } := by
  rw [State.reckNext, if_neg (by simp [State.bit, hq])]

@[simp] theorem State.raise_reck (s : State) (p : Page) (b : Nat) : (s.raise p b).reck = s.reck := by
  have h : Steps (· ≠ Part.reck) s (s.raise p b) := State.raise_steps (by decide) (Steps.refl _ s) p b
  exact (h.kept .reck).resolve_left fun hne => hne rfl

theorem State.reckReported_reck (s : State) (body : List Byte) : (s.reckReported body).reck = (s.reckStored body).reck := by
  rw [State.reckReported, State.raise_reck, State.wrs_reck]

/-- GLB_RECKON shows the completed summary once it is reported. -/
theorem State.rd_reckReported (s : State) (body : List Byte) {f : Fld} {x : Nat} (he : (f, x) ∈ s.reckShown) :
    (s.reckReported body).rd f = x % 2 ^ f.width := by
  have hkeys : (s.reckShown.map fun e => e.1.key).Nodup := by
    show [Reg.GLB_RECKON_SLOT.key, Reg.GLB_RECKON_LAST_SEQ.key, Reg.GLB_RECKON_VALID.key].Nodup
    decide
  have hf : f ∈ [Reg.GLB_RECKON_SLOT, Reg.GLB_RECKON_LAST_SEQ, Reg.GLB_RECKON_VALID, Reg.GLB_RECKON_PEND] :=
    List.mem_append_left [Reg.GLB_RECKON_PEND] (List.mem_map_of_mem (f := Prod.fst) he)
  rw [State.reckReported, State.rd_raise_ne _ _ _ (reckonFields_not_event f hf), State.rd_wrs_of_mem _ hkeys he]

/-- The report leaves the queued request as it was. -/
theorem State.pend_reckReported (s : State) (body : List Byte) : (s.reckReported body).rd Reg.GLB_RECKON_PEND = s.rd Reg.GLB_RECKON_PEND := by
  have hshown : ∀ e ∈ s.reckShown, Reg.GLB_RECKON_PEND.key ≠ e.1.key := by
    simp only [State.reckShown, List.forall_mem_cons]
    decide
  rw [State.reckReported, State.rd_raise_ne _ _ _ (reckonFields_not_event _ (by simp)), State.rd_wrs_ne _ _ hshown]
  rfl

/-- The slot a summary is written into, by VALID and SLOT. -/
theorem State.reckSlot_eq (s : State) :
    s.reckSlot = if s.rd Reg.GLB_RECKON_VALID = 1 then 1 - s.rd Reg.GLB_RECKON_SLOT else 0 := by
  simp only [State.reckSlot, State.bit, beq_iff_eq]

/-- What a completion with no peer to serve and none queued leaves: the buffer, GLB_RECKON and the report of EVT_RAW[2]. -/
theorem State.reckNext_reported {s : State} (hq : s.rd Reg.GLB_RECKON_PEND = 0) (body : List Byte) :
    let u := (s.reckReported body).reckNext
    u.reck = { (s.reckStored body).reck with captured := none, peers := [] } ∧ u.rd Reg.GLB_RECKON_SLOT = s.reckSlot % 2 ∧
      u.rd Reg.GLB_RECKON_LAST_SEQ = s.reck.seq % 2 ^ 16 ∧ u.rd Reg.GLB_RECKON_VALID = 1 ∧ u.evt pGLB 2 = true ∧ u.rd Reg.GLB_RECKON_BUSY = 0 := by
  have hnext := State.reckNext_of_none_queued ((s.pend_reckReported body).trans hq)
  have kept {f : Fld} (hb : f.key ≠ Reg.GLB_RECKON_BUSY.key) (hr : f.key ≠ Reg.GLB_RECKON_REQ.key) :
      (s.reckReported body).reckNext.rd f = (s.reckReported body).rd f := by
    rw [hnext]
    exact State.rd_wrs_ne _ _ (by simpa using ⟨hb, hr⟩)
  have shown {f : Fld} {x : Nat} (hb : f.key ≠ Reg.GLB_RECKON_BUSY.key) (hr : f.key ≠ Reg.GLB_RECKON_REQ.key) (he : (f, x) ∈ s.reckShown) :
      (s.reckReported body).reckNext.rd f = x % 2 ^ f.width := (kept hb hr).trans (s.rd_reckReported body he)
  refine ⟨?_, shown (by decide) (by decide) (by simp [State.reckShown]), shown (by decide) (by decide) (by simp [State.reckShown]),
    shown (x := 1) (by decide) (by decide) (by simp [State.reckShown]), ?_, ?_⟩
  · rw [hnext, s.reckReported_reck]
  · rw [State.evt, kept (by decide) (by decide)]
    exact State.evt_raise _ pGLB (by decide)
  · have hne : Reg.GLB_RECKON_BUSY.key ≠ Reg.GLB_RECKON_REQ.key := by decide
    rw [hnext]
    exact State.rd_wrs_of_mem (s.reckReported body) (l := [(Reg.GLB_RECKON_BUSY, 0), (Reg.GLB_RECKON_REQ, 0)]) (v := 0) (by simpa using hne) (by simp)

/-- Settles O30: the request by BUSY and PEND, the capture, and the completion into the free slot. -/
theorem reckoningRequestsQueueAndMerge : Obligations.ReckoningRequestsQueueAndMerge := by
  intro s ag tick
  refine ⟨fun ha => ?_, fun hb hc => exec_reckoningCapture hb hc tick, fun body hc hp hq => ?_⟩
  · rw [exec_reckonReq ha]
    refine ⟨fun hb => ?_, fun hb hq hm => ?_, fun hb hq => ?_⟩
    · rw [State.reckonWrite_of_idle ag hb]
      rfl
    · rw [State.reckonWrite_of_none_queued ag hb hq hm]
      rfl
    · rw [State.reckonWrite_of_queued ag hb hq]
  · obtain ⟨hreck, hshown⟩ := State.reckNext_reported hq body
    dsimp only
    rw [← s.reckSlot_eq]
    refine ⟨(s.reckReported body).reckNext, (exec_reckoningComplete hc).trans (by rw [State.reckComplete_of_no_peers hp]), ?_, ?_, ?_⟩
    · rw [hreck]
      split
      next h => exact ⟨if_pos h, if_pos h⟩
      next h => exact ⟨if_neg h, if_neg h⟩
    · rw [hreck]
      rfl
    · obtain ⟨hslot, hseq, hvalid, hevt, hbusy⟩ := hshown
      exact ⟨hslot, hseq, hvalid, hevt, hbusy, by rw [hreck]⟩

end Sys2Proof.Machine
end

section
/-!
PROOFS. Deliveries and repairs (R118 to R121, R146), check blocks (R113 to R115) and the layout handles that are freed or
whose index is rebuilt (R124, R145): what each command does where its condition holds.
-/
namespace Sys2Proof.Machine

open Sys2Proof (Agent Byte)

/-! ### Opening and ending (R118, R121, R146) -/

/-- With nothing in hand and the handle empty a delivery is opened at offset 0. -/
theorem State.deliveryStart_opens {s : State} {h src : Nat} (hsrc : src ≠ 3) (hr : s.ing.repair = none)
    (hd : s.ing.delivery = none) (hl : (s.lay h).state = .empty) :
    s.deliveryStart h src =
      ((((((s.loadFields h src false).wr Reg.ING_LOAD_RESULT 0).wr Reg.ING_IFS_STAT_STREAM 1).showResume 0).modLay h
        fun l => { l with state := .receiving }).setDelivery (some { handle := h, source := src })).ingShow := by
  simp [State.deliveryStart, hsrc, hr, hd, hl]

/-- With no repair in hand a repair is opened at the handle's oldest damaged block; STREAM is kept for its end. -/
theorem State.repairStart_opens {s : State} {h src o : Nat} (hsrc : src ≠ 3) (hr : s.ing.repair = none)
    (ho : s.damagedOf h = some o) :
    s.repairStart h src =
      ((((((s.loadFields h src true).wr Reg.ING_LOAD_RESULT 0).wr Reg.ING_IFS_STAT_STREAM 1).wr Reg.ING_IFS_ERR_TRIES 0).showResume o).setRepair
        (some { handle := h, source := src, offset := o, stream := s.rd Reg.ING_IFS_STAT_STREAM })).ingShow := by
  simp [State.repairStart, hsrc, hr, ho]

/-- FREE of a handle in use by nothing ends its survey, and frees its layout, map and workspace. -/
theorem State.freeLayout_of_idle {s : State} {h : Nat} (hl : (s.lay h).state ≠ .empty) (hb : s.handleBusy h = false) :
    s.freeLayout h =
      ((if s.surveyBusy && s.rd Reg.SRV_STAT_HANDLE == h then (s.freeGo h).srvAborted else s.freeGo h).clearDesc h).dmgShow.nextRepair := by
  simp [State.freeLayout, hl, hb]

section
variable {s : State} {ag : Agent} (ha : s.reaches ag pING)
include ha

theorem exec_deliveryStart (h : BitVec 4) (src : BitVec 2) :
    exec (.deliveryStart ag h src) s = .next (s.deliveryStart h.toNat src.toNat).settle := by
  show done (s.access ag pING fun s => s.deliveryStart h.toNat src.toNat) = _
  rw [State.access_of_reaches ha]
  rfl

theorem exec_repairStart (h : BitVec 4) (src : BitVec 2) :
    exec (.repairStart ag h src) s = .next (s.repairStart h.toNat src.toNat).settle := by
  show done (s.access ag pING fun s => s.repairStart h.toNat src.toNat) = _
  rw [State.access_of_reaches ha]
  rfl

theorem exec_deliveryAbort : exec (.deliveryAbort ag) s = .next s.deliveryAbort.settle := by
  show done (s.access ag pING State.deliveryAbort) = _
  rw [State.access_of_reaches ha]
  rfl

theorem exec_freeLayout (h : BitVec 4) : exec (.freeLayout ag h) s = .next (s.freeLayout h.toNat).settle := by
  show done (s.access ag pING fun s => s.freeLayout h.toNat) = _
  rw [State.access_of_reaches ha]
  rfl

end

/-! ### Bytes and blocks (R113, R114, R119, R120) -/

/-- Bytes of the source and handle in hand at the resume offset are taken while a staging buffer is free. -/
theorem State.ingestOffer_taken {s : State} {d : Delivery} {handle : Nat} (hs : s.inReset pING = false) (hr : s.ing.repair = none)
    (hd : s.ing.delivery = some d) (hh : d.source = 0 ∨ d.handle = handle) (hroom : d.room = true) (bytes : List Byte) :
    s.ingestOffer d.source handle d.resume bytes =
      (s.setDelivery (some { d with buf := d.buf ++ bytes, resume := d.resume + bytes.length })).showResume (d.resume + bytes.length) := by
  simp [State.ingestOffer, hs, hr, hd, hh, hroom]

/-- A good block with the expected BLOCK_SEQ, past the first, is staged. -/
theorem State.blockFound_expected {s : State} {d : Delivery} {n : Nat}
    (hcrc : crc64.of ((d.buf.take n).take (n - 8)) = leAt (d.buf.take n) (n - 8) 8) (hseq : leAt (d.buf.take n) (n - 12) 4 = d.expSeq)
    (h0 : d.expSeq ≠ 0) :
    s.blockFound d n = (s.wr Reg.ING_IFS_ERR_TRIES 0).setDelivery (some { d with
      buf := d.buf.drop n, bufOfs := d.bufOfs + n, staged := d.staged ++ [(d.bufOfs, d.buf.take n)],
      expSeq := d.expSeq + 1, tries := 0 }) := by
  simp [State.blockFound, hcrc, hseq, h0]

/-- A block with a bad CRC64 is block failure 1. -/
theorem State.blockFound_badCrc {s : State} {d : Delivery} {n : Nat}
    (hcrc : crc64.of ((d.buf.take n).take (n - 8)) ≠ leAt (d.buf.take n) (n - 8) 8) : s.blockFound d n = s.blockFails d 1 := by
  rw [State.blockFound]
  exact if_pos hcrc

section
variable {s : State} {d : Delivery} (hs : s.inReset pING = false) (hd : s.ing.delivery = some d)
include hs hd

/-- The block found at the head of what a delivery has received is judged. -/
theorem exec_blockReceived_found {n : Nat} (hr : s.ing.repair = none) (hn : locate 16384 0 d.buf = .found n) :
    exec .blockReceived s = .next (s.blockFound d n).settle := by
  show execBlockReceived s = _
  simp [execBlockReceived, hs, hr, hd, hn, done]

variable {ofs : Nat} {blk : List Byte} {rest : List (Nat × List Byte)} (hst : d.staged = (ofs, blk) :: rest) {x : Interp}
include hst

/-- A staged block with no malformed record is filed. -/
theorem exec_blockInterpreted_filed (hx : Interp.run (s.lsFree4k * 4096) d.interp (blockRecs 16384 ofs blk) = (x, none)) :
    exec .blockInterpreted s = .next (s.blockFiled d ofs blk x).settle := by
  show execBlockInterpreted s = _
  simp only [execBlockInterpreted, hs, hd, hst, hx, done]

/-- A staged block with a malformed record rejects the stream at that record. -/
theorem exec_blockInterpreted_rejected {r : Rec} {c : Nat}
    (hx : Interp.run (s.lsFree4k * 4096) d.interp (blockRecs 16384 ofs blk) = (x, some (r, c))) :
    exec .blockInterpreted s = .next (s.reject { d with expSeq := leAt blk (blk.length - 12) 4 } c r.type r.ofs).settle := by
  show execBlockInterpreted s = _
  simp only [execBlockInterpreted, hs, hd, hst, hx, done]

end

theorem exec_stagingBufferFree {s : State} {d : Delivery} (hd : s.ing.delivery = some d) :
    exec .stagingBufferFree s = .next (s.setDelivery (some { d with freeing := d.freeing - 1 })).settle := by
  show execStagingBufferFree s = _
  rw [execStagingBufferFree, hd]
  rfl

/-! ### The index of a layout (R145) -/

/-- What a change of a handle leaves there, for a handle of the table. -/
theorem State.lay_modLay_self {s : State} {h : Nat} (hh : h < s.ing.layouts.length) (f : Layout → Layout) :
    (s.modLay h f).lay h = f (s.lay h) := by
  simp [State.lay, State.modLay, modAt, hh]

/-- A traveller that waited for a handle's index waits no longer. -/
def Traveller.indexBack (h : Nat) (v : Traveller) : Traveller :=
  if v.handle = h ∧ v.damage = some indexMark then { v with damage := none } else v

/-- No traveller of the handle waits for the index afterwards. -/
theorem Traveller.damage_indexBack {h : Nat} {v : Traveller} (hv : (v.indexBack h).handle = h) :
    (v.indexBack h).damage ≠ some indexMark := by
  unfold Traveller.indexBack at hv ⊢
  split_ifs at hv ⊢ with hw
  · exact fun heq => nomatch heq
  · exact fun hdmg => hw ⟨hv, hdmg⟩

/-- The code words of a handle's space beyond its stream, where its index stands. -/
def State.indexWords (s : State) (h : Nat) : List Nat :=
  ((List.range ((s.lay h).pages.length * 32768)).filter fun i => decide ((s.lay h).bytes ≤ 32 * i)).map fun i => (s.lay h).addr (32 * i) / 32

/-- The index of a handle is whole again: its words are good and no traveller waits for it. -/
def State.indexRebuilt (s : State) (h : Nat) : State :=
  let t := (s.modLay h fun l => { l with indexDamaged := false }).wordsGood (s.indexWords h)
  { t with ing := { t.ing with travellers := t.ing.travellers.map (Traveller.indexBack h) } }

theorem exec_indexRebuildComplete {s : State} {h : BitVec 4} (hs : s.inReset pING = false) (hi : (s.lay h.toNat).indexDamaged = true) :
    exec (.indexRebuildComplete h) s = .next (s.indexRebuilt h.toNat).settle := by
  have hgo : ¬ ((!(s.lay h.toNat).indexDamaged) = true ∨ s.inReset pING = true) := by simp [hi, hs]
  show execIndexRebuildComplete h s = _
  rw [execIndexRebuildComplete]
  exact if_neg hgo

/-- The good words and the travellers concern no layout handle. -/
theorem State.lay_indexRebuilt (s : State) (h : Nat) :
    (s.indexRebuilt h).lay h = (s.modLay h fun l => { l with indexDamaged := false }).lay h := rfl

theorem State.travellers_indexRebuilt (s : State) (h : Nat) :
    (s.indexRebuilt h).ing.travellers = s.ing.travellers.map (Traveller.indexBack h) := rfl

/-- Settles O43, command by command: where its condition holds, each does what chapters 4 and 5 say. -/
theorem deliveriesAndBlocksComplete : Obligations.DeliveriesAndBlocksComplete := by
  refine ⟨fun s ag h src ha hsrc hr => ⟨fun hd hl => ?_, fun o ho => ?_⟩,
    fun s ag ha => ⟨fun r hr => ?_, fun d hr hd => ?_, fun h hl hb => ?_⟩,
    fun s d hs hd => ⟨fun handle bytes hr hh hroom => ?_, fun n hr hn => ⟨fun hcrc hseq h0 => ?_, fun hcrc => ?_⟩,
      fun ofs blk rest hst => ⟨fun x => exec_blockInterpreted_filed hs hd hst, fun x r c => exec_blockInterpreted_rejected hs hd hst⟩,
      exec_stagingBufferFree hd⟩,
    fun s => ⟨_, rfl, rfl, rfl⟩, fun s h hs hi hh => ⟨s.indexRebuilt h.toNat, exec_indexRebuildComplete hs hi, ?_, ?_⟩⟩
  · rw [exec_deliveryStart ha, State.deliveryStart_opens hsrc hr hd hl]
  · rw [exec_repairStart ha, State.repairStart_opens hsrc hr ho]
  · rw [exec_deliveryAbort ha, State.deliveryAbort, hr]
  · rw [exec_deliveryAbort ha, State.deliveryAbort, hr, hd]
  · rw [exec_freeLayout ha, State.freeLayout_of_idle hl hb]
  · show done (s.ingestOffer d.source handle d.resume bytes) = _
    rw [State.ingestOffer_taken hs hr hd hh hroom]
    rfl
  · rw [exec_blockReceived_found hs hd hr hn, State.blockFound_expected hcrc hseq h0]
  · rw [exec_blockReceived_found hs hd hr hn, State.blockFound_badCrc hcrc]
  · rw [State.lay_indexRebuilt, State.lay_modLay_self hh]
  · rw [State.travellers_indexRebuilt, List.forall_mem_map]
    exact fun v _ hv => Traveller.damage_indexBack hv

end Sys2Proof.Machine
end

section
/-!
PROOFS. Every step keeps the numbers of things: one clock, a command and the permit switch each do.
-/
namespace Sys2Proof.Machine

theorem State.shaped_clock {s : State} (hs : s.shaped) : s.clock.shaped :=
  (State.clock_steps (mu := anyPart) trivial (Steps.refl _ s)).shape hs

theorem State.shaped_settle {s : State} (hs : s.shaped) : s.settle.shaped :=
  (State.settle_steps (mu := anyPart) trivial trivial trivial trivial trivial trivial trivial trivial (Steps.refl _ s)).shape hs

/-- Settles O7: a command's own change keeps the numbers (`Steps.shape`), and so do the clock and the permit switch. -/
theorem stepKeepsNumbersOfThings : Obligations.StepKeepsNumbersOfThings := by
  intro s t hs h
  obtain ⟨-, rfl⟩ | ⟨c, rest, u, -, hu, rfl⟩ := step_cases h
  · exact State.shaped_clock hs
  · exact State.shaped_settle (hu.shape hs)

end Sys2Proof.Machine
end

section
/-!
PROOFS. Waybills (R126 to R129, R144, R264, R469): posting, resuming and flushing the queue, a request for recomputation,
arming, planning again and the end of a stripe.
-/
namespace Sys2Proof.Machine

open Sys2Proof (Agent)

/-! ### The queue (R126, R128) -/

/-- A write that reaches its page answers what the block does with it. -/
theorem done_access {s : State} {ag : Agent} {p : Page} (ha : s.reaches ag p) (k : State → State) :
    done (s.access ag p k) = .next (k s).settle := by
  rw [State.access_of_reaches ha]
  rfl

section
variable {s : State} {ag : Agent} (ha : s.reaches ag pING)
include ha

theorem exec_post : exec (.post ag) s = .next s.post.settle := done_access ha _

theorem exec_waybillResume : exec (.waybillResume ag) s = .next s.waybillResume.settle := done_access ha _

theorem exec_flush : exec (.flush ag) s = .next s.flush.settle := done_access ha _

theorem exec_rcmpReq (next : Bool) (seg : BitVec 24) : exec (.rcmpReq ag next seg) s = .next (s.rcmpReq next seg.toNat).settle :=
  done_access ha _

end

/-- POST while the queue takes it files the eight words with NEXT_SEQ. -/
theorem State.post_of_room {s : State} (hn : s.ing.waybills.length < 8) (hs : s.bit Reg.ING_WB_QSTAT_STOPPED = false) :
    s.post = (({ s with ing := { s.ing with waybills := s.ing.waybills ++
      [{ seq := s.rd Reg.ING_WB_QSTAT_NEXT_SEQ, words := (List.range 8).map fun i => s.rd (Reg.ING_WB_WORD i) }] } } : State).wr
        Reg.ING_WB_QSTAT_NEXT_SEQ (if s.rd Reg.ING_WB_QSTAT_NEXT_SEQ = 0xFFFF then 1 else s.rd Reg.ING_WB_QSTAT_NEXT_SEQ + 1)).showQueue := by
  have hroom : ¬ (8 ≤ s.ing.waybills.length ∨ s.bit Reg.ING_WB_QSTAT_STOPPED = true) := by simp [hs, hn]
  rw [State.post]
  exact if_neg hroom

@[simp] theorem State.showQueue_ing (s : State) : s.showQueue.ing = s.ing := State.wrs_ing _ _

@[simp] theorem State.showQueue_mot (s : State) : s.showQueue.mot = s.mot := State.wrs_mot _ _

/-- The fields that show the queue. -/
def queueFields : List Fld := [Reg.ING_WB_QSTAT_DEPTH, Reg.ING_WB_QSTAT_ARMED, Reg.ING_WB_CUR_SEQ, Reg.ING_WB_CUR_STRIPE]

/-- Showing the queue leaves every other field as it was. -/
theorem State.rd_showQueue_ne (s : State) {g : Fld} (h : ∀ f ∈ queueFields, g.key ≠ f.key) : s.showQueue.rd g = s.rd g :=
  State.rd_wrs_ne _ _ (by simpa [queueFields] using h)

/-- FLUSH keeps the armed waybills alone. -/
theorem State.flush_waybills (s : State) : s.flush.ing.waybills = s.ing.waybills.filter fun w => w.plan.isSome := by
  simp [State.flush, State.modMot]

theorem State.flush_abandonHold (s : State) : s.flush.mot.abandonHold = false := by
  simp [State.flush, State.modMot]

/-- FLUSH clears STOPPED and HOLD. -/
theorem State.rd_flush (s : State) {f : Fld} (hf : f ∈ [Reg.ING_WB_QSTAT_STOPPED, Reg.ING_WB_QSTAT_HOLD]) : s.flush.rd f = 0 := by
  have hq : ∀ f ∈ [Reg.ING_WB_QSTAT_STOPPED, Reg.ING_WB_QSTAT_HOLD], ∀ g ∈ queueFields, f.key ≠ g.key := by decide
  have hkeys : ([(Reg.ING_WB_QSTAT_STOPPED, 0), (Reg.ING_WB_QSTAT_HOLD, 0)].map fun e : Fld × Nat => e.1.key).Nodup := by decide
  rw [State.flush, State.rd_showQueue_ne _ (hq f hf)]
  exact (State.rd_wrs_of_mem _ hkeys (v := 0) (by simpa using hf)).trans (Nat.zero_mod _)

/-! ### Recomputation (R144) -/

/-- A segment of an armed stripe that stands in the window is marked. -/
theorem State.rcmpReq_of_window {s : State} {next : Bool} {seg : Nat} {w x : Waybill} {p : Plan} {j : Nat}
    (hw : s.armed[if next then 1 else 0]? = some w)
    (hx : (s.window.find? fun e => e.1.seq == w.seq && w.segIndex e.2.2 == seg) = some (x, p, j)) :
    s.rcmpReq next seg = ((s.wrs [(Reg.ING_RCMP_REQ_NEXT, if next then 1 else 0), (Reg.ING_RCMP_REQ_SEG, seg)]).wr
      Reg.ING_RCMP_REQ_MISS 0).markRecompute w.seq j := by
  simp only [State.rcmpReq, hw, hx]

/-! ### Arming (R127) and planning again (R264) -/

section
variable {s : State} {w : Waybill} {lost : Option Nat} (hn : s.armed.length < 2) (hq : s.bit Reg.ING_WB_QSTAT_STOPPED = false)
  (ha : s.alc.stopped = false) (hr : s.alc.abandonRel = false) (hi : s.inReset pING = false)
include hn hq ha hr hi

/-- Nothing stops arming. -/
theorem State.arming_goes : ¬ (2 ≤ s.armed.length ∨ s.bit Reg.ING_WB_QSTAT_STOPPED = true ∨ s.alc.stopped = true ∨
    s.alc.abandonRel = true ∨ s.inReset pING = true) := by
  simp [hn, hq, ha, hr, hi]

variable (hw : (s.ing.waybills.find? fun w => w.plan.isNone) = some w)
include hw

theorem exec_waybillArm_hold {r : Nat} (hc : s.armCheck w lost = .hold r) : exec (.waybillArm lost) s = .next (s.holdWaybill r).settle := by
  show execWaybillArm lost s = _
  rw [execWaybillArm, if_neg (State.arming_goes hn hq ha hr hi)]
  simp only [hw, hc, done]

variable (hj : s.bit (Hdr.injArm pALC) = false)
include hj

theorem exec_waybillArm_arm {p : Plan} (hc : s.armCheck w lost = .arm p) : exec (.waybillArm lost) s = .next (s.armWaybill w p).settle := by
  show execWaybillArm lost s = _
  rw [execWaybillArm, if_neg (State.arming_goes hn hq ha hr hi)]
  simp only [hw, hc, State.btInject_of_unarmed hj, done]

theorem exec_waybillArm_refuse {c d : Nat} {l : List (Fld × Nat)} {e : Bool} (hc : s.armCheck w lost = .refuse c d l e) :
    exec (.waybillArm lost) s = .next (s.refuseWaybill w c d l e).settle := by
  show execWaybillArm lost s = _
  rw [execWaybillArm, if_neg (State.arming_goes hn hq ha hr hi)]
  simp only [hw, hc, State.btInject_of_unarmed hj, ite_self, done]

end

/-- Every armed stripe has its new plan. -/
def State.replanned (s : State) : State :=
  { s with ing := { s.ing with waybills := s.ing.waybills.map fun w => { w with plan := w.plan.map (s.replan w) } } }

/-- A plan that is sent changes nothing of ingest. -/
theorem State.sendPlan_ing (s : State) (w : Waybill) (p : Plan) (align : Bool) : (s.sendPlan w p align).ing = s.ing := by
  have h : Steps (· ≠ Part.ing) s (s.sendPlan w p align) := State.sendPlan_steps (by decide) (by decide) (by decide) (Steps.refl _ s) w p align
  exact (h.kept .ing).resolve_left fun hne => hne rfl

/-- A follower's stripe is sent where it is armed. -/
def State.sendAgain (u : State) (w : Waybill) : State :=
  match w.plan with | some p => u.sendPlan w p false | none => u

theorem State.sendAgain_ing (u : State) (w : Waybill) : (u.sendAgain w).ing = u.ing := by
  unfold State.sendAgain
  split
  · exact State.sendPlan_ing _ _ _ _
  · rfl

theorem State.foldl_sendAgain_ing (l : List Waybill) (u : State) : (l.foldl State.sendAgain u).ing = u.ing := by
  induction l generalizing u with
  | nil => rfl
  | cons w l ih => exact (ih _).trans (u.sendAgain_ing w)

theorem exec_planRecompute (s : State) : exec .planRecompute s = .next (s.replanned.armed.foldl State.sendAgain s.replanned).settle := rfl

/-! ### The end of a stripe (R129, R469) -/

/-- A stripe whose ticks are all launched, whose segments are recorded and whose turnaround has begun is complete. -/
theorem exec_stripeComplete {s : State} {w : Waybill} {p : Plan} (hc : s.cur = some (w, p)) (hn : nTicks w.length p.k p.a ≤ s.alc.next)
    (hl : nTicks w.length p.k p.a ≤ p.launched)
    (hm : s.ledFor w.seq = true → ∀ j < nSegs w.length p.k, (s.segOf w.seq j).made = true) (ht : s.hstate ≠ hRUN ∨ s.isFollower = true) :
    exec .stripeComplete s = .next ((((s.closeRecord w p 0 0).freeStripe w.seq).raise pING 6).dropHead.ingShow).settle := by
  have hrec : (!s.ledFor w.seq || (List.range (nSegs w.length p.k)).all fun j => (s.segOf w.seq j).made) = true := by
    cases hf : s.ledFor w.seq with
    | false => rfl
    | true => simpa using hm hf
  have hturn : ¬ (s.hstate = hRUN ∧ s.isFollower = false) := by
    rintro ⟨hrun, hlead⟩
    obtain h | h := ht
    · exact h hrun
    · exact Bool.false_ne_true (hlead.symm.trans h)
  show execStripeComplete s = _
  simp only [execStripeComplete, hc, hrec, Nat.not_lt.2 hn, Nat.not_lt.2 hl, hturn, Bool.not_true, Bool.false_eq_true, or_self, if_false, done]

/-- Settles O44, command by command: where its condition holds, each does what chapter 5 says. -/
theorem waybillsComplete : Obligations.WaybillsComplete := by
  refine ⟨fun s ag ha => ⟨fun hn hs => ?_, exec_waybillResume ha,
      ⟨s.flush, exec_flush ha, s.flush_waybills, s.flush_abandonHold, s.rd_flush (by simp), s.rd_flush (by simp)⟩,
      fun next seg w x p j hw hx => ?_⟩,
    fun s w lost hn hq ha hr hi hj hw => ⟨fun p hc => exec_waybillArm_arm hn hq ha hr hi hw hj hc,
      fun r hc => exec_waybillArm_hold hn hq ha hr hi hw hc, fun c d l e hc => exec_waybillArm_refuse hn hq ha hr hi hw hj hc⟩,
    fun s => ⟨_, exec_planRecompute s, ?_⟩, fun s w p hc hn hl hm ht => exec_stripeComplete hc hn hl hm ht⟩
  · rw [exec_post ha, State.post_of_room hn hs]
  · rw [exec_rcmpReq ha, State.rcmpReq_of_window hw hx]
  · rw [State.foldl_sendAgain_ing]
    rfl

end Sys2Proof.Machine
end

section
/-!
PROOFS. The register fields that an event, a reckoning request, a halt or a recomputation mark leaves as they were.
-/
namespace Sys2Proof.Machine

theorem State.regsKept_refl (s : State) (fs : List Fld) : s.regsKept s fs := fun _ _ => rfl

section
variable {s u : State} {fs : List Fld} (h : s.regsKept u fs)
include h

theorem State.regsKept.of_regs {t : State} (ht : t.regs = u.regs) : s.regsKept t fs :=
  fun g hg => (State.rd_congr ht g).trans (h g hg)

theorem State.regsKept.wr {f : Fld} (hf : f ∈ fs) (v : Nat) : s.regsKept (u.wr f v) fs :=
  fun g hg => (State.rd_wr_ne u (hg f hf) v).trans (h g hg)

theorem State.regsKept.satInc {f : Fld} (hf : f ∈ fs) (d : Nat) : s.regsKept (u.satInc f d) fs := h.wr hf _

theorem State.regsKept.raise {p : Page} (hp : p.eventFields ⊆ fs) (b : Nat) : s.regsKept (u.raise p b) fs :=
  fun g hg => (State.rd_raise_ne u p b fun f hf => hg f (hp hf)).trans (h g hg)

theorem State.regsKept.ite {t : State} (ht : s.regsKept t fs) {c : Prop} [Decidable c] : s.regsKept (if c then u else t) fs := by
  split <;> assumption

theorem State.regsKept.foldl {α : Type} {f : State → α → State} (hf : ∀ t x, s.regsKept t fs → s.regsKept (f t x) fs) (l : List α) :
    s.regsKept (l.foldl f u) fs := by
  induction l generalizing u with
  | nil => exact h
  | cons x l ih => exact ih (hf u x h)

end

/-- The fields that a reckoning request may change (R76). -/
def reckonFields : List Fld := [Reg.GLB_RECKON_BUSY, Reg.GLB_RECKON_PEND] ++ pGLB.eventFields

theorem State.regsKept.reckon {s u : State} {fs : List Fld} (h : s.regsKept u fs) (hr : reckonFields ⊆ fs) (source reqr : Nat) :
    s.regsKept (u.reckon source reqr) fs := by
  have hglb : pGLB.eventFields ⊆ fs := fun f hf => hr (List.mem_append_right _ hf)
  have hbusy : Reg.GLB_RECKON_BUSY ∈ fs := hr (by simp [reckonFields])
  have hpend : Reg.GLB_RECKON_PEND ∈ fs := hr (by simp [reckonFields])
  have put (r : Reck) : s.regsKept { u with reck := r } fs := h.of_regs rfl
  unfold State.reckon
  split_ifs
  · exact (h.wr hbusy 1).of_regs rfl
  · exact (put _).raise hglb 3
  · exact (h.wr hpend 1).of_regs rfl
  · exact (put _).raise hglb 3

theorem State.regsKept.autoReckon {s u : State} {fs : List Fld} (h : s.regsKept u fs) (hr : reckonFields ⊆ fs) (enable : Fld) :
    s.regsKept (u.autoReckon enable) fs :=
  (h.reckon hr 3 0xFF).ite h

/-- The fields that a halt may change (R269 to R273). -/
def haltFields : List Fld :=
  [Reg.MOT_HALT_STAT_REASON, Reg.MOT_HALT_STAT_HSTATE, Reg.MOT_HALT_TICK_TICK, Reg.MOT_HALT_CNT_HALTS] ++ pMOT.eventFields ++ reckonFields

/-- A halt changes its own fields alone, whichever state it meets. -/
theorem State.regsKept_halt (s : State) (reason ceiling : Nat) : s.regsKept (s.halt reason ceiling) haltFields := by
  have hmot : pMOT.eventFields ⊆ haltFields := fun f hf => List.mem_append_left _ (List.mem_append_right _ hf)
  have hreck : reckonFields ⊆ haltFields := fun f hf => List.mem_append_right _ hf
  have same := s.regsKept_refl haltFields
  have reasoned := same.wr (f := Reg.MOT_HALT_STAT_REASON) (by simp [haltFields]) (setBit s.reasons reason)
  have lowered {t : State} (h : s.regsKept t haltFields) (c : Nat) := h.wr (f := Reg.MOT_HALT_TICK_TICK) (by simp [haltFields]) c
  have ramped {t : State} (h : s.regsKept t haltFields) (m : Mot) :
      s.regsKept { t.wr Reg.MOT_HALT_STAT_HSTATE hSTOPPING with mot := m } haltFields :=
    (h.wr (f := Reg.MOT_HALT_STAT_HSTATE) (by simp [haltFields]) hSTOPPING).of_regs rfl
  have counted {t : State} (h : s.regsKept t haltFields) :
      s.regsKept (((t.raise pMOT 8).satInc Reg.MOT_HALT_CNT_HALTS 1).autoReckon Reg.GLB_RECK_AUTO_HALT) haltFields :=
    ((h.raise hmot 8).satInc (by simp [haltFields]) 1).autoReckon hreck _
  unfold State.halt
  dsimp only
  split_ifs
  · exact same -- IDLE
  · exact (counted (lowered reasoned _)).of_regs (State.fabricSend_regs _ _ _ _ _) -- a follower in RUN, no halt held
  · exact (lowered reasoned _).of_regs (State.fabricSend_regs _ _ _ _ _) -- a follower elsewhere
  · exact same.of_regs rfl -- MOVE
  · exact lowered reasoned 0 -- TURN
  · exact counted (lowered (ramped reasoned _) _) -- RUN
  · exact reasoned -- STOPPING with h fixed
  · exact lowered reasoned _ -- STOPPING
  · exact ramped (lowered reasoned _) _ -- BACKING, RUNUP
  · exact reasoned -- WAITING

/-- A mark for recomputation changes its count and ING's event alone (R143, R144). -/
theorem State.regsKept.markTrv {s u : State} {fs : List Fld} (h : s.regsKept u fs) (hc : Reg.ING_RCMP_CNT_REQUESTED ∈ fs)
    (hp : pING.eventFields ⊆ fs) (i : Nat) : s.regsKept (u.markTrv i) fs := by
  have counted (f : Traveller → Traveller) :
      s.regsKept (((u.modTrv i f).satInc Reg.ING_RCMP_CNT_REQUESTED 1).raise pING 7) fs :=
    State.regsKept.raise (State.regsKept.satInc (h.of_regs (t := u.modTrv i f) rfl) hc 1) hp 7
  unfold State.markTrv
  dsimp only
  split
  · exact h.ite (counted _)
  · exact h.ite (counted _)
  · exact h.ite (counted _)
  · exact h.ite (counted _)
  · exact h.ite (counted _)
  · exact h

/-- A fault that files no reckoning is set afterwards. -/
theorem State.fault_setFault (s : State) {p : Page} {b : Nat} (hb : b < 32) (ha : p.block.classA.testBit b = false) :
    (s.setFault p b).fault p b = true := by
  unfold State.setFault
  rw [ha, if_neg Bool.false_ne_true]
  split
  next h => exact h
  next =>
    rw [State.fault, State.rd_wr_self, Nat.testBit_mod_two_pow, setBit_testBit_self, Bool.and_true]
    exact decide_eq_true hb

end Sys2Proof.Machine
end

section
/-!
PROOFS. Expansion (R130 to R149): the dispatch of an expander, the band lists and the list pool, slots, and the end of a
band, of a segment and of a traveller.
-/
namespace Sys2Proof.Machine

/-! ### The traveller table (R147) -/

/-- The fields that an uncorrectable read of the traveller table may change beside the fault. -/
def upsetFields : List Fld := Reg.ING_RCMP_CNT_REQUESTED :: pING.eventFields ++ haltFields

/-- After an uncorrectable read of the traveller table ING's fault 0 is set: marks and a halt leave it so. -/
theorem State.fault_trvUpset (s : State) : s.trvUpset.fault pING 0 = true := by
  have hmark : pING.eventFields ⊆ upsetFields := fun f hf => List.mem_append_left _ (List.mem_cons_of_mem _ hf)
  have hhalt : haltFields ⊆ upsetFields := fun f hf => List.mem_append_right _ hf
  have hfault : ∀ f ∈ upsetFields, (Hdr.faultStat pING).key ≠ f.key := by decide
  have marked (held : Nat → Bool) (l : List Nat) :
      (s.setFault pING 0).regsKept (l.foldl (fun u i => if held i then u.markTrv i else u) (s.setFault pING 0)) upsetFields :=
    (State.regsKept_refl _ _).foldl (fun t i ht => (ht.markTrv List.mem_cons_self hmark i).ite ht) l
  have halted {t : State} (ht : (s.setFault pING 0).regsKept t upsetFields) (r c : Nat) :
      (s.setFault pING 0).regsKept (t.halt r c) upsetFields :=
    fun g hg => (t.regsKept_halt r c g fun f hf => hg f (hhalt hf)).trans (ht g hg)
  have hkept : (s.setFault pING 0).regsKept s.trvUpset upsetFields := by
    unfold State.trvUpset
    dsimp only
    split
    · exact halted (marked _ _) _ _
    · exact marked _ _
  rw [State.fault, hkept _ hfault]
  exact s.fault_setFault (by decide) (by decide)

/-! ### Travellers and expanders -/

/-- What a change of a traveller leaves there, for a traveller of the table. -/
theorem State.trv_modTrv_self {s : State} {i : Nat} (hi : i < s.ing.travellers.length) (f : Traveller → Traveller) :
    (s.modTrv i f).trv i = f (s.trv i) := by
  simp [State.trv, State.modTrv, modAt, hi]

/-- A traveller that is not free stands in the table. -/
theorem State.getElem?_of_busy {s : State} {i : Nat} (h : (s.trv i).state ≠ .free) : s.ing.travellers[i]? = some (s.trv i) := by
  rw [State.trv, List.getD_eq_getElem?_getD] at h ⊢
  cases hi : s.ing.travellers[i]? with
  | none => simp [hi] at h
  | some v => rfl

theorem State.lt_of_freeTraveller {s : State} {i : Nat} (h : s.freeTraveller = some i) : i < s.ing.travellers.length := by
  obtain ⟨hi, -⟩ := List.findIdx?_eq_some_iff_getElem.1 h
  exact hi

theorem State.lt_of_expanderIdle {s : State} {n : Nat} (h : s.expanderIdle n = true) : n < s.ing.expanders.length := by
  simp only [State.expanderIdle, Bool.and_eq_true] at h
  obtain ⟨-, hx⟩ := h
  split at hx
  next x hn => exact (List.getElem?_eq_some_iff.1 hn).1
  next => cases hx

@[simp] theorem State.setRunning_ing (s : State) (p : Page) (busy : Bool) : (s.setRunning p busy).ing = s.ing := by
  unfold State.setRunning
  split_ifs <;> rfl

@[simp] theorem State.ingShow_ing (s : State) : s.ingShow.ing = s.ing := State.setRunning_ing _ _ _

/-- A band that is given to an expander is its work and its traveller's band. -/
theorem State.giveBand_ing (s : State) (n i b : Nat) : (s.giveBand n i b).ing = { s.ing with
    expanders := modAt s.ing.expanders n fun x => { x with work := some (i, b), waiting := false }
    travellers := modAt s.ing.travellers i fun v => { v with band := b } } := by
  simp [State.giveBand, State.modTrv]

theorem State.work_giveBand {s : State} {n : Nat} (hn : n < s.ing.expanders.length) (i b : Nat) :
    ((s.giveBand n i b).ing.expanders[n]?).bind Expander.work = some (i, b) := by
  simp [State.giveBand_ing, modAt, hn]

theorem State.trv_giveBand_self {s : State} {i : Nat} (hi : i < s.ing.travellers.length) (n b : Nat) :
    (s.giveBand n i b).trv i = { s.trv i with band := b } := by
  simp [State.trv, State.giveBand_ing, modAt, hi]

/-! ### Dispatch (R131, R132) -/

theorem exec_expanderDispatch {s : State} {n : Nat} (h : s.expanderIdle n = true) :
    exec (.expanderDispatch n false) s = .next (s.dispatch n).settle := by
  show execExpanderDispatch n false s = _
  rw [execExpanderDispatch, h]
  rfl

theorem exec_expanderDispatch_upset {s : State} {n : Nat} (h : s.expanderIdle n = true) :
    exec (.expanderDispatch n true) s = .next (s.trvUpset.dispatch n).settle := by
  show execExpanderDispatch n true s = _
  simp only [execExpanderDispatch, h, Bool.not_true, Bool.false_eq_true, if_false, if_true, done]

/-- What is found for a band is a band. -/
theorem State.bandWork_ne_first (s : State) (f : Traveller → Bool) (w : Waybill) (p : Plan) (j : Nat) :
    s.bandWork f ≠ some (.first w p j) := by
  unfold State.bandWork
  dsimp only
  split <;> simp

/-- A first segment is work only while a traveller is free. -/
theorem State.freeTraveller_of_first {s : State} {w : Waybill} {p : Plan} {j : Nat} (h : s.nextWork = some (.first w p j)) :
    ∃ i, s.freeTraveller = some i := by
  unfold State.nextWork at h
  split at h
  next k hk => exact absurd (hk.trans h) (s.bandWork_ne_first _ w p j)
  next =>
    split at h
    next k hk => exact absurd (hk.trans h) (s.bandWork_ne_first _ w p j)
    next =>
      dsimp only at h
      split at h
      next k hk =>
        obtain ⟨e, -, he⟩ := Option.bind_eq_some_iff.1 hk
        split_ifs at he with hfree
        simp only [Bool.and_eq_true] at hfree
        exact Option.isSome_iff_exists.1 hfree.1
      next =>
        split at h
        next => cases h
        next =>
          split_ifs at h
          obtain ⟨e, -, he⟩ := Option.map_eq_some_iff.1 h
          cases he

/-- A band is dispatched by giving it to the expander; no expander is added before. -/
theorem State.dispatch_band {s : State} {i b : Nat} (h : s.nextWork = some (.band i b)) (n : Nat) :
    ∃ t : State, s.dispatch n = t.giveBand n i b ∧ t.ing.expanders.length = s.ing.expanders.length := by
  unfold State.dispatch
  rw [h]
  refine ⟨_, rfl, ?_⟩
  simp only [State.modTrv, State.redispatched, List.length_map]
  split <;> simp [State.dropPass]

/-- The traveller that begins the first segment of the window that has none (R131). -/
def firstTrv (w : Waybill) (p : Plan) (j : Nat) : Traveller :=
  { state := .expanding, handle := w.handle, stripe := w.stripe, wseq := w.seq, seg := w.segIndex j, j := j,
    nbands := (p.bands.getD j []).length }

theorem State.dispatch_first {s : State} {w : Waybill} {p : Plan} {j i : Nat} (h : s.nextWork = some (.first w p j))
    (hi : s.freeTraveller = some i) (n : Nat) : s.dispatch n = (s.modTrv i fun _ => firstTrv w p j).giveBand n i 0 := by
  unfold State.dispatch
  rw [h]
  simp only [hi]
  rfl

/-! ### Band lists (R131, R138) -/

theorem exec_bandListComplete {s : State} {n clocks i b : Nat} {w : Waybill} {p : Plan}
    (hx : (s.ing.expanders[n]?).bind Expander.work = some (i, b)) (hw : s.waybillOf (s.trv i).wseq = some (w, p))
    (hs : (s.trv i).survey = false) (hp : (s.ing.expanders.getD n {}).waiting = false) {k : (Walk × Nat) × (Nat × Nat)}
    (hk : s.walkBand w p (s.trv i).j b = k) {pages : Nat}
    (hpages : pagesFor (listBytes k.1.1.figs (s.srOf w.handle) (p.k / 2) k.2.1 k.2.2) = pages)
    (hd : s.walkDamage w.handle k.1.1.reads = none) (hf : pages ≤ s.poolFree) :
    exec (.bandListComplete n clocks false) s = .next ((s.expBusy n (min clocks (k.1.1.cost (s.srOf w.handle) k.1.2 (p.k / 2)
      k.2.1 k.2.2))).listDone n i b k.1.1.figs pages).settle := by
  subst hk hpages
  show execBandListComplete n clocks false s = _
  simp only [execBandListComplete, hx, hw, hs, hp, hd, Nat.not_lt.2 hf, Bool.false_eq_true, or_self, if_false, done]

theorem exec_listPoolWaitEnd {s : State} (h : 0 < s.poolFree) (n : Nat) : exec (.listPoolWaitEnd n) s =
    .next ({ s with ing := { s.ing with expanders := modAt s.ing.expanders n fun x => { x with waiting := false } } } : State).settle :=
  if_pos h

/-! ### Slots (R131) -/

/-- The listed travellers, with their places in the table. -/
def State.listedTrvs (s : State) : List (Traveller × Nat) := s.ing.travellers.zipIdx.filter fun e => e.1.state == .listed

theorem State.mem_listedTrvs {s : State} {e : Traveller × Nat} :
    e ∈ s.listedTrvs ↔ e.1 = s.trv e.2 ∧ (s.trv e.2).state = .listed := by
  rw [State.listedTrvs, List.mem_filter, List.mem_zipIdx_iff_getElem?, beq_iff_eq]
  constructor
  · rintro ⟨he, hl⟩
    have ht : s.trv e.2 = e.1 := by rw [State.trv, List.getD_eq_getElem?_getD, he]; rfl
    exact ⟨ht.symm, ht ▸ hl⟩
  · rintro ⟨he, hl⟩
    exact ⟨he ▸ State.getElem?_of_busy (by simp [hl]), he ▸ hl⟩

/-- Keeping the entry of lower rank through a list keeps the first entry of least rank. -/
theorem foldl_lower_eq_minOn {α : Type} (r : α → Nat) (c : α) (cs : List α) :
    cs.foldl (fun a e => if r e < r a then e else a) c = List.minOn r (c :: cs) (List.cons_ne_nil c cs) := by
  have hstep : (fun a e => if r e < r a then e else a) = minOn r := by
    funext a e
    rw [minOn, ← ite_not]
    simp only [not_lt]
  rw [hstep]
  rfl

/-- SLOT_ASSIGN gives the free slot to the listed traveller of least rank. -/
theorem exec_slotAssign {s : State} {k : Nat} (hk : s.freeSlot = some k) (hl : s.listedTrvs ≠ []) : exec .slotAssign s =
    .next (s.modTrv (s.listedTrvs.minOn (fun e => s.stageRank e.1) hl).2 fun v => { v with state := .raster, slot := some k, valid := false }).settle := by
  obtain ⟨c, cs, hc⟩ := List.exists_cons_of_ne_nil hl
  show execSlotAssign s = _
  rw [execSlotAssign, hk, ← State.listedTrvs]
  simp only [hc, foldl_lower_eq_minOn (fun e : Traveller × Nat => s.stageRank e.1), done]

/-! ### The end of a band, of a segment and of a traveller (R131, R143, R468) -/

/-- A band's list leaves the pool and the band counts as corrected. -/
def State.bandLeaves (s : State) (i band : Nat) : State :=
  ({ s with ing := { s.ing with lists := s.ing.lists.filter fun f => !(f.trv == i && f.band == band) } } : State).modTrv i
    fun v => { v with corrected := v.corrected + 1 }

theorem exec_bandCorrected {s : State} {i : Nat} {e : BandList} {w : Waybill} {p : Plan}
    (he : (s.ing.lists.find? fun e => e.trv == i) = some e) (hw : s.waybillOf (s.trv i).wseq = some (w, p))
    (hd : p.bandTiles (s.trv i).j e.band ≤ e.done) : exec (.bandCorrected i) s =
      .next (if (s.trv i).corrected + 1 < (s.trv i).nbands then s.bandLeaves i e.band else (s.bandLeaves i e.band).segmentDone i).settle := by
  show execBandCorrected i s = _
  simp only [execBandCorrected, he, hw, if_neg (Nat.not_lt.2 hd)]
  rfl

section
variable {s : State} {i : Nat} (ho : s.segOver (s.trv i) = true)
include ho

theorem exec_travellerRelease (h : s.live pLED = false ∨ (s.segOf (s.trv i).wseq (s.trv i).j).made = true) :
    exec (.travellerRelease i) s = .next (s.freeTrv i).ingShow.settle := by
  have hgo : s.segOver (s.trv i) = true ∧ ((s.live pLED && s.led.openSeq.any fun e => e.1 == (s.trv i).wseq) = false ∨
      (s.segOf (s.trv i).wseq (s.trv i).j).made = true) :=
    ⟨ho, h.imp_left fun hoff => by rw [hoff, Bool.false_and]⟩
  exact if_pos hgo

theorem exec_segRecord {w : Waybill} {p : Plan} (hw : s.waybillOf (s.trv i).wseq = some (w, p)) (hl : s.ledFor (s.trv i).wseq = true)
    (hm : (s.segOf (s.trv i).wseq (s.trv i).j).made = false) (hr : s.led.staging.length < 64) (hashFail : Bool) :
    exec (.segRecord i hashFail) s = .next (if hashFail then s.setFault pLED 1
      else s.segRecord w p (s.trv i).j (segLast w p (s.trv i).j) (s.trv i).slot false).settle := by
  show execSegRecord i hashFail s = _
  simp only [execSegRecord, hw]
  rw [if_pos ⟨ho, hl, hm, hr⟩]
  cases hashFail <;> rfl

end

/-- Settles O45, command by command: where its condition holds, each does what chapter 5 says. -/
theorem bandsAndTravellersComplete : Obligations.BandsAndTravellersComplete := by
  refine ⟨fun s n hn => ⟨fun i b hw => ?_, fun w p j hw => ?_, s.fault_trvUpset, exec_expanderDispatch_upset hn⟩,
    fun s n clocks i b w p hx hw hs hp hd hf => exec_bandListComplete hx hw hs hp rfl rfl hd hf,
    fun s n h hn => ⟨_, exec_listPoolWaitEnd h n, rfl, ?_⟩, fun s k hk ⟨i, hi⟩ => ?_,
    fun s i e w p he hw hd => exec_bandCorrected he hw hd,
    fun s i ho => ⟨exec_travellerRelease ho, fun w p hw hl hm hr => ⟨exec_segRecord ho hw hl hm hr false, exec_segRecord ho hw hl hm hr true⟩⟩⟩
  · obtain ⟨t, ht, hlen⟩ := State.dispatch_band hw n
    refine ⟨s.dispatch n, exec_expanderDispatch hn, ?_⟩
    rw [ht, State.work_giveBand (hlen ▸ State.lt_of_expanderIdle hn)]
  · obtain ⟨i, hi⟩ := State.freeTraveller_of_first hw
    have hlt := State.lt_of_freeTraveller hi
    have hlt' : i < (s.modTrv i fun _ => firstTrv w p j).ing.travellers.length := by simpa [State.modTrv, modAt] using hlt
    refine ⟨i, hi, s.dispatch n, exec_expanderDispatch hn, ?_, ?_⟩ <;> rw [State.dispatch_first hw hi]
    · exact State.work_giveBand (s := s.modTrv i _) (State.lt_of_expanderIdle hn) i 0
    · rw [State.trv_giveBand_self hlt', State.trv_modTrv_self hlt]
      rfl
  · simp [modAt, hn]
  · have mem {i : Nat} (hi : (s.trv i).state = .listed) : (s.trv i, i) ∈ s.listedTrvs := State.mem_listedTrvs.2 ⟨rfl, hi⟩
    have hl : s.listedTrvs ≠ [] := List.ne_nil_of_mem (mem hi)
    obtain ⟨htrv, hlisted⟩ := State.mem_listedTrvs.1 (List.minOn_mem (f := fun e => s.stageRank e.1) (h := hl))
    refine ⟨_, hlisted, fun i' hi' => ?_, exec_slotAssign hk hl⟩
    rw [← htrv]
    have hle := List.apply_minOn_le_of_mem (f := fun e => s.stageRank e.1) (mem hi')
    exact hle

end Sys2Proof.Machine
end

section
/-!
PROOFS. Tiles (R161, R165 to R173, R200, R203): the binner, dispatch, the compare of a pair's and of a voter pair's records,
stalls, votes, strikes and correction.
-/
namespace Sys2Proof.Machine

/-! ### The binner (R161) -/

/-- Rows of a band's tiles are still to be binned. -/
def State.unbinned (s : State) (e : BandList) : Bool :=
  match s.waybillOf (s.trv e.trv).wseq with
  | some (_, p) => decide (e.rows < p.bandRowsOf (s.trv e.trv).j e.band)
  | none => false

/-- The next run of a band: its tile rows and their references. -/
def State.binnerRun (s : State) (e : BandList) (w : Waybill) (p : Plan) : Nat × Nat :=
  runLength (s.rowRefs e w p (s.trv e.trv).j) (32 * mib) (p.bandRowsOf (s.trv e.trv).j e.band - e.rows) e.rows 0 0

/-- A run is binned: the band's list holds its rows and its references. -/
def State.binned (s : State) (e : BandList) (run : Nat × Nat) : State :=
  { s with ing := { s.ing with lists := s.ing.lists.map fun f =>
    if f.trv = e.trv ∧ f.band = e.band then { f with rows := f.rows + run.1, refs := f.refs + run.2 } else f } }

/-- BINNER_RUN bins the next run, unless the references held leave it no room. -/
theorem exec_binnerRun {s : State} {e : BandList} {w : Waybill} {p : Plan} (hb : s.ras.binWait = false) (ha : s.accepts pCMP = true)
    (he : s.bandsInOrder s.unbinned = some e) (hw : s.waybillOf (s.trv e.trv).wseq = some (w, p)) :
    exec (.binnerRun false) s = .next (if 0 < s.refsHeld ∧ 32 * mib < s.refsHeld + (s.binnerRun e w p).2
      then s.modRas fun r => { r with binWait := true } else s.binned e (s.binnerRun e w p)).settle := by
  have hgo : ¬ (s.ras.binWait = true ∨ (!s.accepts pCMP) = true ∨ false = true) := by simp [hb, ha]
  show execBinnerRun false s = _
  rw [execBinnerRun, if_neg hgo]
  split
  next hnone => cases hnone.symm.trans he
  next e' hsome =>
    obtain rfl := Option.some.inj (hsome.symm.trans he)
    simp only [hw]
    exact (apply_ite done _ _ _).symm

/-! ### Dispatch (R166, R170) -/

theorem exec_tileDispatch_vote {s : State} {t : Tile} {e : Nat} (ha : s.accepts pCMP = true)
    (ht : (s.ras.tiles.find? fun t => t.place == .vote) = some t) (he : s.freeSpare = some e) :
    exec .tileDispatch s = .next ((s.setTile t { t with place := .spare e }).setRole e roleVOTING 0x1F).cmpShow.settle := by
  show execTileDispatch s = _
  simp only [execTileDispatch, ha, ht, he, Bool.not_true, Bool.false_eq_true, if_false, done]

/-- With no open vote the lowest idle pair is fed. -/
theorem exec_tileDispatch_pair {s : State} {p : Nat} (ha : s.accepts pCMP = true)
    (ht : (s.ras.tiles.find? fun t => t.place == .vote) = none) (hp : (List.range 24).find? s.pairIdle = some p) :
    exec .tileDispatch s = .next (s.feedPair p).cmpShow.settle := by
  obtain ⟨rest, hidle⟩ := List.head?_eq_some_iff.1 (List.head?_filter.trans hp)
  show execTileDispatch s = _
  simp only [execTileDispatch, ha, ht, hidle, Bool.not_true, Bool.false_eq_true, if_false, done]

/-! ### Compare and stall (R168, R169, R177) -/

theorem State.inject_of_none {s : State} {e : Nat} {rc : List Nat} (h : s.injects e rc = none) : s.inject e rc = (rc, s) := by
  rw [State.inject, h]

/-- With no upset and no injection both engines of a pair emit the tile's record. -/
theorem State.pairRecs_of_unarmed {s : State} {p : Nat} {rc : List Nat} (hc : s.bit (Hdr.injArm pCMP) = false)
    (ha : s.injects (s.engA p) rc = none) (hb : s.injects (s.engB p) rc = none) :
    s.pairRecs rc p .none = ({ recA := rc, recB := rc, mismatch := none, engInj := false, cmpInj := false }, s) := by
  simp [State.pairRecs, upsetRecs, mismatchOf, State.inject_of_none ha, State.inject_of_none hb, hc]

section
variable {s : State} {p : Nat} {t : Tile} (ht : (s.ras.tiles.find? fun t => t.place == .pair p || t.place == .pairVote p) = some t)
include ht

theorem exec_tileRecordCompare_first (hp : t.place = .pair p) (hr : s.stagingRoom (s.recordOf t).length = true) (u : TileUpset) :
    exec (.tileRecordCompare p u) s = .next (s.compareFirst t p u).leaveIdle.cmpShow.settle := by
  show done (s.recordCompare p u) = _
  simp only [State.recordCompare, ht, hp, hr, if_true, Bool.not_true, Bool.false_eq_true, if_false, done]

theorem exec_tileRecordCompare_voter (hp : t.place = .pairVote p) (hc : s.bit (Hdr.injArm pCMP) = false)
    (ha : s.injects (s.engA p) (s.recordOf t) = none) (hb : s.injects (s.engB p) (s.recordOf t) = none) :
    exec (.tileRecordCompare p .none) s =
      .next ((s.pairDone p).setTile t { t with place := .voted p, recV := s.recordOf t }).leaveIdle.cmpShow.settle := by
  have hfirst : t.place ≠ .pair p := by simp [hp]
  show done (s.recordCompare p .none) = _
  simp only [State.recordCompare, ht, hfirst, if_false, State.pairRecs_of_unarmed hc ha hb, done]

theorem exec_tileStall_voter (hp : t.place = .pairVote p) : exec (.tileStall p) s =
    .next ((s.showMismatch t p 2 0 false).voterMismatch t p).leaveIdle.cmpShow.settle := by
  show execTileStall p s = _
  simp only [execTileStall, ht]
  exact if_pos hp

theorem exec_tileStall_first (hp : t.place = .pair p) : exec (.tileStall p) s =
    .next ((((s.showMismatch t p 2 0 false).freeRefs t).noMajority t 0x3F 0x1F).strike [s.engA p, s.engB p]).leaveIdle.cmpShow.settle := by
  have hvoter : t.place ≠ .pairVote p := by simp [hp]
  show execTileStall p s = _
  simp only [execTileStall, ht]
  exact if_neg hvoter

end

theorem exec_stagingPoolFree {s : State} {p : Nat} {t : Tile} (ht : (s.ras.tiles.find? fun t => t.place == .emit p) = some t)
    (hr : s.stagingRoom (s.recordOf t).length = true) :
    exec (.stagingPoolFree p) s = .next (s.setTile t { t with place := .pair p }).settle := by
  show execStagingPoolFree p s = _
  simp only [execStagingPoolFree, ht]
  exact if_pos hr

/-! ### Votes, strikes and pairs (R170 to R173) -/

/-- The votes whose voter has a record or computes one. -/
def State.votesHeld (s : State) : List Tile :=
  s.ras.tiles.filter fun t => match t.place with | .spare _ | .voted _ => true | _ => false

/-- VOTE_RESOLVED ends a vote by the record of its spare or of its voter pair. -/
theorem exec_voteResolved {s : State} {v : Nat} {t : Tile} (ht : s.votesHeld[v]? = some t) :
    (∀ e, t.place = .spare e → s.injects e (s.recordOf t) = none → exec (.voteResolved v .none) s =
      .next (((s.engineDone e).setRole e roleSPARE 0x1F).resolve t (s.recordOf t) e 0x1F false).leaveIdle.cmpShow.settle) ∧
    (∀ p, t.place = .voted p → exec (.voteResolved v .none) s = .next (s.resolve t t.recV 0x3F p false).leaveIdle.cmpShow.settle) := by
  have hvote (u : TileUpset) : exec (.voteResolved v u) s = execVoteResolved v u s := rfl
  rw [hvote, execVoteResolved]
  split
  next hnone => cases hnone.symm.trans ht
  next t' hsome =>
    obtain rfl := Option.some.inj (hsome.symm.trans ht)
    refine ⟨fun e he hi => ?_, fun p hp => ?_⟩
    · simp only [he, upsetRecs, State.inject_of_none hi, bne_self_eq_false, done]
    · simp only [hp, done]

theorem exec_strikeDecay {s : State} {n : Nat} (h : n ∈ s.ras.decay) : exec (.strikeDecay n) s =
    .next ((s.wr (Reg.RAS_STRIKES_LEVEL n) (s.rd (Reg.RAS_STRIKES_LEVEL n) - 1)).modRas fun r => { r with decay := r.decay.erase n }).settle :=
  if_pos (List.contains_iff_mem.2 h)

theorem exec_pairReform {s : State} {p : Nat} (h : p ∈ s.ras.waiting) : exec (.pairReform p) s = .next (s.refill p).cmpShow.settle :=
  if_pos (List.contains_iff_mem.2 h)

/-! ### Correction (R200, R203) -/

/-- TILE_CORRECT with sound slices corrects the oldest agreed tile, unless it reads a poisoned word of the map. -/
theorem exec_tileCorrect {s : State} {t : Tile} {w : Waybill} {p : Plan} {slot : Nat} (hl : s.live pCOR = true)
    (ht : (s.ras.tiles.find? fun t => t.place == .agreed) = some t) (hw : s.waybillOf t.wseq = some (w, p))
    (hs : (s.trv t.trv).slot = some slot) (hv : t.void = false) {i0 j0 : Int}
    (hi : i0 = ((w.stripe * p.w + 64 * (tileOf w.dir p.k t.tseq).1 : Nat) : Int))
    (hj : j0 = ((w.segIndex t.j * p.w + 64 * (tileOf w.dir p.k t.tseq).2 : Nat) : Int)) (clock : Nat) :
    exec (.tileCorrect none clock) s = .next ((s.tileDamage w.handle (s.geo w.handle) i0 j0).elim
      ((s.noteRepaired w.handle (s.geo w.handle) i0 j0 t).correct w p t slot)
      fun o => (((s.discardTile t).raise pCOR 3).mapDamaged w.handle o).modTrv t.trv fun v => { v with damage := some mapMark }).settle := by
  subst hi hj
  show execTileCorrect none clock s = _
  simp only [execTileCorrect, hl, ht, hw, hs, hv, Bool.not_true, Bool.false_eq_true, if_false]
  split
  next o hd => rw [hd]; rfl
  next hd => rw [hd]; rfl

/-- Settles O46, command by command: where its condition holds, each does what chapters 6 to 8 say. -/
theorem tilesComplete : Obligations.TilesComplete := by
  refine ⟨fun s e w p hb ha he hw => ⟨fun hroom => ?_, fun hheld hfull => ?_⟩, fun s => rfl,
    fun s ha => ⟨fun t e ht he => exec_tileDispatch_vote ha ht he, fun p ht hp => exec_tileDispatch_pair ha ht hp⟩,
    fun s p t ht => ⟨fun u hp hr => exec_tileRecordCompare_first ht hp hr u,
      fun hp => ⟨exec_tileRecordCompare_voter ht hp, exec_tileStall_voter ht hp⟩, exec_tileStall_first ht⟩,
    fun s p t ht hr => exec_stagingPoolFree ht hr, fun s v t ht => exec_voteResolved ht, fun s n hn => exec_strikeDecay hn,
    fun s p hp => exec_pairReform hp,
    fun s t w p slot clock hl ht hw hs hv => ⟨fun hd => ?_, fun o hd => ?_⟩⟩
  · have hgo : ¬ (0 < s.refsHeld ∧ 32 * mib < s.refsHeld + (s.binnerRun e w p).2) :=
      fun ⟨hheld, hfull⟩ => hroom.elim hheld.ne' hfull.not_ge
    exact (exec_binnerRun hb ha he hw).trans (by rw [if_neg hgo]; rfl)
  · have hwait : 0 < s.refsHeld ∧ 32 * mib < s.refsHeld + (s.binnerRun e w p).2 := ⟨hheld, hfull⟩
    exact (exec_binnerRun hb ha he hw).trans (by rw [if_pos hwait])
  · exact (exec_tileCorrect hl ht hw hs hv rfl rfl clock).trans (by rw [hd]; rfl)
  · exact (exec_tileCorrect hl ht hw hs hv rfl rfl clock).trans (by rw [hd]; rfl)

end Sys2Proof.Machine
end

section
/-!
PROOFS. Surveys (R184, R185, R188 to R194, R197, R203, R411): a START, ABORT, a walked segment, the ends of the walk, fogging,
the sweeps, the check of a map, repairs and TAKE.
-/
namespace Sys2Proof.Machine

open Sys2Proof (Agent)

/-! ### START and ABORT (R191, R194) -/

/-- A request for new work that a page takes answers what the block does with it. -/
theorem done_newWork {s : State} {ag : Agent} {p : Page} (ha : s.takesWork ag p) (k : State → State) :
    done (s.newWork ag p k) = .next (k s).settle := by
  rw [State.newWork_of_takesWork ha]
  rfl

/-- The registers of a START that nothing refuses: what it asked for and needs, RESULT 0, its handle and its phase. -/
def State.srvTaken (s : State) (h mode : Nat) (sr : Bool) : State :=
  (((s.srvFields h mode sr).wr Reg.SRV_NEED_WS_MIB (s.needWs mode)).wr Reg.SRV_NEED_MAP_MIB s.needMap).wrs
    [(Reg.SRV_CTRL_RESULT, 0), (Reg.SRV_CTRL_DETAIL, 0), (Reg.SRV_STAT_OUTCOME, 0), (Reg.SRV_STAT_HANDLE, h),
      (Reg.SRV_PROG_SEGS, 0), (Reg.SRV_STAT_PHASE, if mode = 0 ∨ mode = 1 then 1 else 4)]

theorem State.srvStart_of_unrefused {s : State} {h mode : Nat} (hr : s.srvRefusal h mode = none) (sr : Bool) :
    s.srvStart h mode sr = (((if mode = 0 ∨ mode = 2 then (s.srvTaken h mode sr).newMap h mode sr else s.srvTaken h mode sr).modSrv
      fun x => { x with mode := mode, acc := [], col := 0, deltaMax := 0, sat := 0, aborting := false }).walkPlan h mode).srvShow := by
  rw [State.srvStart]
  split
  next hs => cases hr.symm.trans hs
  next => rfl

theorem State.srvAbort_of_walk_without_travellers {s : State} (hb : s.surveyBusy = true) (hp : s.rd Reg.SRV_STAT_PHASE = 1)
    (ht : ∀ t ∈ s.ing.travellers, t.state = .free ∨ t.survey = false) : s.srvAbort = s.srvAborted := by
  have hnone : (s.ing.travellers.any fun t => t.state != .free && t.survey) = false :=
    List.any_eq_false.2 fun t hmem => by obtain h | h := ht t hmem <;> simp [h]
  simp only [State.srvAbort, hb, hp, hnone, Bool.not_true, Bool.false_eq_true, if_false, if_true]

/-! ### What leaves the survey unit, or ABORT's mark, as it was -/

theorem Steps.srv_eq {s t : State} (h : Steps (· ≠ Part.ing) s t) : t.srv = s.srv :=
  congrArg Ing.srv ((h.kept .ing).resolve_left fun hne => hne rfl)

theorem State.modSrv_srv (s : State) (f : Srv → Srv) : (s.modSrv f).srv = f s.srv := rfl

/-- A change of the survey unit's own state that keeps ABORT's mark. -/
@[simp] theorem State.modSrv_aborting (s : State) {f : Srv → Srv} (hf : ∀ v, (f v).aborting = v.aborting) :
    (s.modSrv f).srv.aborting = s.srv.aborting :=
  hf s.srv

@[simp] theorem State.modSrv_hbm (s : State) (f : Srv → Srv) : (s.modSrv f).hbm = s.hbm := rfl

@[simp] theorem State.modSrv_rd (s : State) (f : Srv → Srv) (g : Fld) : (s.modSrv f).rd g = s.rd g := rfl

@[simp] theorem State.wr_srv (s : State) (f : Fld) (v : Nat) : (s.wr f v).srv = s.srv := (State.wr_steps (Steps.refl _ s) f v).srv_eq

@[simp] theorem State.wrapInc_srv (s : State) (f : Fld) (d : Nat) : (s.wrapInc f d).srv = s.srv :=
  (State.wrapInc_steps (Steps.refl _ s) f d).srv_eq

@[simp] theorem State.mapWhole_srv (s : State) (h : Nat) : (s.mapWhole h).srv = s.srv := rfl

@[simp] theorem State.freeTrv_srv (s : State) (i : Nat) : (s.freeTrv i).srv = s.srv := rfl

@[simp] theorem State.expBusy_srv (s : State) (n clocks : Nat) : (s.expBusy n clocks).srv = s.srv := rfl

@[simp] theorem State.freeExpander_srv (s : State) (n : Nat) : (s.freeExpander n).srv = s.srv := by
  simp [State.srv, State.freeExpander]

@[simp] theorem State.raise_srv (s : State) (p : Page) (b : Nat) : (s.raise p b).srv = s.srv :=
  (State.raise_steps (by decide) (Steps.refl _ s) p b).srv_eq

@[simp] theorem State.hbmStore_srv (s : State) (a : Nat) (l : List Byte) : (s.hbmStore a l).srv = s.srv :=
  (State.hbmStore_steps (by decide) (by decide) (by decide) (Steps.refl _ s) a l).srv_eq

@[simp] theorem State.writeDensity_srv (s : State) (h : Nat) (g : MapGeo) (acc : List (Nat × Nat)) : (s.writeDensity h g acc).srv = s.srv :=
  (State.writeDensity_steps (by decide) (Steps.refl _ s) h g acc).srv_eq

@[simp] theorem State.sendStripe_srv (s : State) (g : MapGeo) (stripe : Nat) (acc : List (Nat × Nat)) : (s.sendStripe g stripe acc).srv = s.srv :=
  (State.sendStripe_steps (by decide) (by decide) (by decide) (Steps.refl _ s) g stripe acc).srv_eq

@[simp] theorem State.srvShow_srv (s : State) : s.srvShow.srv = s.srv := (State.srvShow_steps (Steps.refl _ s)).srv_eq

@[simp] theorem State.repairShow_srv (s : State) : s.repairShow.srv = s.srv := (State.repairShow_steps (Steps.refl _ s)).srv_eq

/-- The sums of a stripe leave ABORT's mark as it was. -/
@[simp] theorem State.addStripe_aborting (s : State) (h : Nat) (g : MapGeo) (stripe : Nat) (sums : List (Nat × Nat)) :
    (s.addStripe h g stripe sums).srv.aborting = s.srv.aborting := by
  rw [State.addStripe]
  split
  · rfl
  · simp

/-- A segment of the module's own part of a shared survey leaves it too. -/
@[simp] theorem State.ownStripe_aborting (s : State) (h : Nat) (g : MapGeo) (stripe q : Nat) (k : Walk) :
    (s.ownStripe h g stripe q k).srv.aborting = s.srv.aborting := by
  unfold State.ownStripe
  dsimp only
  split
  · simp
  · simp

/-- A walked segment leaves it, whether it is walked again, shared, surveyed alone or only costed. -/
@[simp] theorem State.segWalked_aborting (s : State) (h stripe q : Nat) (k : Walk) (bins : Nat) (repair : Bool) :
    (s.segWalked h stripe q k bins repair).srv.aborting = s.srv.aborting := by
  unfold State.segWalked
  dsimp only
  split
  next => simp
  next =>
    split
    next =>
      split
      next => simp
      next => simp
    next => simp

/-! ### The walk (R184, R185, R192, R193) -/

/-- A survey segment whose data is sound and whose copies agree is entered. -/
theorem exec_surveySegmentWalked {s : State} {n i b : Nat} (hw : (s.ing.expanders[n]?).bind Expander.work = some (i, b))
    (hs : (s.trv i).survey = true) {t : Traveller} (ht : s.trv i = t) {k : Walk} {bins : Nat}
    (hk : s.walkSegment t.handle t.stripe t.seg = (k, bins)) (hd : s.walkDamage t.handle k.reads = none) (ha : s.srv.aborting = false)
    (clocks : Nat) :
    exec (.surveySegmentWalked n clocks false) s = .next ((((((s.expBusy n (min clocks
      (k.cost (s.srOf t.handle) bins ((s.geo t.handle).w / 1024) 0 ((s.geo t.handle).w / 1024)))).freeExpander n).wrapInc
        (Reg.EXP_FIGS_FIGS n) k.figs.length).freeTrv i).segWalked t.handle t.stripe t.seg k bins
          (s.srv.redo.contains (t.handle, s.segNumber t.handle t.stripe t.seg))).srvShow).settle := by
  show execSurveySegmentWalked n clocks false s = _
  subst ht
  simp only [execSurveySegmentWalked, hw, hs, hk, hd, State.segWalked_aborting, State.freeTrv_srv,
    State.wrapInc_srv, State.freeExpander_srv, State.expBusy_srv, ha, Bool.not_true, Bool.false_eq_true, Bool.false_and, if_false, done]

section
variable {s : State} (hw : s.walkOver = true)
include hw

theorem exec_walkComplete (hm : s.srv.mode = 0) : exec .walkComplete s =
    .next ((((s.wr (Reg.COR_MAP_DESC_COSTED (s.rd Reg.SRV_STAT_HANDLE)) 1).wr Reg.SRV_STAT_PHASE 2).raise pSRV 1).raiseIf
      s.srv.shared pFAB 6).settle :=
  if_pos ⟨hw, hm⟩

theorem exec_costWalkComplete (hm : s.srv.mode = 1) : exec .costWalkComplete s =
    .next (((s.wr (Reg.COR_MAP_DESC_COSTED (s.rd Reg.SRV_STAT_HANDLE)) 1).srvEnd 1).raise pSRV 3).settle :=
  if_pos ⟨hw, hm⟩

end

/-! ### Fogging and the sweeps (R188 to R190) -/

/-- FOG_COMPLETE stores the coarse grid and goes to the sweeps. -/
theorem exec_fogComplete {s : State} (hp : s.rd Reg.SRV_STAT_PHASE = 2) (clock : Nat) : ∃ a l, exec (.fogComplete none clock) s =
    .next ((((s.hbmStore a l).wr Reg.SRV_STAT_PHASE 3).modSrv fun v => { v with col := 0, deltaMax := 0, sat := 0 })).settle :=
  ⟨_, _, if_neg (not_not.2 hp)⟩

/-- SWEEP_COLUMN of a column that is not the last writes its factors and counts it. -/
theorem exec_sweepColumn {s : State} {h : Nat} (hh : s.rd Reg.SRV_STAT_HANDLE = h) (hp : s.rd Reg.SRV_STAT_PHASE = 3)
    (hr : s.srv.repair ≠ some h) (hc : s.srv.col + 1 < (s.geo h).cols) (clock : Nat) :
    ∃ dl sat, exec (.sweepColumn none clock) s = .next ((((s.hbmStore (s.mapAddr h + 2 * s.srv.col * (s.geo h).rows)
      ((s.columnOf h (s.geo h) (rhoFrom (s.geo h) s.srv.acc) ((s.srv.col : Int) - 1)).flatMap fun e => leBytes 2 e.1)).wr
        (Reg.COR_MAP_DONE_COLS h) (s.srv.col + 1)).modSrv
          fun v => { v with col := s.srv.col + 1, deltaMax := dl, sat := sat })).settle := by
  subst hh
  refine ⟨_, _, (if_neg ?_).trans (if_pos hc)⟩
  simp [hp, hr]

/-! ### The check of a map (R192, R197, R203) -/

theorem exec_mapComplete {s : State} {h : Nat} (hh : s.rd Reg.SRV_STAT_HANDLE = h) (hp : s.rd Reg.SRV_STAT_PHASE = 4)
    (hm : s.srv.mode = 0) (hr : s.srv.repair ≠ some h) : exec .mapComplete s =
    .next ((((((s.shareCrc (s.mapBytesCrc h)).wr64 (Reg.COR_MAP_CRC_LO_CRC h) (Reg.COR_MAP_CRC_HI_CRC h) (s.mapBytesCrc h)).wr
      (Reg.COR_MAP_DESC_STATE h) 2).srvEnd 1).raise pSRV 2).mapRecord h (s.mapBytesCrc h) false).settle := by
  subst hh
  exact if_neg (by simp [hp, hm, hr])

section
variable {s : State} {h : Nat} (hh : s.rd Reg.SRV_STAT_HANDLE = h) (hp : s.rd Reg.SRV_STAT_PHASE = 4)
include hh hp

/-- A host map whose CRC is SRV_HCRC is committed. -/
theorem exec_hostMapCheckComplete_commit (hm : s.srv.mode = 2)
    (hc : s.mapBytesCrc h = s.rd64 Reg.SRV_HCRC_LO_HCRC Reg.SRV_HCRC_HI_HCRC) : exec .hostMapCheckComplete s =
    .next ((((s.wr64 (Reg.COR_MAP_CRC_LO_CRC h) (Reg.COR_MAP_CRC_HI_CRC h) (s.mapBytesCrc h)).wrs [(Reg.COR_MAP_DESC_STATE h, 3),
      (Reg.COR_MAP_DONE_COLS h, (s.geo h).cols)]).srvEnd 1).raise pSRV 2).settle := by
  subst hh
  exact (if_neg (by simp [hp, hm])).trans ((if_pos hm).trans (if_pos hc))

/-- A host map whose CRC differs is rejected. -/
theorem exec_hostMapCheckComplete_reject (hm : s.srv.mode = 2)
    (hc : s.mapBytesCrc h ≠ s.rd64 Reg.SRV_HCRC_LO_HCRC Reg.SRV_HCRC_HI_HCRC) : exec .hostMapCheckComplete s =
    .next (((s.wr (Reg.COR_MAP_DESC_STATE h) 0).srvEnd 3).raise pSRV 5).settle := by
  subst hh
  exact (if_neg (by simp [hp, hm])).trans ((if_pos hm).trans (if_neg hc))

/-- A re-check that agrees with the map's CRC ends its damage. -/
theorem exec_hostMapCheckComplete_recheck (hm : s.srv.mode = 3)
    (hc : s.mapBytesCrc h = s.rd64 (Reg.COR_MAP_CRC_LO_CRC h) (Reg.COR_MAP_CRC_HI_CRC h)) : exec .hostMapCheckComplete s =
    .next ((((s.wr (Reg.COR_MAP_DESC_DAMAGED h) 0).modSrv fun v => { v with
      damaged := v.damaged.filter fun e => e.1 != h, repaired := v.repaired ++ v.damaged.filter fun e => e.1 == h }).mapWhole h).srvEnd
        1).dmgShow.settle := by
  subst hh
  exact (if_neg (by simp [hp, hm])).trans ((if_neg (by simp [hm])).trans (if_pos hc))

end

/-! ### Repairs (R203, R204) -/

/-- A repair of a handle's map has ended: no damage of the handle is left. -/
def State.repairEnded (s : State) (h : Nat) : State :=
  (((s.wr (Reg.COR_MAP_DESC_DAMAGED h) 0).modSrv fun v => { v with
    damaged := v.damaged.filter fun e => e.1 != h, repair := none,
    repaired := v.repaired ++ v.damaged.filter fun e => e.1 == h }).mapWhole h).raise pSRV 7

/-- MAP_REPAIR_COMPLETE ends the repair once the damaged words are written, and starts the next. -/
theorem exec_mapRepairComplete {s : State} {h : Nat} (hr : s.srv.repair = some h) (hs : s.inReset pSRV = false) :
    ∃ t : State, exec .mapRepairComplete s = .next (t.repairEnded h).nextRepair.settle := by
  show ∃ t : State, execMapRepairComplete s = _
  simp only [execMapRepairComplete, hr, hs, Bool.false_eq_true, if_false]
  exact ⟨_, rfl⟩

theorem State.srv_repairEnded (s : State) (h : Nat) : (s.repairEnded h).srv = { s.srv with
    damaged := s.srv.damaged.filter fun e => e.1 != h, repair := none,
    repaired := s.srv.repaired ++ s.srv.damaged.filter fun e => e.1 == h } := by
  simp [State.repairEnded, State.modSrv_srv]

/-- The start of the next repair keeps the list of damaged words; a repair that starts is of a handle of that list. -/
theorem State.srv_nextRepair (s : State) : s.nextRepair.srv = s.srv ∨
    ∃ h, s.repairDue = some h ∧ s.nextRepair.srv = { s.srv with repair := some h } := by
  unfold State.nextRepair
  split
  · exact .inl rfl
  · split
    next h hn hd => exact .inr ⟨h, hd, by simp [State.modSrv_srv]⟩
    next => exact .inl s.repairShow_srv

theorem State.damaged_of_repairDue {s : State} {h : Nat} (hd : s.repairDue = some h) : ∃ e ∈ s.srv.damaged, e.1 = h := by
  obtain ⟨e, hf, rfl⟩ := Option.map_eq_some_iff.1 hd
  exact ⟨e, List.mem_of_find?_eq_some hf, rfl⟩

/-- With no damage of a handle left and its repair ended, the next repair is of another. -/
theorem State.nextRepair_of_undamaged {s : State} {h : Nat} (hr : s.srv.repair ≠ some h) (hd : ∀ e ∈ s.srv.damaged, e.1 ≠ h) :
    s.nextRepair.srv.repair ≠ some h ∧ ∀ e ∈ s.nextRepair.srv.damaged, e.1 ≠ h := by
  obtain he | ⟨k, hk, he⟩ := s.srv_nextRepair
  · rw [he]
    exact ⟨hr, hd⟩
  · obtain ⟨e, hmem, rfl⟩ := State.damaged_of_repairDue hk
    rw [he]
    exact ⟨fun h' => hd e hmem (Option.some.inj h'), hd⟩

/-- The fields that the start of a repair may change. -/
def repairFields : List Fld :=
  [Reg.SRV_STAT_PHASE, Reg.SRV_STAT_HANDLE, Hdr.state pSRV, Hdr.state pCOR, Hdr.state pING] ++ pSRV.eventFields

theorem State.regsKept.setRunning {s u : State} {fs : List Fld} (h : s.regsKept u fs) {p : Page} (hp : Hdr.state p ∈ fs) (busy : Bool) :
    s.regsKept (u.setRunning p busy) fs :=
  fun g hg => (State.rd_setRunning_ne u (hg _ hp) busy).trans (h g hg)

theorem State.regsKept.repairShow {s u : State} (h : s.regsKept u repairFields) : s.regsKept u.repairShow repairFields := by
  have shown : ∀ t, s.regsKept t repairFields → s.regsKept t.srvShow repairFields := fun t ht =>
    ((ht.setRunning (by simp [repairFields]) _).setRunning (by simp [repairFields]) _).setRunning (by simp [repairFields]) _
  refine shown _ (h.ite ?_)
  split
  next k _ => exact (h.wr (by simp [repairFields]) 5).wr (by simp [repairFields]) k
  next => exact h.wr (by simp [repairFields]) 0

theorem State.regsKept_nextRepair (s : State) : s.regsKept s.nextRepair repairFields := by
  unfold State.nextRepair
  refine (s.regsKept_refl _).ite (State.regsKept.repairShow ?_)
  split
  next k _ _ => exact ((s.regsKept_refl _).of_regs (t := s.modSrv fun v => { v with repair := some k }) rfl).raise (List.subset_append_right _ _) 6
  next => exact s.regsKept_refl _

/-- The DAMAGED bit of a handle is none of them. -/
theorem damaged_not_repairField : ∀ h < 16, ∀ g ∈ repairFields, (Reg.COR_MAP_DESC_DAMAGED h).key ≠ g.key := by decide

theorem damaged_not_event {h : Nat} (hh : h < 16) : ∀ g ∈ pSRV.eventFields, (Reg.COR_MAP_DESC_DAMAGED h).key ≠ g.key :=
  fun g hg => damaged_not_repairField h hh g (List.mem_append_right _ hg)

theorem State.rd_damaged_repairEnded (s : State) {h : Nat} (hh : h < 16) : (s.repairEnded h).rd (Reg.COR_MAP_DESC_DAMAGED h) = 0 :=
  calc (s.repairEnded h).rd (Reg.COR_MAP_DESC_DAMAGED h)
      = (s.wr (Reg.COR_MAP_DESC_DAMAGED h) 0).rd (Reg.COR_MAP_DESC_DAMAGED h) :=
        (State.rd_raise_ne _ _ _ (damaged_not_event hh)).trans (State.rd_congr rfl _)
    _ = 0 := (State.rd_wr_self s _ 0).trans (Nat.zero_mod _)

/-- Settles O47, command by command: where its condition holds, each does what chapter 8 says. -/
theorem surveysComplete : Obligations.SurveysComplete := by
  refine ⟨fun s ag h sr ha => ?_, fun s ag ha hb hp ht => ?_, fun s n clocks i b hw hs hd habort => ?_,
    fun s hw => ⟨exec_walkComplete hw, exec_costWalkComplete hw⟩,
    fun s clock => ⟨fun hp => ?_, fun hp hr hc => ?_, exec_mapComplete rfl,
      fun hp hm => ⟨exec_hostMapCheckComplete_commit rfl hp hm, exec_hostMapCheckComplete_reject rfl hp hm⟩,
      exec_hostMapCheckComplete_recheck rfl⟩,
    fun s h hr hs hh => ?_, fun s ag ha => done_newWork ha _⟩
  · refine ⟨?_, ?_, ?_, ?_⟩ <;> exact fun hr => ⟨_, done_newWork ha _, State.srvStart_of_unrefused hr sr⟩
  · exact (done_access ha _).trans (by rw [State.srvAbort_of_walk_without_travellers hb hp ht])
  · exact exec_surveySegmentWalked hw hs rfl rfl hd habort clocks
  · obtain ⟨a, l, he⟩ := exec_fogComplete hp clock
    exact ⟨_, he, by rw [State.modSrv_rd, State.rd_wr_self]; rfl, by rw [State.modSrv_srv]⟩
  · obtain ⟨dl, sat, he⟩ := exec_sweepColumn rfl hp hr hc clock
    exact ⟨_, he, by rw [State.modSrv_hbm, State.wr_hbm], by rw [State.modSrv_rd, State.rd_wr_self]; rfl, by rw [State.modSrv_srv]⟩
  · obtain ⟨t, he⟩ := exec_mapRepairComplete hr hs
    have hsrv := t.srv_repairEnded h
    refine ⟨_, he, ?_, State.nextRepair_of_undamaged (by simp [hsrv]) fun e hmem => ?_⟩
    · exact (State.regsKept_nextRepair _ _ (damaged_not_repairField h hh)).trans (t.rd_damaged_repairEnded hh)
    · simp only [hsrv, List.mem_filter, bne_iff_ne] at hmem
      exact hmem.2

end Sys2Proof.Machine
end

section
/-!
PROOFS. The quantiser (R216 to R218, R220): the shares of a target, the dither, the codes and carries of a row group, and
the requests of beams that expose nothing.
-/
namespace Sys2Proof.Machine

/-! ### Shares (R216) -/

/-- The first k shares together: the sum telescopes. -/
theorem sum_shareOf_range (tau m k : Nat) : ((List.range k).map fun j => shareOf tau j m).sum = tau * k / m := by
  induction k with
  | zero => simp
  | succ k ih =>
    have hmono : tau * k / m ≤ tau * (k + 1) / m := Nat.div_le_div_right (Nat.mul_le_mul_left tau k.le_succ)
    rw [List.range_succ, List.map_append, List.sum_append, ih, List.map_singleton, List.sum_singleton, shareOf]
    exact Nat.add_sub_cancel' hmono

/-- A share is the target's even part or one more. -/
theorem shareOf_bounds (tau j : Nat) {m : Nat} (hm : 0 < m) : tau / m ≤ shareOf tau j m ∧ shareOf tau j m ≤ tau / m + 1 := by
  rw [shareOf, Nat.mul_succ, Nat.add_div hm]
  generalize tau * j / m = before
  generalize tau / m = even
  split <;> omega

theorem shareOf_le_succ (tau i j : Nat) {m : Nat} (hm : 0 < m) : shareOf tau i m ≤ shareOf tau j m + 1 :=
  (shareOf_bounds tau i hm).2.trans (Nat.add_le_add_right (shareOf_bounds tau j hm).1 1)

/-! ### The group stage (R217) -/

/-- The code a request of c1 gets from a group's budget when the group's requests sum to sum. -/
def grantOf (bud sum c1 : Nat) : Nat := if bud < sum then c1 * bud / sum else c1

/-- A raw carry cut to its bounds. -/
def clampCarry (n : Nat) (raw : Int) : Int := min (max raw (-(2 ^ 36))) (((2 ^ n - 1 : Nat) : Int) * 2 ^ 36)

/-- What the group stage makes of one request, with the group's budget and its sum of requests. -/
def Request.grant (n bud sum : Nat) (r : Request) : Result :=
  let code := grantOf bud sum r.c1
  let raw : Int := r.x - (code : Int) * 2 ^ 36
  { b := r.b, code := code, carry := clampCarry n raw, j := r.j, qsat := r.qsat, blim := r.blim,
    glim := decide (code < r.c1), clamp := decide (((2 ^ n - 1 : Nat) : Int) * 2 ^ 36 < raw) }

theorem groupStage_eq_map_grant (n lim gsum : Nat) (rs : List Request) :
    groupStage n lim gsum rs = rs.map (Request.grant n (lim - gsum) (rs.map Request.c1).sum) := rfl

theorem grantOf_le (bud sum c1 : Nat) : grantOf bud sum c1 ≤ c1 := by
  unfold grantOf
  split
  next h => exact Nat.div_le_of_le_mul (Nat.mul_comm sum c1 ▸ Nat.mul_le_mul_left c1 h.le)
  next => exact le_rfl

/-- Scaling each of a list down and rounding down gives no more than scaling its sum. -/
theorem sum_map_mul_div_le (l : List Nat) (b d : Nat) : (l.map fun c => c * b / d).sum ≤ l.sum * b / d := by
  induction l with
  | nil => simp
  | cons c l ih =>
    calc c * b / d + (l.map fun c => c * b / d).sum ≤ c * b / d + l.sum * b / d := Nat.add_le_add_left ih _
      _ ≤ (c * b + l.sum * b) / d := Nat.div_add_div_le_add_div
      _ = (c + l.sum) * b / d := by rw [Nat.add_mul]

/-- What a budget grants to the requests of a group is within the budget. -/
theorem sum_grantOf_le (bud : Nat) (l : List Nat) : (l.map (grantOf bud l.sum)).sum ≤ bud := by
  by_cases h : bud < l.sum
  · calc (l.map (grantOf bud l.sum)).sum = (l.map fun c => c * bud / l.sum).sum :=
        congrArg List.sum (List.map_congr_left fun _ _ => if_pos h)
      _ ≤ l.sum * bud / l.sum := sum_map_mul_div_le l bud l.sum
      _ = bud := Nat.mul_div_cancel_left bud (Nat.zero_lt_of_lt h)
  · calc (l.map (grantOf bud l.sum)).sum = l.sum :=
        congrArg List.sum ((List.map_congr_left fun _ _ => if_neg h).trans l.map_id')
      _ ≤ bud := Nat.not_lt.1 h

theorem sum_codes_groupStage_le (n lim gsum : Nat) (rs : List Request) :
    ((groupStage n lim gsum rs).map Result.code).sum ≤ lim - gsum := by
  have hcodes : (groupStage n lim gsum rs).map Result.code =
      (rs.map Request.c1).map (grantOf (lim - gsum) (rs.map Request.c1).sum) := by
    rw [groupStage_eq_map_grant, List.map_map, List.map_map]
    rfl
  exact hcodes ▸ sum_grantOf_le _ _

/-- The greatest code of n bits, as an integer expression. -/
theorem cast_two_pow_sub_one (n : Nat) : ((2 ^ n - 1 : Nat) : Int) = 2 ^ n - 1 := by
  rw [Nat.cast_sub Nat.one_le_two_pow]
  norm_num

theorem clampCarry_bounds (n : Nat) (raw : Int) :
    -(2 ^ 36 : Int) ≤ clampCarry n raw ∧ clampCarry n raw ≤ (2 ^ n - 1 : Int) * 2 ^ 36 := by
  have hhi : -(2 ^ 36 : Int) ≤ ((2 ^ n - 1 : Nat) : Int) * 2 ^ 36 := by omega
  exact ⟨le_min (le_max_right _ _) hhi, cast_two_pow_sub_one n ▸ min_le_right _ _⟩

/-- A raw carry within its bounds is kept. -/
theorem clampCarry_of_within {n : Nat} {raw : Int} (hlo : -(2 ^ 36 : Int) ≤ raw) (hhi : raw ≤ (2 ^ n - 1 : Int) * 2 ^ 36) :
    clampCarry n raw = raw := by
  rw [clampCarry, cast_two_pow_sub_one, max_eq_left hlo, min_eq_left hhi]

/-! ### The dither (R218) -/

theorem ditherHash_lt (seed i j r : Nat) : ditherHash seed i j r < 2 ^ 32 := by
  have hmod (a : Nat) : a % 2 ^ 32 < 2 ^ 32 := Nat.mod_lt _ (by decide)
  exact Nat.xor_lt_two_pow (hmod _) ((Nat.div_le_self _ _).trans_lt (hmod _))

/-- The dither of a hash of 32 bits: its high half, centred, in units of DAMP * 4096. -/
theorem ditherOf_bounds (damp : Nat) {h : Nat} (hh : h < 2 ^ 32) :
    -(damp * 2 ^ 27 : Int) ≤ ditherOf damp h ∧ ditherOf damp h ≤ damp * 2 ^ 27 := by
  have hhigh : h / 2 ^ 16 < 65536 := by omega
  have hunit : (0 : Int) ≤ damp * 4096 := by positivity
  have hscaled : ditherOf damp h = ((h / 2 ^ 16 : Nat) - 32768 : Int) * (damp * 4096) := mul_assoc _ _ _
  have hbound : (damp * 2 ^ 27 : Int) = 32768 * (damp * 4096) := by ring
  rw [hscaled, hbound, ← neg_mul]
  exact ⟨mul_le_mul_of_nonneg_right (by omega) hunit, mul_le_mul_of_nonneg_right (by omega) hunit⟩

/-! ### Beams that expose nothing (R217, R220) -/

/-- A beam over no pixel of the stripe, or an absent one, requests no code and keeps its carry. -/
theorem State.request_of_unexposed {s : State} {w : Waybill} {p : Plan} {t b : Nat}
    (h : s.rowPixel w p t (b / 512) = none ∨ s.btAbsent p.bank p.weakAbs b = true) (ws : List (Nat × Nat)) :
    s.request w p t ws b = { b := b, x := lookI s.alc.carry b, c1 := 0, j := none } := by
  cases hv : s.rowPixel w p t (b / 512) with
  | none => simp only [State.request, hv]
  | some v =>
    have habsent : s.btAbsent p.bank p.weakAbs b = true := h.resolve_left fun hnone => by cases hnone.symm.trans hv
    simp only [State.request, hv, habsent, if_true]

/-- Settles O42: the shares telescope, a group's grants stay within its budget, and a carry is cut only at its bounds. -/
theorem quantiserKeepsDoseAndLimits : Obligations.QuantiserKeepsDoseAndLimits := by
  refine ⟨fun tau m hm => ⟨?_, fun i _ j _ => shareOf_le_succ tau i j hm⟩,
    fun n lim gsum rs => ⟨sum_codes_groupStage_le n lim gsum rs, fun i r hr => ?_⟩,
    fun seed i j r damp => ditherOf_bounds damp (ditherHash_lt seed i j r), fun s w p t b ws h => ?_⟩
  · rw [sum_shareOf_range, Nat.mul_div_cancel tau hm]
  · have hget : (groupStage n lim gsum rs)[i]? = some (r.grant n (lim - gsum) (rs.map Request.c1).sum) := by
      rw [groupStage_eq_map_grant, List.getElem?_map, hr, Option.map_some]
    obtain ⟨hlo, hhi⟩ := clampCarry_bounds n (r.x - (grantOf (lim - gsum) (rs.map Request.c1).sum r.c1 : Nat) * 2 ^ 36)
    refine ⟨_, hget, rfl, grantOf_le _ _ _, hlo, hhi, fun hlow hhigh => ?_⟩
    exact (congrArg _ (clampCarry_of_within hlow hhigh)).trans (add_sub_cancel _ _)
  · rw [State.request_of_unexposed h]
    exact ⟨rfl, rfl⟩

end Sys2Proof.Machine
end

section
/-!
PROOFS. The allocator's commands (R225, R226, R228, R229, R525): what a computed tick leaves, how TICK_COMPUTE ends for each
upset, PLAN_REBUILD and ALLOCATOR_RESET_ABANDON.
-/
namespace Sys2Proof.Machine

open Sys2Proof (AlcUpset)

/-! ### A computed tick (R217, R228) -/

theorem Steps.alc_eq {s t : State} (h : Steps (· ≠ Part.alc) s t) : t.alc = s.alc := (h.kept .alc).resolve_left fun hne => hne rfl

@[simp] theorem State.countEvent_alc (s : State) (wseq : Nat) (rs : List Result) (f : Result → Bool) (cnt : Fld) (bit : Nat)
    (upd : SegCounts → Nat → SegCounts) : (s.countEvent wseq rs f cnt bit upd).alc = s.alc :=
  (State.countEvent_steps (by decide) (by decide) (Steps.refl _ s) wseq rs f cnt bit upd).alc_eq

section
variable (s : State) (w : Waybill) (p : Plan) (t : Nat)

/-- The marks of the travellers and the segment shown are no part of the allocator. -/
theorem State.computeTick_alc : (s.computeTick w p t).alc = (s.takeTick w p t).alc := rfl

theorem State.computeTick_next : (s.computeTick w p t).alc.next = t + 1 := by
  rw [State.computeTick_alc, State.takeTick]

theorem State.computeTick_codes : (s.computeTick w p t).alc.codes =
    s.alc.codes ++ [(t, ((s.tickResults w p t).filter fun r => r.code != 0).map fun r => (r.b, r.code))] := by
  simp only [State.computeTick_alc, State.takeTick, State.countEvent_alc]

/-- The allocator's own state holds no register. -/
theorem State.rd_setAlc (a : Alc) (f : Fld) : ({ s with alc := a } : State).rd f = s.rd f := rfl

theorem State.rd_alcTick_takeTick : (s.takeTick w p t).rd Reg.ALC_TICK_TICK = t % 2 ^ 32 := by
  rw [State.takeTick]
  exact (State.rd_setAlc _ _ _).trans (State.rd_wr_self _ _ _)

/-- ALC_TICK and ING_WB_SEG stand at different places. -/
theorem State.rd_alcTick_showSeg : (s.showSeg w p t).rd Reg.ALC_TICK_TICK = s.rd Reg.ALC_TICK_TICK :=
  State.rd_wr_ne s (by decide) _

theorem State.rd_readMarks (f : Fld) : (s.readMarks w p t).rd f = s.rd f := rfl

theorem State.rd_alcTick_computeTick : (s.computeTick w p t).rd Reg.ALC_TICK_TICK = t % 2 ^ 32 := by
  rw [State.computeTick, State.rd_alcTick_showSeg, State.rd_readMarks, State.rd_alcTick_takeTick]

end

/-! ### TICK_COMPUTE (R225, R226, R228, R229) -/

/-- Where each upset leaves a tick whose data are sound. -/
def State.tickEnd (s : State) (w : Waybill) (p : Plan) (t : Nat) : AlcUpset → State
  | .none => s.computeTick w p t
  | .mismatch => ((s.raise pALC 2).satInc Reg.ALC_CNT_RETRY_RETRIES 1).computeTick w p t
  | .mismatchTwice => ((s.raise pALC 2).satInc Reg.ALC_CNT_RETRY_RETRIES 1).allocFails 0 t
  | .restored => (s.raise pALC 9).computeTick w p t
  | .stateLost => s.allocFails 1 t
  | .planLost => { s with alc := { s.alc with planLost := true } }

/-- With no injection armed the upset of a tick is what the surroundings do. -/
theorem State.alcUpset_of_unarmed {s : State} (h : s.bit (Hdr.injArm pALC) = false) (u : AlcUpset) : s.alcUpset u = (u, s) := by
  simp [State.alcUpset, h]

section
variable {s : State} {w : Waybill} {p : Plan} (hcur : s.cur = some (w, p)) (hc : s.canCompute w p s.alc.next = true)
include hcur hc

/-- TICK_COMPUTE of sound data with no injection armed. -/
theorem exec_tickCompute_of_sound (hi : s.rd (Hdr.injArm pALC) = 0) (hp : s.tickPoison w p s.alc.next = none) (up : AlcUpset) :
    exec (.tickCompute up) s = .next (s.tickEnd w p s.alc.next up).settle := by
  have hunarmed : s.bit (Hdr.injArm pALC) = false := by simp [State.bit, hi]
  show execTickCompute up s = _
  simp only [execTickCompute, hcur, hc, hp, State.btInject_of_unarmed hunarmed, State.alcUpset_of_unarmed hunarmed]
  cases up <;> rfl

/-- TICK_COMPUTE that meets poison in segment j, whatever the upset. -/
theorem exec_tickCompute_of_poison {j : Nat} (hp : s.tickPoison w p s.alc.next = some j) (up : AlcUpset) :
    exec (.tickCompute up) s = .next (((s.raise pALC 3).halt rPOISON s.alc.next).markRecompute w.seq j).settle := by
  show execTickCompute up s = _
  simp only [execTickCompute, hcur, hc, hp]
  rfl

end

/-! ### PLAN_REBUILD and the abandonment of a reset (R226, R525) -/

theorem exec_planRebuild {s : State} (hp : s.alc.planLost = true) (hl : s.live pALC = true) :
    exec .planRebuild s = .next ({ s with alc := { s.alc with planLost := false } } : State).settle := by
  show execPlanRebuild s = _
  rw [execPlanRebuild, if_pos ⟨hp, hl⟩]
  rfl

theorem exec_allocatorResetAbandon {s t : State} {w : Waybill} {p : Plan} (hcur : s.cur = some (w, p)) (hrel : s.alc.abandonRel = true)
    (hr : s.inReset pALC = false) (hw : s.hstate = hWAITING ∨ p.launched = 0)
    (ht : t = ({ s with alc := { s.alc with abandonRel := false } } : State).dropSecond) :
    exec .allocatorResetAbandon s = .next (t.abandon (if p.launched = 0 then 0 else t.mot.hTick)).settle := by
  subst ht
  show execAllocatorResetAbandon s = _
  simp only [execAllocatorResetAbandon, hcur]
  exact if_pos ⟨hrel, hr, hw⟩

/-- Settles O41: each end of TICK_COMPUTE, what the computed tick leaves, and the two commands that complete. -/
theorem ticksAreComputedInOrder : Obligations.TicksAreComputedInOrder := by
  refine ⟨fun s w p hcur hc hi => ⟨fun hp => ?_, fun j hp up => exec_tickCompute_of_poison hcur hc hp up⟩,
    fun s => exec_planRebuild, fun s w p hcur hrel hr hw => ⟨_, rfl, exec_allocatorResetAbandon hcur hrel hr hw rfl⟩⟩
  have ends := exec_tickCompute_of_sound hcur hc hi hp
  exact ⟨ends .none, s.computeTick_next w p _, s.rd_alcTick_computeTick w p _, s.computeTick_codes w p _,
    ends .mismatch, ends .mismatchTwice, ends .restored⟩

end Sys2Proof.Machine
end

section
/-!
PROOFS. The position port (R231 to R237), deflection words (R247) and setpoint frames (R245, R432): what each command does
where its condition holds.
-/
namespace Sys2Proof.Machine

open Sys2Proof (Byte)

/-! ### Position samples (R235, R236) -/

theorem exec_positionSample {s : State} {lane : Nat} (hl : s.live pMOT = true) (hu : s.laneUsed lane = true)
    (arr dtx : Int) (fr : List Byte) :
    exec (.positionSample lane arr dtx fr) s = .next (s.sample lane arr dtx (posFrame fr)).settle := by
  show execPositionSample lane arr dtx fr s = _
  rw [execPositionSample, if_pos (Bool.and_eq_true_iff.2 ⟨hl, hu⟩)]
  rfl

section
variable (s : State) (lane : Nat) (arr dtx : Int) {f : PosFrame}

theorem State.sample_of_malformed (h : f.formOk = false) : s.sample lane arr dtx f = s.smpDiscard Reg.MOT_CNT_0_CRC := by
  simp only [State.sample, h, Bool.not_false, if_true]

theorem State.sample_of_invalid (h : f.formOk = true) (hv : f.valid = false) :
    s.sample lane arr dtx f = s.smpDiscard Reg.MOT_CNT_0_MISS := by
  simp only [State.sample, h, hv, Bool.not_true, Bool.not_false, Bool.false_eq_true, if_false, if_true]

/-- A good first copy is noted for the comparison with the second one, and judged. -/
theorem State.sample_of_first (h : f.formOk = true) (hv : f.valid = true) (hc : s.mot.copy = none) :
    s.sample lane arr dtx f =
      (s.modMot fun m => { m with copy := some ⟨f.seq, lane, f.body, arr, false⟩, equalRun := 0 }).smpJudge lane f arr dtx := by
  simp only [State.sample, h, hv, hc, Bool.not_true, Bool.false_eq_true, if_false, State.modMot]

/-- In NO_LOCK and LOST a good copy starts a run of samples, whichever samples came before. -/
theorem State.smpJudge_of_fresh (f : PosFrame) (h : s.posState = psNOLOCK ∨ s.posState = psLOST) :
    s.smpJudge lane f arr dtx = s.smpAccept ⟨f.seq, f.x, f.y, f.status, arr, arr - s.slat, lane⟩ 1 true dtx := by
  unfold State.smpJudge
  split
  · rfl
  · exact if_pos h

end

/-! ### Deflection words (R247, R432) -/

theorem exec_deflectionWordTimeout {s : State} {now : Int} (h : s.mot.lastWord + (if s.safeMode then 800 else 960) ≤ now) :
    exec (.deflectionWordTimeout now) s = .next (s.deflect now).settle := by
  show execDeflectionWordTimeout now s = _
  rw [execDeflectionWordTimeout, if_pos h]
  rfl

/-! ### Lane locks (R231, R237) -/

/-- LOCK after a lane's lock has changed. -/
def lockAfter (lock lane : Nat) (locked : Bool) : Nat := if locked then setBit lock lane else clrBit lock lane

theorem testBit_lockAfter_self (lock lane : Nat) (locked : Bool) : (lockAfter lock lane locked).testBit lane = locked := by
  cases locked <;> simp [lockAfter]

theorem testBit_lockAfter_ne (lock : Nat) {lane other : Nat} (h : other ≠ lane) (locked : Bool) :
    (lockAfter lock lane locked).testBit other = lock.testBit other := by
  cases locked <;> simp [lockAfter, h]

/-- With a used lane locked the position state is kept. -/
theorem State.lanesChecked_of_laneUsed {s : State} {lane : Nat} (hn : lane < 2) (hu : s.laneUsed lane = true) : s.lanesChecked = s := by
  refine if_pos ?_
  obtain rfl | rfl : lane = 0 ∨ lane = 1 := by omega
  · exact .inl hu
  · exact .inr (.inl hu)

/-- Both lanes are used where RXMODE is 0, so a locked one is a used one. -/
theorem State.laneUsed_of_both {s : State} {lane : Nat} (hr : s.rd Reg.MOT_PORT_RXMODE = 0)
    (hl : (s.rd Reg.MOT_POS_STAT_LOCK).testBit lane = true) : s.laneUsed lane = true := by
  simp [State.laneUsed, hr, hl]

theorem exec_motionLaneLockChange {s : State} {lane : Nat} {locked : Bool} (hn : lane < 2) (hs : s.inReset pMOT = false)
    (hb : (s.rd Reg.MOT_POS_STAT_LOCK).testBit lane = !locked) :
    exec (.motionLaneLockChange lane locked) s = .next ((s.wr Reg.MOT_POS_STAT_LOCK
      (lockAfter (s.rd Reg.MOT_POS_STAT_LOCK) lane locked)).raise pMOT 7).lanesChecked.settle := by
  have hne : lockAfter (s.rd Reg.MOT_POS_STAT_LOCK) lane locked ≠ s.rd Reg.MOT_POS_STAT_LOCK := fun heq => by
    have hself := testBit_lockAfter_self (s.rd Reg.MOT_POS_STAT_LOCK) lane locked
    rw [heq, hb] at hself
    exact Bool.not_ne_self locked hself
  refine if_neg ?_
  rintro (h | h | h)
  · omega
  · exact hne h
  · rw [hs] at h; cases h

/-- The other lane stays locked and used over the change. -/
theorem State.laneUsed_of_lockChange {s : State} {lane other : Nat} (hne : other ≠ lane) (ho : other < 2) (locked : Bool)
    (hr : s.rd Reg.MOT_PORT_RXMODE = 0) (hl : (s.rd Reg.MOT_POS_STAT_LOCK).testBit other = true) :
    ((s.wr Reg.MOT_POS_STAT_LOCK (lockAfter (s.rd Reg.MOT_POS_STAT_LOCK) lane locked)).raise pMOT 7).laneUsed other = true := by
  apply State.laneUsed_of_both
  · rw [State.rd_raise_ne _ _ _ (by decide), State.rd_wr_ne _ (by decide), hr]
  · rw [State.rd_raise_ne _ _ _ (by decide), State.rd_wr_self, Nat.testBit_mod_two_pow, testBit_lockAfter_ne _ hne, hl,
      Bool.and_true]
    exact decide_eq_true ho

/-! ### HOLDOVER and LOST (R237) -/

theorem exec_holdover {s : State} {now : Int} (hp : s.posState = psVALID) (ho : s.overdue now 0 = true) :
    exec (.holdover now) s = .next ((s.wr Reg.MOT_POS_STAT_PSTATE psHOLDOVER).modMot fun m => { m with gap := 1 }).settle := by
  show execHoldover now s = _
  rw [execHoldover, if_pos ⟨hp, ho⟩]
  rfl

/-- One more overdue interval counts, and the count is compared with MISS_LIM. -/
theorem exec_holdoverMissLimit {s t : State} {now : Int} (hp : s.posState = psHOLDOVER) (ho : s.overdue now s.mot.gap = true)
    (ht : t = s.modMot fun m => { m with gap := m.gap + 1 }) :
    exec (.holdoverMissLimit now) s =
      .next (if s.rd Reg.MOT_TRIG_MISS_LIM < s.mot.gap + 1 then t.posLost else t).settle := by
  subst ht
  exact if_pos ⟨hp, ho⟩

/-! ### Setpoint frames (R245, R432) -/

theorem exec_setpointFrame_hold {s : State} (h : s.safeMode = true) : exec .setpointFrame s =
    .next ((s.setpointOut (setpointFrame 0x62 s.mot.mtxSeq 0 0 0 0 0)).modMot fun m =>
      { m with mtxSeq := (m.mtxSeq + 1) % 65536 }).settle :=
  if_pos h

/-- A microsecond of the profile generator of a module that is no follower. -/
theorem exec_setpointFrame_step {s : State} (h : s.safeMode = false) (ht : s.mot.trajectory = true)
    (hf : s.axesStep.isFollower = false) : exec .setpointFrame s =
    .next (s.axesStep.moveEnds.sendSetpoint.lateCheck.lateHalt.thermShow.autoClear.motShow).settle := by
  show execSetpointFrame s = _
  simp only [execSetpointFrame, h, ht, hf, Bool.false_eq_true, if_false, if_true]
  rfl

/-- Settles O35: samples by what is wrong with them, a lane by the other one that stays locked, and the rest by their conditions. -/
theorem positionPortCommandsComplete : Obligations.PositionPortCommandsComplete := by
  intro s lane arr dtx now fr
  refine ⟨fun hl hu => ?_, exec_deflectionWordTimeout, fun locked hn hs _ hb hr ho => ?_, exec_holdover,
    fun hp ho => ?_, exec_setpointFrame_hold, fun h _ ht hf => exec_setpointFrame_step h ht hf⟩
  · rw [exec_positionSample hl hu]
    refine ⟨fun h => ?_, fun h hv => ?_, fun h hv hp hc => ?_⟩
    · rw [State.sample_of_malformed s lane arr dtx h]
    · rw [State.sample_of_invalid s lane arr dtx h hv]
    · rw [State.sample_of_first s lane arr dtx h hv hc, State.smpJudge_of_fresh (s.modMot _) lane arr dtx _ hp]
      rfl
  · rw [exec_motionLaneLockChange hn hs hb, State.lanesChecked_of_laneUsed (lane := 1 - lane) (by omega)
      (State.laneUsed_of_lockChange (by omega) (by omega) locked hr ho)]
    rfl
  · rw [exec_holdoverMissLimit hp ho rfl]
    exact ⟨fun hle => by rw [if_neg hle.not_gt], fun hlt => by rw [if_pos hlt]⟩

end Sys2Proof.Machine
end

section
/-!
PROOFS. Tick edges (R241 to R243, R268, R289), run-ups (R259, R260, R271, R272) and the expiry of a gap (R260): what each
command does where its condition holds.
-/
namespace Sys2Proof.Machine

/-! ### Commitment (R241, R242) -/

theorem le_gridUp (τ : Int) : τ ≤ gridUp τ := by
  unfold gridUp ceilDivI
  omega

/-- A bound taken only where it lies above a wanted time keeps what the wanted time keeps. -/
theorem le_getD_of_bound {low want : Int} (h : low ≤ want) (bound : Option Int) :
    low ≤ (match bound with | some b => if want < b then some b else none | none => none).getD want := by
  split
  next b =>
    split_ifs with hb
    · exact h.trans hb.le
    · exact h
  next => exact h

/-- The edge of a tick is committed at least 16 ns after the present, whether it is due, predicted or held back by R242. -/
theorem State.committed_commit (s : State) (p : Plan) (t : Nat) (now : Int) :
    ∃ e : Int, (s.commit p t now).mot.committed = some (t, e) ∧ now + 256 ≤ e := by
  have hgrid := le_gridUp (now + 256)
  refine ⟨_, rfl, le_getD_of_bound ?_ _⟩
  split
  · exact le_max_of_le_right hgrid
  · exact hgrid

section
variable {s : State} {w : Waybill} {p : Plan} (hcur : s.cur = some (w, p))
include hcur

theorem exec_edgeCommit {now : Int} (hl : s.live pMOT = true) (hp : s.posLive = true) (hs : s.suppressed = false)
    (hc : s.mot.committed = none) (ht : s.tickNext < nTicks w.length p.k p.a) (hb : ∀ c, s.ceiling = some c → s.tickNext < c)
    (hr : s.mot.due = true ∨ ∃ e, s.mot.predicted = some e ∧ e - 256 ≤ now)
    (ha : s.allocHolds s.tickNext = true) (hk : s.tickAcked w.seq p.lanes s.tickNext = true) :
    exec (.edgeCommit now) s = .next (s.commit p s.tickNext now).settle := by
  have below : (match s.ceiling with | some c => decide (s.tickNext < c) | none => true) = true := by
    split
    next c hceil => exact decide_eq_true (hb c hceil)
    next => rfl
  have reached : (s.mot.due || match s.mot.predicted with | some e => decide (e - 256 ≤ now) | none => false) = true := by
    obtain h | ⟨e, he, hle⟩ := hr
    · simp [h]
    · simp [he, hle]
  show execEdgeCommit now s = _
  simp only [execEdgeCommit, hcur, hl, hp, hs, hc, ha, hk, Nat.not_le.2 ht]
  refine if_neg fun h => ?_
  simp only [Bool.not_true, Bool.false_or, Option.isSome_none, decide_false, Bool.or_eq_true, Bool.not_eq_true'] at h
  obtain h | h := h
  · exact Bool.false_ne_true (h.symm.trans below)
  · exact Bool.false_ne_true (h.symm.trans reached)

/-! ### Launch (R243) -/

theorem exec_tickEdgeLaunch {t : Nat} {at_ : Int} (hc : s.mot.committed = some (t, at_)) (hl : s.live pMOT = true)
    (hp : s.posLive = true) : exec .tickEdgeLaunch s = .next (s.launch w p t at_).settle := by
  show execTickEdgeLaunch s = _
  simp only [execTickEdgeLaunch, hcur, hc, hl, hp, Bool.and_self, if_true]
  rfl

end

section
variable (s : State) (f : Plan → Plan)

@[simp] theorem State.modPlan_regs : (s.modPlan f).regs = s.regs := by unfold State.modPlan; split <;> rfl

@[simp] theorem State.modPlan_out : (s.modPlan f).out = s.out := by unfold State.modPlan; split <;> rfl

end

/-- What the launch of a tick amid a run leaves: phase 0 sent, the next tick, and the 15 further phases due. The states between
are named as in the definition; HSTATE and the role still read as before at the sixth, so no run begins there. -/
theorem State.launch_within_run {s : State} {w : Waybill} {p : Plan} {t : Nat} {at_ : Int}
    (ht : t + 1 < nTicks w.length p.k p.a) (ht32 : t + 1 < 2 ^ 32) (hr : s.hstate ≠ hRUNUP) (hf : s.isFollower = false) :
    (s.launch w p t at_).out = .edge t 0 at_ :: s.out ∧ (s.launch w p t at_).tickNext = t + 1 ∧
      (s.launch w p t at_).mot.committed = none ∧ (s.launch w p t at_).mot.nextPhase = 1 ∧
      (s.launch w p t at_).mot.lastEdge = some (t, at_, s.spacing p, s.curThr w p t) := by
  generalize hu : s.launch w p t at_ = u
  unfold State.launch at hu
  extract_lets sp s1 s2 s3 s4 alc s5 s6 s7 at hu
  have hout : s3.out = s2.out := (apply_ite State.out _ _ _).trans (ite_self _)
  have hrd (g : Fld) (hg : g.key ≠ Reg.MOT_CNT_3_EXTRAP.key) : s6.rd g = s2.rd g :=
    calc
      s6.rd g = s3.rd g := State.rd_congr (State.modPlan_regs s5 _) g
      _ = s2.rd g := rd_ite (s2.rd_satInc_ne hg 1) rfl
  have hstate : s6.hstate = s.hstate := (hrd _ (by decide)).trans (s1.rd_wrs_ne _ (by simp +decide))
  have hrole : s6.isFollower = s.isFollower :=
    congrArg (· == 2) ((hrd Reg.FAB_MOT_ROLE (by decide)).trans (s1.rd_wrs_ne _ (by simp +decide)))
  have h7 : s7 = s6 := if_neg (by simp [hstate, hrole, hr, hf])
  rw [if_neg ht.ne, h7] at hu
  subst hu
  refine ⟨?_, ?_, rfl, rfl, rfl⟩
  · calc
      s6.out = s3.out := State.modPlan_out s5 _
      _ = s2.out := hout
      _ = .edge t 0 at_ :: s.out := s1.wrs_out _
  · calc
      s6.rd Reg.MOT_TICK_NEXT_TICK = s2.rd Reg.MOT_TICK_NEXT_TICK := hrd _ (by decide)
      _ = (t + 1) % 2 ^ 32 := s1.rd_wrs_of_mem (by simp +decide) (by simp)
      _ = t + 1 := Nat.mod_eq_of_lt ht32

/-! ### Phases (R243) -/

theorem exec_phaseEdge {s : State} {t sp : Nat} {at_ thr : Int} (he : s.mot.lastEdge = some (t, at_, sp, thr)) (hn : s.mot.nextPhase < 16) :
    exec .phaseEdge s = .next ((s.emit (.edge t s.mot.nextPhase (at_ + 4 * (s.mot.nextPhase * sp)))).modMot fun m =>
      { m with nextPhase := m.nextPhase + 1 }).settle := by
  show execPhaseEdge s = _
  simp only [execPhaseEdge, he, hn, if_true]
  rfl

/-! ### Run-ups (R259, R260, R271, R272, R276) -/

/-- The dwell ends only with a stripe current. -/
theorem State.cur_of_dwellOver {s : State} (h : s.dwellOver = true) : ∃ w p, s.cur = some (w, p) := by
  unfold State.dwellOver at h
  split at h
  next => cases h
  next w p hcur => exact ⟨w, p, hcur⟩

theorem State.rd_startRunup {s : State} {w : Waybill} {p : Plan} (hcur : s.cur = some (w, p)) (f : Fld) : s.startRunup.rd f =
    (((s.wr Reg.MOT_HALT_STAT_HSTATE hRUNUP).wr Reg.MOT_POS_STAT_SUPPRESS 0).wr Reg.MOT_HALT_TICK_TICK 0xFFFFFFFF).rd f := by
  simp only [State.startRunup, hcur]
  rfl

/-- A run-up has begun: HSTATE is RUNUP, ticks are not suppressed and no halt is held. -/
theorem State.startRunup_spec {s : State} {w : Waybill} {p : Plan} (hcur : s.cur = some (w, p)) :
    s.startRunup.hstate = hRUNUP ∧ s.startRunup.suppressed = false ∧ s.startRunup.rd Reg.MOT_HALT_TICK_TICK = 0xFFFFFFFF := by
  refine ⟨?_, ?_, ?_⟩
  · rw [State.hstate, State.rd_startRunup hcur, State.rd_wr_ne _ (by decide), State.rd_wr_ne _ (by decide), State.rd_wr_self]
    rfl
  · rw [State.suppressed, State.bit, State.rd_startRunup hcur, State.rd_wr_ne _ (by decide), State.rd_wr_self]
    rfl
  · rw [State.rd_startRunup hcur, State.rd_wr_self]
    rfl

theorem exec_runupStart {s : State} (h : s.autoClear.alignCheck.dwellOver = true) :
    exec .runupStart s = .next (s.autoClear.alignCheck.startRunup.raise pMOT 16).settle :=
  if_pos h

theorem exec_haltResume {s t : State} (ht : t = s.autoClear) (hh : t.hstate = hWAITING) (hr : t.reasons = 0) (hp : t.posState = psVALID)
    (ha : t.allocHolds t.mot.hTick = true) (hg : t.groupAll (fun f => f.flag 1) = true) :
    exec .haltResume s = .next t.startRunup.settle := by
  subst ht
  exact if_pos ⟨hh, hr, hp, ha, hg⟩

/-! ### The expiry of a gap (R260) -/

/-- At the run-up point every gap request is released, and an alignment run in hand is spoiled. -/
theorem exec_gapMaxExpiry {s t : State} (hh : s.hstate = hTURN) (hr : s.mot.atRunup = true)
    (ht : t = (s.modMot fun m => { m with gapBeam := false, gapCal := false }).wr Reg.MOT_HALT_STAT_GAP 0) :
    ∃ pak : Pak, exec .gapMaxExpiry s = .next ({ t with pak := pak } : State).settle := by
  subst ht
  exact ⟨_, if_pos ⟨hh, hr⟩⟩

/-- Settles O36: an edge from its commitment over its launch to its phases, and the two ways a run-up begins. -/
theorem tickEdgesAndRunupsComplete : Obligations.TickEdgesAndRunupsComplete := by
  refine ⟨fun s now w p hcur hl hp hs hc ht hb hr ha hk =>
      ⟨exec_edgeCommit hcur hl hp hs hc ht hb hr ha hk, s.committed_commit p _ now⟩,
    fun s w p t at_ hcur hc hl hp => ⟨exec_tickEdgeLaunch hcur hc hl hp, State.launch_within_run⟩,
    fun s t sp at_ thr => exec_phaseEdge, fun s h => ?_, fun s hh hr => ?_, fun s => exec_haltResume rfl⟩
  · obtain ⟨w, p, hcur⟩ := State.cur_of_dwellOver h
    exact ⟨exec_runupStart h, State.startRunup_spec hcur⟩
  · obtain ⟨pak, hexec⟩ := exec_gapMaxExpiry hh hr rfl
    have kept : s.regsKept (s.wr Reg.MOT_HALT_STAT_GAP 0) [Reg.MOT_HALT_STAT_GAP] := (s.regsKept_refl _).wr List.mem_cons_self 0
    exact ⟨_, hexec, rfl, rfl, (State.rd_congr rfl _).trans (s.rd_wr_self _ 0), kept.of_regs rfl, rfl⟩

end Sys2Proof.Machine
end

section
/-!
PROOFS. A step of a move (R252, R253): the speed it goes on with, and where it leaves the axis.
-/
namespace Sys2Proof.Machine

/-! ### The speed after a step -/

/-- The speed at the end of a step of a move (R253): slower within the braking distance, else towards VC. -/
def Axis.moveSpeed (a : Axis) (acc dec tgt : Int) : Int :=
  if a.dirn * (tgt - a.p) - 2 * a.v ≤ (a.v * a.v - a.vs * a.vs) / dec then max a.vs (a.v - dec)
  else if a.v < a.vc then min a.vc (a.v + acc)
  else max a.vc (a.v - dec)

section
variable {a : Axis} {acc dec : Int} (hv : a.vs ≤ a.v) (hacc : 0 < acc) (hdec : 0 < dec) (tgt : Int)
include hv hacc hdec

/-- The speed stays between VS and the greater of VC and the speed before. -/
theorem Axis.moveSpeed_bounds (hvc : a.vs ≤ a.vc) :
    a.vs ≤ a.moveSpeed acc dec tgt ∧ a.moveSpeed acc dec tgt ≤ max a.vc a.v := by
  unfold Axis.moveSpeed
  split_ifs <;> omega

/-- The speed changes by at most DEC downwards and ACC upwards. -/
theorem Axis.moveSpeed_change : a.v - dec ≤ a.moveSpeed acc dec tgt ∧ a.moveSpeed acc dec tgt ≤ a.v + acc := by
  unfold Axis.moveSpeed
  split_ifs <;> omega

end

/-! ### Where a step leaves the axis -/

section
variable {a : Axis} (hd : a.dirn = 1 ∨ a.dirn = -1) (q tgt : Int)
include hd

/-- Travel along the direction of a move shortens what remains by as much. -/
theorem Axis.remaining_after : a.dirn * (tgt - (a.p + a.dirn * q)) = a.dirn * (tgt - a.p) - q := by
  obtain h | h := hd <;> rw [h] <;> ring

theorem Axis.travelled : a.dirn * (a.p + a.dirn * q - a.p) = q := by
  obtain h | h := hd <;> rw [h] <;> ring

end

section
variable {a : Axis} {acc dec tgt : Int} (hd : a.dirn = 1 ∨ a.dirn = -1)
include hd

/-- A step that would reach or pass the target ends the move there. -/
theorem Axis.moveStep_of_reach (h : a.dirn * (tgt - a.p) ≤ a.v + a.moveSpeed acc dec tgt) :
    a.moveStep acc dec tgt = { a with p := tgt, v := a.vs, tgt := none } := by
  refine if_pos ?_
  rw [Axis.remaining_after hd]
  exact sub_nonpos.2 h

/-- Any other step moves the axis by the sum of the two speeds. -/
theorem Axis.moveStep_of_short (h : a.v + a.moveSpeed acc dec tgt < a.dirn * (tgt - a.p)) :
    a.moveStep acc dec tgt =
      { a with p := a.p + a.dirn * (a.v + a.moveSpeed acc dec tgt), v := a.moveSpeed acc dec tgt } := by
  refine if_neg ?_
  rw [Axis.remaining_after hd, not_le]
  exact sub_pos.2 h

end

/-- Settles O39: a step ends the move on the target, or leaves the axis short of it with the speed of R253. -/
theorem movesNeverPassTheirTarget : Obligations.MovesNeverPassTheirTarget := by
  intro a acc dec tgt hd hvs hvc hv hacc hdec hrem htgt
  obtain ⟨hlo, hhi⟩ := Axis.moveSpeed_bounds hv hacc hdec tgt hvc
  obtain hreach | hshort := le_or_gt (a.dirn * (tgt - a.p)) (a.v + a.moveSpeed acc dec tgt)
  · rw [Axis.moveStep_of_reach hd hreach]
    simp [hrem.le, hv]
  · have hp := Axis.remaining_after hd (a.v + a.moveSpeed acc dec tgt) tgt
    have hne : a.p + a.dirn * (a.v + a.moveSpeed acc dec tgt) ≠ tgt := fun heq => by
      rw [heq, sub_self, mul_zero] at hp
      omega
    obtain ⟨hdown, hup⟩ := Axis.moveSpeed_change hv hacc hdec tgt
    rw [Axis.moveStep_of_short hd hshort]
    refine ⟨?_, ?_, hlo, hhi, ?_, ?_, fun _ => ⟨htgt, hdown, hup, Axis.travelled hd _⟩, rfl, rfl, rfl, rfl, rfl⟩
    · rw [hp]; omega
    · rw [hp]; omega
    · simp [htgt, hne]
    · simp [htgt]

end Sys2Proof.Machine
end

section
/-!
PROOFS. Halt requests (R269 to R273): what a halt makes of the state in each HSTATE, in a module that follows no lead.
-/
namespace Sys2Proof.Machine

/-! ### What every halt is made of -/

/-- REASON takes one more reason. -/
def State.withReason (s : State) (r : Nat) : State := s.wr Reg.MOT_HALT_STAT_REASON (setBit s.reasons r)

/-- The motion block once both axes have gone over to the stop ramp. -/
def Mot.stopped (m : Mot) : Mot := { m with stopRamp := true, ax := m.ax.stopRamp, ay := m.ay.stopRamp }

/-- HSTATE becomes STOPPING and both axes take the stop ramp. -/
def State.ramped (s : State) : State := { s.wr Reg.MOT_HALT_STAT_HSTATE hSTOPPING with mot := s.mot.stopped }

/-- The halt tick that a ceiling leaves: the lower of it and the one held. -/
def State.lowerTick (s : State) (c : Nat) : Nat := match s.ceiling with | some d => min c d | none => c

/-- What a halt makes of a stripe in RUN, before the automatic reckoning. -/
def State.runHalted (s : State) (r c : Nat) : State :=
  (((s.withReason r).ramped.wr Reg.MOT_HALT_TICK_TICK (s.lowerTick c)).raise pMOT 8).satInc Reg.MOT_HALT_CNT_HALTS 1

theorem State.rd_ramped_ne (s : State) {g : Fld} (h : g.key ≠ Reg.MOT_HALT_STAT_HSTATE.key) : s.ramped.rd g = s.rd g :=
  s.rd_wr_ne h hSTOPPING

theorem State.hstate_ramped (s : State) : s.ramped.hstate = hSTOPPING := s.rd_wr_self _ hSTOPPING

/-- An event is no part of the motion block's own state. -/
@[simp] theorem State.raise_mot (s : State) (p : Page) (b : Nat) : (s.raise p b).mot = s.mot :=
  ((State.raise_steps (mu := (· ≠ Part.mot)) (by decide) (Steps.refl _ s) p b).kept .mot).resolve_left fun hne => hne rfl

/-- A bit of REASON reads what was written there. -/
theorem State.testBit_reasons_wr (s : State) (v : Nat) {b : Nat} (hb : b < 12) :
    ((s.wr Reg.MOT_HALT_STAT_REASON v).rd Reg.MOT_HALT_STAT_REASON).testBit b = v.testBit b := by
  rw [State.rd_wr_self, Nat.testBit_mod_two_pow]
  exact (congrArg (· && _) (decide_eq_true hb)).trans (Bool.true_and _)

/-- A reason is set in REASON and the others stay. -/
theorem State.testBit_reasons_withReason (s : State) (r : Nat) {b : Nat} (hb : b < 12) :
    (s.withReason r).reasons.testBit b = (decide (b = r) || s.reasons.testBit b) := by
  rw [State.reasons, State.withReason, State.testBit_reasons_wr _ _ hb, testBit_setBit]

theorem State.onlyFields_withReason (s : State) (r : Nat) {fs : List Fld} (h : Reg.MOT_HALT_STAT_REASON ∈ fs) :
    s.onlyFields (s.withReason r) fs := State.onlyFields_wr (s.onlyFields_refl fs) h _

/-! ### A halt in each HSTATE (R271, R273) -/

section
variable {s : State} (hf : s.isFollower = false) (r c : Nat)

theorem State.halt_of_idle (h : s.hstate = hIDLE) : s.halt r c = s := if_pos h

include hf

theorem State.halt_of_turn (h : s.hstate = hTURN) : s.halt r c = (s.withReason r).wr Reg.MOT_HALT_TICK_TICK 0 := by
  simp only [State.halt, h, hf]
  rfl

theorem State.halt_of_run (h : s.hstate = hRUN) : s.halt r c = (s.runHalted r c).autoReckon Reg.GLB_RECK_AUTO_HALT := by
  simp only [State.halt, h, hf]
  rfl

theorem State.halt_of_stopping (h : s.hstate = hSTOPPING) : s.halt r c =
    if s.mot.hFixed then s.withReason r else (s.withReason r).wr Reg.MOT_HALT_TICK_TICK (s.lowerTick c) := by
  simp only [State.halt, h, hf]
  rfl

theorem State.halt_of_backing_or_runup (h : s.hstate = hBACKING ∨ s.hstate = hRUNUP) :
    s.halt r c = ((s.withReason r).wr Reg.MOT_HALT_TICK_TICK s.mot.hTick).ramped := by
  obtain h | h := h <;>
  · simp only [State.halt, h, hf]
    rfl

theorem State.halt_of_waiting (h : s.hstate = hWAITING) : s.halt r c = s.withReason r := by
  simp only [State.halt, h, hf]
  rfl

end

/-! ### A halt in RUN that files no reckoning (R271, R460) -/

/-- The fields that a halt in RUN may change, the reckoning's apart. -/
def runHaltFields : List Fld :=
  [Reg.MOT_HALT_STAT_REASON, Reg.MOT_HALT_STAT_HSTATE, Reg.MOT_HALT_TICK_TICK, Reg.MOT_HALT_CNT_HALTS] ++ pMOT.eventFields

section
variable (s : State) (r c : Nat)

theorem State.regsKept_runHalted : s.regsKept (s.runHalted r c) runHaltFields := by
  have reasoned := (s.regsKept_refl runHaltFields).wr (f := Reg.MOT_HALT_STAT_REASON) (by decide) (setBit s.reasons r)
  have ramped : s.regsKept (s.withReason r).ramped runHaltFields :=
    (reasoned.wr (f := Reg.MOT_HALT_STAT_HSTATE) (by decide) hSTOPPING).of_regs rfl
  have lowered := ramped.wr (f := Reg.MOT_HALT_TICK_TICK) (by decide) (s.lowerTick c)
  exact (lowered.raise (List.subset_append_right _ _) 8).satInc (by decide) 1

/-- A field of MOT that neither the event nor the count changes reads what the halt put there. -/
theorem State.rd_runHalted {g : Fld} (hg : ∀ f ∈ Reg.MOT_HALT_CNT_HALTS :: pMOT.eventFields, g.key ≠ f.key) : (s.runHalted r c).rd g =
    ((s.withReason r).ramped.wr Reg.MOT_HALT_TICK_TICK (s.lowerTick c)).rd g :=
  (State.rd_satInc_ne _ (hg _ List.mem_cons_self) 1).trans (State.rd_raise_ne _ _ _ fun f hf => hg f (List.mem_cons_of_mem _ hf))

theorem State.evt_runHalted : (s.runHalted r c).evt pMOT 8 = true := by
  rw [State.evt, State.runHalted, State.rd_satInc_ne _ (by decide)]
  exact State.evt_raise _ pMOT (by decide)

theorem State.halts_runHalted :
    (s.runHalted r c).rd Reg.MOT_HALT_CNT_HALTS = min 0xFFFF (s.rd Reg.MOT_HALT_CNT_HALTS + 1) := by
  rw [State.runHalted, State.satInc, State.rd_wr_self, State.rd_raise_ne _ _ _ (by decide), State.rd_wr_ne _ (by decide),
    State.rd_ramped_ne _ (by decide), State.withReason, State.rd_wr_ne _ (by decide)]
  exact Nat.mod_eq_of_lt (Nat.lt_succ_of_le (min_le_left _ _))

theorem State.mot_runHalted : (s.runHalted r c).mot = s.mot.stopped := State.raise_mot _ pMOT 8

variable {s}

theorem State.halt_of_run_unreckoned (hf : s.isFollower = false) (h : s.hstate = hRUN) (ha : s.rd Reg.GLB_RECK_AUTO_HALT = 0) :
    s.halt r c = s.runHalted r c := by
  have hbit : (s.runHalted r c).bit Reg.GLB_RECK_AUTO_HALT = false := by
    rw [State.bit, s.regsKept_runHalted r c _ (by decide), ha]
    rfl
  rw [State.halt_of_run hf r c h]
  exact if_neg (Bool.eq_false_iff.1 hbit)

end

/-- Where REASON reads as a further reason has left it, that reason is set and the others stay. -/
theorem State.testBit_reasons_of_withReason {s t : State} {r : Nat} (h : t.reasons = (s.withReason r).reasons) :
    ∀ b < 12, t.reasons.testBit b = (decide (b = r) || s.reasons.testBit b) := fun b hb => by
  rw [h, s.testBit_reasons_withReason r hb]

/-- Settles O38, by HSTATE: each halt is its reason, its halt tick and, where the axes still move, the stop ramp. -/
theorem haltRequestsActByHstate : Obligations.HaltRequestsActByHstate := by
  intro s r c hf _ _ htick _
  refine ⟨State.halt_of_idle r c, fun h ha => ?_, fun h => ?_, fun h => ?_, fun h => ?_, fun h => ?_⟩
  · rw [State.halt_of_run_unreckoned r c hf h ha]
    refine ⟨?_, State.testBit_reasons_of_withReason ?_, ?_, s.evt_runHalted r c, fun _ => s.halts_runHalted r c, s.mot_runHalted r c,
      s.regsKept_runHalted r c⟩
    · rw [State.hstate, s.rd_runHalted r c (by decide), State.rd_wr_ne _ (by decide)]
      exact (s.withReason r).hstate_ramped
    · rw [State.reasons, s.rd_runHalted r c (by decide), State.rd_wr_ne _ (by decide), State.rd_ramped_ne _ (by decide)]
      rfl
    · rw [s.rd_runHalted r c (by decide), State.rd_wr_self]
      rfl
  · rw [State.halt_of_stopping hf r c h]
    cases hfix : s.mot.hFixed with
    | true => exact ⟨State.testBit_reasons_of_withReason rfl, nofun, fun _ => s.onlyFields_withReason r (by simp)⟩
    | false => exact ⟨State.testBit_reasons_of_withReason (State.rd_wr_ne _ (by decide) _),
        fun _ => ⟨State.rd_wr_self _ _ _, State.onlyFields_wr (s.onlyFields_withReason r (by simp)) (by simp) _⟩, nofun⟩
  · rw [State.halt_of_turn hf r c h]
    exact ⟨State.testBit_reasons_of_withReason (State.rd_wr_ne _ (by decide) 0), State.rd_wr_self _ _ _,
      State.onlyFields_wr (s.onlyFields_withReason r (by simp)) (by simp) _⟩
  · rw [State.halt_of_backing_or_runup hf r c h]
    refine ⟨State.testBit_reasons_of_withReason ?_, State.hstate_ramped _, ?_, rfl⟩
    · rw [State.reasons, State.rd_ramped_ne _ (by decide), State.rd_wr_ne _ (by decide)]
      rfl
    · rw [State.rd_ramped_ne _ (by decide), State.rd_wr_self]
      exact Nat.mod_eq_of_lt htick
  · rw [State.halt_of_waiting hf r c h]
    exact ⟨State.testBit_reasons_of_withReason rfl, s.onlyFields_withReason r (by simp)⟩

end Sys2Proof.Machine
end

section
/-!
PROOFS. The stage commands (R256, R257, R266, R267, R270, R274, R311, R526): host moves, halts by software, temperature
reports and the abandonment after a MOT reset.
-/
namespace Sys2Proof.Machine

open Sys2Proof (Agent)

/-! ### Host moves (R256, R257) -/

theorem State.goMove_of_allowed {s t : State} {x y : Int} (hx : nmCounts (s.rd Reg.MOT_MOVE_X_X) = x)
    (hy : nmCounts (s.rd Reg.MOT_MOVE_Y_Y) = y) (ha : s.anyArmed = false) (hh : s.hstate = hIDLE ∨ s.hstate = hMOVE)
    (hl : s.inLimits x y = true) (hw : s.accepts pMOT = true) (hp : s.posState = psVALID)
    (ht : t = if s.mot.trajectory then s else s.startTrajectory) : s.goMove =
      (t.modMot fun m => { m with
        stopRamp := false
        ax := m.ax.retarget t.decNow (x * 2 ^ 21) t.vMax 0, ay := m.ay.retarget t.decNow (y * 2 ^ 21) t.vMax 0 }).wrs
        [(Reg.MOT_HALT_STAT_HSTATE, hMOVE), (Reg.MOT_MOVE_CTRL_RESULT, 0)] := by
  subst hx hy ht
  have hstate : ¬(s.hstate ≠ hIDLE ∧ s.hstate ≠ hMOVE) := by tauto
  simp only [State.goMove, ha, hstate, hl, hw, hp, Bool.false_eq_true, Bool.true_eq_false, ne_eq, not_true_eq_false, or_self, if_false]

/-! ### RESUME (R270) -/

theorem testBit_foldl_clrBit_list (l : List Nat) (v b : Nat) : (l.foldl clrBit v).testBit b = (v.testBit b && !l.contains b) := by
  induction l generalizing v with
  | nil => simp
  | cons c l ih =>
    rw [List.foldl_cons, ih, testBit_clrBit, List.contains_cons]
    by_cases h : b = c
    · simp [h]
    · simp [h, beq_false_of_ne h]

/-- The reasons that software clears (R270). -/
def softwareReasons : List Nat := [rHOST, rPERMIT, rPOS, rSCHOLD, rDCLAMP, rVLIM]

/-- REASON after RESUME. -/
def State.resumedReasons (s : State) : Nat :=
  (softwareReasons.filter fun r => s.reasons.testBit r && s.reasonEnded r).foldl clrBit s.reasons

theorem State.testBit_resumedReasons (s : State) (r : Nat) :
    s.resumedReasons.testBit r = (s.reasons.testBit r && !(softwareReasons.contains r && s.reasonEnded r)) := by
  rw [State.resumedReasons, testBit_foldl_clrBit_list]
  cases h : s.reasons.testBit r with
  | false => rfl
  | true => simp [List.contains_eq_mem, h]

theorem State.rd_haltCleared_ne (s : State) {g : Fld} (h : g.key ≠ Reg.MOT_HALT_TICK_TICK.key) : s.haltCleared.rd g = s.rd g :=
  rd_ite (State.rd_wr_ne s h _) rfl

/-- Apart from the halt tick RESUME changes REASON alone. -/
theorem State.rd_resume_ne (s : State) {g : Fld} (h : g.key ≠ Reg.MOT_HALT_TICK_TICK.key) :
    s.resume.rd g = (s.wr Reg.MOT_HALT_STAT_REASON s.resumedReasons).rd g :=
  (State.rd_haltCleared_ne _ h).trans (rd_ite rfl rfl)

theorem State.regsKept_resume (s : State) : s.regsKept s.resume [Reg.MOT_HALT_STAT_REASON, Reg.MOT_HALT_TICK_TICK] := fun g hg =>
  (s.rd_resume_ne (hg _ (by simp))).trans (s.rd_wr_ne (hg _ (by simp)) _)

theorem State.testBit_reasons_resume (s : State) {r : Nat} (hr : r < 12) :
    s.resume.reasons.testBit r = (s.reasons.testBit r && !(softwareReasons.contains r && s.reasonEnded r)) := by
  rw [State.reasons, s.rd_resume_ne (by decide), State.testBit_reasons_wr _ _ hr, s.testBit_resumedReasons]

/-! ### ABANDON (R274) -/

theorem State.abandonFor_of_waiting {s : State} (h : s.hstate = hWAITING) (r : Nat) : s.abandonFor r = s.abandon s.mot.hTick :=
  if_pos h

theorem State.abandonFor_of_writing {s : State} (h : s.hstate = hRUN ∨ s.hstate = hRUNUP ∨ s.hstate = hSTOPPING ∨ s.hstate = hBACKING)
    (r : Nat) : s.abandonFor r = (s.stopRequest r).wr Reg.MOT_HALT_STAT_REASON (setBit (s.stopRequest r).reasons rABANDON) := by
  have hne : s.hstate ≠ hWAITING := by obtain h | h | h | h := h <;> rw [h] <;> decide
  exact (if_neg hne).trans (if_pos h)

/-! ### The commands -/

section
variable {s : State} {ag : Agent} (ha : s.reaches ag pMOT)
include ha

theorem exec_goMove : exec (.goMove ag) s = .next s.goMove.settle := done_access ha _

theorem exec_stop (h : s.hstate ≠ hIDLE) : exec (.stop ag) s = .next (s.stopRequest rHOST).settle :=
  (done_access ha State.stop).trans (by rw [State.stop, if_neg h])

theorem exec_resume : exec (.resume ag) s = .next s.resume.settle := done_access ha _

theorem exec_abandon : exec (.abandon ag) s = .next (s.abandonFor rHOST).settle := done_access ha State.abandonWrite

end

/-- A report that an enabled ARY page passes on, while MOT is out of reset, is shown in both pages and acts (R266, R311). -/
theorem exec_arrayTempReport {s : State} (hl : s.live pARY = true) (hr : s.inReset pMOT = false) (src : Nat) (temp : BitVec 16) :
    exec (.arrayTempReport src temp) s = .next ((s.wrs [(Reg.ARY_TEMP_SRC, src), (Reg.ARY_TEMP_TEMP, temp.toNat),
      (Reg.MOT_TEMP_TEMP, temp.toNat), (Reg.MOT_TEMP_FRESH, 1)]).thermReport.thermShow).settle := by
  have hreset : (s.wrs [(Reg.ARY_TEMP_SRC, src), (Reg.ARY_TEMP_TEMP, temp.toNat)]).inReset pMOT = false :=
    (State.inReset_congr (s.rd_wrs_ne _ (by simp +decide))).trans hr
  show execArrayTempReport src temp s = _
  simp only [execArrayTempReport, State.tempReport, hl, hreset, Bool.not_true, Bool.false_eq_true, if_false]
  rfl

theorem exec_temperatureReportStale {s : State} (hr : s.inReset pMOT = false) : exec .temperatureReportStale s =
    .next (if s.cur.isSome then (((s.wr Reg.MOT_TEMP_FRESH 0).setFault pMOT 6).raise pMOT 17).stopRequest rTHERM
      else s.wr Reg.MOT_TEMP_FRESH 0).settle :=
  if_neg (Bool.eq_false_iff.1 hr)

theorem exec_motResetAbandon {s t : State} {w : Waybill} {p : Plan} (ha : s.mot.abandonRel = true) (hr : s.inReset pMOT = false)
    (ht : t = (s.modMot fun m => { m with abandonRel := false }).dropSecond) (hcur : t.cur = some (w, p)) :
    exec .motResetAbandon s = .next ((t.abandon p.launched).wr Reg.MOT_HALT_STAT_HSTATE hIDLE).settle := by
  show execMotResetAbandon s = _
  subst ht
  simp only [execMotResetAbandon, ha, hr, and_self, if_true, hcur]
  rfl

/-- Settles O37, command by command: where its condition holds, each does what chapter 11 says. -/
theorem stageCommandsComplete : Obligations.StageCommandsComplete := by
  refine ⟨fun s ag ha => ⟨fun hq hh hl hw hp t ht => ?_, exec_stop ha, ?_, fun h => ?_, fun h => ?_⟩,
    fun s src temp hl hr => exec_arrayTempReport hl hr src temp, fun s hr => ⟨fun h => ?_, fun h => ?_⟩,
    fun s w p ha hr hcur => exec_motResetAbandon ha hr rfl hcur⟩
  · rw [exec_goMove ha, State.goMove_of_allowed rfl rfl hq hh hl hw hp ht]
    rfl
  · exact ⟨s.resume, exec_resume ha, s.regsKept_resume, fun _ r hr => s.testBit_reasons_resume hr⟩
  · rw [exec_abandon ha, State.abandonFor_of_waiting h]
  · rw [exec_abandon ha, State.abandonFor_of_writing h]
  · rw [exec_temperatureReportStale hr, h, if_neg (by simp)]
  · rw [exec_temperatureReportStale hr, if_pos h]

end Sys2Proof.Machine
end

section
/-!
PROOFS. The Reed–Solomon code of HBM (R326, R327, R331): the arithmetic of the field over bytes, the syndromes of an encoded
word, of a word with one wrong byte and of a marked word.
-/
namespace Sys2Proof.Machine

/-! ### Multiplication by α -/

theorem gfDouble_eq {a : Nat} (ha : a < 256) : gfDouble a = 2 * a ^^^ (if a.testBit 7 then 0x11D else 0) := by
  have hbit : a.testBit 7 = decide (128 ≤ a) := by
    rw [Nat.testBit_eq_decide_div_mod_eq]
    congr 1
    exact propext ⟨fun h => by omega, fun h => by omega⟩
  rw [gfDouble, hbit]
  by_cases h : a < 128
  · rw [if_pos h, if_neg (by simpa using h), Nat.xor_zero]
  · rw [if_neg h, if_pos (by simpa using h)]

theorem gfDouble_lt : ∀ a < 256, gfDouble a < 256 := by decide +kernel

theorem xor_lt_byte {a b : Nat} (ha : a < 256) (hb : b < 256) : a ^^^ b < 256 := Nat.xor_lt_two_pow (n := 8) ha hb

/-- Doubling is linear over bytes. -/
theorem gfDouble_xor {a b : Nat} (ha : a < 256) (hb : b < 256) : gfDouble (a ^^^ b) = gfDouble a ^^^ gfDouble b := by
  have hshift : 2 * (a ^^^ b) = 2 * a ^^^ 2 * b := by
    simpa [Nat.shiftLeft_eq, Nat.mul_comm] using Nat.shiftLeft_xor_distrib (a := a) (b := b) (i := 1)
  rw [gfDouble_eq ha, gfDouble_eq hb, gfDouble_eq (xor_lt_byte ha hb), hshift, Nat.testBit_xor]
  cases a.testBit 7 <;> cases b.testBit 7 <;> simp [Nat.xor_assoc, Nat.xor_comm, Nat.xor_left_comm]

/-- Only 0 doubles to 0. -/
theorem gfDouble_ne_zero : ∀ a < 256, a ≠ 0 → gfDouble a ≠ 0 := by decide +kernel

/-- α^k times a byte, as k doublings. -/
def gfShift (k a : Nat) : Nat := gfDouble^[k] a

@[simp] theorem gfShift_zero_left (a : Nat) : gfShift 0 a = a := rfl

theorem gfShift_succ (k a : Nat) : gfShift (k + 1) a = gfDouble (gfShift k a) := Function.iterate_succ_apply' _ _ _

theorem gfShift_add (j k a : Nat) : gfShift (j + k) a = gfShift j (gfShift k a) := Function.iterate_add_apply _ _ _ _

theorem gfShift_lt (k : Nat) {a : Nat} (ha : a < 256) : gfShift k a < 256 := by
  induction k with
  | zero => exact ha
  | succ k ih => rw [gfShift_succ]; exact gfDouble_lt _ ih

theorem gfShift_xor (k : Nat) {a b : Nat} (ha : a < 256) (hb : b < 256) : gfShift k (a ^^^ b) = gfShift k a ^^^ gfShift k b := by
  induction k with
  | zero => rfl
  | succ k ih => rw [gfShift_succ, ih, gfDouble_xor (gfShift_lt k ha) (gfShift_lt k hb), gfShift_succ, gfShift_succ]

theorem gfShift_zero_right (k : Nat) : gfShift k 0 = 0 := by
  induction k with
  | zero => rfl
  | succ k ih => rw [gfShift_succ, ih]; rfl

theorem gfShift_ne_zero (k : Nat) {a : Nat} (ha : a < 256) (h : a ≠ 0) : gfShift k a ≠ 0 := by
  induction k with
  | zero => exact h
  | succ k ih => rw [gfShift_succ]; exact gfDouble_ne_zero _ (gfShift_lt k ha) ih

theorem gfPow_eq_gfShift (k : Nat) : gfPow k = gfShift k 1 := by
  induction k with
  | zero => rfl
  | succ k ih => rw [gfPow, ih, gfShift_succ]

/-! ### Products -/

theorem gfMulGo_xor_right (n a b c : Nat) : gfMulGo n a (b ^^^ c) = gfMulGo n a b ^^^ gfMulGo n a c := by
  induction n generalizing a b c with
  | zero => simp [gfMulGo]
  | succ n ih =>
    have hdiv : (b ^^^ c) / 2 = b / 2 ^^^ c / 2 := Nat.xor_div_two
    have hmod : (b ^^^ c) % 2 = (b % 2) ^^^ (c % 2) := by simpa using Nat.xor_mod_two_pow (a := b) (b := c) (n := 1)
    rw [gfMulGo, gfMulGo, gfMulGo, hdiv, ih, hmod]
    rcases Nat.mod_two_eq_zero_or_one b with hb | hb <;> rcases Nat.mod_two_eq_zero_or_one c with hc | hc <;>
      simp [hb, hc, Nat.xor_assoc, Nat.xor_left_comm]

/-- The last bit of the second factor that is looked at adds its multiple of the first. -/
theorem gfMulGo_succ (n a b : Nat) : gfMulGo (n + 1) a b = gfMulGo n a b ^^^ (if b.testBit n then gfShift n a else 0) := by
  induction n generalizing a b with
  | zero => simp [gfMulGo, Nat.testBit_zero]
  | succ n ih =>
    rw [gfMulGo, ih, gfMulGo, Nat.testBit_succ, ← Nat.xor_assoc]
    rfl

theorem gfMulGo_lt (n : Nat) {a : Nat} (ha : a < 256) (b : Nat) : gfMulGo n a b < 256 := by
  induction n generalizing a b with
  | zero => exact Nat.zero_lt_succ _
  | succ n ih => exact xor_lt_byte (by split <;> omega) (ih (gfDouble_lt a ha) _)

theorem gfDouble_gfMulGo (n : Nat) {a : Nat} (ha : a < 256) (b : Nat) : gfDouble (gfMulGo n a b) = gfMulGo n (gfDouble a) b := by
  induction n generalizing a b with
  | zero => rfl
  | succ n ih =>
    rw [gfMulGo, gfDouble_xor (by split <;> omega) (gfMulGo_lt n (gfDouble_lt a ha) _), ih (gfDouble_lt a ha), gfMulGo]
    split <;> rfl

/-- α is a root of the polynomial of the field. -/
theorem gfMulGo_fieldPoly : ∀ a < 256, gfMulGo 8 a 0x11D = gfShift 7 (gfDouble a) := by decide +kernel

theorem gfMul_gfDouble {a b : Nat} (ha : a < 256) (hb : b < 256) : gfMul a (gfDouble b) = gfDouble (gfMul a b) := by
  have heven : gfMulGo 8 a (2 * b) = gfMulGo 7 (gfDouble a) b := by
    rw [gfMulGo, if_neg (by omega), Nat.zero_xor, Nat.mul_div_cancel_left _ (by decide)]
  have hpoly : gfMulGo 8 a (if b.testBit 7 then 0x11D else 0) = if b.testBit 7 then gfShift 7 (gfDouble a) else 0 := by
    split
    · exact gfMulGo_fieldPoly a ha
    · simp [gfMulGo]
  rw [gfMul, gfMul, gfDouble_eq hb, gfMulGo_xor_right, heven, hpoly, gfDouble_gfMulGo 8 ha, gfMulGo_succ 7]

theorem gfMul_gfPow {a : Nat} (ha : a < 256) (k : Nat) : gfMul a (gfPow k) = gfShift k a := by
  induction k with
  | zero => simp [gfMul, gfPow, gfMulGo]
  | succ k ih =>
    have hk : gfPow k < 256 := by rw [gfPow_eq_gfShift]; exact gfShift_lt k (by decide)
    rw [gfPow, gfMul_gfDouble ha hk, ih, gfShift_succ]

/-! ### No small power of α leaves a byte as it was -/

/-- For d up to 35 the power of α that 1 + α^d is. -/
def logOnePlus : List Nat :=
  [0, 25, 50, 223, 100, 138, 191, 112, 200, 120, 21, 245, 127, 99, 224, 33, 145, 68, 240, 92, 42, 10, 235, 196, 254, 1, 198,
    104, 193, 181, 66, 45, 35, 15, 136, 32]

theorem gfPow_logOnePlus : ∀ d < 36, d ≠ 0 → gfPow (logOnePlus.getD d 0) = gfPow d ^^^ gfPow 0 := by decide +kernel

theorem gfShift_ne_self {d a : Nat} (hd : d < 36) (hd0 : d ≠ 0) (ha : a < 256) (h0 : a ≠ 0) : gfShift d a ≠ a := by
  intro h
  refine gfShift_ne_zero (logOnePlus.getD d 0) ha h0 ?_
  calc gfShift (logOnePlus.getD d 0) a = gfMul a (gfPow d ^^^ gfPow 0) := by rw [← gfMul_gfPow ha, gfPow_logOnePlus d hd hd0]
    _ = gfShift d a ^^^ gfShift 0 a := by rw [gfMul, gfMulGo_xor_right, ← gfMul, ← gfMul, gfMul_gfPow ha, gfMul_gfPow ha]
    _ = 0 := by rw [h, gfShift_zero_left, Nat.xor_self]

/-- Two shifts of a byte by less than 36 places agree only where the places do. -/
theorem gfShift_left_injective {p q a : Nat} (hp : p < 36) (hq : q < 36) (ha : a < 256) (h0 : a ≠ 0) (h : gfShift p a = gfShift q a) :
    p = q := by
  wlog hpq : p ≤ q generalizing p q
  · exact (this hq hp h.symm (by omega)).symm
  by_contra hne
  refine gfShift_ne_self (d := q - p) (by omega) (by omega) (gfShift_lt p ha) (gfShift_ne_zero p ha h0) ?_
  rw [← gfShift_add, Nat.sub_add_cancel hpq, h]

/-! ### Syndromes as values of the word at a power of α -/

/-- The value at α^i of the polynomial whose coefficients follow, by Horner's rule from a value so far. -/
def evalAt (i : Nat) (w : List Nat) (acc : Nat) : Nat := w.foldl (fun acc b => gfShift i acc ^^^ b) acc

@[simp] theorem evalAt_nil (i acc : Nat) : evalAt i [] acc = acc := rfl

@[simp] theorem evalAt_cons (i b : Nat) (w : List Nat) (acc : Nat) : evalAt i (b :: w) acc = evalAt i w (gfShift i acc ^^^ b) := rfl

theorem evalAt_append (i : Nat) (v w : List Nat) (acc : Nat) : evalAt i (v ++ w) acc = evalAt i w (evalAt i v acc) := List.foldl_append

/-- Every entry is a byte. -/
abbrev isBytes (w : List Nat) : Prop := ∀ b ∈ w, b < 256

theorem evalAt_lt (i : Nat) {w : List Nat} (hw : isBytes w) {acc : Nat} (ha : acc < 256) : evalAt i w acc < 256 := by
  induction w generalizing acc with
  | nil => exact ha
  | cons b w ih =>
    obtain ⟨hb, hw⟩ := List.forall_mem_cons.1 hw
    exact ih hw (xor_lt_byte (gfShift_lt i ha) hb)

theorem syndrome_eq_evalAt (i : Nat) {w : List Nat} (hw : isBytes w) : syndrome w i = evalAt i w 0 := by
  have key : ∀ acc < 256, w.foldl (fun acc b => gfMul acc (gfPow i) ^^^ b) acc = evalAt i w acc := by
    induction w with
    | nil => exact fun _ _ => rfl
    | cons b w ih =>
      obtain ⟨hb, hw⟩ := List.forall_mem_cons.1 hw
      intro acc ha
      rw [List.foldl_cons, gfMul_gfPow ha, evalAt_cons]
      exact ih hw _ (xor_lt_byte (gfShift_lt i ha) hb)
  exact key 0 (by decide)

/-- What is XORed into the value so far is shifted by the rest of the word. -/
theorem evalAt_xor (i : Nat) {w : List Nat} (hw : isBytes w) {acc e : Nat} (ha : acc < 256) (he : e < 256) :
    evalAt i w (acc ^^^ e) = evalAt i w acc ^^^ gfShift (i * w.length) e := by
  induction w generalizing acc e with
  | nil => simp
  | cons b w ih =>
    obtain ⟨hb, hw⟩ := List.forall_mem_cons.1 hw
    have hlen : i * (b :: w).length = i * w.length + i := by rw [List.length_cons, Nat.mul_succ]
    rw [evalAt_cons, evalAt_cons, gfShift_xor i ha he, Nat.xor_assoc, Nat.xor_comm (gfShift i e), ← Nat.xor_assoc,
      ih hw (xor_lt_byte (gfShift_lt i ha) hb) (gfShift_lt i he), hlen, gfShift_add]

/-- One wrong byte adds its error, shifted by the bytes that follow it. -/
theorem evalAt_modify (i : Nat) {w : List Nat} (hw : isBytes w) {v : Nat} (hv : v < 256) {k : Nat} (hk : k < w.length)
    {acc : Nat} (ha : acc < 256) :
    evalAt i (w.modify k (· ^^^ v)) acc = evalAt i w acc ^^^ gfShift (i * (w.length - 1 - k)) v := by
  induction w generalizing k acc with
  | nil => exact absurd hk (Nat.not_lt_zero _)
  | cons b w ih =>
    obtain ⟨hb, hw⟩ := List.forall_mem_cons.1 hw
    have hacc := xor_lt_byte (gfShift_lt i ha) hb
    cases k with
    | zero => rw [List.modify_zero_cons, evalAt_cons, ← Nat.xor_assoc, evalAt_xor i hw hacc hv]; rfl
    | succ k =>
      have hrest : (b :: w).length - 1 - (k + 1) = w.length - 1 - k := by rw [List.length_cons]; omega
      rw [List.modify_succ_cons, evalAt_cons, evalAt_cons, ih hw (Nat.lt_of_succ_lt_succ hk) hacc, hrest]

theorem isBytes_modify {w : List Nat} (hw : isBytes w) {v : Nat} (hv : v < 256) (k : Nat) : isBytes (w.modify k (· ^^^ v)) := by
  induction w generalizing k with
  | nil => cases k <;> exact hw
  | cons b w ih =>
    obtain ⟨hb, hw⟩ := List.forall_mem_cons.1 hw
    cases k with
    | zero => exact List.forall_mem_cons.2 ⟨xor_lt_byte hb hv, hw⟩
    | succ k => exact List.forall_mem_cons.2 ⟨hb, ih hw k⟩

/-! ### The check bytes (R326) -/

/-- The generator polynomial vanishes at the first four powers of α: four check bytes of one byte stand for it four places
on. -/
theorem evalAt_generator : ∀ i < 4, ∀ f < 256,
    evalAt i [gfMul 0x0F f, gfMul 0x36 f, gfMul 0x78 f, gfMul 0x40 f] 0 = gfShift (4 * i) f := by decide +kernel

/-- A list of four bytes. -/
def fourBytes (r : List Nat) : Prop := ∃ a < 256, ∃ b < 256, ∃ c < 256, ∃ d < 256, r = [a, b, c, d]

theorem fourBytes.isBytes {r : List Nat} (h : fourBytes r) : Machine.isBytes r := by
  obtain ⟨a, ha, b, hb, c, hc, d, hd, rfl⟩ := h
  simp [Machine.isBytes, ha, hb, hc, hd]

theorem gfMul_lt {a : Nat} (ha : a < 256) (b : Nat) : gfMul a b < 256 := gfMulGo_lt 8 ha b

theorem fourBytes_rsStep {r : List Nat} (h : fourBytes r) (d : Nat) : fourBytes (rsStep r d) := by
  obtain ⟨a, -, b, hb, c, hc, e, he, rfl⟩ := h
  exact ⟨_, xor_lt_byte hb (gfMul_lt (by decide) _), _, xor_lt_byte hc (gfMul_lt (by decide) _), _,
    xor_lt_byte he (gfMul_lt (by decide) _), _, gfMul_lt (by decide) _, rfl⟩

/-! ### Encoded words -/

theorem evalAt_xorList (i : Nat) {u w : List Nat} (hu : isBytes u) (hw : isBytes w) (hl : u.length = w.length) {a b : Nat}
    (ha : a < 256) (hb : b < 256) : evalAt i (xorList u w) (a ^^^ b) = evalAt i u a ^^^ evalAt i w b := by
  induction u generalizing w a b with
  | nil => obtain rfl := List.length_eq_zero_iff.1 hl.symm; rfl
  | cons x u ih =>
    cases w with
    | nil => cases hl
    | cons y w =>
      obtain ⟨hx, hu⟩ := List.forall_mem_cons.1 hu
      obtain ⟨hy, hw⟩ := List.forall_mem_cons.1 hw
      have hsort : gfShift i (a ^^^ b) ^^^ (x ^^^ y) = (gfShift i a ^^^ x) ^^^ (gfShift i b ^^^ y) := by
        rw [gfShift_xor i ha hb]; ac_rfl
      calc evalAt i (xorList (x :: u) (y :: w)) (a ^^^ b) = evalAt i (xorList u w) ((gfShift i a ^^^ x) ^^^ (gfShift i b ^^^ y)) := by
            rw [← hsort]; rfl
        _ = _ := ih hu hw (Nat.succ.inj hl) (xor_lt_byte (gfShift_lt i ha) hx) (xor_lt_byte (gfShift_lt i hb) hy)

theorem isBytes_xorList {u w : List Nat} (hu : isBytes u) (hw : isBytes w) : isBytes (xorList u w) := by
  induction u generalizing w with
  | nil => simp [xorList, isBytes]
  | cons x u ih =>
    cases w with
    | nil => simp [xorList, isBytes]
    | cons y w =>
      obtain ⟨hx, hu⟩ := List.forall_mem_cons.1 hu
      obtain ⟨hy, hw⟩ := List.forall_mem_cons.1 hw
      exact List.forall_mem_cons.2 ⟨xor_lt_byte hx hy, ih hu hw⟩

/-- The mark of R331 vanishes at the first three powers of α. -/
theorem evalAt_poisonMark : ∀ i < 3, evalAt i poisonMark 0 = 0 := by decide

/-- One step of the division multiplies the remainder by α^i and takes up the next byte four places on. -/
theorem evalAt_rsStep {i : Nat} (hi : i < 4) {r : List Nat} (hr : fourBytes r) {d : Nat} (hd : d < 256) :
    evalAt i (rsStep r d) 0 = gfShift i (evalAt i r 0) ^^^ gfShift (4 * i) d := by
  obtain ⟨a, ha, b, hb, c, hc, e, he, rfl⟩ := hr
  have hgen : isBytes [gfMul 0x0F (d ^^^ a), gfMul 0x36 (d ^^^ a), gfMul 0x78 (d ^^^ a), gfMul 0x40 (d ^^^ a)] := by
    simp [isBytes, gfMul_lt]
  have hrest : isBytes [b, c, e, 0] := by simp [isBytes, hb, hc, he]
  have hlead : gfShift i (evalAt i [a, b, c, e] 0) = evalAt i [b, c, e, 0] 0 ^^^ gfShift (4 * i) a := by
    refine Eq.trans ?_ ((evalAt_xor i hrest (acc := 0) (by decide) ha).trans (by rw [Nat.mul_comm 4 i]; rfl))
    simp [gfShift_zero_right]
  have hsplit : rsStep [a, b, c, e] d =
      xorList [b, c, e, 0] [gfMul 0x0F (d ^^^ a), gfMul 0x36 (d ^^^ a), gfMul 0x78 (d ^^^ a), gfMul 0x40 (d ^^^ a)] := by
    simp [rsStep, xorList]
  rw [hsplit, hlead]
  refine (evalAt_xorList i hrest hgen rfl (a := 0) (b := 0) (by decide) (by decide)).trans ?_
  rw [evalAt_generator i hi _ (xor_lt_byte hd ha), gfShift_xor _ hd ha, Nat.xor_comm (gfShift _ d), Nat.xor_assoc]

theorem fourBytes_rsCheck (data : List Nat) : fourBytes (rsCheck data) := by
  have key : ∀ r, fourBytes r → fourBytes (data.foldl rsStep r) := by
    induction data with
    | nil => exact fun _ h => h
    | cons d t ih => exact fun r h => ih _ (fourBytes_rsStep h d)
  exact key _ ⟨0, by decide, 0, by decide, 0, by decide, 0, by decide, rfl⟩

theorem evalAt_rsCheck {i : Nat} (hi : i < 4) {data : List Nat} (hd : isBytes data) :
    evalAt i (rsCheck data) 0 = gfShift (4 * i) (evalAt i data 0) := by
  have key : ∀ r acc, fourBytes r → acc < 256 → evalAt i r 0 = gfShift (4 * i) acc →
      evalAt i (data.foldl rsStep r) 0 = gfShift (4 * i) (evalAt i data acc) := by
    induction data with
    | nil => exact fun _ _ _ _ h => h
    | cons d t ih =>
      obtain ⟨hd, ht⟩ := List.forall_mem_cons.1 hd
      intro r acc hr ha h
      refine ih ht (rsStep r d) (gfShift i acc ^^^ d) (fourBytes_rsStep hr d) (xor_lt_byte (gfShift_lt i ha) hd) ?_
      rw [evalAt_rsStep hi hr hd, h, gfShift_xor _ (gfShift_lt i ha) hd, ← gfShift_add, ← gfShift_add, Nat.add_comm i]
  refine key _ 0 ⟨0, by decide, 0, by decide, 0, by decide, 0, by decide, rfl⟩ (by decide) ?_
  simp [gfShift_zero_right]

theorem isBytes_encoded {data : List Nat} (hd : isBytes data) : isBytes (data ++ rsCheck data) :=
  List.forall_mem_append.2 ⟨hd, (fourBytes_rsCheck data).isBytes⟩

theorem evalAt_encoded {i : Nat} (hi : i < 4) {data : List Nat} (hd : isBytes data) : evalAt i (data ++ rsCheck data) 0 = 0 := by
  have hx := evalAt_xor i (fourBytes_rsCheck data).isBytes (acc := 0) (by decide) (evalAt_lt i hd (acc := 0) (by decide))
  rw [Nat.zero_xor, length_rsCheck, evalAt_rsCheck hi hd, Nat.mul_comm 4 i, Nat.xor_self] at hx
  rw [evalAt_append, hx]

/-! ### Classes by syndromes (R327) -/

theorem classify_good {w : List Nat} (h : ∀ i < 4, syndrome w i = 0) : classify w = .good := by
  simp [classify, h]

theorem classify_poison {w : List Nat} (h : ∀ i < 3, syndrome w i = 0) (h3 : syndrome w 3 = 0x9F) : classify w = .poison := by
  simp [classify, h, h3]

theorem classify_correctable {w : List Nat} {p v : Nat} (hp : p < 36) (hv : v < 256) (h0 : v ≠ 0)
    (h : ∀ i < 4, syndrome w i = gfShift (i * p) v) : classify w = .correctable (35 - p) v := by
  have hmul : ∀ q, gfMul v (gfPow q) = gfShift q v := gfMul_gfPow hv
  have hnext : ∀ i, gfMul (gfShift (i * p) v) (gfPow p) = gfShift ((i + 1) * p) v := fun i => by
    rw [gfMul_gfPow (gfShift_lt _ hv), ← gfShift_add, Nat.succ_mul, Nat.add_comm]
  have hfind : ((List.range 36).find? fun q => gfMul v (gfPow q) == gfShift (1 * p) v &&
      gfMul (gfShift (1 * p) v) (gfPow q) == gfShift (2 * p) v &&
      gfMul (gfShift (2 * p) v) (gfPow q) == gfShift (3 * p) v) = some p := by
    refine List.find?_range_eq_some.2 ⟨by rw [hmul, hnext, hnext, Nat.one_mul]; simp only [beq_self_eq_true, Bool.and_self],
      List.mem_range.2 hp, fun q hq => ?_⟩
    have hqp : gfShift q v ≠ gfShift p v := fun he => Nat.ne_of_lt hq (gfShift_left_injective (by omega) hp hv h0 he)
    simp [hmul, hqp]
  have hne : ∀ k, gfShift k v ≠ 0 := fun k => gfShift_ne_zero k hv h0
  simp only [classify, List.map_cons, List.map_nil, List.getD_cons_zero, List.getD_cons_succ, h 0 (by decide), h 1 (by decide),
    h 2 (by decide), h 3 (by decide), Nat.zero_mul, gfShift_zero_left, h0, hne, false_and, or_self, if_false, hfind]

/-- Settles O54: the check bytes make the four syndromes 0; a wrong byte makes them its shifts, and no two places have the
same. -/
theorem oneWrongByteIsCorrected : Obligations.OneWrongByteIsCorrected := by
  intro data hlen hd
  have hw := isBytes_encoded hd
  have hwl : (data ++ rsCheck data).length = 36 := by rw [List.length_append, hlen, length_rsCheck]
  have hmark : isBytes poisonMark := by decide
  have hxor : ∀ i < 4, evalAt i (data ++ xorList (rsCheck data) poisonMark) 0 = evalAt i poisonMark 0 := fun i hi => by
    have hP := evalAt_lt i hd (acc := 0) (by decide)
    have hx := evalAt_xorList i (fourBytes_rsCheck data).isBytes hmark (length_rsCheck data) hP (b := 0) (by decide)
    rw [Nat.xor_zero, ← evalAt_append, ← evalAt_append, evalAt_encoded hi hd, Nat.zero_xor] at hx
    exact hx
  have hbytes : isBytes (data ++ xorList (rsCheck data) poisonMark) :=
    List.forall_mem_append.2 ⟨hd, isBytes_xorList (fourBytes_rsCheck data).isBytes hmark⟩
  refine ⟨classify_good fun i hi => ?_, fun k v hk h1 h2 => ?_, classify_poison (fun i hi => ?_) ?_⟩
  · rw [syndrome_eq_evalAt i hw, evalAt_encoded hi hd]
  · have h := classify_correctable (w := (data ++ rsCheck data).modify k (· ^^^ v)) (p := 35 - k) (by omega) h2 (by omega)
      fun i hi => by
        rw [syndrome_eq_evalAt i (isBytes_modify hw h2 k), evalAt_modify i hw h2 (by omega) (by decide), evalAt_encoded hi hd,
          hwl, Nat.zero_xor]
    rwa [show 35 - (35 - k) = k by omega] at h
  · rw [syndrome_eq_evalAt i hbytes, hxor i (by omega)]
    exact evalAt_poisonMark i hi
  · rw [syndrome_eq_evalAt 3 hbytes, hxor 3 (by decide)]
    rfl

end Sys2Proof.Machine
end

section
/-!
PROOFS. One step as a whole: every command but an HBM access beyond 96 GiB answers a next state and keeps the parts its kind
does not list, the permit is safe after every step, and the permit switch keeps the parts that are not its own.
-/
namespace Sys2Proof.Machine

/-! ### A clock -/

theorem State.clock_of_running {s : State} (hp : s.pwr.powered = true) (hr : s.inReset pTIM = false) :
    s.clock = { s with tim := { s.tim with c := (s.tim.c + 1) % 2 ^ 64, since := s.tim.since + 1 } } := by
  simp [State.clock, hp, hr]

theorem State.clock_of_stopped {s : State} (h : s.pwr.powered = false ∨ s.inReset pTIM = true) : s.clock = s := by
  obtain h | h := h <;> simp [State.clock, h]

theorem State.permitSafe_clock {s : State} (h : s.permitSafe = true) : s.clock.permitSafe = true := by
  cases hp : s.pwr.powered with
  | false => rwa [State.clock_of_stopped (.inl hp)]
  | true =>
    cases hr : s.inReset pTIM with
    | true => rwa [State.clock_of_stopped (.inr hr)]
    | false => rw [State.clock_of_running hp hr]; exact h

/-- Settles O2: with no command in the queue a step is a clock of the time base. -/
theorem emptyQueueCountsOneClock : Obligations.EmptyQueueCountsOneClock := by
  intro s hq
  have hstep : step s = .next s.clock := by simp [step, hq]
  exact ⟨fun ⟨hp, hr⟩ => by rw [hstep, State.clock_of_running hp hr], fun h => by rw [hstep, State.clock_of_stopped h]⟩

/-! ### A command -/

/-- Settles O1: that is how a step is defined. -/
theorem stepRunsFrontCommand : Obligations.StepRunsFrontCommand := fun _ _ _ => rfl

/-- The parts that the permit switch may change when it opens. -/
def switchPart (k : Part) : Prop := k ∈ [Part.out, .pins, .reck, .mot, .pak, .ary, .fab, .net]

theorem State.settle_steps_own (s : State) : Steps switchPart s s.settle :=
  State.settle_steps (by simp [switchPart]) (by simp [switchPart]) (by simp [switchPart]) (by simp [switchPart])
    (by simp [switchPart]) (by simp [switchPart]) (by simp [switchPart]) (by simp [switchPart]) (Steps.refl _ s)

/-- Settles O3: what a command makes of the state it makes within its parts, and the permit switch then sends and draws in
the same way. -/
theorem everyOtherCommandCompletes : Obligations.EveryOtherCommandCompletes := by
  intro c rest s hb
  obtain ⟨u, hu, hs⟩ := exec_next c { s with pending := rest } hb
  have hsettle := u.settle_steps_own
  exact ⟨u.settle, (stepRunsFrontCommand c rest s).trans hu, hsettle.pending.trans hs.pending, hs.out.trans hsettle.out,
    hs.free.trans hsettle.free, u.permitSafe_settle⟩

/-- Settles O9: the frame of every command, gathered over exec. -/
theorem commandsKeepOtherParts : Obligations.CommandsKeepOtherParts := by
  intro c s hb
  obtain ⟨u, hu, hs⟩ := exec_next c s hb
  exact ⟨u, hu, fun k hk => (hs.kept k).resolve_left hk⟩

/-! ### The permit (R434, R435) -/

/-- Settles O4: a clock leaves the permit alone, and after a command the switch has followed its gates. -/
theorem stepKeepsPermitSafe : Obligations.StepKeepsPermitSafe := by
  intro s t hs h
  obtain ⟨-, rfl⟩ | ⟨c, rest, u, -, -, rfl⟩ := step_cases h
  · exact State.permitSafe_clock hs
  · exact u.permitSafe_settle

/-- GATE is 0 exactly where every ground of R434 holds. -/
theorem State.permitGrounds_of_ungated {s : State} (h : s.gated = false) : s.permitGrounds := by
  simp only [State.gated, Bool.or_eq_false_iff] at h
  obtain ⟨⟨⟨⟨⟨hrst, hwarn⟩, hpsup⟩, hcust⟩, hlcy⟩, hfault⟩ := h
  simp only [State.gateRst, Bool.or_eq_false_iff] at hrst
  obtain ⟨⟨⟨⟨hmod, hglb⟩, hmot⟩, halc⟩, hpak⟩ := hrst
  refine ⟨by simpa [State.gateLcy] using hlcy, by simpa [State.gateCust] using hcust, by simpa [State.gatePsup] using hpsup, hwarn,
    by simpa [State.modReset] using hmod, by simp [hglb, hmot, halc, hpak], fun b hb p hp => ?_⟩
  simpa using List.any_eq_false.1 (Bool.eq_false_iff.2 (List.any_eq_false.1 hfault b hb)) p hp

/-- Settles O5: a gate of 0 is the ground that it stands for. -/
theorem permitNeedsEveryGround : Obligations.PermitNeedsEveryGround := by
  intro s hs hreq
  refine State.permitGrounds_of_ungated ?_
  simpa [State.permitSafe, State.bit, hreq] using hs

theorem State.settle_of_safe {s : State} (h : s.rd Reg.GLB_PERMIT_REQ ≠ 1 ∨ s.gated = false) : s.settle = s := by
  refine if_neg ?_
  obtain h | h := h <;> simp [State.bit, h]

theorem State.settle_of_gated {s : State} (hr : s.rd Reg.GLB_PERMIT_REQ = 1) (hg : s.gated = true) :
    s.settle = s.openSwitch.raise pGLB 4 :=
  if_pos (by simp [State.bit, hr, hg])

/-- Settles O10: the switch opens only where REQ is 1 and a gate is 1. -/
theorem permitSwitchChangesOnlyItsOwn : Obligations.PermitSwitchChangesOnlyItsOwn := by
  intro s
  refine ⟨fun k hk => (s.settle_steps_own.kept k).resolve_left ?_, s.settle_steps_own.pending, State.settle_of_safe,
    fun hr hg => ?_⟩
  · revert hk; cases k <;> simp [switchPart]
  · rw [State.settle_of_gated hr hg]
    exact ⟨by rw [State.req_raise, State.req_openSwitch], State.evt_raise _ _ (by decide)⟩

end Sys2Proof.Machine
end

section
/-!
PROOFS. The feed of a check unit (R366): reversal of bits, the mirror image of a feed with REFIN = 1, and the bounds of the
running and the final value.
-/
namespace Sys2Proof.Machine

open Sys2Proof (Byte)

/-! ### Reversing bits -/

theorem revBits_lt (w v : Nat) : revBits w v < 2 ^ w := by
  induction w generalizing v with
  | zero => exact Nat.one_pos
  | succ w ih =>
    have hhead : v % 2 * 2 ^ w ≤ 1 * 2 ^ w := Nat.mul_le_mul_right _ (by omega)
    have := ih (v / 2)
    rw [revBits, Nat.pow_succ]
    omega

/-- Bit i of the reversal is bit w - 1 - i. -/
theorem testBit_revBits (w v i : Nat) : (revBits w v).testBit i = (decide (i < w) && v.testBit (w - 1 - i)) := by
  induction w generalizing v i with
  | zero => simp [revBits]
  | succ w ih =>
    rw [revBits, Nat.mul_comm, Nat.testBit_two_pow_mul_add _ (revBits_lt w _)]
    by_cases hi : i < w
    · have hrest : w + 1 - 1 - i = (w - 1 - i) + 1 := by omega
      rw [if_pos hi, ih, hrest, Nat.testBit_succ]
      simp [hi, Nat.lt_succ_of_lt hi]
    · rw [if_neg hi]
      by_cases hw : i = w
      · subst hw; simp [Nat.testBit_zero]
      · have hlow : v % 2 < 2 ^ (i - w) := lt_of_lt_of_le (Nat.mod_lt _ (by decide)) (Nat.le_self_pow (by omega) 2)
        rw [Nat.testBit_lt_two_pow hlow]
        simp
        omega

theorem revBits_revBits {w v : Nat} (h : v < 2 ^ w) : revBits w (revBits w v) = v := by
  refine Nat.eq_of_testBit_eq fun i => ?_
  rw [testBit_revBits, testBit_revBits]
  by_cases hi : i < w
  · simp [hi, show w - 1 - i < w by omega, show w - 1 - (w - 1 - i) = i by omega]
  · simp [hi, Nat.testBit_lt_two_pow (lt_of_lt_of_le h (Nat.pow_le_pow_right (by decide) (not_lt.1 hi)))]

theorem revBits_xor (w a b : Nat) : revBits w (a ^^^ b) = revBits w a ^^^ revBits w b := by
  refine Nat.eq_of_testBit_eq fun i => ?_
  rw [testBit_revBits, Nat.testBit_xor, Nat.testBit_xor, testBit_revBits, testBit_revBits]
  cases decide (i < w) <;> simp

/-- Dropping the lowest bit is, seen reversed, a shift up within the w bits. -/
theorem revBits_half {w v : Nat} (h : v < 2 ^ w) : revBits w (v / 2) = revBits w v * 2 % 2 ^ w := by
  refine Nat.eq_of_testBit_eq fun i => ?_
  rw [testBit_revBits, Nat.testBit_mod_two_pow, ← Nat.testBit_succ, show revBits w v * 2 = 2 ^ 1 * revBits w v by omega,
    Nat.testBit_two_pow_mul, testBit_revBits]
  by_cases hi : i < w
  · by_cases h0 : i = 0
    · subst h0
      simp [hi, show w - 1 + 1 = w by omega, Nat.testBit_lt_two_pow h]
    · simp [hi, show 1 ≤ i by omega, show i - 1 < w by omega, show w - 1 - i + 1 = w - 1 - (i - 1) by omega]
  · simp [hi]

theorem div_two_pow_mod_two (v i : Nat) : v / 2 ^ i % 2 = (v.testBit i).toNat := by
  rw [Nat.testBit_eq_decide_div_mod_eq]
  rcases Nat.mod_two_eq_zero_or_one (v / 2 ^ i) with h | h <;> simp [h]

/-- The highest bit of the reversal is the lowest of the value. -/
theorem revBits_top {w : Nat} (hw : 0 < w) (v : Nat) : revBits w v / 2 ^ (w - 1) % 2 = v % 2 := by
  have hlast : w - 1 - (w - 1) = 0 := by omega
  rw [div_two_pow_mod_two, testBit_revBits, hlast, ← Nat.div_one v, ← Nat.pow_zero 2, div_two_pow_mod_two, Nat.pow_zero, Nat.div_one]
  simp [hw]

/-! ### One bit, one byte, a string -/

section
variable {c : CrcSet} {run : Nat} (hp : c.poly < 2 ^ c.w)
include hp

theorem CrcSet.bitMsb_lt (b : Nat) : c.bitMsb run b < 2 ^ c.w := by
  have hsh : run * 2 % 2 ^ c.w < 2 ^ c.w := Nat.mod_lt _ (Nat.two_pow_pos _)
  unfold CrcSet.bitMsb
  dsimp only
  split
  · exact Nat.xor_lt_two_pow hsh hp
  · exact hsh

omit hp in
theorem CrcSet.bitLsb_lt (hr : run < 2 ^ c.w) (b : Nat) : c.bitLsb run b < 2 ^ c.w := by
  have hsh : run / 2 < 2 ^ c.w := lt_of_le_of_lt (Nat.div_le_self _ _) hr
  unfold CrcSet.bitLsb
  dsimp only
  split
  · exact Nat.xor_lt_two_pow hsh (revBits_lt _ _)
  · exact hsh

/-- A bit fed with REFIN = 1 is, seen reversed, the same bit fed with REFIN = 0. -/
theorem CrcSet.revBits_bitLsb (hw : 0 < c.w) (hr : run < 2 ^ c.w) (b : Nat) :
    revBits c.w (c.bitLsb run b) = c.bitMsb (revBits c.w run) b := by
  have htop : (revBits c.w run / 2 ^ (c.w - 1) + b) % 2 = (run + b) % 2 := by
    rw [Nat.add_mod, revBits_top hw, ← Nat.add_mod]
  unfold CrcSet.bitLsb CrcSet.bitMsb
  dsimp only
  rw [htop, ← revBits_half hr]
  split
  · rw [revBits_xor, revBits_revBits hp]
  · rfl

theorem CrcSet.byte_lt (hr : run < 2 ^ c.w) (b : Byte) : c.byte run b < 2 ^ c.w := by
  have fold : ∀ (step : Nat → Nat → Nat), (∀ r i, r < 2 ^ c.w → step r i < 2 ^ c.w) → ∀ l : List Nat,
      ∀ r, r < 2 ^ c.w → l.foldl step r < 2 ^ c.w := by
    intro step h l
    induction l with
    | nil => exact fun _ hr => hr
    | cons i l ih => exact fun r hr => ih _ (h r i hr)
  unfold CrcSet.byte
  dsimp only
  split
  · exact fold _ (fun r i h => CrcSet.bitLsb_lt h _) _ _ hr
  · exact fold _ (fun r i _ => CrcSet.bitMsb_lt hp _) _ _ hr

theorem CrcSet.feed_lt (hr : run < 2 ^ c.w) (l : List Byte) : c.feed run l < 2 ^ c.w := by
  induction l generalizing run with
  | nil => exact hr
  | cons b l ih => exact ih (c.byte_lt hp hr b)

omit hp in
theorem CrcSet.final_lt (hx : c.xorOut < 2 ^ c.w) (hr : run < 2 ^ c.w) : c.final run < 2 ^ c.w :=
  Nat.xor_lt_two_pow (by split; exacts [hr, revBits_lt _ _]) hx

end

/-- The same code with REFIN = r. -/
abbrev CrcSet.withRefIn (c : CrcSet) (r : Bool) : CrcSet := { c with refIn := r }

/-- The byte with its bits reversed. -/
abbrev mirrorByte (b : Byte) : Byte := BitVec.ofNat 8 (revBits 8 b.toNat)

theorem mirrorByte_bit (b : Byte) {i : Nat} (hi : i < 8) : (mirrorByte b).toNat / 2 ^ (7 - i) % 2 = b.toNat / 2 ^ i % 2 := by
  rw [BitVec.toNat_ofNat, Nat.mod_eq_of_lt (revBits_lt 8 _), div_two_pow_mod_two, div_two_pow_mod_two, testBit_revBits,
    show 8 - 1 - (7 - i) = i by omega, decide_eq_true (show 7 - i < 8 by omega), Bool.true_and]

section
variable {c : CrcSet} (hw : 0 < c.w) (hp : c.poly < 2 ^ c.w)
include hw hp

/-- Bits fed with REFIN = 1 are, seen reversed, the same bits fed with REFIN = 0. -/
theorem CrcSet.revBits_foldl_bitLsb (f : Nat → Nat) (l : List Nat) {run : Nat} (hr : run < 2 ^ c.w) :
    revBits c.w (l.foldl (fun r i => c.bitLsb r (f i)) run) = l.foldl (fun r i => c.bitMsb r (f i)) (revBits c.w run) := by
  induction l generalizing run with
  | nil => rfl
  | cons i l ih => rw [List.foldl_cons, List.foldl_cons, ih (CrcSet.bitLsb_lt hr _), CrcSet.revBits_bitLsb hp hw hr]

theorem CrcSet.revBits_byte {run : Nat} (hr : run < 2 ^ c.w) (b : Byte) :
    revBits c.w ((c.withRefIn true).byte run b) = (c.withRefIn false).byte (revBits c.w run) (mirrorByte b) := by
  have hbits : [0, 1, 2, 3, 4, 5, 6, 7].map (fun i => b.toNat / 2 ^ i % 2) =
      [7, 6, 5, 4, 3, 2, 1, 0].map fun i => (mirrorByte b).toNat / 2 ^ i % 2 := by
    rw [show [7, 6, 5, 4, 3, 2, 1, 0] = [0, 1, 2, 3, 4, 5, 6, 7].map (7 - ·) from rfl, List.map_map]
    refine List.map_congr_left fun i hi => (mirrorByte_bit b ?_).symm
    simp only [List.mem_cons, List.not_mem_nil, or_false] at hi
    omega
  have hmsb := congrArg (List.foldl c.bitMsb (revBits c.w run)) hbits
  rw [List.foldl_map, List.foldl_map] at hmsb
  exact (CrcSet.revBits_foldl_bitLsb hw hp _ _ hr).trans hmsb

theorem CrcSet.revBits_feed {run : Nat} (hr : run < 2 ^ c.w) (l : List Byte) :
    revBits c.w ((c.withRefIn true).feed run l) = (c.withRefIn false).feed (revBits c.w run) (l.map mirrorByte) := by
  induction l generalizing run with
  | nil => rfl
  | cons b l ih =>
    have hb : (c.withRefIn true).byte run b < 2 ^ c.w := CrcSet.byte_lt (c := c.withRefIn true) hp hr b
    rw [List.map_cons, CrcSet.feed, CrcSet.feed, List.foldl_cons, List.foldl_cons, ← CrcSet.revBits_byte hw hp hr]
    exact ih hb

end

/-- Settles O22, bit by bit: reversal turns a shift down into a shift up and the lowest bit into the highest. -/
theorem reflectedFeedIsTheMirrorOfTheNormalFeed : Obligations.ReflectedFeedIsTheMirrorOfTheNormalFeed := by
  intro c run l hw _ hp hr hx
  exact ⟨CrcSet.revBits_feed (by omega) hp hr l, CrcSet.feed_lt hp hr l, CrcSet.final_lt hx (CrcSet.feed_lt hp hr l)⟩

end Sys2Proof.Machine
end

section
/-!
PROOFS. The queue of a check unit (R368, R369, R374, R375): what an accepted write appends, and what a refused one does.
-/
namespace Sys2Proof.Machine

open Sys2Proof (Agent Byte Word)

/-! ### The bytes of a feed -/

theorem ofNat_eq_setWidth (v : Word) (i : Nat) : BitVec.ofNat 8 (v.toNat / 256 ^ i) = (v >>> (8 * i)).setWidth 8 := by
  refine BitVec.eq_of_toNat_eq ?_
  rw [BitVec.toNat_ofNat, BitVec.toNat_setWidth, BitVec.toNat_ushiftRight, Nat.shiftRight_eq_div_pow, Nat.pow_mul]

theorem leBytes_four (v : Word) : leBytes 4 v.toNat =
    [v.setWidth 8, (v >>> 8).setWidth 8, (v >>> 16).setWidth 8, (v >>> 24).setWidth 8] := by
  have h0 := ofNat_eq_setWidth v 0
  have h1 := ofNat_eq_setWidth v 1
  have h2 := ofNat_eq_setWidth v 2
  have h3 := ofNat_eq_setWidth v 3
  simp only [leBytes, Nat.div_div_eq_div_mul, Nat.reduceMul, Nat.reducePow, Nat.pow_zero, Nat.div_one, Nat.mul_zero,
    BitVec.ushiftRight_zero, Nat.mul_one] at h0 h1 h2 h3 ⊢
  rw [h0, h1, h2, h3]

theorem leBytes_two (v : Word) : leBytes 2 v.toNat = [v.setWidth 8, (v >>> 8).setWidth 8] := congrArg (List.take 2) (leBytes_four v)

theorem leBytes_one (v : Word) : leBytes 1 v.toNat = [v.setWidth 8] := congrArg (List.take 1) (leBytes_four v)

/-! ### The unit's own state -/

theorem State.chkUnit_setChk {s : State} {n : Nat} (h : n < s.chk.length) (u : Chk) : (s.setChk n u).chkUnit n = u := by
  simp [State.chkUnit, State.setChk, setAt, h]

@[simp] theorem State.setChk_setChk (s : State) (n : Nat) (u v : Chk) : (s.setChk n u).setChk n v = s.setChk n v := by
  simp [State.setChk, setAt]

/-- The unit with one more entry queued. -/
def State.chkAppend (s : State) (n : Nat) (e : ChkEntry) : State :=
  (s.setChk n { s.chkUnit n with queue := (s.chkUnit n).queue ++ [e] }).chkShow n

section
variable {s : State} {n : Nat} {ag : Agent} (h : s.chkAccepts n ag = true)
include h

theorem State.chkQueue_of_accepts (e : ChkEntry) : s.chkQueue n ag e = s.chkAppend n e := if_pos h

theorem State.chkHoldLo_of_accepts (off v : Nat) : s.chkHoldLo n ag off v =
    s.setChk n { s.chkUnit n with heldLo := (off, v) :: (s.chkUnit n).heldLo.filter fun e => e.1 != off } := if_pos h

/-- The two halves enter the queue as one entry, and the held one is held no longer. -/
theorem State.chkPair_of_accepts (hn : n < s.chk.length) (off v : Nat) : s.chkPair n ag off v =
    (s.setChk n { s.chkUnit n with
      heldLo := (s.chkUnit n).heldLo.filter fun e => e.1 != off
      queue := (s.chkUnit n).queue ++ [.pair off (((s.chkUnit n).heldLo.find? fun e => e.1 == off).map Prod.snd) v] }).chkShow n := by
  refine (if_pos h).trans ?_
  refine (State.chkQueue_of_accepts (s := s.setChk n _) h _).trans ?_
  rw [State.chkAppend, State.chkUnit_setChk hn, State.setChk_setChk]

end

/-! ### The commands -/

section
variable {s : State} {n : Nat} {ag : Agent} (hn : n < 8) (hh : s.hears ag = true)
include hn hh

/-- A write of a unit by an agent that is heard. -/
theorem done_chkWrite (off v : Nat) :
    done (if s.hears ag && decide (n < 8) then s.chkWrite n ag off v else s) = .next (s.chkWrite n ag off v).settle := by
  rw [if_pos (by simp [hh, hn])]; rfl

theorem exec_feedB (v : Word) : exec (.feedB n ag v) s = .next (s.chkQueue n ag (.feed [v.setWidth 8])).settle := by
  rw [← leBytes_one]; exact done_chkWrite hn hh 0x80 v.toNat

theorem exec_feedH (v : Word) :
    exec (.feedH n ag v) s = .next (s.chkQueue n ag (.feed [v.setWidth 8, (v >>> 8).setWidth 8])).settle := by
  rw [← leBytes_two]; exact done_chkWrite hn hh 0x84 v.toNat

theorem exec_feedW (v : Word) : exec (.feedW n ag v) s = .next (s.chkQueue n ag (.feed [v.setWidth 8, (v >>> 8).setWidth 8,
    (v >>> 16).setWidth 8, (v >>> 24).setWidth 8])).settle := by
  rw [← leBytes_four]; exact done_chkWrite hn hh 0x88 v.toNat

theorem exec_chkStart (set : BitVec 3) : exec (.chkStart n ag set) s = .next (s.chkQueue n ag (.ctrl (2 ^ 31 + set.toNat))).settle :=
  done_chkWrite hn hh 0x44 _

theorem exec_preset (set : BitVec 3) : exec (.preset n ag set) s = .next (s.chkQueue n ag (.ctrl (2 ^ 30 + set.toNat))).settle :=
  done_chkWrite hn hh 0x44 _

theorem exec_cmpGo (set : BitVec 3) : exec (.cmpGo n ag set) s = .next (s.chkQueue n ag (.ctrl (2 ^ 29 + set.toNat))).settle :=
  done_chkWrite hn hh 0x44 _

theorem exec_alive (v : Word) : exec (.alive n ag v) s = .next (s.chkQueue n ag (.reg 0x94 v.toNat)).settle :=
  done_chkWrite hn hh 0x94 _

theorem exec_runWrite_low (v : Word) : exec (.runWrite n ag false v) s = .next (s.chkHoldLo n ag 0x68 v.toNat).settle :=
  done_chkWrite hn hh 0x68 _

theorem exec_runWrite_high (v : Word) : exec (.runWrite n ag true v) s = .next (s.chkPair n ag 0x68 v.toNat).settle :=
  done_chkWrite hn hh 0x6C _

end

theorem exec_chkQueueEntryTaken {s : State} {n : Nat} {e : ChkEntry} {q : List ChkEntry} (h : (s.chkUnit n).queue = e :: q) :
    exec (.chkQueueEntryTaken n) s = .next (((s.setChk n { s.chkUnit n with queue := q }).chkApply n e).chkShow n).settle := by
  show done (s.chkTake n) = _
  rw [State.chkTake, h]
  rfl

/-- Settles O21: each write is one entry of the queue, or the half of one. -/
theorem checkUnitWritesEnterTheQueue : Obligations.CheckUnitWritesEnterTheQueue := by
  intro s n ag v set hn
  refine ⟨fun hh ha => ?_, fun e q h => exec_chkQueueEntryTaken h, fun hh ha high => ?_⟩
  · have hq : ∀ e, s.chkQueue n ag e = s.chkAppend n e := State.chkQueue_of_accepts ha
    refine ⟨?_, ?_, ?_, ?_, ?_, ?_, ?_, ?_, fun hl => ?_⟩
    · rw [exec_feedB hn hh, hq]; rfl
    · rw [exec_feedH hn hh, hq]; rfl
    · rw [exec_feedW hn hh, hq]; rfl
    · rw [exec_chkStart hn hh, hq]; rfl
    · rw [exec_preset hn hh, hq]; rfl
    · rw [exec_cmpGo hn hh, hq]; rfl
    · rw [exec_alive hn hh, hq]; rfl
    · rw [exec_runWrite_low hn hh, State.chkHoldLo_of_accepts ha]
    · rw [exec_runWrite_high hn hh, State.chkPair_of_accepts ha hl]
  · have hno : ¬ s.chkAccepts n ag = true := by simp [ha]
    have hq : ∀ e, s.chkQueue n ag e = s.raise (pCHK n) 31 := fun e => if_neg hno
    refine ⟨?_, ?_, ?_, ?_, ?_, ?_, ?_, ?_⟩
    · rw [exec_feedB hn hh, hq]
    · rw [exec_feedH hn hh, hq]
    · rw [exec_feedW hn hh, hq]
    · rw [exec_alive hn hh, hq]
    · rw [exec_chkStart hn hh, hq]
    · rw [exec_preset hn hh, hq]
    · rw [exec_cmpGo hn hh, hq]
    · cases high
      · rw [exec_runWrite_low hn hh, State.chkHoldLo, if_neg hno]
      · rw [exec_runWrite_high hn hh]
        exact congrArg _ (congrArg _ (if_neg hno))

end Sys2Proof.Machine
end

section
/-!
PROOFS. What the entries of a check unit do when they are taken (R366, R370 to R373, R376): each as a list of writes of the
unit's own fields, beside the events of its page.
-/
namespace Sys2Proof.Machine

open Sys2Proof (Byte)

/-! ### Pairs of registers -/

theorem State.rd64_congr {s t : State} {lo hi : Fld} (hlo : t.rd lo = s.rd lo) (hhi : t.rd hi = s.rd hi) : t.rd64 lo hi = s.rd64 lo hi := by
  rw [State.rd64, State.rd64, hlo, hhi]

/-- A 64-bit value written to a pair of 32-bit registers reads back. -/
theorem State.rd64_of_halves {t : State} {lo hi : Fld} {v : Nat} (hv : v < 2 ^ 64) (hlo : t.rd lo = v % 2 ^ 32 % 2 ^ 32)
    (hhi : t.rd hi = v / 2 ^ 32 % 2 ^ 32) : t.rd64 lo hi = v := by
  rw [State.rd64, hlo, hhi]
  omega

/-- After writes of fields with different keys each of them reads what was written there. -/
theorem State.rd_wrs_of_fields (s : State) (l : List (Fld × Nat)) {fs : List Fld} (hl : (l.map Prod.fst).Sublist fs)
    (hf : (fs.map Fld.key).Nodup) {f : Fld} {v : Nat} (he : (f, v) ∈ l) : (s.wrs l).rd f = v % 2 ^ f.width := by
  refine State.rd_wrs_of_mem s ?_ he
  have hsub := hf.sublist (hl.map Fld.key)
  rwa [List.map_map] at hsub

/-- Writes change the listed fields alone. -/
theorem State.onlyFields_of_wrs (s : State) (l : List (Fld × Nat)) {fs : List Fld} (h : l.map Prod.fst ⊆ fs) : s.onlyFields (s.wrs l) fs :=
  State.onlyFields_wrs (State.onlyFields_refl s fs) fun _ he => h (List.mem_map_of_mem he)

/-! ### The configuration and the running value -/

/-- The fields that make a unit's check code. -/
def chkSetFields (n : Nat) : List Fld :=
  [Reg.CHK_POLY_LO_POLY n, Reg.CHK_POLY_HI_POLY n, Reg.CHK_INIT_LO_INIT n, Reg.CHK_INIT_HI_INIT n, Reg.CHK_XOR_LO_XOROUT n,
    Reg.CHK_XOR_HI_XOROUT n, Reg.CHK_CFG_WIDTH n, Reg.CHK_CFG_REFIN n, Reg.CHK_CFG_REFOUT n]

/-- RUN. -/
def chkRunFields (n : Nat) : List Fld := [Reg.CHK_RUN_LO_RUN n, Reg.CHK_RUN_HI_RUN n]

/-- What a write of RUN writes. -/
def chkRunWrites (n v : Nat) : List (Fld × Nat) := [(Reg.CHK_RUN_LO_RUN n, v % 2 ^ 32), (Reg.CHK_RUN_HI_RUN n, v / 2 ^ 32)]

theorem State.setChkRun_eq_wrs (s : State) (n v : Nat) : s.setChkRun n v = s.wrs (chkRunWrites n v) := rfl

theorem State.chkSet_congr {s t : State} {n : Nat} (h : ∀ f ∈ chkSetFields n, t.rd f = s.rd f) : t.chkSet n = s.chkSet n := by
  simp only [chkSetFields, List.forall_mem_cons] at h
  obtain ⟨h1, h2, h3, h4, h5, h6, h7, h8, h9, -⟩ := h
  simp only [State.chkSet, State.rd64, State.bit, h1, h2, h3, h4, h5, h6, h7, h8, h9]

theorem State.chkRun_congr {s t : State} {n : Nat} (h : ∀ f ∈ chkRunFields n, t.rd f = s.rd f) : t.chkRun n = s.chkRun n :=
  State.rd64_congr (h _ (by simp [chkRunFields])) (h _ (by simp [chkRunFields]))

/-- A running value written among fields with different keys reads back. -/
theorem State.chkRun_wrs (s : State) (l : List (Fld × Nat)) {fs : List Fld} (hl : (l.map Prod.fst).Sublist fs)
    (hf : (fs.map Fld.key).Nodup) {n v : Nat} (hv : v < 2 ^ 64) (hr : chkRunWrites n v ⊆ l) : (s.wrs l).chkRun n = v :=
  State.rd64_of_halves hv (s.rd_wrs_of_fields l hl hf (hr (by simp [chkRunWrites]))) (s.rd_wrs_of_fields l hl hf (hr (by simp [chkRunWrites])))

/-! ### START and PRESET (R366, R371) -/

/-- What START writes. -/
def chkStartWrites (n init : Nat) : List (Fld × Nat) :=
  chkRunWrites n init ++ [(Reg.CHK_STAT_CMPV n, 0), (Reg.CHK_STAT_MATCH n, 0), (Reg.CHK_STAT_BAD n, 0), (Reg.CHK_ALIVE_CFG_SYNC n, 1)]

/-- The fields of `chkStartWrites`. -/
def chkStartFields (n : Nat) : List Fld :=
  chkRunFields n ++ [Reg.CHK_STAT_CMPV n, Reg.CHK_STAT_MATCH n, Reg.CHK_STAT_BAD n, Reg.CHK_ALIVE_CFG_SYNC n]

theorem State.chkStart_eq_wrs (s : State) (n : Nat) : s.chkStart n = s.wrs (chkStartWrites n (s.chkSet n).init) := rfl

theorem chkStartWrites_fields (n init : Nat) : (chkStartWrites n init).map Prod.fst = chkStartFields n := rfl

theorem chkStartFields_nodup : ∀ n < 8, ((chkStartFields n).map Fld.key).Nodup := by decide

/-- What PRESET loads. -/
def chkLoadWrites (n : Nat) (c : CrcSet) : List (Fld × Nat) :=
  [(Reg.CHK_POLY_LO_POLY n, c.poly % 2 ^ 32), (Reg.CHK_POLY_HI_POLY n, c.poly / 2 ^ 32), (Reg.CHK_INIT_LO_INIT n, c.init % 2 ^ 32),
    (Reg.CHK_INIT_HI_INIT n, c.init / 2 ^ 32), (Reg.CHK_XOR_LO_XOROUT n, c.xorOut % 2 ^ 32), (Reg.CHK_XOR_HI_XOROUT n, c.xorOut / 2 ^ 32),
    (Reg.CHK_CFG_WIDTH n, c.w), (Reg.CHK_CFG_REFIN n, if c.refIn then 1 else 0), (Reg.CHK_CFG_REFOUT n, if c.refOut then 1 else 0)]

theorem chkLoadWrites_fields (n : Nat) (c : CrcSet) : (chkLoadWrites n c).map Prod.fst = chkSetFields n := rfl

theorem State.chkPreset_eq (s : State) (n set : Nat) : s.chkPreset n set = (s.wrs (chkLoadWrites n (presetSet set))).chkStart n := rfl

theorem chkSetFields_nodup : ∀ n < 8, ((chkSetFields n).map Fld.key).Nodup := by decide

/-- A check code that the unit's registers can hold. -/
abbrev CrcSet.holdable (c : CrcSet) : Prop := c.w < 2 ^ 7 ∧ c.poly < 2 ^ 64 ∧ c.init < 2 ^ 64 ∧ c.xorOut < 2 ^ 64

theorem presetSet_holdable (set : Nat) : (presetSet set).holdable := by
  unfold presetSet
  split <;> decide

/-- The code that PRESET loads is the unit's code. -/
theorem State.chkSet_load (s : State) {n : Nat} (hn : n < 8) {c : CrcSet} (hc : c.holdable) : (s.wrs (chkLoadWrites n c)).chkSet n = c := by
  obtain ⟨hw, hpoly, hinit, hxor⟩ := hc
  have hrd : ∀ {f : Fld} {v : Nat}, (f, v) ∈ chkLoadWrites n c → (s.wrs (chkLoadWrites n c)).rd f = v % 2 ^ f.width :=
    s.rd_wrs_of_fields _ (fs := chkSetFields n) (List.Sublist.refl _) (chkSetFields_nodup n hn)
  have hbit : ∀ {f : Fld} {b : Bool}, (f, if b then 1 else 0) ∈ chkLoadWrites n c → f.width = 1 →
      (s.wrs (chkLoadWrites n c)).bit f = b := fun {f b} he hf => by
    rw [State.bit, hrd he, hf]
    cases b <;> rfl
  have h64 : ∀ {lo hi : Fld} {v : Nat}, v < 2 ^ 64 → lo.width = 32 → hi.width = 32 → (lo, v % 2 ^ 32) ∈ chkLoadWrites n c →
      (hi, v / 2 ^ 32) ∈ chkLoadWrites n c → (s.wrs (chkLoadWrites n c)).rd64 lo hi = v := fun hv hlw hhw hlo hhi =>
    State.rd64_of_halves hv (by rw [hrd hlo, hlw]) (by rw [hrd hhi, hhw])
  have hwidth : (s.wrs (chkLoadWrites n c)).rd (Reg.CHK_CFG_WIDTH n) = c.w :=
    (hrd (by simp [chkLoadWrites])).trans (Nat.mod_eq_of_lt hw)
  rw [State.chkSet, hwidth, h64 hpoly rfl rfl (by simp [chkLoadWrites]) (by simp [chkLoadWrites]),
    h64 hinit rfl rfl (by simp [chkLoadWrites]) (by simp [chkLoadWrites]),
    h64 hxor rfl rfl (by simp [chkLoadWrites]) (by simp [chkLoadWrites]), hbit (b := c.refIn) (by simp [chkLoadWrites]) rfl,
    hbit (b := c.refOut) (by simp [chkLoadWrites]) rfl]

theorem State.chkRun_chkStart (s : State) {n : Nat} (hn : n < 8) (hi : (s.chkSet n).init < 2 ^ 64) :
    (s.chkStart n).chkRun n = (s.chkSet n).init :=
  s.chkRun_wrs (chkStartWrites n (s.chkSet n).init) (fs := chkStartFields n) (List.Sublist.refl _) (chkStartFields_nodup n hn) hi (by simp [chkStartWrites])

theorem State.rd_chkStart (s : State) {n : Nat} (hn : n < 8) {f : Fld} {v : Nat} (he : (f, v) ∈ chkStartWrites n (s.chkSet n).init) :
    (s.chkStart n).rd f = v % 2 ^ f.width :=
  s.rd_wrs_of_fields (chkStartWrites n (s.chkSet n).init) (fs := chkStartFields n) (List.Sublist.refl _) (chkStartFields_nodup n hn) he

theorem chkSetFields_not_start : ∀ n < 8, ∀ f ∈ chkSetFields n, ∀ g ∈ chkStartFields n, f.key ≠ g.key := by decide

theorem State.chkSet_chkStart (s : State) {n : Nat} (hn : n < 8) : (s.chkStart n).chkSet n = s.chkSet n :=
  State.chkSet_congr fun f hf => s.rd_wrs_ne _ fun _ he =>
    chkSetFields_not_start n hn f hf _ (chkStartWrites_fields n (s.chkSet n).init ▸ List.mem_map_of_mem he)

/-! ### CMP (R372) -/

/-- What CMP writes, by whether the values agree. -/
def chkCompareWrites (n : Nat) (same : Bool) : List (Fld × Nat) := [(Reg.CHK_STAT_CMPV n, 1), (Reg.CHK_STAT_MATCH n, if same then 1 else 0)]

/-- The final value and EXP agree over the low W bits. -/
abbrev State.chkSame (s : State) (n : Nat) : Prop :=
  (s.chkSet n).final (s.chkRun n) % 2 ^ (s.chkSet n).w = s.rd64 (Reg.CHK_EXP_LO_EXP n) (Reg.CHK_EXP_HI_EXP n) % 2 ^ (s.chkSet n).w

theorem State.chkCompare_of_same {s : State} {n : Nat} (h : s.chkSame n) : s.chkCompare n = s.wrs (chkCompareWrites n true) := if_pos h

theorem State.chkCompare_of_differ {s : State} {n : Nat} (h : ¬ s.chkSame n) :
    s.chkCompare n = (s.wrs (chkCompareWrites n false)).raise (pCHK n) 0 := if_neg h

theorem chkStatFields_nodup : ∀ n < 8, (([Reg.CHK_STAT_CMPV n, Reg.CHK_STAT_MATCH n]).map Fld.key).Nodup := by decide

theorem chkStatFields_not_event : ∀ n < 8, ∀ f ∈ [Reg.CHK_STAT_CMPV n, Reg.CHK_STAT_MATCH n], ∀ g ∈ (pCHK n).eventFields, f.key ≠ g.key := by
  decide

theorem chkRunFields_not_compared : ∀ n < 8, ∀ f ∈ chkRunFields n,
    ∀ g ∈ [Reg.CHK_STAT_CMPV n, Reg.CHK_STAT_MATCH n] ++ (pCHK n).eventFields, f.key ≠ g.key := by decide

/-- CMP changes CMPV and MATCH, and by the event of a mismatch the page's event fields. -/
theorem State.regsKept_chkCompare (s : State) (n : Nat) :
    s.regsKept (s.chkCompare n) ([Reg.CHK_STAT_CMPV n, Reg.CHK_STAT_MATCH n] ++ (pCHK n).eventFields) := by
  have hwrs : ∀ same, s.regsKept (s.wrs (chkCompareWrites n same)) ([Reg.CHK_STAT_CMPV n, Reg.CHK_STAT_MATCH n] ++ (pCHK n).eventFields) :=
    fun same => (s.onlyFields_of_wrs (chkCompareWrites n same) (by simp [chkCompareWrites])).2
  by_cases h : s.chkSame n
  · rw [State.chkCompare_of_same h]; exact hwrs true
  · rw [State.chkCompare_of_differ h]; exact (hwrs false).raise (List.subset_append_right _ _) 0

theorem State.rd_chkCompare (s : State) {n : Nat} (hn : n < 8) {f : Fld} {v : Nat} (same : Bool) (hs : same = true ↔ s.chkSame n)
    (he : (f, v) ∈ chkCompareWrites n same) : (s.chkCompare n).rd f = v % 2 ^ f.width := by
  have hwrs : (s.wrs (chkCompareWrites n same)).rd f = v % 2 ^ f.width :=
    s.rd_wrs_of_fields (chkCompareWrites n same) (fs := [Reg.CHK_STAT_CMPV n, Reg.CHK_STAT_MATCH n]) (List.Sublist.refl _) (chkStatFields_nodup n hn) he
  cases same with
  | true => rwa [State.chkCompare_of_same (hs.1 rfl)]
  | false =>
    have hf : f ∈ [Reg.CHK_STAT_CMPV n, Reg.CHK_STAT_MATCH n] := by simpa [chkCompareWrites] using List.mem_map_of_mem (f := Prod.fst) he
    rw [State.chkCompare_of_differ fun h => Bool.noConfusion (hs.2 h), State.rd_raise_ne _ _ _ (chkStatFields_not_event n hn f hf), hwrs]

/-! ### Feeds and RUN pairs (R366, R370, R376) -/

theorem State.chkFeed_of_unarmed {s : State} {n : Nat} (h : s.bit (Hdr.injArm (pCHK n)) = false) (l : List Byte) :
    s.chkFeed n l = s.wrs (chkRunWrites n ((s.chkSet n).feed (s.chkRun n) l)) :=
  if_neg (by simp [h])

theorem chkRunFields_nodup : ∀ n < 8, ((chkRunFields n).map Fld.key).Nodup := by decide

theorem chkRunBadFields_nodup : ∀ n < 8, ((chkRunFields n ++ [Reg.CHK_STAT_BAD n]).map Fld.key).Nodup := by decide

theorem State.chkPairApply_run {s : State} {n lo hi : Nat} (h : lo + 2 ^ 32 * hi < 2 ^ s.rd (Reg.CHK_CFG_WIDTH n)) :
    s.chkPairApply n 0x68 (some lo) hi = s.wrs (chkRunWrites n (lo + 2 ^ 32 * hi) ++ [(Reg.CHK_STAT_BAD n, 0)]) := by
  rw [State.chkPairApply, chkPairFields]
  dsimp only [Option.getD_some]
  rw [if_neg (not_le.2 h), Bool.false_and, if_neg Bool.false_ne_true, if_pos rfl]
  rfl

theorem State.onlyFields_chkStart (s : State) (n : Nat) : s.onlyFields (s.chkStart n) (chkStartFields n) :=
  s.onlyFields_of_wrs (chkStartWrites n (s.chkSet n).init) (List.Subset.refl _)

theorem State.onlyFields.trans_start {s u : State} {fs : List Fld} (h : s.onlyFields u fs) {n : Nat} (hf : chkStartFields n ⊆ fs) :
    s.onlyFields (u.chkStart n) fs :=
  State.onlyFields_wrs (l := chkStartWrites n (u.chkSet n).init) h fun _ he => hf (List.mem_map_of_mem (f := Prod.fst) he)

/-- Settles O23: each entry is a list of writes of fields with different keys, and a mismatch raises an event. -/
theorem checkUnitControlActsAsWritten : Obligations.CheckUnitControlActsAsWritten := by
  intro s n set l hn hlo hhi hfeed cfg run stat
  have hinit : (s.chkSet n).init < 2 ^ 64 := by simp only [State.chkSet, State.rd64]; omega
  refine ⟨?_, fun _ => ?_, ?_, fun hi => ?_, fun lo hlo hi hhi hv => ?_⟩
  · exact ⟨s.chkRun_chkStart hn hinit, s.rd_chkStart hn (v := 0) (by simp [chkStartWrites]),
      s.rd_chkStart hn (v := 0) (by simp [chkStartWrites]), s.rd_chkStart hn (v := 0) (by simp [chkStartWrites]),
      s.rd_chkStart hn (v := 1) (by simp [chkStartWrites]), s.onlyFields_chkStart n⟩
  · obtain ⟨-, -, hfits, -⟩ := presetSet_holdable set
    have hload := s.chkSet_load hn (presetSet_holdable set)
    have hrun := (s.wrs (chkLoadWrites n (presetSet set))).chkRun_chkStart hn (lt_of_eq_of_lt (congrArg CrcSet.init hload) hfits)
    rw [State.chkPreset_eq]
    refine ⟨(State.chkSet_chkStart _ hn).trans hload, hrun.trans (congrArg CrcSet.init hload), State.rd_chkStart _ hn (v := 0) (by simp [chkStartWrites]),
      State.rd_chkStart _ hn (v := 0) (by simp [chkStartWrites]), State.onlyFields.trans_start (s.onlyFields_of_wrs _ ?_) ?_⟩
    · rw [chkLoadWrites_fields]
      simp [chkSetFields, cfg]
    · simp [chkStartFields, chkRunFields, run, stat]
  · have hrun : (s.chkCompare n).chkRun n = s.chkRun n := State.chkRun_congr fun f hf =>
      s.regsKept_chkCompare n f (chkRunFields_not_compared n hn f hf)
    have hiff : decide (s.chkSame n) = true ↔ s.chkSame n := decide_eq_true_iff
    refine ⟨s.rd_chkCompare hn (v := 1) _ hiff (by simp [chkCompareWrites]), ?_, hrun, fun h => ?_, fun h => ?_⟩
    · rw [s.rd_chkCompare hn (f := Reg.CHK_STAT_MATCH n) _ hiff (.tail _ (.head _))]
      by_cases h : s.chkSame n
      · exact ⟨fun _ => h, fun _ => by rw [decide_eq_true h]; rfl⟩
      · rw [decide_eq_false h]
        exact ⟨fun h0 => absurd h0 (by decide : ¬ (0 % 2 ^ 1 = 1)), fun h1 => absurd h1 h⟩
    · rw [State.chkCompare_of_same h]
      exact s.onlyFields_of_wrs _ (List.Subset.refl _)
    · refine ⟨?_, s.regsKept_chkCompare n⟩
      rw [State.chkCompare_of_differ h]
      exact State.evt_raise _ _ (by decide)
  · rw [State.chkFeed_of_unarmed hi]
    exact ⟨s.chkRun_wrs _ (fs := chkRunFields n) (List.Sublist.refl _) (chkRunFields_nodup n hn) hfeed (List.Subset.refl _),
      s.onlyFields_of_wrs _ (List.Subset.refl _)⟩
  · rw [State.chkPairApply_run hv]
    refine ⟨s.chkRun_wrs _ (fs := chkRunFields n ++ [Reg.CHK_STAT_BAD n]) (List.Sublist.refl _) (chkRunBadFields_nodup n hn) (by omega)
      (List.subset_append_left _ _), s.rd_wrs_of_fields _ (fs := chkRunFields n ++ [Reg.CHK_STAT_BAD n]) (v := 0) (List.Sublist.refl _)
      (chkRunBadFields_nodup n hn) (by simp), s.onlyFields_of_wrs _ (List.Subset.refl _)⟩

end Sys2Proof.Machine
end

section
/-!
PROOFS. The alive counters of a check unit (R373): a write of ALIVE by its case of the table, as the writes it makes.
-/
namespace Sys2Proof.Machine

open Sys2Proof (Byte)

/-! ### The operands -/

/-- A value written to ALIVE, cut to the counter's width. -/
def State.aliveValue (s : State) (n v : Nat) : Nat := v % 2 ^ aliveBits (s.rd (Reg.CHK_ALIVE_CFG_AW n))

/-- E. -/
def State.aliveExpected (s : State) (n : Nat) : Nat := s.rd (Reg.CHK_ALIVE_EXP_E n) % 2 ^ aliveBits (s.rd (Reg.CHK_ALIVE_CFG_AW n))

/-- The value after the one written. -/
def State.aliveNext (s : State) (n v : Nat) : Nat := (s.aliveValue n v + 1) % 2 ^ aliveBits (s.rd (Reg.CHK_ALIVE_CFG_AW n))

/-- The running value once the value written has been fed. -/
def State.aliveFed (s : State) (n v : Nat) : Nat :=
  (s.chkSet n).feed (s.chkRun n) (leBytes (ceilDiv (aliveBits (s.rd (Reg.CHK_ALIVE_CFG_AW n))) 8) (s.aliveValue n v))

/-- What FOLD adds to the writes of a value that is no repeat. -/
def State.foldWrites (s : State) (n v : Nat) : List (Fld × Nat) :=
  if s.bit (Reg.CHK_ALIVE_CFG_FOLD n) then chkRunWrites n (s.aliveFed n v) else []

/-- With FOLD = 1 the value written is fed. -/
def State.aliveFold (s t : State) (n v : Nat) : State :=
  if s.bit (Reg.CHK_ALIVE_CFG_FOLD n) then t.chkFeed n (leBytes (ceilDiv (aliveBits (s.rd (Reg.CHK_ALIVE_CFG_AW n))) 8) (s.aliveValue n v))
  else t

/-- What a skip writes beside its event. -/
def State.skipWrites (s : State) (n v : Nat) : List (Fld × Nat) :=
  [(Reg.CHK_ALIVE_CNT_SKIP n, satAdd (2 ^ 16 - 1) (s.rd (Reg.CHK_ALIVE_CNT_SKIP n)) 1),
    (Reg.CHK_ALIVE_GAP_GAP n, (s.aliveValue n v + 2 ^ aliveBits (s.rd (Reg.CHK_ALIVE_CFG_AW n)) - s.aliveExpected n) %
      2 ^ aliveBits (s.rd (Reg.CHK_ALIVE_CFG_AW n))),
    (Reg.CHK_ALIVE_EXP_E n, s.aliveNext n v)]

/-- The table of R373, with its operands named. -/
theorem State.chkAlive_eq (s : State) (n v : Nat) : s.chkAlive n v =
    if !s.bit (Reg.CHK_ALIVE_CFG_EN n) then s.raise (pCHK n) 31
    else if s.bit (Reg.CHK_ALIVE_CFG_SYNC n) then
      s.aliveFold (s.wrs [(Reg.CHK_ALIVE_EXP_E n, s.aliveNext n v), (Reg.CHK_ALIVE_CFG_SYNC n, 0)]) n v
    else if s.aliveValue n v = s.aliveExpected n then s.aliveFold (s.wrs [(Reg.CHK_ALIVE_EXP_E n, s.aliveNext n v)]) n v
    else if s.aliveNext n v = s.aliveExpected n then (s.raise (pCHK n) 1).satInc (Reg.CHK_ALIVE_CNT_REPEAT n) 1
    else s.aliveFold ((((s.raise (pCHK n) 2).satInc (Reg.CHK_ALIVE_CNT_SKIP n) 1).wr (Reg.CHK_ALIVE_GAP_GAP n)
      ((s.aliveValue n v + 2 ^ aliveBits (s.rd (Reg.CHK_ALIVE_CFG_AW n)) - s.aliveExpected n) %
        2 ^ aliveBits (s.rd (Reg.CHK_ALIVE_CFG_AW n)))).wr (Reg.CHK_ALIVE_EXP_E n) (s.aliveNext n v)) n v := rfl

/-! ### The fields that a value changes before it is fed -/

/-- SYNC, E, the counters and GAP of a unit, and the event fields of its page. -/
def aliveFields (n : Nat) : List Fld :=
  [Reg.CHK_ALIVE_CFG_SYNC n, Reg.CHK_ALIVE_EXP_E n, Reg.CHK_ALIVE_CNT_REPEAT n, Reg.CHK_ALIVE_CNT_SKIP n, Reg.CHK_ALIVE_GAP_GAP n] ++
    (pCHK n).eventFields

theorem feed_not_alive : ∀ n < 8, ∀ f ∈ Hdr.injArm (pCHK n) :: chkRunFields n ++ chkSetFields n, ∀ g ∈ aliveFields n, f.key ≠ g.key := by
  decide

theorem alive_not_event : ∀ n < 8, ∀ f ∈ [Reg.CHK_ALIVE_CFG_SYNC n, Reg.CHK_ALIVE_EXP_E n, Reg.CHK_ALIVE_CNT_REPEAT n, Reg.CHK_ALIVE_CNT_SKIP n],
    ∀ g ∈ (pCHK n).eventFields, f.key ≠ g.key := by decide

section
variable {s u : State} {n : Nat} (hn : n < 8) (hi : s.bit (Hdr.injArm (pCHK n)) = false) (hu : s.regsKept u (aliveFields n))
include hn hu

theorem State.regsKept.chkSet_alive : u.chkSet n = s.chkSet n :=
  State.chkSet_congr fun f hf => hu f (feed_not_alive n hn f (by simp [hf]))

theorem State.regsKept.chkRun_alive : u.chkRun n = s.chkRun n :=
  State.chkRun_congr fun f hf => hu f (feed_not_alive n hn f (by simp [hf]))

include hi

/-- Feeding after changes of those fields feeds what it would have fed before. -/
theorem State.regsKept.fold_alive (v : Nat) :
    s.aliveFold u n v = u.wrs (s.foldWrites n v) := by
  have hiu : u.bit (Hdr.injArm (pCHK n)) = false := by
    rw [State.bit, hu _ (feed_not_alive n hn _ (by simp))]; exact hi
  rw [State.aliveFold, State.foldWrites]
  split
  · rw [State.chkFeed_of_unarmed hiu, hu.chkSet_alive hn, hu.chkRun_alive hn]; rfl
  · rfl

end

/-! ### A value by its case (R373) -/

section
variable {s : State} {n v : Nat}

theorem State.chkAlive_of_off (h : s.bit (Reg.CHK_ALIVE_CFG_EN n) = false) : s.chkAlive n v = s.raise (pCHK n) 31 :=
  if_pos (by simp [h])

variable (he : s.bit (Reg.CHK_ALIVE_CFG_EN n) = true)
include he

theorem State.chkAlive_of_repeated (hs : s.bit (Reg.CHK_ALIVE_CFG_SYNC n) = false) (hne : s.aliveValue n v ≠ s.aliveExpected n)
    (hr : s.aliveNext n v = s.aliveExpected n) : s.chkAlive n v = (s.raise (pCHK n) 1).satInc (Reg.CHK_ALIVE_CNT_REPEAT n) 1 := by
  rw [State.chkAlive_eq, if_neg (by simp [he]), if_neg (by simp [hs]), if_neg hne, if_pos hr]

variable (hn : n < 8) (hi : s.bit (Hdr.injArm (pCHK n)) = false)
include hn hi

theorem State.chkAlive_of_sync (hs : s.bit (Reg.CHK_ALIVE_CFG_SYNC n) = true) : s.chkAlive n v =
    s.wrs ([(Reg.CHK_ALIVE_EXP_E n, s.aliveNext n v), (Reg.CHK_ALIVE_CFG_SYNC n, 0)] ++ s.foldWrites n v) := by
  have hkept : s.regsKept (s.wrs [(Reg.CHK_ALIVE_EXP_E n, s.aliveNext n v), (Reg.CHK_ALIVE_CFG_SYNC n, 0)]) (aliveFields n) :=
    (s.onlyFields_of_wrs _ (by simp [aliveFields])).2
  rw [State.wrs_append, ← hkept.fold_alive hn hi, State.chkAlive_eq, if_neg (by simp [he]), if_pos hs]

theorem State.chkAlive_of_expected (hs : s.bit (Reg.CHK_ALIVE_CFG_SYNC n) = false) (hx : s.aliveValue n v = s.aliveExpected n) :
    s.chkAlive n v = s.wrs ([(Reg.CHK_ALIVE_EXP_E n, s.aliveNext n v)] ++ s.foldWrites n v) := by
  have hkept : s.regsKept (s.wrs [(Reg.CHK_ALIVE_EXP_E n, s.aliveNext n v)]) (aliveFields n) :=
    (s.onlyFields_of_wrs _ (by simp [aliveFields])).2
  rw [State.wrs_append, ← hkept.fold_alive hn hi, State.chkAlive_eq, if_neg (by simp [he]), if_neg (by simp [hs]), if_pos hx]

theorem State.chkAlive_of_skipped (hs : s.bit (Reg.CHK_ALIVE_CFG_SYNC n) = false) (hne : s.aliveValue n v ≠ s.aliveExpected n)
    (hr : s.aliveNext n v ≠ s.aliveExpected n) :
    s.chkAlive n v = (s.raise (pCHK n) 2).wrs (s.skipWrites n v ++ s.foldWrites n v) := by
  have hkept : s.regsKept ((s.raise (pCHK n) 2).wrs (s.skipWrites n v)) (aliveFields n) := fun f hf =>
    ((State.onlyFields_of_wrs _ (s.skipWrites n v) (by simp [State.skipWrites, aliveFields])).2 f hf).trans
      ((State.regsKept_refl s _).raise (List.subset_append_right _ _) 2 f hf)
  have hskip : (s.raise (pCHK n) 2).rd (Reg.CHK_ALIVE_CNT_SKIP n) = s.rd (Reg.CHK_ALIVE_CNT_SKIP n) :=
    State.rd_raise_ne s _ 2 (alive_not_event n hn _ (by simp))
  rw [State.wrs_append, ← hkept.fold_alive hn hi, State.chkAlive_eq, if_neg (by simp [he]), if_neg (by simp [hs]), if_neg hne, if_neg hr,
    State.skipWrites, ← hskip]
  rfl

end

/-! ### What the fields read afterwards -/

/-- The fields of the writes of a value that is expected or comes first. -/
def aliveTakenFields (n : Nat) : List Fld := [Reg.CHK_ALIVE_EXP_E n, Reg.CHK_ALIVE_CFG_SYNC n] ++ chkRunFields n

/-- The fields of the writes of a skip. -/
def aliveSkipFields (n : Nat) : List Fld :=
  [Reg.CHK_ALIVE_CNT_SKIP n, Reg.CHK_ALIVE_GAP_GAP n, Reg.CHK_ALIVE_EXP_E n] ++ chkRunFields n

theorem aliveTakenFields_nodup : ∀ n < 8, ((aliveTakenFields n).map Fld.key).Nodup := by decide

theorem aliveSkipFields_nodup : ∀ n < 8, ((aliveSkipFields n).map Fld.key).Nodup := by decide

theorem sync_not_skip : ∀ n < 8, ∀ g ∈ aliveSkipFields n, (Reg.CHK_ALIVE_CFG_SYNC n).key ≠ g.key := by decide

theorem evtRaw_not_skip : ∀ n < 8, ∀ g ∈ aliveSkipFields n, (Hdr.evtRaw (pCHK n)).key ≠ g.key := by decide

theorem not_repeat : ∀ n < 8, ∀ f ∈ [Hdr.evtRaw (pCHK n), Reg.CHK_ALIVE_CFG_SYNC n, Reg.CHK_ALIVE_EXP_E n] ++ chkRunFields n,
    f.key ≠ (Reg.CHK_ALIVE_CNT_REPEAT n).key := by decide

theorem run_not_alive : ∀ n < 8, ∀ f ∈ chkRunFields n, ∀ g ∈ aliveFields n, f.key ≠ g.key := by decide

theorem State.foldWrites_fields (s : State) (n v : Nat) : ((s.foldWrites n v).map Prod.fst).Sublist (chkRunFields n) := by
  unfold State.foldWrites
  split
  · exact List.Sublist.refl _
  · exact List.nil_sublist _

theorem aliveNext_lt (s : State) (n v : Nat) : s.aliveNext n v < 2 ^ aliveBits (s.rd (Reg.CHK_ALIVE_CFG_AW n)) :=
  Nat.mod_lt _ (Nat.two_pow_pos _)

/-- With AW below 4 the counter has at most 32 bits. -/
theorem two_pow_aliveBits_le : ∀ aw < 4, 2 ^ aliveBits aw ≤ 2 ^ 32 := by decide

/-- RUN after writes that end in what FOLD adds. -/
theorem State.chkRun_wrs_fold {s u : State} {n v : Nat} {l : List (Fld × Nat)} {fs : List Fld} (hl : (l.map Prod.fst).Sublist fs)
    (hf : ((fs ++ chkRunFields n).map Fld.key).Nodup) (hlt : s.aliveFed n v < 2 ^ 64) (hu : u.chkRun n = s.chkRun n) :
    (u.wrs (l ++ s.foldWrites n v)).chkRun n = if s.bit (Reg.CHK_ALIVE_CFG_FOLD n) then s.aliveFed n v else s.chkRun n := by
  unfold State.foldWrites
  split
  · refine u.chkRun_wrs _ (fs := fs ++ chkRunFields n) ?_ hf hlt (List.subset_append_right _ _)
    rw [List.map_append]
    exact hl.append (List.Sublist.refl _)
  · rw [List.append_nil, ← hu]
    refine State.chkRun_congr fun f hfr => u.rd_wrs_ne _ fun e he heq => ?_
    rw [List.map_append, List.nodup_append] at hf
    exact hf.2.2 _ (List.mem_map_of_mem (hl.subset (List.mem_map_of_mem he))) _ (List.mem_map_of_mem hfr) heq.symm

/-- The widths that the statement lists are those of AW (R373). -/
theorem getD_aliveBits : ∀ aw < 4, [4, 8, 16, 32].getD aw 0 = aliveBits aw := by decide

section
variable {s : State} {n v : Nat} (hn : n < 8)
include hn

/-- A repeat changes its counter and the event fields. -/
theorem State.rd_repeated {f : Fld} (hf : f ∈ [Reg.CHK_ALIVE_CFG_SYNC n, Reg.CHK_ALIVE_EXP_E n] ++ chkRunFields n) :
    ((s.raise (pCHK n) 1).satInc (Reg.CHK_ALIVE_CNT_REPEAT n) 1).rd f = s.rd f := by
  rw [State.rd_satInc_ne _ (not_repeat n hn f (.tail _ hf)), State.rd_raise_ne s _ 1]
  rcases List.mem_append.1 hf with h | h
  · exact alive_not_event n hn f (List.mem_append_left [Reg.CHK_ALIVE_CNT_REPEAT n, Reg.CHK_ALIVE_CNT_SKIP n] h)
  · exact fun g hg => run_not_alive n hn f h g (List.mem_append_right _ hg)

theorem State.evt_repeated : ((s.raise (pCHK n) 1).satInc (Reg.CHK_ALIVE_CNT_REPEAT n) 1).evt (pCHK n) 1 = true := by
  rw [State.evt, State.rd_satInc_ne _ (not_repeat n hn _ (.head _))]
  exact State.evt_raise s _ (by decide)

theorem State.repeats_repeated : ((s.raise (pCHK n) 1).satInc (Reg.CHK_ALIVE_CNT_REPEAT n) 1).rd (Reg.CHK_ALIVE_CNT_REPEAT n) =
    min 0xFFFF (s.rd (Reg.CHK_ALIVE_CNT_REPEAT n) + 1) := by
  rw [State.satInc, State.rd_wr_self, State.rd_raise_ne s _ 1 (alive_not_event n hn _ (by simp))]
  exact Nat.mod_eq_of_lt (by simp only [satAdd, Reg.CHK_ALIVE_CNT_REPEAT]; omega)

/-- What a skip writes reads back. -/
theorem State.rd_skipped {f : Fld} {x : Nat} (hx : (f, x) ∈ s.skipWrites n v) :
    ((s.raise (pCHK n) 2).wrs (s.skipWrites n v ++ s.foldWrites n v)).rd f = x % 2 ^ f.width := by
  refine State.rd_wrs_of_fields _ _ (fs := aliveSkipFields n) ?_ (aliveSkipFields_nodup n hn) (List.mem_append_left _ hx)
  rw [List.map_append]
  exact (List.Sublist.refl _).append (s.foldWrites_fields n v)

omit hn in
/-- Fields that neither a skip nor its feed writes stay. -/
theorem State.rd_wrs_fold_ne (u : State) {l : List (Fld × Nat)} (hl : l.map Prod.fst ⊆ aliveSkipFields n) {f : Fld}
    (hf : ∀ g ∈ aliveSkipFields n, f.key ≠ g.key) : (u.wrs (l ++ s.foldWrites n v)).rd f = u.rd f := by
  refine State.rd_wrs_ne _ _ fun e he => hf _ ?_
  rcases List.mem_append.1 he with h | h
  · exact hl (List.mem_map_of_mem h)
  · exact List.mem_append_right _ ((s.foldWrites_fields n v).subset (List.mem_map_of_mem h))

/-- What a value that is expected or comes first writes reads back. -/
theorem State.rd_taken {l : List (Fld × Nat)} (hl : (l.map Prod.fst).Sublist [Reg.CHK_ALIVE_EXP_E n, Reg.CHK_ALIVE_CFG_SYNC n])
    {f : Fld} {x : Nat} (hx : (f, x) ∈ l) : (s.wrs (l ++ s.foldWrites n v)).rd f = x % 2 ^ f.width := by
  refine State.rd_wrs_of_fields _ _ (fs := aliveTakenFields n) ?_ (aliveTakenFields_nodup n hn) (List.mem_append_left _ hx)
  rw [List.map_append]
  exact hl.append (s.foldWrites_fields n v)

theorem State.chkRun_raise (b : Nat) : (s.raise (pCHK n) b).chkRun n = s.chkRun n :=
  State.chkRun_congr fun f hf => State.rd_raise_ne s _ b fun g hg => run_not_alive n hn f hf g (List.mem_append_right _ hg)

end

/-- A value that is expected or comes first writes E, SYNC and RUN alone. -/
theorem State.onlyFields_taken (s : State) (n v : Nat) {l : List (Fld × Nat)}
    (hl : (l.map Prod.fst).Sublist [Reg.CHK_ALIVE_EXP_E n, Reg.CHK_ALIVE_CFG_SYNC n]) :
    s.onlyFields (s.wrs (l ++ s.foldWrites n v))
      [Reg.CHK_ALIVE_CFG_SYNC n, Reg.CHK_ALIVE_EXP_E n, Reg.CHK_RUN_LO_RUN n, Reg.CHK_RUN_HI_RUN n] := by
  refine s.onlyFields_of_wrs _ ?_
  rw [List.map_append]
  refine List.append_subset.2 ⟨fun f hf => ?_, fun f hf => List.mem_append_right [_, _] ((s.foldWrites_fields n v).subset hf)⟩
  have := hl.subset hf
  simp only [List.mem_cons, List.not_mem_nil, or_false] at this ⊢
  tauto

/-- Settles O24, row by row of the table. -/
theorem aliveCountersFollowTheTable : Obligations.AliveCountersFollowTheTable := by
  intro s n v hn hi haw _ A a e t fed
  have hA : A = aliveBits (s.rd (Reg.CHK_ALIVE_CFG_AW n)) := getD_aliveBits _ haw
  clear_value A
  subst hA
  refine ⟨fun h => State.chkAlive_of_off h, fun he hfed => ?_, fun w set => ⟨?_, ?_, ?_⟩⟩
  · have hE : s.aliveNext n v % 2 ^ (Reg.CHK_ALIVE_EXP_E n).width = s.aliveNext n v :=
      Nat.mod_eq_of_lt (lt_of_lt_of_le (aliveNext_lt s n v) (two_pow_aliveBits_le _ haw))
    intro repeated skipped
    have htaken : ∀ l : List (Fld × Nat), (l.map Prod.fst).Sublist [Reg.CHK_ALIVE_EXP_E n, Reg.CHK_ALIVE_CFG_SYNC n] →
        t = s.wrs (l ++ s.foldWrites n v) → (Reg.CHK_ALIVE_EXP_E n, s.aliveNext n v) ∈ l →
        t.rd (Reg.CHK_ALIVE_EXP_E n) = s.aliveNext n v ∧
          (t.chkRun n = if s.bit (Reg.CHK_ALIVE_CFG_FOLD n) then s.aliveFed n v else s.chkRun n) ∧
          s.onlyFields t [Reg.CHK_ALIVE_CFG_SYNC n, Reg.CHK_ALIVE_EXP_E n, Reg.CHK_RUN_LO_RUN n, Reg.CHK_RUN_HI_RUN n] := by
      intro l hl ht hx
      rw [ht]
      exact ⟨(State.rd_taken hn hl hx).trans hE, State.chkRun_wrs_fold hl (aliveTakenFields_nodup n hn) hfed rfl, s.onlyFields_taken n v hl⟩
    cases hs : s.bit (Reg.CHK_ALIVE_CFG_SYNC n) with
    | true =>
      have hnr : ¬ repeated := fun h => Bool.noConfusion (hs.symm.trans h.1)
      have hns : ¬ skipped := fun h => Bool.noConfusion (hs.symm.trans h.1)
      have ht := State.chkAlive_of_sync (v := v) he hn hi hs
      obtain ⟨hexp, hrun, honly⟩ := htaken _ (List.Sublist.refl _) ht (by simp)
      refine ⟨?_, fun _ => ⟨hexp, hrun⟩, fun h => absurd h hnr, fun h => absurd h hns, fun _ _ => honly⟩
      exact (congrArg (fun u : State => u.rd _) ht).trans (State.rd_taken hn (List.Sublist.refl _) (x := 0) (by simp))
    | false =>
      by_cases hx : s.aliveValue n v = s.aliveExpected n
      · have hnr : ¬ repeated := fun h => h.2.1 hx
        have hns : ¬ skipped := fun h => h.2.1 hx
        have ht := State.chkAlive_of_expected (v := v) he hn hi hs hx
        obtain ⟨hexp, hrun, honly⟩ := htaken _ (by simp) ht (by simp)
        refine ⟨?_, fun _ => ⟨hexp, hrun⟩, fun h => absurd h hnr, fun h => absurd h hns, fun _ _ => honly⟩
        exact (congrArg (fun u : State => u.rd _) ht).trans (State.rd_wrs_fold_ne s (by simp [aliveSkipFields]) (sync_not_skip n hn))
      · by_cases hr : s.aliveNext n v = s.aliveExpected n
        · have hrep : repeated := ⟨hs, hx, hr⟩
          have ht : t = _ := State.chkAlive_of_repeated he hs hx hr
          rw [ht]
          refine ⟨State.rd_repeated hn (by simp), fun h => absurd hrep h, fun _ => ⟨State.rd_repeated hn (by simp),
            State.chkRun_congr fun f hf => State.rd_repeated hn (List.mem_append_right _ hf), State.evt_repeated hn, fun _ => State.repeats_repeated hn⟩,
            fun h => absurd hr h.2.2, fun h => absurd hrep h⟩
        · have hskip : skipped := ⟨hs, hx, hr⟩
          have hnr : ¬ repeated := fun h => hr h.2.2
          have ht : t = _ := State.chkAlive_of_skipped he hn hi hs hx hr
          rw [ht]
          refine ⟨?_, fun _ => ⟨(State.rd_skipped hn (by simp [State.skipWrites])).trans hE, ?_⟩, fun h => absurd h hnr,
            fun _ => ⟨?_, ?_, fun _ => ?_⟩, fun _ h => absurd hskip h⟩
          · exact (State.rd_wrs_fold_ne _ (List.subset_append_left _ _) (sync_not_skip n hn)).trans
              (State.rd_raise_ne s _ 2 (alive_not_event n hn _ (by simp)))
          · exact State.chkRun_wrs_fold (List.Sublist.refl _) (aliveSkipFields_nodup n hn) hfed (State.chkRun_raise hn 2)
          · refine (State.rd_skipped hn (.tail _ (.head _))).trans (Nat.mod_eq_of_lt ?_)
            exact lt_of_lt_of_le (Nat.mod_lt _ (Nat.two_pow_pos _)) (two_pow_aliveBits_le _ haw)
          · rw [State.evt, State.rd_wrs_fold_ne _ (List.subset_append_left _ _) (evtRaw_not_skip n hn)]
            exact State.evt_raise s _ (by decide)
          · exact (State.rd_skipped hn (.head _)).trans (Nat.mod_eq_of_lt (by simp only [satAdd, Reg.CHK_ALIVE_CNT_SKIP]; omega))
  · exact State.rd_wr_self _ _ 1
  · exact s.rd_chkStart hn (v := 1) (by simp [chkStartWrites])
  · rw [State.chkPreset_eq]
    exact State.rd_chkStart _ hn (v := 1) (by simp [chkStartWrites])

end Sys2Proof.Machine
end

section
/-!
PROOFS. The time base (R378 to R383, R385): captured reads, the increment, the step, the clocks and the alarm.
-/
namespace Sys2Proof.Machine

open Sys2Proof (Agent)

/-! ### What leaves the time base as it was -/

theorem Steps.tim_eq {s t : State} (h : Steps (· ≠ Part.tim) s t) : t.tim = s.tim := (h.kept .tim).resolve_left fun hne => hne rfl

@[simp] theorem State.raise_tim (s : State) (p : Page) (b : Nat) : (s.raise p b).tim = s.tim :=
  (State.raise_steps (by decide) (Steps.refl _ s) p b).tim_eq

@[simp] theorem State.setFault_tim (s : State) (p : Page) (b : Nat) : (s.setFault p b).tim = s.tim :=
  (State.setFault_steps (by decide) (by decide) (Steps.refl _ s) p b).tim_eq

/-! ### Captured reads (R382) -/

/-- A register of TIM whose _LO captures it. -/
abbrev timPairHigh (off : Nat) : Prop := off = 0x44 ∨ off = 0x4C

/-- What a captured place holds is what the _HI register then returns. -/
theorem State.blockRead_captured {t : State} {off x : Nat} (ho : timPairHigh off) (hr : t.inReset pTIM = false)
    (h : t.rd (shadow pTIM off) = 2 * x + 1) : (t.blockRead pTIM off).1 = x := by
  have hc : captured pTIM.block off = true := by obtain rfl | rfl := ho <;> decide
  rw [State.blockRead, if_pos hc]
  simp only [State.capturedWord, hr, h, Bool.false_eq_true, if_false]
  rw [if_pos (by omega)]
  omega

theorem State.now_lt (s : State) : s.now < 2 ^ 64 := Nat.mod_lt _ (by decide)

section
variable {s : State} (hr : s.inReset pTIM = false)
include hr

theorem State.blockWord_tim {off v : Nat} (hv : s.viewTim off = some v) (hlt : v < 2 ^ 32) : s.blockWord pTIM off = v := by
  have hview : s.view pTIM off = some v := hv
  simp only [State.blockWord, hr, hview, Bool.false_eq_true, if_false]
  exact Nat.mod_eq_of_lt hlt

/-- A read of a _LO register returns its word and captures the word of the _HI register. -/
theorem State.blockRead_low {lo : Nat} (ho : lo = 0x40 ∨ lo = 0x48) : s.blockRead pTIM lo =
    (s.blockWord pTIM lo, s.wr (shadow pTIM (lo + 4)) (2 * s.blockWord pTIM (lo + 4) + 1)) := by
  have hc : captured pTIM.block lo = false := by obtain rfl | rfl := ho <;> decide
  have hcap : captures pTIM.block lo = [lo + 4] := by obtain rfl | rfl := ho <;> decide
  rw [State.blockRead, if_neg (by simp [hc]), hr, hcap]
  rfl

/-- A pair of which the low half was read returns the high half of the same moment, for as long as the captured place is kept. -/
theorem State.blockRead_pair {lo v : Nat} (ho : lo = 0x40 ∨ lo = 0x48) (hv : v < 2 ^ 64) (hlo : s.viewTim lo = some (v % 2 ^ 32))
    (hhi : s.viewTim (lo + 4) = some (v / 2 ^ 32)) :
    (s.blockRead pTIM lo).1 = v % 2 ^ 32 ∧ ∀ t : State, t.inReset pTIM = false →
      t.rd (shadow pTIM (lo + 4)) = (s.blockRead pTIM lo).2.rd (shadow pTIM (lo + 4)) → (t.blockRead pTIM (lo + 4)).1 = v / 2 ^ 32 := by
  have hdiv : v / 2 ^ 32 < 2 ^ 32 := by omega
  rw [State.blockRead_low hr ho, State.blockWord_tim hr hlo (Nat.mod_lt _ (by decide)), State.blockWord_tim hr hhi hdiv]
  refine ⟨rfl, fun t ht h => State.blockRead_captured (by omega) ht (h.trans ?_)⟩
  rw [State.rd_wr_self]
  exact Nat.mod_eq_of_lt (show 2 * (v / 2 ^ 32) + 1 < 2 ^ 33 by omega)

end

theorem State.rd_clock (s : State) (f : Fld) : s.clock.rd f = s.rd f := rd_ite rfl rfl

/-- Settles O29: a _LO read stores the _HI word in its captured place, which is what a _HI read returns. -/
theorem timeReadsPairTheirHalves : Obligations.TimeReadsPairTheirHalves := by
  intro s hr hc
  obtain ⟨hnow, hnowHi⟩ := State.blockRead_pair hr (.inl rfl) s.now_lt rfl rfl
  obtain ⟨hraw, hrawHi⟩ := State.blockRead_pair hr (.inr rfl) hc rfl rfl
  exact ⟨hnow, hraw, hnowHi, hrawHi, fun off _ => ⟨s.rd_clock _, fun f v hf => State.rd_wr_ne s hf.symm v⟩⟩

/-! ### T at a moment (R379, R383) -/

/-- The 96-bit term that T is cut from. -/
def State.timeTerm (s : State) : Nat := s.tim.base + s.tim.since * s.timeInc

theorem State.now_of_good {s : State} (h : s.tim.bad = false) : s.now = s.timeTerm / 2 ^ 28 % 2 ^ 64 := by
  simp only [State.now, h, State.timeTerm, Bool.false_eq_true, if_false]

theorem State.now_of_bad {s : State} (h : s.tim.bad = true) : s.now = Sys2Proof.Config.unreliableTime s.tim.c % 2 ^ 64 := by
  simp only [State.now, h, if_true]

/-- B rebuilt: the term so far, or after a failed check the T then shown. -/
def State.rebuilt (s : State) : Nat := (if s.tim.bad then s.now * 2 ^ 28 else s.timeTerm) % 2 ^ 96

theorem State.rebase_eq (s : State) : s.rebase = { s with tim := { s.tim with base := s.rebuilt, since := 0, bad := false } } := rfl

/-- The rebuilt B stands for the T that was. -/
theorem State.rebuilt_now (s : State) : s.rebuilt / 2 ^ 28 % 2 ^ 64 = s.now := by
  have hlt := s.now_lt
  cases h : s.tim.bad with
  | true => simp only [State.rebuilt, h, if_true]; omega
  | false => rw [State.now_of_good h]; simp only [State.rebuilt, h, Bool.false_eq_true, if_false]; omega

/-- With B rebuilt no clock counted since, T is what B holds. -/
theorem State.now_of_rebased {u : State} {b : Nat} (hb : u.tim.base = b) (hs : u.tim.since = 0) (hg : u.tim.bad = false) :
    u.now = b / 2 ^ 28 % 2 ^ 64 := by
  rw [State.now_of_good hg, State.timeTerm, hb, hs, Nat.zero_mul, Nat.add_zero]

/-! ### INC_APPLY (R380) -/

section
variable {s : State} {ag : Agent} (ha : s.reaches ag pTIM)
include ha

theorem exec_incApply (high : Sys2Proof.Word) (upset : Bool) :
    exec (.incApply ag high upset) s = .next (if upset then (s.incHi high.toNat).timeCheck else s.incHi high.toNat).settle :=
  done_access ha fun s => s.timeWrite upset fun s => s.incHi high.toNat

theorem exec_timeStep (high : Sys2Proof.Word) (upset : Bool) :
    exec (.timeStep ag high upset) s = .next (if upset then (s.adjHi high.toNat).timeCheck else s.adjHi high.toNat).settle :=
  done_access ha fun s => s.timeWrite upset fun s => s.adjHi high.toNat

end

/-- The pair that a write of the high half applies. -/
def State.heldInc (s : State) (v : Nat) : Nat := s.tim.heldInc.getD (s.rd Reg.TIM_INC_LO_INC) + 2 ^ 32 * (v % 256)

/-- What INC_APPLY makes within its range. -/
def State.incApplied (s : State) (inc : Nat) : State := (s.rebase.wr64 Reg.TIM_INC_LO_INC Reg.TIM_INC_HI_INC inc).raise pTIM 1

theorem State.incHi_of_range {s : State} {v : Nat} (h1 : incMin ≤ s.heldInc v) (h2 : s.heldInc v ≤ incMax) :
    s.incHi v = s.incApplied (s.heldInc v) :=
  if_neg (not_or.2 ⟨not_lt.2 h1, not_lt.2 h2⟩)

theorem State.incHi_of_outside {s : State} {v : Nat} (h : s.heldInc v < incMin ∨ incMax < s.heldInc v) : s.incHi v = s.raise pTIM 31 :=
  if_pos h

@[simp] theorem State.incApplied_tim (s : State) (inc : Nat) :
    (s.incApplied inc).tim = { s.tim with base := s.rebuilt, since := 0, bad := false } := State.raise_tim _ _ _

theorem timInc_not_event : ∀ f ∈ [Reg.TIM_INC_LO_INC, Reg.TIM_INC_HI_INC], ∀ g ∈ pTIM.eventFields, f.key ≠ g.key := by decide

theorem State.timeInc_raise (s : State) (b : Nat) : (s.raise pTIM b).timeInc = s.timeInc := by
  rw [State.timeInc, State.timeInc, State.rd64, State.rd64, State.rd_raise_ne _ _ _ (timInc_not_event _ (by simp)),
    State.rd_raise_ne _ _ _ (timInc_not_event _ (by simp))]

theorem State.timeInc_incApplied (s : State) {inc : Nat} (h : inc < 2 ^ 40) : (s.incApplied inc).timeInc = inc := by
  rw [State.incApplied, State.timeInc_raise, State.timeInc, State.rd64, State.wr64, State.rd_wr_self, State.rd_wr_ne _ (by decide),
    State.rd_wr_self]
  show inc % 2 ^ 32 % 2 ^ 32 + 2 ^ 32 * (inc / 2 ^ 32 % 2 ^ 8) = inc
  omega

theorem State.regsKept_incApplied (s : State) (inc : Nat) :
    s.regsKept (s.incApplied inc) ([Reg.TIM_INC_LO_INC, Reg.TIM_INC_HI_INC] ++ pTIM.eventFields) := by
  have h : s.regsKept s.rebase ([Reg.TIM_INC_LO_INC, Reg.TIM_INC_HI_INC] ++ pTIM.eventFields) := (State.regsKept_refl s _).of_regs rfl
  exact ((h.wr (f := Reg.TIM_INC_LO_INC) (by simp) _).wr (f := Reg.TIM_INC_HI_INC) (by simp) _).raise (List.subset_append_right _ _) 1

/-- Settles O32: B is rebuilt as the term of the present clock, which is what T is cut from. -/
theorem incrementChangesKeepTimeContinuous : Obligations.IncrementChangesKeepTimeContinuous := by
  intro s ag high ha lo inc hlo
  refine ⟨fun h1 h2 => ⟨s.incApplied inc, ?_, ?_, fun hg => ?_, fun hb => ?_, ?_, ?_, s.timeInc_incApplied ?_, State.evt_raise _ _ (by decide),
    s.regsKept_incApplied inc⟩, fun h => ?_⟩
  · exact (exec_incApply ha high false).trans (congrArg (fun u : State => Host.Outcome.next u.settle) (State.incHi_of_range h1 h2))
  · rw [State.now_of_rebased (b := s.rebuilt) (by simp) (by simp) (by simp), s.rebuilt_now]
  · simp [State.rebuilt, hg, State.timeTerm]
  · simp [State.rebuilt, hb]
  · simp
  · simp
  · omega
  · exact (exec_incApply ha high false).trans (congrArg (fun u : State => Host.Outcome.next u.settle) (State.incHi_of_outside h))

/-! ### TIME_STEP (R381) -/

/-- The signed step that a write of the high half asks for. -/
def State.heldStep (s : State) (v : Nat) : Int := sx 64 (s.tim.heldAdj.getD 0 + 2 ^ 32 * v)

/-- T stepped, before the alarm is looked at. -/
def State.stepped (s : State) (d : Int) : State :=
  ({ s.rebase with tim := { s.rebase.tim with base := enc 96 ((s.rebase.tim.base : Int) + d * 2 ^ 28) } } : State).raise pTIM 2

theorem State.adjHi_of_running {s : State} (h : s.running pMOT = true) (v : Nat) : s.adjHi v = s.raise pTIM 31 := if_pos h

theorem State.adjHi_of_resting {s : State} (h : s.running pMOT = false) (v : Nat) : s.adjHi v = (s.stepped (s.heldStep v)).alarmCheck :=
  if_neg (by simp [h])

@[simp] theorem State.stepped_tim (s : State) (d : Int) :
    (s.stepped d).tim = { s.tim with base := enc 96 ((s.rebuilt : Int) + d * 2 ^ 28), since := 0, bad := false } := State.raise_tim _ _ _

theorem State.regsKept_stepped (s : State) (d : Int) : s.regsKept (s.stepped d) pTIM.eventFields :=
  ((State.regsKept_refl s _).of_regs (t := { s.rebase with tim := { s.rebase.tim with base := enc 96 ((s.rebase.tim.base : Int) + d * 2 ^ 28) } })
    rfl).raise (List.Subset.refl _) 2

/-- A shift of the 96-bit term by d · 2^28 is a shift of T by d. -/
theorem enc_div (b : Nat) (d : Int) : ((enc 96 ((b : Int) + d * 2 ^ 28) / 2 ^ 28 % 2 ^ 64 : Nat) : Int) = ((b / 2 ^ 28 : Nat) + d) % 2 ^ 64 := by
  unfold enc
  omega

theorem State.now_stepped (s : State) (d : Int) : ((s.stepped d).now : Int) = ((s.now : Int) + d) % 2 ^ 64 := by
  rw [State.now_of_rebased (b := enc 96 ((s.rebuilt : Int) + d * 2 ^ 28)) (by simp) (by simp) (by simp), enc_div, ← s.rebuilt_now]
  omega

/-- A 64-bit value as a signed number. -/
theorem sx_eq_toInt {v : Nat} (h : v < 2 ^ 64) : sx 64 v = (BitVec.ofNat 64 v).toInt := by
  simp only [sx, BitVec.toInt, BitVec.toNat_ofNat, Nat.mod_eq_of_lt h]
  split <;> split <;> omega

theorem State.alarmCheck_of_off {s : State} (h : s.rd Reg.TIM_CTRL_ALARM_EN = 0) : s.alarmCheck = s :=
  if_neg (by simp [State.bit, h])

/-- Settles O33: the term moves by D · 2^28, and the alarm is off. -/
theorem timeStepsByExactlyD : Obligations.TimeStepsByExactlyD := by
  intro s ag high ha lo hlo
  have hstep := exec_timeStep ha high false
  rw [if_neg Bool.false_ne_true] at hstep
  refine ⟨fun hm hal => ⟨s.stepped (s.heldStep high.toNat), ?_, ?_, ?_, ?_, State.evt_raise _ _ (by decide), s.regsKept_stepped _⟩, fun hm => ?_⟩
  · have halarm : (s.stepped (s.heldStep high.toNat)).rd Reg.TIM_CTRL_ALARM_EN = 0 :=
      (s.regsKept_stepped _ _ (by decide)).trans hal
    rw [hstep, State.adjHi_of_resting hm, State.alarmCheck_of_off halarm]
  · have hhigh := high.isLt
    rw [s.now_stepped, State.heldStep, sx_eq_toInt (by omega)]
  · exact State.timeInc_raise _ 2
  · simp
  · rw [hstep, State.adjHi_of_running hm]

/-! ### Clocks and the alarm (R379, R385) -/

/-- The state after k clocks. -/
def State.clocks (s : State) (k : Nat) : State := Nat.rec s (fun _ t => State.clock t) k

theorem State.clocks_of_running {s : State} (hp : s.pwr.powered = true) (hr : s.inReset pTIM = false) (k : Nat) :
    ∃ c, s.clocks k = { s with tim := { s.tim with c := c, since := s.tim.since + k } } ∧ (s.tim.c < 2 ^ 64 → c = (s.tim.c + k) % 2 ^ 64) := by
  induction k with
  | zero => exact ⟨s.tim.c, rfl, fun h => (Nat.mod_eq_of_lt h).symm⟩
  | succ k ih =>
    obtain ⟨c, hk, hc⟩ := ih
    refine ⟨(c + 1) % 2 ^ 64, (congrArg State.clock hk).trans (State.clock_of_running hp hr), fun h => ?_⟩
    rw [hc h]
    omega

theorem exec_alarmDue {s : State} (h : s.live pTIM = true) : exec .alarmDue s = .next s.alarmCheck.settle :=
  (congrArg done (if_pos h) : done _ = _)

theorem State.alarmCheck_of_due {s : State} (he : s.rd Reg.TIM_CTRL_ALARM_EN = 1)
    (ht : s.rd64 Reg.TIM_ALARM_LO_ALARM Reg.TIM_ALARM_HI_ALARM ≤ s.now) : s.alarmCheck = (s.wr Reg.TIM_CTRL_ALARM_EN 0).raise pTIM 0 :=
  if_pos ⟨by simp [State.bit, he], ht⟩

theorem State.alarmCheck_of_early {s : State} (ht : s.now < s.rd64 Reg.TIM_ALARM_LO_ALARM Reg.TIM_ALARM_HI_ALARM) : s.alarmCheck = s :=
  if_neg fun h => absurd h.2 (not_le.2 ht)

/-- Out of reset and not OFF a page is live. -/
theorem State.live_of_up {s : State} {p : Page} (hr : s.inReset p = false) (ho : s.pstate p ≠ 0) : s.live p = true := by
  simp only [State.inReset, stRESET, stRELEASING, Bool.or_eq_false_iff, beq_eq_false_iff_ne] at hr
  obtain ⟨hreset, hreleasing⟩ := hr
  exact decide_eq_true (show 3 ≤ s.pstate p by omega)

/-! ### A failed check (R383) -/

theorem faultStat_not_reckon : ∀ f ∈ reckonFields, (Hdr.faultStat pTIM).key ≠ f.key := by decide

/-- A fault of TIM is set afterwards, whether or not it files a reckoning. -/
theorem State.fault_setFault_tim (s : State) {b : Nat} (hb : b < 32) : (s.setFault pTIM b).fault pTIM b = true := by
  have hset : (s.wr (Hdr.faultStat pTIM) (setBit (s.rd (Hdr.faultStat pTIM)) b)).fault pTIM b = true := by
    rw [State.fault, State.testBit_rd_wr _ rfl _ hb, setBit_testBit_self]
  unfold State.setFault
  dsimp only
  split
  next h => exact h
  next =>
    split
    · rw [State.fault, (State.regsKept_refl _ _).autoReckon (List.Subset.refl reckonFields) _ _ faultStat_not_reckon]; exact hset
    · exact hset

theorem State.timeCheck_spec (s : State) : s.timeCheck.fault pTIM 0 = true ∧ s.timeCheck.tim.bad = true ∧
    s.timeCheck.now = Sys2Proof.Config.unreliableTime s.timeCheck.tim.c % 2 ^ 64 := by
  have hbad : s.timeCheck.tim.bad = true := by rw [State.timeCheck, State.setFault_tim]
  exact ⟨State.fault_setFault_tim _ (by decide), hbad, State.now_of_bad hbad⟩

/-- Settles O34: a clock adds INC to the term that T is cut from. -/
theorem clocksAndTheAlarm : Obligations.ClocksAndTheAlarm := by
  intro s hr
  refine ⟨fun hp hg k => ?_, fun ho => ⟨fun he ht => ?_, fun h => ?_⟩, fun ag high ha => ⟨?_, ?_⟩⟩
  · obtain ⟨c, hk, hc⟩ := State.clocks_of_running hp hr k
    have hgood : (s.clocks k).tim.bad = false := by rw [hk]; exact hg
    refine ⟨(State.now_of_good hgood).trans ?_, fun h => ?_⟩
    · rw [hk]; rfl
    · exact (congrArg (fun u : State => u.tim.c) hk).trans (hc h)
  · rw [exec_alarmDue (State.live_of_up hr ho), State.alarmCheck_of_due he ht]
  · rw [exec_alarmDue (State.live_of_up hr ho)]
    obtain h | h := h
    · rw [State.alarmCheck_of_off h]
    · rw [State.alarmCheck_of_early h]
  · exact ⟨_, exec_incApply ha high true, (s.incHi high.toNat).timeCheck_spec⟩
  · exact ⟨_, exec_timeStep ha high true, (s.adjHi high.toNat).timeCheck_spec⟩

end Sys2Proof.Machine
end

section
/-!
PROOFS. The Llynre fabric (R401 to R418, R425): the frames that take effect, and what the fabric sends, times and settles.
-/
namespace Sys2Proof.Machine

open Sys2Proof (Agent Byte)

/-! ### Frames received (R401, R402, R406) -/

section
variable {s : State} {fr : List Byte}

/-- A frame for this module alone is not forwarded. -/
theorem State.fabricForward_own (l : Nat) (h : fDst fr = s.rd Reg.FAB_STAT_ADDR) : s.fabricForward l fr = s := if_pos (.inl h)

variable {l : BitVec 3} (hlive : s.live pFAB = true) (hl : l.toNat ∈ s.fabLinks) (hg : fGood fr = true)
include hlive hl hg

theorem exec_fabricFrameForward : exec (.fabricFrameForward l fr) s = .next (s.fabricForward l.toNat fr).settle := by
  show done (if _ then _ else if _ then _ else _) = _
  rw [if_neg (by simp [hlive, hl]), if_neg (by simp [hg])]
  rfl

variable (hd : fDst fr = 0xFF ∨ (fDst fr = s.rd Reg.FAB_STAT_ADDR ∧ fDst fr < 64))
include hd

/-- A good frame of the kind asked for, for this module or for all, is forwarded and then takes its kind's effect. -/
theorem State.fabricKind_eq {v : FabArrival} (hv : v.link = l.toNat) {k : Nat} (hk : fKind fr = k) :
    s.fabricKind k v fr = (s.fabricForward l.toNat fr).fabricConsume v fr := by
  rw [State.fabricKind, if_pos hk, State.fabricTake, hv, if_neg (by simp [hlive, hl]), if_neg (by simp [hg])]
  exact if_pos hd

/-- What the frame then does is its kind's entry of the table of R402. -/
theorem done_fabricKind {v : FabArrival} (hv : v.link = l.toNat) {k : Nat} (hk : fKind fr = k) {t : State}
    (ht : (s.fabricForward l.toNat fr).fabricConsume v fr = t) : done (s.fabricKind k v fr) = .next t.settle := by
  rw [State.fabricKind_eq hlive hl hg hd hv hk, ht]
  rfl

end

theorem State.fabResetIn_of_allowed {s : State} {p : List Byte} (h : s.bit Reg.FAB_CFG_RST_EN = true) (hp : p.length = 4) :
    (leAt p 0 4 = 0x52530001 → s.fabResetIn p = s.modResetGo 6) ∧ (leAt p 0 4 = 0x52530002 → s.fabResetIn p = s.inkRestart) := by
  refine ⟨fun hw => ?_, fun hw => ?_⟩
  · rw [State.fabResetIn, if_neg (by simp [h]), if_pos ⟨hp, hw⟩]
  · rw [State.fabResetIn, if_neg (by simp [h]), if_neg (by simp [hw]), if_pos ⟨hp, hw⟩]

/-- Settles O57: reception forwards a good frame and then takes the entry of its kind in the table of R402. -/
theorem fabricFramesTakeEffect : Obligations.FabricFramesTakeEffect := by
  intro s l fr hlive hl hg hd
  have effect {v : FabArrival} (hv : v.link = l.toNat) {k : Nat} (hk : fKind fr = k) {t : State}
      (ht : (s.fabricForward l.toNat fr).fabricConsume v fr = t) : done (s.fabricKind k v fr) = .next t.settle :=
    done_fabricKind hlive hl hg hd hv hk ht
  refine ⟨State.fabricForward_own _, exec_fabricFrameForward hlive hl hg, fun mac hk => effect rfl hk ?_, fun hk => effect rfl hk ?_,
    fun hk => effect rfl hk ?_, fun hk => effect rfl hk ?_, fun hk => effect rfl hk ?_, fun hk => effect rfl hk ?_,
    fun hk => effect rfl hk ?_, fun hk => effect rfl hk ?_, fun hk => effect rfl hk ?_, fun hk => effect rfl hk ?_,
    fun hk => effect rfl hk ?_, fun rv sn hk => effect rfl hk ?_, fun rv hk => effect rfl hk ?_, fun hk => effect rfl hk ?_,
    fun hk => effect rfl hk ?_, fun hk => effect rfl hk ?_, fun hk => effect rfl hk ?_, fun hk hr hp => ?_⟩
  on_goal 18 =>
    have hreset : (s.fabricForward l.toNat fr).fabricConsume ⟨l.toNat, 0, 0, 0⟩ fr =
        (s.fabricForward l.toNat fr).fabResetIn (fPayload fr) := by
      simp only [State.fabricConsume, hk]
    obtain ⟨hmod, hink⟩ := State.fabResetIn_of_allowed hr hp
    exact ⟨fun hw => effect rfl hk (hreset.trans (hmod hw)), fun hw => effect rfl hk (hreset.trans (hink hw))⟩
  all_goals simp only [State.fabricConsume, hk]

/-! ### The membership settles (R404, R405, R418) -/

/-- A fold over the state keeps a field that each of its steps keeps. -/
theorem State.rd_foldl {α : Type} {f : State → α → State} {g : Fld} {l : List α} (hf : ∀ t, ∀ x ∈ l, (f t x).rd g = t.rd g) (s : State) :
    (l.foldl f s).rd g = s.rd g := by
  induction l generalizing s with
  | nil => rfl
  | cons x l ih => exact (ih (fun t y hy => hf t y (List.mem_cons_of_mem _ hy)) _).trans (hf s x List.mem_cons_self)

theorem State.rd_setRoutes_role (s : State) (ns : List Node) (as : List (Nat × Nat)) :
    (s.setRoutes ns as).rd Reg.FAB_MOT_ROLE = s.rd Reg.FAB_MOT_ROLE := by
  have hclear : s.clearRoutes.rd Reg.FAB_MOT_ROLE = s.rd Reg.FAB_MOT_ROLE := 
    s.regs.get_clear_of (fun a => decide (0x60100 ≤ a) && decide (a < 0x60200)) (f := Reg.FAB_MOT_ROLE) (by decide)
  refine (State.rd_raiseIf_ne _ _ _ _ (by decide)).trans ((State.rd_wr_ne _ (by decide) _).trans ((State.rd_foldl ?_ _).trans hclear))
  intro t r _
  refine t.rd_wrs_ne _ ?_
  simp only [List.mem_cons, List.not_mem_nil, or_false, forall_eq_or_imp, forall_eq, Fld.key, Reg.FAB_MOT_ROLE, Reg.FAB_ROUTE_VALID,
    Reg.FAB_ROUTE_HOPS, Reg.FAB_ROUTE_NEXT, Reg.FAB_ROUTE_LINK]
  omega

theorem State.rd_setFault_ne (s : State) {p : Page} {b : Nat} (ha : p.block.classA.testBit b = false) {g : Fld}
    (h : g.key ≠ (Hdr.faultStat p).key) : (s.setFault p b).rd g = s.rd g := by
  rw [State.setFault, ha]
  exact rd_ite rfl (State.rd_wr_ne _ h _)

theorem State.rd_fab (s : State) (x : Fab) (f : Fld) : ({ s with fab := x } : State).rd f = s.rd f := rfl

theorem State.rd_settleMembers_role (s : State) : s.settleMembers.rd Reg.FAB_MOT_ROLE = s.rd Reg.FAB_MOT_ROLE := by
  rw [State.settleMembers, State.rd_setRoutes_role, State.rd_fab]
  refine rd_ite ((State.rd_setFault_ne _ (by decide) (by decide)).trans ?_) ?_
  all_goals
    refine (State.rd_raiseIf_ne _ _ _ _ (by decide)).trans ((State.rd_raiseIf_ne _ _ _ _ (by decide)).trans ?_)
    exact State.rd_wrs_ne _ _ (by simp +decide)

/-- The membership settles without a change of the module's part in a motion group. -/
theorem State.isLead_settleMembers (s : State) : s.settleMembers.isLead = s.isLead := by
  rw [State.isLead, State.isLead, State.rd_settleMembers_role]

/-- Only the lead loses members when the membership settles. -/
theorem State.fromFollower_of_not_lead {s : State} (h : s.isLead = false) (a : Nat) : s.fromFollower a = false := by
  rw [State.fromFollower, h]
  rfl

theorem exec_membershipSettled {s : State} (hon : s.fabOn = true) (hm : s.maySettle = true) (hl : s.isLead = false) :
    exec .membershipSettled s = .next s.settleMembers.settle := by
  show execMembershipSettled s = _
  rw [execMembershipSettled, if_pos (by simp [hon, hm])]
  have hlead : s.settleMembers.isLead = false := s.isLead_settleMembers.trans hl
  generalize s.settleMembers = t at hlead ⊢
  simp only [State.fromFollower_of_not_lead hlead, Bool.false_and, List.filter_false]
  rfl

/-! ### What the running fabric sends (R403, R413 to R415) -/

section
variable {s : State} (hon : s.fabOn = true)
include hon

theorem exec_helloSend : exec .helloSend s = .next (s.fabLinks.foldl (fun t l => t.fabricOn [l] 0x01 0xFF 1
    (leBytes 8 ownUid ++ leBytes 1 (t.rd Reg.FAB_STAT_ADDR) ++ leBytes 1 (t.rd Reg.FAB_CFG_PREF) ++ leBytes 1 l ++ [0] ++
      leBytes 4 (t.rd Reg.FAB_EPOCH_EPOCH))) s).settle :=
  if_neg (by simp [hon])

theorem exec_lsaFlood : exec .lsaFlood s = .next s.sendLsa.settle := congrArg done (if_pos hon)

theorem exec_mstatSend (h : s.isLead = true) : exec .mstatSend s = .next (s.fabricSend 0x50 0xFF 16 s.mstatBytes).settle :=
  congrArg done (if_pos (by simp [hon, h]))

theorem exec_fstatSend (h : s.isFollower = true) : exec .fstatSend s = .next s.autoClear.sendFstat.settle :=
  congrArg done (if_pos (by simp [hon, h]))

theorem exec_treqSend (t1 : BitVec 64) {a : Nat} (h : s.timeParent = some a) : exec (.treqSend t1) s =
    .next (({ s with fab := { s.fab with treqT1 := some t1.toNat } } : State).fabricSend 0x40 a 1 (leBytes 8 t1.toNat)).settle := by
  show execTreqSend t1 s = _
  rw [execTreqSend, h]
  exact congrArg done (if_pos hon)

end

/-! ### Silence on a link, and an LSA not refreshed (R403) -/

theorem exec_neighbourLost {s : State} {l : BitVec 3} (hlive : s.live pFAB = true)
    (h : (s.fab.neighbours.any fun x => x.link == l.toNat) = true) : exec (.neighbourLost l) s =
      .next (({ s with fab := { s.fab with neighbours := s.fab.neighbours.filter fun x => x.link != l.toNat } } :
        State).neighboursChanged).settle :=
  congrArg done ((if_pos hlive).trans (if_pos h))

theorem exec_lsaExpiry {s : State} {u : BitVec 64} (h : (s.fab.lsas.any fun x => x.uid == u.toNat) = true) : exec (.lsaExpiry u) s =
    .next (({ s with fab := { s.fab with lsas := s.fab.lsas.filter fun x => x.uid != u.toNat } } : State).unsettle).settle :=
  if_pos h

/-! ### Reckonings, shares and group stops asked for (R407, R408, R417) -/

/-- The peer of a reckoning that is asked for leaves the routes as they were. -/
theorem State.routeLink_wr_reckDst (s : State) (d v : Nat) : (s.wr Reg.FAB_RECK_DST v).routeLink d = s.routeLink d := by
  have hvalid : (Reg.FAB_ROUTE_VALID d).key ≠ Reg.FAB_RECK_DST.key := by simp only [Fld.key, Reg.FAB_ROUTE_VALID, Reg.FAB_RECK_DST]; omega
  have hlink : (Reg.FAB_ROUTE_LINK d).key ≠ Reg.FAB_RECK_DST.key := by simp only [Fld.key, Reg.FAB_ROUTE_LINK, Reg.FAB_RECK_DST]; omega
  rw [State.routeLink, State.routeLink, State.bit, State.bit, State.rd_wr_ne s hvalid, State.rd_wr_ne s hlink]

/-- A peer that has a route is asked for its reckoning. -/
theorem State.fabReckGo_of_route {s : State} {d : Nat} (hd : d ≠ 0xFF) (hr : s.routeLink d ≠ none) : s.fabReckGo d =
    ({ (s.wr Reg.FAB_RECK_DST d).wr Reg.FAB_RECK_RESULT 0 with fab := { s.fab with reckFrom := [d] } } : State).fabricSend 0x10 d 16 [] := by
  rw [State.fabReckGo, if_neg hd, if_neg (by simp [State.routeLink_wr_reckDst, hr])]
  rfl

section
variable {s : State} {ag : Agent} (ha : s.takesWork ag pFAB)
include ha

theorem exec_fabReckGo (d : BitVec 8) : exec (.fabReckGo ag d) s = .next (s.fabReckGo d.toNat).settle := done_newWork ha fun s => s.fabReckGo d.toNat

theorem exec_fabShareGo (d : BitVec 8) : exec (.fabShareGo ag d) s = .next (s.fabShareGo d.toNat).settle :=
  done_newWork ha fun s => s.fabShareGo d.toNat

theorem exec_fabMotStop : exec (.fabMotStop ag) s = .next s.groupHold.settle := done_newWork ha State.groupHold

theorem exec_fabMotGo : exec (.fabMotGo ag) s = .next s.groupGo.settle := done_newWork ha State.groupGo

end

theorem State.groupHold_of_lead {s : State} (h : s.isLead = true) :
    s.groupHold = ({ s with fab := { s.fab with held := true } } : State).groupStop.groupShow := if_pos h

theorem State.groupGo_of_lead {s : State} (h : s.isLead = true) :
    s.groupGo = ({ s with fab := { s.fab with held := false } } : State).groupRelease := if_pos h

/-! ### Times that run out (R407, R408, R411, R418) -/

section
variable {s : State}

theorem exec_reckonRequestTimeout (h : s.fab.reckFrom ≠ []) : exec .reckonRequestTimeout s =
    .next (({ s.wr Reg.FAB_RECK_RESULT 2 with fab := { s.fab with reckFrom := [] } } : State).raise pFAB 3).settle :=
  if_neg (by simp [h])

theorem exec_shareAnswerTimeout (h : s.fab.shareWait = true) : exec .shareAnswerTimeout s =
    .next ({ s.wr Reg.FAB_SHARE_RESULT 4 with fab := { s.fab with shareWait := false } } : State).settle :=
  congrArg done (if_pos h)

theorem exec_shareCreditTimeout {p : BitVec 6} (h : (s.fab.shares.any fun e => e.peer == p.toNat) = true) :
    exec (.shareCreditTimeout p) s = .next (s.endShare p.toNat).settle :=
  congrArg done (if_pos h)

theorem exec_densNakTimer {st : BitVec 16} {e : StripeSum} (he : (s.fab.sums.find? fun e => e.stripe == st.toNat) = some e)
    (hs : s.srv.shared = true) (hw : e.stripe ∉ s.srv.whole) :
    exec (.densNakTimer st) s = .next (s.fabricSend 0x32 e.src 16 (leBytes 4 s.srv.sid ++ leBytes 4 e.stripe)).settle := by
  show execDensNakTimer st s = _
  rw [execDensNakTimer, he]
  exact congrArg done (if_pos (by simp [hs, hw]))

theorem exec_leadLost (hlive : s.live pFAB = true) (hf : s.isFollower = true) (hl : s.fab.leadLost = false) : exec .leadLost s =
    .next ((((({ s with fab := { s.fab with leadLost := true } } : State).setFault pFAB 1).raise pFAB 9).stopRequest rHOST).wr
      Reg.MOT_POS_STAT_SUPPRESS 1).settle :=
  if_pos (by simp [hlive, hf, hl])

theorem exec_memberLost {a : BitVec 6} (hlive : s.live pFAB = true) (hf : s.fromFollower a.toNat = true)
    (hl : (s.follower a.toNat).lost = false) : exec (.memberLost a) s = .next (s.memberLost a.toNat).settle :=
  congrArg done (if_pos (by simp [hlive, hf, hl]))

end

/-- Settles O58, command by command: under its conditions each takes the branch that acts. -/
theorem fabricSendersAndTimersComplete : Obligations.FabricSendersAndTimersComplete := by
  refine ⟨fun s hon => ⟨exec_helloSend hon, exec_lsaFlood hon, exec_mstatSend hon, exec_fstatSend hon, fun t1 a => exec_treqSend hon t1,
      exec_membershipSettled hon⟩,
    fun s l => exec_neighbourLost, fun s u => exec_lsaExpiry,
    fun s ag ha => ⟨fun d hd hr => ?_, exec_fabShareGo ha, fun hl => ⟨?_, ?_⟩⟩,
    fun s => ⟨exec_reckonRequestTimeout, exec_shareAnswerTimeout, fun p => exec_shareCreditTimeout, fun st e => exec_densNakTimer,
      exec_leadLost, fun a => exec_memberLost⟩⟩
  · rw [exec_fabReckGo ha, State.fabReckGo_of_route hd hr]
  · rw [exec_fabMotStop ha, State.groupHold_of_lead hl]
  · rw [exec_fabMotGo ha, State.groupGo_of_lead hl]

end Sys2Proof.Machine
end

section
/-!
PROOFS. The Ethernet ports and the Isavon transport (R386 to R397, R400).
-/
namespace Sys2Proof.Machine

open Sys2Proof (Agent Byte)

/-! ### Frames received (R387, R388) -/

/-- A frame whose FCS or length is wrong is counted. -/
theorem State.etherIn_of_bad {s : State} {v : EtherArrival} {f : List Byte} (h : etherGood f = false) :
    s.etherIn v f = s.satInc (Reg.NET_CNT_0_FCS_ERR v.port) 1 :=
  if_pos (by simp [h])

/-- A sound frame that fits the receive buffer and whose destination and tag pass is sorted by its EtherType. -/
theorem State.etherIn_of_good {s : State} {v : EtherArrival} {f : List Byte} (hg : etherGood f = true) (hfit : v.fill + f.length ≤ rxBuffer)
    (hu : v.upset = false) (hd : (s.bufferIn v.port (v.fill + f.length)).etherFor v.port v.sub (beAt f 0 6) = true)
    (htag : beAt f 12 2 = 0x8100 → beAt f 16 2 ≠ 0x8100) :
    s.etherIn v f = (s.bufferIn v.port (v.fill + f.length)).etherSort v f (beAt f 12 2 == 0x8100) := by
  rw [State.etherIn, if_neg (by simp [hg]), if_neg (by omega), if_neg (by simp [hu]), if_neg (by simp [hd]), if_neg (by simpa using htag)]

section
variable {s : State} {n : BitVec 1}

theorem exec_ethernetFrameReceive {sub : BitVec 2} (hr : s.running (pNET n.toNat) = true) (hu : s.subUsed n.toNat sub.toNat = true)
    (hl : s.linkUp n.toNat sub.toNat = true) (fr : List Byte) (rv sn : BitVec 64) (fill : Nat) (upset : Bool) :
    exec (.ethernetFrameReceive n sub fr rv sn fill upset) s =
      .next (s.etherIn ⟨n.toNat, sub.toNat, rv.toNat, sn.toNat, fill, upset⟩ fr).settle :=
  congrArg done (if_pos (by simp [hr, hu, hl]))

/-! ### Pause and links (R388, R389, R400) -/

theorem exec_receiveBufferDrain (hf : (s.port n.toNat).full75 = true) (hr : s.running (pNET n.toNat) = true) :
    exec (.receiveBufferDrain n) s = .next ((s.modNet n.toNat fun p => { p with full75 := false }).sendPause n.toNat 0).settle :=
  congrArg done (if_pos (by simp [hf, hr]))

/-- The fields that show a sub-port's link up or down. -/
def State.linkShow (s : State) (n sub : Nat) (up : Bool) (fec : Nat) : State :=
  (s.wrs [(Reg.NET_STAT_LINK n, if up then setBit (s.rd (Reg.NET_STAT_LINK n)) sub else clrBit (s.rd (Reg.NET_STAT_LINK n)) sub),
    (Reg.NET_STAT_FECACT n, s.rd (Reg.NET_STAT_FECACT n) - 4 ^ sub * (s.rd (Reg.NET_STAT_FECACT n) / 4 ^ sub % 4) +
      4 ^ sub * (if up ∧ s.rd (Reg.NET_CFG_MODE n) = 2 then fec else 0))]).raise (pNET n) 0

theorem exec_ethernetLinkChange {sub : BitVec 2} {up : Bool} (hr : s.running (pNET n.toNat) = true) (hu : s.subUsed n.toNat sub.toNat = true)
    (hl : s.linkUp n.toNat sub.toNat = !up) (fec : BitVec 2) :
    exec (.ethernetLinkChange n sub up fec) s = .next (if up then (s.linkShow n.toNat sub.toNat up fec.toNat).fabShow
      else ((s.linkShow n.toNat sub.toNat up fec.toNat).neighbourLost (4 * n.toNat + sub.toNat)).fabShow).settle :=
  if_neg (by cases up <;> simp [hr, hu, hl])

/-! ### The rings (R390 to R392) -/

/-- The header of the TX entry next to be sent, its first word, and the frame behind it. -/
def State.txHead (s : State) (n : Nat) : Got × State := s.hbmGet (s.txRing n + 2048 * s.rd (Reg.NET_TXR_IDX_RD n)) 32
def State.txWord (s : State) (n : Nat) : Nat := leAt (s.txHead n).1.data 0 4
def State.txFrame (s : State) (n : Nat) : Got × State :=
  (s.txHead n).2.hbmGet (s.txRing n + 2048 * s.rd (Reg.NET_TXR_IDX_RD n) + 32) (bits (s.txWord n) 11 0)

/-- An entry without a LAUNCH time whose header and frame are sound, whose link is up and whose class no pause holds, is
sent and completed. -/
theorem exec_txRingEntrySend (hr : s.running (pNET n.toNat) = true) (ho : s.ringsOpen n.toNat = true)
    (hi : s.rd (Reg.NET_TXR_IDX_RD n.toNat) ≠ s.rd (Reg.NET_TXR_IDX_WR n.toNat)) (hph : (s.txHead n.toNat).1.poison = [])
    (hpf : (s.txFrame n.toNat).1.poison = []) (hmin : 14 ≤ bits (s.txWord n.toNat) 11 0) (hmax : bits (s.txWord n.toNat) 11 0 ≤ 2016)
    (hu : s.subUsed n.toNat (bits (s.txWord n.toNat) 29 28) = true) (hl : (s.txWord n.toNat).testBit 27 = false)
    (hup : s.linkUp n.toNat (bits (s.txWord n.toNat) 29 28) = true)
    (hc : s.classHeld n.toNat (bits (s.txWord n.toNat) 29 28) clHost = false) (hd sn : BitVec 64) :
    exec (.txRingEntrySend n hd sn false) s = .next (((s.txFrame n.toNat).2.etherOut n.toNat (bits (s.txWord n.toNat) 29 28) clHost
      (s.hostFrame n.toNat (bits (s.txWord n.toNat) 29 28) (s.txFrame n.toNat).1.data)).txDone n.toNat 0 sn.toNat false).settle := by
  have hhead : (s.hbmGet (s.txRing n.toNat + 2048 * s.rd (Reg.NET_TXR_IDX_RD n.toNat)) 32) = s.txHead n.toNat := rfl
  have hword : leAt (s.txHead n.toNat).1.data 0 4 = s.txWord n.toNat := rfl
  have hframe : (s.txHead n.toNat).2.hbmGet (s.txRing n.toNat + 2048 * s.rd (Reg.NET_TXR_IDX_RD n.toNat) + 32)
      (bits (s.txWord n.toNat) 11 0) = s.txFrame n.toNat := rfl
  show execTxRingEntrySend n hd sn false s = _
  rw [execTxRingEntrySend, if_neg (by simp [hr, ho, hi])]
  simp only [hhead, hword, hframe, hl, Bool.false_and, Bool.false_eq_true, if_false]
  exact (if_neg (by simp [hph, hu]; omega)).trans ((if_neg (by simp [hpf])).trans (if_neg (by simp [hup, hc])))

theorem exec_rings {ag : Agent} (ha : s.reaches ag (pNET n.toNat)) (i : BitVec 6) :
    exec (.txrIdxWrite ag n i) s = .next (s.wr (Reg.NET_TXR_IDX_WR n.toNat) i.toNat).settle ∧
    exec (.rxrIdxWrite ag n i) s = .next (s.wr (Reg.NET_RXR_IDX_RD n.toNat) i.toNat).settle :=
  ⟨done_access ha fun s => s.wr (Reg.NET_TXR_IDX_WR n.toNat) i.toNat, done_access ha fun s => s.wr (Reg.NET_RXR_IDX_RD n.toNat) i.toNat⟩

/-! ### The Isavon transport (R395 to R397) -/

section
variable {f : List Byte} (hg : xGood f = true)
include hg

/-- A good REQ names its sender as the peer, and a CREDIT is owed. -/
theorem State.xportFrame_req (hk : xKind f = 3) (m : Nat) (p : Peer) :
    s.xportFrame m p f = s.modNet m fun q => { q with peer := some p, owed := true } := by
  rw [State.xportFrame, if_neg (by simp [hg]), if_pos hk]

/-- Good DATA of the open delivery, at its offset and within its credit, is offered to ingest. -/
theorem State.xportFrame_data (hk : xKind f = 1) {m : Nat} (ho : s.openStreamOf = some (m + 1, xHandle f, xOfs f))
    (hc : xOfs f + xLen f ≤ (s.port m).lastEnd) (p : Peer) : s.xportFrame m p f =
      (s.ingestOffer (m + 1) (xHandle f) (xOfs f) ((f.drop 32).take (xLen f))).modNet m fun q => { q with peer := some p } := by
  rw [State.xportFrame, if_neg (by simp [hg]), if_neg (by simp [hk]), if_pos hk, ho]
  exact (if_neg (by simp)).trans (if_neg (by omega))

end

section
variable (hlive : s.live (pNET n.toNat) = true)
include hlive

theorem exec_reqFrame {f : List Byte} (hk : xKind f = 3) (sub : BitVec 2) (mac : BitVec 48) :
    exec (.reqFrame n sub mac f) s = .next (s.xportFrame n.toNat ⟨false, mac.toNat, sub.toNat⟩ f).settle :=
  congrArg done (if_pos (by simp [hlive, hk]))

theorem exec_dataFrame {f : List Byte} (hk : xKind f = 1) (sub : BitVec 2) (mac : BitVec 48) :
    exec (.dataFrame n sub mac f) s = .next (s.xportFrame n.toNat ⟨false, mac.toNat, sub.toNat⟩ f).settle :=
  congrArg done (if_pos (by simp [hlive, hk]))

theorem exec_credit (ho : (s.port n.toNat).owed = true) : exec (.credit n) s = .next (s.sendCredit n.toNat).settle :=
  congrArg done (if_pos (by simp [hlive, ho]))

end
end

/-- Settles O56, command by command: no check of the frame, the ring entry or the credit stops it. -/
theorem ethernetAndTransportComplete : Obligations.EthernetAndTransportComplete := by
  refine ⟨fun s n sub fr rv sn fill hr hu hl => ⟨fun hbad => ?_, fun hgood hfit hd htag => ?_⟩, fun s n => exec_receiveBufferDrain,
    fun s n sub => ⟨rfl, fun p => rfl⟩, fun s n sub fec up hr hu hl => exec_ethernetLinkChange hr hu hl fec,
    fun s n hd sn hr ho hi hph hpf hmin hmax hu hl hup hc => exec_txRingEntrySend hr ho hi hph hpf hmin hmax hu hl hup hc hd sn,
    fun s ag n i ha => exec_rings ha i, fun s n sub mac fr hlive hg => ⟨fun hk => ?_, fun hk ho hc => ?_⟩, fun s n => exec_credit⟩
  · exact (exec_ethernetFrameReceive hr hu hl fr rv sn fill false).trans (congrArg done (State.etherIn_of_bad hbad))
  · exact (exec_ethernetFrameReceive hr hu hl fr rv sn fill false).trans (congrArg done (State.etherIn_of_good hgood hfit rfl hd htag))
  · exact (exec_reqFrame hlive hk sub mac).trans (congrArg done (State.xportFrame_req hg hk _ _))
  · exact (exec_dataFrame hlive hk sub mac).trans (congrArg done (State.xportFrame_data hg hk ho hc _))

end Sys2Proof.Machine
end

section
/-!
PROOFS. The DMA channels (R350 to R364, R431, R522): starting, answers, chains, pausing and stopping.
-/
namespace Sys2Proof.Machine

open Sys2Proof (Agent Byte DmaResp)

/-! ### GO, PAUSE, RESUME, STOP and CLEAR (R350, R361, R362) -/

section
variable {s : State} {i : Nat}

theorem State.dmaGo_idle (hq : s.bit (Hdr.quiesce (pDMA i)) = false) (hacc : s.accepts (pDMA i) = true)
    (h : s.bit (Reg.DMA_STAT_ACT i) = false) : s.dmaGo i = (s.wr (Reg.DMA_CTRL_RESULT i) 0).takeStaging i
      ((List.range 16).map fun k => s.rd (Reg.DMA_D_D i k)) := by
  rw [State.dmaGo, if_neg (by simp [hq, hacc]), if_pos (by simp [h])]

theorem State.dmaGo_active (hq : s.bit (Hdr.quiesce (pDMA i)) = false) (hacc : s.accepts (pDMA i) = true)
    (h : s.bit (Reg.DMA_STAT_ACT i) = true) (hp : (s.chan i).pend = []) :
    s.dmaGo i = ((s.wr (Reg.DMA_CTRL_RESULT i) 1).wr (Reg.DMA_STAT_PEND i) 1).modChan i
      fun c => { c with pend := (List.range 16).map fun k => s.rd (Reg.DMA_D_D i k) } := by
  rw [State.dmaGo, if_neg (by simp [hq, hacc]), if_neg (by simp [h]), if_pos (by simp [hp])]

/-- A channel's STATE does not decide which spaces are open. -/
theorem State.spacesClosed_wr_state (s : State) (i v : Nat) (hbm host : Bool) :
    (s.wr (Reg.DMA_STAT_STATE i) v).spacesClosed hbm host = s.spacesClosed hbm host := by
  have hkey : Reg.LCY_STATE_STATE.key ≠ (Reg.DMA_STAT_STATE i).key := by
    simp only [Fld.key, Reg.LCY_STATE_STATE, Reg.DMA_STAT_STATE]
    omega
  rw [State.spacesClosed, State.spacesClosed, State.bar2Closed, State.bar2Closed, State.rd_wr_ne s hkey]
  rfl

theorem State.dmaResume_of_paused (h : s.dstate i = dPAUSED) (ho : s.spacesClosed (s.desc i).usesHbm (s.desc i).usesHost = none) :
    s.dmaResume i = (s.wr (Reg.DMA_STAT_STATE i) dRUNNING).pump i := by
  simp only [State.dmaResume, if_pos h, State.spacesClosed_wr_state, ho]

section
variable {ag : Agent} {n : BitVec 5} (ha : s.reaches ag (pDMA n.toNat))
include ha

theorem exec_dmaGo : exec (.dmaGo ag n) s = .next (s.dmaGo n.toNat).settle := done_access ha fun s => s.dmaGo n.toNat

theorem exec_pause (h : s.dstate n.toNat = dRUNNING) :
    exec (.pause ag n) s = .next (s.wr (Reg.DMA_STAT_STATE n.toNat) dPAUSING).settle :=
  (done_access ha fun s => s.dmaPause n.toNat).trans (congrArg done (if_pos h))

theorem exec_dmaResume : exec (.dmaResume ag n) s = .next (s.dmaResume n.toNat).settle := done_access ha fun s => s.dmaResume n.toNat

theorem exec_dmaStop (h : s.dstate n.toNat ≠ dIDLE) : exec (.dmaStop ag n) s =
    .next (((((s.lastShow n.toNat 0x1A).modChan n.toNat fun c =>
      { c with pend := [], fetch := none, held := [], stale := c.stale + c.reqs.length, reqs := [] }).wr
        (Reg.DMA_STAT_PEND n.toNat) 0).raise (pDMA n.toNat) 4).dmaIdle n.toNat).settle :=
  (done_access ha fun s => s.dmaStop n.toNat).trans (congrArg done (if_neg h))

theorem exec_clearErr (h : s.dstate n.toNat = dERROR) : exec (.clearErr ag n) s = .next (s.takePending n.toNat).settle :=
  (done_access ha fun s => s.dmaClear n.toNat).trans (congrArg done (if_pos h))

end
end

/-! ### Answers (R351, R358, R359) -/

section
variable {s : State} {n : BitVec 5} {up : Bool}

/-- A channel that is RUNNING or PAUSING moves data. -/
theorem State.moves_of {i : Nat} (hst : s.dstate i = dRUNNING ∨ s.dstate i = dPAUSING) :
    (s.dstate i == dRUNNING || s.dstate i == dPAUSING) = true := by
  obtain h | h := hst <;> simp [h]

/-- An answer to a request that a stop left behind frees its tag. -/
theorem exec_dmaResponse_stale (h : 0 < (s.chan n.toNat).stale) {r : DmaResp} (hr : r ≠ .memory) : exec (.dmaResponse n r up) s =
    .next ((s.modChan n.toNat fun c => { c with stale := c.stale - 1 }).pump n.toNat).settle :=
  if_pos ⟨by simpa using hr, h⟩

section
variable (hs : (s.chan n.toNat).stale = 0) (hi : s.inReset (pDMA n.toNat) = false) (hact : s.bit (Reg.DMA_STAT_ACT n.toNat) = true)
  (hst : s.dstate n.toNat = dRUNNING ∨ s.dstate n.toNat = dPAUSING)
include hs hi hact hst

/-- An answer to a channel that moves data is neither left over nor ignored. -/
theorem dmaResponse_guards {r : DmaResp} {c : Host.Outcome State Fault Refusal} :
    (if r != .memory ∧ 0 < (s.chan n.toNat).stale then
        done ((s.modChan n.toNat fun c => { c with stale := c.stale - 1 }).pump n.toNat)
      else if (s.inReset (pDMA n.toNat) || !s.bit (Reg.DMA_STAT_ACT n.toNat) || !(s.dstate n.toNat == dRUNNING || s.dstate n.toNat == dPAUSING))
        = true then done s else c) = c := by
  rw [if_neg (by simp [hs]), if_neg (by simp only [hi, hact, State.moves_of hst]; decide)]

theorem exec_dmaResponse_memory : exec (.dmaResponse n .memory up) s = .next (s.dmaLocal n.toNat up).settle :=
  dmaResponse_guards hs hi hact hst (r := .memory)

section
variable {a len : Nat} {rest : List (Nat × Nat)} (hreqs : (s.chan n.toNat).reqs = (a, len) :: rest)
  (hf : (s.chan n.toNat).fetch = none) (hh : (s.chan n.toNat).held = [])
include hreqs hf hh

theorem exec_dmaResponse_failed : exec (.dmaResponse n .failed up) s = .next (s.dmaError n.toNat 0x11).settle :=
  (dmaResponse_guards hs hi hact hst).trans (if_neg (by simp [hreqs, hf, hh]))

theorem exec_dmaResponse_completion {data : List Byte} (hlen : data.length = len) (ep : Bool) :
    exec (.dmaResponse n (.completion data ep) up) s =
      .next ((s.modChan n.toNat fun c => { c with reqs := rest }).dmaTake n.toNat ⟨1, a, len, (s.chan n.toNat).indexing (s.desc n.toNat)⟩
        ⟨data, if ep then [(0, data.length, 0x05)] else []⟩ up).settle := by
  refine (dmaResponse_guards hs hi hact hst).trans ?_
  simp only [hreqs, hf, hh, hlen, Option.isSome_none, List.isEmpty_nil, Bool.not_true, Bool.false_eq_true, ne_eq, not_true_eq_false,
    or_self, if_false]
  rfl

end
end

theorem exec_dmaCompletionTimeout {r : Nat × Nat} {rest : List (Nat × Nat)} (hs : (s.chan n.toNat).stale = 0)
    (hreqs : (s.chan n.toNat).reqs = r :: rest) : exec (.dmaCompletionTimeout n) s =
      .next ((s.modChan n.toNat fun c => { c with reqs := rest }).dmaError n.toNat 0x12).settle := by
  show execDmaCompletionTimeout n s = _
  rw [execDmaCompletionTimeout, if_neg (by omega), hreqs]
  rfl

/-! ### Completion, chains and pauses (R354, R356, R361) -/

theorem exec_dmaDescriptorComplete (hi : s.inReset (pDMA n.toNat) = false) (hact : s.bit (Reg.DMA_STAT_ACT n.toNat) = true)
    (hst : s.dstate n.toNat = dRUNNING ∨ s.dstate n.toNat = dPAUSING) (hx : (s.chan n.toNat).indexing (s.desc n.toNat) = false)
    (hm : (s.desc n.toNat).total ≤ (s.chan n.toNat).moved) (hf : (s.chan n.toNat).fetch = none) (hh : (s.chan n.toNat).held = []) :
    exec (.dmaDescriptorComplete n) s = .next (if (s.finishCheck n.toNat).1 then (s.finishCheck n.toNat).2.dmaError n.toNat 0x18
      else (s.finishCheck n.toNat).2.descEnds n.toNat).settle :=
  if_neg (by simp [hi, hact, State.moves_of hst, hx, hm, hf, hh])

theorem exec_dmaDescriptorFetch_memory {a : Nat} (hi : s.inReset (pDMA n.toNat) = false) (hst : s.dstate n.toNat = dRUNNING)
    (hf : (s.chan n.toNat).fetch = some (false, a)) (hb : s.bar2Closed = false) :
    exec (.dmaDescriptorFetch n .memory) s = .next ((s.hbmGet a 64).2.descFetched n.toNat false a (s.hbmGet a 64).1).settle := by
  show execDmaDescriptorFetch n .memory s = _
  unfold execDmaDescriptorFetch
  rw [if_neg (by simp [hi, hst]), hf]
  exact (if_neg (by simp [hst])).trans (if_neg (by simp [hb]))

theorem exec_dmaDescriptorFetch_completion {a : Nat} {data : List Byte} (hi : s.inReset (pDMA n.toNat) = false)
    (hst : s.dstate n.toNat = dRUNNING) (hf : (s.chan n.toNat).fetch = some (true, a)) (hs : (s.chan n.toNat).stale = 0)
    (hr : (s.chan n.toNat).reqs ≠ []) (hlen : data.length = 64) : exec (.dmaDescriptorFetch n (.completion data false)) s =
      .next ((s.modChan n.toNat fun c => { c with reqs := [] }).descFetched n.toNat true a ⟨data, []⟩).settle := by
  show execDmaDescriptorFetch n (.completion data false) s = _
  unfold execDmaDescriptorFetch
  rw [if_neg (by simp [hi, hst, hs]), hf]
  refine (if_neg (by simp [hr, hlen])).trans (congrArg done ?_)
  exact if_neg (by simp [hst])

theorem exec_dmaPaused (hst : s.dstate n.toNat = dPAUSING) (hr : (s.chan n.toNat).reqs = []) (hm : (s.desc n.toNat).mode = 0)
    (hi : s.inReset (pDMA n.toNat) = false) :
    exec (.dmaPaused n) s = .next ((s.wr (Reg.DMA_STAT_STATE n.toNat) dPAUSED).raise (pDMA n.toNat) 3).settle :=
  if_pos ⟨hst, by simp [hr], .inl hm, hi⟩

end

/-! ### Configuration requests (R431, R522) -/

section
variable {s : State} (hp : s.pwr.powered = true) (hperst : s.pwr.perstRst = false) (hh : s.inReset pHST = false)
  (w : Option Sys2Proof.ConfigWrite)
include hp hperst hh

theorem exec_configurationRequest_retry (hg : s.inReset pGLB = true) :
    exec (.configurationRequest w) s = .next (s.emit (.config true)).settle :=
  (if_neg (by simp [hp, hperst, hh])).trans (if_pos hg)

theorem exec_configurationRequest (hg : s.inReset pGLB = false) : exec (.configurationRequest w) s =
    .next ((match w with | some w => s.configWrite w | none => s).emit (.config false)).settle :=
  (if_neg (by simp [hp, hperst, hh])).trans (if_neg (by simp [hg]))

end

/-- Settles O55, command by command: the channel's STATE and what is outstanding choose the branch. -/
theorem dmaCommandsComplete : Obligations.DmaCommandsComplete := by
  refine ⟨fun s ag n ha => ⟨fun hq hacc => ⟨fun h => ?_, fun h hp => ?_⟩, exec_pause ha, fun h ho => ?_, exec_dmaStop ha, exec_clearErr ha⟩,
    fun s n up => ⟨fun h r => exec_dmaResponse_stale h, fun hs hi hact hst => ⟨exec_dmaResponse_memory hs hi hact hst,
        fun a len rest hreqs hf hh => ⟨exec_dmaResponse_failed hs hi hact hst hreqs hf hh,
          fun data ep hlen => exec_dmaResponse_completion hs hi hact hst hreqs hf hh hlen ep⟩⟩,
      fun r rest => exec_dmaCompletionTimeout, exec_dmaDescriptorComplete,
      fun hi hst => ⟨fun a => exec_dmaDescriptorFetch_memory hi hst, fun a data => exec_dmaDescriptorFetch_completion hi hst⟩,
      exec_dmaPaused⟩,
    fun s => rfl, fun s w hp hperst hh => ⟨exec_configurationRequest_retry hp hperst hh w, exec_configurationRequest hp hperst hh w⟩⟩
  · rw [exec_dmaGo ha, State.dmaGo_idle hq hacc h]
  · rw [exec_dmaGo ha, State.dmaGo_active hq hacc h hp]
  · rw [exec_dmaResume ha, State.dmaResume_of_paused h ho]

end Sys2Proof.Machine
end

section
/-!
PROOFS. What the ledger's records leave as it was (R465 to R473).
-/
namespace Sys2Proof.Machine

open Sys2Proof (Agent Byte)

/-- The register fields that a record writes beside the cellar. -/
def ledgerFields : List Fld :=
  [Reg.LED_STAT_STAGED, Reg.LED_STAT_OPEN, Reg.LED_STAT_HELD, Reg.LED_CNT_HOLDS] ++ (List.range 12).map Reg.LED_CHAIN_CHAIN ++ pLED.eventFields

/-- A field that no record writes. -/
def offLedger (g : Fld) : Prop := g.key < (Reg.cellar 0).key ∧ ∀ f ∈ ledgerFields, g.key ≠ f.key

theorem State.rd_withIng (s : State) (x : Ing) (f : Fld) : ({ s with ing := x } : State).rd f = s.rd f := rfl

theorem State.rd_modSeg (s : State) (wseq j : Nat) (c : SegCounts → SegCounts) (f : Fld) : (s.modSeg wseq j c).rd f = s.rd f := rfl

theorem State.rd_draw (s : State) (f : Fld) : s.draw.2.rd f = s.rd f := rfl

section
variable {g : Fld} (hg : offLedger g)
include hg

theorem offLedger.event : ∀ f ∈ pLED.eventFields, g.key ≠ f.key := fun f hf => hg.2 f (List.mem_append_right _ hf)

theorem State.rd_cellarPut (s : State) (a : Nat) (l : List Byte) : (s.cellarPut a l).rd g = s.rd g := by
  have hlt : g.key < (Reg.cellar 0).key := hg.1
  have hcell : ∀ b, (Reg.cellar 0).key ≤ (Reg.cellar b).key := fun b => by simp only [Fld.key, Reg.cellar]; omega
  exact State.rd_foldl (fun t i _ => t.rd_wr_ne (hlt.trans_le (hcell _)).ne _) s

theorem State.rd_ledShow (s : State) : s.ledShow.rd g = s.rd g := by
  have hne : ∀ f ∈ [Reg.LED_STAT_STAGED, Reg.LED_STAT_OPEN, Reg.LED_STAT_HELD, Reg.LED_CNT_HOLDS], g.key ≠ f.key :=
    fun f hf => hg.2 f (List.mem_append_left _ (List.mem_append_left _ hf))
  simp only [List.mem_cons, List.not_mem_nil, or_false, forall_eq_or_imp, forall_eq] at hne
  obtain ⟨hstaged, hopen, hheld, hcnt⟩ := hne
  have hshow : ∀ a b c, (s.wrs [(Reg.LED_STAT_STAGED, a), (Reg.LED_STAT_OPEN, b), (Reg.LED_STAT_HELD, c)]).rd g = s.rd g :=
    fun a b c => s.rd_wrs_ne _ (by simp [hstaged, hopen, hheld])
  exact rd_ite ((State.rd_raise_ne _ _ _ hg.event).trans ((State.rd_satInc_ne _ hcnt _).trans (hshow _ _ _))) (hshow _ _ _)

theorem State.rd_record (s : State) (kind flags wseq stripe : Nat) (body : List Byte) (fresh : Bool) :
    (s.record kind flags wseq stripe body fresh).rd g = s.rd g := by
  have hchain : ∀ i < 12, g.key ≠ (Reg.LED_CHAIN_CHAIN i).key := fun i hi =>
    hg.2 _ (List.mem_append_left _ (List.mem_append_right _ (List.mem_map_of_mem (List.mem_range.2 hi))))
  refine rd_ite rfl ((State.rd_ledShow hg _).trans ((State.rd_raise_ne _ _ _ hg.event).trans ((State.rd_foldl ?_ _).trans ?_)))
  · exact fun t i hi => t.rd_wr_ne (hchain i (List.mem_range.1 hi)) _
  · exact (State.rd_cellarPut hg _ _ _).trans (State.rd_cellarPut hg _ _ _)

theorem State.rd_segRecord (s : State) (w : Waybill) (p : Plan) (j last : Nat) (slot : Option Nat) (part : Bool) :
    (s.segRecord w p j last slot part).rd g = s.rd g := by
  cases slot with
  | none => simp only [State.segRecord, State.rd_withIng, State.rd_modSeg, State.rd_record hg, State.rd_draw]
  | some n => simp only [State.segRecord, State.rd_withIng, State.rd_modSeg, State.rd_record hg]

theorem State.rd_closeRecord (s : State) (w : Waybill) (p : Plan) (ending h : Nat) : (s.closeRecord w p ending h).rd g = s.rd g :=
  rd_ite rfl ((State.rd_ledShow hg _).trans ((State.rd_raise_ne _ _ _ hg.event).trans (State.rd_record hg _ _ _ _ _ _ _)))

theorem State.rd_closeNow (s : State) (w : Waybill) (p : Plan) (h : Nat) : (s.closeNow w p h).rd g = s.rd g :=
  (State.rd_closeRecord hg _ _ _ _ _).trans (rd_ite (State.rd_foldl (fun t _ _ => State.rd_segRecord hg t _ _ _ _ _ _) _) rfl)

theorem State.rd_lossRecords (s : State) : s.lossRecords.rd g = s.rd g := by
  rw [State.lossRecords]
  split
  next => rfl
  next =>
    exact (State.rd_foldl (fun t _ _ => State.rd_closeNow hg t _ _ _) _).trans (rd_ite rfl (State.rd_record hg _ _ _ _ _ _ _))

end

end Sys2Proof.Machine
end

section
/-!
PROOFS. The memory subsystem (R327 to R342, R424): reads, fills, scrubbing, refresh, temperature, the log of findings,
repair, sparing, tests, and what a loss of HBM empties.
-/
namespace Sys2Proof.Machine

open Sys2Proof (Agent Byte)

/-! ### The state of a stack -/

theorem Steps.hbm_eq {s t : State} (h : Steps (· ≠ Part.hbm) s t) : t.hbm = s.hbm := (h.kept .hbm).resolve_left fun hne => hne rfl

theorem Steps.mem_eq {s t : State} (h : Steps (· ≠ Part.mem) s t) : t.mem = s.mem := (h.kept .mem).resolve_left fun hne => hne rfl

theorem State.raise_mem (s : State) (p : Page) (b : Nat) : (s.raise p b).mem = s.mem :=
  (State.raise_steps (by decide) (Steps.refl _ s) p b).mem_eq

/-- A stack that the module has holds what it is changed to. -/
theorem State.stack_modStack {s : State} {n : Nat} (hn : n < s.mem.stackSt.length) (f : Stack → Stack) :
    (s.modStack n f).stack n = f (s.stack n) := by
  simp [State.stack, State.modStack, State.modMem, modAt, List.getD_eq_getElem?_getD, hn]

/-! ### Reads (R327) -/

theorem exec_hbmRead {s : State} {addr : Nat} (h : addr < hbmSize) (hr : s.stackReady (stackOf (addr / 32)) = true)
    (flips : List (Nat × BitVec 8)) (o : Bool) : exec (.hbmRead addr flips o) s =
      .next ((((s.opens (addr / 32) o).readWord (addr / 32) flips false).2.emit
        (.completion ((s.opens (addr / 32) o).readWord (addr / 32) flips false).1.data
          ((s.opens (addr / 32) o).readWord (addr / 32) flips false).1.poisoned))).settle :=
  (if_neg (by omega)).trans (if_neg (by simp [hr]))

/-! ### The fill (R329) -/

/-- A byte of an address whose bytes are unlisted is the fill's zero, and every other byte is as it was. -/
theorem Memory.read_filter (m : Memory) (keep : Nat → Bool) (a : Nat) :
    Memory.read a (m.filter fun e => keep e.1) = if keep a then Memory.read a m else 0 := by
  induction m with
  | nil => simp [Memory.read]
  | cons e m ih =>
    obtain ⟨b, v⟩ := e
    by_cases hb : b = a
    · subst hb
      by_cases hk : keep b <;> simp [hk, Memory.read, ih]
    · by_cases hk : keep b <;> simp [hk, Memory.read, ih, hb]

/-- A stack's code words are zero. -/
def State.filled (s : State) (n : Nat) : State :=
  { s with
    hbm := s.hbm.filter fun e => !(stackOf (e.1 / 32) == n)
    mem := { s.mem with
      poison := s.mem.poison.filter fun c => !(stackOf c == n)
      dev := s.mem.dev.filter fun e => !(stackOf e.1 == n)
      inj := s.mem.inj.filter fun c => !(stackOf c == n)
      lost := s.mem.lost.filter fun l => l.dead || l.chan / 30 != n } }

/-- A stack's code words are zero, and its page runs. -/
def State.fillDone (s : State) (n : Nat) : State :=
  ((((s.filled n).wr (Reg.MEM_STAT_INIT_DONE n) 1).setRunning (pMEM n) true).raise (pMEM n) 10).modStack n
    fun k => { k with passStart := s.now, sub := 0 }

theorem State.fillDone_hbm (s : State) (n : Nat) : (s.fillDone n).hbm = s.hbm.filter fun e => !(stackOf (e.1 / 32) == n) :=
  (State.modStack_steps (by decide) (State.raise_steps (by decide) (State.setRunning_steps (State.wr_steps (Steps.refl _ (s.filled n)) _ _)
    (pMEM n) true) (pMEM n) 10) n _).hbm_eq

theorem State.fillDone_initDone (s : State) {n : Nat} (hn : n < 4) : (s.fillDone n).rd (Reg.MEM_STAT_INIT_DONE n) = 1 := by
  have hstate : (Reg.MEM_STAT_INIT_DONE n).key ≠ (Hdr.state (pMEM n)).key := by interval_cases n <;> decide
  have hevent : ∀ f ∈ (pMEM n).eventFields, (Reg.MEM_STAT_INIT_DONE n).key ≠ f.key := by interval_cases n <;> decide
  exact (State.rd_raise_ne _ _ _ hevent).trans ((State.rd_setRunning_ne _ hstate _).trans (State.rd_wr_self _ _ _))

theorem exec_memFillComplete {s : State} {n : Nat} (hn : n < 4) (hi : s.pstate (pMEM n) = stIDLE)
    (hd : s.rd (Reg.MEM_STAT_INIT_DONE n) = 0) : exec (.memFillComplete n) s =
      .next (if (List.range 4).all fun m => (s.fillDone n).running (pMEM m) then (s.fillDone n).lossRecords else s.fillDone n).settle :=
  if_neg (by simp [hn, hi, State.bit, hd])

/-- After its fill every byte of a stack is zero, and the other stacks hold what they held. -/
theorem memFillComplete_fills {s : State} {n : Nat} (hn : n < 4) (hi : s.pstate (pMEM n) = stIDLE)
    (hd : s.rd (Reg.MEM_STAT_INIT_DONE n) = 0) : ∃ u : State, exec (.memFillComplete n) s = .next u.settle ∧
      u.rd (Reg.MEM_STAT_INIT_DONE n) = 1 ∧ (∀ a, stackOf (a / 32) = n → Memory.read a u.hbm = 0) ∧
      ∀ a, stackOf (a / 32) ≠ n → Memory.read a u.hbm = Memory.read a s.hbm := by
  have hoff : offLedger (Reg.MEM_STAT_INIT_DONE n) := by
    refine ⟨?_, ?_⟩
    all_goals interval_cases n <;> decide
  refine ⟨_, exec_memFillComplete hn hi hd, rd_ite ((State.rd_lossRecords hoff _).trans (s.fillDone_initDone hn)) (s.fillDone_initDone hn), ?_⟩
  have hhbm : ∀ c : Prop, ∀ _ : Decidable c, (if c then (s.fillDone n).lossRecords else s.fillDone n).hbm =
      s.hbm.filter fun e => !(stackOf (e.1 / 32) == n) := by
    intro c _
    rw [← s.fillDone_hbm n]
    split
    · exact (State.lossRecords_steps (by decide) (by decide) (by decide) (by decide) (Steps.refl _ _)).hbm_eq
    · rfl
  rw [hhbm]
  exact ⟨fun a ha => (Memory.read_filter _ (fun b => !(stackOf (b / 32) == n)) a).trans (if_neg (by simp [ha])),
    fun a ha => (Memory.read_filter _ (fun b => !(stackOf (b / 32) == n)) a).trans (if_pos (by simp [ha]))⟩

/-! ### Scrubbing (R333) -/

section
variable {s : State} {n : Nat} (hn : n < 4)
include hn

theorem exec_scrubRead (hr : s.stackReady n = true) (hp : s.pstate (pMEM n) = stRUNNING) (he : s.bit Reg.MEM_SCRUB_EN = true)
    (hk : (s.stack n).sub < 240) {c : Nat}
    (hc : (s.rd (Reg.MEM_SCRUB_POS_N n) * 120 + 30 * n + (s.stack n).sub / 8) * 8 + (s.stack n).sub % 8 = c) (hlt : 32 * c < hbmSize)
    (flips : List (Nat × BitVec 8)) : exec (.scrubRead n flips) s = .next ((if (s.readWord c flips true).1.found then
      (s.readWord c flips true).2.tellOwner c else (s.readWord c flips true).2).scrubNext n).settle := by
  subst hc
  exact (if_neg (by simp [hn, hr, hp, he])).trans ((if_neg (by omega)).trans (if_neg (by omega)))

theorem exec_scrubberBehind (hr : s.stackReady n = true) (he : s.bit Reg.MEM_SCRUB_EN = true)
    (hb : 66 * 16 * 10 ^ 9 * s.rd Reg.MEM_SCRUB_PERIOD < s.now - (s.stack n).passStart) :
    exec (.scrubberBehind n) s = .next (s.raise (pMEM n) 12).settle :=
  if_pos ⟨hn, hr, he, hb⟩

end

/-! ### Refresh and temperature (R335 to R337) -/

/-- A bank owes what its debt is set to. -/
theorem State.debt_setDebt_self (s : State) (b d : Nat) : (s.setDebt b d).debt b = d := by
  by_cases hd : d = 0
  · have hnone : (s.mem.debts.filter fun e => e.1 != b).find? (fun e => e.1 == b) = none := by simp
    simp [State.debt, State.setDebt, State.modMem, codeOf, hd, hnone]
  · simp [State.debt, State.setDebt, State.modMem, codeOf, hd]

section
variable {s : State} {n pc bank : Nat} (hn : n < 4) (hpc : pc < 32) (hbk : bank < 64)
include hn hpc hbk

theorem exec_refreshDue_idle (hl : s.live (pMEM n) = true) (hm : s.bit Reg.MEM_REF_MODE = false) : exec (.refreshDue n pc bank false) s =
    .next ((s.setDebt (64 * (32 * n + pc) + bank) (s.debt (64 * (32 * n + pc) + bank) + 1)).setDebt (64 * (32 * n + pc) + bank)
      ((s.setDebt (64 * (32 * n + pc) + bank) (s.debt (64 * (32 * n + pc) + bank) + 1)).debt (64 * (32 * n + pc) + bank) - 1)).settle :=
  (if_neg (by simp [hn, hpc, hbk, hl])).trans ((if_neg (by simp [hm])).trans (if_pos rfl))

theorem exec_refreshDue_busy (hl : s.live (pMEM n) = true) (hm : s.bit Reg.MEM_REF_MODE = false)
    (hmax : s.debt (64 * (32 * n + pc) + bank) + 1 < s.rd Reg.MEM_REF_DEBT_MAX) : exec (.refreshDue n pc bank true) s =
    .next (s.setDebt (64 * (32 * n + pc) + bank) (s.debt (64 * (32 * n + pc) + bank) + 1)).settle :=
  (if_neg (by simp [hn, hpc, hbk, hl])).trans ((if_neg (by simp [hm])).trans ((if_neg (by simp)).trans
    (if_neg (by rw [State.debt_setDebt_self]; omega))))

/-- A refresh due is done at once for an idle bank, and owed by a busy one. -/
theorem refreshDue_debt (hl : s.live (pMEM n) = true) (hm : s.bit Reg.MEM_REF_MODE = false) {busy : Bool}
    (h : busy = false ∨ s.debt (64 * (32 * n + pc) + bank) + 1 < s.rd Reg.MEM_REF_DEBT_MAX) :
    ∃ u : State, exec (.refreshDue n pc bank busy) s = .next u.settle ∧
      u.debt (64 * (32 * n + pc) + bank) = s.debt (64 * (32 * n + pc) + bank) + if busy then 1 else 0 := by
  cases busy with
  | false => exact ⟨_, exec_refreshDue_idle hn hpc hbk hl hm, by simp [State.debt_setDebt_self]⟩
  | true => exact ⟨_, exec_refreshDue_busy hn hpc hbk hl hm (h.resolve_left (by simp)), State.debt_setDebt_self _ _ _⟩

theorem exec_refreshCycleEnd : exec (.refreshCycleEnd n pc bank) s =
    .next (s.modMem fun c => { c with acts := c.acts.filter fun t => t.bank != 64 * (32 * n + pc) + bank }).settle :=
  if_neg (by omega)

end

theorem exec_stackTemperatureRead {s : State} {n : Nat} (hn : n < 4) {v : BitVec 8} (hr : s.inReset (pMEM n) = false) (hv : v.toNat < 95)
    {new : Nat} (hnew : (if 85 ≤ v.toNat then 1 else if v.toNat < 83 then 0 else s.rd (Reg.MEM_STAT_REF2X n)) = new) :
    exec (.stackTemperatureRead n v) s = .next (((s.wrs [(Reg.MEM_STAT_TEMP n, v.toNat), (Reg.MEM_STAT_REF2X n, new)]).raiseIf
      (new != s.rd (Reg.MEM_STAT_REF2X n)) (pMEM n) 13).modStack n fun k => { k with hot := k.hot && decide (90 ≤ v.toNat) }).settle := by
  have hhot : decide (95 ≤ v.toNat) = false := decide_eq_false (by omega)
  show execStackTemperatureRead n v s = _
  unfold execStackTemperatureRead
  rw [if_neg (by simp [hn, hr])]
  simp only [hnew, hhot, Bool.false_or]
  exact congrArg done (if_neg (by omega))

/-! ### Permanent repair (R339) -/

/-- The registers that show that a repair has left no row over. -/
def noneLeft (n : Nat) : List (Fld × Nat) :=
  [(Reg.MEM_PPR_CTRL_LEFT n, 0), (Reg.MEM_PPR_CTRL_RESULT n, 0)] ++ (List.range 32).map fun i => (Reg.MEM_PC_REMAPS n i, 0)

/-- A repair that leaves no row over. -/
def State.repaired (s : State) (n : Nat) : State :=
  (((s.modStack n fun k => { k with ppr := false }).modMem fun c => { c with remaps := c.remaps.filter fun k => k / 16384 / 64 / 32 != n }).wrs
    (noneLeft n)).raise (pMEM n) 14

theorem exec_pprComplete {s : State} {n : Nat} (hn : n < 4) (hp : (s.stack n).ppr = true) :
    exec (.pprComplete n []) s = .next (s.repaired n).settle := by
  refine (if_neg (by simp [hn, hp])).trans (congrArg done ?_)
  simp [State.repaired, noneLeft]

theorem State.repaired_rows (s : State) (n : Nat) : ∀ k ∈ (s.repaired n).mem.remaps, k / 16384 / 64 / 32 ≠ n := by
  intro k hk
  rw [State.repaired, State.raise_mem] at hk
  have hmem : k ∈ s.mem.remaps.filter fun k => k / 16384 / 64 / 32 != n := hk
  simpa using List.of_mem_filter hmem

theorem State.repaired_shows (s : State) {n : Nat} (hn : n < 4) :
    (s.repaired n).rd (Reg.MEM_PPR_CTRL_RESULT n) = 0 ∧ (s.repaired n).rd (Reg.MEM_PPR_CTRL_LEFT n) = 0 := by
  have hresult : ∀ f ∈ (pMEM n).eventFields, (Reg.MEM_PPR_CTRL_RESULT n).key ≠ f.key := by interval_cases n <;> decide
  have hleft : ∀ f ∈ (pMEM n).eventFields, (Reg.MEM_PPR_CTRL_LEFT n).key ≠ f.key := by interval_cases n <;> decide
  have hdistinct : ((noneLeft n).map fun e => e.1.key).Nodup := by interval_cases n <;> decide
  exact ⟨(State.rd_raise_ne _ _ _ hresult).trans (State.rd_wrs_of_mem (v := 0) _ hdistinct (by simp [noneLeft])),
    (State.rd_raise_ne _ _ _ hleft).trans (State.rd_wrs_of_mem (v := 0) _ hdistinct (by simp [noneLeft]))⟩

/-! ### Sparing (R340, R341) -/

section
variable {s : State} {n : Nat} (hn : n < 4)
include hn

theorem exec_sparingComplete {i d : Nat} (hc : (s.stack n).copy = some (i, d)) (hr : s.running (pMEM n) = true)
    (hq : s.pstate (pMEM n) ≠ stQUIESCED) : exec (.sparingComplete n) s =
      .next (((((s.wrs [(Reg.MEM_PC_STATE n d, 0), (Reg.MEM_PC_LOGICAL n d, s.rd (Reg.MEM_PC_LOGICAL n i)), (Reg.MEM_PC_STATE n i, 4),
        (Reg.MEM_PC_LOGICAL n i, 0x7F), (Reg.MEM_STAT_COPYING n, 0)]).modStack n fun k => { k with copy := none }).raise (pMEM n) 7).spareShow
          n).nextCopy n).settle := by
  show execSparingComplete n s = _
  rw [execSparingComplete, hc]
  exact if_neg (by simp [hn, hr, hq])

theorem exec_pseudoChannelDead {pc d : Nat} (hpc : pc < 32) (hr : s.inReset (pMEM n) = false) (hst : s.pcState n pc = 0)
    (hc : (s.stack n).copy = none) (hd : (s.wr (Reg.MEM_PC_STATE n pc) 5).spareOf n = some d) : exec (.pseudoChannelDead n pc) s =
      .next ((((s.wr (Reg.MEM_PC_STATE n pc) 5).wrs [(Reg.MEM_PC_LOGICAL n pc, 0x7F), (Reg.MEM_PC_STATE n d, 0),
        (Reg.MEM_PC_LOGICAL n d, s.rd (Reg.MEM_PC_LOGICAL n pc))]).spareShow n).loseChannel (s.rd (Reg.MEM_PC_LOGICAL n pc)) (32 * n + pc)
          false).settle := by
  show execPseudoChannelDead n pc s = _
  unfold execPseudoChannelDead
  rw [if_neg (by simp [hn, hpc, hr, hst]), if_pos (.inl hst), hc]
  simp only [hd]
  rfl

end

/-- Two pseudo-channels do not share a STATE. -/
theorem MEM_PC_STATE_key_ne {n i j : Nat} (h : i ≠ j) : (Reg.MEM_PC_STATE n i).key ≠ (Reg.MEM_PC_STATE n j).key := by
  simp only [Fld.key, Reg.MEM_PC_STATE]
  omega

theorem MEM_PC_STATE_off_events {n i : Nat} (hn : n < 4) (hi : i < 32) : ∀ f ∈ (pMEM n).eventFields, (Reg.MEM_PC_STATE n i).key ≠ f.key := by
  revert i
  interval_cases n <;> decide

/-- The pseudo-channel named for sparing leaves the states as they were. -/
theorem State.pcState_wr_sparePc (s : State) (n i v : Nat) : (s.wr (Reg.MEM_SPARE_CTRL_PC n) v).pcState n i = s.pcState n i :=
  s.rd_wr_ne (by simp only [Fld.key, Reg.MEM_PC_STATE, Reg.MEM_SPARE_CTRL_PC]; omega) v

theorem State.spareOf_wr_sparePc (s : State) (n v : Nat) : (s.wr (Reg.MEM_SPARE_CTRL_PC n) v).spareOf n = s.spareOf n := by
  simp only [State.spareOf, State.pcState_wr_sparePc]

/-- A copy from a pseudo-channel in use to a spare. -/
def State.copying (s : State) (n i d : Nat) : State :=
  (((s.wrs [(Reg.MEM_PC_STATE n i, 2), (Reg.MEM_PC_STATE n d, 3), (Reg.MEM_STAT_COPYING n, 1)]).modStack n
    fun k => { k with copy := some (i, d), want := k.want.filter (· != i) }).raise (pMEM n) 6).spareShow n

theorem State.startCopy_of_spare {s : State} {n i d : Nat} (hc : (s.stack n).copy = none) (hd : s.spareOf n = some d) (hi : s.pcState n i = 0) :
    s.startCopy n i = (0, s.copying n i d) := by
  simp only [State.startCopy, hc, hd, hi]
  rfl

section
variable {s : State} {n i d : Nat} (hn : n < 4)
include hn

theorem State.pcState_copying {k : Nat} (hk : k < 32) : (s.copying n i d).pcState n k =
    (s.wrs [(Reg.MEM_PC_STATE n i, 2), (Reg.MEM_PC_STATE n d, 3), (Reg.MEM_STAT_COPYING n, 1)]).rd (Reg.MEM_PC_STATE n k) :=
  (State.rd_wr_ne _ (by simp only [Fld.key, Reg.MEM_PC_STATE, Reg.MEM_STAT_SPARES]; omega) _).trans
    (State.rd_raise_ne _ _ _ (MEM_PC_STATE_off_events hn hk))

/-- The two pseudo-channels of a copy show what they do. -/
theorem State.copying_shows (hid : i ≠ d) (hi : i < 32) (hd : d < 32) :
    (s.copying n i d).pcState n i = 2 ∧ (s.copying n i d).pcState n d = 3 := by
  have hcopy : ∀ k, (Reg.MEM_PC_STATE n k).key ≠ (Reg.MEM_STAT_COPYING n).key := fun k => by
    simp only [Fld.key, Reg.MEM_PC_STATE, Reg.MEM_STAT_COPYING]
    omega
  rw [State.pcState_copying hn hi, State.pcState_copying hn hd]
  have hdistinct : ([(Reg.MEM_PC_STATE n i, 2), (Reg.MEM_PC_STATE n d, 3), (Reg.MEM_STAT_COPYING n, 1)].map fun e => e.1.key).Nodup := by
    simp [MEM_PC_STATE_key_ne hid, hcopy]
  exact ⟨State.rd_wrs_of_mem (v := 2) _ hdistinct (by simp), State.rd_wrs_of_mem (v := 3) _ hdistinct (by simp)⟩

end

theorem State.copying_copy {s : State} {n : Nat} (hlen : n < s.mem.stackSt.length) (i d : Nat) :
    ((s.copying n i d).stack n).copy = some (i, d) := by
  have hmem : (s.copying n i d).mem = (s.modStack n fun k => { k with copy := some (i, d), want := k.want.filter (· != i) }).mem :=
    State.raise_mem _ _ _
  rw [State.stack, hmem]
  exact congrArg Stack.copy (State.stack_modStack hlen _)

section
variable {s : State} {ag : Agent} {n : Nat} (hn : n < 4)
include hn

theorem exec_spareGo (ha : s.takesWork ag (pMEM n)) (pc : BitVec 5) :
    exec (.spareGo ag n pc) s = .next ((s.wr (Reg.MEM_SPARE_CTRL_PC n) pc.toNat).spareGo n).settle :=
  (if_neg (by omega)).trans (done_newWork ha fun s => (s.wr (Reg.MEM_SPARE_CTRL_PC n) pc.toNat).spareGo n)

/-- SPARE_GO of a pseudo-channel in use, with a spare, begins a copy. -/
theorem spareGo_copies (ha : s.takesWork ag (pMEM n)) (hlen : n < s.mem.stackSt.length) (hc : (s.stack n).copy = none) {d : Nat}
    (hd : s.spareOf n = some d) {pc : BitVec 5} (hst : s.pcState n pc.toNat = 0) :
    ∃ u : State, exec (.spareGo ag n pc) s = .next u.settle ∧ u.rd (Reg.MEM_SPARE_CTRL_RESULT n) = 0 ∧
      u.pcState n pc.toNat = 2 ∧ u.pcState n d = 3 ∧ (u.stack n).copy = some (pc.toNat, d) := by
  have hpc : (s.wr (Reg.MEM_SPARE_CTRL_PC n) pc.toNat).rd (Reg.MEM_SPARE_CTRL_PC n) = pc.toNat :=
    (State.rd_wr_self _ _ _).trans (Nat.mod_eq_of_lt pc.isLt)
  have hstart := State.startCopy_of_spare (s := s.wr (Reg.MEM_SPARE_CTRL_PC n) pc.toNat) (n := n) (d := d) (i := pc.toNat) hc
    ((s.spareOf_wr_sparePc n _).trans hd) ((s.pcState_wr_sparePc n _ _).trans hst)
  have hspare : d < 32 ∧ s.pcState n d = 1 :=
    ⟨List.mem_range.1 (List.mem_of_find?_eq_some hd), by simpa using List.find?_some hd⟩
  have hid : pc.toNat ≠ d := by
    rintro rfl
    omega
  obtain ⟨hfrom, hto⟩ := State.copying_shows (s := s.wr (Reg.MEM_SPARE_CTRL_PC n) pc.toNat) hn hid pc.isLt hspare.1
  have hkept : ∀ (t : State) i v, (t.wr (Reg.MEM_SPARE_CTRL_RESULT n) v).pcState n i = t.pcState n i := fun t i v =>
    t.rd_wr_ne (by simp only [Fld.key, Reg.MEM_PC_STATE, Reg.MEM_SPARE_CTRL_RESULT]; omega) v
  refine ⟨_, exec_spareGo hn ha pc, ?_⟩
  rw [State.spareGo, hpc, hstart]
  exact ⟨State.rd_wr_self _ _ _, (hkept _ _ _).trans hfrom, (hkept _ _ _).trans hto,
    State.copying_copy (s := s.wr (Reg.MEM_SPARE_CTRL_PC n) pc.toNat) hlen _ _⟩

/-! ### The log of findings, and repair asked for (R334, R339) -/

theorem exec_pop (ha : s.reaches ag (pMEM n)) :
    exec (.pop ag n) s = .next ((s.modStack n fun k => { k with log := k.log.tail }).headShow n).settle :=
  (if_neg (by omega)).trans (done_access ha fun s => s.popUe n)

theorem exec_pprGo (ha : s.takesWork ag (pMEM n)) (halc : s.pstate pALC ≠ stRUNNING) (hing : s.pstate pING ≠ stRUNNING)
    (hsrv : s.pstate pSRV ≠ stRUNNING) :
    exec (.pprGo ag n) s = .next ((s.wr (Reg.MEM_PPR_CTRL_RESULT n) 0).modStack n fun k => { k with ppr := true }).settle :=
  (if_neg (by omega)).trans ((done_newWork ha fun s => s.pprGo n).trans (congrArg done (if_neg (by simp [halc, hing, hsrv]))))

end

/-! ### Check-bit testing (R342) -/

section
variable {s : State} {ag : Agent} (ha : s.reaches ag (pMEM 0)) (hok : s.testOk = true) (hr : s.stackReady (stackOf (s.testAddr / 32)) = true)
include ha hok hr

theorem exec_testWrite : exec (.testWrite ag) s = .next ((s.putWord (s.testAddr / 32) ((s.wordData (s.testAddr / 32)).map BitVec.toNat ++
    (leBytes 4 (s.rd Reg.MEM_TEST_CHK_CHK)).map BitVec.toNat)).wr Reg.MEM_TEST_CTRL_RESULT 0).settle :=
  (done_access ha State.testWrite).trans (congrArg done ((if_neg (by simp [hok])).trans (if_neg (by simp [hr]))))

theorem exec_testRead : exec (.testRead ag) s =
    .next (s.wrs [(Reg.MEM_TEST_CHK_CHK, leVal (((s.word36 (s.testAddr / 32)).drop 32).map (BitVec.ofNat 8))),
      (Reg.MEM_TEST_SYN_SYN, leVal ((List.range 4).map fun i => BitVec.ofNat 8 (syndrome (s.word36 (s.testAddr / 32)) i))),
      (Reg.MEM_TEST_CTRL_RESULT, 0)]).settle :=
  (done_access ha State.testRead).trans (congrArg done ((if_neg (by simp [hok])).trans (if_neg (by simp [hr]))))

end

/-! ### The loss of HBM (R424) -/

/-- The damage lists are empty, and no repair of a map is asked for. -/
def State.undamaged (s : State) : State :=
  ({ s with ing := { s.ing with damagedQ := [], damagedW := [] } } : State).modSrv fun v =>
    { v with damaged := [], repaired := [], repair := none, redo := [], coarse := [] }

theorem exec_memResetLoss {s : State} (h : s.mem.lossDue = true) : ∃ u : State, exec .memResetLoss s = .next u.undamaged.repairShow.settle :=
  ⟨_, if_neg (by simp [h])⟩

/-- A loss of HBM empties the damage lists. -/
theorem memResetLoss_empties {s : State} (h : s.mem.lossDue = true) : ∃ u : State, exec .memResetLoss s = .next u.settle ∧
    u.ing.damagedQ = [] ∧ u.ing.damagedW = [] ∧ u.srv.damaged = [] ∧ u.srv.repaired = [] ∧ u.srv.coarse = [] ∧ u.srv.repair = none ∧
    u.srv.redo = [] := by
  obtain ⟨u, hu⟩ := exec_memResetLoss h
  have hing : u.undamaged.repairShow.ing = u.undamaged.ing :=
    ((State.repairShow_steps (mu := (· ≠ Part.ing)) (Steps.refl _ _)).kept .ing).resolve_left fun hne => hne rfl
  refine ⟨_, hu, ?_⟩
  rw [State.srv, hing]
  exact ⟨rfl, rfl, rfl, rfl, rfl, rfl, rfl⟩

/-- Settles O51: the branch each command takes, and for those that end in a state of their own what that state reads. -/
theorem memoryCommandsComplete : Obligations.MemoryCommandsComplete := by
  refine ⟨fun s addr flips o h hr => exec_hbmRead h hr flips o,
    fun s n hn => ⟨memFillComplete_fills hn, fun flips hr hp he hk hlt => exec_scrubRead hn hr hp he hk rfl hlt flips,
      exec_scrubberBehind hn, fun pc bank hpc hbk => ⟨fun hl hm busy => refreshDue_debt hn hpc hbk hl hm, exec_refreshCycleEnd hn hpc hbk⟩,
      fun v hr hv => exec_stackTemperatureRead hn hr hv rfl, fun hp => ⟨_, exec_pprComplete hn hp, ?_⟩,
      fun i d => exec_sparingComplete hn, fun pc d => exec_pseudoChannelDead hn⟩,
    fun s ag n hn => ⟨exec_pop hn, exec_pprGo hn, fun pc d ha hlen hc hd => spareGo_copies hn ha hlen hc hd⟩,
    fun s ag ha hok hr => ⟨exec_testWrite ha hok hr, exec_testRead ha hok hr⟩, fun s => memResetLoss_empties⟩
  obtain ⟨hresult, hleft⟩ := s.repaired_shows hn
  exact ⟨hresult, hleft, s.repaired_rows n⟩

end Sys2Proof.Machine
end

section
/-!
PROOFS. The Q-link (R281 to R304): frames, markers, lane-map sets, return frames, bring-up and the retraining of a lane.
-/
namespace Sys2Proof.Machine

open Sys2Proof (Agent Byte FrameUpset)

/-! ### What a lane sends (R281, R286, R299) -/

section
variable {s : State} {n : Nat} (hn : n < 80) (ht : s.txOff = false) (hr : s.inReset (pQLK n) = false)
include hn ht hr

theorem exec_qlinkFrameSend_train (hl : s.lstate = lsTRAIN) (hu : s.rd (Reg.QLK_CFG_USE n) ≠ 0) (up : FrameUpset) :
    exec (.qlinkFrameSend n up) s =
      .next ((s.emit (.qframe n (qFrame 0x80 (s.laneAt n).alive n (trainPayload n) (s.laneAt n).corrupt))).modLane n fun q =>
        { q with alive := (q.alive + 1) % 256, corrupt := false, sent := q.sent + 1, clean := q.clean + 1 }).settle :=
  (if_neg (by simp [hn, ht, hr, hl])).trans ((if_neg (by simp [hl])).trans ((if_pos hl).trans (congrArg done (if_neg hu))))

theorem exec_qlinkFrameSend_standby (hl : s.lstate = lsREADY) (hro : s.laneRole n = roSTANDBY) (up : FrameUpset) :
    exec (.qlinkFrameSend n up) s =
      .next ((s.emit (.qframe n (qFrame 0 (s.laneAt n).alive 0xFF (List.replicate 1016 0) (s.laneAt n).corrupt))).modLane n fun q =>
        { q with alive := (q.alive + 1) % 256, corrupt := false }).settle :=
  (if_neg (by simp [hn, ht, hr, hl])).trans ((if_neg (by simp [hl])).trans ((if_neg (by simp [hl])).trans
    ((if_neg (by simp [hro])).trans (if_pos hro))))

theorem exec_qlinkFrameSend_data (hl : s.lstate = lsREADY) (hro : s.laneRole n = roDATA) (up : FrameUpset) :
    exec (.qlinkFrameSend n up) s = .next (s.sendOnData n up).settle :=
  (if_neg (by simp [hn, ht, hr, hl])).trans ((if_neg (by simp [hl])).trans ((if_neg (by simp [hl])).trans
    ((if_neg (by simp [hro])).trans ((if_neg (by simp [hro])).trans (if_pos hro)))))

theorem exec_laneMapSet (hl : s.lstate = lsREADY) (hro : s.laneRole n = roDATA ∨ s.laneRole n = roSTANDBY) : exec (.laneMapSet n) s =
    .next ((s.emit (.laneMap n (s.mapChars n))).modLane n fun q => { q with sets := q.sets + 1, setsDue := q.setsDue - 1 }).settle := by
  have hready : ¬((s.emit (.laneMap n (s.mapChars n))).modLane n fun q =>
      { q with sets := q.sets + 1, setsDue := q.setsDue - 1 }).lstate = lsMAP := fun h => absurd (hl.symm.trans h) (by decide)
  exact (if_neg (by simp [hn, ht, hr, hl, hro, show lsMAP ≤ lsREADY by decide])).trans (if_neg fun h => hready h.1)

end

theorem exec_tickMarker {s : State} {t sp : Nat} {e c : Int} (hedge : s.mot.lastEdge = some (t, e, sp, c)) (hl : s.lstate ≠ lsDOWN)
    (ht : s.txOff = false) (hm : s.pak.marked ≠ some e) (stamp : BitVec 64) : exec (.tickMarker stamp) s =
      .next ((List.range 80).foldl (fun v n => if s.laneRole n = roDATA then v.markOn n t sp e stamp.toNat else v)
        (s.modPak fun p => { p with marked := some e })).settle := by
  show execTickMarker stamp s = _
  unfold execTickMarker
  simp only [hedge]
  exact if_neg (by simp [hl, ht, hm])

/-! ### Return frames (R288, R293 to R295) -/

/-- The word that maps the return lanes is no other register of the packer. -/
theorem qrx_key_ne {g : Fld} (hg : g.addr ≠ 0x17004C) (hlo : g.lo < 32) {m : Nat} (hm : m < 4) :
    g.key ≠ (qrxValid m).key ∧ g.key ≠ (qrxSrc m).key := by
  simp only [Fld.key, qrxValid, qrxSrc]
  omega

section
variable {s : State} {m : Nat} {fr : List Byte} (hm : m < 4)
include hm

/-- What else is read is as it was once a return lane has been mapped. -/
theorem State.rd_returnMapped {g : Fld} (hg : g.addr ≠ 0x17004C) (hlo : g.lo < 32) (src : Nat) :
    (s.wrs [(qrxValid m, 1), (qrxSrc m, src)]).rd g = s.rd g := by
  obtain ⟨hvalid, hsrc⟩ := qrx_key_ne hg hlo hm
  exact s.rd_wrs_ne _ (by simp [hvalid, hsrc])

variable (hr : s.inReset pPAK = false) (hlock : (s.rd Reg.PAK_STAT_QRX_LOCK).testBit m = true) (hok : returnOk fr = true)
  (hfree : ∀ q < 4, q ≠ m → s.bit (qrxValid q) = false ∨ s.rd (qrxSrc q) ≠ leAt fr 2 1 ∨ (s.rd Reg.PAK_STAT_QRX_LOCK).testBit q = false)
include hr hlock hok hfree

/-- A return frame in form on a locked lane, whose SRC is no other locked lane's, maps the lane and is taken. -/
theorem State.returnFrame_taken (k : State → State) :
    s.returnFrame m fr k = k (s.wrs [(qrxValid m, 1), (qrxSrc m, leAt fr 2 1)]) := by
  have htaken : ((List.range 4).any fun q => q != m && s.bit (qrxValid q) && s.rd (qrxSrc q) == leAt fr 2 1 &&
      (s.rd Reg.PAK_STAT_QRX_LOCK).testBit q) = false := by
    refine List.any_eq_false.2 fun q hq => ?_
    by_cases hqm : q = m
    · simp [hqm]
    · obtain h | h | h := hfree q (List.mem_range.1 hq) hqm <;> simp [h]
  exact if_neg (by simp only [hr, hlock, hok, htaken]; simp [hm])

theorem exec_echoFrame (hk : leAt fr 0 1 = 0xE0) (hmode : s.rd Reg.PAK_CFG_MODE = 2) : exec (.echoFrame m fr) s =
    .next ((List.range 16).foldl (fun u i => u.echoRecord (slice fr (3 + 8 * i) 8))
      (s.wrs [(qrxValid m, 1), (qrxSrc m, leAt fr 2 1)])).settle :=
  congrArg done ((State.returnFrame_taken hm hr hlock hok hfree _).trans
    (if_pos ⟨hk, (State.rd_returnMapped hm (by decide) (by decide) _).trans hmode⟩))

section
variable (hk : leAt fr 0 1 = 0xE4) (hl : s.lstate ≠ lsDOWN)
include hk hl

/-- A status frame while the link is not DOWN is looked at, in blind mode for ALIVE and TEMP alone. -/
theorem exec_statusFrame_taken : exec (.statusFrame m fr) s =
    done (if (s.wrs [(qrxValid m, 1), (qrxSrc m, leAt fr 2 1)]).rd Reg.PAK_CFG_MODE = 2 then
      (s.wrs [(qrxValid m, 1), (qrxSrc m, leAt fr 2 1)]).status (slice fr 3 128)
      else (s.wrs [(qrxValid m, 1), (qrxSrc m, leAt fr 2 1)]).wrs
        [(Reg.PAK_ARY_ALIVE_ALIVE, leAt fr 3 4), (Reg.PAK_ARY_TEMP_TEMP, leAt fr 7 2)]) := by
  have hstate : (s.wrs [(qrxValid m, 1), (qrxSrc m, leAt fr 2 1)]).lstate = s.lstate := State.rd_returnMapped hm (by decide) (by decide) _
  exact congrArg done ((State.returnFrame_taken hm hr hlock hok hfree _).trans (if_neg (by rw [hstate]; simp [hk, hl])))

theorem exec_statusFrame (hmode : s.rd Reg.PAK_CFG_MODE = 2) : exec (.statusFrame m fr) s =
    .next ((s.wrs [(qrxValid m, 1), (qrxSrc m, leAt fr 2 1)]).status (slice fr 3 128)).settle :=
  (exec_statusFrame_taken hm hr hlock hok hfree hk hl).trans
    (congrArg done (if_pos ((State.rd_returnMapped hm (by decide) (by decide) _).trans hmode)))

theorem exec_statusFrame_blind (hmode : s.rd Reg.PAK_CFG_MODE ≠ 2) : exec (.statusFrame m fr) s =
    .next (s.wrs [(qrxValid m, 1), (qrxSrc m, leAt fr 2 1), (Reg.PAK_ARY_ALIVE_ALIVE, leAt fr 3 4), (Reg.PAK_ARY_TEMP_TEMP, leAt fr 7 2)]).settle := by
  refine (exec_statusFrame_taken hm hr hlock hok hfree hk hl).trans (congrArg done (if_neg ?_))
  rw [State.rd_returnMapped hm (by decide) (by decide)]
  exact hmode

end
end

/-! ### Time-outs of echoes, and the return lanes (R290, R294, R295) -/

section
variable {s : State}

theorem exec_echoTimeout {n al : Nat} {f : QFrame} (hn : n < 80) (hro : s.laneRole n = roDATA) (hr : s.inReset pPAK = false)
    (hf : ((s.pak.streams.find? fun st => st.logical == s.rd (Reg.QLK_STAT_LOGICAL n)).bind fun st =>
      st.frames.find? fun f => f.alive == al) = some f) (hd : f.due = false) {counts : Bool}
    (hc : s.echoLanes (s.rd (Reg.QLK_STAT_RXN n)) = counts) : exec (.echoTimeout n al) s =
      .next ((if counts then ((s.satInc Reg.PAK_CNT_ECHO_TO 1).satInc (Reg.QLK_CNT_ECHO_TO n) 1).raise (pQLK n) 2 else s).wantResend n
        (s.rd (Reg.QLK_STAT_LOGICAL n)) f counts).settle := by
  subst hc
  show execEchoTimeout n al s = _
  unfold execEchoTimeout
  rw [if_neg (by simp [hn, hro, hr])]
  simp only [hf]
  exact if_neg (by simp [hd])

section
variable (hr : s.inReset pPAK = false)
include hr

theorem exec_arrayDead (hl : s.lstate ≠ lsDOWN) (hm : s.rd Reg.PAK_CFG_MODE = 2) :
    exec .arrayDead s = .next (((s.modPak fun p => { p with dead := true }).setFault pPAK 2).raise pPAK 8).settle :=
  if_neg (by simp [hr, hl, hm])

theorem exec_returnLaneLock {m : Nat} (hm : m < 4) (hlock : (s.rd Reg.PAK_STAT_QRX_LOCK).testBit m = false) :
    exec (.returnLaneLockChange m true) s =
      .next ((s.wr Reg.PAK_STAT_QRX_LOCK (setBit (s.rd Reg.PAK_STAT_QRX_LOCK) m)).raise pPAK 9).settle := by
  have hnew : setBit (s.rd Reg.PAK_STAT_QRX_LOCK) m ≠ s.rd Reg.PAK_STAT_QRX_LOCK := fun h => by
    have hset := setBit_testBit_self (s.rd Reg.PAK_STAT_QRX_LOCK) m
    rw [h, hlock] at hset
    exact Bool.false_ne_true hset
  exact if_neg (by simp [hm, hr, hnew])

theorem exec_returnLanePolarityFlip {m : Nat} (hm : m < 4) (hlock : (s.rd Reg.PAK_STAT_QRX_LOCK).testBit m = false) :
    exec (.returnLanePolarityFlip m) s = .next (s.wr (qrxInv m) (1 - s.rd (qrxInv m))).settle :=
  if_neg (by simp [hm, hr, hlock])

/-! ### Bring-up and training (R297, R298, R301) -/

theorem exec_trainPhaseComplete (hl : s.lstate = lsTRAIN) (hs : ∀ n ∈ s.usedLanes, 4096 ≤ (s.laneAt n).sent) :
    exec .trainPhaseComplete s = .next s.selectLanes.settle :=
  if_pos ⟨hr, hl, List.all_eq_true.2 fun n hn => decide_eq_true (hs n hn)⟩

theorem exec_bringupTimeout (hl : s.lstate = lsBLANK ∨ s.lstate = lsTRAIN ∨ s.lstate = lsMAP) :
    exec .bringupTimeout s = .next ((s.wr Reg.PAK_STAT_LSTATE lsFAILED).raise pPAK 1).settle :=
  if_pos ⟨hr, hl⟩

section
variable {n : Nat} (hn : n < 80) (hl : s.lstate = lsREADY) (hro : s.laneRole n = roTRAINING) (hs : 4096 ≤ (s.laneAt n).sent)
include hn hl hro hs

/-- A lane that has trained stands by. -/
theorem exec_laneRetrainComplete_trained {r : Nat} (h : s.trainedOn n = some r) :
    exec (.laneRetrainComplete n) s = .next ((s.placeLane n roSTANDBY 0x7F r).countShow).spare.settle := by
  show execLaneRetrainComplete n s = _
  unfold execLaneRetrainComplete
  rw [if_neg (by simp [hn, hr, hl, hro]; omega)]
  simp only [h]
  rfl

/-- A lane that has not trained fails. -/
theorem exec_laneRetrainComplete_failed (h : s.trainedOn n = none) :
    exec (.laneRetrainComplete n) s = .next (s.placeLane n roFAILED 0x7F 0x7F).settle := by
  show execLaneRetrainComplete n s = _
  unfold execLaneRetrainComplete
  rw [if_neg (by simp [hn, hr, hl, hro]; omega)]
  simp only [h]
  rfl

end
end

section
variable {ag : Agent} (ha : s.reaches ag pPAK)
include ha

theorem exec_pakRetrain (harm : s.anyArmed = false) (hl : s.lstate ≠ lsDOWN) : exec (.pakRetrain ag) s = .next s.toBlank.settle :=
  (done_access ha State.retrain).trans (congrArg done ((if_neg (by simp [harm])).trans (if_neg hl)))

theorem exec_pakModeChange {m : BitVec 2} (h3 : m.toNat ≠ 3) (h0 : m.toNat ≠ 0) (hm : m.toNat ≠ s.rd Reg.PAK_CFG_MODE)
    (hr : s.running pPAK = false) (hl : s.lstate ≠ lsDOWN) :
    exec (.pakModeChange ag m) s = .next (s.wr Reg.PAK_CFG_MODE m.toNat).toBlank.settle := by
  have hstate : (s.wr Reg.PAK_CFG_MODE m.toNat).lstate = s.lstate := s.rd_wr_ne (by decide) _
  refine (done_access ha fun s => s.modeWrite m.toNat).trans (congrArg done ?_)
  rw [State.modeWrite, if_neg h3, if_neg hm, if_neg (by simp [hr])]
  exact (if_neg (by rwa [hstate])).trans (if_neg h0)

end

theorem exec_qlkRetrain {ag : Agent} {n : Nat} (hn : n < 80) (ha : s.reaches ag (pQLK n)) (hl : s.lstate = lsREADY)
    (hro : s.laneRole n = roFAILED ∨ s.laneRole n = roOFF) : exec (.qlkRetrain ag n) s =
      .next (((s.setLaneRole n roTRAINING).wr (Reg.QLK_STAT_RXN n) 0x7F).modLane n fun q => { alive := q.alive, scan := q.scan }).settle :=
  (if_neg (by omega)).trans ((done_access ha fun s => s.laneRetrain n).trans (congrArg done (if_pos ⟨hl, hro⟩)))

end

/-- Settles O48, command by command: the link's state and the lane's role choose the branch. -/
theorem qlinkCommandsComplete : Obligations.QlinkCommandsComplete := by
  refine ⟨fun s n up hn ht hr => ⟨fun hl hu => exec_qlinkFrameSend_train hn ht hr hl hu up,
      fun hl hro => exec_qlinkFrameSend_standby hn ht hr hl hro up, fun hl hro => exec_qlinkFrameSend_data hn ht hr hl hro up,
      exec_laneMapSet hn ht hr⟩,
    fun s stamp t sp e c hedge hl ht hm => exec_tickMarker hedge hl ht hm stamp,
    fun s m fr hm hr hlock hok hfree => ⟨exec_echoFrame hm hr hlock hok hfree,
      fun hk hl => ⟨exec_statusFrame hm hr hlock hok hfree hk hl, exec_statusFrame_blind hm hr hlock hok hfree hk hl⟩⟩,
    fun s n al f hn hro hr hf hd => ⟨exec_echoTimeout hn hro hr hf hd, exec_echoTimeout hn hro hr hf hd⟩,
    fun s hr => ⟨exec_arrayDead hr, fun m hm hlock => ⟨exec_returnLaneLock hr hm hlock, exec_returnLanePolarityFlip hr hm hlock⟩,
      exec_trainPhaseComplete hr, exec_bringupTimeout hr, 
      fun n hn hl hro hs => ⟨fun r => exec_laneRetrainComplete_trained hr hn hl hro hs, exec_laneRetrainComplete_failed hr hn hl hro hs⟩⟩,
    fun s ag ha => ⟨exec_pakRetrain ha, fun m => exec_pakModeChange ha⟩, fun s ag n => exec_qlkRetrain⟩

end Sys2Proof.Machine
end

section
/-!
PROOFS. Register fields that the permit switch and its gates do not read (R434).
-/
namespace Sys2Proof.Machine

/-- A field beyond the page headers, GLB_PERMIT and LCY_STATE. -/
abbrev offPermit (f : Fld) : Prop := 0x80 ≤ f.addr % 0x400 ∧ f.lo < 32

section
variable {f : Fld} (hf : offPermit f)
include hf

theorem State.rd_wr_offPermit (s : State) (v : Nat) {g : Fld} (hg : g.addr % 0x400 < 0x80) (hlo : g.lo < 32) : (s.wr f v).rd g = s.rd g := by
  obtain ⟨hfar, hflo⟩ := hf
  refine s.rd_wr_ne ?_ v
  simp only [Fld.key]
  omega

theorem State.rd_state_wr_offPermit (s : State) (v : Nat) (p : Page) : (s.wr f v).rd (Hdr.state p) = s.rd (Hdr.state p) := by
  obtain ⟨k, hk⟩ := p.base_dvd
  exact s.rd_wr_offPermit hf v (by simp only [Hdr.state]; omega) (by simp [Hdr.state])

theorem State.rd_faultStat_wr_offPermit (s : State) (v : Nat) (p : Page) : (s.wr f v).rd (Hdr.faultStat p) = s.rd (Hdr.faultStat p) := by
  obtain ⟨k, hk⟩ := p.base_dvd
  exact s.rd_wr_offPermit hf v (by simp only [Hdr.faultStat]; omega) (by simp [Hdr.faultStat])

/-- Such a field may be written without a change of the switch. -/
theorem State.switchClosed_wr_offPermit (s : State) (v : Nat) : (s.wr f v).switchClosed = s.switchClosed := by
  have hreq := s.rd_wr_offPermit hf v (g := Reg.GLB_PERMIT_REQ) (by decide) (by decide)
  have hcust := s.rd_wr_offPermit hf v (g := Reg.LCY_STATE_CUSTODY) (by decide) (by decide)
  have hlcy := s.rd_wr_offPermit hf v (g := Reg.LCY_STATE_STATE) (by decide) (by decide)
  have hpage := fun p => State.inReset_congr (s.rd_state_wr_offPermit hf v p)
  have hrst : (s.wr f v).gateRst = s.gateRst := by simp only [State.gateRst, State.modReset, hpage]; rfl
  have hfault : (s.wr f v).faultA = s.faultA := by simp only [State.faultA, s.rd_faultStat_wr_offPermit hf v]
  simp only [State.switchClosed, State.bit, State.gated, hrst, hfault, State.gateCust, State.gateLcy, hreq, hcust, hlcy]
  rfl

/-- Neither do the conditions of a check run change, if the field is no detector's. -/
theorem State.runOk_wr (s : State) (v : Nat) (hlanes : Reg.ARY_DET_CFG_LANES.key ≠ f.key) (hlock : Reg.ARY_DET_STAT_LOCK.key ≠ f.key) :
    (s.wr f v).runOk = s.runOk := by
  simp only [State.runOk, s.switchClosed_wr_offPermit hf, State.detLocked, s.rd_wr_ne hlanes, s.rd_wr_ne hlock]
  rfl

end

end Sys2Proof.Machine
end

section
/-!
PROOFS. The array passport and the beam check (R306 to R319, R482): loads, housekeeping, polls, the detector and check runs.
-/
namespace Sys2Proof.Machine

open Sys2Proof (Agent Byte)

/-! ### Loads, housekeeping and sessions asked for (R309, R310, R317) -/

section
variable {s : State} {ag : Agent} (ha : s.takesWork ag pARY)
include ha

theorem exec_loadPassport (hb : s.bit Reg.ARY_PASS_CTRL_BUSY = false) (hs : s.ary.session = none) (hi : s.inkUp = true)
    (hw : s.rd Reg.ALC_BT_STAT_WRITABLE ≠ 0) : exec (.loadPassport ag) s =
      .next ((s.wr Reg.ARY_PASS_CTRL_BUSY 1).modAry fun a => { a with bank := 1 - s.rd Reg.ALC_BT_STAT_ACTIVE, inkLost := false }).aryShow.settle :=
  (done_newWork ha State.passStart).trans (congrArg done ((if_neg (by simp [hb, hs])).trans ((if_neg (by simp [hi])).trans (if_neg hw))))

/-- What a write of ARY_HK_CMD with GO leaves. -/
def State.hkAsked (s : State) (w : Bool) (a : BitVec 8) (d : BitVec 16) : State :=
  (s.wrs [(Reg.ARY_HK_CMD_WRITE, if w then 1 else 0), (Reg.ARY_HK_CMD_ADDR, a.toNat), (Reg.ARY_HK_CMD_DATA, d.toNat)]).hkStart

theorem exec_hkGo (hb : s.bit Reg.ARY_HK_RES_BUSY = false) (w : Bool) (a : BitVec 8) (d : BitVec 16) :
    exec (.hkGo ag w a d) s = .next (s.hkAsked w a d).settle :=
  (done_newWork ha fun s => if s.bit Reg.ARY_HK_RES_BUSY then s.raise pARY 31 else s.hkAsked w a d).trans
    (congrArg done (if_neg (by simp [hb])))

/-- What a write of ARY_BC_CTRL names. -/
def State.bcNamed (s : State) (all : Bool) (part : BitVec 4) : State :=
  s.wrs [(Reg.ARY_BC_CTRL_ALL, if all then 1 else 0), (Reg.ARY_BC_CTRL_PART, part.toNat)]

omit ha in
theorem State.manualOk_bcNamed (s : State) (all : Bool) (part : BitVec 4) : (s.bcNamed all part).manualOk = s.manualOk := by
  have hrun : (s.bcNamed all part).runOk = s.runOk :=
    (State.runOk_wr (f := Reg.ARY_BC_CTRL_PART) (by decide) _ _ (by decide) (by decide)).trans
      (State.runOk_wr (f := Reg.ARY_BC_CTRL_ALL) (by decide) _ _ (by decide) (by decide))
  have hstate : (s.bcNamed all part).hstate = s.hstate := s.rd_wrs_ne _ (by simp +decide)
  simp only [State.manualOk, hrun, hstate]
  rfl

omit ha in
theorem State.bcNamed_parts (s : State) (all : Bool) (part : BitVec 4) :
    (s.bcNamed all part).bit Reg.ARY_BC_CTRL_ALL = all ∧ (s.bcNamed all part).rd Reg.ARY_BC_CTRL_PART = part.toNat := by
  refine ⟨?_, (State.rd_wr_self _ _ _).trans (Nat.mod_eq_of_lt part.isLt)⟩
  have hall : (s.bcNamed all part).rd Reg.ARY_BC_CTRL_ALL = if all then 1 else 0 := by
    refine (State.rd_wr_ne (s.wr Reg.ARY_BC_CTRL_ALL _) (by decide) _).trans ((State.rd_wr_self _ _ _).trans ?_)
    cases all <;> decide
  rw [State.bit, hall]
  cases all <;> decide

theorem exec_aryBcStart (hs : s.ary.session = none) (hb : s.bit Reg.ARY_PASS_CTRL_BUSY = false) (hm : s.manualOk = true) (all : Bool)
    (part : BitVec 4) : exec (.aryBcStart ag all part) s =
      .next (((s.wrs [(Reg.ARY_BC_CTRL_ALL, if all then 1 else 0), (Reg.ARY_BC_CTRL_PART, part.toNat), (Reg.ARY_BC_CTRL_RESULT, 0)]).modAry
        fun a => { a with session := some { manual := true, parts := if all then List.range 16 else [part.toNat] } }).aryShow).settle := by
  obtain ⟨hall, hpart⟩ := s.bcNamed_parts all part
  have hbusy : (s.bcNamed all part).bit Reg.ARY_PASS_CTRL_BUSY = false := by
    rw [State.bit, show (s.bcNamed all part).rd Reg.ARY_PASS_CTRL_BUSY = s.rd Reg.ARY_PASS_CTRL_BUSY from s.rd_wrs_ne _ (by simp +decide)]
    exact hb
  have hsession : (s.bcNamed all part).ary.session = none := hs
  refine (done_newWork ha fun s => (s.bcNamed all part).bcStart).trans (congrArg done ?_)
  rw [State.bcStart, if_neg (by simp [hsession, hbusy]), if_neg (by simp [State.manualOk_bcNamed, hm]), hall, hpart]
  rfl

end

theorem exec_aryBcAbort {s : State} {ag : Agent} (ha : s.reaches ag pARY) (hr : s.ary.run = none) :
    exec (.aryBcAbort ag) s = .next (s.modAry fun a => { a with session := none }).aryShow.settle :=
  (done_access ha State.bcAbort).trans (congrArg done (if_neg (by simp [hr])))

/-! ### What completes at the array service port (R306, R307, R309 to R311) -/

section
variable {s : State}

theorem exec_passportLoadComplete (hb : s.bit Reg.ARY_PASS_CTRL_BUSY = true) (hr : s.inReset pARY = false) (hl : s.ary.inkLost = false)
    (hi : s.inkUp = true) {img : List Byte} (hh : passHeaderOk img = true) (ht : passTablesOk img = true)
    (hw : s.bit Reg.ALC_BT_STAT_WRITABLE = true) (hbank : s.ary.bank ≠ s.rd Reg.ALC_BT_STAT_ACTIVE) (n : Nat) :
    exec (.passportLoadComplete img n) s = .next (((((s.emit (.spi (spiHead 0x03 0))).passWrite img s.ary.bank 262144).wrs
      ([(Reg.ARY_PASS_INFO_RANK, leAt img 10 1), (Reg.ARY_PASS_INFO_NDEF, leAt img 12 4), (Reg.ARY_PASS_CTRL_RESULT, 0),
        (Reg.ARY_PASS_CTRL_BUSY, 0)] ++ (List.range 4).map fun i => (Reg.ARY_PASS_SER_SER i, leAt img (0x20 + 4 * i) 4))).raise pARY 0).aryShow).settle := by
  have hink : (s.emit (.spi (spiHead 0x03 0))).inkUp = true := hi
  have hnot : ¬(s.emit (.spi (spiHead 0x03 0))).ary.bank = s.rd Reg.ALC_BT_STAT_ACTIVE := hbank
  have hwrite : (s.emit (.spi (spiHead 0x03 0))).bit Reg.ALC_BT_STAT_WRITABLE = true := hw
  have hlost : (s.emit (.spi (spiHead 0x03 0))).ary.inkLost = false := hl
  exact (if_neg (by simp [hb, hr])).trans ((if_neg (by rw [hink]; simp [hlost])).trans ((if_neg (by simp [hh])).trans
    ((if_neg (by simp [ht])).trans (if_neg (by rw [hwrite]; simp [hnot])))))

section
variable {addr data : Nat}

/-- What any housekeeping command ends with. -/
def State.hkEnded (s : State) : State := (s.modAry fun a => { a with hk := none }).wr Reg.ARY_HK_RES_BUSY 0

theorem exec_hkTransactionComplete_write (h : s.ary.hk = some (true, addr, data)) (v : BitVec 16) : exec (.hkTransactionComplete v) s =
    .next ((s.hkEnded.emit (.spi (spiHead 0x02 addr ++ beBytes 2 data))).aryShow).settle := by
  show execHkTransactionComplete v s = _
  simp only [execHkTransactionComplete, h]
  rfl

theorem exec_hkTransactionComplete_read (h : s.ary.hk = some (false, addr, data)) (v : BitVec 16) : exec (.hkTransactionComplete v) s =
    .next (((s.hkEnded.emit (.spi (spiHead 0x0B addr))).wr Reg.ARY_HK_RES_DATA v.toNat).raise pARY 2).aryShow.settle := by
  show execHkTransactionComplete v s = _
  simp only [execHkTransactionComplete, h]
  rfl

end

theorem exec_temperaturePoll (hl : s.live pARY = true) (hc : s.bit Reg.ARY_CFG_HKTEMP = true) (v : BitVec 16) :
    exec (.temperaturePoll v) s = .next ((s.emit (.spi (spiHead 0x0B 0x10))).tempReport 2 v.toNat).settle :=
  if_pos ⟨hl, hc⟩

theorem exec_arrayAlert (hr : s.inReset pARY = false) : exec .arrayAlert s = .next (s.raise pARY 3).settle :=
  congrArg done (if_neg (by simp [hr]))

/-! ### The detector (R312, R482) -/

/-- The detector shows its locks and its rate. -/
def State.detectorShown (s : State) (lock rate : Nat) : State :=
  (s.wrs [(Reg.ARY_DET_STAT_LOCK, lock), (Reg.ARY_DET_STAT_RATE, rate)]).raise pARY 4

/-- With every enabled channel among the locks shown, the detector is locked. -/
theorem State.detLocked_detectorShown {lock : Nat} (hlt : lock < 16) (h : s.rd Reg.ARY_DET_CFG_LANES &&& lock = s.rd Reg.ARY_DET_CFG_LANES)
    (rate : Nat) : (s.detectorShown lock rate).detLocked = true := by
  have hlanes : (s.detectorShown lock rate).rd Reg.ARY_DET_CFG_LANES = s.rd Reg.ARY_DET_CFG_LANES :=
    (State.rd_raise_ne _ _ _ (by decide)).trans (s.rd_wrs_ne _ (by simp +decide))
  have hlock : (s.detectorShown lock rate).rd Reg.ARY_DET_STAT_LOCK = lock :=
    (State.rd_raise_ne _ _ _ (by decide)).trans ((State.rd_wr_ne (s.wr Reg.ARY_DET_STAT_LOCK lock) (by decide) rate).trans
      ((State.rd_wr_self _ _ _).trans (Nat.mod_eq_of_lt hlt)))
  rw [State.detLocked, hlanes, hlock, h]
  simp

theorem State.detShow_of_locked (h : s.detLocked = true) : s.detShow = s := if_neg (by simp [State.detLost, h])

theorem exec_detectorLock {ch : Nat} (hch : ch < 4) (hr : s.inReset pARY = false)
    (hold : (s.rd Reg.ARY_DET_STAT_LOCK).testBit ch = false)
    (hall : s.rd Reg.ARY_DET_CFG_LANES &&& setBit (s.rd Reg.ARY_DET_STAT_LOCK) ch = s.rd Reg.ARY_DET_CFG_LANES) (rate : Nat) :
    exec (.detectorLockChange ch true rate) s = .next (s.detectorShown (setBit (s.rd Reg.ARY_DET_STAT_LOCK) ch) rate).settle := by
  have hnew : setBit (s.rd Reg.ARY_DET_STAT_LOCK) ch ≠ s.rd Reg.ARY_DET_STAT_LOCK := fun h => by
    have hset := setBit_testBit_self (s.rd Reg.ARY_DET_STAT_LOCK) ch
    rw [h, hold] at hset
    exact Bool.false_ne_true hset
  have hlt : setBit (s.rd Reg.ARY_DET_STAT_LOCK) ch < 16 := by
    exact Nat.or_lt_two_pow (n := 4) (s.regs.get_lt (by decide)) (Nat.pow_lt_pow_right (by decide) hch)
  have hlocked := State.detLocked_detectorShown hlt hall rate
  show execDetectorLockChange ch true rate s = _
  unfold execDetectorLockChange
  rw [if_neg (by simp [hch, hr, hnew])]
  have hshow : ((s.wrs [(Reg.ARY_DET_STAT_LOCK, setBit (s.rd Reg.ARY_DET_STAT_LOCK) ch), (Reg.ARY_DET_STAT_RATE, rate)]).raise
      pARY 4).detShow = s.detectorShown (setBit (s.rd Reg.ARY_DET_STAT_LOCK) ch) rate := State.detShow_of_locked hlocked
  simp only [if_true, hshow, hlocked, Bool.not_true, Bool.and_false, Bool.false_eq_true, if_false]
  rfl

theorem exec_detectorPhaseStep {ch : Nat} (hch : ch < 4) (hr : s.inReset pARY = false) (hf : s.bit Reg.ARY_DET_PHASE_FREEZE = false)
    (hlock : (s.rd Reg.ARY_DET_STAT_LOCK).testBit ch = true) (mid : Nat) :
    exec (.detectorPhaseStep ch mid) s = .next (s.wr (detPhase ch) (phaseTowards (s.rd (detPhase ch)) (mid % 8))).settle :=
  if_neg (by simp [hch, hr, hf, hlock])

/-! ### Check runs (R313 to R318) -/

theorem exec_checkRunStart (hl : s.live pARY = true) (hr : s.ary.run = none) {ss : Session} (hs : s.ary.session = some ss)
    (hman : ss.manual = true) (hm : s.manualOk = true) (left : Nat) : exec (.checkRunStart left) s = .next (s.startRun ss).settle := by
  show execCheckRunStart left s = _
  simp only [execCheckRunStart, hl, hr, hs, hman, hm]
  rfl

/-- The run in hand has ended. -/
def State.runEnded (s : State) : State := (s.modAry fun a => { a with run := none }).wr Reg.ARY_BC_STAT_RUNNING 0

/-- A run's end with its dark samples in hand and no excess of them. -/
def State.runMeasured (s : State) : State := s.runEnded.modAry fun a => { a with dark := false }

theorem State.rd_runMeasured {g : Fld} (h : g.key ≠ Reg.ARY_BC_STAT_RUNNING.key) : s.runMeasured.rd g = s.rd g := s.rd_wr_ne h 0

theorem State.runOk_runMeasured : s.runMeasured.runOk = s.runOk :=
  State.runOk_wr (f := Reg.ARY_BC_STAT_RUNNING) (by decide) s 0 (by decide) (by decide)

section
variable {dark : Int} {start count : Nat} {ss : Session} (hrun : s.ary.run = some (start, count)) (hses : s.ary.session = some ss)
  (stuck hit : List Nat)
include hrun hses

/-- A complete and sound run writes each slot's ratio and class, writes back and goes on. -/
theorem exec_checkRunComplete {darkN : Nat} (hn : 0 < darkN) {slots : List (Int × Nat)} (hlen : slots.length = count)
    (hslots : ∀ e ∈ slots, e.2 ≠ 0)
    (hdark : dark - sx 16 (s.rd Reg.ARY_BC_DARK_BASE) * darkN ≤ (s.rd Reg.ARY_BC_DARK_LIM : Int) * darkN)
    (hsp : s.ary.spoiled = false) (hok : s.runOk = true) : exec (.checkRunComplete dark darkN slots stuck hit) s =
      .next ((((slots.zipIdx.foldl (fun (t : State) e =>
        t.putResult (start + e.2) (s.rd Reg.ARY_BC_STAT_SESSION) (s.classOf (ratio e.1.1 e.1.2 dark darkN (s.rd Reg.ARY_BC_NOM_NOM)))
          (ratio e.1.1 e.1.2 dark darkN (s.rd Reg.ARY_BC_NOM_NOM))) s.runMeasured).writeBackRun
            ((List.range count).map fun i => start + i) hit).runAfter ss count stuck)).settle := by
  have hclass : ∀ r, s.runMeasured.classOf r = s.classOf r := fun r => by
    simp only [State.classOf, State.rd_runMeasured (g := Reg.ARY_BC_THR_WEAK_LO) (by decide),
      State.rd_runMeasured (g := Reg.ARY_BC_THR_ABS_LO) (by decide)]
  have hexcess : decide ((s.rd Reg.ARY_BC_DARK_LIM : Int) * darkN < dark - sx 16 (s.rd Reg.ARY_BC_DARK_BASE) * darkN) = false :=
    decide_eq_false (by omega)
  have hempty : (slots.any fun e => e.2 == 0) = false := List.any_eq_false.2 fun e he => by simpa using hslots e he
  have hspoiled : s.runMeasured.ary.spoiled = false := hsp
  have hmeasured : (if darkN = 0 then s.runEnded else s.runEnded.modAry fun a => { a with dark := false }) = s.runMeasured :=
    if_neg hn.ne'
  show execCheckRunComplete dark darkN slots stuck hit s = _
  unfold execCheckRunComplete
  simp only [hrun, hses]
  rw [if_neg (by simp only [hexcess, Bool.and_false]; decide)]
  rw [show (s.modAry fun a => { a with run := none }).wr Reg.ARY_BC_STAT_RUNNING 0 = s.runEnded from rfl, hmeasured]
  rw [if_neg (by simp [hempty, hn.ne', hlen, hspoiled, State.runOk_runMeasured, hok])]
  simp only [State.rd_runMeasured (s := s) (g := Reg.ARY_BC_STAT_SESSION) (by decide),
    State.rd_runMeasured (s := s) (g := Reg.ARY_BC_NOM_NOM) (by decide), hclass]
  rfl

/-- A run without dark samples is discarded. -/
theorem exec_checkRunComplete_noDark (slots : List (Int × Nat)) :
    exec (.checkRunComplete dark 0 slots stuck hit) s = .next s.runEnded.runDiscard.settle := by
  show execCheckRunComplete dark 0 slots stuck hit s = _
  unfold execCheckRunComplete
  simp only [hrun, hses]
  exact (if_neg (by simp)).trans (if_pos (by simp))

end

/-- A run is discarded, before its gap request is. -/
def State.runDropped (s : State) : State :=
  (((s.modAry fun a => { a with run := none, session := none, spoiled := false }).wr Reg.ARY_BC_STAT_RUNNING 0).raise pARY 6).aryShow

theorem State.runDropped_ary (s : State) : s.runDropped.ary = { s.ary with run := none, session := none, spoiled := false } :=
  ((State.setRunning_steps (mu := (· ≠ Part.ary)) (State.raise_steps (by decide) (Steps.refl _ _) pARY 6) pARY _).kept .ary).resolve_left
    fun hne => hne rfl

theorem State.runDropped_evt (s : State) : s.runDropped.evt pARY 6 = true := by
  rw [State.evt, State.runDropped, State.aryShow, State.rd_setRunning_ne _ (by decide)]
  exact State.evt_raise _ pARY (by decide)

/-- A discarded run ends its session, sets EVT_RAW[6] and, where the session is not manual, releases the gap. -/
theorem State.runDiscard_ends (s : State) : s.runDiscard.ary.run = none ∧ s.runDiscard.ary.session = none ∧ s.runDiscard.evt pARY 6 = true ∧
    ((s.ary.session.any fun x => !x.manual) = true → s.runDiscard.mot.gapBeam = false) := by
  have hdrop : s.runDiscard = if (s.ary.session.any fun x => !x.manual) = true then s.runDropped.gapRelease else s.runDropped := rfl
  by_cases hauto : (s.ary.session.any fun x => !x.manual) = true
  · rw [hdrop, if_pos hauto]
    have hary : s.runDropped.gapRelease.ary = s.runDropped.ary := rfl
    have hraw : s.runDropped.gapRelease.rd (Hdr.evtRaw pARY) = s.runDropped.rd (Hdr.evtRaw pARY) :=
      State.rd_wr_ne (s.runDropped.modMot fun m => { m with gapBeam := false }) (by decide) _
    rw [hary, State.evt, hraw, s.runDropped_ary]
    exact ⟨rfl, rfl, s.runDropped_evt, fun _ => rfl⟩
  · rw [hdrop, if_neg hauto, s.runDropped_ary]
    exact ⟨rfl, rfl, s.runDropped_evt, fun h => absurd h hauto⟩

theorem exec_writeBackApply (hp : s.bit Reg.ARY_BC_STAT_PEND_WB = true) (ho : s.stagingOpen = true) (hr : s.inReset pARY = false) :
    ∃ session : Nat, exec .writeBackApply s = .next (((((s.modAry fun a => { a with held := [], stuck := [] }).wr
        Reg.ARY_BC_STAT_PEND_WB 0).writeBack s.ary.held session []).writeStuck s.ary.stuck session)).settle ∧
      (session = s.rd Reg.ARY_BC_STAT_SESSION ∨ session = (s.rd Reg.ARY_BC_STAT_SESSION + 255) % 256) :=
  ⟨_, if_pos (by simp [hp, ho, hr]), by split <;> simp⟩

end

/-- Settles O49, command by command: what is written before a check is read leaves what the check looks at as it was. -/
theorem arrayCommandsComplete : Obligations.ArrayCommandsComplete := by
  refine ⟨fun s ag ha => ⟨exec_loadPassport ha, fun w a d hb => exec_hkGo ha hb w a d,
      fun all part hs hb hm => exec_aryBcStart ha hs hb hm all part⟩, fun s ag => exec_aryBcAbort,
    fun s img n hb hr hl hi hh ht hw hbank => exec_passportLoadComplete hb hr hl hi hh ht hw hbank n,
    fun s v addr data => ⟨fun h => exec_hkTransactionComplete_write h v, fun h => exec_hkTransactionComplete_read h v,
      fun hl hc => exec_temperaturePoll hl hc v, exec_arrayAlert⟩,
    fun s ch rate hch hr => ⟨fun hold hall => exec_detectorLock hch hr hold hall rate,
      fun mid hf hlock => exec_detectorPhaseStep hch hr hf hlock mid⟩,
    fun s left ss hl hr hs hman hm => exec_checkRunStart hl hr hs hman hm left,
    fun s dark darkN start count slots stuck hit ss hrun hses hn hlen hslots hdark hsp hok =>
      exec_checkRunComplete hrun hses stuck hit hn hlen hslots hdark hsp hok,
    fun s dark start count slots stuck hit ss hrun hses => ?_, fun s hp ho hr => ?_⟩
  · obtain ⟨hr, hs, hev, hgap⟩ := s.runEnded.runDiscard_ends
    refine ⟨_, exec_checkRunComplete_noDark hrun hses stuck hit slots, hr, hs, hev, fun hman => hgap ?_⟩
    rw [show s.runEnded.ary.session = some ss from hses]
    simp [hman]
  · obtain ⟨session, hexec, hnum⟩ := exec_writeBackApply hp ho hr
    exact ⟨_, session, hexec, rfl, hnum⟩

end Sys2Proof.Machine
end

section
/-!
PROOFS. Background calibration (R480 to R489): receivers, margin scans, rotations and alignment runs.
-/
namespace Sys2Proof.Machine

open Sys2Proof (AlnPulse)

/-! ### Receivers (R480, R481) -/

theorem unitStep_bounds (d : Int) : -1 ≤ unitStep d ∧ unitStep d ≤ 1 := by
  unfold unitStep
  omega

/-- The CTLE setting after a step. -/
def State.ctleNext (s : State) (rx : Nat) (ctle : Int) : Int :=
  if 256 ≤ (s.pak.rx.getD rx {}).since then max 0 (min 15 ((s.rd (eqCtle rx) : Int) + unitStep ctle)) else s.rd (eqCtle rx)

/-- The PHASE after a step. -/
def State.phaseNext (s : State) (rx : Nat) (ph : Int) : Int := ((s.rd (eqPhase rx) : Int) + unitStep ph) % 64

/-- A CTLE setting in its range stays there, and moves by the step asked for or, until 256 steps have passed or at the
range's end, not at all. -/
theorem State.ctleNext_bounds {s : State} {rx : Nat} (h : s.rd (eqCtle rx) ≤ 15) (ctle : Int) :
    0 ≤ s.ctleNext rx ctle ∧ s.ctleNext rx ctle ≤ 15 ∧ (s.ctleNext rx ctle = s.rd (eqCtle rx) ∨
      (256 ≤ (s.pak.rx.getD rx {}).since ∧ s.ctleNext rx ctle = s.rd (eqCtle rx) + unitStep ctle)) := by
  obtain ⟨hlow, hhigh⟩ := unitStep_bounds ctle
  unfold State.ctleNext
  split
  next hs => exact ⟨by omega, by omega, by omega⟩
  next => exact ⟨by omega, by omega, .inl rfl⟩

/-- What a step of a receiver writes: the monitor, the CTLE setting and the PHASE. -/
def adaptWrites (rx w h c p : Nat) : List (Fld × Nat) := [(eqEyeW rx, w), (eqEyeH rx, h), (eqCtle rx, c), (eqPhase rx, p)]

/-- The writes of a step land in fields of their own, whole. -/
theorem State.rd_adaptWrites (s : State) {rx w h c p : Nat} (hrx : rx < 6) (hw : w < 2 ^ 8) (hh : h < 2 ^ 8) (hc : c < 2 ^ 4) (hp : p < 2 ^ 6) :
    (s.wrs (adaptWrites rx w h c p)).rd (eqEyeW rx) = w ∧ (s.wrs (adaptWrites rx w h c p)).rd (eqEyeH rx) = h ∧
      (s.wrs (adaptWrites rx w h c p)).rd (eqCtle rx) = c ∧ (s.wrs (adaptWrites rx w h c p)).rd (eqPhase rx) = p := by
  have hdistinct : ((adaptWrites rx w h c p).map fun e => e.1.key).Nodup :=
    show ([eqEyeW rx, eqEyeH rx, eqCtle rx, eqPhase rx].map Fld.key).Nodup by interval_cases rx <;> decide
  obtain ⟨hww, hhw, hcw, hpw⟩ : (eqEyeW rx).width = 8 ∧ (eqEyeH rx).width = 8 ∧ (eqCtle rx).width = 4 ∧ (eqPhase rx).width = 6 := by
    interval_cases rx <;> decide
  have hrd : ∀ f v, (f, v) ∈ adaptWrites rx w h c p → (s.wrs (adaptWrites rx w h c p)).rd f = v % 2 ^ f.width :=
    fun f v => State.rd_wrs_of_mem s (f := f) (v := v) hdistinct
  refine ⟨(hrd _ w (by simp [adaptWrites])).trans ?_, (hrd _ h (by simp [adaptWrites])).trans ?_, (hrd _ c (by simp [adaptWrites])).trans ?_,
    (hrd _ p (by simp [adaptWrites])).trans ?_⟩
  · rw [hww, Nat.mod_eq_of_lt hw]
  · rw [hhw, Nat.mod_eq_of_lt hh]
  · rw [hcw, Nat.mod_eq_of_lt hc]
  · rw [hpw, Nat.mod_eq_of_lt hp]

/-- A receiver that is not frozen takes one step. -/
theorem receiverAdaptationStep_steps {s : State} {rx : Nat} (hrx : rx < 6) (hr : s.inReset (if rx < 4 then pPAK else pMOT) = false)
    (hf : s.bit (eqFreeze rx) = false) (hc : s.rd (eqCtle rx) ≤ 15) (ctle ph : Int) (taps : List Int) (w h : BitVec 8) :
    ∃ u : State, exec (.receiverAdaptationStep rx ctle ph taps w h) s = .next u.settle ∧ u.rd (eqEyeW rx) = w.toNat ∧
      u.rd (eqEyeH rx) = h.toNat ∧ (u.rd (eqCtle rx) : Int) = s.ctleNext rx ctle ∧ (u.rd (eqPhase rx) : Int) = s.phaseNext rx ph := by
  obtain ⟨hlow, hhigh, -⟩ := State.ctleNext_bounds hc ctle
  have hphase : 0 ≤ s.phaseNext rx ph ∧ s.phaseNext rx ph < 64 := by unfold State.phaseNext; omega
  obtain ⟨hrw, hrh, hrc, hrp⟩ := s.rd_adaptWrites (w := w.toNat) (h := h.toNat) (c := (s.ctleNext rx ctle).toNat)
    (p := (s.phaseNext rx ph).toNat) hrx w.isLt h.isLt (by omega) (by omega)
  exact ⟨_, (if_neg (by simp [hrx, hr])).trans (if_neg (by simp [hf])), hrw, hrh,
    (congrArg Nat.cast hrc).trans (Int.toNat_of_nonneg hlow), (congrArg Nat.cast hrp).trans (Int.toNat_of_nonneg hphase.1)⟩

/-! ### Margin scans (R483, R484) -/

section
variable {s : State} {n : Nat} (hn : n < 80) (hro : s.laneRole n = roSTANDBY) (hp : s.inReset pPAK = false) (hq : s.inReset (pQLK n) = false)
include hn hro hp hq

theorem exec_marginScanStep_passed : exec (.marginScanStep n true) s = .next (s.modLane n fun q =>
    { q with scan := { (s.laneAt n).scan with step := (s.laneAt n).scan.step + 1 } }).settle :=
  (if_neg (by simp [hn, hro, hp, hq])).trans (if_pos rfl)

theorem exec_marginScanStep_height (hw : (s.laneAt n).scan.width = false) : exec (.marginScanStep n false) s = .next (s.modLane n fun q =>
    { q with scan := { (s.laneAt n).scan with width := true, step := 0, height := 10 * (s.laneAt n).scan.step } }).settle :=
  (if_neg (by simp [hn, hro, hp, hq])).trans ((if_neg (by decide)).trans (if_pos hw))

theorem exec_marginScanStep_width (hw : (s.laneAt n).scan.width = true) (hpr : (s.laneAt n).scan.preset < 7) :
    exec (.marginScanStep n false) s = .next (s.modLane n fun q =>
      { q with scan := { (s.laneAt n).scan with preset := (s.laneAt n).scan.preset + 1, width := false, step := 0, height := 0,
                                                now := (s.laneAt n).scan.now ++ [(2 * (s.laneAt n).scan.step, (s.laneAt n).scan.height)] } }).settle :=
  (if_neg (by simp [hn, hro, hp, hq])).trans ((if_neg (by decide)).trans ((if_neg (by simp [hw])).trans (if_pos hpr)))

theorem exec_marginScanStep_last (hw : (s.laneAt n).scan.width = true) (hpr : 7 ≤ (s.laneAt n).scan.preset) :
    exec (.marginScanStep n false) s =
      .next (s.scanEnds n ((s.laneAt n).scan.now ++ [(2 * (s.laneAt n).scan.step, (s.laneAt n).scan.height)])).settle :=
  (if_neg (by simp [hn, hro, hp, hq])).trans ((if_neg (by decide)).trans ((if_neg (by simp [hw])).trans (if_neg (by omega))))

end

/-! ### Rotations (R485, R486) -/

section
variable {s : State}

/-- Two lanes exchange their roles, and the logical lane is being taken over. -/
def State.rotated (s : State) (old new : Nat) : State :=
  let t := ((s.setLaneRole old roSTANDBY).wr (Reg.QLK_STAT_LOGICAL old) 0x7F).modLane old fun q => { q with setsDue := 2 }
  let u := ((t.setLaneRole new roDATA).wr (Reg.QLK_STAT_LOGICAL new) (s.rd (Reg.QLK_STAT_LOGICAL old))).modLane new
    fun q => { q with setsDue := 2, unlocked := 0 }
  (u.modPak fun p => { p with rot := some (old, new), takeover := some (s.rd (Reg.QLK_STAT_LOGICAL old), new) }).countShow

theorem exec_laneRotation (hd : s.calDwell = true) (hr : s.pak.rotDue = true) (hl : s.lstate = lsREADY) (ht : s.pak.takeover = none)
    (ha : s.allAcked = true) {old new : Nat} (ho : s.oldestData = some old) (hn : s.freshSpare = some new) :
    exec .laneRotation s = .next (s.rotated old new).settle := by
  show execLaneRotation s = _
  unfold execLaneRotation
  rw [if_neg (by simp [hd, hr, hl, ht, ha])]
  simp only [ho, hn]
  rfl

theorem exec_rotationAdoptionTimeout {r : Nat × Nat} (h : s.pak.rot = some r) :
    exec .rotationAdoptionTimeout s = .next s.unrotate.calShow.settle :=
  if_pos (by simp [h])

/-! ### Alignment runs (R487 to R489) -/

/-- The run that an alignment begins with. -/
def State.alnNew (s : State) (w : Waybill) (p : Plan) (now : Int) : AlnRun :=
  { code := min (s.rd Reg.PAK_ALN_CFG_CODE) (2 ^ p.n - 1), dur := min (s.rd Reg.PAK_ALN_CFG_CODE) (2 ^ p.n - 1) * w.td,
    period := max (128000 * s.rd Reg.PAK_ALN_CFG_PERIOD) (min (s.rd Reg.PAK_ALN_CFG_CODE) (2 ^ p.n - 1) * w.td + 256000),
    spacing := ceilDiv p.tMin 16, k := p.lanes, repeats := s.rd Reg.PAK_ALN_CFG_REPEAT, n := p.n, order := s.rd Reg.PAK_CFG_ORDER, opened := now }

/-- The run's streams are open. -/
def State.alnOpened (s : State) (r : AlnRun) : State :=
  (s.modPak fun q => { q with aln := some r, alnNow := false, streams := alnStreams r.k r.n r.order r.repeats }).wr Reg.PAK_ALN_STAT_RUNNING 1

theorem exec_alignmentRunStart {w : Waybill} {p : Plan} (hc : s.cur = some (w, p)) (hd : s.calDwell = true) (ha : s.pak.alnDue = true)
    (hr : s.pak.rotDue = false) (hn : s.pak.aln = none) (hok : s.alnOk w = true) (now : Int) :
    exec (.alignmentRunStart now) s = .next (s.alnOpened (s.alnNew w p now)).settle := by
  show execAlignmentRunStart now s = _
  unfold execAlignmentRunStart
  simp only [hc]
  exact (if_neg (by simp [hd, ha, hr, hn])).trans (if_neg (by simp [hok]))

section
variable {r : AlnRun} (ha : s.pak.aln = some r) (hb : r.bad = 0)
include ha hb

theorem exec_alignmentTickEdge (hl : r.launched < r.ticks) (hack : s.tickAcked alnSeq r.k r.launched = true) (hm : s.live pMOT = true) :
    exec .alignmentTickEdge s = .next (((s.emit (.edge r.launched 0 (r.edge r.launched))).modMot fun m =>
      { m with lastEdge := some (r.launched, r.edge r.launched, r.spacing, 0), nextPhase := 1, resDone := true }).modPak fun p =>
        { p with aln := some { r with launched := r.launched + 1 } }).settle := by
  show execAlignmentTickEdge s = _
  unfold execAlignmentTickEdge
  simp only [ha]
  exact (if_neg (by simp [hb])).trans ((if_neg (by omega)).trans (if_neg (by simp [hack, hm])))

theorem exec_alignmentRunComplete {ps : List AlnPulse} (hl : r.ticks ≤ r.launched) (hlen : ps.length = r.ticks)
    (hdark : ∀ e ∈ ps, s.alnDark e = false) (hpos : ∀ l < r.k, 0 < (s.alnSums r ps l).1.1) :
    exec (.alignmentRunComplete ps) s = .next (s.alnApply r ps).settle := by
  have hany : (ps.any fun e => s.alnDark e) = false := List.any_eq_false.2 fun e he => by simp [hdark e he]
  have hsums : ((List.range r.k).any fun l => decide ((s.alnSums r ps l).1.1 ≤ 0)) = false :=
    List.any_eq_false.2 fun l hlt => by simpa using hpos l (List.mem_range.1 hlt)
  show execAlignmentRunComplete ps s = _
  unfold execAlignmentRunComplete
  simp only [ha]
  exact (if_neg (by simp [hb])).trans ((if_neg (by omega)).trans ((if_neg (by simp [hlen, hany])).trans (if_neg (by simp [hsums]))))

end
end

/-- Settles O50: a receiver's step stays in its ranges, and every other step takes the branch its conditions choose. -/
theorem calibrationStepsComplete : Obligations.CalibrationStepsComplete := by
  refine ⟨fun s rx ctle ph taps w h hrx hr hf _ hc => ?_,
    fun s n hn hro hp hq => ⟨exec_marginScanStep_passed hn hro hp hq, exec_marginScanStep_height hn hro hp hq,
      exec_marginScanStep_width hn hro hp hq, exec_marginScanStep_last hn hro hp hq⟩,
    fun s old new hd hr hl ht ha ho hn => exec_laneRotation hd hr hl ht ha ho hn, fun s r => exec_rotationAdoptionTimeout,
    fun s w p now hc hd ha hr hn hok => ⟨_, _, exec_alignmentRunStart hc hd ha hr hn hok now, rfl, rfl, rfl, rfl, rfl, rfl, rfl, rfl, rfl,
      State.rd_wr_self _ _ _⟩,
    fun s r ha hb => ⟨exec_alignmentTickEdge ha hb, fun ps => exec_alignmentRunComplete ha hb⟩⟩
  obtain ⟨-, hhigh, hmove⟩ := State.ctleNext_bounds hc ctle
  obtain ⟨u, hexec, hw, hh, hctle, hphase⟩ := receiverAdaptationStep_steps hrx hr hf hc ctle ph taps w h
  exact ⟨u, hexec, hw, hh, hphase, by omega, by rw [hctle]; exact hmove⟩

end Sys2Proof.Machine
end
